-- ==== Sys2Proof/Word.lean ====
section
/-! DEFINITION. The plain word types of the TN8448: bytes, the quality word, the two IEEE 754 formats and the ET96 time. -/

namespace Sys2Proof

/-- One byte on a wire, in a record or in DRAM. -/
abbrev Byte := BitVec 8

/-- The 16-bit quality word of R10. -/
abbrev Quality := BitVec 16

/-- An IEEE 754 binary32 value as its 32 bits (type code 0x0A of R54). -/
structure F32 where
  bits : BitVec 32
  deriving DecidableEq, Repr

/-- An IEEE 754 binary64 value as its 64 bits (type code 0x0B of R54). -/
structure F64 where
  bits : BitVec 64
  deriving DecidableEq, Repr

/-- A time on the ET scale in units of 2^-32 ns (R87): the 96-bit ET96 read as one number,
nanoseconds in bits 95..32 and the fraction in bits 31..0. -/
abbrev Et := Nat

end Sys2Proof
end

