-- ==== Sys2Proof/Syntax.lean ====
section
/-! DEFINITION. The commands the block takes from outside: `Instr`, one constructor per row of
spec/opcode_table.json, and the plain data types of their operands. -/

namespace Sys2Proof

/-- A host request's envelope (R62): the session it names and its SEQUENCE (R66).
Every command that a host starts over the dictionary protocol carries one. -/
structure Req where
  session : Nat
  seq : Nat
  deriving DecidableEq, Repr

/-- A value of an Almanac object (R54): numbers (BOOL, U8-U64, I8-I64, ET96, and F32/F64 as their bit
patterns) or raw bytes (OCTETS, STRING, array elements). -/
inductive Value where
  | int (v : Int)
  | bytes (b : List Byte)
  deriving DecidableEq, Repr

/-- The far end of a UDP transport: the port it is reached by, the MAC address its frames go to, its 16-byte address and its UDP port. -/
structure UdpPeer where
  port : Fin 6
  mac : List Byte
  address : List Byte
  udpPort : Nat
  deriving DecidableEq, Repr

/-- How a session reaches the device (R61, R82): the host SPI, or UDP on a port. -/
inductive Transport where
  | hostSpi
  | udp (peer : UdpPeer)
  deriving DecidableEq, Repr

/-- What comes at a tick, with the fraction of that tick at which it came, as the TDC measures it (R107, R108). -/
structure Stamped (α : Type) where
  item : α
  tdc : Nat
  deriving DecidableEq, Repr

/-- When a Sync to be forwarded came: how many ticks ago, and the TDC's fraction (R105). -/
structure RxTime where
  ago : Nat
  tdc : Nat
  deriving DecidableEq, Repr

/-- A frame from a stream's TCP connection, and the port and TDC fraction of the segment that brought it (R202). -/
structure TcpSegment where
  port : Fin 6
  tdc : Nat
  frame : List Byte
  deriving DecidableEq, Repr

/-- The five message classes of a Zonov link (R17). -/
inductive MsgClass where
  | bulk | watch | release | alarm | mgmt
  deriving DecidableEq, Repr

/-- A value with its quality word and age: a watch value, history element or stream-record entry (R243). -/
structure Entry where
  value : F32
  quality : Quality
  age : Nat
  deriving DecidableEq, Repr

/-- What one AVSBus rail answered in a loop period (R27). -/
structure AvsReply where
  acknowledged : Bool
  statusFault : Bool
  deriving DecidableEq, Repr

/-- The time reference a measurement or a setting names (0x2000:16). -/
inductive RefKind where
  | none | ptp | irigB | pps
  deriving DecidableEq, Repr

/-- A PTP message as decoded from a received frame (R103). Times are in 2^-32 ns. -/
structure PtpMsg where
  /-- IEEE 1588 messageType: 0 Sync, 2 Pdelay_Req, 3 Pdelay_Resp, 8 Follow_Up, 0xA Pdelay_Resp_Follow_Up, 0xB Announce. -/
  msgType : Nat
  /-- Carried on layer 2 with one of the two destinations of R103. -/
  layer2 : Bool
  domain : Nat
  twoStep : Bool
  sourceId : List Byte
  sourcePort : Nat
  seqId : Nat
  correction : Int
  /-- originTimestamp, preciseOriginTimestamp, requestReceiptTimestamp or responseOriginTimestamp. -/
  stamp : Et
  logInterval : Int
  requestingId : List Byte
  requestingPort : Nat
  gmIdentity : List Byte
  gmPriority1 : Nat
  gmClockClass : Nat
  gmAccuracy : Nat
  gmVariance : Nat
  gmPriority2 : Nat
  stepsRemoved : Nat
  utcOffset : Int
  utcOffsetValid : Bool
  leap61 : Bool
  leap59 : Bool
  /-- totalTimeInaccuracy of an IEEE_C37_238 TLV, in ns, when present. -/
  c37Inaccuracy : Option Nat
  /-- An ALTERNATE_TIME_OFFSET_INDICATOR TLV's offset in seconds, when present. -/
  alternateOffset : Option Int
  deriving DecidableEq, Repr

/-- A parsed CFG-2 or CFG-3 frame (R199). -/
structure CfgFrame where
  cfg3 : Bool
  rate : Int
  timeBase : Nat
  format : Nat
  /-- Per PMU block: phasors, analog values, digital words. -/
  blocks : List (Nat × Nat × Nat)
  /-- Per phasor in frame order: is it a current. -/
  currents : List Bool
  /-- PHUNIT of CFG-2 per phasor, in 10^-5 V or A per bit. -/
  phUnits : List Nat
  /-- ANUNIT of CFG-2 per analog value, in 10^-5 units per bit. -/
  anUnits : List Int
  /-- The magnitude scale records of CFG-3, per phasor and per analog value. -/
  phScales : List F32
  anScales : List F32
  fnom : Nat
  deriving DecidableEq, Repr

/-- A received GOOSE message, decoded from its frame (R326). -/
structure GooseMsg where
  dstMac : List Byte
  srcMac : List Byte
  appId : Nat
  gocbRef : List Byte
  datSet : List Byte
  goId : List Byte
  timeAllowedToLive : Nat
  stNum : Nat
  sqNum : Nat
  simulation : Bool
  confRev : Nat
  ndsCom : Bool
  /-- BOOLEAN-Quality pairs: the value and the 13-bit Quality string, bit 0 first in the list of R325. -/
  bools : List (Bool × BitVec 13)
  floats : List (F32 × BitVec 13)
  /-- allData has exactly the BOOLEAN-Quality then FLOAT32-Quality pairs above and nothing else. -/
  wellTyped : Bool
  deriving DecidableEq, Repr

/-- The state one logic block keeps between cycles (R348, R350, R354). -/
structure BlockState where
  prev : F32
  prevQuality : Quality
  prevA : Bool
  prevB : Bool
  count : Int
  elapsed : Nat
  running : Bool
  /-- The block has not been evaluated since its reset (R354). -/
  fresh : Bool
  deriving DecidableEq, Repr

/-- The output image the acting unit mirrors (R475). -/
structure OutputImage where
  bos : List Bool
  published : List Entry
  cycle : Nat
  base : Et
  imageId : Nat
  test : Bool
  special : Bool
  deriving DecidableEq, Repr

/-- The state of one Horizon tie (R291, R308). -/
structure TieState where
  /-- 0 DISABLED, 1 CLOSED, 2 OPEN, 3 EXCLUDED. -/
  state : Nat
  last : Nat
  cause : Nat
  holding : Bool
  refSet : Bool
  prevSet : Bool
  fRun : Nat
  cRun : Nat
  df : F64
  dTheta : F64
  dThetaRef : F64
  dThetaPrev : F64
  slips : Nat
  deriving DecidableEq, Repr

/-- One Photometer register (R373, R374): the 80-bit counter ROLL:VALUE and its residue. -/
structure PmRegister where
  counter : Nat
  residue : F64
  deriving DecidableEq, Repr

/-- A BAND_SUMMARY element (R284). -/
structure BandSummary where
  pdCount : Nat
  grCount : Nat
  worstSignal : Nat
  pd : Bool
  gr : Bool
  worstZeta : F32
  worstFreq : F32
  update : Nat
  deriving DecidableEq, Repr

/-- What one attempt at reading the PUF gave (R439-R441): which helper copy's reconstruction matched its check value. -/
structure PufRead where
  copyA : Bool
  copyB : Bool
  berPpm : Nat
  deriving DecidableEq, Repr

/-- What a wake finds besides its lanes (R37): the attempts at reading the PUF, and the channels whose calibration fails. -/
structure WakeReads where
  attempts : List PufRead
  failed : List (Fin 48)
  deriving DecidableEq, Repr

/-- What the pair link exchanges at link-up (R474). -/
structure PairHello where
  trained : Bool
  serial : List Byte
  unitId : Nat
  generation : Nat
  deriving DecidableEq, Repr

/-- The commands of the TN8448: one constructor per row of spec/opcode_table.json, in its order.
Times of outside events are the present tick; a command that the spec ties to a time or a condition
takes effect only when that time has come or that condition holds in the state. -/
inductive Instr where
  -- The Almanac and the dictionary protocol
  | registerWrite (r : Req) (index sub : Nat) (value : List Byte)
  | read (r : Req) (index sub : Nat) (staged : Bool)
  | write (r : Req) (index sub typeCode : Nat) (value : List Byte)
  | stage (r : Req) (index sub typeCode : Nat) (value : List Byte)
  | commit (r : Req)
  | commitValidationEnd
  | commitActivate
  | discard (r : Req)
  | blockRead (r : Req) (index sub first count : Nat) (staged : Bool)
  | blockWrite (r : Req) (index sub first count : Nat) (elements : List Byte) (staged : Bool)
  | subscribe (r : Req) (index sub mode minInterval period : Nat)
  | command (r : Req) (index sub typeCode : Nat) (value : List Byte)
  | openSession (t : Transport) (role maxPayload : Nat) (qh nh mac : List Byte)
  | close (r : Req)
  | opcodeUnknown (r : Req) (opcode : Nat)
  | sessionIdleTimeout (session : Nat)
  | subscriptionPeriod (subscription : Nat)
  | onChangeIntervalExpiry (subscription : Nat)
  | resultAck (r : Req) (result : Nat)
  | commandComplete (result : Nat)
  | restartCmd (r : Req)
  | stageDefaultsCmd (r : Req)
  | readStatus
  | writePdu (pdu : List Byte)
  | readPdu (clocked : Nat)
  | hspiIntRearm
  -- Dies, clockless fabric and pacing
  | zonovMessageReceive (link : Fin 12) (cls : MsgClass) (drained latency failedChecks : Nat)
  | zonovLinkDown (link : Fin 12)
  | paceWindow (completions : List Nat)
  | avsLoopPeriod (replies : List AvsReply)
  | avsAtLimit (rail : Fin 5)
  | lanePaceReport (lane : Fin 4)
  | spillLeaseExpiry (lane : Fin 4)
  | laneReloadComplete (lane : Fin 4) (ok : Bool)
  | reloadCmd (r : Req) (lane : Nat)
  | quietCmd (r : Req)
  | quietEntryComplete
  | wakeAtExpiry
  | dramScrubPass (corrected : Nat) (uncorrected : List (Fin 2 × Nat))
  -- Ephemeris time base, PTP and timed I/O
  | incrementWrite (r : Req) (increment : Nat)
  | incrementApply
  | stepNow (r : Req)
  | stepNextSecond (r : Req)
  | stepApply
  | offsetReport (r : Req) (offset : Int)
  | refPresentWrite (r : Req) (present : Nat)
  | refTimeout
  | holdoverLimitExpiry
  | servoMeasurement (ref : RefKind) (offset : Int)
  | leapSecond
  | ptpMessageReceive (port : Fin 6) (msg : PtpMsg) (tdc : Nat)
  | ptpAnnounceTimeout (port : Fin 6)
  | ptpMessageTransmit (port : Fin 6) (msgType seqId tdc : Nat)
  | tcForwardSync (ingress egress : Fin 6) (msg : PtpMsg) (rx : RxTime) (tdc : Nat)
  | tcForwardFollowUp (ingress egress : Fin 6) (msg : PtpMsg)
  | tcResidenceExpiry (egress : Fin 6)
  | txtsClear (r : Req) (port : Fin 6)
  | armAtWrite (r : Req) (out : Fin 8) (at_ : Et)
  | toOneShotEdge (out : Fin 8)
  | toPeriodicEdge (out : Fin 8)
  | toPulseEnd (out : Fin 8)
  | tiEdge (input : Fin 4) (rising : Bool) (tdc : Nat)
  | irigFrame (pulses : Stamped (List Nat))
  | irigReferenceTimeout
  | ppsEdge (tdc highTimeNs : Nat)
  | ppsReferenceTimeout
  -- Local channels
  | fixedRateSample (codes : List Int)
  | trackedSample
  | trackedCycleBoundary
  | syncResetCmd (r : Req)
  | syncResetSampleZero
  | bayReport (bay : Fin 8)
  | openWireSample (ch : Fin 48) (outside : Bool)
  | shortEvaluation (ch : Fin 48)
  | supClear (r : Req) (index : Nat)
  | counterClear (r : Req) (index sub value : Nat)
  -- Network ports and stream ingest
  | frameReceive (port : Fin 6) (frame : List Byte) (fcsOk : Bool) (tdc : Nat)
  | prpEntryForget (pair : Fin 2) (source : List Byte)
  | prpSupervisionTransmit (pair : Fin 2)
  | pauseRepeat (port : Fin 6)
  | pauseFrameReceive (port : Fin 6) (quanta : Nat)
  | pauseExpiry (port : Fin 6)
  | pauseLimit (port : Fin 6)
  | pauseLimitEnd (port : Fin 6)
  | portLinkChange (port : Fin 6) (up : Bool) (speed : Nat)
  | txDescriptorPost (port : Fin 6) (cls : Fin 4) (frame : Option (List Byte))
  | ingestQueueWrite (port : Fin 6)
  | cfgFrameReceive (stream : Nat) (cfg : CfgFrame)
  | tcpConnectAttempt (stream : Nat) (connected : Bool)
  | tcpRetryExpiry (stream : Nat)
  | tcpCfgWaitTimeout (stream : Nat)
  | tcpStreamFrame (stream : Nat) (segment : TcpSegment)
  | streamSilentTimeout (stream : Nat)
  -- Transit engine
  | frameMatch (lane : Fin 4)
  | lateClear (r : Req) (stream : Nat)
  | wMinStrobe (k : Nat)
  | partialReceive (lane : Fin 4)
  | noticeReceive (lane : Fin 4)
  | deadlineNotice (k : Nat)
  | mergeClose (k : Nat)
  | transitRelease
  | transitRateChanged
  | taskDispatch (lane : Fin 4)
  -- Spectroscope
  | interAreaUpdate (lane : Fin 4)
  | localBlockReceive (lane : Fin 4)
  | bandContribution (lane : Fin 4)
  | bandMergeClose
  | shapeAnswer
  | spectroResetCmd (r : Req) (target : Nat)
  -- Horizon and the alarm path
  | horizonEvaluation
  | lomHalfCycle (bay : Fin 8)
  | lomHoldExpiry (bay : Fin 8)
  | alarmDelivery
  | minOnExpiry (alarm : Fin 256)
  | alarmAck (r : Req) (alarm : Nat)
  | almPulseEnd (pin : Fin 4)
  | almForce (r : Req) (pin : Fin 4) (force : Nat)
  -- Concentrated output streams and GOOSE
  | egressTcpConnect (out : Fin 16) (port : Fin 6)
  | cmdDataOff (out : Fin 16)
  | cmdDataOn (out : Fin 16)
  | cmdSendHeader (out : Fin 16)
  | cmdSendCfg1 (out : Fin 16)
  | cmdSendCfg2 (out : Fin 16)
  | cmdSendCfg3 (out : Fin 16)
  | badCommand (out : Fin 16) (cmd : Nat)
  | gooseStateChange (pub : Fin 16)
  | gooseRetransmit (pub : Fin 16)
  | gooseFrameReceive (port : Fin 6) (msg : Stamped GooseMsg)
  | gooseTalExpired (sub : Fin 64)
  -- Orrery and binary I/O
  | orrerySnapshot
  | orreryEvaluationEnd
  | orreryOutputWrite
  | orreryStart
  | reenableCmd (r : Req)
  | boShortDetect (out : Fin 16)
  | boShortRetry (out : Fin 16)
  | boLoadSense (out : Fin 16) (load : Bool)
  | biSample (input : Fin 24) (millivolts : Int)
  -- Photometer
  | countSet (r : Req) (counter : Fin 24) (count : Nat)
  | pmCycleEnd (bay : Fin 8) (vn : List Int)
  | pmSave
  | pmResetCmd (r : Req) (bay : Nat)
  | pmSnapshotCmd (r : Req)
  | pmSnapshotComplete
  | demandBoundary (bay : Fin 8)
  -- Plate recorder and Shutter
  | plateComplete
  | rearmExpiry
  | autoTrigger
  | stationTriggerEdge (tdc : Nat)
  | xtrigRelease
  | triggerCmd (r : Req) (trigger : Nat)
  | resumeCmd (r : Req)
  | releaseCmd (r : Req) (plate : Nat)
  | exportCmd (r : Req) (plate : Nat)
  | exportSeek (r : Req) (block : Nat)
  | exportChunkReady (session : Nat)
  -- Logbook and the compression engine
  | flashMirrorWrite (cut : Bool)
  | logSelect (r : Req) (sequence : Nat)
  | logBlockReady (session : Nat)
  | logClear (r : Req)
  | flashClear (r : Req)
  | compress (descriptor : Nat)
  | decompress (descriptor : Nat)
  | compressJobStop (badRead : Option (Fin 2 × Nat))
  | compressJobResume (descriptor : Nat)
  | selftestCmd (r : Req)
  -- Key store, boot measurement and tamper
  | generate (r : Req)
  | deriveSlot (r : Req)
  | importKey (r : Req)
  | destroy (r : Req)
  | sign (r : Req)
  | verify (r : Req)
  | encrypt (r : Req)
  | decrypt (r : Req)
  | mac (r : Req)
  | derive (r : Req)
  | wrap (r : Req)
  | attest (r : Req)
  | tamperLoopSample (millivolts : List Nat)
  | tamperLatch (source : Fin 9)
  | tamperClearCmd (r : Req)
  -- Redundant pairs and the witness
  | pairClaim
  | actingStart
  | peerClaimChange (held : Bool)
  | deposeAssert
  | deposeRestart
  | pairLinkChanged (hello : PairHello)
  | outputImageReceive (image : OutputImage)
  | blockStateReceive (cycle : Nat) (blocks : List (Nat × Nat × BlockState))
  | tieStateReceive (k : Nat) (ties : List (Nat × TieState))
  | pmRegisterMirror (registers : List (List PmRegister)) (lastCycles : List Et)
  | bandSummaryMirror (k : Nat) (summaries : List BandSummary)
  | gooseCountMirror (pub : Fin 16) (stNum sqNum : Nat)
  | pairHoldExpiry
  | poll (frame : List Byte)
  | witnessPollPeriod
  | status (frame : List Byte)
  | statusTimeout (unit : Fin 2)
  | witnessDepose (unit : Fin 2)
  | permitLapse
  | witnessLost
  | handoverCmd (r : Req)
  -- Start-up, firmware update and recovery
  | resetNRelease (unitId witMode recoverLow aonLost powerOn : Bool)
  | stagePuf (attempts : List PufRead)
  | stageRom
  | stageStage2
  | stageMain
  | stageMicrocode
  | stageCalibration (failed : List (Fin 48))
  | acquisitionEnd
  | acquisitionTimeout
  | watchdogExpiry
  | configSave
  | trialEnd (image : Fin 3)
  | prepare (r : Req)
  | download (r : Req) (image : Fin 3) (first : Nat) (bytes : List Byte)
  | fwVerify (r : Req)
  | activate (r : Req)
  | abandon (r : Req)
  | enterRecovery (r : Req)
  -- Events, fault qualifiers and counters
  | eventAck (r : Req) (source : Nat)
  | irqRearm (pin : Fin 4)
  | counterSnapshotCmd (r : Req)
  | snapPeriodExpiry
  | monitorSample (temperatures : List F32) (rails : List Nat)
  | resetNAssert
  | wakeComplete (laneOk : List Bool) (found : WakeReads)
  | boShortRetryHold (out : Fin 16)
  | deposeRelease
  deriving DecidableEq, Repr

end Sys2Proof
end

