-- ==== Sys2Proof/Decode.lean ====
section
/-! DEFINITION. Commands by the bits of spec/opcode_table.json: no row of the table has bits. -/

namespace Sys2Proof

/-- The command that a word spells: none, as the table gives no row any bits. -/
def decodeTableWord (_nbits _w : Nat) : Option Instr := none

end Sys2Proof
end

