-- ==== Sys2Proof/Machine/Bytes.lean ====
section
/-! DEFINITION. Byte strings, big-endian fields (R54), bit fields and the checksums the manual names
(CRC-16 of R187, CRC-CCITT of R193, CRC-32 of R351, and the Internet checksum of R190). -/

namespace Sys2Proof.Machine

/-- The byte with value `n` mod 256. -/
def byte (n : Nat) : Byte := BitVec.ofNat 8 n

/-- `n` as `w` bytes, most significant first (R54); only the low 8·w bits of `n` count. -/
def beBytes : Nat → Nat → List Byte
  | 0, _ => []
  | w + 1, n => byte (n >>> (8 * w)) :: beBytes w n

/-- The number a byte string spells, most significant byte first. -/
def beNat (b : List Byte) : Nat := b.foldl (fun a x => a * 256 + x.toNat) 0

/-- `w` bytes spelling an integer in two's complement (R54). -/
def beInt (w : Nat) (v : Int) : List Byte := beBytes w (v % (2 ^ (8 * w) : Nat)).toNat

/-- A number of `w` bits read as two's complement. -/
def toSigned (w n : Nat) : Int := if n < 2 ^ (w - 1) then (n : Int) else (n : Int) - (2 ^ w : Nat)

/-- An integer's low `w` bits as a natural number. -/
def lowBits (w : Nat) (v : Int) : Nat := (v % ((2 ^ w : Nat) : Int)).toNat

/-- `n` bytes from offset `at_`; bytes past the end are missing. -/
def slice (b : List Byte) (at_ n : Nat) : List Byte := (b.drop at_).take n

/-- The big-endian number in `n` bytes at offset `at_`. -/
def field (b : List Byte) (at_ n : Nat) : Nat := beNat (slice b at_ n)

/-- Exactly `n` bytes: cut, or filled with zeros at the end. -/
def padTo (n : Nat) (b : List Byte) : List Byte := b.take n ++ List.replicate (n - b.length) 0

/-- Exactly `n` bytes, filled with spaces (0x20) at the end. -/
def padSpaces (n : Nat) (b : List Byte) : List Byte := b.take n ++ List.replicate (n - b.length) 0x20

/-- The ASCII bytes of a text. -/
def ascii (t : String) : List Byte := t.toList.map (fun c => byte c.toNat)

/-- Bit `i` of a number. -/
def bitOf (n i : Nat) : Bool := n.testBit i

/-- A Bool as 0 or 1. -/
def bit01 (b : Bool) : Nat := if b then 1 else 0

/-- Bits hi..lo of a number (R5). -/
def bits (n hi lo : Nat) : Nat := (n >>> lo) % 2 ^ (hi + 1 - lo)

/-- A number with bit `i` set or cleared. -/
def setBit (n i : Nat) (b : Bool) : Nat :=
  if b then n ||| (1 <<< i) else n - (if n.testBit i then 1 <<< i else 0)

/-- The number whose bit `i` is the list's element `i`. -/
def bitsOfList (l : List Bool) : Nat :=
  l.foldr (fun b n => 2 * n + bit01 b) 0

/-- A list cut into pieces of `n`. `fuel` bounds the pieces. -/
def chunks {α : Type} (n : Nat) : Nat → List α → List (List α)
  | 0, _ => []
  | fuel + 1, l => if l.isEmpty then [] else l.take n :: chunks n fuel (l.drop n)

/-- One CRC step over one bit, most significant bit first. -/
def crcMsbBit (width poly crc : Nat) : Nat :=
  let shifted := (crc <<< 1) % 2 ^ width
  if crc.testBit (width - 1) then shifted ^^^ poly else shifted

/-- One CRC step over one byte, most significant bit first. -/
def crcMsbByte (width poly crc : Nat) (b : Byte) : Nat :=
  (List.range 8).foldl (fun c _ => crcMsbBit width poly c) (crc ^^^ (b.toNat <<< (width - 8)))

/-- CRC-16, polynomial 0x1021, initial 0xFFFF, no reflection, no final XOR: the CRC of R187, and the
CRC-CCITT of a C37.118.2 frame's CHK (R193). -/
def crc16 (b : List Byte) : Nat := b.foldl (crcMsbByte 16 0x1021) 0xFFFF

/-- One step of the reflected CRC-32. -/
def crc32Bit (crc : Nat) : Nat :=
  if crc.testBit 0 then (crc >>> 1) ^^^ 0xEDB88320 else crc >>> 1

/-- CRC-32 of R351: polynomial 0x04C1_1DB7, reflected, initial and final XOR 0xFFFF_FFFF. -/
def crc32 (b : List Byte) : Nat :=
  (b.foldl (fun c x => (List.range 8).foldl (fun c' _ => crc32Bit c') (c ^^^ x.toNat)) 0xFFFFFFFF) ^^^ 0xFFFFFFFF

/-- The sum of a byte string's 16-bit words, a last odd byte padded with zero. -/
def sum16 : List Byte → Nat
  | [] => 0
  | [a] => a.toNat * 256
  | a :: b :: rest => a.toNat * 256 + b.toNat + sum16 rest

/-- A sum folded to 16 bits with end-around carry. -/
def fold16 (n : Nat) : Nat :=
  let a := n % 65536 + n / 65536
  let b := a % 65536 + a / 65536
  b % 65536 + b / 65536

/-- The ones' complement sum of a byte string is all ones: a correct Internet checksum (R190). -/
def checksumOk (b : List Byte) : Bool := fold16 (sum16 b) == 0xFFFF

/-- Element `i` of a list, or a given value beyond its end. -/
def nth {α : Type} (l : List α) (i : Nat) (d : α) : α := l.getD i d

/-- Replaces element `i` of a list (nothing happens beyond its end). -/
def setNth {α : Type} (l : List α) (i : Nat) (a : α) : List α := l.set i a

/-- The value paired with a key in an association list. -/
def lookup {β : Type} (k : Nat) : List (Nat × β) → Option β
  | [] => none
  | (k', b) :: rest => if k' = k then some b else lookup k rest

/-- An association list with one key's value replaced or added. -/
def insertKey {β : Type} (k : Nat) (b : β) : List (Nat × β) → List (Nat × β)
  | [] => [(k, b)]
  | (k', b') :: rest => if k' = k then (k, b) :: rest else (k', b') :: insertKey k b rest

/-- An association list without one key. -/
def eraseKey {β : Type} (k : Nat) (l : List (Nat × β)) : List (Nat × β) :=
  l.filter (fun e => e.1 != k)

/-- Rounds the quotient of two integers to nearest, ties away from zero; `d` is positive (R136, R194, R222). -/
def roundDiv (n : Int) (d : Nat) : Int :=
  if n ≥ 0 then ((2 * n + d) / (2 * d : Nat)) else -((2 * (-n) + d) / (2 * d : Nat))

/-- Rounds a rational to the nearest integer, ties away from zero. -/
def roundRat (q : Rat) : Int := roundDiv q.num q.den

/-- The absolute value of a rational. -/
def absRat (q : Rat) : Rat := if q < 0 then -q else q

end Sys2Proof.Machine
end

