-- ==== Sys2Proof/Machine/Float.lean ====
section
/-! DEFINITION. IEEE 754 binary32 and binary64 arithmetic on bit patterns, round to nearest even, as the
chapters ask of F32 and F64 results (R54, R130, R152, R238, R272, R345). -/

namespace Sys2Proof

open Machine

/-- What a floating bit pattern stands for: not a number, an infinity, or ±m·2^e exactly. -/
inductive FVal where
  | nan
  | inf (neg : Bool)
  | fin (neg : Bool) (m : Nat) (e : Int)
  deriving DecidableEq, Repr

/-- An IEEE 754 binary format: precision with the hidden bit, exponent width. -/
structure FFormat where
  p : Nat
  ebits : Nat
  deriving DecidableEq, Repr

def fmt32 : FFormat := ⟨24, 8⟩
def fmt64 : FFormat := ⟨53, 11⟩

/-- The exponent of the least subnormal's unit: −149 for binary32, −1074 for binary64. -/
def FFormat.emin (f : FFormat) : Int := 3 - (2 ^ (f.ebits - 1) : Nat) - (f.p : Int)

/-- The value a bit pattern of the format stands for. -/
def fdecode (f : FFormat) (n : Nat) : FVal :=
  let frac := n % 2 ^ (f.p - 1)
  let ex := (n >>> (f.p - 1)) % 2 ^ f.ebits
  let neg := n.testBit (f.p - 1 + f.ebits)
  if ex = 2 ^ f.ebits - 1 then (if frac = 0 then .inf neg else .nan)
  else if ex = 0 then .fin neg frac f.emin
  else .fin neg (2 ^ (f.p - 1) + frac) (f.emin + (ex : Int) - 1)

/-- The infinity of a format with a sign. -/
def finfBits (f : FFormat) (neg : Bool) : Nat :=
  (2 ^ f.ebits - 1) * 2 ^ (f.p - 1) + (if neg then 2 ^ (f.p - 1 + f.ebits) else 0)

/-- The quiet NaN with no payload: 0x7FC0_0000 in binary32 (R243). -/
def fnanBits (f : FFormat) : Nat := (2 ^ f.ebits - 1) * 2 ^ (f.p - 1) + 2 ^ (f.p - 2)

/-- Rounds ±(m + s)·2^e to nearest even, where 0 ≤ s < 1 is known only by `sticky` (s ≠ 0);
with `sticky` the caller gives m at least p + 2 bits. -/
def fround (f : FFormat) (neg : Bool) (m : Nat) (e : Int) (sticky : Bool) : Nat :=
  let sign := if neg then 2 ^ (f.p - 1 + f.ebits) else 0
  if m = 0 then sign else
  let len : Int := (Nat.log2 m : Int) + 1
  let q := max (e + len - f.p) f.emin
  let mant : Nat :=
    if q ≤ e then m <<< (e - q).toNat
    else
      let s := (q - e).toNat
      let hi := m >>> s
      let rem := m % 2 ^ s
      let half := 2 ^ (s - 1)
      if rem > half ∨ (rem = half ∧ (sticky ∨ hi % 2 = 1)) then hi + 1 else hi
  let (mant, q) := if mant = 2 ^ f.p then (2 ^ (f.p - 1), q + 1) else (mant, q)
  if mant < 2 ^ (f.p - 1) then sign + mant
  else
    let biased := q - f.emin + 1
    if biased ≥ (2 ^ f.ebits - 1 : Nat) then finfBits f neg
    else sign + biased.toNat * 2 ^ (f.p - 1) + (mant - 2 ^ (f.p - 1))

/-- The bit pattern nearest a value. -/
def fencode (f : FFormat) : FVal → Nat
  | .nan => fnanBits f
  | .inf n => finfBits f n
  | .fin n m e => fround f n m e false

/-- Exact negation. -/
def FVal.neg : FVal → FVal
  | .nan => .nan
  | .inf n => .inf (!n)
  | .fin n m e => .fin (!n) m e

/-- Exact absolute value. -/
def FVal.abs : FVal → FVal
  | .nan => .nan
  | .inf _ => .inf false
  | .fin _ m e => .fin false m e

/-- A signed mantissa. -/
def signedMant (neg : Bool) (m : Nat) : Int := if neg then -(m : Int) else m

/-- The exact sum (the format's rounding comes after). -/
def FVal.add : FVal → FVal → FVal
  | .nan, _ => .nan
  | _, .nan => .nan
  | .inf a, .inf b => if a = b then .inf a else .nan
  | .inf a, _ => .inf a
  | _, .inf b => .inf b
  | .fin a m e, .fin b n d =>
    let q := min e d
    let s := signedMant a m * (2 ^ (e - q).toNat : Nat) + signedMant b n * (2 ^ (d - q).toNat : Nat)
    if s = 0 then .fin (a && b) 0 q else .fin (s < 0) s.natAbs q

/-- The exact product. -/
def FVal.mul : FVal → FVal → FVal
  | .nan, _ => .nan
  | _, .nan => .nan
  | .inf a, .inf b => .inf (a != b)
  | .inf a, .fin b m _ => if m = 0 then .nan else .inf (a != b)
  | .fin a m _, .inf b => if m = 0 then .nan else .inf (a != b)
  | .fin a m e, .fin b n d => .fin (a != b) (m * n) (e + d)

/-- The quotient, rounded to the format. -/
def fdivBits (f : FFormat) : FVal → FVal → Nat
  | .nan, _ => fnanBits f
  | _, .nan => fnanBits f
  | .inf _, .inf _ => fnanBits f
  | .inf a, .fin b _ _ => finfBits f (a != b)
  | .fin a _ _, .inf b => fround f (a != b) 0 0 false
  | .fin a m e, .fin b n d =>
    if n = 0 then (if m = 0 then fnanBits f else finfBits f (a != b))
    else
      let k := 2 * f.p + 4 + Nat.log2 n
      let num := m <<< k
      fround f (a != b) (num / n) (e - d - k) (num % n != 0)

/-- The square root, rounded to the format. -/
def fsqrtBits (f : FFormat) : FVal → Nat
  | .nan => fnanBits f
  | .inf n => if n then fnanBits f else finfBits f false
  | .fin n m e =>
    if m = 0 then fround f n 0 0 false
    else if n then fnanBits f
    else
      let k := 2 * (f.p + 2) + (if e % 2 = 0 then 0 else 1)
      let x := m <<< k
      let r := Nat.sqrt x
      fround f false r ((e - k) / 2) (r * r != x)

/-- a < b; false when either is not a number. -/
def FVal.lt : FVal → FVal → Bool
  | .nan, _ => false
  | _, .nan => false
  | .inf a, .inf b => a && !b
  | .inf a, .fin _ _ _ => a
  | .fin _ _ _, .inf b => !b
  | .fin a m e, .fin b n d =>
    let q := min e d
    signedMant a m * (2 ^ (e - q).toNat : Nat) < signedMant b n * (2 ^ (d - q).toNat : Nat)

/-- a = b as numbers. -/
def FVal.eq : FVal → FVal → Bool
  | .nan, _ => false
  | _, .nan => false
  | a, b => !(a.lt b) && !(b.lt a)

/-- The exact rational of a finite value; 0 for the others. -/
def FVal.toRat : FVal → Rat
  | .fin n m e => if e ≥ 0 then (signedMant n m * (2 ^ e.toNat : Nat) : Int) else mkRat (signedMant n m) (2 ^ (-e).toNat)
  | _ => 0

/-- A rational rounded to the format. -/
def fofRat (f : FFormat) (q : Rat) : Nat :=
  fdivBits f (.fin (q.num < 0) q.num.natAbs 0) (.fin false q.den 0)

/-! The two formats by name. -/

def d64 (x : F64) : FVal := fdecode fmt64 x.bits.toNat
def d32 (x : F32) : FVal := fdecode fmt32 x.bits.toNat
def e64 (v : FVal) : F64 := ⟨BitVec.ofNat 64 (fencode fmt64 v)⟩
def e32 (v : FVal) : F32 := ⟨BitVec.ofNat 32 (fencode fmt32 v)⟩

def F64.add (a b : F64) : F64 := e64 ((d64 a).add (d64 b))
def F64.sub (a b : F64) : F64 := e64 ((d64 a).add (d64 b).neg)
def F64.mul (a b : F64) : F64 := e64 ((d64 a).mul (d64 b))
def F64.div (a b : F64) : F64 := ⟨BitVec.ofNat 64 (fdivBits fmt64 (d64 a) (d64 b))⟩
def F64.sqrt (a : F64) : F64 := ⟨BitVec.ofNat 64 (fsqrtBits fmt64 (d64 a))⟩
def F64.neg (a : F64) : F64 := e64 (d64 a).neg
def F64.abs (a : F64) : F64 := e64 (d64 a).abs
def F64.lt (a b : F64) : Bool := (d64 a).lt (d64 b)
def F64.le (a b : F64) : Bool := (d64 a).lt (d64 b) || (d64 a).eq (d64 b)
def F64.ofRat (q : Rat) : F64 := ⟨BitVec.ofNat 64 (fofRat fmt64 q)⟩
def F64.ofInt (n : Int) : F64 := e64 (.fin (n < 0) n.natAbs 0)
def F64.toRat (a : F64) : Rat := (d64 a).toRat
def F64.isNaN (a : F64) : Bool := d64 a = .nan
def F64.zero : F64 := ⟨0⟩
def F32.zero : F32 := ⟨0⟩
def F32.nat (a : F32) : Nat := a.bits.toNat
def F64.nat (a : F64) : Nat := a.bits.toNat
def F32.ofBits (n : Nat) : F32 := ⟨BitVec.ofNat 32 n⟩
def F64.ofBits (n : Nat) : F64 := ⟨BitVec.ofNat 64 n⟩

def F32.add (a b : F32) : F32 := e32 ((d32 a).add (d32 b))
def F32.sub (a b : F32) : F32 := e32 ((d32 a).add (d32 b).neg)
def F32.mul (a b : F32) : F32 := e32 ((d32 a).mul (d32 b))
def F32.div (a b : F32) : F32 := ⟨BitVec.ofNat 32 (fdivBits fmt32 (d32 a) (d32 b))⟩
def F32.neg (a : F32) : F32 := e32 (d32 a).neg
def F32.abs (a : F32) : F32 := e32 (d32 a).abs
def F32.lt (a b : F32) : Bool := (d32 a).lt (d32 b)
def F32.le (a b : F32) : Bool := (d32 a).lt (d32 b) || (d32 a).eq (d32 b)
def F32.eq (a b : F32) : Bool := (d32 a).eq (d32 b)
def F32.ofRat (q : Rat) : F32 := ⟨BitVec.ofNat 32 (fofRat fmt32 q)⟩
def F32.ofInt (n : Int) : F32 := e32 (.fin (n < 0) n.natAbs 0)
def F32.toRat (a : F32) : Rat := (d32 a).toRat
def F32.isNaN (a : F32) : Bool := d32 a = .nan
def F32.isInf (a : F32) : Bool := d32 a = .inf true || d32 a = .inf false

/-- F64 rounded once to F32. -/
def F64.to32 (a : F64) : F32 := e32 (d64 a)

/-- F32 taken exactly into F64. -/
def F32.to64 (a : F32) : F64 := e64 (d32 a)

/-- 0x7FC0_0000: the value of an ABSENT entry (R243). -/
def absentValue : F32 := ⟨0x7FC00000#32⟩

/-- 1.0 and 0.0 in F32: the Boolean results of R345. -/
def f32OfBool (b : Bool) : F32 := if b then ⟨0x3F800000#32⟩ else ⟨0#32⟩

/-- The F64 nearest π. -/
def pi64 : F64 := ⟨0x400921FB54442D18#64⟩

/-- 2π in F64. -/
def twoPi64 : F64 := ⟨0x401921FB54442D18#64⟩

/-- An angle brought into [−π, π) by whole turns (R152, R238, R291): x − 2π·floor((x + π)/2π), with the F64
nearest π and one rounding at the end. NaN and infinities give NaN. -/
def F64.wrap (x : F64) : F64 :=
  match d64 x with
  | .fin _ _ _ =>
    let q := x.toRat
    let p := pi64.toRat
    let r := F64.ofRat (q - 2 * p * ((q + p) / (2 * p)).floor)
    if pi64.le r then pi64.neg else r
  | _ => ⟨0x7FF8000000000000#64⟩

/-- An F64 sum in the given order. -/
def F64.sum (l : List F64) : F64 := l.foldl F64.add F64.zero

/-- A complex number in F64. -/
structure Cplx where
  re : F64
  im : F64
  deriving DecidableEq, Repr

def Cplx.add (a b : Cplx) : Cplx := ⟨a.re.add b.re, a.im.add b.im⟩
def Cplx.mul (a b : Cplx) : Cplx :=
  ⟨(a.re.mul b.re).sub (a.im.mul b.im), (a.re.mul b.im).add (a.im.mul b.re)⟩
def Cplx.conj (a : Cplx) : Cplx := ⟨a.re, a.im.neg⟩
def Cplx.scale (k : F64) (a : Cplx) : Cplx := ⟨k.mul a.re, k.mul a.im⟩
def Cplx.abs (a : Cplx) : F64 := ((a.re.mul a.re).add (a.im.mul a.im)).sqrt
def Cplx.zero : Cplx := ⟨⟨0⟩, ⟨0⟩⟩

/-- Complex quotient (R279): a·conj(b) / |b|². -/
def Cplx.div (a b : Cplx) : Cplx :=
  let n := a.mul b.conj
  let d := (b.re.mul b.re).add (b.im.mul b.im)
  ⟨n.re.div d, n.im.div d⟩

end Sys2Proof
end

