-- ==== Sys2Proof/Machine/Flags.lean ====
section
/-! DEFINITION. The quality word (R10–R13): its bits, VALID, and the quality of a derived value. -/

namespace Sys2Proof.Machine

def qVALID : Nat := 0
def qSETTLING : Nat := 1
def qHELD : Nat := 2
def qSUBSTITUTED : Nat := 3
def qLATE : Nat := 4
def qTIME_UNLOCKED : Nat := 5
def qOVERRANGE : Nat := 6
def qTEST : Nat := 7
def qSTALE : Nat := 8
def qABSENT : Nat := 9
def qSOURCE_ERROR : Nat := 10

/-- Bit i of a quality word. -/
def qBit (q : Quality) (i : Nat) : Bool := q.getLsbD i

/-- The quality word with bit i set. -/
def qSet (q : Quality) (i : Nat) : Quality := q ||| (1#16 <<< i)

/-- Bits [10:1] of a quality word: what a derived value inherits (R12), and what is not reserved (R13). -/
def qFlags (q : Quality) : Quality := q &&& 0x07FE#16

/-- A quality word from outside, its bits [15:11] ignored (R13). -/
def qInput (q : Quality) : Quality := q &&& 0x07FF#16

/-- SETTLING, STALE, ABSENT and SOURCE_ERROR, any of which forbids VALID (R11). -/
def qBlocking : Quality := 0x0702#16

/-- A quality word from its flags [10:1]: VALID exactly when the producer has a value and R11 allows it. -/
def qMake (hasValue : Bool) (flags : Quality) : Quality :=
  let f := qFlags flags
  if hasValue && f &&& qBlocking == 0#16 then f ||| 1#16 else f

/-- The OR of flags over several inputs (R12). -/
def qUnion (l : List Quality) : Quality := l.foldl (fun a q => a ||| qFlags q) 0#16

/-- The quality of a value derived from inputs (R12), VALID by R11. -/
def qDerive (l : List Quality) : Quality := qMake true (qUnion l)

/-- A flag as a quality word. -/
def qIf (b : Bool) (i : Nat) : Quality := if b then qSet 0#16 i else 0#16

/-- VALID of a quality word. -/
def qValid (q : Quality) : Bool := q.getLsbD 0

end Sys2Proof.Machine
end

