-- ==== Sys2Proof/Config.lean ====
section
/-! DEFINITION. What the manual leaves open: per-unit contents, values it calls undefined or does not state, and functions it
names without giving their arithmetic. Each is a constant without a body, so no statement can rest on its value. -/

namespace Sys2Proof

/-- The unit's 16 SERIAL bytes (0x1018:04, "per unit"), as one big-endian number. -/
opaque Config.serial : BitVec 128

/-- The base MAC address in fuses (R175). -/
opaque Config.macBase : BitVec 48

/-- The floor pace of logic die d in fuses (R21), an F32 pattern: 0 hub, 1–4 lanes. -/
opaque Config.floorPace : Nat → BitVec 32

/-- The KS0 certificate (0xB100:10, "per unit"): its length and its bytes as one big-endian number. -/
opaque Config.ks0CertLength : BitVec 12
opaque Config.ks0Cert : BitVec 16384

/-- What a counter of `width` bits holds after an increment by `n` that passes its largest value `v`, where the manual
states neither wrap nor saturation. -/
opaque Config.counterPast (width v n : Nat) : Nat

/-- The random bytes the device draws (nonces, ephemeral keys, generated keys), by number of the draw. -/
opaque Config.randomByte : Nat → BitVec 8

/-- The root that the PUF of this unit reconstructs (R439). -/
opaque Config.pufRoot : BitVec 256

/-- The secrets and the public key that manufacture puts into KS0, KS1 and KS11 (R448). -/
opaque Config.ks0Secret : BitVec 384
opaque Config.ks1Public : BitVec 776
opaque Config.commissioningKey : BitVec 384

/-- Which neighbour of the exact value a named function `f` gives (0 sin, 1 cos, 2 atan2, 3 exp, 4 ln) for its operands, where the exact value
is no F64: towards 0, or with `true` the one beyond; R152, R242, R271, R273 and R291 name the functions, and no rule states the rounding. -/
opaque Config.roundsAway (f : Nat) (x y : BitVec 64) : Bool

/-- What such a function gives for operands at which no rule states a value: an infinity, atan2(0, 0), ln of a number below 0. -/
opaque Config.unstatedResult (f : Nat) (x y : BitVec 64) : BitVec 64

/-- cos and sin of the demodulation, an F32 pattern that R272 asks to be within 2^-23 of the exact value. -/
opaque Config.demodulator (cosine : Bool) (phase : BitVec 32) : BitVec 32

/-- Coefficient `tap` (0–31) of the resampler's phase (0–1,023), an F64 pattern; R143 gives no coefficients. -/
opaque Config.resamplerTap (phase tap : Nat) : BitVec 64

/-- Tap i (0–160) of the Spectroscope's decimation filter, an F64 pattern; R264 gives no coefficients. -/
opaque Config.decimatorTap : Nat → BitVec 64

/-- G_PMU_ID of a CFG-3 block (R320), which the manual does not state. -/
opaque Config.pmuId : BitVec 128

/-- The Huffman-coded run that the compression engine makes of an input block (R430, R431); R430 states what a run must be, not
which one is made. -/
opaque Config.codedRun (final : Bool) (block : List (BitVec 8)) : List (BitVec 8)

/-- The engine's fixed internal test vector of 65,536 bytes (R437), by position. -/
opaque Config.selftestByte : Nat → BitVec 8

/-- Tokens of a COMTRADE configuration file that R409 does not state, by kind and channel: identifiers, phases, monitored
circuits and value limits; and the decimal spelling of a rational number. -/
opaque Config.comtradeToken (kind n : Nat) : List (BitVec 8)
opaque Config.decimal (num : Int) (den : Nat) : List (BitVec 8)

/-- The level of XARM_N as a MEMBER senses it at a tick (R401): another device drives that line. -/
opaque Config.xarmSensedLow : Nat → Bool

/-- The nonce of the record that manufacture sealed for a slot (R450). -/
opaque Config.manufactureNonce (slot : Nat) : BitVec 96

/-- The peer is READY with a permit, as HANDOVER_CMD finds it at a tick (R489); the manual does not say how the unit learns it. -/
opaque Config.peerReady : Nat → Bool

/-- The voltage in mV from which the supply loop starts a rail that it has not yet requested (R25). -/
opaque Config.avsStart (rail : Nat) : Nat

/-- Where a flash write that a restart cuts short has stopped, in bytes of 256 (R452). -/
opaque Config.flashCut (draw : Nat) : Nat

/-- Fields of the IP headers that the TN8448 writes, which no rule states: type of service or traffic class, time to live or hop limit,
identification by datagram, the don't-fragment flag, and the flow label. -/
opaque Config.ipService : BitVec 8
opaque Config.ipHops : BitVec 8
opaque Config.ipIdent (datagram : List (BitVec 8)) : BitVec 16
opaque Config.ipDontFragment : Bool
opaque Config.ipFlow : BitVec 20

/-- The UDP source port of a command frame (R200). -/
opaque Config.clientPort : BitVec 16

/-- The place of the buffer of a port's descriptor, in units of 64 bytes; the management core writes it (R205). -/
opaque Config.bufferPlace (transmit : Bool) (port index : Nat) : Nat

/-- The hub has not built the frames of an output stream by a tick (R318); the model has no times of its work. -/
opaque Config.buildWaits (out tick : Nat) : Bool

/-- The transit history has room for a transit with its SEQ at a tick (R245, R247); no rule states how many transits wait for DRAM there. -/
opaque Config.historyRoom (seq tick : Nat) : Bool

/-- The 64-byte reads and writes of DRAM in a tick (R524); no rule states how the memory controller forms them. -/
opaque Config.dramReads (tick : Nat) : Nat
opaque Config.dramWrites (tick : Nat) : Nat

/-- Where a DRAM partition begins, in bytes, by the sizes of 0xF120:01–05 in MiB and its subindex; R38 gives sizes and no places. -/
opaque Config.partitionBase (sizes : List Nat) (sub : Nat) : Nat

/-- The ROM image and the image of each type that manufacture programmed (R445, R502). -/
opaque Config.romImage : List (BitVec 8)
opaque Config.factoryImage (type : Nat) : List (BitVec 8)

end Sys2Proof
end

