-- ==== Sys2Proof/Machine/Objects.lean ====
section
/-! DEFINITION. The Almanac's objects: index, subindex, type, access class, default and range of every object of the
manual's object tables (R52, R85, R121 and the tables of every chapter), and their lookup (R53, R60). -/

namespace Sys2Proof.Machine

/-- An object's type (R54). `octets n` and `str n` hold 0 to n bytes; `arr n w` is an ARRAY of n elements of w bytes. -/
inductive Ty where
  | bool | u8 | u16 | u32 | u64 | i8 | i16 | i32 | i64 | f32 | f64 | et
  | octets (n : Nat)
  | str (n : Nat)
  | arr (n w : Nat)
  deriving DecidableEq, Repr

/-- The type code of R54. -/
def Ty.code : Ty → Nat
  | .bool => 0x01 | .u8 => 0x02 | .u16 => 0x03 | .u32 => 0x04 | .u64 => 0x05
  | .i8 => 0x06 | .i16 => 0x07 | .i32 => 0x08 | .i64 => 0x09 | .f32 => 0x0A | .f64 => 0x0B
  | .et => 0x0C | .octets _ => 0x0D | .str _ => 0x0E | .arr _ _ => 0x10

/-- The access classes of R55. -/
inductive Access where
  | ro | rw | wo | st
  deriving DecidableEq, Repr

/-- The range of a value: integers by interval, list or mask of the bits that may be set; F32 between two bit patterns;
positive F64; a multiple of m below a bound. A range that depends on other objects is `any` here and checked by its chapter. -/
inductive Rng where
  | any
  | ival (lo hi : Int)
  | ivals (l : List (Int × Int))
  | set (l : List Int)
  | mask (m : Nat)
  | fival (lo hi : Nat)
  | fpos
  | mult (m bound : Nat)
  deriving DecidableEq, Repr

/-- Subindices lo..hi of a group, alike in everything. -/
structure Field where
  lo : Nat
  hi : Nat
  name : String
  ty : Ty
  acc : Access
  dflt : Value
  rng : Rng
  deriving DecidableEq, Repr

/-- `count` indices from `base` in steps of `stride` with the same fields. -/
structure Group where
  base : Nat
  count : Nat
  stride : Nat
  fields : List Field
  deriving DecidableEq, Repr

/-- The objects of page 0x10xx. -/
def objs10 : List Group :=
  [
    ⟨0x1018, 1, 1,
      [⟨0x01, 0x01, "VENDOR_ID", .u32, .ro, (.int 2673), .any⟩,
       ⟨0x02, 0x02, "PRODUCT_CODE", .u32, .ro, (.int 33864), .any⟩,
       ⟨0x03, 0x03, "STEPPING", (.str 4), .ro, (.bytes (ascii "A1")), .any⟩,
       ⟨0x04, 0x04, "SERIAL", (.str 16), .ro, (.bytes []), .any⟩]⟩]

/-- The objects of page 0x11xx. -/
def objs11 : List Group :=
  [
    ⟨0x1100, 1, 1,
      [⟨0x01, 0x01, "SESSIONS_OPEN", .u8, .ro, (.int 0), .any⟩,
       ⟨0x02, 0x02, "IDLE_TIMEOUT", .u16, .st, (.int 60), (.ival (10) 3600)⟩,
       ⟨0x03, 0x03, "PDU_DISCARDED", .u32, .ro, (.int 0), .any⟩,
       ⟨0x04, 0x04, "AUTH_FAILURES", .u32, .ro, (.int 0), .any⟩]⟩]

/-- The objects of page 0x12xx. -/
def objs12 : List Group :=
  [
    ⟨0x1200, 1, 1,
      [⟨0x01, 0x01, "COMMIT_CMD", .u8, .wo, (.int 0), (.ival 1 1)⟩,
       ⟨0x02, 0x02, "STAGE_OWNER", .u32, .ro, (.int 0), .any⟩,
       ⟨0x03, 0x03, "STAGED_CHANGES", .u32, .ro, (.int 0), .any⟩,
       ⟨0x04, 0x04, "COMMIT_COUNT", .u32, .ro, (.int 0), .any⟩,
       ⟨0x05, 0x05, "CONFIG_CRC", .u32, .ro, (.int 0), .any⟩]⟩,
    ⟨0x1202, 1, 1,
      [⟨0x00, 0x00, "CONFLICTS", .u16, .ro, (.int 0), .any⟩,
       ⟨0x01, 0x01, "CONFLICT_REPORT", (.arr 16 12), .ro, (.bytes []), .any⟩]⟩]

/-- The objects of page 0x13xx. -/
def objs13 : List Group :=
  [
    ⟨0x1300, 4, 16,
      [⟨0x01, 0x01, "ENABLE", .bool, .st, (.int 1), .any⟩,
       ⟨0x02, 0x02, "MODE", .u8, .st, (.int 0), (.set [0])⟩,
       ⟨0x03, 0x03, "MAC_ADDR", (.octets 6), .ro, (.bytes []), .any⟩,
       ⟨0x04, 0x04, "MGMT_ENABLE", .bool, .st, (.int 0), .any⟩,
       ⟨0x05, 0x05, "MGMT_VID", .u16, .st, (.int 0), (.ival 0 4094)⟩,
       ⟨0x06, 0x06, "MGMT_PCP", .u8, .st, (.int 0), (.ival (0) 7)⟩,
       ⟨0x07, 0x07, "MAX_FRAME", .u16, .st, (.int 9216), (.ival (1522) 9216)⟩,
       ⟨0x08, 0x08, "RX_HIGH_WM", .u8, .st, (.int 75), (.ival (10) 95)⟩,
       ⟨0x09, 0x09, "RX_LOW_WM", .u8, .st, (.int 50), (.ival (5) 90)⟩,
       ⟨0x0A, 0x0A, "PAUSE_TX_ENABLE", .bool, .st, (.int 1), .any⟩,
       ⟨0x0B, 0x0B, "PAUSE_QUANTA", .u16, .st, (.int 65535), (.ival (1) 65535)⟩,
       ⟨0x0C, 0x0C, "PAUSE_RX_ENABLE", .bool, .st, (.int 1), .any⟩] ++
      [⟨0x0D, 0x0D, "PAUSE_MAX", .u16, .st, (.int 1000), (.ival (100) 10000)⟩,
       ⟨0x0E, 0x0E, "RX_RING_SIZE", .u16, .st, (.int 2048), (.set [256, 512, 1024, 2048, 4096, 8192])⟩,
       ⟨0x0F, 0x0F, "TX_RING_SIZE", .u16, .st, (.int 1024), (.set [256, 512, 1024, 2048, 4096, 8192])⟩,
       ⟨0x10, 0x10, "LINK", .u8, .ro, (.int 0), .any⟩,
       ⟨0x11, 0x11, "SPEED", .u16, .ro, (.int 0), .any⟩,
       ⟨0x12, 0x12, "RX_BUFFER", .u32, .ro, (.int 262144), .any⟩,
       ⟨0x13, 0x13, "COUNTER_CLEAR", .bool, .wo, (.int 0), (.ival 1 1)⟩]⟩,
    ⟨0x1340, 1, 1,
      [⟨0x01, 0x01, "ENABLE", .bool, .st, (.int 1), .any⟩,
       ⟨0x02, 0x02, "MODE", .u8, .st, (.int 1), (.set [1, 2])⟩,
       ⟨0x03, 0x03, "MAC_ADDR", (.octets 6), .ro, (.bytes []), .any⟩,
       ⟨0x04, 0x04, "MGMT_ENABLE", .bool, .st, (.int 1), .any⟩,
       ⟨0x05, 0x05, "MGMT_VID", .u16, .st, (.int 0), (.ival 0 4094)⟩,
       ⟨0x06, 0x06, "MGMT_PCP", .u8, .st, (.int 0), (.ival (0) 7)⟩,
       ⟨0x07, 0x07, "MAX_FRAME", .u16, .st, (.int 9216), (.ival (1522) 9216)⟩,
       ⟨0x08, 0x08, "RX_HIGH_WM", .u8, .st, (.int 75), (.ival (10) 95)⟩,
       ⟨0x09, 0x09, "RX_LOW_WM", .u8, .st, (.int 50), (.ival (5) 90)⟩,
       ⟨0x0A, 0x0A, "PAUSE_TX_ENABLE", .bool, .st, (.int 1), .any⟩,
       ⟨0x0B, 0x0B, "PAUSE_QUANTA", .u16, .st, (.int 65535), (.ival (1) 65535)⟩,
       ⟨0x0C, 0x0C, "PAUSE_RX_ENABLE", .bool, .st, (.int 1), .any⟩] ++
      [⟨0x0D, 0x0D, "PAUSE_MAX", .u16, .st, (.int 1000), (.ival (100) 10000)⟩,
       ⟨0x0E, 0x0E, "RX_RING_SIZE", .u16, .st, (.int 2048), (.set [256, 512, 1024, 2048, 4096, 8192])⟩,
       ⟨0x0F, 0x0F, "TX_RING_SIZE", .u16, .st, (.int 1024), (.set [256, 512, 1024, 2048, 4096, 8192])⟩,
       ⟨0x10, 0x10, "LINK", .u8, .ro, (.int 0), .any⟩,
       ⟨0x11, 0x11, "SPEED", .u16, .ro, (.int 0), .any⟩,
       ⟨0x12, 0x12, "RX_BUFFER", .u32, .ro, (.int 65536), .any⟩,
       ⟨0x13, 0x13, "COUNTER_CLEAR", .bool, .wo, (.int 0), (.ival 1 1)⟩]⟩,
    ⟨0x1350, 1, 1,
      [⟨0x01, 0x01, "ENABLE", .bool, .st, (.int 1), .any⟩,
       ⟨0x02, 0x02, "MODE", .u8, .st, (.int 1), (.set [1, 2])⟩,
       ⟨0x03, 0x03, "MAC_ADDR", (.octets 6), .ro, (.bytes []), .any⟩,
       ⟨0x04, 0x04, "MGMT_ENABLE", .bool, .st, (.int 0), .any⟩,
       ⟨0x05, 0x05, "MGMT_VID", .u16, .st, (.int 0), (.ival 0 4094)⟩,
       ⟨0x06, 0x06, "MGMT_PCP", .u8, .st, (.int 0), (.ival (0) 7)⟩,
       ⟨0x07, 0x07, "MAX_FRAME", .u16, .st, (.int 9216), (.ival (1522) 9216)⟩,
       ⟨0x08, 0x08, "RX_HIGH_WM", .u8, .st, (.int 75), (.ival (10) 95)⟩,
       ⟨0x09, 0x09, "RX_LOW_WM", .u8, .st, (.int 50), (.ival (5) 90)⟩,
       ⟨0x0A, 0x0A, "PAUSE_TX_ENABLE", .bool, .st, (.int 1), .any⟩,
       ⟨0x0B, 0x0B, "PAUSE_QUANTA", .u16, .st, (.int 65535), (.ival (1) 65535)⟩,
       ⟨0x0C, 0x0C, "PAUSE_RX_ENABLE", .bool, .st, (.int 1), .any⟩] ++
      [⟨0x0D, 0x0D, "PAUSE_MAX", .u16, .st, (.int 1000), (.ival (100) 10000)⟩,
       ⟨0x0E, 0x0E, "RX_RING_SIZE", .u16, .st, (.int 2048), (.set [256, 512, 1024, 2048, 4096, 8192])⟩,
       ⟨0x0F, 0x0F, "TX_RING_SIZE", .u16, .st, (.int 1024), (.set [256, 512, 1024, 2048, 4096, 8192])⟩,
       ⟨0x10, 0x10, "LINK", .u8, .ro, (.int 0), .any⟩,
       ⟨0x11, 0x11, "SPEED", .u16, .ro, (.int 0), .any⟩,
       ⟨0x12, 0x12, "RX_BUFFER", .u32, .ro, (.int 65536), .any⟩,
       ⟨0x13, 0x13, "COUNTER_CLEAR", .bool, .wo, (.int 0), (.ival 1 1)⟩]⟩,
    ⟨0x1301, 6, 16,
      [⟨0x01, 0x01, "RX_FRAMES", .u64, .ro, (.int 0), .any⟩,
       ⟨0x02, 0x02, "RX_FAST", .u64, .ro, (.int 0), .any⟩,
       ⟨0x03, 0x03, "RX_SLOW", .u64, .ro, (.int 0), .any⟩,
       ⟨0x04, 0x04, "RUNTS", .u32, .ro, (.int 0), .any⟩,
       ⟨0x05, 0x05, "FCS_ERRORS", .u32, .ro, (.int 0), .any⟩,
       ⟨0x06, 0x06, "OVERSIZE", .u32, .ro, (.int 0), .any⟩,
       ⟨0x07, 0x07, "RX_DISCARD_FULL", .u64, .ro, (.int 0), .any⟩,
       ⟨0x08, 0x08, "IP_FRAGMENTS", .u32, .ro, (.int 0), .any⟩,
       ⟨0x09, 0x09, "IP_ERRORS", .u32, .ro, (.int 0), .any⟩,
       ⟨0x0A, 0x0A, "UDP_CHECKSUM", .u32, .ro, (.int 0), .any⟩,
       ⟨0x0B, 0x0B, "C37_FORMAT", .u32, .ro, (.int 0), .any⟩,
       ⟨0x0C, 0x0C, "NO_CONTEXT", .u64, .ro, (.int 0), .any⟩] ++
      [⟨0x0D, 0x0D, "LAYOUT_MISMATCH", .u32, .ro, (.int 0), .any⟩,
       ⟨0x0E, 0x0E, "C37_CHK", .u32, .ro, (.int 0), .any⟩,
       ⟨0x0F, 0x0F, "OTHER", .u32, .ro, (.int 0), .any⟩,
       ⟨0x10, 0x10, "PAUSE_TX", .u32, .ro, (.int 0), .any⟩,
       ⟨0x11, 0x11, "PAUSE_RX", .u32, .ro, (.int 0), .any⟩,
       ⟨0x12, 0x12, "PAUSE_LIMITS", .u32, .ro, (.int 0), .any⟩,
       ⟨0x13, 0x13, "TC0_DISCARDS", .u64, .ro, (.int 0), .any⟩,
       ⟨0x14, 0x14, "RX_RING_EMPTY", .u32, .ro, (.int 0), .any⟩,
       ⟨0x15, 0x15, "RX_RING_OVERRUN", .u32, .ro, (.int 0), .any⟩,
       ⟨0x16, 0x16, "TX_FRAMES", .u64, .ro, (.int 0), .any⟩]⟩,
    ⟨0x1302, 6, 16,
      [⟨0x01, 0x01, "IPV4_ADDR", (.octets 4), .st, (.bytes (List.replicate 4 0)), .any⟩,
       ⟨0x02, 0x02, "IPV4_PREFIX", .u8, .st, (.int 24), (.ival (1) 30)⟩,
       ⟨0x03, 0x03, "IPV4_GATEWAY", (.octets 4), .st, (.bytes (List.replicate 4 0)), .any⟩,
       ⟨0x04, 0x04, "IPV6_ADDR", (.octets 16), .st, (.bytes (List.replicate 16 0)), .any⟩,
       ⟨0x05, 0x05, "IPV6_PREFIX", .u8, .st, (.int 64), (.ival (1) 127)⟩,
       ⟨0x06, 0x06, "IPV6_GATEWAY", (.octets 16), .st, (.bytes (List.replicate 16 0)), .any⟩]⟩,
    ⟨0x1303, 2, 32,
      [⟨0x01, 0x01, "PRP_ENABLE", .bool, .st, (.int 0), .any⟩,
       ⟨0x02, 0x02, "ENTRY_FORGET", .u16, .st, (.int 400), (.ival (10) 10000)⟩,
       ⟨0x03, 0x03, "SUPERVISION_INTERVAL", .u16, .st, (.int 2000), (.ival (100) 10000)⟩,
       ⟨0x04, 0x04, "DUPLICATES", .u64, .ro, (.int 0), .any⟩,
       ⟨0x05, 0x05, "WRONG_LAN", .u32, .ro, (.int 0), .any⟩,
       ⟨0x06, 0x06, "TABLE_FULL", .u32, .ro, (.int 0), .any⟩,
       ⟨0x07, 0x07, "NODES", .u16, .ro, (.int 0), .any⟩]⟩,
    ⟨0x130C, 4, 1,
      [⟨0x01, 0x01, "ENABLE", .bool, .st, (.int 0), .any⟩,
       ⟨0x02, 0x02, "PORT", .u8, .st, (.int 4), (.ival (0) 5)⟩,
       ⟨0x03, 0x03, "MASK", (.octets 16), .st, (.bytes (List.replicate 16 0)), .any⟩,
       ⟨0x04, 0x04, "CRC", .u16, .st, (.int 0), (.ival (0) 65535)⟩,
       ⟨0x05, 0x05, "MATCHES", .u32, .ro, (.int 0), .any⟩]⟩,
    ⟨0x131C, 4, 1,
      [⟨0x01, 0x01, "ENABLE", .bool, .st, (.int 0), .any⟩,
       ⟨0x02, 0x02, "PORT", .u8, .st, (.int 4), (.ival (0) 5)⟩,
       ⟨0x03, 0x03, "MASK", (.octets 16), .st, (.bytes (List.replicate 16 0)), .any⟩,
       ⟨0x04, 0x04, "CRC", .u16, .st, (.int 0), (.ival (0) 65535)⟩,
       ⟨0x05, 0x05, "MATCHES", .u32, .ro, (.int 0), .any⟩]⟩,
    ⟨0x132C, 4, 1,
      [⟨0x01, 0x01, "ENABLE", .bool, .st, (.int 0), .any⟩,
       ⟨0x02, 0x02, "PORT", .u8, .st, (.int 4), (.ival (0) 5)⟩,
       ⟨0x03, 0x03, "MASK", (.octets 16), .st, (.bytes (List.replicate 16 0)), .any⟩,
       ⟨0x04, 0x04, "CRC", .u16, .st, (.int 0), (.ival (0) 65535)⟩,
       ⟨0x05, 0x05, "MATCHES", .u32, .ro, (.int 0), .any⟩]⟩,
    ⟨0x133C, 4, 1,
      [⟨0x01, 0x01, "ENABLE", .bool, .st, (.int 0), .any⟩,
       ⟨0x02, 0x02, "PORT", .u8, .st, (.int 4), (.ival (0) 5)⟩,
       ⟨0x03, 0x03, "MASK", (.octets 16), .st, (.bytes (List.replicate 16 0)), .any⟩,
       ⟨0x04, 0x04, "CRC", .u16, .st, (.int 0), (.ival (0) 65535)⟩,
       ⟨0x05, 0x05, "MATCHES", .u32, .ro, (.int 0), .any⟩]⟩]

/-- The objects of page 0x14xx. -/
def objs14 : List Group :=
  [
    ⟨0x1400, 1, 1,
      [⟨0x01, 0x01, "ENTRIES", .u8, .ro, (.int 35), .any⟩,
       ⟨0x02, 0x02, "PIN_TABLE", (.arr 35 32), .ro, (.bytes []), .any⟩]⟩,
    ⟨0x1401, 1, 1,
      [⟨0x01, 0x01, "STRAPS", .u8, .ro, (.int 0), .any⟩,
       ⟨0x02, 0x02, "JTAG_IDCODE", .u32, .ro, (.int 407145073), .any⟩]⟩]

/-- The objects of page 0x1Fxx. -/
def objs1F : List Group :=
  [
    ⟨0x1F00, 1, 1,
      [⟨0x01, 0x01, "RESTART_CMD", .u8, .wo, (.int 0), (.ival 1 1)⟩]⟩,
    ⟨0x1F02, 1, 1,
      [⟨0x01, 0x01, "STAGE_DEFAULTS_CMD", .u8, .wo, (.int 0), (.ival 1 1)⟩]⟩]

/-- The objects of page 0x20xx. -/
def objs20 : List Group :=
  [
    ⟨0x2000, 1, 1,
      [⟨0x01, 0x01, "RAW", .u64, .ro, (.int 0), .any⟩,
       ⟨0x02, 0x02, "ET_NOW", .et, .ro, (.int 0), .any⟩,
       ⟨0x03, 0x03, "INCREMENT", .u64, .rw, (.int 10737418240), (.ival 0x027F5C28F6 0x0280A3D70A)⟩,
       ⟨0x04, 0x04, "BASE_ET", .et, .ro, (.int 0), .any⟩,
       ⟨0x05, 0x05, "BASE_RAW", .u64, .ro, (.int 0), .any⟩,
       ⟨0x06, 0x06, "STEP_NS", .i64, .rw, (.int 0), (.ival (-0x4000000000000000) 0x4000000000000000)⟩,
       ⟨0x07, 0x07, "STEP_FRAC", .u32, .rw, (.int 0), .any⟩,
       ⟨0x08, 0x08, "STEP_CMD", .u8, .wo, (.int 0), (.ival 1 2)⟩,
       ⟨0x09, 0x09, "QUALITY", .u8, .ro, (.int 0), .any⟩,
       ⟨0x0A, 0x0A, "QUALITY_SINCE", .et, .ro, (.int 0), .any⟩,
       ⟨0x0B, 0x0B, "SERVO_OWNER", .u8, .st, (.int 0), (.ival 0 1)⟩,
       ⟨0x0C, 0x0C, "OFFSET_REPORT", .i64, .rw, (.int 0), .any⟩] ++
      [⟨0x0D, 0x0D, "REF_PRESENT", .bool, .rw, (.int 0), .any⟩,
       ⟨0x0E, 0x0E, "LOCK_THRESH", .u32, .st, (.int 100), (.ival (10) 10000)⟩,
       ⟨0x0F, 0x0F, "LOCK_COUNT", .u8, .st, (.int 16), (.ival (1) 255)⟩,
       ⟨0x10, 0x10, "UNLOCK_THRESH", .u32, .st, (.int 1000), (.ival 0 1000000)⟩,
       ⟨0x11, 0x11, "REF_TIMEOUT", .u16, .st, (.int 3000), (.ival (100) 60000)⟩,
       ⟨0x12, 0x12, "HOLDOVER_LIMIT", .u32, .st, (.int 3600), (.ival (1) 86400)⟩,
       ⟨0x13, 0x13, "UTC_OFFSET", .i16, .ro, (.int 37), .any⟩,
       ⟨0x14, 0x14, "UTC_OFFSET_DEFAULT", .i16, .st, (.int 37), (.ival (0) 255)⟩,
       ⟨0x15, 0x15, "LEAP_PENDING", .u8, .ro, (.int 0), .any⟩,
       ⟨0x16, 0x16, "REF_PRIMARY", .u8, .st, (.int 1), (.ival 0 3)⟩,
       ⟨0x17, 0x17, "REF_SECONDARY", .u8, .st, (.int 0), (.ival 0 3)⟩,
       ⟨0x18, 0x18, "STEP_THRESH", .u32, .st, (.int 100000), (.ival (1000) 1000000000)⟩] ++
      [⟨0x19, 0x19, "SERVO_KP", .f32, .st, (.int 0x3F333333), (.fival 0x0 0x42C80000)⟩,
       ⟨0x1A, 0x1A, "SERVO_KI", .f32, .st, (.int 0x3E99999A), (.fival 0x0 0x42C80000)⟩,
       ⟨0x1B, 0x1B, "STEP_COUNT", .u32, .ro, (.int 0), .any⟩,
       ⟨0x1C, 0x1C, "LAST_STEP", .i64, .ro, (.int 0), .any⟩]⟩]

/-- The objects of page 0x21xx. -/
def objs21 : List Group :=
  [
    ⟨0x2100, 1, 1,
      [⟨0x01, 0x01, "PTP_MODE", .u8, .st, (.int 0), (.ival 0 3)⟩,
       ⟨0x02, 0x02, "PROFILE", .u8, .st, (.int 0), (.ival 0 1)⟩,
       ⟨0x03, 0x03, "DOMAIN", .u8, .st, (.int 0), (.ival (0) 255)⟩,
       ⟨0x04, 0x04, "PRIORITY1", .u8, .st, (.int 128), (.ival (0) 255)⟩,
       ⟨0x05, 0x05, "PRIORITY2", .u8, .st, (.int 128), (.ival (0) 255)⟩,
       ⟨0x06, 0x06, "PTP_PORTS", .u8, .st, (.int 1), (.mask 0x3F)⟩,
       ⟨0x07, 0x07, "TC_COMPAT", .bool, .st, (.int 0), .any⟩,
       ⟨0x08, 0x08, "LOG_ANNOUNCE", .i8, .st, (.int 0), (.ival (-3) 3)⟩,
       ⟨0x09, 0x09, "LOG_SYNC", .i8, .st, (.int 0), (.ival (-4) 1)⟩,
       ⟨0x0A, 0x0A, "LOG_PDELAY", .i8, .st, (.int 0), (.ival (-4) 3)⟩,
       ⟨0x0B, 0x0B, "ANNOUNCE_TIMEOUT", .u8, .st, (.int 3), (.ival (2) 10)⟩,
       ⟨0x0C, 0x0C, "CLOCK_IDENTITY", (.octets 8), .ro, (.bytes []), .any⟩] ++
      [⟨0x0D, 0x0D, "GM_IDENTITY", (.octets 8), .ro, (.bytes (List.replicate 8 0)), .any⟩,
       ⟨0x0E, 0x0E, "OFFSET_FROM_MASTER", .i64, .ro, (.int 0), .any⟩,
       ⟨0x0F, 0x0F, "MEAN_LINK_DELAY", .i64, .ro, (.int 0), .any⟩,
       ⟨0x10, 0x10, "STEPS_REMOVED", .u16, .ro, (.int 0), .any⟩,
       ⟨0x11, 0x11, "SLAVE_PORT", .u8, .ro, (.int 255), .any⟩,
       ⟨0x12, 0x12, "UTC_OFFSET_VALID", .bool, .ro, (.int 0), .any⟩]⟩,
    ⟨0x2110, 6, 1,
      [⟨0x01, 0x01, "PORT_STATE", .u8, .ro, (.int 3), .any⟩,
       ⟨0x02, 0x02, "RX_DELAY", .i32, .st, (.int 0), (.ival (-100000) 100000)⟩,
       ⟨0x03, 0x03, "TX_DELAY", .i32, .st, (.int 0), (.ival (-100000) 100000)⟩,
       ⟨0x04, 0x04, "PEER_DELAY", .i64, .ro, (.int 0), .any⟩,
       ⟨0x05, 0x05, "NEIGHBOR_RATE_RATIO", .f64, .ro, (.int 0x3FF0000000000000), .any⟩,
       ⟨0x06, 0x06, "TXTS_DEPTH", .u8, .ro, (.int 0), .any⟩,
       ⟨0x07, 0x07, "TXTS_OVERFLOW", .bool, .ro, (.int 0), .any⟩,
       ⟨0x08, 0x08, "TXTS_DISCARDED", .u32, .ro, (.int 0), .any⟩,
       ⟨0x09, 0x09, "TXTS_CLEAR", .bool, .wo, (.int 0), (.ival 1 1)⟩,
       ⟨0x0A, 0x0A, "TC_UNMATCHED", .u32, .ro, (.int 0), .any⟩,
       ⟨0x0B, 0x0B, "TC_RESIDENCE_MAX", .u32, .ro, (.int 0), .any⟩]⟩]

/-- The objects of page 0x22xx. -/
def objs22 : List Group :=
  [
    ⟨0x2200, 8, 1,
      [⟨0x01, 0x01, "MODE", .u8, .st, (.int 0), (.ival 0 2)⟩,
       ⟨0x02, 0x02, "POLARITY", .u8, .st, (.int 0), (.ival 0 1)⟩,
       ⟨0x03, 0x03, "PERIOD", .u32, .st, (.int 1000000000), (.ival (100) 1000000000)⟩,
       ⟨0x04, 0x04, "PHASE", .u32, .st, (.int 0), (.ival 0 999999999)⟩,
       ⟨0x05, 0x05, "WIDTH", .u32, .st, (.int 1000), (.ival (10) 4000000000)⟩,
       ⟨0x06, 0x06, "TIMER", .u8, .st, (.int 0), (.ival (0) 15)⟩,
       ⟨0x07, 0x07, "ARM_AT", .et, .rw, (.int 0), .any⟩,
       ⟨0x08, 0x08, "STATE", .u8, .ro, (.int 0), .any⟩,
       ⟨0x09, 0x09, "FIRED", .u32, .ro, (.int 0), .any⟩,
       ⟨0x0A, 0x0A, "MISSED", .u32, .ro, (.int 0), .any⟩,
       ⟨0x0B, 0x0B, "LAST_EDGE", .et, .ro, (.int 0), .any⟩]⟩,
    ⟨0x2210, 1, 1,
      [⟨0x01, 0x01, "MODE", .u8, .st, (.int 0), (.ival 0 2)⟩,
       ⟨0x02, 0x02, "EDGE", .u8, .st, (.int 1), (.ival 1 3)⟩,
       ⟨0x03, 0x03, "IN_DELAY", .i32, .st, (.int 0), (.ival (-1000000) 1000000)⟩,
       ⟨0x04, 0x04, "CAPTURE_COUNT", .u32, .ro, (.int 0), .any⟩,
       ⟨0x05, 0x05, "CAPTURES", (.arr 64 16), .ro, (.bytes []), .any⟩,
       ⟨0x06, 0x06, "LOST", .u32, .ro, (.int 0), .any⟩,
       ⟨0x07, 0x07, "LAST", .et, .ro, (.int 0), .any⟩,
       ⟨0x08, 0x08, "IRIG_TIME", .et, .ro, (.int 0), .any⟩,
       ⟨0x09, 0x09, "IRIG_TQ", .u8, .ro, (.int 15), .any⟩,
       ⟨0x0A, 0x0A, "IRIG_ERRORS", .u32, .ro, (.int 0), .any⟩,
       ⟨0x0B, 0x0B, "IRIG_TQ_MAX", .u8, .st, (.int 4), (.ival (0) 15)⟩]⟩,
    ⟨0x2211, 1, 1,
      [⟨0x01, 0x01, "MODE", .u8, .st, (.int 0), (.set [0, 1, 3])⟩,
       ⟨0x02, 0x02, "EDGE", .u8, .st, (.int 1), (.ival 1 3)⟩,
       ⟨0x03, 0x03, "IN_DELAY", .i32, .st, (.int 0), (.ival (-1000000) 1000000)⟩,
       ⟨0x04, 0x04, "CAPTURE_COUNT", .u32, .ro, (.int 0), .any⟩,
       ⟨0x05, 0x05, "CAPTURES", (.arr 64 16), .ro, (.bytes []), .any⟩,
       ⟨0x06, 0x06, "LOST", .u32, .ro, (.int 0), .any⟩,
       ⟨0x07, 0x07, "LAST", .et, .ro, (.int 0), .any⟩]⟩,
    ⟨0x2212, 2, 1,
      [⟨0x01, 0x01, "MODE", .u8, .st, (.int 0), (.ival 0 1)⟩,
       ⟨0x02, 0x02, "EDGE", .u8, .st, (.int 1), (.ival 1 3)⟩,
       ⟨0x03, 0x03, "IN_DELAY", .i32, .st, (.int 0), (.ival (-1000000) 1000000)⟩,
       ⟨0x04, 0x04, "CAPTURE_COUNT", .u32, .ro, (.int 0), .any⟩,
       ⟨0x05, 0x05, "CAPTURES", (.arr 64 16), .ro, (.bytes []), .any⟩,
       ⟨0x06, 0x06, "LOST", .u32, .ro, (.int 0), .any⟩,
       ⟨0x07, 0x07, "LAST", .et, .ro, (.int 0), .any⟩]⟩]

/-- The objects of page 0x30xx. -/
def objs30 : List Group :=
  [
    ⟨0x3000, 48, 1,
      [⟨0x01, 0x01, "ENABLE", .bool, .st, (.int 1), .any⟩,
       ⟨0x02, 0x02, "FULL_SCALE", .f32, .st, (.int 0x3F800000), (.fival 0x3A83126F 0x4B189680)⟩,
       ⟨0x03, 0x03, "SENSOR_DELAY", .i16, .st, (.int 0), (.ival (-24576) 24576)⟩,
       ⟨0x04, 0x04, "INVERT", .bool, .st, (.int 0), .any⟩,
       ⟨0x05, 0x05, "OPEN_BIAS", .bool, .st, (.int 1), .any⟩,
       ⟨0x06, 0x06, "SUP_ENABLE", .u8, .st, (.int 7), (.mask 0x07)⟩,
       ⟨0x07, 0x07, "QUAL_WINDOW", .u32, .st, (.int 1000), (.ival (1) 3600000)⟩,
       ⟨0x08, 0x08, "QUAL_THRESH", .u8, .st, (.int 3), (.ival (1) 255)⟩,
       ⟨0x09, 0x09, "SUP_STATE", .u8, .ro, (.int 0), .any⟩,
       ⟨0x0A, 0x0A, "SUP_TRANSIENTS", .u32, .ro, (.int 0), .any⟩,
       ⟨0x0B, 0x0B, "SUP_CLEAR", .bool, .wo, (.int 0), (.ival 1 1)⟩,
       ⟨0x0C, 0x0C, "RESIDUAL", .i16, .ro, (.int 0), .any⟩] ++
      [⟨0x0D, 0x0D, "RMS", .f32, .ro, (.int 0), .any⟩,
       ⟨0x0E, 0x0E, "DC", .f32, .ro, (.int 0), .any⟩,
       ⟨0x0F, 0x0F, "QUALITY", .u16, .ro, (.int 512), .any⟩,
       ⟨0x10, 0x10, "OVERRANGE_COUNT", .u32, .ro, (.int 0), .any⟩]⟩]

/-- The objects of page 0x31xx. -/
def objs31 : List Group :=
  [
    ⟨0x3100, 8, 1,
      [⟨0x01, 0x01, "STREAM_ENABLE", .bool, .st, (.int 1), .any⟩,
       ⟨0x02, 0x02, "CLASS", .u8, .st, (.int 0), (.ival 0 1)⟩,
       ⟨0x03, 0x03, "RATE", .u8, .st, (.int 50), (.set [10, 12, 15, 20, 25, 30, 50, 60, 100, 120, 200, 240])⟩,
       ⟨0x04, 0x04, "DIRECTION", .u8, .st, (.int 0), (.ival 0 3)⟩,
       ⟨0x05, 0x05, "REV_MIN", .f32, .st, (.int 0x3F800000), (.fival 0x3C23D70A 0x447A0000)⟩,
       ⟨0x06, 0x06, "V_NOM", .f32, .st, (.int 0x42C80000), (.fival 0x3F800000 0x447A0000)⟩,
       ⟨0x07, 0x07, "FREQ", .f32, .ro, (.int 0), .any⟩,
       ⟨0x08, 0x08, "ROCOF", .f32, .ro, (.int 0), .any⟩,
       ⟨0x09, 0x09, "QUALITY", .u16, .ro, (.int 512), .any⟩,
       ⟨0x0A, 0x0A, "LAST_REPORT", .et, .ro, (.int 0), .any⟩]⟩]

/-- The objects of page 0x32xx. -/
def objs32 : List Group :=
  [
    ⟨0x3200, 1, 1,
      [⟨0x01, 0x01, "F_NOM", .u8, .st, (.int 50), (.set [50, 60])⟩,
       ⟨0x02, 0x02, "REF_BAY", .u8, .st, (.int 0), (.ival (0) 7)⟩,
       ⟨0x03, 0x03, "REF_QTY", .u8, .st, (.int 0), (.ival 0 1)⟩,
       ⟨0x04, 0x04, "F_EST", .f32, .ro, (.int 0x42480000), .any⟩,
       ⟨0x05, 0x05, "TRACK_STATE", .u8, .ro, (.int 0), .any⟩,
       ⟨0x06, 0x06, "FALLBACK_COUNT", .u32, .ro, (.int 0), .any⟩,
       ⟨0x07, 0x07, "SYNC_RESET_CMD", .u8, .wo, (.int 0), (.ival 1 1)⟩,
       ⟨0x08, 0x08, "SYNC_RESET_COUNT", .u32, .ro, (.int 0), .any⟩,
       ⟨0x09, 0x09, "LAST_SYNC_S", .et, .ro, (.int 0), .any⟩,
       ⟨0x0A, 0x0A, "GRID_OFFSET", .i32, .ro, (.int 0), .any⟩,
       ⟨0x0B, 0x0B, "CHAIN_STATE", .u8, .ro, (.int 0), .any⟩,
       ⟨0x0C, 0x0C, "CAL_STATUS", .u8, .ro, (.int 0), .any⟩]⟩]

/-- The objects of page 0x40xx. -/
def objs40 : List Group :=
  [
    ⟨0x4000, 1, 1,
      [⟨0x01, 0x01, "ENABLED_COUNT", .u16, .ro, (.int 0), .any⟩,
       ⟨0x02, 0x02, "TCP_COUNT", .u16, .ro, (.int 0), .any⟩,
       ⟨0x03, 0x03, "TCP_RATE", .u32, .ro, (.int 0), .any⟩,
       ⟨0x04, 0x04, "UNKNOWN_COUNT", .u32, .ro, (.int 0), .any⟩,
       ⟨0x05, 0x05, "UNKNOWN_SOURCES", (.arr 16 20), .ro, (.bytes []), .any⟩,
       ⟨0x06, 0x06, "CLEAR_ALL", .bool, .wo, (.int 0), (.ival 1 1)⟩]⟩,
    ⟨0x4001, 4095, 1,
      [⟨0x01, 0x01, "ENABLE", .bool, .st, (.int 0), .any⟩,
       ⟨0x02, 0x02, "IDCODE", .u16, .st, (.int 0), (.ival (1) 65534)⟩,
       ⟨0x03, 0x03, "TRANSPORT", .u8, .st, (.int 0), (.ival 0 1)⟩,
       ⟨0x04, 0x04, "SRC_ADDR", (.octets 16), .st, (.bytes (List.replicate 16 0)), .any⟩,
       ⟨0x05, 0x05, "DST_ADDR", (.octets 16), .st, (.bytes (List.replicate 16 0)), .any⟩,
       ⟨0x06, 0x06, "DST_PORT", .u16, .st, (.int 4713), (.ival (1) 65535)⟩,
       ⟨0x07, 0x07, "CMD_PORT", .u16, .st, (.int 4712), (.ival (1) 65535)⟩,
       ⟨0x08, 0x08, "RX_PORTS", .u8, .st, (.int 15), (.mask 0x3F)⟩,
       ⟨0x09, 0x09, "VID", .u16, .st, (.int 65535), (.ivals [(0, 4094), (0xFFFF, 0xFFFF)])⟩,
       ⟨0x0A, 0x0A, "RATE", .u8, .st, (.int 50), (.set [10, 12, 15, 20, 25, 30, 50, 60, 100, 120, 200, 240])⟩,
       ⟨0x0B, 0x0B, "TIME_BASE", .u32, .st, (.int 1000000), (.ival (1) 16777215)⟩,
       ⟨0x0C, 0x0C, "FORMAT", .u8, .st, (.int 15), (.mask 0x0F)⟩] ++
      [⟨0x0D, 0x0D, "NUM_PMU", .u8, .st, (.int 1), (.ival (1) 8)⟩,
       ⟨0x0E, 0x0E, "BLOCK_LAYOUT", (.octets 24), .st, (.bytes [1, 0, 0]), .any⟩,
       ⟨0x0F, 0x0F, "PH_KIND", .u32, .st, (.int 0), .any⟩,
       ⟨0x10, 0x10, "PH_FACTOR", (.arr 32 4), .st, (.bytes []), .any⟩,
       ⟨0x11, 0x11, "AN_FACTOR", (.arr 8 4), .st, (.bytes []), .any⟩,
       ⟨0x12, 0x12, "FNOM", .u8, .st, (.int 50), (.set [50, 60])⟩,
       ⟨0x13, 0x13, "REQUIRED", .bool, .st, (.int 0), .any⟩,
       ⟨0x14, 0x14, "MISSING", .u8, .st, (.int 0), (.ival 0 1)⟩,
       ⟨0x15, 0x15, "LATE_POLICY", .u8, .st, (.int 0), (.ival 0 1)⟩,
       ⟨0x16, 0x16, "LATE_WINDOW", .u32, .st, (.int 10000), (.ival (1) 3600000)⟩,
       ⟨0x17, 0x17, "LATE_THRESH", .u8, .st, (.int 3), (.ival (1) 255)⟩,
       ⟨0x18, 0x18, "AUTOFILL", .bool, .st, (.int 0), .any⟩] ++
      [⟨0x19, 0x19, "REQUEST_CFG", .bool, .st, (.int 0), .any⟩,
       ⟨0x1A, 0x1A, "STATE", .u8, .ro, (.int 0), .any⟩,
       ⟨0x1B, 0x1B, "TCP_STATE", .u8, .ro, (.int 0), .any⟩,
       ⟨0x1C, 0x1C, "FRAMES", .u64, .ro, (.int 0), .any⟩,
       ⟨0x1D, 0x1D, "DISCARDS", .u32, .ro, (.int 0), .any⟩,
       ⟨0x1E, 0x1E, "LAST_FRAME_ET", .et, .ro, (.int 0), .any⟩,
       ⟨0x1F, 0x1F, "LAST_ARRIVAL", .et, .ro, (.int 0), .any⟩,
       ⟨0x20, 0x20, "LAST_STAT", .u16, .ro, (.int 0), .any⟩,
       ⟨0x21, 0x21, "AUTOFILL_COUNT", .u32, .ro, (.int 0), .any⟩,
       ⟨0x22, 0x22, "CLEAR", .bool, .wo, (.int 0), (.ival 1 1)⟩]⟩]

/-- The objects of page 0x50xx. -/
def objs50 : List Group :=
  [
    ⟨0x5000, 1, 1,
      [⟨0x01, 0x01, "F_T", .u8, .st, (.int 50), (.set [10, 12, 15, 20, 25, 30, 50, 60, 100, 120, 200, 240])⟩,
       ⟨0x02, 0x02, "W", .u16, .st, (.int 50), (.ival (0) 2000)⟩,
       ⟨0x03, 0x03, "W_MIN", .u16, .st, (.int 0), (.ival (0) 2000)⟩,
       ⟨0x04, 0x04, "TOLERANCE", .u16, .st, (.int 100), (.ival (1) 2000)⟩,
       ⟨0x05, 0x05, "EXCUSE_SILENT", .bool, .st, (.int 1), .any⟩,
       ⟨0x06, 0x06, "STAT_TQ_LIMIT", .u8, .st, (.int 6), (.ival (1) 8)⟩,
       ⟨0x07, 0x07, "STATE", .u8, .ro, (.int 0), .any⟩,
       ⟨0x08, 0x08, "SEQ", .u64, .ro, (.int 0), .any⟩,
       ⟨0x09, 0x09, "LAST_K", .u64, .ro, (.int 0), .any⟩,
       ⟨0x0A, 0x0A, "LAST_TK", .et, .ro, (.int 0), .any⟩,
       ⟨0x0B, 0x0B, "LAST_RELEASE", .et, .ro, (.int 0), .any⟩,
       ⟨0x0C, 0x0C, "RELEASED_COMPLETE", .u64, .ro, (.int 0), .any⟩] ++
      [⟨0x0D, 0x0D, "RELEASED_DEADLINE", .u64, .ro, (.int 0), .any⟩,
       ⟨0x0E, 0x0E, "ORDER_WAITS", .u64, .ro, (.int 0), .any⟩,
       ⟨0x0F, 0x12, "LANE_MISS0–3", .u32, .ro, (.int 0), .any⟩,
       ⟨0x13, 0x13, "TIME_AHEAD", .u64, .ro, (.int 0), .any⟩,
       ⟨0x14, 0x14, "UNMATCHED", .u64, .ro, (.int 0), .any⟩,
       ⟨0x15, 0x15, "DUPLICATES", .u64, .ro, (.int 0), .any⟩,
       ⟨0x16, 0x16, "NO_SLOT", .u64, .ro, (.int 0), .any⟩,
       ⟨0x17, 0x17, "LATE_FRAMES", .u64, .ro, (.int 0), .any⟩,
       ⟨0x18, 0x18, "LATE_QUEUE_COUNT", .u32, .ro, (.int 0), .any⟩,
       ⟨0x19, 0x19, "LATE_QUEUE", (.arr 4096 768), .ro, (.bytes []), .any⟩,
       ⟨0x1A, 0x1A, "LATE_OVERWRITTEN", .u32, .ro, (.int 0), .any⟩,
       ⟨0x1B, 0x1B, "LATE_CLEAR", .u16, .wo, (.int 0), (.ival 0 4095)⟩] ++
      [⟨0x1C, 0x1C, "STEP_SKIPPED", .u64, .ro, (.int 0), .any⟩,
       ⟨0x1D, 0x1D, "DROPPED_HISTORY", .u64, .ro, (.int 0), .any⟩,
       ⟨0x1E, 0x1E, "DROPPED_EGRESS", .u64, .ro, (.int 0), .any⟩,
       ⟨0x1F, 0x1F, "DROPPED_SPECTRO", .u64, .ro, (.int 0), .any⟩,
       ⟨0x20, 0x20, "DROPPED_HORIZON", .u64, .ro, (.int 0), .any⟩,
       ⟨0x21, 0x21, "RECENT", (.arr 64 48), .ro, (.bytes []), .any⟩,
       ⟨0x22, 0x22, "REQUIRED_COUNT", .u16, .ro, (.int 0), .any⟩,
       ⟨0x23, 0x23, "COUNTER_CLEAR", .bool, .wo, (.int 0), (.ival 1 1)⟩]⟩]

/-- The objects of page 0x51xx. -/
def objs51 : List Group :=
  [
    ⟨0x5100, 1, 1,
      [⟨0x01, 0x01, "WATCH_TABLE", (.arr 4096 8), .st, (.bytes []), .any⟩,
       ⟨0x02, 0x02, "WATCH_USED", .u16, .ro, (.int 0), .any⟩,
       ⟨0x03, 0x03, "WATCH_CRC", .u32, .ro, (.int 0x011FFCA6), .any⟩]⟩,
    ⟨0x5101, 1, 1,
      [⟨0x01, 0x01, "HISTORY_CAPACITY", .u32, .ro, (.int 15360), .any⟩,
       ⟨0x02, 0x02, "OLDEST_SEQ", .u64, .ro, (.int 0), .any⟩,
       ⟨0x03, 0x03, "NEWEST_SEQ", .u64, .ro, (.int 0), .any⟩,
       ⟨0x04, 0x04, "HISTORY_SELECT", .u64, .rw, (.int 0), .any⟩,
       ⟨0x05, 0x05, "HISTORY_VECTOR", (.arr 4096 8), .ro, (.bytes []), .any⟩,
       ⟨0x06, 0x06, "HISTORY_HEADER", (.octets 48), .ro, (.bytes []), .any⟩]⟩,
    ⟨0x5102, 1, 1,
      [⟨0x01, 0x01, "LATEST_VECTOR", (.arr 4096 8), .ro, (.bytes []), .any⟩,
       ⟨0x02, 0x02, "LATEST_HEADER", (.octets 48), .ro, (.bytes (List.replicate 48 0)), .any⟩]⟩]

/-- The objects of page 0x52xx. -/
def objs52 : List Group :=
  [
    ⟨0x5200, 4, 1,
      [⟨0x01, 0x01, "MODE", .u8, .st, (.int 0), (.ival 0 1)⟩,
       ⟨0x02, 0x02, "LEVEL0", .u8, .st, (.int 7), (.ival (0) 7)⟩,
       ⟨0x03, 0x03, "LEVEL1", .u8, .st, (.int 7), (.ival (0) 7)⟩,
       ⟨0x04, 0x04, "LEVEL2", .u8, .st, (.int 6), (.ival (0) 7)⟩,
       ⟨0x05, 0x05, "LEVEL3", .u8, .st, (.int 5), (.ival (0) 7)⟩,
       ⟨0x06, 0x06, "LEVEL4", .u8, .st, (.int 4), (.ival (0) 7)⟩,
       ⟨0x07, 0x07, "LEVEL5", .u8, .st, (.int 4), (.ival (0) 7)⟩,
       ⟨0x08, 0x08, "LEVEL6", .u8, .st, (.int 3), (.ival (0) 7)⟩,
       ⟨0x09, 0x09, "LEVEL7", .u8, .st, (.int 1), (.ival (0) 7)⟩,
       ⟨0x0A, 0x0A, "SLOTS_BUSY", .u8, .ro, (.int 0), .any⟩,
       ⟨0x0B, 0x0B, "SLOTS_PEAK", .u8, .ro, (.int 0), .any⟩,
       ⟨0x0C, 0x0C, "TASKS_DONE", .u64, .ro, (.int 0), .any⟩] ++
      [⟨0x0D, 0x0D, "SATURATIONS", .u32, .ro, (.int 0), .any⟩,
       ⟨0x0E, 0x0E, "PENDING_SLOTS", .u16, .ro, (.int 0), .any⟩,
       ⟨0x0F, 0x0F, "PENDING_PEAK", .u16, .ro, (.int 0), .any⟩,
       ⟨0x10, 0x10, "CLEAR", .bool, .wo, (.int 0), (.ival 1 1)⟩]⟩]

/-- The objects of page 0x53xx. -/
def objs53 : List Group :=
  [
    ⟨0x5300, 4, 1,
      [⟨0x01, 0x01, "DEPTH", .u32, .ro, (.int 0), .any⟩,
       ⟨0x02, 0x02, "DEPTH_PEAK", .u32, .ro, (.int 0), .any⟩,
       ⟨0x03, 0x03, "SPILLED", .u32, .ro, (.int 0), .any⟩,
       ⟨0x04, 0x04, "CAPACITY", .u32, .ro, (.int 1032224), .any⟩,
       ⟨0x05, 0x05, "FRAMES_IN", .u64, .ro, (.int 0), .any⟩,
       ⟨0x06, 0x06, "FRAMES_OUT", .u64, .ro, (.int 0), .any⟩,
       ⟨0x07, 0x07, "RESETS", .u32, .ro, (.int 0), .any⟩,
       ⟨0x08, 0x08, "FRAMES_LOST", .u64, .ro, (.int 0), .any⟩,
       ⟨0x09, 0x09, "FULL_COUNT", .u32, .ro, (.int 0), .any⟩,
       ⟨0x0A, 0x0A, "FULL_TIME", .u64, .ro, (.int 0), .any⟩,
       ⟨0x0B, 0x0B, "CLEAR", .bool, .wo, (.int 0), (.ival 1 1)⟩]⟩]

/-- The objects of page 0x58xx. -/
def objs58 : List Group :=
  [
    ⟨0x5800, 16, 1,
      [⟨0x01, 0x01, "ENABLE", .bool, .st, (.int 0), .any⟩,
       ⟨0x02, 0x02, "IDCODE", .u16, .st, (.int 0), (.ival (1) 65534)⟩,
       ⟨0x03, 0x03, "DIV", .u8, .st, (.int 1), (.ival (1) 24)⟩,
       ⟨0x04, 0x04, "FORMAT", .u8, .st, (.int 15), (.mask 0x0F)⟩,
       ⟨0x05, 0x05, "TIME_BASE", .u32, .st, (.int 1000000), (.ival (1) 16777215)⟩,
       ⟨0x06, 0x06, "NUM_BLOCKS", .u8, .st, (.int 1), (.ival (1) 64)⟩,
       ⟨0x07, 0x07, "BLOCKS", (.arr 64 24), .st, (.bytes []), .any⟩,
       ⟨0x08, 0x08, "SELECTION", (.arr 4096 4), .st, (.bytes []), .any⟩,
       ⟨0x09, 0x09, "FILTER_TAPS", .u8, .st, (.int 0), (.set [0, 3, 5, 7, 9, 11, 13, 15, 17, 19, 21, 23, 25, 27, 29, 31, 33, 35, 37, 39, 41, 43, 45, 47, 49, 51, 53, 55, 57, 59, 61, 63])⟩,
       ⟨0x0A, 0x0A, "COEFFS", (.arr 63 4), .st, (.bytes []), .any⟩,
       ⟨0x0B, 0x0B, "DESTINATIONS", (.arr 4 32), .st, (.bytes []), .any⟩,
       ⟨0x0C, 0x0C, "TX_CONTROL", .u8, .st, (.int 0), (.ival 0 1)⟩] ++
      [⟨0x0D, 0x0D, "CMD_PORT", .u16, .st, (.int 4712), (.ival (1) 65535)⟩,
       ⟨0x0E, 0x0E, "CFG_NOTICE", .u8, .st, (.int 0), (.ival (0) 60)⟩,
       ⟨0x0F, 0x0F, "NAMES", (.arr 8192 16), .st, (.bytes []), .any⟩,
       ⟨0x10, 0x10, "HEADER", (.str 64), .st, (.bytes []), .any⟩,
       ⟨0x11, 0x11, "STATE", .u8, .ro, (.int 0), .any⟩,
       ⟨0x12, 0x12, "FRAME_SIZE", .u16, .ro, (.int 0), .any⟩,
       ⟨0x13, 0x13, "FRAMES_SENT", .u64, .ro, (.int 0), .any⟩,
       ⟨0x14, 0x14, "NO_ROUTE", .u32, .ro, (.int 0), .any⟩,
       ⟨0x15, 0x15, "BAD_COMMANDS", .u32, .ro, (.int 0), .any⟩,
       ⟨0x16, 0x16, "LAST_SENT", .et, .ro, (.int 0), .any⟩,
       ⟨0x17, 0x17, "COUNTER_CLEAR", .bool, .wo, (.int 0), (.ival 1 1)⟩]⟩]

/-- The objects of page 0x59xx. -/
def objs59 : List Group :=
  [
    ⟨0x5900, 1, 1,
      [⟨0x01, 0x01, "PUB_SENT", .u64, .ro, (.int 0), .any⟩,
       ⟨0x02, 0x02, "SUB_ACCEPTED", .u64, .ro, (.int 0), .any⟩,
       ⟨0x03, 0x03, "DUPLICATES", .u32, .ro, (.int 0), .any⟩,
       ⟨0x04, 0x04, "MISMATCHES", .u32, .ro, (.int 0), .any⟩,
       ⟨0x05, 0x05, "EXPIRIES", .u32, .ro, (.int 0), .any⟩,
       ⟨0x06, 0x06, "COUNTER_CLEAR", .bool, .wo, (.int 0), (.ival 1 1)⟩]⟩,
    ⟨0x5901, 1, 1,
      [⟨0x01, 0x01, "PUBLICATIONS", (.arr 16 256), .st, (.bytes []), .any⟩]⟩,
    ⟨0x5902, 1, 1,
      [⟨0x01, 0x01, "PUB_NAMES", (.arr 48 65), .st, (.bytes []), .any⟩]⟩,
    ⟨0x5903, 1, 1,
      [⟨0x01, 0x01, "SUBSCRIPTIONS", (.arr 64 32), .st, (.bytes []), .any⟩]⟩,
    ⟨0x5904, 1, 1,
      [⟨0x01, 0x01, "SUB_NAMES", (.arr 192 65), .st, (.bytes []), .any⟩]⟩,
    ⟨0x5905, 1, 1,
      [⟨0x01, 0x01, "SUB_STATE", (.arr 64 32), .ro, (.bytes []), .any⟩]⟩,
    ⟨0x5906, 1, 1,
      [⟨0x01, 0x01, "SUB_VALUES", (.arr 3072 8), .ro, (.bytes []), .any⟩]⟩]

/-- The objects of page 0x60xx. -/
def objs60 : List Group :=
  [
    ⟨0x6000, 1, 1,
      [⟨0x01, 0x01, "ENABLE", .bool, .st, (.int 0), .any⟩,
       ⟨0x02, 0x02, "STATE", .u8, .ro, (.int 0), .any⟩,
       ⟨0x03, 0x03, "INTER_UPDATES", .u64, .ro, (.int 0), .any⟩,
       ⟨0x04, 0x04, "LOCAL_UPDATES", .u64, .ro, (.int 0), .any⟩,
       ⟨0x05, 0x05, "RESETS", .u64, .ro, (.int 0), .any⟩,
       ⟨0x06, 0x06, "LANE_LATE", .u32, .ro, (.int 0), .any⟩,
       ⟨0x07, 0x07, "LOCAL_BLOCKS_DROPPED", .u32, .ro, (.int 0), .any⟩,
       ⟨0x08, 0x08, "SHAPE_MISSED", .u32, .ro, (.int 0), .any⟩,
       ⟨0x09, 0x0C, "WINDOW_USED0–3", .u32, .ro, (.int 0), .any⟩,
       ⟨0x0D, 0x0D, "RESET_CMD", .u16, .wo, (.int 0), (.ivals [(0, 4095), (0x8000, 0x803F), (0xFFFF, 0xFFFF)])⟩,
       ⟨0x0E, 0x0E, "COUNTER_CLEAR", .bool, .wo, (.int 0), (.ival 1 1)⟩]⟩,
    ⟨0x6001, 1, 1,
      [⟨0x01, 0x01, "SIGNALS", (.arr 4096 32), .st, (.bytes []), .any⟩]⟩,
    ⟨0x6002, 1, 1,
      [⟨0x01, 0x01, "LOCAL_SIGNALS", (.arr 64 32), .st, (.bytes []), .any⟩]⟩,
    ⟨0x6003, 1, 1,
      [⟨0x01, 0x01, "INTER_BANDS", (.arr 32 32), .st, (.bytes []), .any⟩]⟩,
    ⟨0x6004, 1, 1,
      [⟨0x01, 0x01, "LOCAL_BANDS", (.arr 64 32), .st, (.bytes []), .any⟩]⟩,
    ⟨0x6010, 1, 1,
      [⟨0x01, 0x01, "SIGNAL_SELECT", .u16, .rw, (.int 0), (.ivals [(0, 4095), (0x8000, 0x803F)])⟩,
       ⟨0x02, 0x02, "ESTIMATES", (.arr 64 32), .ro, (.bytes []), .any⟩]⟩,
    ⟨0x6011, 1, 1,
      [⟨0x01, 0x01, "BAND_SUMMARY", (.arr 96 24), .ro, (.bytes []), .any⟩]⟩,
    ⟨0x6012, 1, 1,
      [⟨0x01, 0x01, "SHAPE_COUNT", .u32, .ro, (.int 0), .any⟩,
       ⟨0x02, 0x02, "SHAPE_SELECT", .u32, .rw, (.int 0), .any⟩,
       ⟨0x03, 0x03, "SHAPE_HEADER", (.octets 64), .ro, (.bytes []), .any⟩,
       ⟨0x04, 0x04, "SHAPE_ENTRIES", (.arr 4096 12), .ro, (.bytes []), .any⟩]⟩]

/-- The objects of page 0x61xx. -/
def objs61 : List Group :=
  [
    ⟨0x6100, 1, 1,
      [⟨0x01, 0x01, "ENABLE", .bool, .st, (.int 0), .any⟩,
       ⟨0x02, 0x02, "STATE", .u8, .ro, (.int 0), .any⟩,
       ⟨0x03, 0x03, "BASE_COMPONENTS", .u16, .st, (.int 1), (.ival (1) 512)⟩,
       ⟨0x04, 0x04, "COMPONENTS", .u16, .ro, (.int 0), .any⟩,
       ⟨0x05, 0x05, "UNOBSERVED", .u16, .ro, (.int 0), .any⟩,
       ⟨0x06, 0x06, "EVALUATIONS", .u64, .ro, (.int 0), .any⟩,
       ⟨0x07, 0x07, "POLE_SLIPS", .u32, .ro, (.int 0), .any⟩,
       ⟨0x08, 0x08, "FORMED", .u32, .ro, (.int 0), .any⟩,
       ⟨0x09, 0x09, "MERGED", .u32, .ro, (.int 0), .any⟩,
       ⟨0x0A, 0x0A, "LAST_K", .u64, .ro, (.int 0), .any⟩,
       ⟨0x0B, 0x0B, "COUNTER_CLEAR", .bool, .wo, (.int 0), (.ival 1 1)⟩]⟩,
    ⟨0x6101, 1, 1,
      [⟨0x01, 0x01, "BUSES", (.arr 512 16), .st, (.bytes []), .any⟩]⟩,
    ⟨0x6102, 1, 1,
      [⟨0x01, 0x01, "TIES", (.arr 1024 32), .st, (.bytes []), .any⟩]⟩,
    ⟨0x6103, 1, 1,
      [⟨0x01, 0x01, "BUS_STATE", (.arr 512 8), .ro, (.bytes []), .any⟩]⟩,
    ⟨0x6104, 1, 1,
      [⟨0x01, 0x01, "TIE_STATE", (.arr 1024 24), .ro, (.bytes []), .any⟩]⟩,
    ⟨0x6105, 1, 1,
      [⟨0x01, 0x01, "EVENT_COUNT", .u32, .ro, (.int 0), .any⟩,
       ⟨0x02, 0x02, "ISLAND_EVENTS", (.arr 64 96), .ro, (.bytes []), .any⟩]⟩,
    ⟨0x6110, 8, 1,
      [⟨0x01, 0x01, "ENABLE", .bool, .st, (.int 0), .any⟩,
       ⟨0x02, 0x02, "VS_LIM", .f32, .st, (.int 0x3E0EF34D), (.fival 0x3C8F5C29 0x3F490FF9)⟩,
       ⟨0x03, 0x03, "ROCOF_LIM", .f32, .st, (.int 0x3F800000), (.fival 0x3D4CCCCD 0x41A00000)⟩,
       ⟨0x04, 0x04, "N_ROCOF", .u8, .st, (.int 2), (.ival (1) 20)⟩,
       ⟨0x05, 0x05, "V_MIN", .u8, .st, (.int 50), (.ival (10) 100)⟩,
       ⟨0x06, 0x06, "HOLD", .u16, .st, (.int 500), (.ival (0) 60000)⟩,
       ⟨0x07, 0x07, "STATE", .u8, .ro, (.int 0), .any⟩,
       ⟨0x08, 0x08, "LAST_VS", .f32, .ro, (.int 0), .any⟩,
       ⟨0x09, 0x09, "LAST_ROCOF", .f32, .ro, (.int 0), .any⟩,
       ⟨0x0A, 0x0A, "TRIPS", .u32, .ro, (.int 0), .any⟩,
       ⟨0x0B, 0x0B, "LAST_TRIP", .et, .ro, (.int 0), .any⟩,
       ⟨0x0C, 0x0C, "CAUSE", .u8, .ro, (.int 0), .any⟩]⟩]

/-- The objects of page 0x62xx. -/
def objs62 : List Group :=
  [
    ⟨0x6200, 1, 1,
      [⟨0x01, 0x01, "ROUTES", (.arr 256 16), .st, (.bytes []), .any⟩,
       ⟨0x02, 0x02, "ALARM_STATE", (.octets 32), .ro, (.bytes (List.replicate 32 0)), .any⟩,
       ⟨0x03, 0x03, "ROUTED_STATE", (.octets 32), .ro, (.bytes (List.replicate 32 0)), .any⟩,
       ⟨0x04, 0x04, "ACK", .u16, .wo, (.int 0), (.ivals [(0, 255), (0xFFFF, 0xFFFF)])⟩,
       ⟨0x05, 0x05, "LATCHED", (.octets 32), .ro, (.bytes (List.replicate 32 0)), .any⟩,
       ⟨0x06, 0x06, "CHANGES", .u64, .ro, (.int 0), .any⟩,
       ⟨0x07, 0x07, "COUNTER_CLEAR", .bool, .wo, (.int 0), (.ival 1 1)⟩]⟩,
    ⟨0x6201, 4, 1,
      [⟨0x01, 0x01, "MODE", .u8, .st, (.int 1), (.ival 0 2)⟩,
       ⟨0x02, 0x02, "POLARITY", .u8, .st, (.int 0), (.ival 0 1)⟩,
       ⟨0x03, 0x03, "PULSE_WIDTH", .u32, .st, (.int 1000), (.ival (1) 1000000)⟩,
       ⟨0x04, 0x04, "FORCE", .u8, .rw, (.int 0), (.ival 0 2)⟩,
       ⟨0x05, 0x05, "PIN_STATE", .u8, .ro, (.int 0), .any⟩,
       ⟨0x06, 0x06, "ASSERTIONS", .u32, .ro, (.int 0), .any⟩,
       ⟨0x07, 0x07, "LAST_ASSERT", .et, .ro, (.int 0), .any⟩]⟩]

/-- The objects of page 0x70xx. -/
def objs70 : List Group :=
  [
    ⟨0x7000, 1, 1,
      [⟨0x01, 0x01, "ENABLE", .bool, .st, (.int 0), .any⟩,
       ⟨0x02, 0x02, "STATE", .u8, .ro, (.int 0), .any⟩,
       ⟨0x03, 0x03, "ACTIVE_BANK", .u8, .ro, (.int 0), .any⟩,
       ⟨0x04, 0x04, "IMAGE_ID", .u32, .ro, (.int 0), .any⟩,
       ⟨0x05, 0x05, "PERIOD", .u32, .ro, (.int 0), .any⟩,
       ⟨0x06, 0x06, "OUTPUT_OFFSET", .u32, .ro, (.int 0), .any⟩,
       ⟨0x07, 0x07, "N_BLOCKS", .u16, .ro, (.int 0), .any⟩,
       ⟨0x08, 0x08, "CYCLES", .u64, .ro, (.int 0), .any⟩,
       ⟨0x09, 0x09, "SKIPPED_CYCLES", .u32, .ro, (.int 0), .any⟩,
       ⟨0x0A, 0x0A, "EVAL_LAST", .u32, .ro, (.int 0), .any⟩,
       ⟨0x0B, 0x0B, "EVAL_MAX", .u32, .ro, (.int 0), .any⟩,
       ⟨0x0C, 0x0C, "OVERRUNS", .u32, .ro, (.int 0), .any⟩] ++
      [⟨0x0D, 0x0D, "CHANGES", .u32, .ro, (.int 0), .any⟩,
       ⟨0x0E, 0x0E, "LAST_CHANGE", .et, .ro, (.int 0), .any⟩,
       ⟨0x0F, 0x11, "CARRIED, NEW, DROPPED", .u16, .ro, (.int 0), .any⟩,
       ⟨0x12, 0x12, "REENABLE_CMD", .u8, .wo, (.int 0), (.ival 1 1)⟩,
       ⟨0x13, 0x13, "IMAGE_ERROR", .u32, .ro, (.int 0), .any⟩,
       ⟨0x14, 0x14, "COUNTER_CLEAR", .bool, .wo, (.int 0), (.ival 1 1)⟩]⟩,
    ⟨0x7001, 1, 1,
      [⟨0x01, 0x01, "IMAGE", (.arr 20501 4), .st, (.bytes []), .any⟩]⟩,
    ⟨0x7003, 1, 1,
      [⟨0x01, 0x01, "BLOCK_OUTPUTS", (.arr 4096 8), .ro, (.bytes []), .any⟩,
       ⟨0x02, 0x02, "PUBLISHED", (.arr 256 8), .ro, (.bytes []), .any⟩]⟩]

/-- The objects of page 0x71xx. -/
def objs71 : List Group :=
  [
    ⟨0x7100, 16, 1,
      [⟨0x01, 0x01, "ENABLE", .bool, .st, (.int 0), .any⟩,
       ⟨0x02, 0x02, "SAFE_VALUE", .u8, .st, (.int 0), (.ival 0 1)⟩,
       ⟨0x03, 0x03, "SUPERVISION", .u8, .st, (.int 3), (.mask 0x03)⟩,
       ⟨0x04, 0x04, "QUAL_WINDOW", .u32, .st, (.int 1000), (.ival (1) 3600000)⟩,
       ⟨0x05, 0x05, "QUAL_THRESH", .u8, .st, (.int 3), (.ival (1) 255)⟩,
       ⟨0x06, 0x06, "STATE", .u8, .ro, (.int 0), .any⟩,
       ⟨0x07, 0x07, "FAULTS", .u8, .ro, (.int 0), .any⟩,
       ⟨0x08, 0x08, "TRANSIENTS", .u32, .ro, (.int 0), .any⟩,
       ⟨0x09, 0x09, "SUP_CLEAR", .bool, .wo, (.int 0), (.ival 1 1)⟩,
       ⟨0x0A, 0x0A, "SWITCHES", .u32, .ro, (.int 0), .any⟩,
       ⟨0x0B, 0x0B, "LAST_SWITCH", .et, .ro, (.int 0), .any⟩]⟩,
    ⟨0x7120, 24, 1,
      [⟨0x01, 0x01, "ENABLE", .bool, .st, (.int 0), .any⟩,
       ⟨0x02, 0x02, "SUPERVISED", .bool, .st, (.int 1), .any⟩,
       ⟨0x03, 0x03, "INVERT", .bool, .st, (.int 0), .any⟩,
       ⟨0x04, 0x04, "DEBOUNCE", .u8, .st, (.int 5), (.ival (0) 100)⟩,
       ⟨0x05, 0x05, "QUAL_WINDOW", .u32, .st, (.int 1000), (.ival (1) 3600000)⟩,
       ⟨0x06, 0x06, "QUAL_THRESH", .u8, .st, (.int 3), (.ival (1) 255)⟩,
       ⟨0x07, 0x07, "BAND", .u8, .ro, (.int 255), .any⟩,
       ⟨0x08, 0x08, "STATE", .u8, .ro, (.int 0), .any⟩,
       ⟨0x09, 0x09, "QUALITY", .u16, .ro, (.int 512), .any⟩,
       ⟨0x0A, 0x0A, "LAST_CHANGE", .et, .ro, (.int 0), .any⟩,
       ⟨0x0B, 0x0B, "CHANGES", .u32, .ro, (.int 0), .any⟩,
       ⟨0x0C, 0x0C, "WIRING", .u8, .ro, (.int 0), .any⟩] ++
      [⟨0x0D, 0x0D, "TRANSIENTS", .u32, .ro, (.int 0), .any⟩,
       ⟨0x0E, 0x0E, "SUP_CLEAR", .bool, .wo, (.int 0), (.ival 1 1)⟩]⟩]

/-- The objects of page 0x80xx. -/
def objs80 : List Group :=
  [
    ⟨0x8000, 8, 1,
      [⟨0x01, 0x01, "ENABLE", .bool, .st, (.int 1), .any⟩,
       ⟨0x02, 0x02, "NET_MODE", .u8, .st, (.int 0), (.ival 0 1)⟩,
       ⟨0x03, 0x03, "DEMAND_PERIOD", .u8, .st, (.int 15), (.set [1, 2, 3, 4, 5, 6, 10, 12, 15, 20, 30, 60])⟩,
       ⟨0x04, 0x04, "FAULT_ENABLE", .u8, .st, (.int 3), (.mask 0x03)⟩,
       ⟨0x05, 0x05, "FAULT_CYCLES", .u8, .st, (.int 5), (.ival (1) 255)⟩,
       ⟨0x06, 0x06, "V0_LIM", .u8, .st, (.int 20), (.ival (5) 100)⟩,
       ⟨0x07, 0x07, "QUAL_WINDOW", .u32, .st, (.int 60000), (.ival (1) 3600000)⟩,
       ⟨0x08, 0x08, "QUAL_THRESH", .u8, .st, (.int 3), (.ival (1) 255)⟩,
       ⟨0x09, 0x09, "REGISTERS", (.arr 16 16), .ro, (.bytes []), .any⟩,
       ⟨0x0A, 0x0A, "STATES", (.arr 16 8), .ro, (.bytes []), .any⟩,
       ⟨0x0B, 0x0B, "DEMAND_COUNT", .u32, .ro, (.int 0), .any⟩,
       ⟨0x0C, 0x0C, "DEMAND", (.arr 96 64), .ro, (.bytes []), .any⟩] ++
      [⟨0x0D, 0x0D, "FAULTS", .u8, .ro, (.int 0), .any⟩,
       ⟨0x0E, 0x0E, "TRANSIENTS", .u32, .ro, (.int 0), .any⟩,
       ⟨0x0F, 0x0F, "SUP_CLEAR", .bool, .wo, (.int 0), (.ival 1 1)⟩,
       ⟨0x10, 0x10, "OVERRANGE_CYCLES", .u32, .ro, (.int 0), .any⟩,
       ⟨0x11, 0x11, "LAST_CYCLE", .et, .ro, (.int 0), .any⟩]⟩,
    ⟨0x8010, 1, 1,
      [⟨0x01, 0x01, "SNAPSHOT_AT", .et, .rw, (.int 0), .any⟩,
       ⟨0x02, 0x02, "SNAPSHOT_CMD", .u8, .wo, (.int 0), (.ival 1 1)⟩,
       ⟨0x03, 0x03, "SNAPSHOT_COUNT", .u32, .ro, (.int 0), .any⟩,
       ⟨0x04, 0x04, "SNAP_REGISTERS", (.arr 128 16), .ro, (.bytes []), .any⟩,
       ⟨0x05, 0x05, "SNAP_PULSES", (.arr 24 8), .ro, (.bytes []), .any⟩,
       ⟨0x06, 0x06, "SNAP_ET", .et, .ro, (.int 0), .any⟩,
       ⟨0x07, 0x07, "SAVE_PERIOD", .u16, .st, (.int 60), (.ival (10) 3600)⟩,
       ⟨0x08, 0x08, "LAST_SAVE", .et, .ro, (.int 0), .any⟩,
       ⟨0x09, 0x09, "RESET_CMD", .u8, .wo, (.int 0), (.ivals [(0, 7), (0xFF, 0xFF)])⟩]⟩]

/-- The objects of page 0x81xx. -/
def objs81 : List Group :=
  [
    ⟨0x8100, 24, 1,
      [⟨0x01, 0x01, "ENABLE", .bool, .st, (.int 0), .any⟩,
       ⟨0x02, 0x02, "WEIGHT", .f64, .st, (.int 0x3FF0000000000000), .fpos⟩,
       ⟨0x03, 0x03, "UNIT", .u8, .st, (.int 0), (.ival 0 4)⟩,
       ⟨0x04, 0x04, "COUNT", .u64, .ro, (.int 0), .any⟩,
       ⟨0x05, 0x05, "TOTAL", .f64, .ro, (.int 0), .any⟩,
       ⟨0x06, 0x06, "REJECTED", .u32, .ro, (.int 0), .any⟩,
       ⟨0x07, 0x07, "UNCERTAIN", .u32, .ro, (.int 0), .any⟩,
       ⟨0x08, 0x08, "LAST_PULSE", .et, .ro, (.int 0), .any⟩,
       ⟨0x09, 0x09, "COUNT_SET", .u64, .wo, (.int 0), .any⟩]⟩]

/-- The objects of page 0x90xx. -/
def objs90 : List Group :=
  [
    ⟨0x9000, 1, 1,
      [⟨0x01, 0x01, "ENABLE", .bool, .st, (.int 0), .any⟩,
       ⟨0x02, 0x02, "STATE", .u8, .ro, (.int 0), .any⟩,
       ⟨0x03, 0x03, "PRE_TRIGGER", .u32, .st, (.int 500), (.ival (0) 60000)⟩,
       ⟨0x04, 0x04, "POST_TRIGGER", .u32, .st, (.int 2000), (.ival (1) 600000)⟩,
       ⟨0x05, 0x05, "RETRIGGER", .bool, .st, (.int 0), .any⟩,
       ⟨0x06, 0x06, "REARM", .u16, .st, (.int 100), (.ival (0) 60000)⟩,
       ⟨0x07, 0x07, "AUTO_PERIOD", .u32, .st, (.int 0), (.ivals [(0, 0), (60, 604800)])⟩,
       ⟨0x08, 0x08, "POLICY", .u8, .st, (.int 0), (.ival 0 1)⟩,
       ⟨0x09, 0x09, "STATION_ROLE", .u8, .st, (.int 0), (.ival 0 2)⟩,
       ⟨0x0A, 0x0A, "XTRIG_WIDTH", .u16, .st, (.int 20), (.ival (1) 1000)⟩,
       ⟨0x0B, 0x0B, "ORRERY_CHANNELS", (.arr 16 2), .st, (.bytes []), .any⟩,
       ⟨0x0C, 0x0C, "STATION_NAME", (.str 64), .st, (.bytes []), .any⟩] ++
      [⟨0x0D, 0x0D, "SEGMENTS", .u32, .ro, (.int 5422), .any⟩,
       ⟨0x0E, 0x0E, "FREE_SEGMENTS", .u32, .ro, (.int 0), .any⟩,
       ⟨0x0F, 0x0F, "HISTORY", .u32, .ro, (.int 0), .any⟩,
       ⟨0x10, 0x10, "REWIND_MARK", .u32, .ro, (.int 4294967295), .any⟩,
       ⟨0x11, 0x11, "PLATE_COUNT", .u32, .ro, (.int 0), .any⟩,
       ⟨0x12, 0x12, "MISSED", .u32, .ro, (.int 0), .any⟩,
       ⟨0x13, 0x13, "LOST", .u32, .ro, (.int 0), .any⟩,
       ⟨0x14, 0x14, "MARKERS_LOST", .u32, .ro, (.int 0), .any⟩,
       ⟨0x15, 0x15, "TRIGGER_CMD", .u8, .wo, (.int 0), (.ival 0 31)⟩,
       ⟨0x16, 0x16, "RESUME_CMD", .u8, .wo, (.int 0), (.ival 1 1)⟩,
       ⟨0x17, 0x17, "RELEASE_CMD", .u32, .wo, (.int 0), .any⟩,
       ⟨0x18, 0x18, "COUNTER_CLEAR", .bool, .wo, (.int 0), (.ival 1 1)⟩]⟩,
    ⟨0x9010, 1, 1,
      [⟨0x01, 0x01, "TRIGGERS", (.arr 32 32), .st, (.bytes []), .any⟩]⟩,
    ⟨0x9011, 1, 1,
      [⟨0x01, 0x01, "PLATES", (.arr 64 128), .ro, (.bytes []), .any⟩,
       ⟨0x02, 0x02, "MARKERS", (.arr 2048 8), .ro, (.bytes []), .any⟩]⟩,
    ⟨0x9012, 1, 1,
      [⟨0x01, 0x01, "EXPORT_CMD", .u32, .wo, (.int 0), .any⟩,
       ⟨0x02, 0x02, "EXPORT_FORMAT", .u8, .rw, (.int 0), (.ival 0 1)⟩,
       ⟨0x03, 0x03, "EXPORT_CFG", (.arr 32768 1), .ro, (.bytes []), .any⟩,
       ⟨0x04, 0x04, "DAT_BLOCKS", .u32, .ro, (.int 0), .any⟩,
       ⟨0x05, 0x05, "EXPORT_SEEK", .u32, .rw, (.int 0), .any⟩,
       ⟨0x06, 0x06, "EXPORT_CHUNK", (.arr 65536 1), .ro, (.bytes []), .any⟩,
       ⟨0x07, 0x07, "CHUNK_LEN", .u32, .ro, (.int 0), .any⟩,
       ⟨0x08, 0x08, "CHUNK_RAW", .bool, .ro, (.int 0), .any⟩,
       ⟨0x09, 0x09, "CFG_LEN", .u32, .ro, (.int 0), .any⟩]⟩]

/-- The objects of page 0x98xx. -/
def objs98 : List Group :=
  [
    ⟨0x9800, 1, 1,
      [⟨0x01, 0x01, "JOBS", .u64, .ro, (.int 0), .any⟩,
       ⟨0x02, 0x02, "BYTES_IN", .u64, .ro, (.int 0), .any⟩,
       ⟨0x03, 0x03, "BYTES_OUT", .u64, .ro, (.int 0), .any⟩,
       ⟨0x04, 0x04, "RAW_BLOCKS", .u64, .ro, (.int 0), .any⟩,
       ⟨0x05, 0x05, "SUSPENSIONS", .u32, .ro, (.int 0), .any⟩,
       ⟨0x06, 0x06, "LIMIT_STOPS", .u32, .ro, (.int 0), .any⟩,
       ⟨0x07, 0x07, "FORMAT_ERRORS", .u32, .ro, (.int 0), .any⟩,
       ⟨0x08, 0x08, "ABORTS", .u32, .ro, (.int 0), .any⟩,
       ⟨0x09, 0x09, "QUEUE_DEPTH", .u8, .ro, (.int 0), .any⟩,
       ⟨0x0A, 0x0A, "SELFTEST_CMD", .u8, .wo, (.int 0), (.ival 1 1)⟩,
       ⟨0x0B, 0x0B, "COUNTER_CLEAR", .bool, .wo, (.int 0), (.ival 1 1)⟩]⟩]

/-- The objects of page 0xA0xx. -/
def objsA0 : List Group :=
  [
    ⟨0xA000, 1, 1,
      [⟨0x01, 0x01, "CAPACITY", .u32, .ro, (.int 262144), .any⟩,
       ⟨0x02, 0x02, "HELD", .u32, .ro, (.int 0), .any⟩,
       ⟨0x03, 0x03, "NEXT_SEQ", .u64, .ro, (.int 1), .any⟩,
       ⟨0x04, 0x04, "OLDEST_SEQ", .u64, .ro, (.int 0), .any⟩,
       ⟨0x05, 0x05, "DROPPED", (.arr 8 4), .ro, (.bytes []), .any⟩,
       ⟨0x06, 0x06, "OVERWRITTEN", .u64, .ro, (.int 0), .any⟩,
       ⟨0x07, 0x07, "DAMAGED", .u32, .ro, (.int 0), .any⟩,
       ⟨0x08, 0x08, "BOOT_DROPS", .u32, .ro, (.int 0), .any⟩,
       ⟨0x09, 0x09, "FLASH_HELD", .u32, .ro, (.int 0), .any⟩,
       ⟨0x0A, 0x0A, "FLASH_ERASED", .u64, .ro, (.int 0), .any⟩,
       ⟨0x0B, 0x0B, "MIRROR_DROPS", .u32, .ro, (.int 0), .any⟩,
       ⟨0x0C, 0x0C, "FLASH_DAMAGED", .u32, .ro, (.int 0), .any⟩] ++
      [⟨0x0D, 0x0D, "CLEAR", .bool, .wo, (.int 0), (.ival 1 1)⟩,
       ⟨0x0E, 0x0E, "FLASH_CLEAR", .bool, .wo, (.int 0), (.ival 1 1)⟩,
       ⟨0x0F, 0x0F, "COUNTER_CLEAR", .bool, .wo, (.int 0), (.ival 1 1)⟩]⟩,
    ⟨0xA001, 1, 1,
      [⟨0x01, 0x01, "SOURCES", (.arr 128 36), .st, (.bytes []), .any⟩]⟩,
    ⟨0xA002, 1, 1,
      [⟨0x01, 0x01, "RING", .u8, .rw, (.int 0), (.ival 0 1)⟩,
       ⟨0x02, 0x02, "LOG_SELECT", .u64, .rw, (.int 0), .any⟩,
       ⟨0x03, 0x03, "BLOCK_FORMAT", .u8, .rw, (.int 0), (.ival 0 1)⟩,
       ⟨0x04, 0x04, "BLOCK", (.arr 65536 1), .ro, (.bytes []), .any⟩,
       ⟨0x05, 0x05, "BLOCK_LEN", .u32, .ro, (.int 0), .any⟩,
       ⟨0x06, 0x06, "BLOCK_RAW", .bool, .ro, (.int 0), .any⟩,
       ⟨0x07, 0x07, "BLOCK_RECORDS", .u16, .ro, (.int 0), .any⟩,
       ⟨0x08, 0x08, "NEXT_SELECT", .u64, .ro, (.int 0), .any⟩]⟩]

/-- The objects of page 0xA8xx. -/
def objsA8 : List Group :=
  [
    ⟨0xA800, 1, 1,
      [⟨0x01, 0x01, "RAISES", .u64, .ro, (.int 0), .any⟩,
       ⟨0x02, 0x02, "PENDING", (.octets 16), .ro, (.bytes (List.replicate 16 0)), .any⟩,
       ⟨0x03, 0x03, "ACK", .u16, .wo, (.int 0), (.ivals [(0, 127), (0xFFFF, 0xFFFF)])⟩,
       ⟨0x04, 0x04, "IRQ_STATE", .u8, .ro, (.int 0), .any⟩,
       ⟨0x05, 0x05, "COUNTER_CLEAR", .bool, .wo, (.int 0), (.ival 1 1)⟩]⟩,
    ⟨0xA801, 1, 1,
      [⟨0x01, 0x01, "ROUTING", (.arr 128 4), .st, (.bytes []), .any⟩,
       ⟨0x02, 0x02, "COUNTS", (.arr 128 4), .ro, (.bytes []), .any⟩]⟩,
    ⟨0xA802, 1, 1,
      [⟨0x01, 0x01, "EVENT_NOTIFY", (.octets 64), .ro, (.bytes (List.replicate 64 0)), .any⟩]⟩]

/-- The objects of page 0xB0xx. -/
def objsB0 : List Group :=
  [
    ⟨0xB000, 64, 1,
      [⟨0x01, 0x01, "STATE", .u8, .ro, (.int 0), .any⟩,
       ⟨0x02, 0x02, "ATTRIBUTES", .u32, .ro, (.int 0), .any⟩,
       ⟨0x03, 0x03, "GENERATION", .u32, .ro, (.int 0), .any⟩,
       ⟨0x04, 0x04, "PUBLIC", (.octets 97), .ro, (.bytes []), .any⟩,
       ⟨0x05, 0x05, "COPY_STATE", .u8, .ro, (.int 0), .any⟩,
       ⟨0x06, 0x06, "USES", .u32, .ro, (.int 0), .any⟩,
       ⟨0x07, 0x07, "LAST_UPDATE", .et, .ro, (.int 0), .any⟩]⟩]

/-- The objects of page 0xB1xx. -/
def objsB1 : List Group :=
  [
    ⟨0xB100, 1, 1,
      [⟨0x01, 0x01, "KEY_STATE", .u8, .ro, (.int 0), .any⟩,
       ⟨0x02, 0x02, "M", (.octets 48), .ro, (.bytes (List.replicate 48 0)), .any⟩,
       ⟨0x03, 0x03, "M_NEXT", (.octets 48), .ro, (.bytes (List.replicate 48 0)), .any⟩,
       ⟨0x04, 0x04, "MEAS_LOG", (.arr 4 48), .ro, (.bytes []), .any⟩,
       ⟨0x05, 0x05, "PUF_STATUS", .u8, .ro, (.int 0), .any⟩,
       ⟨0x06, 0x06, "PUF_BER", .u32, .ro, (.int 0), .any⟩,
       ⟨0x07, 0x07, "HELPER_STATE", .u8, .ro, (.int 0), .any⟩,
       ⟨0x08, 0x08, "RK_FINGERPRINT", (.octets 8), .ro, (.bytes []), .any⟩,
       ⟨0x09, 0x09, "TAMPER_ENABLE", .u16, .st, (.int 255), (.mask 0x01FF)⟩,
       ⟨0x0A, 0x0A, "AON_LOSS_IS_TAMPER", .bool, .st, (.int 0), .any⟩,
       ⟨0x0B, 0x0B, "TAMPER_LATCH", .u16, .ro, (.int 0), .any⟩,
       ⟨0x0C, 0x0C, "TAMPER_ACTIVE", .u16, .ro, (.int 0), .any⟩] ++
      [⟨0x0D, 0x0D, "TAMPER_COUNT", .u32, .ro, (.int 0), .any⟩,
       ⟨0x0E, 0x0E, "TAMPER_FIRST", .et, .ro, (.int 0), .any⟩,
       ⟨0x0F, 0x0F, "TAMPER_CLEAR_CMD", .u8, .wo, (.int 0), (.ival 1 1)⟩,
       ⟨0x10, 0x10, "KS0_CERT", (.octets 2048), .ro, (.bytes []), .any⟩]⟩,
    ⟨0xB101, 1, 1,
      [⟨0x01, 0x01, "KEY_CMD", .u8, .wo, (.int 0), (.ival (1) 12)⟩,
       ⟨0x02, 0x02, "SLOT", .u8, .rw, (.int 0), (.ival (0) 63)⟩,
       ⟨0x03, 0x03, "TARGET", .u8, .rw, (.int 0), (.ival (0) 63)⟩,
       ⟨0x04, 0x04, "INPUT", (.octets 512), .rw, (.bytes []), .any⟩,
       ⟨0x05, 0x05, "OUTPUT", (.octets 512), .ro, (.bytes []), .any⟩,
       ⟨0x06, 0x06, "OUT_LEN", .u16, .ro, (.int 0), .any⟩]⟩]

/-- The objects of page 0xC0xx. -/
def objsC0 : List Group :=
  [
    ⟨0xC000, 1, 1,
      [⟨0x01, 0x01, "PAIR_MODE", .u8, .st, (.int 0), (.ival 0 1)⟩,
       ⟨0x02, 0x02, "UNIT_ID", .u8, .ro, (.int 0), .any⟩,
       ⟨0x03, 0x03, "WIT_MODE", .bool, .ro, (.int 0), .any⟩,
       ⟨0x04, 0x04, "ROLE_STATE", .u8, .ro, (.int 0), .any⟩,
       ⟨0x05, 0x05, "ACTING", .bool, .ro, (.int 0), .any⟩,
       ⟨0x06, 0x06, "PERMIT", .bool, .ro, (.int 0), .any⟩,
       ⟨0x07, 0x07, "PAIR_HOLD", .u16, .st, (.int 25), (.ival (5) 1000)⟩,
       ⟨0x08, 0x08, "TEST_MODE", .bool, .rw, (.int 0), .any⟩,
       ⟨0x09, 0x09, "LINK_STATE", .u8, .ro, (.int 0), .any⟩,
       ⟨0x0A, 0x0A, "PAIR_GEN", .u8, .ro, (.int 0), .any⟩,
       ⟨0x0B, 0x0B, "PEER_GEN", .u8, .ro, (.int 0), .any⟩,
       ⟨0x0C, 0x0C, "PEER_SERIAL", (.str 16), .ro, (.bytes []), .any⟩] ++
      [⟨0x0D, 0x0D, "LAST_MIRROR", .et, .ro, (.int 0), .any⟩,
       ⟨0x0E, 0x0E, "MIRROR_LATE", .u32, .ro, (.int 0), .any⟩,
       ⟨0x0F, 0x0F, "STATE_LATE", .u32, .ro, (.int 0), .any⟩,
       ⟨0x10, 0x10, "DIVERGENCES", .u32, .ro, (.int 0), .any⟩,
       ⟨0x11, 0x11, "CLAIMS", .u32, .ro, (.int 0), .any⟩,
       ⟨0x12, 0x12, "CONTENTIONS", .u32, .ro, (.int 0), .any⟩,
       ⟨0x13, 0x13, "DEPOSES", .u32, .ro, (.int 0), .any⟩,
       ⟨0x14, 0x14, "LAST_SWITCH", .et, .ro, (.int 0), .any⟩,
       ⟨0x15, 0x15, "HANDOVER_CMD", .u8, .wo, (.int 0), (.ival 1 1)⟩,
       ⟨0x16, 0x16, "DEPOSE_RESTART", .bool, .st, (.int 1), .any⟩,
       ⟨0x17, 0x17, "COUNTER_CLEAR", .bool, .wo, (.int 0), (.ival 1 1)⟩,
       ⟨0x18, 0x18, "WIT_TIMEOUT", .u16, .st, (.int 100), (.ival (10) 1000)⟩]⟩]

/-- The objects of page 0xC1xx. -/
def objsC1 : List Group :=
  [
    ⟨0xC100, 1, 1,
      [⟨0x01, 0x01, "ENABLE", .bool, .st, (.int 0), .any⟩,
       ⟨0x02, 0x02, "HB_PERIOD", .u16, .st, (.int 1000), (.ival (500) 10000)⟩,
       ⟨0x03, 0x03, "T_W", .u16, .st, (.int 20), (.ival (5) 100)⟩,
       ⟨0x04, 0x05, "UNIT0_STATE, UNIT1_STATE", .u8, .ro, (.int 255), .any⟩,
       ⟨0x06, 0x07, "UNIT0_HB, UNIT1_HB", .et, .ro, (.int 0), .any⟩,
       ⟨0x08, 0x08, "DEPOSE_OUT", .u8, .ro, (.int 0), .any⟩,
       ⟨0x09, 0x09, "DEPOSE_COUNT", .u32, .ro, (.int 0), .any⟩,
       ⟨0x0A, 0x0A, "NO_ANSWER", .u32, .ro, (.int 0), .any⟩,
       ⟨0x0B, 0x0B, "CRC_ERRORS", .u32, .ro, (.int 0), .any⟩,
       ⟨0x0C, 0x0C, "DUAL_CLAIMS", .u32, .ro, (.int 0), .any⟩]⟩]

/-- The objects of page 0xD0xx. -/
def objsD0 : List Group :=
  [
    ⟨0xD000, 1, 1,
      [⟨0x01, 0x01, "BOOT_STAGE", .u8, .ro, (.int 0), .any⟩,
       ⟨0x02, 0x02, "STAGE_LOG", (.arr 16 12), .ro, (.bytes []), .any⟩,
       ⟨0x03, 0x03, "START_CAUSE", .u8, .ro, (.int 0), .any⟩,
       ⟨0x04, 0x04, "START_COUNT", .u32, .ro, (.int 0), .any⟩,
       ⟨0x05, 0x05, "RECOVERY_CAUSE", .u8, .ro, (.int 0), .any⟩,
       ⟨0x06, 0x06, "ACQ_TIMEOUT", .u16, .st, (.int 60), (.ival (0) 3600)⟩,
       ⟨0x07, 0x07, "CONFIG_GEN", .u32, .ro, (.int 0), .any⟩,
       ⟨0x08, 0x08, "CONFIG_SOURCE", .u8, .ro, (.int 0), .any⟩,
       ⟨0x09, 0x09, "CONFIG_SAVED", .bool, .ro, (.int 0), .any⟩]⟩,
    ⟨0xD010, 1, 1,
      [⟨0x01, 0x01, "ACTIVE_BANK", .u8, .ro, (.int 0), .any⟩,
       ⟨0x02, 0x03, "BANK0_STATE, BANK1_STATE", .u8, .ro, (.int 0), .any⟩,
       ⟨0x04, 0x05, "BANK0_HEADER, BANK1_HEADER", (.octets 160), .ro, (.bytes (List.replicate 160 0)), .any⟩,
       ⟨0x06, 0x06, "DOWNLOAD", (.arr 65536 1), .wo, (.bytes []), .any⟩,
       ⟨0x07, 0x07, "BASE", .u32, .rw, (.int 0), (.mult 65536 262144)⟩,
       ⟨0x08, 0x08, "WRITTEN", .u32, .ro, (.int 0), .any⟩,
       ⟨0x09, 0x09, "OWNER", .u32, .ro, (.int 0), .any⟩,
       ⟨0x0A, 0x0A, "FALLBACKS", .u32, .ro, (.int 0), .any⟩]⟩,
    ⟨0xD011, 1, 1,
      [⟨0x01, 0x01, "ACTIVE_BANK", .u8, .ro, (.int 0), .any⟩,
       ⟨0x02, 0x03, "BANK0_STATE, BANK1_STATE", .u8, .ro, (.int 0), .any⟩,
       ⟨0x04, 0x05, "BANK0_HEADER, BANK1_HEADER", (.octets 160), .ro, (.bytes (List.replicate 160 0)), .any⟩,
       ⟨0x06, 0x06, "DOWNLOAD", (.arr 65536 1), .wo, (.bytes []), .any⟩,
       ⟨0x07, 0x07, "BASE", .u32, .rw, (.int 0), (.mult 65536 16777216)⟩,
       ⟨0x08, 0x08, "WRITTEN", .u32, .ro, (.int 0), .any⟩,
       ⟨0x09, 0x09, "OWNER", .u32, .ro, (.int 0), .any⟩,
       ⟨0x0A, 0x0A, "FALLBACKS", .u32, .ro, (.int 0), .any⟩]⟩,
    ⟨0xD012, 1, 1,
      [⟨0x01, 0x01, "ACTIVE_BANK", .u8, .ro, (.int 0), .any⟩,
       ⟨0x02, 0x03, "BANK0_STATE, BANK1_STATE", .u8, .ro, (.int 0), .any⟩,
       ⟨0x04, 0x05, "BANK0_HEADER, BANK1_HEADER", (.octets 160), .ro, (.bytes (List.replicate 160 0)), .any⟩,
       ⟨0x06, 0x06, "DOWNLOAD", (.arr 65536 1), .wo, (.bytes []), .any⟩,
       ⟨0x07, 0x07, "BASE", .u32, .rw, (.int 0), (.mult 65536 1048576)⟩,
       ⟨0x08, 0x08, "WRITTEN", .u32, .ro, (.int 0), .any⟩,
       ⟨0x09, 0x09, "OWNER", .u32, .ro, (.int 0), .any⟩,
       ⟨0x0A, 0x0A, "FALLBACKS", .u32, .ro, (.int 0), .any⟩]⟩,
    ⟨0xD020, 1, 1,
      [⟨0x01, 0x01, "FW_CMD", .u8, .wo, (.int 0), (.ival (1) 5)⟩,
       ⟨0x02, 0x02, "FW_TYPE", .u8, .rw, (.int 0), (.ival (0) 2)⟩,
       ⟨0x03, 0x03, "FW_MODE", .u8, .rw, (.int 0), (.mask 0x03)⟩]⟩]

/-- The objects of page 0xE0xx. -/
def objsE0 : List Group :=
  [
    ⟨0xE000, 80, 1,
      [⟨0x01, 0x01, "SOURCE", .u8, .st, (.int 0), (.ivals [(0, 0x0D), (0x20, 0x2A), (0x30, 0x30)])⟩,
       ⟨0x02, 0x02, "VALUE", .u64, .ro, (.int 0), .any⟩,
       ⟨0x03, 0x03, "OVERFLOWS", .u32, .ro, (.int 0), .any⟩,
       ⟨0x04, 0x04, "OVF_EVENT", .bool, .st, (.int 0), .any⟩]⟩,
    ⟨0xE050, 1, 1,
      [⟨0x01, 0x01, "SNAPSHOT_CMD", .u8, .wo, (.int 0), (.ival 1 1)⟩,
       ⟨0x02, 0x02, "SNAP_PERIOD", .u32, .st, (.int 0), (.ival 0 3600000)⟩,
       ⟨0x03, 0x03, "SNAP_ET", .et, .ro, (.int 0), .any⟩,
       ⟨0x04, 0x04, "SNAP_VALUES", (.arr 80 8), .ro, (.bytes []), .any⟩,
       ⟨0x05, 0x05, "CLEAR", .u8, .wo, (.int 0), (.ivals [(0, 79), (0xFF, 0xFF)])⟩,
       ⟨0x06, 0x06, "SNAP_COUNT", .u32, .ro, (.int 0), .any⟩]⟩,
    ⟨0xE060, 1, 1,
      [⟨0x01, 0x01, "LASTING", .u16, .ro, (.int 0), .any⟩,
       ⟨0x02, 0x02, "OCCURRENCES", .u64, .ro, (.int 0), .any⟩,
       ⟨0x03, 0x03, "TRANSIENTS", .u64, .ro, (.int 0), .any⟩,
       ⟨0x04, 0x04, "BECAME_LASTING", .u32, .ro, (.int 0), .any⟩,
       ⟨0x05, 0x05, "COUNTER_CLEAR", .bool, .wo, (.int 0), (.ival 1 1)⟩]⟩]

/-- The objects of page 0xF0xx. -/
def objsF0 : List Group :=
  [
    ⟨0xF000, 5, 1,
      [⟨0x01, 0x01, "PACE", .f32, .ro, (.int 0), .any⟩,
       ⟨0x02, 0x02, "FLOOR_PACE", .f32, .ro, (.int 0), .any⟩,
       ⟨0x03, 0x03, "MARGIN", .f32, .ro, (.int 0), .any⟩,
       ⟨0x04, 0x04, "MARGIN_MIN", .f32, .ro, (.int 0), .any⟩,
       ⟨0x05, 0x05, "TJ", .f32, .ro, (.int 0), .any⟩,
       ⟨0x06, 0x06, "TJ_MAX", .f32, .ro, (.int 0), .any⟩,
       ⟨0x07, 0x07, "BELOW_FLOOR", .u64, .ro, (.int 0), .any⟩,
       ⟨0x08, 0x08, "CLEAR", .bool, .wo, (.int 0), (.ival 1 1)⟩]⟩,
    ⟨0xF005, 1, 1,
      [⟨0x01, 0x02, "TJ, TJ_MAX", .f32, .ro, (.int 0), .any⟩,
       ⟨0x03, 0x03, "CLEAR", .bool, .wo, (.int 0), (.ival 1 1)⟩]⟩,
    ⟨0xF010, 1, 1,
      [⟨0x01, 0x04, "VDD_LANE0–3", .u16, .ro, (.int 0), .any⟩,
       ⟨0x05, 0x09, "VDD_HUB, VDD_AON, VDD_IO, VDD_ANA, VDD_DDR", .u16, .ro, (.int 0), .any⟩,
       ⟨0x0A, 0x0A, "SUPPLY_TOL", .u8, .st, (.int 5), (.ival (1) 20)⟩,
       ⟨0x0B, 0x0B, "TEMP_WARN", .u8, .st, (.int 100), (.ival (60) 110)⟩]⟩]

/-- The objects of page 0xF1xx. -/
def objsF1 : List Group :=
  [
    ⟨0xF100, 1, 1,
      [⟨0x01, 0x01, "PACE_TARGET", .u8, .st, (.int 20), (.ival (5) 40)⟩,
       ⟨0x02, 0x02, "AVS_ENABLE", .bool, .st, (.int 1), .any⟩,
       ⟨0x03, 0x03, "LANE_V_FIXED", .u16, .st, (.int 800), (.ival (600) 900)⟩,
       ⟨0x04, 0x04, "HUB_V_FIXED", .u16, .st, (.int 800), (.ival (650) 900)⟩,
       ⟨0x05, 0x05, "LANE_V_MAX", .u16, .st, (.int 900), (.ival (600) 900)⟩,
       ⟨0x06, 0x06, "AVS_STEP", .u8, .st, (.int 5), (.ival (1) 20)⟩,
       ⟨0x07, 0x07, "AVS_PERIOD", .u16, .st, (.int 10), (.ival (1) 1000)⟩]⟩,
    ⟨0xF101, 1, 1,
      [⟨0x01, 0x04, "LANE_V_REQ", .u16, .ro, (.int 0), .any⟩,
       ⟨0x05, 0x05, "HUB_V_REQ", .u16, .ro, (.int 0), .any⟩]⟩,
    ⟨0xF110, 12, 1,
      [⟨0x01, 0x01, "LINK_STATE", .u8, .ro, (.int 0), .any⟩,
       ⟨0x02, 0x02, "MSG_COUNT", .u64, .ro, (.int 0), .any⟩,
       ⟨0x03, 0x03, "REPLAYS", .u32, .ro, (.int 0), .any⟩,
       ⟨0x04, 0x04, "ESCAPE_USED", .u32, .ro, (.int 0), .any⟩,
       ⟨0x05, 0x05, "LAT_MAX", .u16, .ro, (.int 0), .any⟩,
       ⟨0x06, 0x06, "LAT_CLEAR", .bool, .wo, (.int 0), (.ival 1 1)⟩]⟩,
    ⟨0xF120, 1, 1,
      [⟨0x01, 0x01, "SPILL_SIZE", .u16, .st, (.int 256), (.ival (64) 4096)⟩,
       ⟨0x02, 0x02, "PLATE_SIZE", .u16, .st, (.int 1024), (.ival (64) 4096)⟩,
       ⟨0x03, 0x03, "HISTORY_SIZE", .u16, .st, (.int 480), (.ival (32) 4096)⟩,
       ⟨0x04, 0x04, "LOGBOOK_SIZE", .u16, .st, (.int 16), (.ival (16) 4096)⟩,
       ⟨0x05, 0x05, "SLOWPATH_SIZE", .u16, .st, (.int 128), (.ival (64) 4096)⟩,
       ⟨0x06, 0x06, "MGMT_SIZE", .u16, .ro, (.int 256), .any⟩,
       ⟨0x07, 0x07, "REMAINDER", .u16, .ro, (.int 1936), .any⟩,
       ⟨0x08, 0x08, "ECC_CORRECTED", .u64, .ro, (.int 0), .any⟩,
       ⟨0x09, 0x09, "ECC_UNCORRECTED", .u32, .ro, (.int 0), .any⟩,
       ⟨0x0A, 0x0A, "SCRUB_PERIOD", .u16, .st, (.int 24), (.ival (1) 168)⟩]⟩,
    ⟨0xF130, 4, 1,
      [⟨0x01, 0x01, "LANE_STATE", .u8, .ro, (.int 0), .any⟩,
       ⟨0x02, 0x02, "LAST_RENEW", .et, .ro, (.int 0), .any⟩,
       ⟨0x03, 0x03, "FENCE_COUNT", .u32, .ro, (.int 0), .any⟩,
       ⟨0x04, 0x04, "FRAMES_LOST", .u64, .ro, (.int 0), .any⟩]⟩,
    ⟨0xF134, 1, 1,
      [⟨0x01, 0x01, "AUTO_RELOAD", .bool, .st, (.int 1), .any⟩,
       ⟨0x02, 0x02, "RELOAD_LIMIT", .u8, .st, (.int 3), (.ival (1) 10)⟩,
       ⟨0x03, 0x03, "RELOAD_CMD", .u8, .wo, (.int 0), (.ival (0) 3)⟩]⟩,
    ⟨0xF140, 1, 1,
      [⟨0x01, 0x01, "POWER_STATE", .u8, .ro, (.int 0), .any⟩,
       ⟨0x02, 0x02, "QUIET_CMD", .u8, .wo, (.int 0), (.ival 1 1)⟩,
       ⟨0x03, 0x03, "WAKE_AT", .et, .rw, (.int 0), .any⟩,
       ⟨0x04, 0x04, "WAKE_CAUSE", .u8, .ro, (.int 0), .any⟩]⟩]

/-- The result RECORDs of R77, by index, with the index and subindex of their command objects. -/
def resultTable : List (Nat × Nat × Nat) :=
  [(0x1201, 0x1200, 0x01), (0x1F01, 0x1F00, 0x01), (0x1F03, 0x1F02, 0x01), (0x2001, 0x2000, 0x08),
   (0x3201, 0x3200, 0x07), (0x6005, 0x6000, 0x0D), (0x7002, 0x7000, 0x12), (0x8011, 0x8010, 0x02),
   (0x8012, 0x8010, 0x09), (0x9001, 0x9000, 0x15), (0x9002, 0x9000, 0x16), (0x9003, 0x9000, 0x17)] ++
  [(0x9013, 0x9012, 0x01), (0x9801, 0x9800, 0x0A), (0xB102, 0xB101, 0x01), (0xB103, 0xB100, 0x0F),
   (0xC001, 0xC000, 0x15), (0xD021, 0xD020, 0x01), (0xE051, 0xE050, 0x01), (0xF135, 0xF134, 0x03),
   (0xF141, 0xF140, 0x02)]

/-- The fields of every result RECORD (R77). -/
def resultFields : List Field :=
  [⟨0x01, 0x01, "SEQ", .u32, .ro, .int 0, .any⟩,
   ⟨0x02, 0x02, "STATE", .u8, .ro, .int 0, .any⟩,
   ⟨0x03, 0x03, "CODE", .u16, .ro, .int 0, .any⟩,
   ⟨0x04, 0x04, "DATA", .octets 32, .ro, .bytes [], .any⟩,
   ⟨0x05, 0x05, "ACK", .bool, .wo, .int 0, .ival 1 1⟩,
   ⟨0x06, 0x06, "PENDING_SEQ", .u32, .ro, .int 0, .any⟩]

/-- The groups of an index's page; 0x40xx to 0x4Fxx are one page of stream contexts. -/
def objPage (index : Nat) : List Group :=
  match index / 256 with
  | 0x10 => objs10
  | 0x11 => objs11
  | 0x12 => objs12
  | 0x13 => objs13
  | 0x14 => objs14
  | 0x1F => objs1F
  | 0x20 => objs20
  | 0x21 => objs21
  | 0x22 => objs22
  | 0x30 => objs30
  | 0x31 => objs31
  | 0x32 => objs32
  | 0x50 => objs50
  | 0x51 => objs51
  | 0x52 => objs52
  | 0x53 => objs53
  | 0x58 => objs58
  | 0x59 => objs59
  | 0x60 => objs60
  | 0x61 => objs61
  | 0x62 => objs62
  | 0x70 => objs70
  | 0x71 => objs71
  | 0x80 => objs80
  | 0x81 => objs81
  | 0x90 => objs90
  | 0x98 => objs98
  | 0xA0 => objsA0
  | 0xA8 => objsA8
  | 0xB0 => objsB0
  | 0xB1 => objsB1
  | 0xC0 => objsC0
  | 0xC1 => objsC1
  | 0xD0 => objsD0
  | 0xE0 => objsE0
  | 0xF0 => objsF0
  | 0xF1 => objsF1
  | p => if 0x40 ≤ p ∧ p ≤ 0x4F then objs40 else []

/-- The place of an index in a group. -/
def Group.place (g : Group) (index : Nat) : Option Nat :=
  if g.base ≤ index ∧ (index - g.base) % g.stride = 0 ∧ (index - g.base) / g.stride < g.count
  then some ((index - g.base) / g.stride) else none

/-- The fields at an index; empty when the index does not exist (R60). -/
def fieldsAt (index : Nat) : List Field :=
  if resultTable.any (fun e => e.1 = index) then resultFields
  else ((objPage index).filter (fun g => (g.place index).isSome)).flatMap (·.fields)

/-- Subindex 0x00 of a RECORD: the highest subindex in use (R53). 0x1202:00 is a field of its own (R75). -/
def subZero (fs : List Field) : Field :=
  ⟨0, 0, "HIGHEST_SUBINDEX", .u8, .ro, .int (fs.foldl (fun m f => max m f.hi) 0), .any⟩

/-- The field of a subindex among an index's fields. -/
def fieldIn (fs : List Field) (sub : Nat) : Option Field :=
  match fs.find? (fun f => f.lo ≤ sub ∧ sub ≤ f.hi) with
  | some f => some f
  | none => if sub = 0 ∧ !fs.isEmpty then some (subZero fs) else none

/-- The value a local stream context holds in a subindex that R198 fixes; none for one it does not. -/
def localFixed (sub : Nat) : Option Value :=
  match sub with
  | 0x01 => some (.int 0)
  | 0x02 | 0x03 | 0x06 | 0x07 | 0x08 | 0x18 | 0x19 => some (.int 0)
  | 0x04 | 0x05 => some (.bytes (List.replicate 16 0))
  | 0x09 => some (.int 0xFFFF)
  | 0x0A => some (.int 50)
  | 0x0B => some (.int 1000000)
  | 0x0C => some (.int 0x0F)
  | 0x0D => some (.int 1)
  | 0x0E => some (.bytes [0x0C, 0x08, 0x01])
  | 0x0F => some (.int 0x0E38)
  | 0x10 | 0x11 => some (.bytes [])
  | 0x12 => some (.int 50)
  | _ => none

/-- A field as a local stream context has it: read-only where R198 fixes or mirrors it. -/
def localField (index sub : Nat) (f : Field) : Field :=
  if 0x4FF8 ≤ index ∧ index ≤ 0x4FFF then
    match localFixed sub with
    | some v => { f with acc := .ro, dflt := v }
    | none => f
  else f

/-- The object at index:sub, when both exist. -/
def objAt (index sub : Nat) : Option Field := (fieldIn (fieldsAt index) sub).map (localField index sub)

/-- The result RECORD of a command object; none when the object is no command (R64). -/
def resultOf (index sub : Nat) : Option Nat :=
  (resultTable.find? (fun e => e.2.1 = index ∧ e.2.2 = sub)).map (·.1)

/-- The command object of a result RECORD. -/
def commandOf (result : Nat) : Option (Nat × Nat) :=
  (resultTable.find? (fun e => e.1 = result)).map (·.2)

/-- An object held separately for each session (R59, R254, R282, R411, R436, R453, R506, R514). -/
def perSession (index sub : Nat) : Bool :=
  (index = 0x5101 && sub = 0x04) || (index = 0x6010 && sub = 0x01) || (index = 0x6012 && sub = 0x02) ||
  (index = 0x9012 && sub = 0x05) || (index = 0xA002 && (sub = 1 || sub = 2 || sub = 3)) ||
  (index = 0xB101 && (sub = 2 || sub = 3 || sub = 4)) ||
  (0xD010 ≤ index && index ≤ 0xD012 && sub = 7) || (index = 0xD020 && (sub = 2 || sub = 3))

/-- A role that a home chapter names for writing an object, above the table of R59; 0 where it names none. -/
def homeRole (index sub : Nat) : Nat :=
  if index = 0x2000 && (sub = 3 || sub = 6 || sub = 7 || sub = 8 || sub = 0xC || sub = 0xD) then 2
  else if 0x6201 ≤ index && index ≤ 0x6204 && sub = 4 then 2
  else if index = 0xA000 && sub = 0xD then 2
  else if index = 0xA000 && sub = 0xE then 3
  else if index = 0x8010 && sub = 9 then 3
  else if 0x8100 ≤ index && index ≤ 0x8117 && sub = 9 then 3
  else if index = 0xC000 && sub = 8 then 2
  else if index = 0x1F02 && sub = 1 then 2
  else if index = 0x1200 && sub = 1 then 2
  else 0

/-- An entry as its 8 bytes: F32, quality word, AGE (R243). -/
def encodeEntry (e : Entry) : List Byte :=
  beBytes 4 e.value.bits.toNat ++ beBytes 2 e.quality.toNat ++ beBytes 2 e.age

/-- The ABSENT entry (R243): value 0x7FC0_0000, quality 0x0200, AGE 0xFFFF. -/
def absentEntry : Entry := ⟨⟨0x7FC00000#32⟩, 0x0200#16, 0xFFFF⟩

/-- The ABSENT entry of the arrays whose AGE is always 0 (0x7003, 0x8000 + b:0A). -/
def absentPoint : Entry := ⟨⟨0x7FC00000#32⟩, 0x0200#16, 0⟩

/-- The reserved event sources of R516. -/
def reservedSource (s : Nat) : Bool := (61 ≤ s && s ≤ 63) || s = 86 || s = 87 || (100 ≤ s && s ≤ 103)

/-- One element of an ARRAY at its default. -/
def elemDefault (index sub elem w : Nat) : List Byte :=
  if 0x4001 ≤ index ∧ index ≤ 0x4FFF then beBytes 4 0x3F800000
  else if 0x5800 ≤ index ∧ index ≤ 0x580F ∧ sub = 0x08 then List.replicate 4 0xFF
  else if 0x5800 ≤ index ∧ index ≤ 0x580F ∧ sub = 0x0F then List.replicate 16 0x20
  else if index = 0x9000 ∧ sub = 0x0B then [0xFF, 0xFF]
  else if index = 0x7003 ∨ (0x8000 ≤ index ∧ index ≤ 0x8007 ∧ sub = 0x0A) then encodeEntry absentPoint
  else if index = 0x5102 ∨ index = 0x5101 ∨ index = 0x5906 then encodeEntry absentEntry
  else if index = 0xA001 then byte (if 96 ≤ elem then 5 else 3) :: List.replicate 35 0
  else if index = 0xA801 ∧ sub = 0x01 then (if reservedSource elem then [0, 0, 0, 0] else [0x03, 0, 0, 0])
  else List.replicate w 0

/-- The port an index of 0x1300–0x135F belongs to. -/
def portOfIndex (index : Nat) : Nat := (index - 0x1300) / 16

/-- The MAC address of port p: the unit's base address plus p (R175). -/
def macOf (p : Nat) : List Byte := beBytes 6 (Config.macBase.toNat + p)

/-- The EUI-64 of R104: the P0 MAC address with 0xFFFE after its third byte. -/
def clockIdentity : List Byte := (macOf 0).take 3 ++ [0xFF, 0xFE] ++ (macOf 0).drop 3

/-- The unit's serial number as STRING(16). -/
def serial : List Byte := beBytes 16 Config.serial.toNat

/-- The value of an object before anything has changed it (R57): its table default, and the per-unit contents. -/
def defaultOf (index sub elem : Nat) : Value :=
  match objAt index sub with
  | none => .int 0
  | some f =>
    match f.ty with
    | .arr _ w => .bytes (elemDefault index sub elem w)
    | _ =>
      if index = 0x1018 ∧ sub = 4 then .bytes serial
      else if 0x1300 ≤ index ∧ index ≤ 0x1350 ∧ index % 16 = 0 ∧ sub = 3 then .bytes (macOf (portOfIndex index))
      else if index = 0x2100 ∧ sub = 0x0C then .bytes clockIdentity
      else if 0x2200 ≤ index ∧ index ≤ 0x2207 ∧ sub = 6 then .int ((index : Int) - 0x2200)
      else if 0xF000 ≤ index ∧ index ≤ 0xF004 ∧ sub = 2 then .int (Config.floorPace (index - 0xF000)).toNat
      else if index = 0xB100 ∧ sub = 0x10 then .bytes (beBytes (Config.ks0CertLength.toNat % 2049) Config.ks0Cert.toNat)
      else f.dflt

end Sys2Proof.Machine
end

