-- ==== Sys2Proof/Machine/Operands.lean ====
section
/-! DEFINITION. Values on the wire: encoding and decoding by type code, and the range test (R54). -/

namespace Sys2Proof

/-- A value as a number; 0 for bytes. -/
def Value.toInt : Value → Int
  | .int v => v
  | .bytes _ => 0

/-- A value as bytes; none for a number. -/
def Value.toBytes : Value → List Byte
  | .int _ => []
  | .bytes b => b

namespace Machine

/-- The size in bytes of a type's value; 0 for the types without a fixed size. -/
def Ty.size : Ty → Nat
  | .bool | .u8 | .i8 => 1
  | .u16 | .i16 => 2
  | .u32 | .i32 | .f32 => 4
  | .u64 | .i64 | .f64 => 8
  | .et => 12
  | _ => 0

/-- The type is signed. -/
def Ty.signed : Ty → Bool
  | .i8 | .i16 | .i32 | .i64 => true
  | _ => false

/-- A value in its type's encoding, big-endian (R54). ET96 counts units of 2^-32 ns, which is its 96 bits read as one number. -/
def encodeValue (ty : Ty) (v : Value) : List Byte :=
  match ty with
  | .octets _ | .str _ | .arr _ _ => v.toBytes
  | t => beInt t.size v.toInt

/-- The value a byte string encodes in a type; none when its length does not suit the type (abort TYPE). -/
def decodeValue (ty : Ty) (b : List Byte) : Option Value :=
  match ty with
  | .octets n => if b.length ≤ n then some (.bytes b) else none
  | .str n => if b.length ≤ n then some (.bytes b) else none
  | .arr _ w => if b.length = w then some (.bytes b) else none
  | t =>
    if b.length = t.size then
      some (.int (if t.signed then toSigned (8 * t.size) (beNat b) else (beNat b : Int)))
    else none

/-- The type itself admits the value: BOOL 0 or 1, printable STRING bytes, no NaN (R54). -/
def typeAdmits (ty : Ty) (v : Value) : Bool :=
  match ty with
  | .bool => v.toInt = 0 || v.toInt = 1
  | .str _ => v.toBytes.all (fun b => 0x20 ≤ b.toNat && b.toNat ≤ 0x7E)
  | .f32 => !(F32.ofBits v.toInt.toNat).isNaN
  | .f64 => !(F64.ofBits v.toInt.toNat).isNaN
  | _ => true

/-- The range of an object admits the value (R54). F32 bounds are the F32 nearest the table's decimals (log entry 12). -/
def Rng.admits (r : Rng) (v : Value) : Bool :=
  match r with
  | .any => true
  | .ival lo hi => decide (lo ≤ v.toInt) && decide (v.toInt ≤ hi)
  | .ivals l => l.any (fun p => decide (p.1 ≤ v.toInt) && decide (v.toInt ≤ p.2))
  | .set l => l.any (fun x => decide (v.toInt = x))
  | .mask m => decide (0 ≤ v.toInt) && v.toInt.toNat &&& m == v.toInt.toNat
  | .fival lo hi =>
    (F32.ofBits lo).le (F32.ofBits v.toInt.toNat) && (F32.ofBits v.toInt.toNat).le (F32.ofBits hi)
  | .fpos => F64.zero.lt (F64.ofBits v.toInt.toNat) && d64 (F64.ofBits v.toInt.toNat) != .inf false
  | .mult m bound => decide (0 ≤ v.toInt) && v.toInt.toNat % m == 0 && decide (v.toInt.toNat < bound)

/-- A value lies in its object's range, by type and by table (R54). -/
def inRange (f : Field) (v : Value) : Bool := typeAdmits f.ty v && f.rng.admits v

/-- A Bool as a value. -/
def vBool (b : Bool) : Value := .int (if b then 1 else 0)

/-- A natural number as a value. -/
def vNat (n : Nat) : Value := .int n

/-- A value in 32 bits for a Logbook snapshot (R418); none for a type that R418 does not name. -/
def snapshot32 (ty : Ty) (v : Value) : Option Nat :=
  match ty with
  | .bool | .u8 | .u16 | .u32 | .i32 | .f32 | .u64 | .i64 => some (lowBits 32 v.toInt)
  | .i8 | .i16 => some (lowBits 32 v.toInt)
  | .f64 => some (F64.ofBits v.toInt.toNat).to32.nat
  | .et => some ((v.toInt.toNat / 4294967296) % 4294967296)
  | _ => none

end Machine

end Sys2Proof
end

