-- ==== Sys2Proof/Machine/Crypto.lean ====
section
/-! DEFINITION. The cryptographic functions the manual names by standard: SHA-384, HMAC and HKDF (R69, R70, R449),
AES-256-GCM (R62, R450), the RFC 3394 key wrap (R456), and ECDSA and ECDH over P-384 (R69, R456). -/

namespace Sys2Proof.Machine

/-- The bytes of a big-endian number in blocks of `w` bytes. -/
def words (w fuel : Nat) (b : List Byte) : List Nat := (chunks w fuel b).map beNat

/-! SHA-384 (FIPS 180-4). -/

def mask64 : Nat := 0xFFFFFFFFFFFFFFFF

def rotr64 (n x : Nat) : Nat := ((x >>> n) ||| (x <<< (64 - n))) &&& mask64

/-- The round constants: fractional parts of the cube roots of the first 80 primes. -/
def sha512K : List Nat :=
   [0x428A2F98D728AE22, 0x7137449123EF65CD, 0xB5C0FBCFEC4D3B2F, 0xE9B5DBA58189DBBC, 0x3956C25BF348B538] ++
   [0x59F111F1B605D019, 0x923F82A4AF194F9B, 0xAB1C5ED5DA6D8118, 0xD807AA98A3030242, 0x12835B0145706FBE] ++
   [0x243185BE4EE4B28C, 0x550C7DC3D5FFB4E2, 0x72BE5D74F27B896F, 0x80DEB1FE3B1696B1, 0x9BDC06A725C71235] ++
   [0xC19BF174CF692694, 0xE49B69C19EF14AD2, 0xEFBE4786384F25E3, 0x0FC19DC68B8CD5B5, 0x240CA1CC77AC9C65] ++
   [0x2DE92C6F592B0275, 0x4A7484AA6EA6E483, 0x5CB0A9DCBD41FBD4, 0x76F988DA831153B5, 0x983E5152EE66DFAB] ++
   [0xA831C66D2DB43210, 0xB00327C898FB213F, 0xBF597FC7BEEF0EE4, 0xC6E00BF33DA88FC2, 0xD5A79147930AA725] ++
   [0x06CA6351E003826F, 0x142929670A0E6E70, 0x27B70A8546D22FFC, 0x2E1B21385C26C926, 0x4D2C6DFC5AC42AED] ++
   [0x53380D139D95B3DF, 0x650A73548BAF63DE, 0x766A0ABB3C77B2A8, 0x81C2C92E47EDAEE6, 0x92722C851482353B] ++
   [0xA2BFE8A14CF10364, 0xA81A664BBC423001, 0xC24B8B70D0F89791, 0xC76C51A30654BE30, 0xD192E819D6EF5218] ++
   [0xD69906245565A910, 0xF40E35855771202A, 0x106AA07032BBD1B8, 0x19A4C116B8D2D0C8, 0x1E376C085141AB53] ++
   [0x2748774CDF8EEB99, 0x34B0BCB5E19B48A8, 0x391C0CB3C5C95A63, 0x4ED8AA4AE3418ACB, 0x5B9CCA4F7763E373] ++
   [0x682E6FF3D6B2B8A3, 0x748F82EE5DEFB2FC, 0x78A5636F43172F60, 0x84C87814A1F0AB72, 0x8CC702081A6439EC] ++
   [0x90BEFFFA23631E28, 0xA4506CEBDE82BDE9, 0xBEF9A3F7B2C67915, 0xC67178F2E372532B, 0xCA273ECEEA26619C] ++
   [0xD186B8C721C0C207, 0xEADA7DD6CDE0EB1E, 0xF57D4F7FEE6ED178, 0x06F067AA72176FBA, 0x0A637DC5A2C898A6] ++
   [0x113F9804BEF90DAE, 0x1B710B35131C471B, 0x28DB77F523047D84, 0x32CAAB7B40C72493, 0x3C9EBE0A15C9BEBC] ++
   [0x431D67C49C100D4C, 0x4CC5D4BECB3E42B6, 0x597F299CFC657E2A, 0x5FCB6FAB3AD6FAEC, 0x6C44198C4A475817]

/-- The initial hash value of SHA-384: fractional parts of the square roots of the ninth to sixteenth primes. -/
def sha384Init : List Nat :=
   [0xCBBB9D5DC1059ED8, 0x629A292A367CD507, 0x9159015A3070DD17, 0x152FECD8F70E5939] ++
   [0x67332667FFC00B31, 0x8EB44A8768581511, 0xDB0C2E0D64F98FA7, 0x47B5481DBEFA4FA4]

/-- The message schedule, newest word first: `n` more words. -/
def shaSchedule : Nat → List Nat → List Nat
  | 0, w => w
  | n + 1, w =>
    let w2 := nth w 1 0
    let w7 := nth w 6 0
    let w15 := nth w 14 0
    let w16 := nth w 15 0
    let s0 := rotr64 1 w15 ^^^ rotr64 8 w15 ^^^ (w15 >>> 7)
    let s1 := rotr64 19 w2 ^^^ rotr64 61 w2 ^^^ (w2 >>> 6)
    shaSchedule n (((w16 + s0 + w7 + s1) &&& mask64) :: w)

/-- The eight working variables of a round. -/
structure ShaVars where
  (a b c d e f g h : Nat)
  deriving DecidableEq, Repr

/-- One round with its constant and schedule word. -/
def shaRound (v : ShaVars) (kw : Nat × Nat) : ShaVars :=
  let s1 := rotr64 14 v.e ^^^ rotr64 18 v.e ^^^ rotr64 41 v.e
  let ch := (v.e &&& v.f) ^^^ ((v.e ^^^ mask64) &&& v.g)
  let t1 := v.h + s1 + ch + kw.1 + kw.2
  let s0 := rotr64 28 v.a ^^^ rotr64 34 v.a ^^^ rotr64 39 v.a
  let maj := (v.a &&& v.b) ^^^ (v.a &&& v.c) ^^^ (v.b &&& v.c)
  ⟨(t1 + s0 + maj) &&& mask64, v.a, v.b, v.c, (v.d + t1) &&& mask64, v.e, v.f, v.g⟩

/-- One block of 128 bytes. -/
def shaBlock (v : ShaVars) (block : List Byte) : ShaVars :=
  let w := (shaSchedule 64 (words 8 16 block).reverse).reverse
  let r := (sha512K.zip w).foldl shaRound v
  ⟨(v.a + r.a) &&& mask64, (v.b + r.b) &&& mask64, (v.c + r.c) &&& mask64, (v.d + r.d) &&& mask64,
   (v.e + r.e) &&& mask64, (v.f + r.f) &&& mask64, (v.g + r.g) &&& mask64, (v.h + r.h) &&& mask64⟩

/-- SHA-384: 48 bytes. -/
def sha384 (m : List Byte) : List Byte :=
  let zeros := (128 - (m.length + 17) % 128) % 128
  let padded := m ++ (0x80#8 :: List.replicate zeros 0#8) ++ beBytes 16 (8 * m.length)
  let i := sha384Init
  let v0 : ShaVars := ⟨nth i 0 0, nth i 1 0, nth i 2 0, nth i 3 0, nth i 4 0, nth i 5 0, nth i 6 0, nth i 7 0⟩
  let r := (chunks 128 (m.length / 128 + 2) padded).foldl shaBlock v0
  ([r.a, r.b, r.c, r.d, r.e, r.f].map (beBytes 8)).flatten

/-- HMAC-SHA-384 (RFC 2104). -/
def hmac (key m : List Byte) : List Byte :=
  let k := padTo 128 (if key.length > 128 then sha384 key else key)
  sha384 (k.map (· ^^^ 0x5C#8) ++ sha384 (k.map (· ^^^ 0x36#8) ++ m))

/-- The expand step of HKDF: `n` blocks from block number `i`. -/
def hkdfExpand (prk info : List Byte) : Nat → Nat → List Byte → List Byte
  | 0, _, _ => []
  | n + 1, i, prev =>
    let t := hmac prk (prev ++ info ++ [byte i])
    t ++ hkdfExpand prk info n (i + 1) t

/-- HKDF-SHA-384 (RFC 5869) with `len` bytes of output; an empty salt is 48 zero bytes. -/
def hkdf (ikm salt info : List Byte) (len : Nat) : List Byte :=
  let prk := hmac (if salt.isEmpty then List.replicate 48 0#8 else salt) ikm
  (hkdfExpand prk info ((len + 47) / 48) 1 []).take len

/-! AES-256 (FIPS 197). -/

/-- The S-box: entry x in byte x of the numeral, byte 0 least significant. -/
def aesSboxTable : Nat := 0x16BB54B00F2D99416842E6BF0D89A18CDF2855CEE9871E9B948ED9691198F8E19E1DC186B95735610EF6034866B53E708A8BBD4B1F74DDE8C6B4A61C2E2578BA08AE7A65EAF4566CA94ED58D6D37C8E779E4959162ACD3C25C2406490A3A32E0DB0B5EDE14B8EE4688902A22DC4F816073195D643D7EA7C41744975FEC130CCDD2F3FF1021DAB6BCF5389D928F40A351A89F3C507F02F94585334D43FBAAEFD0CF584C4A39BECB6A5BB1FC20ED00D153842FE329B3D63B52A05A6E1B1A2C830975B227EBE28012079A059618C323C7041531D871F1E5A534CCF73F362693FDB7C072A49CAFA2D4ADF04759FA7DC982CA76ABD7FE2B670130C56F6BF27B777C63

/-- The inverse S-box, laid out likewise. -/
def aesInvSboxTable : Nat := 0x7D0C2155631469E126D677BA7E042B17619953833CBBEBC8B0F52AAE4D3BE0A0EF9CC9939F7AE52D0D4AB519A97F51605FEC8027591012B131C7078833A8DD1FF45ACD78FEC0DB9A2079D2C64B3E56FC1BBE18AA0E62B76F89C5291D711AF1476EDF751CE837F9E28535ADE72274AC9673E6B4F0CECFF297EADC674F4111913A6B8A130103BDAFC1020F3FCA8F1E2CD00645B3B80558E4F70AD3BC8C00ABD890849D8DA75746155EDAB9EDFD5048706C92B6655DCC5CA4D41698688664F6F87225D18B6D49A25B76B224D92866A12E084EC3FA420B954CEE3D23C2A632947B54CBE9DEC444438E3487FF2F9B8239E37CFBD7F3819EA340BF38A53630D56A0952

def aesSbox (b : Byte) : Byte := byte (aesSboxTable >>> (8 * b.toNat))
def aesInvSbox (b : Byte) : Byte := byte (aesInvSboxTable >>> (8 * b.toNat))

/-- Multiplication by x in GF(2^8). -/
def xtime (b : Byte) : Byte := if b.msb then (b <<< 1) ^^^ 0x1B#8 else b <<< 1

/-- Multiplication by a small constant in GF(2^8). -/
def gfMul (c : Nat) (b : Byte) : Byte :=
  let b2 := xtime b
  let b4 := xtime b2
  let b8 := xtime b4
  (if c.testBit 0 then b else 0) ^^^ (if c.testBit 1 then b2 else 0) ^^^
  (if c.testBit 2 then b4 else 0) ^^^ (if c.testBit 3 then b8 else 0)

def xorBytes (a b : List Byte) : List Byte := List.zipWith (· ^^^ ·) a b

/-- The AES-256 key expansion, newest word (4 bytes) first: word numbers from `i`, `n` more. -/
def aesExpand : Nat → Nat → Byte → List (List Byte) → List (List Byte)
  | 0, _, _, w => w
  | n + 1, i, rcon, w =>
    let prev := nth w 0 []
    let back := nth w 7 []
    let rot := (prev.drop 1 ++ prev.take 1).map aesSbox
    let t :=
      if i % 8 = 0 then xorBytes rot [rcon, 0, 0, 0]
      else if i % 8 = 4 then prev.map aesSbox
      else prev
    aesExpand n (i + 1) (if i % 8 = 0 then xtime rcon else rcon) (xorBytes back t :: w)

/-- The 15 round keys of 16 bytes. -/
def aesRoundKeys (key : List Byte) : List (List Byte) :=
  let w := (aesExpand 52 8 1#8 (chunks 4 8 (padTo 32 key)).reverse).reverse
  (chunks 4 15 w).map List.flatten

/-- ShiftRows (or its inverse with `inv`), state in column order. -/
def aesShiftRows (inv : Bool) (s : List Byte) : List Byte :=
  (List.range 16).map (fun i =>
    let r := i % 4
    let c := i / 4
    nth s (4 * ((if inv then c + 4 - r else c + r) % 4) + r) 0)

/-- MixColumns of one column with a circulant first row. -/
def aesMixColumn (m : List Nat) (c : List Byte) : List Byte :=
  (List.range 4).map (fun r =>
    (List.range 4).foldl (fun a j => a ^^^ gfMul (nth m ((j + 4 - r) % 4) 0) (nth c j 0)) 0#8)

def aesMixColumns (m : List Nat) (s : List Byte) : List Byte := ((chunks 4 4 s).map (aesMixColumn m)).flatten

/-- AES-256 encryption of one block. -/
def aesEncryptBlock (keys : List (List Byte)) (b : List Byte) : List Byte :=
  let s0 := xorBytes b (nth keys 0 [])
  let s13 := ((keys.drop 1).take 13).foldl
    (fun s k => xorBytes (aesMixColumns [2, 3, 1, 1] (aesShiftRows false (s.map aesSbox))) k) s0
  xorBytes (aesShiftRows false (s13.map aesSbox)) (nth keys 14 [])

/-- AES-256 decryption of one block. -/
def aesDecryptBlock (keys : List (List Byte)) (b : List Byte) : List Byte :=
  let s14 := (aesShiftRows true (xorBytes b (nth keys 14 []))).map aesInvSbox
  let s1 := ((keys.drop 1).take 13).reverse.foldl
    (fun s k => (aesShiftRows true (aesMixColumns [14, 11, 13, 9] (xorBytes s k))).map aesInvSbox) s14
  xorBytes s1 (nth keys 0 [])

/-! GCM (NIST SP 800-38D) with 96-bit nonces and 128-bit tags. -/

/-- GF(2^128) multiplication in GCM's bit order; blocks as big-endian numbers. -/
def ghashMul (x y : Nat) : Nat :=
  ((List.range 128).foldl (fun (zv : Nat × Nat) i =>
    let z := if x.testBit (127 - i) then zv.1 ^^^ zv.2 else zv.1
    let v := if zv.2.testBit 0 then (zv.2 >>> 1) ^^^ (0xE1 <<< 120) else zv.2 >>> 1
    (z, v)) (0, y)).1

/-- A byte string filled with zeros to whole blocks of 16. -/
def padBlock (b : List Byte) : List Byte := b ++ List.replicate ((16 - b.length % 16) % 16) 0

/-- GHASH of additional data and ciphertext under the hash key. -/
def ghash (h : Nat) (aad c : List Byte) : Nat :=
  let d := padBlock aad ++ padBlock c ++ beBytes 8 (8 * aad.length) ++ beBytes 8 (8 * c.length)
  (words 16 (d.length / 16) d).foldl (fun y x => ghashMul (y ^^^ x) h) 0

/-- The key stream from counter `i`: `n` blocks. -/
def gcmStream (keys : List (List Byte)) (nonce : List Byte) : Nat → Nat → List Byte
  | 0, _ => []
  | n + 1, i => aesEncryptBlock keys (nonce ++ beBytes 4 i) ++ gcmStream keys nonce n (i + 1)

/-- AES-256-GCM encryption: the ciphertext and the 16-byte tag. -/
def gcmSeal (key nonce aad plain : List Byte) : List Byte × List Byte :=
  let keys := aesRoundKeys key
  let h := beNat (aesEncryptBlock keys (List.replicate 16 0))
  let c := xorBytes plain (gcmStream keys nonce ((plain.length + 15) / 16) 2)
  (c, xorBytes (beBytes 16 (ghash h aad c)) (aesEncryptBlock keys (nonce ++ beBytes 4 1)))

/-- AES-256-GCM decryption: nothing when the tag does not verify. -/
def gcmOpen (key nonce aad cipher tag : List Byte) : Option (List Byte) :=
  let keys := aesRoundKeys key
  let h := beNat (aesEncryptBlock keys (List.replicate 16 0))
  let t := xorBytes (beBytes 16 (ghash h aad cipher)) (aesEncryptBlock keys (nonce ++ beBytes 4 1))
  if t = tag then some (xorBytes cipher (gcmStream keys nonce ((cipher.length + 15) / 16) 2)) else none

/-- AES-256 key wrap (RFC 3394) of a multiple of 8 bytes. -/
def keyWrap (kek plain : List Byte) : List Byte :=
  let keys := aesRoundKeys kek
  let n := plain.length / 8
  let step := fun (ar : List Byte × List (List Byte)) (t : Nat) =>
    let i := t % n
    let b := aesEncryptBlock keys (ar.1 ++ nth ar.2 i [])
    (xorBytes (b.take 8) (beBytes 8 (t + 1)), setNth ar.2 i (b.drop 8))
  let r := (List.range (6 * n)).foldl step (List.replicate 8 0xA6#8, chunks 8 n plain)
  r.1 ++ r.2.flatten

/-! The curve P-384 (FIPS 186-4, D.1.2.4). -/

def p384P : Nat := 2 ^ 384 - 2 ^ 128 - 2 ^ 96 + 2 ^ 32 - 1
def p384N : Nat := 0xFFFFFFFFFFFFFFFFFFFFFFFFFFFFFFFFFFFFFFFFFFFFFFFFC7634D81F4372DDF581A0DB248B0A77AECEC196ACCC52973
def p384B : Nat := 0xB3312FA7E23EE7E4988E056BE3F82D19181D9C6EFE8141120314088F5013875AC656398D8A2ED19D2A85C8EDD3EC2AEF
def p384Gx : Nat := 0xAA87CA22BE8B05378EB1C71EF320AD746E1D3B628BA79B9859F741E082542A385502F25DBF55296C3A545E3872760AB7
def p384Gy : Nat := 0x3617DE4A96262C6F5D9E98BF9292DC29F8F41DBD289A147CE9DA3113B5F0B8C00A60B1CE1D7E819D7A431D7C90EA0E5F

/-- Exponentiation modulo m by the exponent's low `n` bits, most significant first. -/
def powMod (m base e : Nat) : Nat → Nat
  | 0 => 1 % m
  | n + 1 =>
    -- the power of the exponent's bits above the lowest, squared
    let h := powMod m base (e / 2) n
    let s := h * h % m
    if e % 2 = 1 then s * base % m else s

/-- The inverse modulo a prime of 384 bits. -/
def invMod (m x : Nat) : Nat := powMod m (x % m) (m - 2) 384

/-- A point in Jacobian coordinates; z = 0 is the point at infinity. -/
structure JPoint where
  x : Nat
  y : Nat
  z : Nat
  deriving DecidableEq, Repr

def subP (a b : Nat) : Nat := (a + p384P - b % p384P) % p384P
def mulP (a b : Nat) : Nat := a * b % p384P

/-- Point doubling on y² = x³ − 3x + b. -/
def JPoint.dbl (p : JPoint) : JPoint :=
  if p.z = 0 then p else
  let zz := mulP p.z p.z
  let m := mulP 3 (mulP (subP p.x zz) ((p.x + zz) % p384P))
  let yy := mulP p.y p.y
  let s := mulP 4 (mulP p.x yy)
  let x := subP (mulP m m) (2 * s % p384P)
  ⟨x, subP (mulP m (subP s x)) (mulP 8 (mulP yy yy)), mulP 2 (mulP p.y p.z)⟩

/-- Point addition. -/
def JPoint.plus (p q : JPoint) : JPoint :=
  if p.z = 0 then q else if q.z = 0 then p else
  let z1 := mulP p.z p.z
  let z2 := mulP q.z q.z
  let u1 := mulP p.x z2
  let u2 := mulP q.x z1
  let s1 := mulP p.y (mulP q.z z2)
  let s2 := mulP q.y (mulP p.z z1)
  if u1 = u2 then (if s1 = s2 then p.dbl else ⟨1, 1, 0⟩) else
  let h := subP u2 u1
  let r := subP s2 s1
  let hh := mulP h h
  let hhh := mulP h hh
  let v := mulP u1 hh
  let x := subP (mulP r r) ((hhh + 2 * v) % p384P)
  ⟨x, subP (mulP r (subP v x)) (mulP s1 hhh), mulP h (mulP p.z q.z)⟩

/-- k·P by the scalar's low `n` bits. -/
def JPoint.times (p : JPoint) (k : Nat) : Nat → JPoint
  | 0 => ⟨1, 1, 0⟩
  | n + 1 =>
    let h := (JPoint.times p (k / 2) n).dbl
    if k % 2 = 1 then h.plus p else h

/-- The affine coordinates of a point; none at infinity. -/
def JPoint.affine (p : JPoint) : Option (Nat × Nat) :=
  if p.z = 0 then none
  else
    let i := invMod p384P p.z
    let ii := mulP i i
    some (mulP p.x ii, mulP p.y (mulP i ii))

def p384G : JPoint := ⟨p384Gx, p384Gy, 1⟩

/-- The uncompressed point encoding of 97 bytes: 0x04, x, y. -/
def encodePoint (xy : Nat × Nat) : List Byte := 0x04#8 :: (beBytes 48 xy.1 ++ beBytes 48 xy.2)

/-- An uncompressed point on the curve; none for anything else. -/
def decodePoint (b : List Byte) : Option JPoint :=
  let x := field b 1 48
  let y := field b 49 48
  if b.length = 97 ∧ b.head? = some 0x04#8 ∧ x < p384P ∧ y < p384P ∧
     mulP y y = (mulP x (mulP x x) + p384B + 3 * (p384P - x)) % p384P
  then some ⟨x, y, 1⟩ else none

/-- The public point of a private scalar, encoded. -/
def publicKey (d : Nat) : List Byte :=
  match (p384G.times d 384).affine with
  | some xy => encodePoint xy
  | none => []

/-- The x-coordinate of the ECDH shared point (R70); none for a bad point. -/
def ecdh (d : Nat) (peer : List Byte) : Option (List Byte) :=
  match decodePoint peer with
  | some q => (q.times d 384).affine.map (fun xy => beBytes 48 xy.1)
  | none => none

/-- The candidate nonces of RFC 6979 with SHA-384 and P-384: the first acceptable one of `fuel`. -/
def rfc6979 : Nat → List Byte → List Byte → Nat
  | 0, _, _ => 1
  | fuel + 1, k, v =>
    let v1 := hmac k v
    let t := beNat v1
    if 0 < t ∧ t < p384N then t
    else
      let k1 := hmac k (v1 ++ [0x00#8])
      rfc6979 fuel k1 (hmac k1 v1)

/-- The deterministic nonce of RFC 6979 for a private scalar and a SHA-384 digest. -/
def ecdsaNonce (d : Nat) (digest : List Byte) : Nat :=
  let x := beBytes 48 d
  let h := beBytes 48 (beNat digest % p384N)
  let v0 := List.replicate 48 0x01#8
  let k1 := hmac (List.replicate 48 0x00#8) (v0 ++ [0x00#8] ++ x ++ h)
  let v1 := hmac k1 v0
  let k2 := hmac k1 (v1 ++ [0x01#8] ++ x ++ h)
  rfc6979 16 k2 (hmac k2 v1)

/-- ECDSA over P-384 with the RFC 6979 nonce: r ‖ s, 96 bytes. -/
def ecdsaSign (d : Nat) (digest : List Byte) : List Byte :=
  let k := ecdsaNonce d digest
  match (p384G.times k 384).affine with
  | none => []
  | some (x, _) =>
    let r := x % p384N
    let s := invMod p384N k * (beNat digest + r * d) % p384N
    beBytes 48 r ++ beBytes 48 s

/-- ECDSA verification of r ‖ s over a SHA-384 digest with an encoded public point. -/
def ecdsaVerify (pub digest sig : List Byte) : Bool :=
  match decodePoint pub with
  | none => false
  | some q =>
    let r := field sig 0 48
    let s := field sig 48 48
    if sig.length = 96 ∧ 0 < r ∧ r < p384N ∧ 0 < s ∧ s < p384N then
      let w := invMod p384N s
      let u1 := beNat digest * w % p384N
      let u2 := r * w % p384N
      match ((p384G.times u1 384).plus (q.times u2 384)).affine with
      | some (x, _) => x % p384N == r
      | none => false
    else false

end Sys2Proof.Machine
end

