-- ==== Sys2Proof/Machine/Store.lean ====
section
/-! DEFINITION. Two sparse maps in canonical form: `Store`, the Almanac's values by address, and `Memory`, the DRAM
by byte address. Both list only what differs from what an unlisted key reads as, with keys strictly rising. -/

namespace Sys2Proof.Machine

/-- An object's key: index, subindex and element in one number. -/
def okey (index sub elem : Nat) : Nat := (index * 256 + sub) * 65536 + elem

/-- What a key reads as while it is not listed: the object's default (R57). -/
def keyDefault (k : Nat) : Value := defaultOf (k / 16777216) (k / 65536 % 256) (k % 65536)

/-- Objects that differ from their defaults, by key. -/
abbrev Store := List (Nat × Value)

/-- A key's listed value. -/
def Store.find (st : Store) (k : Nat) : Option Value :=
  match st with
  | [] => none
  | (k', v) :: rest => if k = k' then some v else Store.find rest k

/-- The value at a key. -/
def Store.get (st : Store) (k : Nat) : Value := (Store.find st k).getD (keyDefault k)

/-- A key's entry removed. -/
def Store.erase (st : Store) (k : Nat) : Store :=
  match st with
  | [] => []
  | (k', v) :: rest => if k = k' then Store.erase rest k else (k', v) :: Store.erase rest k

/-- A key's entry set, in its place. -/
def Store.put (st : Store) (k : Nat) (v : Value) : Store :=
  match st with
  | [] => [(k, v)]
  | (k', v') :: rest =>
    if k < k' then (k, v) :: (k', v') :: rest
    else if k = k' then (k, v) :: rest
    else (k', v') :: Store.put rest k v

/-- A value written at a key; writing the default removes the entry. -/
def Store.set (st : Store) (k : Nat) (v : Value) : Store :=
  if v = keyDefault k then Store.erase st k else Store.put st k v

/-- The canonical form: keys strictly rising, no entry equal to its default. -/
def Store.wf (st : Store) : Bool :=
  match st with
  | [] => true
  | (k, v) :: rest => decide (v ≠ keyDefault k) && rest.all (fun e => decide (k < e.1)) && Store.wf rest

/-- Several values written in turn. -/
def Store.setAll (st : Store) (l : List (Nat × Value)) : Store := l.foldl (fun s e => s.set e.1 e.2) st

/-- Bytes of DRAM that differ from 0, by address. -/
abbrev Memory := List Host.Cell

/-- The byte at an address; an address with nothing written reads 0 (DESIGN CHOICE, log entry 3). -/
def Memory.read (m : Memory) (a : Nat) : Byte :=
  match m with
  | [] => 0
  | (a', b) :: rest => if a = a' then b else Memory.read rest a

/-- An address's entry removed. -/
def Memory.erase (m : Memory) (a : Nat) : Memory :=
  match m with
  | [] => []
  | (a', b) :: rest => if a = a' then Memory.erase rest a else (a', b) :: Memory.erase rest a

/-- An address's entry set, in its place. -/
def Memory.put (m : Memory) (a : Nat) (b : Byte) : Memory :=
  match m with
  | [] => [(a, b)]
  | (a', b') :: rest =>
    if a < a' then (a, b) :: (a', b') :: rest
    else if a = a' then (a, b) :: rest
    else (a', b') :: Memory.put rest a b

/-- A byte written; writing 0 removes the entry. -/
def Memory.write (m : Memory) (a : Nat) (b : Byte) : Memory :=
  if b = 0 then Memory.erase m a else Memory.put m a b

/-- The canonical form: addresses strictly rising, no zero listed. -/
def Memory.wf (m : Memory) : Bool :=
  match m with
  | [] => true
  | (a, b) :: rest => decide (b ≠ 0) && rest.all (fun e => decide (a < e.1)) && Memory.wf rest

/-- `n` bytes from an address. -/
def Memory.readBytes (m : Memory) (a n : Nat) : List Byte := (List.range n).map (fun i => Memory.read m (a + i))

/-- Bytes written from an address upward. -/
def Memory.writeBytes (m : Memory) (a : Nat) : List Byte → Memory
  | [] => m
  | b :: rest => Memory.writeBytes (Memory.write m a b) (a + 1) rest

end Sys2Proof.Machine
end

