-- ==== Sys2Proof/Machine/State.lean ====
section
/-! DEFINITION. The state of the TN8448 as plain data: the queue of waiting commands, the Almanac's registers, and for
each subsystem the state the manual gives it beside its registers. -/

namespace Sys2Proof.Machine

/-! ## What leaves the device -/

/-- One PDU of the dictionary protocol before it is sealed (R62). -/
structure Pdu where
  opcode : Nat
  flags : Nat
  session : Nat
  seq : Nat
  payload : List Byte
  deriving DecidableEq, Repr

/-- What the device has put on its wires, oldest first: the model's own record, not a register (log entry 5). -/
inductive Output where
  /-- An Ethernet frame sent on a port, from the destination address to the last byte before the FCS. -/
  | frame (port : Nat) (bytes : List Byte)
  /-- Bytes sent to the host in one SPI transfer. -/
  | hspi (bytes : List Byte)
  /-- A PTP message sent on a port. -/
  | ptp (port : Nat) (msg : PtpMsg)
  /-- A voltage request in mV on an AVSBus rail: interface × 4 + rail (R25). -/
  | avs (rail mv : Nat)
  /-- Bytes on a TCP connection: the port, the 16-byte address and TCP port of the far end of a stream's connection (R200), or the
  output stream whose CMD_PORT the far end has connected to (R320). -/
  | tcp (port : Nat) (trailer : Option (Nat × Nat)) (far : Option (List Byte × Nat)) (out : Nat) (bytes : List Byte)
  /-- A GOOSE message of a publication sent on a port: its VID and PCP, the sequence number and LanId of its RCT, and its t field, UTC in
  2^-32 ns and the TimeQuality octet (R186, R323). -/
  | goose (port vid pcp : Nat) (trailer : Option (Nat × Nat)) (pub : Nat) (msg : GooseMsg) (utc : Int) (timeQuality : Nat)
  /-- A witness link frame (R481). -/
  | witness (bytes : List Byte)
  /-- What the acting unit mirrors over the pair link (R475). -/
  | mirrorImage (image : OutputImage)
  | mirrorBlocks (cycle : Nat) (blocks : List (Nat × Nat × BlockState))
  | mirrorTies (k : Nat) (ties : List (Nat × TieState))
  | mirrorPm (registers : List (List PmRegister)) (lastCycles : List Et)
  | mirrorBands (k : Nat) (summaries : List BandSummary)
  | mirrorGoose (pub stNum sqNum : Nat)
  deriving DecidableEq, Repr

/-! ## The Almanac server (R61–R85) -/

/-- An open session (R66, R69, R71, R81). -/
structure Session where
  id : Nat
  transport : Transport
  role : Nat
  maxPayload : Nat
  /-- Host-to-device and device-to-host keys (R70). -/
  keyIn : List Byte
  keyOut : List Byte
  /-- The highest accepted SEQUENCE, and which of the 64 below it were accepted (bit i: highest − 1 − i). -/
  highest : Nat
  seen : Nat
  /-- SEQUENCE of the last notification, and whether the next one carries LOSS. -/
  notifySeq : Nat
  loss : Bool
  /-- Raw-counter tick of the last valid request. -/
  lastValid : Nat
  /-- Objects held separately for this session (R59). -/
  own : Store
  deriving DecidableEq, Repr

/-- A subscription (R80). Times are raw-counter ticks. -/
structure Subscription where
  id : Nat
  session : Nat
  index : Nat
  sub : Nat
  onChange : Bool
  minInterval : Nat
  period : Nat
  /-- PERIODIC: the tick at which the next notification is due. -/
  due : Nat
  /-- ON_CHANGE: the tick of the last notification, and a change not yet notified. -/
  lastSent : Option Nat
  waiting : Bool
  deriving DecidableEq, Repr

/-- What a command in progress does at its completion, beside its result (R78). -/
inductive JobAction where
  | none
  /-- The restart of RESTART_CMD. -/
  | restart
  /-- A key command with the SLOT, TARGET and INPUT it was given (R453). -/
  | key (opcode slot target : Nat) (input : List Byte)
  | prepare (type session : Nat)
  | verify (type : Nat) (valid : Bool)
  | activate (type : Nat) (restarts live : Bool)
  | abandon (type : Nat)
  | enterRecovery
  | tamperClear
  | exportPlate (plate : Nat)
  | selftest
  deriving DecidableEq, Repr

/-- A command in progress: its result RECORD, its outcome and what completes with it. -/
structure Job where
  result : Nat
  code : Nat
  data : List Byte
  action : JobAction
  deriving DecidableEq, Repr

/-- What a commit in progress is doing (R73): validating, or waiting for its quiesce. -/
inductive CommitPhase where
  | idle | validating | quiescing
  deriving DecidableEq, Repr

/-- The Almanac server beside its objects. -/
structure Alm where
  sessions : List Session
  subs : List Subscription
  nextSession : Nat
  nextSub : Nat
  jobs : List Job
  commit : CommitPhase
  /-- The tick at which the longest CFG_NOTICE of the waiting commit ends (R321). -/
  quiesce : Nat
  /-- Responses and notifications that wait for a READ_PDU, oldest first, with the key that seals each (R82, R83). -/
  hspiTx : List (Pdu × Option (List Byte))
  /-- Responses and notifications over UDP that the management core has not posted yet (R207), oldest first, with the peer. -/
  udpTx : List (UdpPeer × Pdu × Option (List Byte))
  /-- The end of the last transfer, while HSPI_INT_N is held high after it (R84), and the level of the pin. -/
  hspiGap : Option Nat
  hspiIntLow : Bool
  /-- How many values Config.random has given. -/
  draws : Nat
  deriving DecidableEq, Repr

/-! ## Events, qualifiers and the Logbook (R414–R427, R516–R523) -/

/-- A raise on its way to the Logbook. -/
structure Raise where
  source : Nat
  context : Nat
  et : Et
  unlocked : Bool
  deriving DecidableEq, Repr

/-- A Logbook record (R415). `intact` is false once its CRC no longer verifies (R424). -/
structure LogRecord where
  sequence : Nat
  et : Et
  source : Nat
  severity : Nat
  mask : Nat
  flags : Nat
  context : Nat
  values : List Nat
  intact : Bool
  deriving DecidableEq, Repr

/-- A fault qualifier (R522): LASTING, and the ticks of the occurrences that may still count. -/
structure Qualifier where
  lasting : Bool
  history : List Nat
  deriving DecidableEq, Repr

/-- A block of Logbook records built for a session (R426). -/
structure LogBlock where
  session : Nat
  bytes : List Byte
  raw : Bool
  records : Nat
  next : Nat
  ready : Bool
  deriving DecidableEq, Repr

/-- The event controller and the Logbook beside their objects. -/
structure Events where
  /-- The DRAM ring is ready (R419). -/
  ready : Bool
  /-- Raises of the present command; its end hands them on in ascending source number (R414, R518). -/
  raised : List Raise
  bootBuffer : List Raise
  /-- Raises that the Logbook's intake holds (R422); the Logbook has written them all when the next command comes. -/
  intake : Nat
  ring : List LogRecord
  flashQueue : List LogRecord
  /-- DROPS_BEFORE of the next record. -/
  dropped : Bool
  /-- Ticks of the last LOG_DROPPED and of the last LOG_DAMAGED. -/
  lastDropped : Option Nat
  lastDamaged : Option Nat
  /-- How often EVENT_NOTIFY has been written: its change count under R80, and its notification-only count (R521). -/
  notifies : Nat
  notifyOnly : Nat
  /-- The tick of the ACK since which an IRQ pin is released, while it is, and the levels of the pins (R520). -/
  irqGap : List (Option Nat)
  irqLow : List Bool
  /-- Fault qualifiers by their key (R522). -/
  qualifiers : List (Nat × Qualifier)
  blocks : List LogBlock
  /-- Condition memories of R528: last window below floor per die, Tj above TEMP_WARN per die, rail out of tolerance. -/
  lastBelow : List (Option Nat)
  hot : List Bool
  railOut : List Bool
  /-- No window, and no temperature sample, since MARGIN_MIN and TJ_MAX of a die were cleared (R531). -/
  marginFresh : List Bool
  tjFresh : List Bool
  /-- The tick of the next periodic counter snapshot (R526). -/
  snapDue : Nat
  deriving DecidableEq, Repr

/-! ## Ephemeris, PTP and timed I/O (R86–R127) -/

/-- A step that waits for its applying tick (R93). Amounts and times in 2^-32 ns. -/
structure PendingStep where
  amount : Int
  second : Option Et
  commanded : Bool
  deriving DecidableEq, Repr

/-- A timed output's driver (R112–R114). -/
structure TimedOut where
  active : Bool
  /-- The tick at which the pulse ends. -/
  endTick : Nat
  /-- A new ARM_AT was written while ACTIVE. -/
  rearm : Bool
  /-- The ET of the last periodic edge driven on the present segment. -/
  lastPeriodic : Option Et
  /-- The pin's electrical level: 0 low, 1 high, 2 high impedance (R112, R115, R496). -/
  level : Nat
  deriving DecidableEq, Repr

/-- The Ephemeris beside its objects. -/
structure Eph where
  raw : Nat
  baseRaw : Nat
  baseEt : Et
  increment : Nat
  /-- An increment write on its way to EPH (R90). -/
  newIncrement : Option Nat
  step : Option PendingStep
  /-- The firmware servo's integrator in ppb (R100). -/
  integ : Rat
  /-- Consecutive reports within LOCK_THRESH, and above UNLOCK_THRESH (R96). -/
  goodRun : Nat
  badRun : Nat
  lastReport : Nat
  qualitySince : Nat
  /-- A reference has been reported and not lost since. -/
  refHeld : Bool
  /-- The ET at which a pending leap takes effect (R102). -/
  leapAt : Option Et
  /-- The last leap: its ET and what it added to UTC_OFFSET (R316). -/
  lastLeap : Option (Et × Int)
  /-- currentUtcOffset of the PTP reference, while its currentUtcOffsetValid is true (R102). -/
  ptpUtc : Option Int
  outs : List TimedOut
  /-- Last edge on each timed input, in 128ths of a tick. -/
  lastEdge : List (Option Nat)
  /-- IRIG-B: the last frame was valid, its coded UTC second and the tick at which it came; consecutive accepted frames. -/
  irigValid : Bool
  irigSecond : Int
  irigTick : Nat
  irigRun : Nat
  irigAccepted : Nat
  irigEt : Et
  /-- The accepted time came while the state was not LOCKED (R98); the daylight-saving bits of the last frame, pending in bit 0. -/
  irigUnlocked : Bool
  irigDst : Nat
  ppsRun : Nat
  ppsAccepted : Nat
  deriving DecidableEq, Repr

/-- A foreign master seen on a port (R103): its last Announce, when it came, and whether it has been seen often enough. -/
structure Foreign where
  msg : PtpMsg
  tick : Nat
  qualified : Bool
  deriving DecidableEq, Repr

/-- A residence-table entry (R105). -/
structure Residence where
  ingress : Nat
  sourceId : List Byte
  sourcePort : Nat
  seqId : Nat
  amount : Int
  tick : Nat
  deriving DecidableEq, Repr

/-- The PTP engine's state for one port. -/
structure PtpPort where
  foreign : List Foreign
  /-- The tick from which announceReceiptTimeout runs, that of the last Announce sent, and at which PRE_MASTER ends. -/
  announceTick : Nat
  sentTick : Nat
  masterTick : Nat
  announceSeq : Nat
  /-- A two-step Sync that waits for its Follow_Up: the message and its receive timestamp. -/
  sync : Option (PtpMsg × Et)
  /-- A Pdelay_Req that waits for its response, with its receive timestamp. -/
  request : Option (PtpMsg × Et)
  /-- The present peer-delay exchange: its sequenceId, t1, t2, t4, the responder's t3, and its corrections. -/
  pdelaySeq : Nat
  pdelayT1 : Option Et
  pdelayT2 : Option Et
  pdelayT3 : Option Et
  pdelayT4 : Option Et
  pdelayCorrection : Int
  /-- t3 and t4 of the exchange before, for the neighbour rate ratio. -/
  prev : Option (Et × Et)
  /-- The transmit-timestamp queue (R109): the 16 bytes of each entry, and its TIME_UNLOCKED (R98). -/
  txts : List (List Byte × Bool)
  /-- The ticks from which the next Sync and the next Pdelay_Req may leave (R122). -/
  syncDue : Nat
  pdelayDue : Nat
  residence : List Residence
  deriving DecidableEq, Repr

/-- The PTP engine: its parent's last Announce with the port it came on, the offset of the last ALTERNATE_TIME_OFFSET_INDICATOR, and
the messages it has discarded as not supported (R103). -/
structure Ptp where
  ports : List PtpPort
  parent : Option (Nat × PtpMsg)
  alternate : Option Int
  discarded : Nat
  deriving DecidableEq, Repr

/-! ## Start-up, keys and flash (R439–R467, R494–R515) -/

/-- What a bank of a persistent image (R502) or a copy of a key slot (R450) holds. -/
inductive BankContent where
  | blank
  /-- What manufacture programmed there (log entry 6). -/
  | factory
  | written (bytes : List Byte)
  deriving DecidableEq, Repr

/-- A stored configuration copy (R501): generation, entries, and whether its CRC verifies. -/
structure ConfigCopy where
  generation : Nat
  entries : Store
  intact : Bool
  deriving DecidableEq, Repr

/-- The tamper policy copy of R462. -/
structure TamperPolicy where
  enable : Nat
  aonLoss : Bool
  generation : Nat
  deriving DecidableEq, Repr

/-- A copy of what R376 saves of the Photometer: generation, whether its CRC verifies, and the ET of the save. -/
structure PmSaved where
  generation : Nat
  intact : Bool
  et : Et
  registers : List (List PmRegister)
  counts : List Nat
  demand : List (Nat × Value)
  deriving DecidableEq, Repr

/-- Non-volatile flash. -/
structure Flash where
  banks : List (BankContent × BankContent)
  configA : Option ConfigCopy
  configB : Option ConfigCopy
  /-- Key slot records, copies A and B per slot (R450). -/
  slots : List (BankContent × BankContent)
  /-- Per image type: a start, or a live activation, has already run the active bank's image (R504). -/
  tried : List Bool
  /-- The flash copy of the tamper policy and whether its check value verifies. -/
  policy : Option TamperPolicy
  /-- Logbook flash sectors, oldest first (R425). -/
  log : List (List LogRecord)
  pmA : Option PmSaved
  pmB : Option PmSaved
  /-- The selector of RECOVERY_EXITED: the unit left recovery at its last restart, with the cause (R512). -/
  recovered : Option Nat
  /-- The next start enters recovery by command (R510). -/
  enterRecovery : Bool
  deriving DecidableEq, Repr

/-- A loaded key slot. -/
structure LoadedKey where
  slot : Nat
  attributes : Nat
  secret : List Byte
  pub : List Byte
  deriving DecidableEq, Repr

/-- The key store's volatile state, the recovery key register and PD0 (R443, R459, R461). -/
structure Keys where
  root : Option (List Byte)
  rk : Option (List Byte)
  loaded : List LoadedKey
  /-- M is locked (R445). -/
  locked : Bool
  /-- Consecutive bad samples per tamper loop (R461). -/
  loopRuns : List Nat
  /-- PD0's copy of the policy (R462). -/
  pd0Enable : Nat
  pd0AonLoss : Bool
  aonLost : Bool
  deriving DecidableEq, Repr

/-- The start sequence (R497). -/
structure Boot where
  /-- RESET_N is low. -/
  inReset : Bool
  cause : Nat
  stageTick : Nat
  mainTick : Nat
  recoverLow : Bool
  /-- A live activation's service pause (R508): the management core is stopped. -/
  paused : Bool
  /-- A commit has ended DONE, and its configuration is not yet in flash (R501). -/
  saveDue : Bool
  /-- PUF attempts beyond the first at this start (R497). -/
  morePuf : Nat
  deriving DecidableEq, Repr

/-! ## Local channels (R128–R173) -/

/-- A fixed-rate or tracked sample of a channel: its value and the flags of its quality word. -/
structure FixedSample where
  code : Int
  value : F32
  flags : Quality
  deriving DecidableEq, Repr

structure TrackedSample where
  value : F64
  flags : Quality
  deriving DecidableEq, Repr

/-- One local channel beside its objects. Histories are newest first. -/
structure Channel where
  /-- Codes in the delay line of R140. -/
  line : List Int
  fixed : List FixedSample
  tracked : List TrackedSample
  /-- Calibration failed at this start (R132). -/
  calFailed : Bool
  /-- Consecutive open-wire samples outside and inside the window (R164). -/
  outRun : Nat
  inRun : Nat
  /-- Consecutive samples at the overrange threshold (R165), and the tick of the last one (R131). -/
  overRun : Nat
  lastOver : Option Nat
  /-- The 200 ms mean is at or above its limit (R165). -/
  dcShort : Bool
  deriving DecidableEq, Repr

/-- A tracked-cycle boundary: its sample index, its position and the advance in force from it (32 fraction bits). -/
structure Boundary where
  j : Nat
  p : Nat
  dp : Nat
  deriving DecidableEq, Repr

/-- The latest results of a bay (R152–R157). -/
structure BayResult where
  entries : List Entry
  settling : Bool
  deriving DecidableEq, Repr

/-- A bay beside its objects: the number of its next reporting instant, the tracked sample from which windows of its
class are settled (R161). -/
structure Bay where
  nextK : Nat
  classFrom : Nat
  deriving DecidableEq, Repr

/-- The local measurement chain. -/
structure Local where
  /-- S of a synchronising reset that waits (R147). -/
  waiting : Option Et
  /-- S of the present epoch, the grid offset g in 2^-32 ns, and the number of the next fixed-rate sample. -/
  epoch : Et
  grid : Int
  /-- The values of g in the epoch, newest first, each with the number of the first fixed-rate sample under it (R137). -/
  grids : List (Nat × Int)
  nextFixed : Nat
  /-- Number, position and advance of the next tracked sample (32 fraction bits), and its pending boundary. -/
  nextTracked : Nat
  position : Nat
  advance : Nat
  boundaryDue : Bool
  boundaries : List Boundary
  fEst : F64
  validRun : Nat
  channels : List Channel
  bays : List Bay
  deriving DecidableEq, Repr

/-! ## Network ports and stream ingest (R174–R221) -/

/-- An entry of a lane ingest queue (R209): its header fields and the frame from SYNC through CHK, or the 280 bytes of a
local frame's value entries (R163). -/
structure IngestEntry where
  stream : Nat
  port : Nat
  flags : Nat
  arrival : Et
  tci : Nat
  frame : List Byte
  /-- The timestamp of a local frame (R162). -/
  localTime : Et
  /-- The bytes of the entry, header included, that lay in a word with an uncorrectable error (R40), by number of their 8 bytes. -/
  bad : List Nat
  deriving DecidableEq, Repr

/-- A word of an ingest queue (R208): its 64 bytes and its tag, EOF in bit 7 and VALID below (R210); and which of its eight ECC words
have an uncorrectable error, as a bit set (R40). -/
structure QWord where
  bytes : List Byte
  tag : Byte
  bad : Nat
  deriving DecidableEq, Repr

/-- A slow-path frame in a receive buffer: tag and RCT removed, FCS not included. -/
structure SlowFrame where
  port : Nat
  bytes : List Byte
  tci : Nat
  tagged : Bool
  lanB : Bool
  unlocked : Bool
  stamp : Et
  /-- Cut for want of descriptors (R206), or an uncorrectable error in its buffers (R40). -/
  overrun : Bool
  deriving DecidableEq, Repr

/-- A descriptor (R205): its fields as the manual names them, FLAGS as one number. -/
structure Descriptor where
  bufAddr : Nat
  length : Nat
  flags : Nat
  tci : Nat
  port : Nat
  cls : Nat
  timestamp : Et
  frameLength : Nat
  deriving DecidableEq, Repr

/-- A frame in a transmit queue: its queue, what it is, and the ring positions of the descriptors that hold it (R207). -/
structure TxItem where
  cls : Nat
  out : Output
  descs : List Nat
  deriving DecidableEq, Repr

/-- A frame in a port's receive buffer. -/
inductive RxItem where
  | fast (e : IngestEntry)
  | slow (f : SlowFrame)
  deriving DecidableEq, Repr

/-- A port beside its objects. -/
structure Port where
  /-- The receive buffer: bytes and frame, oldest first (R212). -/
  fifo : List (Nat × RxItem)
  /-- PORT_RX_DISCARD has been raised since the occupancy was at or below RX_LOW_WM (R181). -/
  discarding : Bool
  /-- A pause frame is in force at the peer, and the tick of the last one sent (R180). -/
  pauseOn : Bool
  pauseTick : Nat
  /-- Received pause (R182): until when, since when it has been honoured, and until when it is not honoured. -/
  pausedUntil : Nat
  honourSince : Option Nat
  ignoreUntil : Option Nat
  /-- Frames in the transmit queues, oldest first. -/
  txq : List TxItem
  /-- The receive ring (R204, R206): the position the MAC fills next, and the descriptors the management core holds (OWN = 0), oldest
  first, by position, with the bytes in their buffers and whether an ECC word of them has failed (R40). Every other one has OWN = 1. -/
  rxNext : Nat
  rx : List (Nat × Descriptor × List Byte × Bool)
  /-- The transmit ring (R204, R207): the position that is filled next, and the descriptors with OWN = 1 by position. -/
  txNext : Nat
  tx : List (Nat × Descriptor)
  deriving DecidableEq, Repr

/-- A port with nothing in its buffers, queues and rings. -/
def idlePort : Port := ⟨[], false, false, 0, 0, none, none, [], 0, [], 0, []⟩

/-- A source of a PRP pair's table (R185): `bitmap` bit i stands for h − i. -/
structure PrpNode where
  source : List Byte
  high : Nat
  bitmap : Nat
  tick : Nat
  deriving DecidableEq, Repr

structure PrpPair where
  nodes : List PrpNode
  txSeq : Nat
  supervised : Nat
  deriving DecidableEq, Repr

/-- A lane ingest queue (R208–R213), each part oldest first: the tail, the spill area and how many words have ever passed into it, which
gives their places in the lane's region (R211), the head, and the words of an entry under way that the full queue does not accept yet (R212). Then its pointers in two
copies each, the timestamps of the local frames in it, and entries that wait for room without a port buffer to wait in (TCP
re-injections and local frames). -/
structure LaneQueue where
  tail : List QWord
  spill : List QWord
  spillNext : Nat
  head : List QWord
  part : List QWord
  times : List Et
  writeA : Nat
  writeB : Nat
  readA : Nat
  readB : Nat
  waiting : List IngestEntry
  /-- The queue is full (R212), and for how many ticks it has been so since the last clear. -/
  full : Bool
  fullTicks : Nat
  deriving DecidableEq, Repr

def emptyLaneQueue : LaneQueue := ⟨[], [], 0, [], [], [], 0, 0, 0, 0, [], false, 0⟩

/-- A stream beside its context objects (R194, R197, R200, R201): the ticks of its last accepted frame, of the last request for a
configuration frame and of its TCP state, and a request that waits for a link. -/
structure Stream where
  accepted : Option Nat
  asked : Option Nat
  tcpTick : Nat
  wanted : Bool
  deriving DecidableEq, Repr

/-- Ports and ingest. -/
structure Ingest where
  ports : List Port
  pairs : List PrpPair
  queues : List LaneQueue
  streams : List (Nat × Stream)
  /-- Configuration frames whose layouts take effect at the next transit boundary (R199), oldest first. -/
  autofills : List (Nat × CfgFrame)
  /-- Ticks of the last unknown-source record per IDCODE and source (R192). -/
  unknown : List ((Nat × List Byte) × Nat)
  /-- UTC_OFFSET before its last change, and the tick of that change (R194). -/
  prevUtc : Int
  utcTick : Option Nat
  /-- The changes of UTC_OFFSET, newest first: the ET of each and the value before it (R316, R323). -/
  utcSteps : List (Et × Int)
  deriving DecidableEq, Repr

/-! ## Transit engine (R222–R257, R563, R564) -/

/-- A stretch of ET with one F_t: instant k has ordinal k + off in it (R564). -/
structure RateSeg where
  fromEt : Et
  rate : Nat
  off : Int
  deriving DecidableEq, Repr

/-- A pending slot of a lane, by the instant's ordinal (R226, R229). -/
structure LaneSlot where
  ord : Nat
  frames : List (Nat × List Entry)
  /-- Streams whose frame here may no longer be held: they have left RECEIVING since (R228). -/
  unheld : List Nat
  strobe : Bool
  sent : Bool
  deriving DecidableEq, Repr

/-- A partial transit (R230, R244): the lane's watch entries, its stored frames and its required streams without one. -/
structure Partial where
  ord : Nat
  entries : List (Nat × Entry)
  stored : Nat
  missing : Nat
  deriving DecidableEq, Repr

/-- A lane's share of one band (R277). `changes` lists signal, alarm (0 POORLY_DAMPED, 1 GROWING) and new state. -/
structure BandShare where
  pd : Nat
  gr : Nat
  worst : Option (Nat × F32 × F32)
  changes : List (Nat × Nat × Bool)
  deriving DecidableEq, Repr

/-- A lane's contribution for an update (R277). -/
structure Contribution where
  loc : Bool
  update : Nat
  bands : List (Nat × BandShare)
  deriving DecidableEq, Repr

/-- What a task slot works on (R248). RELEASE: the W_min strobe of an instant, a notice for it, its partial transit, and the release message
that goes on around the ring. ALARM: a Spectroscope alarm message. WATCH: the ring exchange of an instant. ASSEMBLE, CONVERT and PARSE:
one frame, in its three stages. ANALYTICS: an inter-area or a local update. SERVICE: a late-queue record. -/
inductive TaskWork where
  | strobe (ord : Nat)
  | answer (ord : Nat)
  | partialOf (ord : Nat)
  | forward (ord : Nat)
  | alarm (c : Contribution)
  | watch (ord : Nat)
  | assemble (e : IngestEntry) (record : List Entry)
  | convert (e : IngestEntry)
  | parse
  | update (loc : Bool)
  | service (record : List Byte)
  deriving DecidableEq, Repr

/-- A task in a slot: its place in the order of admission of first stages, and its work. The list of tasks is in order of admission. -/
structure Task where
  frame : Nat
  work : TaskWork
  deriving DecidableEq, Repr

/-- A lane's transit state. -/
structure Lane where
  base : Nat
  slots : List LaneSlot
  /-- The last frame of each stream whose instant lies below base: its ordinal and record (R228). -/
  held : List (Nat × Nat × List Entry)
  tasks : List Task
  /-- Work that waits for a task slot, oldest first. -/
  work : List TaskWork
  nextFrame : Nat
  /-- Notices on their way to the lane, and partials on their way to the hub. -/
  notices : List Nat
  outbox : List Partial
  saturated : Bool
  saturatedTick : Option Nat
  deriving DecidableEq, Repr

/-- How the hub asked for partials (R230, R233, R237). -/
inductive NoticeKind where
  | release | deadline | step
  deriving DecidableEq, Repr

/-- A pending instant on the hub (R230), or a run of skipped instants that waits for its turn (R563). -/
structure HubInstant where
  ord : Nat
  k : Nat
  tk : Et
  run : Nat
  skip : Bool
  strobed : Bool
  notice : Option NoticeKind
  closeTick : Nat
  closed : Bool
  waited : Bool
  partials : List (Nat × Partial)
  deriving DecidableEq, Repr

/-- A transit as its consumers take it: `vec` lists the watch entries that are used; none for a run of skipped or dropped
instants. -/
structure Released where
  ord : Nat
  k : Nat
  tk : Et
  rate : Nat
  run : Nat
  vec : Option (List (Nat × Entry))
  /-- The header carries ET_UNLOCKED. -/
  unlocked : Bool
  deriving DecidableEq, Repr

/-- A transit held in the history (R247). -/
structure HistoryEntry where
  seq : Nat
  header : List Byte
  vec : List (Nat × Entry)
  deriving DecidableEq, Repr

/-- The transit engine. -/
structure Transit where
  running : Bool
  /-- Ordinals of the first instant of generation and of the next one to release or skip. -/
  first : Nat
  nextOrd : Nat
  /-- Rate segments, newest first, and a change of F_T that waits for S_c. -/
  segs : List RateSeg
  pendingRate : Option (Et × Nat)
  insts : List HubInstant
  lanes : List Lane
  history : List (Nat × HistoryEntry)
  latest : List (Nat × Entry)
  watchChanged : Bool
  /-- The tick of the last release. -/
  releaseTick : Option Nat
  /-- Transits on their way to the Spectroscope's four lane shares, and to Horizon. -/
  toSpectro : List (List Released)
  toHorizon : List Released
  /-- Ticks of the last FRAME_TIME_AHEAD and of the last write over a late record. -/
  aheadTick : Option Nat
  overTick : Option Nat
  deriving DecidableEq, Repr

/-! ## Spectroscope (R258–R285) -/

/-- What a signal keeps beside its resonators: m of R272, and the accumulator of R259 with its last angle. -/
structure SigState where
  m : Option F64
  acc : F64
  prev : Option F64
  deriving DecidableEq, Repr

/-- A present point of a window (R273). -/
structure WinPoint where
  lnA : F32
  dphi : F32
  quality : Quality
  deriving DecidableEq, Repr

/-- A resonator's estimate (R273, R274). -/
structure Estimate where
  a : F32
  sigma : F32
  freq : F32
  zeta : F32
  quality : Quality
  deriving DecidableEq, Repr

/-- An entry of the shape buffer (R279): update, envelope, estimate quality and alarms. -/
structure ShapePoint where
  update : Nat
  re : F32
  im : F32
  quality : Quality
  alarms : Nat
  deriving DecidableEq, Repr

/-- A resonator (R272–R276). The window is newest first. -/
structure Resonator where
  uRe : F32
  uIm : F32
  zRe : F32
  zIm : F32
  /-- arg z at the previous present point. -/
  argP : Option F64
  window : List (Option WinPoint)
  /-- Window updates since the last reset. -/
  updates : Nat
  staleRun : Nat
  /-- Consecutive usable estimates on which POORLY_DAMPED disagrees with its condition, and on which GROWING's is false. -/
  pdRun : Nat
  grRun : Nat
  pd : Bool
  gr : Bool
  /-- Alarm changes not yet sent to the hub. -/
  pdChanged : Bool
  grChanged : Bool
  est : Estimate
  update : Nat
  shapes : List ShapePoint
  deriving DecidableEq, Repr

/-- A local signal's notch (R265). -/
structure Notch where
  x1 : F64
  x2 : F64
  y1 : F64
  y2 : F64
  deriving DecidableEq, Repr

/-- A block of 8 local samples on its way to a lane (R266): per sample number the entries by signal; none for a dropped block. -/
structure LocalBlock where
  lastJ : Nat
  rows : Option (List (Nat × List (Nat × Entry)))
  deriving DecidableEq, Repr

/-- A band merge that is open on the hub (R277). -/
structure BandMerge where
  loc : Bool
  update : Nat
  time : Et
  closeTick : Nat
  parts : List (Nat × Contribution)
  deriving DecidableEq, Repr

/-- A mode-shape capture that waits for the lanes' answers (R279). -/
structure Capture where
  loc : Bool
  band : Nat
  update : Nat
  time : Et
  again : Bool
  trigger : Nat
  alarm : Nat
  deriving DecidableEq, Repr

/-- A mode-shape record (R280): entries of signals that are in the band. -/
structure ShapeRecord where
  number : Nat
  header : List Byte
  entries : List (Nat × List Byte)
  deriving DecidableEq, Repr

/-- The Spectroscope. Local signal m has key 4,096 + m; a resonator's key is its signal's key × 64 + band. -/
structure Spec where
  sigs : List (Nat × SigState)
  res : List (Nat × Resonator)
  notches : List (Nat × Notch)
  /-- Number of the next local sample, and the rows of the block that is forming. -/
  nextLocal : Nat
  forming : List (Nat × List (Nat × Entry))
  blocks : List (List LocalBlock)
  merges : List BandMerge
  /-- Contributions on their way from each lane, and each lane's latest merged one, inter-area and local. -/
  sent : List (List Contribution)
  latestInter : List (Option Contribution)
  latestLocal : List (Option Contribution)
  lastInter : Nat
  lastLocal : Nat
  /-- Per lane: the targets of a RESET_CMD not yet carried out (R276). -/
  resets : List (List Nat)
  captures : List Capture
  /-- Per band (local band b at 32 + b): ET of the last capture of the present episode, its trigger signal and alarm. -/
  episodes : List (Nat × Et × Nat × Nat)
  shapes : List (Nat × ShapeRecord)
  deriving DecidableEq, Repr

/-! ## Horizon and the alarm path (R286–R311) -/

/-- Horizon. -/
structure Horizon where
  uRuns : List (Nat × Nat)
  ties : List (Nat × TieState)
  /-- Island id of each enabled bus at the last evaluation. -/
  islands : List (Nat × Nat)
  /-- Mirrored tie states for an instant not yet evaluated (R475). -/
  mirrored : Option (Nat × List (Nat × TieState))
  /-- The next evaluation only sets the comparison base (R294). -/
  fresh : Bool
  deriving DecidableEq, Repr

/-- Loss of mains on one bay (R298, R299). Histories are newest first. -/
structure LomBay where
  nextH : Nat
  psis : List F64
  freqs : List F64
  rocofRun : Nat
  blocked : Bool
  active : Bool
  lastMet : Nat
  deriving DecidableEq, Repr

/-- An ALM pin's pulse (R305). -/
structure AlmPin where
  pulsing : Bool
  endTick : Nat
  deriving DecidableEq, Repr

/-- The alarm router (R303): states, routed states and latches as bit sets, MIN_ON ends, and deliveries on their way. -/
structure Alarms where
  state : Nat
  routed : Nat
  latched : Nat
  minOn : List (Nat × Nat)
  batches : List (List (Nat × Bool))
  pins : List AlmPin
  deriving DecidableEq, Repr

/-! ## Egress and GOOSE (R312–R334) -/

/-- An output stream: data is on (R320), its build queue, oldest first (R318), and its filter window of at most 63 instants, newest
first (R314). -/
structure EgressOut where
  on : Bool
  build : List Released
  window : List Released
  deriving DecidableEq, Repr

/-- A GOOSE publication (R323, R324): the sampled BOOLEAN values and the members' quality words, whether they have been sampled
since its start, a change that waits to be sent, and the retransmission in ms with its tick. -/
structure GoosePub where
  stNum : Nat
  sqNum : Nat
  changeEt : Et
  bools : List Bool
  quals : List Quality
  sampled : Bool
  changed : Bool
  interval : Nat
  next : Option Nat
  deriving DecidableEq, Repr

/-- A unicast neighbour on a port (R319): its 16-byte address, its MAC once resolved, and the tick of the last question. -/
structure Neighbour where
  port : Nat
  address : List Byte
  mac : Option (List Byte)
  asked : Nat
  /-- The management core's packets that wait for the MAC address: EtherType and payload. -/
  waiting : List (Nat × List Byte)
  deriving DecidableEq, Repr

/-- Egress and GOOSE beside their objects. -/
structure Egress where
  outs : List EgressOut
  /-- CFGCNT of each stream (R320). -/
  cfgCounts : List Nat
  /-- TCP connections on CMD_PORT: stream and port (R320). -/
  conns : List (Nat × Nat)
  neighbours : List Neighbour
  pubs : List GoosePub
  /-- The ET at which the last accepted frame of a subscription expires (R327). -/
  expiry : List (Nat × Et)
  deriving DecidableEq, Repr

/-! ## The Orrery and binary I/O (R335–R368) -/

/-- Where the Orrery is in its cycle (R335): before the snapshot, evaluating, or evaluated and before its output write. -/
inductive CyclePhase where
  | idle | evaluating | evaluated
  deriving DecidableEq, Repr

/-- What a snapshot holds (R337, R341). Alarm sets are bit sets; `rose` and `fell` cover the time since the one before. -/
structure Snapshot where
  watch : List (Nat × Entry)
  watchStale : Bool
  alarms : Nat
  rose : Nat
  fell : Nat
  inputs : List (Nat × F32 × Quality)
  deriving DecidableEq, Repr

/-- The Orrery beside its objects. -/
structure Orrery where
  /-- The two image banks (R352). -/
  banks : List (List Byte)
  base : Et
  m : Nat
  phase : CyclePhase
  /-- A start waits for ORRERY_START; a changed image waits for its switch (R353), and its switch for the output write. -/
  starting : Bool
  switchDue : Bool
  switched : Bool
  /-- An offset step came in this cycle (R340). -/
  realign : Bool
  firstCycle : Bool
  snap : Snapshot
  /-- Alarm changes since the last snapshot. -/
  rose : Nat
  fell : Nat
  /-- Block states by position, after the last evaluation; an unlisted one is reset. -/
  blocks : List (Nat × BlockState)
  /-- An output write has taken place since the entry to RUNNING (R496). -/
  written : Bool
  writeTick : Nat
  /-- The standby's side (R475–R479): the last image not yet applied, the image being driven, block state that waits, the tick of
  the last image's arrival and of the last MIRROR_LATE. -/
  imageIn : Option OutputImage
  imageNow : Option OutputImage
  stateIn : Option (Nat × List (Nat × Nat × BlockState))
  imageTick : Option Nat
  lateTick : Option Nat
  /-- R487's safe case: the cycle from which the own output write is used. -/
  safeUntil : Option Nat
  deriving DecidableEq, Repr

/-- A binary output (R358–R360): its commanded value, the tick of its last turn-off, of its retry, and load samples in a row. -/
structure BoRun where
  on : Bool
  safe : Bool
  offTick : Option Nat
  retryTick : Option Nat
  noLoad : Nat
  load : Nat
  deriving DecidableEq, Repr

/-- A binary input's candidate band (R363): band, ET and tick of its first sample, and samples so far. -/
structure BiRun where
  band : Nat
  firstEt : Et
  firstTick : Nat
  samples : Nat
  deriving DecidableEq, Repr

/-! ## Redundant pairs and the witness (R468–R493) -/

/-- What the unit notes between two POLLs for its ALIVE (R482). -/
structure AliveNotes where
  /-- A POLL has opened the interval. -/
  opened : Bool
  /-- An output write has taken place in it. -/
  wrote : Bool
  deriving DecidableEq, Repr

/-- The interlock and the unit's side of the witness link. -/
structure Pair where
  /-- ACT_CLAIM_N low (claim held) and the tick it was asserted; ACT_PEER_N low; DEPOSE_N low and since when. -/
  claim : Bool
  claimTick : Nat
  peer : Bool
  depose : Bool
  deposeTick : Nat
  /-- DEPOSED is latched in PD0 (R473). -/
  deposed : Bool
  /-- No output image for PAIR_HOLD (R479). -/
  holdExpired : Bool
  /-- Ticks of the last POLL with PERMIT and of the last POLL, and whether WITNESS_LOST is due again. -/
  permitTick : Option Nat
  pollTick : Option Nat
  lost : Bool
  alive : Nat
  notes : AliveNotes
  /-- A handover waits for its release (R489), and the release has been made. -/
  handover : Bool
  handedOver : Bool
  deriving DecidableEq, Repr

/-- The witness's side for one unit (R481–R485). -/
structure WitUnit where
  seq : Nat
  /-- The tick at which its POLL ended, while its STATUS is awaited. -/
  polled : Option Nat
  /-- STATE and ALIVE last reported, and the tick of the last heartbeat. -/
  state : Nat
  alive : Option Nat
  hbTick : Option Nat
  /-- Polling rounds in a row in which it reported its claim held, and the last of them. -/
  claimRun : Nat
  claimRound : Nat
  /-- Heartbeats in a row that report STARTING or NOT_READY with the claim released. -/
  calm : Nat
  deriving DecidableEq, Repr

/-- The witness. -/
structure Witness where
  units : List WitUnit
  pollTick : Nat
  /-- The number of the present polling round. -/
  round : Nat
  deriving DecidableEq, Repr

/-! ## The Photometer (R369–R391) -/

/-- A cycle a standby booked itself (R477): its epoch, its number, its end and the amounts. -/
structure OwnCycle where
  epoch : Et
  cycle : Nat
  endEt : Et
  amounts : List (Nat × F64)
  deriving DecidableEq, Repr

/-- One bay's meter beside its objects. -/
structure PmBay where
  registers : List PmRegister
  /-- Number of the next cycle of the epoch to book. -/
  nextCycle : Nat
  /-- The ET up to which time is accounted for, once known (R371), and whether samples have resumed since. -/
  upTo : Option Et
  resumed : Bool
  /-- Consecutive cycles with and without each condition of R383. -/
  present : List Nat
  absent : List Nat
  /-- The VN continuity monitor (R547): open, and its last sample stood above +0.50 V. -/
  vnOpen : Bool
  vnHigh : Bool
  /-- The demand interval (R381): its start, its five sums in 2^-16 units, PARTIAL and FAULT. -/
  demandStart : Option Et
  /-- The boundary that ends the interval comes after this ET, at which a DEMAND_PERIOD came into force. -/
  demandFrom : Et
  sums : List Nat
  partial_ : Bool
  fault : Bool
  /-- The averages of the last completed interval (R382). -/
  averages : Option (List F32)
  /-- A RESET_CMD waits for the cycle end (R377). -/
  resetDue : Bool
  /-- The standby's side (R477): the last mirrored registers with their LAST_CYCLE, and its own later cycles. -/
  mirrored : Option (List PmRegister × Et)
  own : List OwnCycle
  deriving DecidableEq, Repr

/-- A snapshot in progress (R378): t_s, the registers of each bay once captured, and pulse counts that have changed since t_s. -/
structure PmSnap where
  ts : Et
  bays : List (Nat × List PmRegister)
  frozen : List (Nat × Nat)
  deriving DecidableEq, Repr

/-- The Photometer. -/
structure Pm where
  bays : List PmBay
  snap : Option PmSnap
  saveTick : Nat
  /-- A RESET_CMD names every bay. -/
  resetAll : Bool
  deriving DecidableEq, Repr

/-! ## The Plate recorder and the Shutter (R392–R413) -/

/-- A segment of the plate ring (R394). Samples are newest first; `first` is the index in its epoch of its first sample. -/
structure Segment where
  seq : Nat
  t0 : Et
  epoch : Nat
  first : Nat
  quals : List Quality
  biError : Nat
  orrAbsent : Nat
  rows : List (List Int)
  digital : List Nat
  deriving DecidableEq, Repr

/-- A marker of a plate (R406). -/
structure Marker where
  index : Int
  frac : Nat
  trigger : Nat
  deriving DecidableEq, Repr

/-- A plate (R404–R406, R412). STATE 0 FREE, 1 RECORDING, 2 HELD, 3 INVALID; `first` and `trig` are sample indices of its epoch,
`stop` the index after its last sample. -/
structure Plate where
  number : Nat
  state : Nat
  flags : Nat
  severity : Nat
  firstTrigger : Nat
  firstSegment : Nat
  startEt : Et
  trigEt : Et
  trigIndex : Nat
  trigFrac : Nat
  pre : Nat
  epoch : Nat
  first : Nat
  trig : Nat
  stop : Nat
  markers : List Marker
  deriving DecidableEq, Repr

/-- The digital states from an ET on (R393): 40 bits, which BIs carry SOURCE_ERROR, which Orrery channels are ABSENT. -/
structure DigitalState where
  et : Et
  bits : Nat
  biError : Nat
  orrAbsent : Nat
  deriving DecidableEq, Repr

/-- A firing of a trigger (R399, R403): 0–31, 32 auto, 33 station edge, 34 command; its severity and its t_p. -/
structure Firing where
  trigger : Nat
  severity : Nat
  et : Et
  deriving DecidableEq, Repr

/-- A session's DAT chunk (R410). -/
structure ExportChunk where
  session : Nat
  block : Nat
  ready : Bool
  bytes : List Byte
  raw : Bool
  deriving DecidableEq, Repr

/-- The Plate recorder beside its objects. -/
structure Recorder where
  /-- Written segments by ring position, and the position that is being written. -/
  segs : List (Nat × Segment)
  cur : Option Nat
  nextSeq : Nat
  epoch : Nat
  nextPlate : Nat
  /-- Plates by slot. -/
  plates : List (Nat × Plate)
  /-- Conditions of the 32 triggers at their last evaluation (R398). -/
  conds : List Bool
  /-- Digital states, newest first. -/
  digital : List DigitalState
  /-- ET of the last plate's last sample, and the tick from which AUTO_PERIOD runs. -/
  lastEnd : Et
  autoFrom : Nat
  /-- XTRIG_N is pulled, until a tick; the tick of the last falling edge; triggers that wait for their edge (R402). -/
  pulled : Bool
  pullEnd : Nat
  edgeTick : Option Nat
  origins : List Firing
  /-- The plate being exported, with its configuration file, and the sessions' chunks (R409, R410). -/
  exported : Option Nat
  exportCfg : List Byte
  chunks : List ExportChunk
  deriving DecidableEq, Repr

/-! ## The compression engine (R428–R437) -/

/-- A suspended job (R434), by its descriptor: all input of the stream so far, how much of it is the last submission's, how much of
that has been consumed, and its output so far. -/
structure Suspended where
  descriptor : Nat
  input : List Byte
  length : Nat
  consumed : Nat
  produced : Nat
  mapUsed : Nat
  /-- It stopped for want of output room; its last buffer descriptor, and bytes used in it. -/
  output : Bool
  buffer : Nat
  used : Nat
  deriving DecidableEq, Repr

/-- The engine's queue: descriptors, the first one RUNNING. -/
structure Engine where
  queue : List Nat
  suspended : List Suspended
  deriving DecidableEq, Repr

/-! ## Links, lanes, supply loop and power (R16–R52) -/

/-- A directional Zonov link: the messages that hold credits, oldest first, each with whether it holds its escape credit; DOWN. -/
structure Link where
  held : List (MsgClass × Bool)
  down : Bool
  deriving DecidableEq, Repr

/-- A lane's lease (R48) and the ticks of its automatic reloads (R51). -/
structure LanePower where
  leaseTick : Nat
  reloads : List Nat
  /-- Its reload is RELOAD_CMD's. -/
  commanded : Bool
  deriving DecidableEq, Repr

/-- An AVSBus rail (R25–R27): a change that waits for its retry, and since when the margin has been short at v_max. -/
structure Rail where
  retry : Bool
  limitSince : Option Nat
  /-- AVS_AT_LIMIT has been raised for it. -/
  limited : Bool
  deriving DecidableEq, Repr

/-- Links, lanes and rails beside their objects. -/
structure Fabric where
  links : List Link
  lanes : List LanePower
  rails : List Rail
  /-- Ticks of the last pace window, loop period and scrub pass. -/
  paceTick : Nat
  loopTick : Nat
  scrubTick : Nat
  deriving DecidableEq, Repr


/-- The state of the TN8448. -/
structure State where
  /-- Commands that wait, first in, first out. -/
  pending : List Instr
  /-- RO, RW and WO objects, at their Almanac addresses. -/
  obj : Store
  /-- The committed and the staged configuration: ST objects (R72). -/
  cfg : Store
  staged : Store
  wire : List Output
  dram : Memory
  alm : Alm
  ev : Events
  eph : Eph
  ptp : Ptp
  flash : Flash
  keys : Keys
  boot : Boot
  loc : Local
  ing : Ingest
  tr : Transit
  spec : Spec
  hor : Horizon
  lom : List LomBay
  alr : Alarms
  egr : Egress
  orr : Orrery
  bos : List BoRun
  bis : List BiRun
  par : Pair
  wit : Witness
  pm : Pm
  rec_ : Recorder
  eng : Engine
  fab : Fabric
  deriving DecidableEq, Repr

/-! ## Right after reset -/

namespace State

/-- The start of the DRAM's users, sessions, events: nothing has happened yet. -/
def resetAlm : Alm := ⟨[], [], 1, 1, [], .idle, 0, [], [], none, false, 0⟩

def resetEvents : Events :=
  ⟨false, [], [], 0, [], [], false, none, none, 0, 0, List.replicate 4 none, List.replicate 4 false, [], [],
   List.replicate 5 none, List.replicate 6 false, List.replicate 9 false, List.replicate 5 true, List.replicate 6 true, 0⟩

/-- The raw counter at 0 on the segment of base 0 with the nominal increment of 2.5 ns (R91). -/
def resetEph : Eph :=
  ⟨0, 0, 0, 10737418240, none, none, 0, 0, 0, 0, 0, false, none, none, none, List.replicate 8 ⟨false, 0, false, none, 2⟩,
   List.replicate 4 none, false, 0, 0, 0, 0, 0, false, 0, 0, 0⟩

def resetPtp : Ptp :=
  ⟨List.replicate 6 ⟨[], 0, 0, 0, 0, none, none, 0, none, none, none, none, 0, none, [], 0, 0, []⟩, none, none, 0⟩

/-- Flash as manufacture leaves it (log entry 6): bank 0 of each image, KS0, KS1 and KS11, both helper copies, and the tamper
policy at its defaults. -/
def factoryFlash : Flash :=
  ⟨List.replicate 3 (.factory, .blank), none, none,
   (List.range 64).map (fun n => if n = 0 ∨ n = 1 ∨ n = 11 then (.factory, .blank) else (.blank, .blank)),
   List.replicate 3 true, some ⟨0x00FF, false, 0⟩, [], none, none, none, false⟩

def resetKeys : Keys := ⟨none, none, [], false, List.replicate 4 0, 0x00FF, false, false⟩

def resetBoot : Boot := ⟨true, 0, 0, 0, false, false, false, 0⟩

def resetLocal : Local :=
  ⟨none, 0, 0, [], 0, 0, 0, 0, false, [], ⟨0⟩, 0, List.replicate 48 ⟨[], [], [], false, 0, 0, 0, none, false⟩, List.replicate 8 ⟨0, 0⟩⟩

def resetIngest : Ingest :=
  ⟨List.replicate 6 idlePort, List.replicate 2 ⟨[], 0, 0⟩, List.replicate 4 emptyLaneQueue, [], [], [], 0, none, []⟩

def resetTransit : Transit :=
  ⟨false, 0, 0, [], none, [], List.replicate 4 ⟨0, [], [], [], [], 0, [], [], false, none⟩, [], [], false, none,
   List.replicate 4 [], [], none, none⟩

def resetSpec : Spec :=
  ⟨[], [], [], 0, [], List.replicate 4 [], [], List.replicate 4 [], List.replicate 4 none, List.replicate 4 none, 0, 0,
   List.replicate 4 [], [], [], []⟩

def resetHorizon : Horizon := ⟨[], [], [], none, true⟩

def resetLomBays : List LomBay := List.replicate 8 ⟨0, [], [], 0, false, false, 0⟩

def resetAlarms : Alarms := ⟨0, 0, 0, [], [], List.replicate 4 ⟨false, 0⟩⟩

def resetEgress : Egress :=
  ⟨List.replicate 16 ⟨false, [], []⟩, List.replicate 16 0, [], [], List.replicate 16 ⟨0, 0, 0, [], [], false, false, 0, none⟩, []⟩

def resetOrrery : Orrery :=
  ⟨[[], []], 0, 0, .idle, false, false, false, false, true, ⟨[], true, 0, 0, 0, []⟩, 0, 0, [], false, 0, none, none, none, none, none, none⟩

/-- The interlock released, ACT_PEER_N and DEPOSE_N high. -/
def resetPair : Pair := ⟨false, 0, false, false, 0, false, false, none, none, false, 0, ⟨false, false⟩, false, false⟩

def resetWitness : Witness := ⟨List.replicate 2 ⟨0, none, 0xFF, none, none, 0, 0, 0⟩, 0, 0⟩

def resetPm : Pm :=
  ⟨List.replicate 8 ⟨List.replicate 16 ⟨0, ⟨0⟩⟩, 0, none, true, [0, 0], [0, 0], false, false, none, 0, [0, 0, 0, 0, 0], true, false, none,
     false, none, []⟩, none, 0, false⟩

def resetRecorder : Recorder := ⟨[], none, 0, 0, 0, [], List.replicate 32 false, [], 0, 0, false, 0, none, [], none, [], []⟩

def resetFabric : Fabric := ⟨List.replicate 12 ⟨[], false⟩, List.replicate 4 ⟨0, [], false⟩, List.replicate 5 ⟨false, none, false⟩, 0, 0, 0⟩

/-- The registers right after reset: the table's defaults, with the pins of ALM0–ALM3 and BO0–BO15 at high impedance (R496) and bank 0
of each image ACTIVE. -/
def resetObj : Store :=
  (List.range 4).map (fun n => (okey (0x6201 + n) 0x05 0, .int 2)) ++ (List.range 16).map (fun n => (okey (0x7100 + n) 0x06 0, .int 3)) ++
  (List.range 3).map (fun t => (okey (0xD010 + t) 0x02 0, .int 5))

/-- The machine right after reset: stage RESET with RESET_N low (R497), every ST object at its default (R57), DRAM with nothing
written, and flash as manufacture leaves it. -/
def reset : State :=
  ⟨[], resetObj, [], [], [], [], resetAlm, resetEvents, resetEph, resetPtp, factoryFlash, resetKeys, resetBoot, resetLocal, resetIngest,
   resetTransit, resetSpec, resetHorizon, resetLomBays, resetAlarms, resetEgress, resetOrrery, List.replicate 16 ⟨false, false, none, none, 0, 0⟩,
   List.replicate 24 ⟨0xFF, 0, 0, 0⟩, resetPair, resetWitness, resetPm, resetRecorder, ⟨[], []⟩, resetFabric⟩

end State

/-- Why the machine stops with a fault. -/
inductive Fault where
  /-- A compression descriptor, buffer or context lies outside the 4 GiB of DRAM (R38): no address exists there.
  Raised by COMPRESS, DECOMPRESS and COMPRESS_JOB_RESUME. Safe. -/
  | noSuchDramAddress
  deriving DecidableEq, Repr

/-- Why a command has no meaning. -/
inductive Refusal where
  /-- A command this model gives no meaning yet; raised by exec's arms alone. Safe. -/
  | notModelled (mnemonic : String)
  deriving DecidableEq, Repr

end Sys2Proof.Machine
end

