-- ==== Sys2Proof/Machine/Regs.lean ====
section
/-! DEFINITION. Reading and writing the Almanac's registers and configuration objects, and the present time. -/

namespace Sys2Proof.Machine

namespace State

/-! Registers (RO, RW, WO objects). -/

def value (s : State) (index sub elem : Nat) : Value := s.obj.get (okey index sub elem)
def int (s : State) (index sub : Nat) : Int := (s.value index sub 0).toInt
def num (s : State) (index sub : Nat) : Nat := (s.int index sub).toNat
def flag (s : State) (index sub : Nat) : Bool := s.num index sub != 0
def bytes (s : State) (index sub : Nat) : List Byte := (s.value index sub 0).toBytes
def elem (s : State) (index sub e : Nat) : List Byte := (s.value index sub e).toBytes

def set (s : State) (index sub elem : Nat) (v : Value) : State := { s with obj := s.obj.set (okey index sub elem) v }
def setI (s : State) (index sub : Nat) (v : Int) : State := s.set index sub 0 (.int v)
def setN (s : State) (index sub v : Nat) : State := s.set index sub 0 (.int v)
def setB (s : State) (index sub : Nat) (b : Bool) : State := s.set index sub 0 (vBool b)
def setBytes (s : State) (index sub : Nat) (b : List Byte) : State := s.set index sub 0 (.bytes b)
def setElem (s : State) (index sub e : Nat) (b : List Byte) : State := s.set index sub e (.bytes b)
def setF32 (s : State) (index sub : Nat) (x : F32) : State := s.setN index sub x.nat
def setF64 (s : State) (index sub : Nat) (x : F64) : State := s.setN index sub x.nat
def f32 (s : State) (index sub : Nat) : F32 := F32.ofBits (s.num index sub)
def f64 (s : State) (index sub : Nat) : F64 := F64.ofBits (s.num index sub)

/-! The committed configuration. -/

def cValue (s : State) (index sub elem : Nat) : Value := s.cfg.get (okey index sub elem)
def cI (s : State) (index sub : Nat) : Int := (s.cValue index sub 0).toInt
def c (s : State) (index sub : Nat) : Nat := (s.cI index sub).toNat
def cB (s : State) (index sub : Nat) : Bool := s.c index sub != 0
def cBytes (s : State) (index sub : Nat) : List Byte := (s.cValue index sub 0).toBytes
def cElem (s : State) (index sub e : Nat) : List Byte := (s.cValue index sub e).toBytes
def cF32 (s : State) (index sub : Nat) : F32 := F32.ofBits (s.c index sub)
def cF64 (s : State) (index sub : Nat) : F64 := F64.ofBits (s.c index sub)

/-! Sub-states. -/

def modAlm (s : State) (f : Alm → Alm) : State := { s with alm := f s.alm }
def modEv (s : State) (f : Events → Events) : State := { s with ev := f s.ev }
def modEph (s : State) (f : Eph → Eph) : State := { s with eph := f s.eph }
def modPtp (s : State) (f : Ptp → Ptp) : State := { s with ptp := f s.ptp }
def modFlash (s : State) (f : Flash → Flash) : State := { s with flash := f s.flash }
def modKeys (s : State) (f : Keys → Keys) : State := { s with keys := f s.keys }
def modBoot (s : State) (f : Boot → Boot) : State := { s with boot := f s.boot }

def modLoc (s : State) (f : Local → Local) : State := { s with loc := f s.loc }
def modIng (s : State) (f : Ingest → Ingest) : State := { s with ing := f s.ing }
def modTr (s : State) (f : Transit → Transit) : State := { s with tr := f s.tr }
def modSpec (s : State) (f : Spec → Spec) : State := { s with spec := f s.spec }
def modHor (s : State) (f : Horizon → Horizon) : State := { s with hor := f s.hor }
def modLom (s : State) (b : Nat) (f : LomBay → LomBay) : State := { s with lom := s.lom.modify b f }
def modAlr (s : State) (f : Alarms → Alarms) : State := { s with alr := f s.alr }
def modEgr (s : State) (f : Egress → Egress) : State := { s with egr := f s.egr }
def modOrr (s : State) (f : Orrery → Orrery) : State := { s with orr := f s.orr }
def modBo (s : State) (n : Nat) (f : BoRun → BoRun) : State := { s with bos := s.bos.modify n f }
def modBi (s : State) (n : Nat) (f : BiRun → BiRun) : State := { s with bis := s.bis.modify n f }
def modPar (s : State) (f : Pair → Pair) : State := { s with par := f s.par }
def modWit (s : State) (f : Witness → Witness) : State := { s with wit := f s.wit }
def modPm (s : State) (f : Pm → Pm) : State := { s with pm := f s.pm }
def modPmBay (s : State) (b : Nat) (f : PmBay → PmBay) : State :=
  { s with pm := { s.pm with bays := s.pm.bays.modify b f } }
def modRec (s : State) (f : Recorder → Recorder) : State := { s with rec_ := f s.rec_ }
def modEng (s : State) (f : Engine → Engine) : State := { s with eng := f s.eng }
def modFab (s : State) (f : Fabric → Fabric) : State := { s with fab := f s.fab }

/-- Something put on a wire. -/
def emit (s : State) (o : Output) : State := { s with wire := s.wire ++ [o] }

/-! Time (R86–R88). -/

def raw (s : State) : Nat := s.eph.raw

/-- ET at a tick on the present segment, in 2^-32 ns (R88). -/
def etAt (s : State) (tick : Nat) : Et := s.eph.baseEt + (tick - s.eph.baseRaw) * s.eph.increment

/-- ET now. -/
def et (s : State) : Et := s.etAt s.eph.raw

/-- The time-quality state is LOCKED (R96). -/
def locked (s : State) : Bool := s.num 0x2000 0x09 == 2

/-! Counters. -/

/-- A counter of `w` bits incremented by n. Past its largest value the manual states no content: a free value. -/
def countUp (w v n : Nat) : Nat := if v + n < 2 ^ w then v + n else Config.counterPast w v n % 2 ^ w

def add (s : State) (w index sub n : Nat) : State := s.setN index sub (countUp w (s.num index sub) n)
def inc32 (s : State) (index sub : Nat) : State := s.add 32 index sub 1
def inc64 (s : State) (index sub : Nat) : State := s.add 64 index sub 1

/-- A counter that the manual says wraps. -/
def incWrap (s : State) (w index sub : Nat) : State := s.setN index sub ((s.num index sub + 1) % 2 ^ w)

/-- The larger of a maximum register and a new value. -/
def setMax (s : State) (index sub v : Nat) : State := s.setN index sub (max (s.num index sub) v)

end State

/-- 1 ns, 1 µs, 1 ms and 1 s in ET units of 2^-32 ns. -/
def ns : Nat := 4294967296
def us : Nat := 1000 * ns
def ms : Nat := 1000000 * ns
def sec : Nat := 1000000000 * ns

/-- 1 µs, 1 ms and 1 s in ticks of the raw counter (2.5 ns). -/
def tickUs : Nat := 400
def tickMs : Nat := 400000
def tickSec : Nat := 400000000

/-- An ET as the 12 bytes of ET96. -/
def etBytes (t : Et) : List Byte := beBytes 12 t

/-- Replaces element i of a list by a function of it. -/
def modNth {α : Type} (l : List α) (i : Nat) (f : α → α) : List α := l.modify i f

end Sys2Proof.Machine
end

