-- ==== Sys2Proof/Machine/Read.lean ====
section
/-! DEFINITION. Reading an object (R55, R56): most lie at their address; the ones here are views of other state. -/

namespace Sys2Proof.Machine

namespace State

/-- The open session with a number. -/
def session (s : State) (id : Nat) : Option Session := s.alm.sessions.find? (fun x => x.id = id)

/-- Objects (not elements) whose staged value differs from the committed one (0x1200:03). -/
def stagedChanges (s : State) : Nat :=
  let keys := (s.staged.map (·.1) ++ s.cfg.map (·.1)).filter (fun k => s.staged.get k != s.cfg.get k)
  ((keys.map (· / 65536)).dedup).length

end State

/-- Views of the Almanac server (R85), the event controller and the Logbook (R426, R436, R529, R530). -/
def viewManagement (s : State) (sess index sub elem : Nat) : Option Value :=
  if index = 0x1100 ∧ sub = 0x01 then some (vNat s.alm.sessions.length)
  else if index = 0x1200 ∧ sub = 0x03 then some (vNat s.stagedChanges)
  else if index = 0xA000 then
    (if sub = 0x01 then some (vNat (s.c 0xF120 0x04 * 1048576 / 64))
     else if sub = 0x02 then some (vNat (s.ev.ring.filter (·.intact)).length)
     else if sub = 0x04 then
       some (vNat ((s.ev.ring.map (·.sequence)).foldl (fun m x => if m = 0 ∨ x < m then x else m) 0))
     else if sub = 0x09 then some (vNat (s.flash.log.map List.length).sum)
     else none)
  else if index = 0xA002 then
    (match s.ev.blocks.find? (fun b => b.session = sess) with
     | none => none
     | some b =>
       if sub = 0x04 then some (.bytes [nth b.bytes elem 0])
       else if sub = 0x05 then some (vNat b.bytes.length)
       else if sub = 0x06 then some (vBool b.raw)
       else if sub = 0x07 then some (vNat b.records)
       else if sub = 0x08 then some (vNat b.next)
       else none)
  else if index = 0xA800 ∧ sub = 0x04 then some (vNat (bitsOfList s.ev.irqLow))
  else if index = 0xE060 ∧ sub = 0x01 then some (vNat (s.ev.qualifiers.filter (fun q => q.2.lasting)).length)
  else none

/-- Views of Ephemeris and its PTP queues (R121, R122). -/
def viewEphemeris (s : State) (index sub : Nat) : Option Value :=
  if index = 0x2000 then
    (if sub = 0x01 then some (vNat s.eph.raw)
     else if sub = 0x02 then some (vNat s.et)
     else if sub = 0x03 then some (vNat s.eph.increment)
     else if sub = 0x04 then some (vNat s.eph.baseEt)
     else if sub = 0x05 then some (vNat s.eph.baseRaw)
     else none)
  else if 0x2110 ≤ index ∧ index ≤ 0x2115 ∧ sub = 0x06 then
    (s.ptp.ports[index - 0x2110]?).map (fun p => vNat p.txts.length)
  else none

namespace State

/-- 24,576 − n_c, the phase steps channel c is delayed by (R140). -/
def delaySteps (s : State) (ch : Nat) : Int := 24576 - s.cI (0x3000 + ch) 0x03

/-- d_c: whole samples, to nearest, ties to the larger delay (R141). -/
def delaySamples (s : State) (ch : Nat) : Nat := ((s.delaySteps ch + 512) / 1024).toNat

/-- ρ_c (R141). -/
def residual (s : State) (ch : Nat) : Int := s.delaySteps ch - 1024 * s.delaySamples ch

end State

/-- RESIDUAL of a channel (R141, R170). -/
def viewLocal (s : State) (index sub : Nat) : Option Value :=
  if 0x3000 ≤ index ∧ index ≤ 0x302F ∧ sub = 0x0C then some (.int (s.residual (index - 0x3000))) else none

/-- What a local stream context mirrors from its bay (R198): STREAM_ENABLE, RATE and F_NOM. -/
def viewLocalContext (cfg : Store) (index sub : Nat) : Option Value :=
  if 0x4FF8 ≤ index ∧ index ≤ 0x4FFF then
    (if sub = 0x01 then some (cfg.get (okey (0x3100 + (index - 0x4FF8)) 0x01 0))
     else if sub = 0x0A then some (cfg.get (okey (0x3100 + (index - 0x4FF8)) 0x03 0))
     else if sub = 0x12 then some (cfg.get (okey 0x3200 0x01 0))
     else none)
  else none

/-- Words of 64 bytes that an entry takes with its 32-byte header (R209, R210). -/
def IngestEntry.words (e : IngestEntry) : Nat := (32 + e.frame.length + 63) / 64

/-- The 32-byte ingest header (R209). -/
def IngestEntry.header (e : IngestEntry) : List Byte :=
  beBytes 2 e.stream ++ [byte e.port, byte e.flags] ++ etBytes e.arrival ++ beBytes 2 e.tci ++ beBytes 2 e.frame.length ++ List.replicate 12 0

/-- Bytes packed into words (R209, R210): EOF on the last one, VALID 64 on every other, and 0 beyond VALID. -/
def packWords (b : List Byte) : List QWord :=
  let n := (b.length + 63) / 64
  (List.range n).map (fun i =>
    let w := slice b (64 * i) 64
    ⟨padTo 64 w, byte ((if i + 1 = n then 128 else 0) + w.length), 0⟩)

/-- The words of an entry: the header and the frame from SYNC through CHK (R209). -/
def IngestEntry.qwords (e : IngestEntry) : List QWord := packWords (e.header ++ e.frame)

/-- EOF and VALID of a word's tag (R210). -/
def QWord.eof (w : QWord) : Bool := w.tag.getLsbD 7
def QWord.valid (w : QWord) : Nat := w.tag.toNat % 128

/-- The entry that words hold; a local frame comes with its timestamp, for which the header has no field (log entry 86). -/
def entryOfWords (l : List QWord) (localTime : Et) : IngestEntry :=
  let b := l.flatMap (fun w => w.bytes.take w.valid)
  { stream := field b 0 2, port := field b 2 1, flags := field b 3 1, arrival := field b 4 12, tci := field b 16 2,
    frame := slice b 32 (field b 18 2), localTime := if field b 2 1 = 7 then localTime else 0,
    bad := (l.zip (List.range l.length)).flatMap (fun x => ((List.range 8).filter x.1.bad.testBit).map (8 * x.2 + ·)) }

/-- Words in an ingest queue: tail, spill area and head. -/
def LaneQueue.depth (q : LaneQueue) : Nat := q.tail.length + q.spill.length + q.head.length

/-- Frames that have been written, in part or whole, and not read. -/
def LaneQueue.frames (q : LaneQueue) : Nat := ((q.head ++ q.spill ++ q.tail ++ q.part).filter QWord.eof).length

namespace State

/-- Words a lane's spill area holds (R211). -/
def spillWords (s : State) : Nat := s.c 0xF120 0x01 * 1048576 * 63 / 256 / 64

/-- Words an ingest queue holds in tail, spill area and head (R208, R256). -/
def queueCapacity (s : State) : Nat := s.spillWords + 32

def queue (s : State) (n : Nat) : LaneQueue := nth s.ing.queues n emptyLaneQueue

end State

/-- Views of ports and ingest (R217, R219, R256). -/
def viewIngest (s : State) (index sub : Nat) : Option Value :=
  if 0x5300 ≤ index ∧ index ≤ 0x5303 then
    let q := s.queue (index - 0x5300)
    if sub = 0x01 then some (vNat q.depth)
    else if sub = 0x03 then some (vNat q.spill.length)
    else if sub = 0x04 then some (vNat s.queueCapacity)
    else if sub = 0x0A then some (vNat (q.fullTicks / 400))
    else none
  else none

/-- An entry of a watch vector that lists its used entries; ABSENT elsewhere (R243). -/
def vectorEntry (vec : List (Nat × Entry)) (n : Nat) : Entry := (lookup n vec).getD absentEntry

namespace State

/-- Transits the history holds (R247). -/
def historyCapacity (s : State) : Nat := s.c 0xF120 0x03 * 32

/-- The transit with a SEQ, when the history holds it (R247). -/
def historyAt (s : State) (seq : Nat) : Option HistoryEntry :=
  match lookup (seq % s.historyCapacity) s.tr.history with
  | some e => if e.seq = seq then some e else none
  | none => none

def newestSeq (s : State) : Nat := s.tr.history.foldl (fun m e => max m e.2.seq) 0
def oldestSeq (s : State) : Nat :=
  s.tr.history.foldl (fun m e => if m = 0 ∨ e.2.seq < m then e.2.seq else m) 0

/-- The HISTORY_SELECT of a session. -/
def historySelect (s : State) (sess : Nat) : Nat :=
  match s.session sess with
  | some x => (x.own.get (okey 0x5101 0x04 0)).toInt.toNat
  | none => 0

end State

/-- Views of the transit engine (R253–R255). -/
def viewTransit (s : State) (sess index sub elem : Nat) : Option Value :=
  if index = 0x5101 then
    (if sub = 0x01 then some (vNat s.historyCapacity)
     else if sub = 0x02 then some (vNat s.oldestSeq)
     else if sub = 0x03 then some (vNat s.newestSeq)
     else if sub = 0x05 then
       (s.historyAt (s.historySelect sess)).map (fun h => .bytes (encodeEntry (vectorEntry h.vec elem)))
     else if sub = 0x06 then (s.historyAt (s.historySelect sess)).map (fun h => .bytes h.header)
     else none)
  else if index = 0x5102 ∧ sub = 0x01 then some (.bytes (encodeEntry (vectorEntry s.tr.latest elem)))
  else if 0x5200 ≤ index ∧ index ≤ 0x5203 then
    match s.tr.lanes[index - 0x5200]? with
    | none => none
    | some l =>
      if sub = 0x0A then some (vNat l.tasks.length)
      else if sub = 0x0E then some (vNat l.slots.length)
      else none
  else none

/-- A resonator's estimate as an ESTIMATES element (R283). -/
def Resonator.element (r : Resonator) : List Byte :=
  let a := bitsOfList [r.pd, r.gr, !r.pd && decide (0 < r.pdRun)]
  beBytes 4 r.est.a.nat ++ beBytes 4 r.est.sigma.nat ++ beBytes 4 r.est.freq.nat ++ beBytes 4 r.est.zeta.nat ++
  beBytes 4 r.zRe.nat ++ beBytes 4 r.zIm.nat ++ beBytes 2 r.est.quality.toNat ++ [byte a, 0] ++ beBytes 4 r.update

/-- The ESTIMATES element of a resonator that is not enabled (R283). -/
def absentEstimate : List Byte :=
  (List.replicate 6 (beBytes 4 0x7FC00000)).flatten ++ [0x02, 0x00, 0, 0, 0, 0, 0, 0]

/-- An entry of a mode-shape record for a signal not in the band (R280). -/
def absentShape : List Byte := beBytes 4 0x7FC00000 ++ beBytes 4 0x7FC00000 ++ [0x02, 0x00, 0, 0]

/-- A value that a session holds for itself. -/
def State.ownNum (s : State) (sess index sub : Nat) : Nat :=
  match s.session sess with
  | some x => (x.own.get (okey index sub 0)).toInt.toNat
  | none => 0

/-- The mode-shape record a session selects, while it is held (R282). -/
def State.shapeAt (s : State) (sess : Nat) : Option ShapeRecord :=
  let n := s.ownNum sess 0x6012 0x02
  match lookup (n % 64) s.spec.shapes with
  | some r => if r.number = n then some r else none
  | none => none

/-- Views of the Spectroscope (R282–R284). -/
def viewSpectro (s : State) (sess index sub elem : Nat) : Option Value :=
  if index = 0x6010 ∧ sub = 0x02 then
    let n := s.ownNum sess 0x6010 0x01
    let key := (if n ≥ 0x8000 then 4096 + (n - 0x8000) else n) * 64 + elem
    match lookup key s.spec.res with
    | some r => some (.bytes r.element)
    | none => some (.bytes absentEstimate)
  else if index = 0x6012 ∧ sub = 0x03 then (s.shapeAt sess).map (fun r => .bytes r.header)
  else if index = 0x6012 ∧ sub = 0x04 then
    (s.shapeAt sess).map (fun r => .bytes ((lookup elem r.entries).getD absentShape))
  else none

/-- A tie of the present state; CLOSED with its runs and flags cleared where it has not been evaluated (R308). -/
def State.tie (s : State) (t : Nat) : TieState :=
  (lookup t s.hor.ties).getD ⟨1, 1, 0, false, false, false, 0, 0, ⟨0⟩, ⟨0⟩, ⟨0⟩, ⟨0⟩, 0⟩

/-- A tie or a bus is enabled. -/
def State.tieEnabled (s : State) (t : Nat) : Bool := (field (s.cElem 0x6102 0x01 t) 0 1).testBit 0
def State.busEnabled (s : State) (b : Nat) : Bool := (field (s.cElem 0x6101 0x01 b) 4 1).testBit 0

def State.uRun (s : State) (b : Nat) : Nat := (lookup b s.hor.uRuns).getD 0

/-- STATE of a bus (R290, R308): 0 DISABLED, 1 OBSERVED, 2 HOLDING, 3 UNOBSERVED. -/
def State.busState (s : State) (b : Nat) : Nat :=
  if !s.busEnabled b then 0
  else if s.uRun b = 0 then 1
  else if s.uRun b < field (s.cElem 0x6101 0x01 b) 6 2 then 2
  else 3

/-- Views of Horizon's state tables (R308). -/
def viewHorizon (s : State) (index sub elem : Nat) : Option Value :=
  if index = 0x6103 ∧ sub = 0x01 then
    let on := s.busEnabled elem
    let isl := if on then (lookup elem s.hor.islands).getD elem else 0xFFFF
    some (.bytes (beBytes 2 isl ++ [byte (s.busState elem), 0] ++ beBytes 2 (s.uRun elem) ++ [0, 0]))
  else if index = 0x6104 ∧ sub = 0x01 then
    if !s.tieEnabled elem then some (.bytes (List.replicate 24 0))
    else
      let t := s.tie elem
      some (.bytes ([byte t.state, byte t.last, byte t.cause, byte (bitsOfList [t.holding, t.refSet]), byte t.fRun, byte t.cRun, 0, 0] ++
        beBytes 4 t.df.to32.nat ++ beBytes 4 t.dTheta.to32.nat ++ beBytes 4 t.dThetaRef.to32.nat ++ beBytes 2 t.slips ++ [0, 0]))
  else none

/-- The 256 bits of a set of alarms as 32 bytes, bit a in byte a / 8 (R310). -/
def alarmBytes (n : Nat) : List Byte := (beBytes 32 n).reverse

/-- FLAGS of an alarm's route (R302). -/
def State.routeFlags (s : State) (a : Nat) : Nat := field (s.cElem 0x6200 0x01 a) 0 1

/-- Views of the alarm router (R310). -/
def viewAlarms (s : State) (index sub : Nat) : Option Value :=
  if index = 0x6200 then
    (if sub = 0x02 then some (.bytes (alarmBytes s.alr.state))
     else if sub = 0x03 then
       some (.bytes (alarmBytes (bitsOfList ((List.range 256).map (fun a => s.alr.routed.testBit a && (s.routeFlags a).testBit 3)))))
     else if sub = 0x05 then some (.bytes (alarmBytes s.alr.latched))
     else none)
  else none

/-- The size of a PMU block of a C37.118.2 data frame: STAT, phasors, FREQ and DFREQ, analog values, digital words (R193). -/
def blockSize (format : Nat) (b : Nat × Nat × Nat) : Nat :=
  2 + b.1 * (if format.testBit 1 then 8 else 4) + 2 * (if format.testBit 3 then 4 else 2) +
    b.2.1 * (if format.testBit 2 then 4 else 2) + b.2.2 * 2

/-- The size of a C37.118.2 data frame for a FORMAT and a block layout (R193, R209). -/
def dataFrameSize (format : Nat) (layout : List (Nat × Nat × Nat)) : Nat := 16 + (layout.map (blockSize format)).sum

/-- The STAT word of each block, the first block beginning at a byte of the frame (R193). -/
def statWords (format : Nat) (frame : List Byte) : Nat → List (Nat × Nat × Nat) → List Nat
  | _, [] => []
  | at_, b :: rest => field frame at_ 2 :: statWords format frame (at_ + blockSize format b) rest

/-- FRAMESIZE of an output stream's data frame (R330). -/
def egressFrameSize (cfg : Store) (n : Nat) : Nat :=
  let num := fun (sub : Nat) => (cfg.get (okey (0x5800 + n) sub 0)).toInt.toNat
  dataFrameSize (num 0x04) ((List.range (num 0x06)).map (fun i =>
    let r := (cfg.get (okey (0x5800 + n) 0x07 i)).toBytes
    (field r 4 2, field r 6 1, field r 7 1)))

def State.egressOut (s : State) (n : Nat) : EgressOut := nth s.egr.outs n ⟨false, [], []⟩

/-- STATE of an output stream (R330). -/
def State.egressState (s : State) (n : Nat) : Nat :=
  if !s.cB (0x5800 + n) 0x01 then 0
  else if !s.flag 0xC000 0x05 then 3
  else if s.c (0x5800 + n) 0x0C = 1 ∧ !(s.egressOut n).on then 2
  else 1

/-- Views of the output streams (R330). -/
def viewEgress (s : State) (index sub : Nat) : Option Value :=
  if 0x5800 ≤ index ∧ index ≤ 0x580F then
    (if sub = 0x11 then some (vNat (s.egressState (index - 0x5800)))
     else if sub = 0x12 then some (vNat (egressFrameSize s.cfg (index - 0x5800)))
     else none)
  else none

/-- A REGISTERS element (R388): VALUE, ROLL and six zero bytes. -/
def pmElement (r : PmRegister) : List Byte :=
  beBytes 8 (r.counter % 18446744073709551616) ++ beBytes 2 (r.counter / 18446744073709551616) ++ List.replicate 6 0

def State.pmBay (s : State) (b : Nat) : PmBay :=
  nth s.pm.bays b ⟨[], 0, none, false, [0, 0], [0, 0], false, false, none, 0, [], false, false, none, false, none, []⟩

/-- Views of the Photometer (R387, R388): the registers and TOTAL = COUNT × WEIGHT. -/
def viewPhotometer (s : State) (index sub elem : Nat) : Option Value :=
  if 0x8000 ≤ index ∧ index ≤ 0x8007 ∧ sub = 0x09 then
    some (.bytes (pmElement (nth (s.pmBay (index - 0x8000)).registers elem ⟨0, ⟨0⟩⟩)))
  else if 0x8100 ≤ index ∧ index ≤ 0x8117 ∧ sub = 0x05 then
    some (vNat ((F64.ofInt (s.num index 0x04)).mul (s.cF64 index 0x02)).nat)
  else none

/-- N_SEG (R394). -/
def State.segments (s : State) : Nat := s.c 0xF120 0x02 * 1048576 / 198016

/-- A plate is RECORDING or HELD and includes a sample of a segment (R395). -/
def Plate.holds (p : Plate) (g : Segment) : Bool :=
  (p.state == 1 || p.state == 2) && p.epoch == g.epoch && decide (p.first < g.first + max 1 g.rows.length ∧ g.first < p.stop)

/-- A ring position is HELD (R395). -/
def State.segHeld (s : State) (pos : Nat) : Bool :=
  match lookup pos s.rec_.segs with
  | some g => s.rec_.plates.any (fun p => p.2.holds g)
  | none => false

/-- Ring positions of the written segments that are HELD. -/
def State.heldPositions (s : State) : List Nat := (s.rec_.segs.map (·.1)).filter s.segHeld

/-- The oldest held plate. -/
def State.oldestHeld (s : State) : Option Plate :=
  s.rec_.plates.foldl (fun best p =>
    if p.2.state = 2 then
      match best with
      | none => some p.2
      | some b => if p.2.number < b.number then some p.2 else best
    else best) none

/-- The ring position of the first segment of the oldest held plate (R395). -/
def State.rewindMark (s : State) : Nat :=
  match s.oldestHeld with
  | none => 0xFFFFFFFF
  | some p => ((s.rec_.segs.find? (fun (g : Nat × Segment) => g.2.seq = p.firstSegment)).map (·.1)).getD 0xFFFFFFFF

/-- Samples of the present epoch in FREE segments and in the RECORDING plate (R396). -/
def State.history (s : State) : Nat :=
  (s.rec_.segs.map (fun g =>
    if g.2.epoch ≠ s.rec_.epoch then 0
    else if s.segHeld g.1 then
      (s.rec_.plates.map (fun p => if p.2.state = 1 then
        min (g.2.first + g.2.rows.length) p.2.stop - max g.2.first p.2.first else 0)).sum
    else g.2.rows.length)).sum

/-- A PLATES element (R412). -/
def Plate.element (p : Plate) : List Byte :=
  beBytes 4 p.number ++ [byte p.state, byte p.flags, byte p.severity, byte p.firstTrigger] ++ beBytes 8 p.firstSegment ++
  etBytes p.startEt ++ etBytes p.trigEt ++ beBytes 4 p.trigIndex ++ beBytes 2 p.trigFrac ++ [byte p.markers.length, 0] ++
  beBytes 4 p.pre ++ beBytes 4 (p.stop - p.first) ++ beBytes 4 p.epoch ++ List.replicate 68 0

def Marker.element (m : Marker) : List Byte := beInt 4 m.index ++ beBytes 2 m.frac ++ [byte m.trigger, 0]

/-- A session's DAT chunk. -/
def State.chunk (s : State) (sess : Nat) : Option ExportChunk := s.rec_.chunks.find? (fun (c : ExportChunk) => c.session = sess)

/-- Views of the Plate recorder (R411, R412). -/
def viewRecorder (s : State) (sess index sub elem : Nat) : Option Value :=
  if index = 0x9000 then
    (if sub = 0x0D then some (vNat s.segments)
     else if sub = 0x0E then some (vNat (if s.num 0x9000 0x02 = 0 then 0 else s.segments - s.heldPositions.length))
     else if sub = 0x0F then some (vNat s.history)
     else if sub = 0x10 then some (vNat s.rewindMark)
     else none)
  else if index = 0x9011 ∧ sub = 0x01 then (lookup elem s.rec_.plates).map (fun p => .bytes p.element)
  else if index = 0x9011 ∧ sub = 0x02 then
    (match lookup (elem / 32) s.rec_.plates with
     | some p => (p.markers[elem % 32]?).map (fun m => .bytes m.element)
     | none => none)
  else if index = 0x9012 then
    (if sub = 0x03 then some (.bytes [nth s.rec_.exportCfg elem 0])
     else if sub = 0x06 then (s.chunk sess).map (fun c => .bytes [nth c.bytes elem 0])
     else if sub = 0x07 then (s.chunk sess).map (fun c => vNat c.bytes.length)
     else if sub = 0x08 then (s.chunk sess).map (fun c => vBool c.raw)
     else none)
  else none

/-- Transits are running (R224). -/
def State.transitsRun (s : State) : Bool := s.tr.running && s.num 0xF140 0x01 == 0 && s.num 0xD000 0x01 == 9 && !s.boot.inReset

/-- The last mirrored image that has reached the unit, or its own last one from when it acted. -/
def State.lastImage (s : State) : Option OutputImage :=
  match s.orr.imageIn with
  | some im => some im
  | none => s.orr.imageNow

/-- The unit is READY (R471, R476, R509): transits are running, its Orrery is RUNNING or disabled with the mirrored image's IMAGE_ID,
its key state is NORMAL, DEPOSE_N is high and no live activation is in its pause. -/
def State.pairReady (s : State) : Bool :=
  s.transitsRun && (s.num 0x7000 0x02 == 2 || !s.cB 0x7000 0x01) && s.num 0xB100 0x01 == 0 && !s.par.depose && !s.boot.paused &&
  (s.num 0xC000 0x05 != 0 || match s.lastImage with
    | some im => im.imageId == s.num 0x7000 0x04
    | none => true)

/-- ROLE_STATE (R491): 0 SINGLE, 1 STARTING, 2 NOT_READY, 3 STANDBY, 4 ACTING, 5 DEPOSED. -/
def State.roleState (s : State) : Nat :=
  if s.c 0xC000 0x01 = 0 then 0
  else if s.par.depose then 5
  else if s.boot.inReset ∨ s.num 0xD000 0x01 < 9 then 1
  else if s.flag 0xC000 0x05 then 4
  else if s.pairReady then 3
  else 2

/-- Link n is DOWN. -/
def State.linkDown (s : State) (n : Nat) : Bool := (nth s.fab.links n ⟨[], false⟩).down

/-- LINK_STATE of directional link n (R20): 0 UP, 1 DOWN, 2 FENCED, 3 BYPASSED. -/
def State.linkState (s : State) (n : Nat) : Nat :=
  let fenced := fun (l : Nat) => s.num (0xF130 + l) 0x01 != 0
  if s.linkDown n then 1
  else if n < 8 then (if fenced (n % 4) then 2 else 0)
  else if fenced (n - 8) || fenced ((n - 8 + 1) % 4) then 3
  else 0

/-- The bytes of bank b of image type t; none written when blank (R502). -/
def State.bankBytes (s : State) (type b : Nat) : List Byte :=
  let p := nth s.flash.banks type (.blank, .blank)
  match (if b = 0 then p.1 else p.2) with
  | .blank => []
  | .factory => Config.factoryImage type
  | .written x => x

/-- The image in a bank: its header and PAYLOAD_LEN bytes (R502). -/
def imageCut (bank : List Byte) : List Byte := bank.take (256 + field bank 12 4)

/-- The image of a type that runs. -/
def State.activeImage (s : State) (type : Nat) : List Byte := imageCut (s.bankBytes type (s.num (0xD010 + type) 0x01))

/-- The measured section of a configuration (R445): the ST objects of 0xB000–0xB1FF and 0xD000–0xD0FF. -/
def measuredSection (cfg : Store) : List Byte :=
  [(0xB100, 0x09), (0xB100, 0x0A), (0xD000, 0x06)].flatMap (fun (x : Nat × Nat) =>
    match objAt x.1 x.2 with
    | some f => beBytes 2 x.1 ++ [byte x.2, byte f.ty.code] ++ encodeValue f.ty (cfg.get (okey x.1 x.2 0))
    | none => [])

/-- M after one more item (R445). -/
def extendM (m item : List Byte) : List Byte := sha384 (m ++ sha384 item)

/-- The M that the next start will produce (R446). -/
def State.nextM (s : State) : List Byte :=
  [Config.romImage, s.activeImage 0, s.activeImage 1, measuredSection s.cfg].foldl extendM (List.replicate 48 0)

/-- Views of firmware banks and of M_NEXT (R446, R466, R514). -/
def viewFirmware (s : State) (index sub : Nat) : Option Value :=
  if 0xD010 ≤ index ∧ index ≤ 0xD012 ∧ (sub = 0x04 ∨ sub = 0x05) then
    some (.bytes (padTo 160 (s.bankBytes (index - 0xD010) (sub - 4))))
  else if index = 0xB100 ∧ sub = 0x03 ∧ s.keys.locked then some (.bytes s.nextM)
  else none

/-- Views of the links (R52). -/
def viewFabric (s : State) (index sub : Nat) : Option Value :=
  if 0xF110 ≤ index ∧ index ≤ 0xF11B ∧ sub = 0x01 then some (vNat (s.linkState (index - 0xF110))) else none

/-- Views of the pair and the witness (R491, R492). -/
def viewPair (s : State) (index sub : Nat) : Option Value :=
  if index = 0xC000 ∧ sub = 0x04 then some (vNat s.roleState)
  else none

/-! ## The pin function table (R536) -/

/-- The balls of the pin function table by entry number, as row and column, with their names. -/
def pinNames : List (String × String) :=
  (List.range 12).map (fun n => ("BD" ++ toString (19 + n), "BO" ++ toString n)) ++
  (List.range 4).map (fun n => ("BE" ++ toString (19 + n), "BO" ++ toString (12 + n))) ++
  (List.range 4).map (fun n => ("BE" ++ toString (23 + n), "TO" ++ toString n)) ++
  (List.range 4).map (fun n => ("BE" ++ toString (27 + n), "TI" ++ toString n)) ++
  (List.range 4).map (fun n => ("BF" ++ toString (19 + n), "ALM" ++ toString n)) ++
  [("BD39", "XARM_N"), ("BD40", "XTRIG_N"), ("BD34", "WIT_TX"), ("BD35", "WIT_RX"), ("BD36", "WIT_DE"), ("BD37", "WDEP0_N"),
   ("BD38", "WDEP1_N")]

/-- The objects whose condition claims an entry's ball in a configuration (R536). -/
def pinClaimants (cfg : Store) (entry : Nat) : List (Nat × Nat) :=
  let on := fun (index sub : Nat) => (cfg.get (okey index sub 0)).toInt != 0
  let one := fun (index sub : Nat) => if on index sub then [(index, sub)] else []
  if entry < 12 then one (0x7100 + entry) 0x01
  else if entry < 16 then one (0x2204 + (entry - 12)) 0x01 ++ one (0x7100 + entry) 0x01
  else if entry < 20 then one (0x2200 + (entry - 16)) 0x01
  else if entry < 24 then one (0x2210 + (entry - 20)) 0x01
  else if entry < 28 then one (0x6201 + (entry - 24)) 0x01
  else if entry < 30 then one 0x9000 0x09
  else if entry < 33 then one 0xC000 0x01 ++ one 0xC100 0x01
  else one 0xC100 0x01

/-- A PIN_TABLE element (R536). -/
def pinElement (cfg : Store) (entry : Nat) : List Byte :=
  let names := nth pinNames entry ("", "")
  padSpaces 4 (ascii names.1) ++ padSpaces 16 (ascii names.2) ++
  (match pinClaimants cfg entry with
   | c :: _ => beBytes 2 c.1 ++ [byte c.2, 1]
   | [] => [0, 0, 0, 0]) ++ List.replicate 8 0

/-- The view of PIN_TABLE (R536, R537). -/
def viewPins (cfg : Store) (index sub elem : Nat) : Option Value :=
  if index = 0x1400 ∧ sub = 0x02 then some (.bytes (pinElement cfg elem)) else none

/-- An object's value as a view of other state; none for an object that lies at its address. -/
def view (s : State) (sess index sub elem : Nat) : Option Value :=
  match viewManagement s sess index sub elem with
  | some v => some v
  | none =>
    match (viewLocal s index sub).or (viewEphemeris s index sub) with
    | some v => some v
    | none =>
      match viewLocalContext s.cfg index sub with
      | some v => some v
      | none =>
      match viewIngest s index sub with
      | some v => some v
      | none =>
      match viewTransit s sess index sub elem with
      | some v => some v
      | none =>
      match viewSpectro s sess index sub elem with
      | some v => some v
      | none =>
      match viewHorizon s index sub elem with
      | some v => some v
      | none =>
      match viewAlarms s index sub with
      | some v => some v
      | none =>
      match viewEgress s index sub with
      | some v => some v
      | none =>
      match viewPhotometer s index sub elem with
      | some v => some v
      | none =>
      match viewRecorder s sess index sub elem with
      | some v => some v
      | none =>
      match viewPair s index sub with
      | some v => some v
      | none =>
      match viewFabric s index sub with
      | some v => some v
      | none =>
      match viewPins s.cfg index sub elem with
      | some v => some v
      | none => viewFirmware s index sub

/-- The current value of an object, as a session sees it (R55, R59). Session 0 sees the defaults of per-session objects. -/
def readObj (s : State) (sess index sub elem : Nat) : Value :=
  match objAt index sub with
  | none => .int 0
  | some f =>
    if sub = 0 ∧ index ≠ 0x1202 then f.dflt
    else if perSession index sub then
      (match s.session sess with
       | some x => x.own.get (okey index sub elem)
       | none => keyDefault (okey index sub elem))
    else if f.acc = .st then s.cValue index sub elem
    else (view s sess index sub elem).getD (s.value index sub elem)

end Sys2Proof.Machine
end

