-- ==== Sys2Proof/Machine/Pins.lean ====
section
/-! DEFINITION. The pins that follow the state at the end of every command: ALM0–ALM3 (R305, R496) and BO0–BO15
(R356–R359, R473, R479, R496). -/

namespace Sys2Proof.Machine

namespace State

/-- The present stage (R497). -/
def stage (s : State) : Nat := s.num 0xD000 0x01

/-- Stage RUNNING. -/
def inRunning (s : State) : Bool := !s.boot.inReset && s.stage == 9

/-- POWER_STATE (R35): 0 ACTIVE, 1 ENTERING_QUIET, 2 QUIET, 3 WAKING. -/
def power (s : State) : Nat := s.num 0xF140 0x01

/-- The unit is acting (R470). -/
def acting (s : State) : Bool := s.flag 0xC000 0x05

/-- A pair unit (R468). -/
def isPair (s : State) : Bool := s.c 0xC000 0x01 == 1

/-- The Orrery is enabled. -/
def orreryOn (s : State) : Bool := s.cB 0x7000 0x01

/-- The pins that R496 releases stay so: before RUNNING, and with the Orrery enabled until its first output write after it. -/
def pinsReleased (s : State) : Bool := !s.inRunning || (s.orreryOn && !s.orr.written)

/-- Some alarm with bit n in its ALM_MASK has routed state 1 (R305). -/
def almRouted (s : State) (n : Nat) : Bool :=
  (List.range 256).any (fun a => s.alr.routed.testBit a && (field (s.cElem 0x6200 0x01 a) 1 1).testBit n)

/-- PIN_STATE of ALM pin n (R305): 0 inactive, 1 active, 2 high impedance. -/
def almLevel (s : State) (n : Nat) : Nat :=
  let mode := s.c (0x6201 + n) 0x01
  if mode = 0 ∨ !s.acting ∨ s.pinsReleased then 2
  else
    match s.num (0x6201 + n) 0x04 with
    | 1 => 0
    | 2 => 1
    | _ => if mode = 1 then bit01 (s.almRouted n) else bit01 (nth s.alr.pins n ⟨false, 0⟩).pulsing

/-- ALM pin n takes its level; a change to active counts and is stamped (R310). -/
def driveAlm (s : State) (n : Nat) : State :=
  let v := s.almLevel n
  if s.num (0x6201 + n) 0x05 = v then s
  else
    let t := s.setN (0x6201 + n) 0x05 v
    if v = 1 then (t.inc32 (0x6201 + n) 0x06).setN (0x6201 + n) 0x07 s.et else t

def bo (s : State) (n : Nat) : BoRun := nth s.bos n ⟨false, false, none, none, 0, 0⟩

/-- Every enabled BO is at SAFE_VALUE (R356, R496). -/
def allSafe (s : State) : Bool := !s.orreryOn || s.num 0x7000 0x02 == 3 || !s.orr.written

/-- The driver of BOn has been turned off by a short and does not retry (R359). -/
def shortOff (s : State) (n : Nat) : Bool := (s.bo n).offTick.isSome && (s.bo n).retryTick.isNone

/-- What BOn is commanded to, whatever its driver does. -/
def boCommand (s : State) (n : Nat) : Bool :=
  s.cB (0x7100 + n) 0x01 && (if s.allSafe ∨ (s.bo n).safe then s.c (0x7100 + n) 0x02 == 1 else (s.bo n).on)

/-- BO drivers are at high impedance: before MICROCODE, in reset, recovery or QUIET and until a wake completes, under DEPOSE_N,
and on a standby whose images have ceased (R473, R479, R496, R510; log entry 40). -/
def bosFloat (s : State) : Bool :=
  s.boot.inReset || decide (s.stage < 5) || s.stage == 15 || decide (2 ≤ s.power) ||
  s.par.depose || (s.isPair && s.par.holdExpired && !s.acting)

/-- STATE of BOn (R366): 0 OFF, 1 ON, 2 SAFE, 3 HIGH_Z, 4 SHORT_OFF. -/
def boState (s : State) (n : Nat) : Nat :=
  if s.bosFloat then 3
  else if !s.cB (0x7100 + n) 0x01 then 0
  else if s.shortOff n then 4
  else if s.allSafe ∨ (s.bo n).safe then 2
  else bit01 (s.bo n).on

/-- BOn drives its load on in a STATE. -/
def boOn (s : State) (n st : Nat) : Bool := st == 1 || (st == 2 && s.c (0x7100 + n) 0x02 == 1)

/-- BOn takes its state; a change between on and not on counts in SWITCHES and is stamped (R366; log entry 41). -/
def driveBo (s : State) (n : Nat) : State :=
  let v := s.boState n
  let w := s.num (0x7100 + n) 0x06
  let t := s.setN (0x7100 + n) 0x06 v
  if s.boOn n w = s.boOn n v then t else (t.inc32 (0x7100 + n) 0x0A).setN (0x7100 + n) 0x0B s.et

/-- The electrical level of a pin whose function is active or not, by its POLARITY (R112): 0 low, 1 high. -/
def polarLevel (active : Bool) (polarity : Nat) : Nat := bit01 (active != (polarity == 1))

/-- The electrical level of TOn (R112, R115, R496, R510; log entry 46): 0 low, 1 high, 2 high impedance. With MODE OFF it is
inactive; TO4–TO7 float with the BO drivers under DEPOSE_N and in QUIET. -/
def toLevel (s : State) (n : Nat) : Nat :=
  if s.boot.inReset ∨ s.stage < 5 ∨ s.stage = 15 ∨ (4 ≤ n ∧ (2 ≤ s.power ∨ s.par.depose)) then 2
  else polarLevel (s.c (0x2200 + n) 0x01 != 0 && (nth s.eph.outs n ⟨false, 0, false, none, 2⟩).active) (s.c (0x2200 + n) 0x02)

/-- The electrical level of ALM pin n by its PIN_STATE and POLARITY (0x6201 + n:02): 0 low, 1 high, 2 high impedance. -/
def almLine (s : State) (n : Nat) : Nat :=
  let v := s.num (0x6201 + n) 0x05
  if v = 2 then 2 else polarLevel (v == 1) (s.c (0x6201 + n) 0x02)

/-- TOn takes its level. -/
def driveTo (s : State) (n : Nat) : State :=
  s.modEph (fun e => { e with outs := e.outs.modify n (fun (o : TimedOut) => { o with level := s.toLevel n }) })

/-- All of them. -/
def driveOutputs (s : State) : State :=
  (List.range 8).foldl driveTo ((List.range 16).foldl driveBo ((List.range 4).foldl driveAlm s))

/-! ## The station lines (R401, R402, R496) -/

/-- The recorder may drive the station lines: its STATION_ROLE, the acting unit, and not before R496 ends. -/
def drivesStation (s : State) : Bool := s.acting && !s.pinsReleased && s.power == 0

/-- XARM_N is driven low: by the MASTER while its STATE is ARMED. -/
def xarmDriven (s : State) : Bool := s.c 0x9000 0x09 == 2 && s.num 0x9000 0x02 == 1 && s.drivesStation

/-- XARM_N is low, as the unit senses it: what it drives as the MASTER, else what another device drives. -/
def xarmLow (s : State) : Bool :=
  if s.c 0x9000 0x09 = 0 then false
  else if s.c 0x9000 0x09 = 2 ∧ s.drivesStation then s.xarmDriven
  else Config.xarmSensedLow s.raw

/-! ## The digital states of the Plate recorder (R392, R393) -/

/-- The published signal of Orrery channel n of the recorder (R392). -/
def recordedSignal (s : State) (n : Nat) : Option (List Byte) :=
  let sig := field (s.cElem 0x9000 0x0B n) 0 2
  if sig < 256 then some (s.elem 0x7003 0x02 sig) else none

/-- True in the sense of R345: a value of at least 0.5. -/
def signalTrue (e : List Byte) : Bool := (F32.ofBits 0x3F000000).le (F32.ofBits (field e 0 4))

/-- The 40 bits as they stand, which BIs carry SOURCE_ERROR, and which Orrery channels are ABSENT. -/
def digitalNow (s : State) : DigitalState :=
  let sigs := (List.range 16).map s.recordedSignal
  ⟨s.et,
   bitsOfList ((List.range 24).map (fun n => s.flag (0x7120 + n) 0x08) ++ sigs.map (fun o => match o with
     | some e => signalTrue e
     | none => false)),
   bitsOfList ((List.range 24).map (fun n => (s.num (0x7120 + n) 0x09).testBit 10)),
   bitsOfList (sigs.map (fun o => match o with
     | some e => (field e 4 2).testBit 9
     | none => false))⟩

/-- A change of the digital states is kept, with what the last 2 ms need (R393). -/
def noteDigital (s : State) : State :=
  if !s.cB 0x9000 0x01 then s
  else
    let d := s.digitalNow
    let same : Bool := match s.rec_.digital with
      | h :: _ => h.bits == d.bits && h.biError == d.biError && h.orrAbsent == d.orrAbsent
      | [] => false
    if same then s else s.modRec (fun r => { r with digital := (d :: r.digital).take 256 })

end State

end Sys2Proof.Machine
end

