-- ==== Sys2Proof/Machine/Ops.lean ====
section
/-! DEFINITION. Operations that every family shares: random draws, PDUs on their way out (R62, R70, R81), event raises
with the Logbook and notifications (R414–R425, R518–R521), fault qualifiers (R522), performance counters (R524, R525),
command results (R77, R78), and `settle`, which ends every command. -/

namespace Sys2Proof.Machine

namespace State

/-! ## Random bytes -/

/-- n fresh random bytes (free values), and the state with them drawn. -/
def draw (s : State) (n : Nat) : List Byte × State :=
  ((List.range n).map (fun i => Config.randomByte (s.alm.draws + i)), s.modAlm (fun a => { a with draws := a.draws + n }))

end State

/-! ## PDUs -/

/-- The 16-byte header of a PDU (R62). -/
def Pdu.header (p : Pdu) : List Byte :=
  [0x5A, 0x57, 1, byte p.opcode] ++ beBytes 2 p.flags ++ beBytes 2 p.payload.length ++ beBytes 4 p.session ++ beBytes 4 p.seq

/-- The direction word of the GCM nonce (R70): response 1, notification 2. -/
def Pdu.direction (p : Pdu) : Nat := if p.opcode = 0x09 then 2 else 1

/-- A PDU's bytes as it leaves the device: encrypted and tagged with the session's key, or plain with a zero tag in session 0. -/
def Pdu.sealed (p : Pdu) (key : Option (List Byte)) : List Byte :=
  match key with
  | none => p.header ++ p.payload ++ List.replicate 16 0
  | some k =>
    let r := gcmSeal k (beBytes 4 p.session ++ beBytes 4 p.direction ++ beBytes 4 p.seq) p.header p.payload
    p.header ++ r.1 ++ r.2

namespace State

/-- Sends a PDU over a transport: it waits for READ_PDU over host SPI, and for the management core to post its datagram over UDP (R207). -/
def sendPdu (s : State) (t : Transport) (key : Option (List Byte)) (p : Pdu) : State :=
  match t with
  | .udp peer => s.modAlm (fun a => { a with udpTx := a.udpTx ++ [(peer, p, key)] })
  | .hostSpi => s.modAlm (fun a => { a with hspiTx := a.hspiTx ++ [(p, key)] })

/-- A session replaced by a function of it. -/
def modSession (s : State) (id : Nat) (f : Session → Session) : State :=
  s.modAlm (fun a => { a with sessions := a.sessions.map (fun x => if x.id = id then f x else x) })

/-- PDUs that wait to be sent, over either transport. -/
def waitingPdus (s : State) : List Pdu := s.alm.hspiTx.map (·.1) ++ s.alm.udpTx.map (·.2.1)

/-- Notifications of a session that wait to be sent (R81). -/
def notifyDepth (s : State) (id : Nat) : Nat := (s.waitingPdus.filter (fun p => p.session = id && p.opcode = 0x09)).length

/-- One NOTIFY of an object's value for a subscription (R81): dropped, with LOSS in the next one, when 128 wait. One whose payload is longer
than the session's granted maximum is sent whole (DESIGN CHOICE, log entry 77). -/
def notify (s : State) (sb : Subscription) : State :=
  match s.session sb.session with
  | none => s
  | some x =>
    if s.notifyDepth x.id ≥ 128 then s.modSession x.id (fun y => { y with loss := true })
    else
      match objAt sb.index sb.sub with
      | none => s
      | some f =>
        let v := encodeValue f.ty (readObj s x.id sb.index sb.sub 0)
        let p : Pdu := ⟨0x09, if x.loss then 8 else 0, x.id, x.notifySeq + 1,
          beBytes 2 sb.id ++ etBytes s.et ++ [byte f.ty.code, 0] ++ beBytes 2 v.length ++ v⟩
        (s.modSession x.id (fun y => { y with notifySeq := y.notifySeq + 1, loss := false })).sendPdu
          x.transport (some x.keyOut) p

end State

/-! ## The Logbook -/

/-- A record's 60 bytes before its CRC (R415). -/
def LogRecord.body (r : LogRecord) : List Byte :=
  beBytes 8 r.sequence ++ etBytes r.et ++ [byte r.source, byte r.severity, byte r.mask, byte r.flags] ++
  beBytes 4 r.context ++ (r.values.map (beBytes 4)).flatten

/-- A record's 64 bytes (R415). -/
def LogRecord.bytes (r : LogRecord) : List Byte := r.body ++ beBytes 4 (crc32 r.body)

/-- Entry v of source s's snapshot list in SOURCES (R417): index, sub, USED, ADD_CONTEXT. -/
def snapshotEntry (s : State) (source v : Nat) : Nat × Nat × Bool × Bool :=
  let e := s.cElem 0xA001 1 source
  let f := field e (4 + 4 * v + 3) 1
  (field e (4 + 4 * v) 2, field e (4 + 4 * v + 2) 1, f.testBit 0, f.testBit 1)

/-- The value captured for one snapshot entry (R417, R418); none when it is unused or its object does not exist. -/
def captureEntry (s : State) (source context v : Nat) : Option Nat :=
  match snapshotEntry s source v with
  | (index, sub, used, addContext) =>
    if !used then none
    else
      let i := if addContext then index + context else index
      match objAt i sub with
      | none => none
      | some f => snapshot32 f.ty (readObj s 0 i sub 0)

/-- The record of a raise with its captured VALUES (R415, R418). -/
def buildRecord (s : State) (r : Raise) (sequence : Nat) (flags : Nat) : LogRecord :=
  let caps := (List.range 8).map (captureEntry s r.source r.context)
  { sequence := sequence, et := r.et, source := r.source,
    severity := field (s.cElem 0xA001 1 r.source) 0 1 % 8,
    mask := bitsOfList (caps.map Option.isSome), flags := flags, context := r.context % 4294967296,
    values := caps.map (fun o => o.getD 0), intact := true }

/-- The record of the ring with the lowest SEQUENCE among those of a severity or lower (R421). -/
def victim (ring : List LogRecord) (severity : Nat) : Option Nat :=
  ring.foldl (fun best r =>
    if r.intact ∧ r.severity ≤ severity then
      match best with
      | none => some r.sequence
      | some b => if r.sequence < b then some r.sequence else best
    else best) none

namespace State

/-- Slots of the Logbook's DRAM ring (R421): LOGBOOK_SIZE / 64. -/
def logCapacity (s : State) : Nat := s.c 0xF120 0x04 * 1048576 / 64

/-- Takes a record into the flash queue and sets MIRRORED, or counts it in MIRROR_DROPS (R425). -/
def mirror (s : State) (r : LogRecord) : State × LogRecord :=
  if r.severity < 4 then (s, r)
  else if s.ev.flashQueue.length < 4096 then
    let r' := { r with flags := r.flags ||| 1 }
    (s.modEv (fun e => { e with flashQueue := e.flashQueue ++ [r'] }), r')
  else (s.inc32 0xA000 0x0B, r)

/-- Writes a record into the DRAM ring in place of a victim, or into a vacant slot (R421, R424, R425). -/
def placeRecord (s : State) (r : LogRecord) (gone : Option Nat) : State :=
  let m := s.mirror r
  (m.1.modEv (fun e => { e with
    ring := (match gone with
             | none => if e.ring.length < s.logCapacity then e.ring else e.ring.eraseP (fun x => !x.intact)
             | some q => e.ring.filter (fun x => x.sequence != q)) ++ [m.2]
    dropped := false })).setN 0xA000 0x03 (r.sequence + 1)

/-- The severity of a source's records (R416). -/
def severityOf (s : State) (source : Nat) : Nat := field (s.cElem 0xA001 1 source) 0 1 % 8

/-- A record of severity v is dropped: element v of DROPPED counts it, and the next record shows DROPS_BEFORE (R421, R422). -/
def dropRecord (s : State) (v : Nat) : State :=
  (s.setElem 0xA000 0x05 v (beBytes 4 (countUp 32 (beNat (s.elem 0xA000 0x05 v)) 1))).modEv (fun e => { e with dropped := true })

/-- The Logbook writes a raise's record (R414, R421). The answer tells whether it was written; none: dropped. -/
def logRaise (s : State) (r : Raise) : State × Option LogRecord :=
  let rec_ := buildRecord s r (s.num 0xA000 0x03)
    ((if r.unlocked then 2 else 0) + (if s.ev.dropped then 4 else 0))
  if (s.ev.ring.filter (·.intact)).length < s.logCapacity then (s.placeRecord rec_ none, some rec_)
  else
    match victim s.ev.ring rec_.severity with
    | some q => ((s.placeRecord rec_ (some q)).inc64 0xA000 0x06, some rec_)
    | none => (s.dropRecord rec_.severity, none)

/-- EVENT_NOTIFY takes a raise's record (R521): with its Logbook SEQUENCE, or the notification-only count with bit 63 set. -/
def eventNotify (s : State) (r : Raise) (written : Option LogRecord) : State :=
  let n := s.ev.notifyOnly + 1
  let rc := match written with
    | some w => w
    | none => buildRecord s r (9223372036854775808 + n) (if r.unlocked then 2 else 0)
  (s.setBytes 0xA802 0x01 rc.bytes).modEv (fun e => { e with
    notifies := e.notifies + 1
    notifyOnly := if written.isSome then e.notifyOnly else n })

/-- A source's routing record (R519): FLAGS and IRQ_MASK. -/
def routing (s : State) (source : Nat) : Nat × Nat :=
  let e := s.cElem 0xA801 1 source
  (field e 0 1, field e 1 1 % 16)

/-- Sets bit `source` of PENDING (R520). -/
def setPending (s : State) (source : Nat) : State :=
  let p := s.bytes 0xA800 0x02
  s.setBytes 0xA800 0x02 (setNth p (source / 8) (nth p (source / 8) 0 ||| byte (1 <<< (source % 8))))

/-- Counts a raise in COUNTS, which saturates, and in RAISES (R518). -/
def countRaise (s : State) (source : Nat) : State :=
  let n := beNat (s.elem 0xA801 0x02 source)
  (s.setElem 0xA801 0x02 source (beBytes 4 (min 4294967295 (n + 1)))).inc64 0xA800 0x01

/-- LOG_DROPPED may be raised: not within the last second (R421). -/
def mayReportDrop (s : State) : Bool :=
  match s.ev.lastDropped with
  | none => true
  | some t => t + tickSec ≤ s.raw

/-- A raise of an event, with its ET and whether ET was unlocked (R414, R518). The end of the command hands it on. -/
def raiseEvent (s : State) (source context : Nat) : State :=
  s.modEv (fun e => { e with raised := e.raised ++ [⟨source, context, s.et, !s.locked⟩] })

/-- The intake has room: it holds 1,024 raises (R422). -/
def intakeRoom (s : State) : Bool := decide (s.ev.intake < 1024)

/-- A raise reaches the Logbook's intake (R422): one that finds it full is dropped. -/
def takeRaise (s : State) (r : Raise) : State × Option LogRecord :=
  if s.intakeRoom then (s.modEv (fun e => { e with intake := e.intake + 1 })).logRaise r
  else (s.dropRecord (s.severityOf r.source), none)

/-- Hands a raise to the Logbook and to EVENT_NOTIFY, as its routing record says. A record that R421 drops raises LOG_DROPPED at most
once per second; one that finds the intake full is only counted (R422). -/
def deliverRaise (s : State) (r : Raise) : State :=
  let rt := s.routing r.source
  let logged := rt.1.testBit 1
  let res := if logged then s.takeRaise r else (s, none)
  let s1 := if rt.1.testBit 2 then res.1.eventNotify r res.2 else res.1
  if logged ∧ s.intakeRoom ∧ res.2.isNone ∧ s1.mayReportDrop then
    (s1.modEv (fun e => { e with lastDropped := some s1.raw })).raiseEvent 93 (s.severityOf r.source)
  else s1

/-- The event controller takes a raise (R518): counted; when enabled, PENDING by its IRQ_MASK, the Logbook or, before the DRAM
ring is ready, the boot buffer of 64 raises (R419), and EVENT_NOTIFY. -/
def handleRaise (s : State) (r : Raise) : State :=
  let s1 := s.countRaise r.source
  let rt := s1.routing r.source
  if !rt.1.testBit 0 then s1
  else
    let s2 := if rt.2 = 0 then s1 else s1.setPending r.source
    if s2.ev.ready then s2.deliverRaise r
    else if s2.ev.bootBuffer.length < 64 then s2.modEv (fun e => { e with bootBuffer := e.bootBuffer ++ [r] })
    else s2.inc32 0xA000 0x08

/-- The Logbook has written what its intake holds (R414, R422; DESIGN CHOICE, log entry 94: before the next command comes). -/
def intakeEmptied (s : State) : State := s.modEv (fun e => { e with intake := 0 })

/-- The DRAM ring becomes ready: the boot buffer's records are written in order (R419). -/
def logReady (s : State) : State :=
  (s.ev.bootBuffer.foldl deliverRaise (s.modEv (fun e => { e with ready := true, bootBuffer := [] }))).intakeEmptied

/-! ## Fault qualifiers (R522, R523) -/

/-- A qualifier by its key; CLEAR with no history when it has never counted. -/
def qualifier (s : State) (key : Nat) : Qualifier := (lookup key s.ev.qualifiers).getD ⟨false, []⟩

def setQualifier (s : State) (key : Nat) (q : Qualifier) : State :=
  s.modEv (fun e => { e with qualifiers := insertKey key q e.qualifiers })

end State

/-- What an occurrence did: TRANSIENT, made its qualifier LASTING, or found it LASTING. -/
inductive Occurrence where
  | transient | became | already
  deriving DecidableEq, Repr

namespace State

/-- One occurrence now, with window W in ms and threshold K (R522). -/
def occurs (s : State) (key window threshold : Nat) : State × Occurrence :=
  let s1 := s.inc64 0xE060 0x02
  let q := s1.qualifier key
  if q.lasting then (s1, .already)
  else
    let h := q.history.filter (fun t => s1.raw < t + window * tickMs) ++ [s1.raw]
    if h.length ≥ threshold then ((s1.setQualifier key ⟨true, h⟩).inc32 0xE060 0x04, .became)
    else ((s1.setQualifier key ⟨false, h⟩).inc64 0xE060 0x03, .transient)

/-- A qualifier cleared (R523). -/
def clearQualifier (s : State) (key : Nat) : State :=
  s.modEv (fun e => { e with qualifiers := eraseKey key e.qualifiers })

/-- A qualifier is LASTING. -/
def lasting (s : State) (key : Nat) : Bool := (s.qualifier key).lasting

/-! ## Performance counters (R524, R525) -/

/-- n items of a source counted in one counter: 48 bits, a wrap counts in OVERFLOWS and may raise COUNTER_OVERFLOW. -/
def countIn (s : State) (c n : Nat) : State :=
  let v := s.num (0xE000 + c) 0x02 + n
  if v < 281474976710656 then s.setN (0xE000 + c) 0x02 v
  else
    let s1 := (s.setN (0xE000 + c) 0x02 (v % 281474976710656)).inc32 (0xE000 + c) 0x03
    if s1.cB (0xE000 + c) 0x04 then s1.raiseEvent 119 c else s1

/-- n items of a source counted on a die, in each of its 16 counters that selects the source. -/
def perf (s : State) (die code n : Nat) : State :=
  ((List.range 16).map (16 * die + ·)).foldl
    (fun t c => if t.c (0xE000 + c) 0x01 = code then t.countIn c n else t) s

/-! ## Command results (R77, R78) -/

/-- STATE of a result RECORD: 0 IDLE, 1 BUSY, 2 DONE, 3 FAILED. -/
def resultState (s : State) (result : Nat) : Nat := s.num result 0x02

/-- The sequence that the next command of a result RECORD takes. -/
def nextSeq (s : State) (result : Nat) : Nat :=
  if s.num result 0x01 = 4294967295 then 1 else s.num result 0x01 + 1

/-- A command is accepted: it takes its sequence and is BUSY. -/
def startCmd (s : State) (result : Nat) : State :=
  (s.setN result 0x06 (s.nextSeq result)).setN result 0x02 1

/-- A command completes: SEQ, CODE and DATA in one step, DONE when the code is 0, else FAILED. -/
def finishCmd (s : State) (result code : Nat) (data : List Byte) : State :=
  ((((s.setN result 0x01 (s.num result 0x06)).setN result 0x03 code).setBytes result 0x04 (data.take 32)).setN result 0x02
    (if code = 0 then 2 else 3)).setN result 0x06 0

/-- A command that is taken and completes in one step. -/
def quickCmd (s : State) (result code : Nat) (data : List Byte) : State := (s.startCmd result).finishCmd result code data

/-- A command in progress whose outcome is already settled; COMMAND_COMPLETE ends it. -/
def addJob (s : State) (j : Job) : State := s.modAlm (fun a => { a with jobs := a.jobs ++ [j] })

def job (s : State) (result : Nat) : Option Job := s.alm.jobs.find? (fun j => j.result = result)

def dropJob (s : State) (result : Nat) : State :=
  s.modAlm (fun a => { a with jobs := a.jobs.filter (fun j => j.result != result) })

/-- The acting unit of a pair mirrors something over an UP link (R475). -/
def mirrorOut (s : State) (o : Output) : State := if s.isPair ∧ s.acting ∧ s.num 0xC000 0x09 = 3 then s.emit o else s

/-! ## The end of every command -/

/-- A subscription's object has changed between two states (R80); EVENT_NOTIFY is notified at each routed raise (R521). -/
def changedFor (old new : State) (sb : Subscription) : Bool :=
  (sb.index != 0xA802 || sb.sub != 0x01) &&
  readObj old sb.session sb.index sb.sub 0 != readObj new sb.session sb.index sb.sub 0

/-- A subscription replaced by a function of it. -/
def modSub (s : State) (id : Nat) (f : Subscription → Subscription) : State :=
  s.modAlm (fun a => { a with subs := a.subs.map (fun x => if x.id = id then f x else x) })

/-- A change notified (R80): at most once per minimum interval; a change inside it waits for its end. -/
def notifyNow (s : State) (sb : Subscription) : State :=
  let due : Bool := match sb.lastSent with
    | some t => decide (t + sb.minInterval * tickMs ≤ s.raw)
    | none => true
  if due then (s.notify sb).modSub sb.id (fun x => { x with lastSent := some s.raw, waiting := false })
  else s.modSub sb.id (fun x => { x with waiting := true })

/-- ON_CHANGE (R80): a subscription's object differs from what it was. -/
def notifyChange (old : State) (s : State) (sb : Subscription) : State :=
  if sb.onChange ∧ changedFor old s sb then s.notifyNow sb else s

/-- A raise written to EVENT_NOTIFY is a change for those who subscribe to it (R521). -/
def notifyEvents (before s : State) : State :=
  if before.ev.notifies = s.ev.notifies then s
  else s.alm.subs.foldl (fun (t : State) (sb : Subscription) =>
    if sb.onChange ∧ sb.index = 0xA802 ∧ sb.sub = 0x01 then t.notifyNow sb else t) s

/-- Raises in ascending source number, those of one source in their order (R414, R518). -/
def raiseOrder (l : List Raise) : List Raise := l.insertionSort (fun a b => a.source ≤ b.source)

/-- Raises handled in their order; a LOG_DROPPED raised on the way takes its place among them. `fuel` bounds it by one more than
the raises, since LOG_DROPPED comes at most once. -/
def handleRaises : Nat → State → List Raise → State
  | 0, s, _ => s
  | _ + 1, s, [] => s
  | fuel + 1, s, r :: rest =>
    let t := s.handleRaise r
    handleRaises fuel (notifyEvents s (t.modEv (fun e => { e with raised := [] }))) (raiseOrder (rest ++ t.ev.raised))

/-- The raises of a command, handled at its end. -/
def flushRaises (s : State) : State :=
  if s.ev.raised = [] then s
  else (handleRaises (s.ev.raised.length + 1) (s.modEv (fun e => { e with raised := [] })) (raiseOrder s.ev.raised)).intakeEmptied

/-- IRQn_N is due low: some source with bit n in its IRQ_MASK has PENDING set (R520). -/
def irqDue (s : State) (n : Nat) : Bool :=
  let p := s.bytes 0xA800 0x02
  (List.range 128).any (fun src => (nth p (src / 8) 0).getLsbD (src % 8) && (s.routing src).2.testBit n)

/-- The levels of the interrupt pins: HSPI_INT_N (R84) and IRQ0_N–IRQ3_N (R520). -/
def drivePins (s : State) : State :=
  let irq := (List.range 4).map (fun n => s.irqDue n && (nth s.ev.irqGap n none).isNone)
  (s.modAlm (fun a => { a with hspiIntLow := !a.hspiTx.isEmpty && a.hspiGap.isNone })).modEv (fun e => { e with irqLow := irq })

/-- A change of UTC_OFFSET, kept for the frame times of the next 2 s (R194) and for times before it (R316); one at a leap is that of the
leap's ET (R102). -/
def noteUtc (old s : State) : State :=
  if old.int 0x2000 0x13 = s.int 0x2000 0x13 then s
  else
    let at_ : Et := match s.eph.lastLeap with
      | some l => if old.eph.lastLeap = some l then s.et else l.1
      | none => s.et
    s.modIng (fun i => { i with
      prevUtc := old.int 0x2000 0x13, utcTick := some s.raw, utcSteps := (at_, old.int 0x2000 0x13) :: i.utcSteps })

/-- The UTC_OFFSET in force at an ET. -/
def utcAt (s : State) (t : Et) : Int :=
  (((s.ing.utcSteps.filter (fun x => decide (t < x.1))).getLast?).map (·.2)).getD (s.int 0x2000 0x13)

/-- What a command left, with its raises handled, and the output pins and the recorder's digital states that follow it. -/
def followed (old new : State) : State := (noteUtc old new).flushRaises.driveOutputs.noteDigital

/-- What ends every command: the output pins, ON_CHANGE notifications of what it changed, the interrupt pins, and the queue
as it was. -/
def settle (old new : State) : State :=
  { ((followed old new).alm.subs.foldl (notifyChange old) (followed old new)).drivePins with pending := old.pending }

end State

/-- The outcome of a command whose effect is `f`: a next state, settled. -/
def complete (s : State) (f : State → State) : Host.Outcome State Fault Refusal := .next (s.settle (f s))

end Sys2Proof.Machine
end

