-- ==== Sys2Proof/Machine/Keys.lean ====
section
/-! DEFINITION. The key store (R443–R460): keys derived from the root, slot records, loading and writing slots, the recovery key,
and the twelve key commands. -/

namespace Sys2Proof.Machine

/-! ## Attribute words (R447, R448, R456) -/

def keyOrigin (a : Nat) : Nat := a % 4
def neverExport (a : Nat) : Bool := a.testBit 2
def keyBound (a : Nat) : Bool := a.testBit 3
def keyRole (a : Nat) : Nat := bits a 14 12
def keyType (a : Nat) : Nat := bits a 19 16

/-- The usage bits that suit a KEY_TYPE: SIGN and VERIFY; DERIVE; ENCRYPT, DECRYPT and WRAP; MAC. -/
def usagesFor (type : Nat) : Nat :=
  match type with
  | 1 => 0x030
  | 2 => 0x100
  | 3 => 0x2C0
  | 4 => 0x400
  | _ => 0

/-- An attribute word that R456 accepts for a slot and the origin that the command creates. -/
def attributesOk (slot origin a : Nat) : Bool :=
  decide (a < 4294967296) && a &&& 0xFFF08800 == 0 && decide (1 ≤ keyType a ∧ keyType a ≤ 4) &&
  (a &&& 0x7F0) &&& usagesFor (keyType a) == a &&& 0x7F0 && keyOrigin a == origin &&
  (keyRole a == 0 || decide (8 ≤ slot ∧ slot ≤ 11)) && !(slot == 1 && keyBound a)

/-- The word that the table of R448 gives KS1 and KS8–KS11. -/
def fixedWord (slot : Nat) : Option Nat :=
  if slot = 1 then some 0x10023
  else if 8 ≤ slot ∧ slot ≤ 11 then some (0x40407 + (slot - 7) * 4096)
  else none

/-- A word that does not go against the table of R448. -/
def tableAdmits (slot a : Nat) : Bool :=
  match fixedWord slot with
  | some w => a == w
  | none => true

/-! ## Derivation (R449, R459) -/

/-- The info field of R449 for a purpose: 1 the wrapping key, 2 the key of a DERIVED slot. -/
def slotInfo (purpose slot a : Nat) (m : List Byte) : List Byte :=
  ascii "TN8448 slot" ++ [byte purpose, byte slot] ++ beBytes 4 a ++ (if keyBound a then m else [])

/-- The wrapping key KEK of a slot. -/
def kek (root m : List Byte) (slot a : Nat) : List Byte := hkdf root [] (slotInfo 1 slot a m) 32

/-- Bytes of output keying material that a key of a type takes. -/
def materialLength (type : Nat) : Nat := if type = 3 then 32 else if type = 4 then 48 else 56

/-- The secret a key of a type is from its keying material: a P-384 private key is (OKM mod (n − 1)) + 1. -/
def secretOf (type : Nat) (okm : List Byte) : List Byte :=
  if type = 1 ∨ type = 2 then beBytes 48 (beNat okm % (p384N - 1) + 1) else okm

/-- The public part of a secret: the point of a P-384 key. -/
def publicOf (type : Nat) (secret : List Byte) : List Byte :=
  if type = 1 ∨ type = 2 then publicKey (beNat secret) else []

/-- The secret of a DERIVED slot. -/
def derivedSecret (root m : List Byte) (slot a : Nat) : List Byte :=
  secretOf (keyType a) (hkdf root [] (slotInfo 2 slot a m) (materialLength (keyType a)))

/-- The recovery key and the three keys derived from it. -/
def recoveryKey (root : List Byte) : List Byte := hkdf root [] (ascii "TN8448 recovery" ++ serial) 48
def recoveryChild (rk : List Byte) (info : String) : List Byte := hkdf rk [] (ascii info) 48

/-- RK_FINGERPRINT (R466). -/
def rkFingerprint (rk : List Byte) : List Byte := (hmac rk (ascii "fingerprint")).take 8

/-! ## Slot records (R450) -/

/-- M_HINT of a word under M. -/
def mHint (a : Nat) (m : List Byte) : List Byte :=
  if keyBound a then (sha384 (ascii "TN8448 hint" ++ m)).take 8 else List.replicate 8 0

/-- A sealed record of 256 bytes. -/
def sealRecord (root m : List Byte) (slot a generation : Nat) (nonce secret pub : List Byte) : List Byte :=
  let head := beBytes 2 0x4B53 ++ [byte slot, 1] ++ beBytes 4 a ++ beBytes 4 generation ++ mHint a m ++ nonce ++
    beBytes 2 secret.length ++ beBytes 2 pub.length ++ List.replicate 12 0
  let tail := padTo 97 pub ++ List.replicate 47 0
  let r := gcmSeal (kek root m slot a) nonce (head ++ tail) secret
  head ++ padTo 48 r.1 ++ tail ++ r.2

/-! ## What manufacture leaves in the slots (R448) -/

/-- The private keys and the commissioning key of this unit. -/
def ks0Private : List Byte := beBytes 48 (Config.ks0Secret.toNat % (p384N - 1) + 1)

/-- The root of this unit. -/
def unitRoot : List Byte := beBytes 32 Config.pufRoot.toNat

/-- The record that manufacture sealed for KS0, KS1 or KS11. -/
def factorySlot (slot : Nat) : List Byte :=
  let nonce := beBytes 12 (Config.manufactureNonce slot).toNat
  let m := List.replicate 48 (0 : Byte)
  if slot = 0 then sealRecord unitRoot m 0 0x10015 1 nonce ks0Private (publicOf 1 ks0Private)
  else if slot = 1 then sealRecord unitRoot m 1 0x10023 1 nonce [] (beBytes 97 Config.ks1Public.toNat)
  else if slot = 11 then sealRecord unitRoot m 11 0x44407 1 nonce (beBytes 48 Config.commissioningKey.toNat) []
  else []

/-- The bytes of a copy of a slot; none written when blank. -/
def slotBytes (slot : Nat) : BankContent → List Byte
  | .blank => []
  | .factory => factorySlot slot
  | .written b => b

/-- What a record says once its tag has verified. -/
structure KeyRecord where
  attributes : Nat
  generation : Nat
  secret : List Byte
  pub : List Byte
  deriving DecidableEq, Repr

/-- A copy's condition (R451, R465). -/
inductive CopyState where
  | blank
  | valid (r : KeyRecord)
  | failed
  /-- BOUND, and made under another measurement. -/
  | mismatch
  deriving DecidableEq, Repr

/-- Checks one copy of a slot under the root and M. -/
def checkCopy (root m : List Byte) (slot : Nat) (b : List Byte) : CopyState :=
  let a := field b 4 4
  if b.isEmpty then .blank
  else if keyBound a ∧ slice b 12 8 ≠ mHint a m then .mismatch
  else if b.length ≠ 256 ∨ field b 0 2 ≠ 0x4B53 ∨ field b 2 1 ≠ slot ∨ field b 3 1 ≠ 1 then .failed
  else
    let n := field b 32 2
    if n > 48 then .failed
    else
      match gcmOpen (kek root m slot a) (slice b 20 12) (slice b 0 48 ++ slice b 96 144) (slice b 48 n) (slice b 240 16) with
      | some secret => .valid ⟨a, field b 8 4, secret, slice b 96 (min 97 (field b 34 2))⟩
      | none => .failed

/-- COPY_STATE's two bits for a copy. -/
def CopyState.code : CopyState → Nat
  | .blank => 0
  | .valid _ => 1
  | .failed => 2
  | .mismatch => 3

/-- The winner of two copies, and that it is copy A (R451). -/
def winnerOf (a b : CopyState) : Option (KeyRecord × Bool) :=
  match a, b with
  | .valid x, .valid y => if y.generation ≤ x.generation then some (x, true) else some (y, false)
  | .valid x, _ => some (x, true)
  | _, .valid y => some (y, false)
  | _, _ => none

/-- STATE of a slot from its copies (R451): 0 EMPTY, 1 LOADED, 2 DAMAGED, 3 MEASUREMENT_MISMATCH. -/
def slotState (a b : CopyState) : Nat :=
  match winnerOf a b with
  | some w => if keyOrigin w.1.attributes = 0 then 0 else 1
  | none =>
    if a = .mismatch ∨ b = .mismatch then 3
    else if a = .failed ∨ b = .failed then 2
    else 0

namespace State

/-- The measurement register. -/
def measurement (s : State) : List Byte := s.bytes 0xB100 0x02

/-- The key state is RESTRICTED (R460). -/
def restricted (s : State) : Bool := s.num 0xB100 0x01 == 1

/-- A loaded key. -/
def key (s : State) (slot : Nat) : Option LoadedKey := s.keys.loaded.find? (fun (k : LoadedKey) => k.slot = slot)

/-- The two copies of a slot as they check under the root and M. -/
def copies (s : State) (root : List Byte) (slot : Nat) : CopyState × CopyState :=
  let p := nth s.flash.slots slot (.blank, .blank)
  (checkCopy root s.measurement slot (slotBytes slot p.1), checkCopy root s.measurement slot (slotBytes slot p.2))

/-- Takes a slot's volatile key away. -/
def unloadKey (s : State) (slot : Nat) : State :=
  s.modKeys (fun k => { k with loaded := k.loaded.filter (fun (x : LoadedKey) => x.slot != slot) })

/-- Puts the winner of a slot in force: its registers and its key (R451, R465). -/
def enforceSlot (s : State) (root : List Byte) (slot : Nat) : State :=
  let c := s.copies root slot
  let w := winnerOf c.1 c.2
  let st := slotState c.1 c.2
  let a := (w.map (fun x => x.1.attributes)).getD 0
  let i := 0xB000 + slot
  let s1 := ((((s.setN i 0x01 st).setN i 0x02 a).setN i 0x03 ((w.map (fun x => x.1.generation)).getD 0)).setBytes i 0x04
    ((w.map (fun x => x.1.pub)).getD [])).setN i 0x05 (c.1.code + 4 * c.2.code)
  let s2 := s1.unloadKey slot
  match w with
  | none => s2
  | some x =>
    if st ≠ 1 then s2
    else
      let secret := if keyOrigin a = 2 then derivedSecret root s.measurement slot a else x.1.secret
      s2.modKeys (fun k => { k with loaded := k.loaded ++ [⟨slot, a, secret, x.1.pub⟩] })

/-- Loads a slot; an unusable one raises KEY_SLOT_UNUSABLE (R451). -/
def loadSlot (s : State) (root : List Byte) (slot : Nat) : State :=
  let s1 := s.enforceSlot root slot
  if s1.num (0xB000 + slot) 0x01 ≥ 2 then s1.raiseEvent 97 slot else s1

/-- Loads every slot under the locked M. -/
def loadSlots (s : State) : State :=
  match s.keys.root with
  | none => s
  | some root => (List.range 64).foldl (fun (t : State) n => t.loadSlot root n) s

/-- Every slot UNLOADED: RESTRICTED loads none (R460, R465). -/
def unloadSlots (s : State) : State :=
  ((List.range 64).foldl (fun (t : State) n => t.setN (0xB000 + n) 0x01 4) s).modKeys (fun k => { k with loaded := [] })

/-- Writes one record for a slot (R452): the new state and 0, or the state as it was and a code. -/
def writeSlot (s : State) (root : List Byte) (slot a : Nat) (secret pub : List Byte) : State × Nat :=
  let c := s.copies root slot
  let w := winnerOf c.1 c.2
  let g := (w.map (fun x => x.1.generation + 1)).getD 1
  if g > 0xFFFFFFFF then (s, 0x0002)
  else
    let d := s.draw 12
    let r := sealRecord root s.measurement slot a g d.1 secret pub
    let intoB := (w.map (fun x => x.2)).getD false
    let s1 := d.2.modFlash (fun f => { f with slots := f.slots.modify slot (fun (p : BankContent × BankContent) =>
      if intoB then (p.1, .written r) else (.written r, p.2)) })
    ((s1.enforceSlot root slot).setN (0xB000 + slot) 0x07 s1.et, 0)

/-- Erases the copy of a slot that does not hold the winner, and zeroises its key (R452). -/
def eraseOther (s : State) (root : List Byte) (slot : Nat) : State :=
  let c := s.copies root slot
  match winnerOf c.1 c.2 with
  | none => s
  | some w =>
    (s.modFlash (fun f => { f with slots := f.slots.modify slot (fun (p : BankContent × BankContent) =>
      if w.2 then (p.1, .blank) else (.blank, p.2)) })).enforceSlot root slot

/-- What a key command leaves: the state, its code and OUTPUT. -/
abbrev KeyAnswer := State × Nat × List Byte

def keyFail (s : State) (code : Nat) : KeyAnswer := (s, code, [])

/-- A new key of a slot: a DERIVED one stores no secret. -/
def createKey (s : State) (root : List Byte) (slot a : Nat) (secret : List Byte) (pub : List Byte) : KeyAnswer :=
  let r := s.writeSlot root slot a (if keyOrigin a = 2 then [] else secret) pub
  (r.1, r.2, if r.2 = 0 then pub else [])

/-- No host command may name KS2–KS7; STATE of a slot that every command fails on (R448, R451). -/
def slotBar (s : State) (slot : Nat) : Nat :=
  if 2 ≤ slot ∧ slot ≤ 7 then 0x0021
  else if s.num (0xB000 + slot) 0x01 = 2 ∨ s.num (0xB000 + slot) 0x01 = 3 then 0x0023
  else 0

/-- The slot is EMPTY. -/
def slotEmpty (s : State) (slot : Nat) : Bool := s.num (0xB000 + slot) 0x01 == 0

/-- GENERATE (R454). -/
def keyGenerate (s : State) (root : List Byte) (slot : Nat) (input : List Byte) : KeyAnswer :=
  let a := beNat input
  if slot < 12 then s.keyFail 0x0021
  else if s.slotBar slot ≠ 0 then s.keyFail (s.slotBar slot)
  else if !s.slotEmpty slot then s.keyFail 0x0027
  else if input.length ≠ 4 ∨ !attributesOk slot 1 a then s.keyFail 0x0002
  else
    let d := s.draw (materialLength (keyType a))
    let secret := secretOf (keyType a) d.1
    d.2.createKey root slot a secret (publicOf (keyType a) secret)

/-- DERIVE_SLOT (R454). -/
def keyDeriveSlot (s : State) (root : List Byte) (slot : Nat) (input : List Byte) : KeyAnswer :=
  let a := beNat input
  if slot < 12 then s.keyFail 0x0021
  else if s.slotBar slot ≠ 0 then s.keyFail (s.slotBar slot)
  else if !s.slotEmpty slot then s.keyFail 0x0027
  else if input.length ≠ 4 ∨ !attributesOk slot 2 a then s.keyFail 0x0002
  else
    let secret := derivedSecret root s.measurement slot a
    s.createKey root slot a secret (publicOf (keyType a) secret)

/-- The secret and public part that IMPORT takes from its key bytes; none for bytes that are no key of the word's type: 32 bytes for
AES-256, 48 for HMAC-SHA-384, and for P-384 a private key of 48 bytes or, without SIGN and DERIVE, a point of 97. -/
def importedKey (a : Nat) (key : List Byte) : Option (List Byte × List Byte) :=
  match keyType a with
  | 3 => if key.length = 32 then some (key, []) else none
  | 4 => if key.length = 48 then some (key, []) else none
  | _ =>
    if key.length = 48 ∧ 0 < beNat key ∧ beNat key < p384N then some (key, publicOf 1 key)
    else if key.length = 97 ∧ a &&& 0x110 = 0 ∧ (decodePoint key).isSome then some ([], key)
    else none

/-- The bytes that the signature of an IMPORT into KS1 covers (R457). -/
def rotationBytes (present : List Byte) (a : Nat) (new : List Byte) : List Byte :=
  ascii "TN8448 KS1" ++ present ++ beBytes 4 a ++ new

/-- IMPORT (R454, R457). -/
def keyImport (s : State) (root : List Byte) (slot : Nat) (input : List Byte) : KeyAnswer :=
  let a := field input 0 4
  let n := field input 4 2
  let key := slice input 6 n
  let extra := if slot = 1 then 96 else 0
  if slot = 0 then s.keyFail 0x0021
  else if s.slotBar slot ≠ 0 then s.keyFail (s.slotBar slot)
  else if input.length < 6 ∨ !attributesOk slot 3 a then s.keyFail 0x0002
  else if !tableAdmits slot a then s.keyFail 0x0021
  else if !s.slotEmpty slot ∧ s.num (0xB000 + slot) 0x02 ≠ a then s.keyFail 0x0027
  else if input.length ≠ 6 + n + extra then s.keyFail 0x0002
  else
    match importedKey a key with
    | none => s.keyFail 0x0002
    | some p =>
      let present := s.bytes 0xB001 0x04
      if slot = 1 ∧ n ≠ 97 then s.keyFail 0x0002
      else if slot = 1 ∧ !ecdsaVerify present (sha384 (rotationBytes present a key)) (input.drop (6 + n)) then s.keyFail 0x0024
      else
        let r := s.createKey root slot a p.1 p.2
        (r.1, r.2.1, [])

/-- DESTROY (R452, R454). -/
def keyDestroy (s : State) (root : List Byte) (slot : Nat) : KeyAnswer :=
  if slot < 8 then s.keyFail 0x0021
  else if s.slotBar slot ≠ 0 then s.keyFail (s.slotBar slot)
  else
    let r := s.writeSlot root slot 0 [] []
    if r.2 ≠ 0 then s.keyFail r.2 else (r.1.eraseOther root slot, 0, [])

/-- A loaded key whose word permits a usage bit and has a type. -/
def usable (s : State) (slot usage type : Nat) : Option LoadedKey :=
  match s.key slot with
  | some k => if k.attributes.testBit usage ∧ keyType k.attributes = type then some k else none
  | none => none

/-- SIGN, VERIFY, ENCRYPT, DECRYPT and MAC (R454) with the key that permits them. -/
def keyUse (s : State) (opcode : Nat) (k : LoadedKey) (input : List Byte) : KeyAnswer :=
  match opcode with
  | 0x05 =>
    if input.length ≠ 48 then s.keyFail 0x0002
    else if k.secret.isEmpty then s.keyFail 0x0020
    else (s, 0, ecdsaSign (beNat k.secret) input)
  | 0x06 =>
    if input.length ≠ 144 then s.keyFail 0x0002
    else if ecdsaVerify k.pub (input.take 48) (input.drop 48) then (s, 0, []) else s.keyFail 0x0024
  | 0x09 => (s, 0, hmac k.secret input)
  | _ =>
    let n := field input 12 2
    let aad := slice input 14 n
    let data := input.drop (14 + n)
    if input.length < 14 + n then s.keyFail 0x0002
    else if opcode = 0x07 then
      (let r := gcmSeal k.secret (input.take 12) aad data
       if data.length + 16 > 512 then s.keyFail 0x0002 else (s, 0, r.1 ++ r.2))
    else if data.length < 16 then s.keyFail 0x0002
    else
      match gcmOpen k.secret (input.take 12) aad (data.take (data.length - 16)) (data.drop (data.length - 16)) with
      | some plain => (s, 0, plain)
      | none => s.keyFail 0x0024

/-- DERIVE (R454): the ECDH shared x-coordinate through HKDF into TARGET as an IMPORTED key. -/
def keyDerive (s : State) (root : List Byte) (slot target : Nat) (input : List Byte) : KeyAnswer :=
  let n := field input 101 2
  let given := field input 97 4
  if s.slotBar slot ≠ 0 then s.keyFail (s.slotBar slot)
  else if target < 8 then s.keyFail 0x0021
  else if s.slotBar target ≠ 0 then s.keyFail (s.slotBar target)
  else
    match s.usable slot 8 2 with
    | none => s.keyFail 0x0020
    | some k =>
      let a := if neverExport k.attributes then given ||| 4 else given
      if input.length ≠ 103 + n ∨ !attributesOk target 3 a then s.keyFail 0x0002
      else if !tableAdmits target a then s.keyFail 0x0021
      else if !s.slotEmpty target then s.keyFail 0x0027
      else
        match ecdh (beNat k.secret) (input.take 97) with
        | none => s.keyFail 0x0002
        | some x =>
          let secret := secretOf (keyType a) (hkdf x [] (input.drop 103) (materialLength (keyType a)))
          s.createKey root target a secret (publicOf (keyType a) secret)

/-- WRAP (R454). -/
def keyWrapCmd (s : State) (slot target : Nat) : KeyAnswer :=
  if s.slotBar slot ≠ 0 then s.keyFail (s.slotBar slot)
  else if s.slotBar target ≠ 0 then s.keyFail (s.slotBar target)
  else
    match s.usable slot 9 3, s.key target with
    | some k, some t =>
      if neverExport t.attributes ∨ t.secret.isEmpty then s.keyFail 0x0020 else (s, 0, keyWrap k.secret t.secret)
    | _, _ => s.keyFail 0x0020

/-- A statement's bytes 0–223 (R458). -/
def statementHead (s : State) (slot kind auth : Nat) (nonce : List Byte) (a generation : Nat) (pub : List Byte) : List Byte :=
  beBytes 4 0x41545354 ++ [1, byte slot, byte kind, byte auth] ++ etBytes s.et ++ nonce ++ beBytes 4 a ++ beBytes 4 generation ++
  padTo 48 s.measurement ++ padTo 97 pub ++ List.replicate 3 0 ++ padSpaces 16 serial

/-- A statement with its AUTH_VALUE, by KS0 while it is loaded, else by the recovery attestation key. -/
def statement (s : State) (slot kind : Nat) (nonce : List Byte) (a generation : Nat) (pub : List Byte) : KeyAnswer :=
  match s.key 0 with
  | some k =>
    let h := s.statementHead slot kind 1 nonce a generation pub
    (s, 0, h ++ ecdsaSign (beNat k.secret) (sha384 h))
  | none =>
    match s.keys.rk with
    | some rk =>
      let h := s.statementHead slot kind 2 nonce a generation pub
      (s, 0, h ++ hmac (recoveryChild rk "attest") h ++ List.replicate 48 0)
    | none => s.keyFail 0x0003

/-- ATTEST (R458). -/
def keyAttest (s : State) (slot : Nat) (input : List Byte) : KeyAnswer :=
  let kind := field input 32 1
  if input.length ≠ 33 ∨ (kind ≠ 1 ∧ kind ≠ 2) then s.keyFail 0x0002
  else if kind = 2 then s.statement 0 2 (input.take 32) (s.num 0xB100 0x0B) (s.num 0xB100 0x0D) []
  else if s.slotBar slot ≠ 0 then s.keyFail (s.slotBar slot)
  else
    match s.key slot with
    | none => s.keyFail 0x0026
    | some k =>
      if keyOrigin k.attributes = 1 ∧ neverExport k.attributes ∧ (keyType k.attributes = 1 ∨ keyType k.attributes = 2) then
        s.statement slot 1 (input.take 32) k.attributes (s.num (0xB000 + slot) 0x03) k.pub
      else s.keyFail 0x0026

/-- The usage bit and KEY_TYPE that SIGN, VERIFY, ENCRYPT, DECRYPT and MAC need. -/
def usageOf (opcode : Nat) : Nat × Nat :=
  match opcode with
  | 0x05 => (4, 1)
  | 0x06 => (5, 1)
  | 0x07 => (6, 3)
  | 0x08 => (7, 3)
  | _ => (10, 4)

/-- ATTEST of kind 2, which RESTRICTED allows. -/
def attestsTamper (opcode : Nat) (input : List Byte) : Bool := opcode == 0x0C && field input 32 1 == 2

/-- A key command's outcome (R453–R458): RESTRICTED (R460) and recovery mode (R511) allow ATTEST of the tamper state alone. -/
def keyCommand (s : State) (opcode slot target : Nat) (input : List Byte) : KeyAnswer :=
  if (s.restricted ∨ s.stage = 15) ∧ !attestsTamper opcode input then s.keyFail 0x0003
  else if opcode = 0x0C then s.keyAttest slot input
  else
    match s.keys.root with
    | none => s.keyFail 0x0003
    | some root =>
      match opcode with
      | 0x01 => s.keyGenerate root slot input
      | 0x02 => s.keyDeriveSlot root slot input
      | 0x03 => s.keyImport root slot input
      | 0x04 => s.keyDestroy root slot
      | 0x0A => s.keyDerive root slot target input
      | 0x0B => s.keyWrapCmd slot target
      | _ =>
        if s.slotBar slot ≠ 0 then s.keyFail (s.slotBar slot)
        else
          match s.usable slot (usageOf opcode).1 (usageOf opcode).2 with
          | none => s.keyFail 0x0020
          | some k => s.keyUse opcode k input

/-- A key command completes: OUTPUT, OUT_LEN, USES and its result (R453, R465). -/
def completeKey (s : State) (opcode slot target : Nat) (input : List Byte) : State :=
  let r := s.keyCommand opcode slot target input
  let s1 := (r.1.setBytes 0xB101 0x05 r.2.2).setN 0xB101 0x06 r.2.2.length
  let s2 := if attestsTamper opcode input then s1 else s1.inc32 (0xB000 + slot) 0x06
  s2.finishCmd 0xB102 r.2.1 []

/-- A key command in progress ends FAILED with code 0x0022 TAMPER and no OUTPUT (R463). -/
def abortKey (s : State) : State :=
  if s.resultState 0xB102 ≠ 1 then s
  else (((s.dropJob 0xB102).setBytes 0xB101 0x05 []).setN 0xB101 0x06 0).finishCmd 0xB102 0x0022 []

/-- A restart cuts a key command's flash write short: each copy it would have written holds some of the new bytes (R452). -/
def cutKeyWrite (s : State) : State :=
  match s.job 0xB102 with
  | some j =>
    match j.action with
    | .key opcode slot target input =>
      let after := (s.keyCommand opcode slot target input).1
      let n := Config.flashCut s.alm.draws
      let torn := fun (slot : Nat) (old new : BankContent) =>
        if old = new ∨ n = 0 then old
        else if n ≥ 256 then new
        else .written ((slotBytes slot new).take n ++ (padTo 256 (slotBytes slot old)).drop n)
      s.modFlash (fun f => { f with slots := (List.range 64).map (fun i =>
        let o := nth f.slots i (.blank, .blank)
        let w := nth after.flash.slots i (.blank, .blank)
        (torn i o.1 w.1, torn i o.2 w.2)) })
    | _ => s
  | none => s

end State

end Sys2Proof.Machine
end

