-- ==== Sys2Proof/Machine/Elementary.lean ====
section
/-! DEFINITION. The elementary functions that the rules name (R152, R238, R242, R265, R271–R273, R291, R298): sin, cos, atan2, exp and ln
of F64. Each is computed in fixed point far beyond the format's precision. No rule states its rounding, so of the two neighbours of the
exact value the result is one, and a free choice says which (log entry 13). -/

namespace Sys2Proof

open Machine

/-! ## Fixed point: an Int n stands for n·2^-P -/

/-- The product of two fixed-point numbers. -/
def fixMul (P : Nat) (a b : Int) : Int := a * b / (2 ^ P : Nat)

/-- Σ of the terms t, t·r/(c₀), … : each term is the one before times `x`, divided by the divisor that `d` gives its index. -/
def fixSeries (P : Nat) (x : Int) (d : Nat → Nat) : Nat → Nat → Int → Int
  | 0, _, _ => 0
  | fuel + 1, i, t => if t = 0 then 0 else t + fixSeries P x d fuel (i + 1) (fixMul P t x / (d i : Nat))

/-- Σ (−1)^i x^(2i+1)/(2i+1), or all signs positive for `sq` = x²: `sq` carries the sign. -/
def fixArc (P : Nat) (sq : Int) : Nat → Nat → Int → Int
  | 0, _, _ => 0
  | fuel + 1, i, pow => if pow = 0 then 0 else pow / ((2 * i + 1 : Nat) : Int) + fixArc P sq fuel (i + 1) (fixMul P pow sq)

/-- atan of |x| ≤ 1/2. -/
def fixAtan (P : Nat) (x : Int) : Int := fixArc P (-(fixMul P x x)) P 0 x

/-- atanh of |x| ≤ 1/2. -/
def fixAtanh (P : Nat) (x : Int) : Int := fixArc P (fixMul P x x) P 0 x

/-- π, by 16·atan(1/5) − 4·atan(1/239). -/
def fixPi (P : Nat) : Int := 16 * fixAtan P ((2 ^ P : Nat) / 5 : Int) - 4 * fixAtan P ((2 ^ P : Nat) / 239 : Int)

/-- ln 2, by 2·atanh(1/3). -/
def fixLn2 (P : Nat) : Int := 2 * fixAtanh P ((2 ^ P : Nat) / 3 : Int)

/-- exp of |x| ≤ 1. -/
def fixExp (P : Nat) (x : Int) : Int := fixSeries P x (fun i => i + 1) P 0 (2 ^ P : Nat)

/-- sin and cos of |x| ≤ 1. -/
def fixSin (P : Nat) (x : Int) : Int := fixSeries P (-(fixMul P x x)) (fun i => (2 * i + 2) * (2 * i + 3)) P 0 x
def fixCos (P : Nat) (x : Int) : Int := fixSeries P (-(fixMul P x x)) (fun i => (2 * i + 1) * (2 * i + 2)) P 0 (2 ^ P : Nat)

/-- ±m·2^e in fixed point. -/
def fixOf (P : Nat) (neg : Bool) (m : Nat) (e : Int) : Int :=
  let q := e + P
  signedMant neg (if 0 ≤ q then m <<< q.toNat else m >>> (-q).toNat)

/-- The place of the leading bit of m·2^e. -/
def leadingBit (m : Nat) (e : Int) : Int := (Nat.log2 m : Int) + e

/-! ## The rounding that no rule states -/

/-- n·2^e in a format, brought to the neighbour towards zero, or with `away` to the one beyond it. -/
def froundFree (f : FFormat) (away : Bool) (n : Int) (e : Int) : Nat :=
  let m := n.natAbs
  if m = 0 then 0
  else
    let q := max (leadingBit m e + 1 - f.p) f.emin
    let s := (q - e).toNat
    if q ≤ e ∨ m % 2 ^ s = 0 then fround f (n < 0) m e false
    else if (m >>> s) = 0 ∧ !away then fround f (n < 0) 0 0 false
    else fround f (n < 0) ((m >>> s) + (if away then 1 else 0)) q false

/-- A fixed-point result as an F64. -/
def fixF64 (P : Nat) (away : Bool) (n : Int) : F64 := ⟨BitVec.ofNat 64 (froundFree fmt64 away n (-(P : Int)))⟩

/-! ## sin and cos -/

/-- Which of sin, cos, −sin and −cos of the remainder a quarter turn gives. -/
def quarter (P : Nat) (k : Int) (r : Int) : Int :=
  if k % 4 = 0 then fixSin P r else if k % 4 = 1 then fixCos P r else if k % 4 = 2 then -(fixSin P r) else -(fixCos P r)

/-- sin of ±m·2^e + j quarter turns (j = 1: cos) with its precision: the argument is reduced by quarter turns. -/
def sinFix (j : Int) (neg : Bool) (m : Nat) (e : Int) : Nat × Int :=
  let l := leadingBit m e
  let P := 256 + l.natAbs
  let x := fixOf P neg m e
  let h := fixPi P / 2
  let k := (2 * x + h) / (2 * h)
  (P, quarter P (k + j) (x - k * h))

/-- sin x. The sine of an infinity is stated nowhere: a free value. -/
def sinOf (x : F64) : F64 :=
  match d64 x with
  | .nan => ⟨BitVec.ofNat 64 (fnanBits fmt64)⟩
  | .inf _ => ⟨Config.unstatedResult 0 x.bits 0⟩
  | .fin n m e => if m = 0 then x else let r := sinFix 0 n m e; fixF64 r.1 (Config.roundsAway 0 x.bits 0) r.2

/-- cos x. -/
def cosOf (x : F64) : F64 :=
  match d64 x with
  | .nan => ⟨BitVec.ofNat 64 (fnanBits fmt64)⟩
  | .inf _ => ⟨Config.unstatedResult 1 x.bits 0⟩
  | .fin n m e => let r := sinFix 1 n m e; fixF64 r.1 (Config.roundsAway 1 x.bits 0) r.2

/-! ## atan2 -/

/-- atan of 0 ≤ t ≤ 1. -/
def atanUnit (P : Nat) (t : Int) : Int :=
  let one : Int := (2 ^ P : Nat)
  if 4 * t ≤ one then fixAtan P t
  else if 4 * t ≤ 3 * one then fixAtan P (one / 2) + fixAtan P ((t - one / 2) * one / (one + t / 2))
  else fixPi P / 4 + fixAtan P ((t - one) * one / (one + t))

/-- The argument of x + j·y in (−π, π], from exact magnitudes a of y and b of x in one unit, not both 0. -/
def atan2Fix (P : Nat) (yNeg : Bool) (a : Nat) (xNeg : Bool) (b : Nat) : Int :=
  let one : Int := (2 ^ P : Nat)
  let first := if a ≤ b then atanUnit P (a * one / b) else fixPi P / 2 - atanUnit P (b * one / a)
  let right := if xNeg then fixPi P - first else first
  if yNeg && a != 0 then -right else right

/-- atan2(y, x). At 0, 0 and at infinities no rule states a value: a free value. -/
def atan2Of (y x : F64) : F64 :=
  match d64 y, d64 x with
  | .nan, _ => ⟨BitVec.ofNat 64 (fnanBits fmt64)⟩
  | _, .nan => ⟨BitVec.ofNat 64 (fnanBits fmt64)⟩
  | .fin yn a e, .fin xn b d =>
    if a = 0 ∧ b = 0 then ⟨Config.unstatedResult 2 y.bits x.bits⟩
    else
      let q := min e d
      let P := 256 + (leadingBit (max a 1) e - leadingBit (max b 1) d).natAbs
      fixF64 P (Config.roundsAway 2 y.bits x.bits) (atan2Fix P yn (a <<< (e - q).toNat) xn (b <<< (d - q).toNat))
  | _, _ => ⟨Config.unstatedResult 2 y.bits x.bits⟩

/-- The argument of a complex number. -/
def argOf (c : Cplx) : F64 := atan2Of c.im c.re

/-! ## exp and ln -/

/-- e^x. -/
def expOf (x : F64) : F64 :=
  match d64 x with
  | .nan => ⟨BitVec.ofNat 64 (fnanBits fmt64)⟩
  | .inf n => if n then F64.zero else x
  | .fin n m e =>
    if m = 0 then F64.ofInt 1
    else if 11 ≤ leadingBit m e then
      ⟨BitVec.ofNat 64 (if n then froundFree fmt64 (Config.roundsAway 3 x.bits 0) 1 (-2048) else finfBits fmt64 false)⟩
    else
      let P := 320
      let v := fixOf P n m e
      let k := v / fixLn2 P
      ⟨BitVec.ofNat 64 (froundFree fmt64 (Config.roundsAway 3 x.bits 0) (fixExp P (v - k * fixLn2 P)) (k - P))⟩

/-- ln x. Below 0 no rule states a value: a free value. -/
def lnOf (x : F64) : F64 :=
  match d64 x with
  | .nan => ⟨BitVec.ofNat 64 (fnanBits fmt64)⟩
  | .inf n => if n then ⟨Config.unstatedResult 4 x.bits 0⟩ else x
  | .fin n m e =>
    if m = 0 then ⟨BitVec.ofNat 64 (finfBits fmt64 true)⟩
    else if n then ⟨Config.unstatedResult 4 x.bits 0⟩
    else
      let P := 320
      let one : Int := (2 ^ P : Nat)
      let l := leadingBit m e
      let t := fixOf P false m (e - l)
      let k := if 3 * one < 2 * t then l + 1 else l
      let u := if 3 * one < 2 * t then t / 2 else t
      fixF64 P (Config.roundsAway 4 x.bits 0) (k * fixLn2 P + 2 * fixAtanh P ((u - one) * one / (u + one)))

/-! ## cos and sin of the demodulation (R272) -/

/-- An F32 within 2^-23 of the exact value in F64 arithmetic's reach: the free one where it is so near, else the nearest. -/
def near23 (free : BitVec 32) (P : Nat) (n : Int) : F32 :=
  let within : Bool := match d32 ⟨free⟩ with
    | .fin g m e => decide ((fixOf P g m e - n).natAbs ≤ 2 ^ (P - 23))
    | _ => false
  if within then ⟨free⟩ else ⟨BitVec.ofNat 32 (fround fmt32 (n < 0) n.natAbs (-(P : Int)) false)⟩

/-- cos and sin of an F32 phase, each within 2^-23 of the exact value (R272). -/
def demod (j : Int) (x : F32) : F32 :=
  match d32 x with
  | .fin n m e => let r := sinFix j n m e; near23 (Config.demodulator (j == 1) x.bits) r.1 r.2
  | _ => ⟨BitVec.ofNat 32 (fnanBits fmt32)⟩

end Sys2Proof
end

