-- ==== Sys2Proof/Machine/Ephemeris.lean ====
section
/-! DEFINITION. The Ephemeris time base: rate segments, the time-quality state machine, the reference selection, UTC and
leap seconds, timed outputs and timed inputs (R86–R127). The offset step's effect on the rest of the device is in Steps.lean. -/

namespace Sys2Proof.Machine

/-- Picoseconds as 2^-32 ns, to nearest. -/
def psToEt (ps : Int) : Int := roundDiv (ps * 4294967296) 1000

/-- 2^-32 ns as picoseconds, to nearest. -/
def etToPs (t : Int) : Int := roundDiv (t * 1000) 4294967296

/-- An ET moved by a signed amount, not below 0. -/
def etShift (t : Et) (d : Int) : Et := ((t : Int) + d).toNat

/-- The two's complement of a signed number in `w` bits, as the registers hold it: signed objects hold it as itself. -/
def clampI (lo hi v : Int) : Int := max lo (min hi v)

/-- Values of a signed 64-bit register. -/
def sat64 (v : Int) : Int := clampI (-9223372036854775808) 9223372036854775807 v

namespace State

/-! ## Rate segments -/

/-- A new segment that begins now: base_et takes the ET of this tick under the old one (R90). -/
def fold (s : State) : State := s.modEph (fun e => { e with baseEt := s.et, baseRaw := e.raw })

/-- A write of the increment reaches EPH and waits for its tick (R90). -/
def sendIncrement (s : State) (v : Nat) : State := s.modEph (fun e => { e with newIncrement := some v })

/-- At the tick r_w: fold, then the new increment (R90). -/
def applyIncrement (s : State) : State :=
  match s.eph.newIncrement with
  | none => s
  | some v => (s.fold).modEph (fun e => { e with increment := v, newIncrement := none })

/-- Adds a step to base_et (R93). Where base_et itself would fall below 0 although ET does not, the segment is folded first. -/
def addStep (s : State) (amount : Int) : State :=
  let t := if (s.eph.baseEt : Int) + amount < 0 then s.fold else s
  t.modEph (fun e => { e with baseEt := etShift e.baseEt amount })

/-- The amount of STEP_NS and STEP_FRAC (R92). -/
def stepAmount (s : State) : Int := s.int 0x2000 0x06 * 4294967296 + s.num 0x2000 0x07

/-! ## Time quality (R96, R97) -/

/-- A change of the time-quality state: its ET, and ET_QUALITY_CHANGED (R97). -/
def setQuality (s : State) (q : Nat) : State :=
  if s.num 0x2000 0x09 = q then s
  else
    (((s.setN 0x2000 0x09 q).setN 0x2000 0x0A s.et).modEph (fun e => { e with
      goodRun := 0, badRun := 0, qualitySince := e.raw })).raiseEvent 0 0

/-- Consecutive reports within LOCK_THRESH, which lock at LOCK_COUNT (R96). -/
def countGood (s : State) (good : Bool) : State :=
  if !good then s.modEph (fun e => { e with goodRun := 0 })
  else if s.eph.goodRun + 1 ≥ s.c 0x2000 0x0F then s.setQuality 2
  else s.modEph (fun e => { e with goodRun := e.goodRun + 1 })

/-- A reference is in use from now on: LOCKED and ACQUIRING rest on one, which can be lost (R96). -/
def holdReference (s : State) : State :=
  if s.num 0x2000 0x09 = 1 ∨ s.num 0x2000 0x09 = 2 then s.modEph (fun e => { e with refHeld := true }) else s

/-- A report judged by the state table (R96), o in ps. -/
def judgeReport (s : State) (o : Int) : State :=
  let good := o.natAbs ≤ s.c 0x2000 0x0E * 1000
  let bad := o.natAbs > s.c 0x2000 0x10 * 1000
  match s.num 0x2000 0x09 with
  | 0 => if s.flag 0x2000 0x0D then s.setQuality 1 else s
  | 1 => s.countGood good
  | 2 =>
    if !bad then s.modEph (fun e => { e with badRun := 0 })
    else if s.eph.badRun + 1 ≥ 3 then s.setQuality 1
    else s.modEph (fun e => { e with badRun := e.badRun + 1 })
  | _ => if bad then s.setQuality 1 else s.countGood good

/-- A write of OFFSET_REPORT by the servo owner. -/
def report (s : State) (o : Int) : State :=
  let t := (s.setI 0x2000 0x0C o).modEph (fun e => { e with
    lastReport := e.raw, refHeld := e.refHeld || s.flag 0x2000 0x0D })
  (t.judgeReport o).holdReference

/-- The reference is lost: REF_LOST, and the state table (R96). -/
def loseReference (s : State) : State :=
  let t := (s.modEph (fun e => { e with refHeld := false })).raiseEvent 2 0
  match t.num 0x2000 0x09 with
  | 1 => t.setQuality 0
  | 2 => t.setQuality 3
  | _ => t

/-- A write of REF_PRESENT (R96). -/
def writeRefPresent (s : State) (present : Bool) : State :=
  let t := s.setB 0x2000 0x0D present
  if !present ∧ s.eph.refHeld then t.loseReference else t

/-- No report for REF_TIMEOUT. -/
def refTimeoutDue (s : State) : Bool :=
  s.eph.refHeld && decide (s.raw ≥ s.eph.lastReport + s.c 0x2000 0x11 * tickMs)

/-- HOLDOVER_LIMIT has elapsed in HOLDOVER. -/
def holdoverDue (s : State) : Bool :=
  s.num 0x2000 0x09 == 3 && decide (s.raw ≥ s.eph.qualitySince + s.c 0x2000 0x12 * tickSec)

/-- The time-quality effect of an applied step (R96). A unit that leaves HOLDOVER by it waits REF_TIMEOUT for a report (DESIGN CHOICE,
log entry 89). -/
def qualityAfterStep (s : State) (amount : Int) : State :=
  if s.c 0x2000 0x10 * ns < amount.natAbs ∧ (s.num 0x2000 0x09 = 2 ∨ s.num 0x2000 0x09 = 3) then
    let t := (s.setQuality 1).holdReference
    if s.eph.refHeld then t else t.modEph (fun e => { e with lastReport := e.raw })
  else s

/-! ## References (R101, R126, R127) -/

/-- A reference of a kind (0 none, 1 PTP, 2 IRIG-B, 3 PPS) is present. -/
def refPresent (s : State) (kind : Nat) : Bool :=
  match kind with
  | 1 => s.num 0x2100 0x11 != 0xFF
  | 2 => s.eph.irigRun ≥ 2
  | 3 => s.eph.ppsRun ≥ 2
  | _ => false

/-- The reference the firmware servo selects (R101). -/
def selectedRef (s : State) : Nat :=
  if s.refPresent (s.c 0x2000 0x16) then s.c 0x2000 0x16 else s.c 0x2000 0x17

/-- The ET at which the pending leap takes effect (R102): the end of the present UTC day. A deleted second ends it one second early; an
inserted one changes UTC_OFFSET at the start of 23:59:60 (DESIGN CHOICE, log entry 80). -/
def placeLeap (s : State) : State :=
  let pending := s.num 0x2000 0x15
  let utc : Int := (s.et / sec : Nat) - s.int 0x2000 0x13
  let dayEnd : Int := (utc / 86400 + 1) * 86400 + s.int 0x2000 0x13 - (if pending = 2 then 1 else 0)
  s.modEph (fun e => { e with leapAt := if pending = 0 then none else some (dayEnd.toNat * sec) })

/-- UTC_OFFSET from its source (R102); a change moves the end of the UTC day, unless it has come. -/
def refreshUtc (s : State) : State :=
  let t := s.setI 0x2000 0x13
    (match s.refPresent 1, s.eph.ptpUtc with
     | true, some u => u
     | _, _ => s.cI 0x2000 0x14)
  let due : Bool := match s.eph.leapAt with
    | some l => decide (l ≤ s.et)
    | none => true
  if due ∨ t.int 0x2000 0x13 = s.int 0x2000 0x13 then t else t.placeLeap

/-- LEAP_PENDING from a reference's flags (R102). -/
def setLeap (s : State) (pending : Nat) : State :=
  if s.num 0x2000 0x15 = pending then s else (s.setN 0x2000 0x15 pending).placeLeap

/-- At the ET of a pending leap UTC_OFFSET changes by one second, and nothing else (R102). -/
def leap (s : State) : State :=
  match s.eph.leapAt with
  | none => s
  | some t =>
    if s.et < t then s
    else
      let d : Int := if s.num 0x2000 0x15 = 2 then -1 else 1
      ((s.setI 0x2000 0x13 (s.int 0x2000 0x13 + d)).setN 0x2000 0x15 0).modEph (fun e => { e with
        leapAt := none, lastLeap := some (t, d), ptpUtc := e.ptpUtc.map (· + d) })

/-! ## The firmware servo (R100) -/

/-- An F32 gain as a rational. -/
def gain (s : State) (sub : Nat) : Rat := (s.cF32 0x2000 sub).toRat

/-- The servo's integrator and the increment it writes, for an offset in ns (R100). -/
def servoControl (s : State) (o : Rat) : Rat × Nat :=
  let clamp := fun (x : Rat) => max (-1000000) (min 1000000 x)
  let integ := clamp (s.eph.integ + s.gain 0x1A * o)
  let adj := clamp (-(s.gain 0x19 * o) - integ)
  (integ, (roundRat (10737418240 * (1 + adj / 1000000000))).toNat)

/-! ## Timed outputs (R111–R115) -/

def timedOut (s : State) (n : Nat) : TimedOut := nth s.eph.outs n ⟨false, 0, false, none, 2⟩

def modOut (s : State) (n : Nat) (f : TimedOut → TimedOut) : State :=
  s.modEph (fun e => { e with outs := modNth e.outs n f })

/-- A one-shot whose time has passed: DONE, MISSED and TO_MISSED (R113). -/
def missOut (s : State) (n : Nat) : State :=
  ((s.setN (0x2200 + n) 0x08 3).inc32 (0x2200 + n) 0x0A).raiseEvent 5 0

/-- Arms a one-shot at its ARM_AT, or misses it (R113). -/
def armOut (s : State) (n : Nat) : State :=
  if s.num (0x2200 + n) 0x07 < s.et then s.missOut n else s.setN (0x2200 + n) 0x08 1

/-- A write of ARM_AT (R113): kept while ACTIVE, else armed. -/
def writeArmAt (s : State) (n at_ : Nat) : State :=
  let t := s.setN (0x2200 + n) 0x07 at_
  if t.num (0x2200 + n) 0x08 = 2 then t.modOut n (fun o => { o with rearm := true }) else t.armOut n

/-- The active edge is driven: the width in ticks, rounded up with the present increment (R112). -/
def driveOut (s : State) (n : Nat) : State :=
  let ticks := (s.c (0x2200 + n) 0x05 * ns + s.eph.increment - 1) / s.eph.increment
  ((s.inc32 (0x2200 + n) 0x09).setN (0x2200 + n) 0x0B s.et).modOut n (fun o => { o with
    active := true, endTick := s.raw + ticks })

/-- ET reaches ARM_AT (R113). -/
def oneShotEdge (s : State) (n : Nat) : State :=
  if s.c (0x2200 + n) 0x01 = 1 ∧ s.num (0x2200 + n) 0x08 = 1 ∧ s.num (0x2200 + n) 0x07 ≤ s.et
  then (s.driveOut n).setN (0x2200 + n) 0x08 2 else s

/-- The latest periodic edge time at or before an ET (R114). -/
def periodicEdge (s : State) (n : Nat) (t : Et) : Et :=
  let period := s.c (0x2200 + n) 0x03
  let phase := s.c (0x2200 + n) 0x04
  let k : Int := ((t / ns : Nat) - (phase : Int)) / (period : Int)
  (k * period + phase).toNat * ns

/-- No edge before an ET is due any more: the latest one strictly before it counts as driven (R114). -/
def skipPeriodic (s : State) (n : Nat) : State :=
  let e := s.periodicEdge n s.et
  s.modOut n (fun o => { o with
    lastPeriodic := some (if e < s.et then e else e - s.c (0x2200 + n) 0x03 * ns) })

/-- ET reaches a periodic edge time (R114). -/
def periodicOutEdge (s : State) (n : Nat) : State :=
  let e := s.periodicEdge n s.et
  let due : Bool := match (s.timedOut n).lastPeriodic with
    | none => true
    | some l => decide (l < e)
  if s.c (0x2200 + n) 0x01 = 2 ∧ s.num (0x2200 + n) 0x08 = 4 ∧ due
  then (s.driveOut n).modOut n (fun o => { o with lastPeriodic := some e }) else s

/-- The pulse's tick count elapses (R112, R113). -/
def outPulseEnd (s : State) (n : Nat) : State :=
  let o := s.timedOut n
  if !o.active ∨ s.raw < o.endTick then s
  else
    let t := s.modOut n (fun x => { x with active := false, rearm := false })
    if s.num (0x2200 + n) 0x08 = 2 then
      (if o.rearm then t.armOut n else t.setN (0x2200 + n) 0x08 3)
    else t

/-- A timed output brought to its configured MODE at a start or a commit: OFF idle and inactive, PERIODIC running (R113–R115). -/
def initOut (s : State) (n : Nat) : State :=
  let t := s.modOut n (fun o => { o with active := false, rearm := false, lastPeriodic := none })
  if s.c (0x2200 + n) 0x01 = 2 then (t.setN (0x2200 + n) 0x08 4).skipPeriodic n else t.setN (0x2200 + n) 0x08 0

/-- An offset step on one timed output: a forward step past ARM_AT misses the one-shot, periodic edges follow the new
segment (R113, R114). -/
def stepOut (s : State) (n : Nat) : State :=
  if s.num (0x2200 + n) 0x08 = 1 ∧ s.num (0x2200 + n) 0x07 < s.et then s.missOut n
  else if s.num (0x2200 + n) 0x08 = 4 then s.skipPeriodic n
  else s

/-! ## Timed inputs (R116–R120) -/

/-- ET of an edge at a 128th of the present tick, corrected by IN_DELAY (R108, R116). -/
def edgeEt (s : State) (input tdc : Nat) : Et :=
  etShift (s.et + s.eph.increment * (tdc % 128) / 128) (-(psToEt (s.cI (0x2210 + input) 0x03)))

/-- One capture written into the ring (R116). -/
def capture (s : State) (input : Nat) (t : Et) (rising error : Bool) : State :=
  let q := qMake true (qIf (!s.locked) qTIME_UNLOCKED ||| qIf error qSOURCE_ERROR)
  let n := s.num (0x2210 + input) 0x04
  ((s.setElem (0x2210 + input) 0x05 (n % 64)
      (etBytes t ++ [if rising then 1 else 2, 0] ++ beBytes 2 q.toNat)).incWrap 32 (0x2210 + input) 0x04).setN
    (0x2210 + input) 0x07 t

/-- EDGE selects the edge: 1 rising, 2 falling, 3 both. -/
def edgeSelected (s : State) (input : Nat) (rising : Bool) : Bool :=
  (s.c (0x2210 + input) 0x02).testBit (if rising then 0 else 1)

/-- An edge comes on a timed input; one that is to be captured (`wanted`) is lost within 10 ns of the edge before (R117). The answer tells
whether it can be captured. -/
def takeEdge (s : State) (input tdc : Nat) (wanted : Bool) : State × Bool :=
  let at128 := s.raw * 128 + tdc % 128
  let t := s.modEph (fun e => { e with lastEdge := e.lastEdge.set input (some at128) })
  let near : Bool := match nth s.eph.lastEdge input none with
    | some l => decide (at128 < l + 512)
    | none => false
  if !wanted then (t, false)
  else if near then ((t.inc32 (0x2210 + input) 0x06).raiseEvent 6 0, false)
  else (t, true)

/-- An edge on a timed input with MODE CAPTURE: captured, or lost (R116, R117). The answer tells whether it was captured. -/
def timedEdge (s : State) (input : Nat) (rising : Bool) (tdc : Nat) : State × Bool :=
  let r := s.takeEdge input tdc (s.c (0x2210 + input) 0x01 == 1 && s.edgeSelected input rising)
  if r.2 then (r.1.capture input (s.edgeEt input tdc) rising false, true) else r

/-- The reference run of accepted events, which makes a reference present from the second consecutive one. -/
def bumpRun (n : Nat) : Nat := min 2 (n + 1)

end State

/-- What the pulses of an IRIG-B frame say (R118, R119). -/
structure IrigFrame where
  markersOk : Bool
  parityOk : Bool
  /-- IEEE 1344 time quality, 0–15. -/
  timeQuality : Nat
  /-- The coded time of the on-time point Pr, in seconds since 1970 of the coded scale. -/
  codedSeconds : Int
  /-- IEEE 1344 time offset in minutes: coded time minus UTC. -/
  offsetMinutes : Int
  leapPending : Bool
  leapDelete : Bool
  /-- The daylight-saving bits: pending in bit 0, in force in bit 1. -/
  daylight : Nat
  deriving DecidableEq, Repr

/-- A pulse by its high time in µs: 0, 1, or 2 for a marker, of 2, 5 and 8 ms (PRESUMED, log entry 91). -/
def irigPulse (us : Nat) : Nat := if us < 3500 then 0 else if us < 6500 then 1 else 2

/-- The number that the pulses at some positions carry, each position with its weight. -/
def irigNumber (pulses : List Nat) (places : List (Nat × Nat)) : Nat :=
  (places.map (fun p => if irigPulse (nth pulses p.1 0) = 1 then p.2 else 0)).sum

/-- A BCD digit of four positions. -/
def irigDigit (pulses : List Nat) (first unit : Nat) : Nat :=
  irigNumber pulses [(first, unit), (first + 1, 2 * unit), (first + 2, 4 * unit), (first + 3, 8 * unit)]

/-- A frame's 100 pulses decoded: BCD time of year and year, and the IEEE 1344 control bits (PRESUMED, log entry 91). -/
def irigDecode (pulses : List Nat) : IrigFrame :=
  let bit := fun (i : Nat) => irigPulse (nth pulses i 0) == 1
  let second := irigDigit pulses 1 1 + irigNumber pulses [(6, 10), (7, 20), (8, 40)]
  let minute := irigDigit pulses 10 1 + irigNumber pulses [(15, 10), (16, 20), (17, 40)]
  let hour := irigDigit pulses 20 1 + irigNumber pulses [(25, 10), (26, 20)]
  let day := irigDigit pulses 30 1 + irigDigit pulses 35 10 + irigNumber pulses [(40, 100), (41, 200)]
  let year := irigDigit pulses 50 1 + irigDigit pulses 55 10
  let days : Int := 10957 + 365 * year + (year + 3) / 4 + day - 1
  let offset : Int := 60 * irigDigit pulses 65 1 + (if bit 70 then 30 else 0)
  { markersOk := pulses.length == 100 &&
      (List.range 100).all (fun i => (irigPulse (nth pulses i 0) == 2) == (i == 0 || i % 10 == 9))
    parityOk := ((List.range 76).filter bit).length % 2 == 0
    timeQuality := irigDigit pulses 71 1
    codedSeconds := ((days * 24 + hour) * 60 + minute) * 60 + second
    offsetMinutes := if bit 64 then -offset else offset
    leapPending := bit 60, leapDelete := bit 61, daylight := bitsOfList [bit 62, bit 63] }

namespace State

/-- An IRIG-B frame (R118, R119), at its on-time point: its Pr edge is captured; an invalid frame is counted; a valid one is accepted when
it follows a valid one by exactly a second. A frame whose Pr edge is lost (R117) has no on-time point, and nothing more comes of it. -/
def irig (s : State) (pulses : List Nat) (tdc : Nat) : State :=
  let r := s.takeEdge 0 tdc (s.c 0x2210 0x01 == 2)
  if !r.2 then r.1
  else
    let f := irigDecode pulses
    let t0 := s.edgeEt 0 tdc
    let s1 := ((r.1.capture 0 t0 true false).setN 0x2210 0x09 f.timeQuality).modEph (fun e => { e with irigDst := f.daylight })
    if !(f.markersOk && f.parityOk && f.timeQuality ≤ s.c 0x2210 0x0B) then
      ((s1.inc32 0x2210 0x0A).modEph (fun e => { e with
        irigValid := false, irigRun := if e.irigRun < 2 then 0 else e.irigRun })).raiseEvent 7 0
    else
      let follows := s.eph.irigValid && decide (s.raw ≤ s.eph.irigTick + 440000000)
      let s2 := s1.modEph (fun e => { e with irigValid := true, irigSecond := f.codedSeconds, irigTick := e.raw })
      if follows ∧ f.codedSeconds = s.eph.irigSecond + 1 then
        let utc := f.codedSeconds - f.offsetMinutes * 60
        let t := (utc + s.int 0x2000 0x13).toNat * sec
        let s3 := (s2.setN 0x2210 0x08 t).modEph (fun e => { e with
          irigRun := bumpRun e.irigRun, irigAccepted := e.raw, irigEt := t0, irigUnlocked := !s.locked })
        if s3.refPresent 1 then s3
        else s3.setLeap (if !f.leapPending then 0 else if f.leapDelete then 2 else 1)
      else s2.modEph (fun e => { e with irigRun := if e.irigRun < 2 then 0 else e.irigRun })

/-- 3 s without an accepted IRIG-B frame (R126). -/
def irigTimeout (s : State) : State :=
  if s.eph.irigRun ≥ 2 ∧ s.raw ≥ s.eph.irigAccepted + 3 * tickSec
  then s.modEph (fun e => { e with irigRun := 0 }) else s

/-- The time of day that places a PPS edge (R101): the other configured reference's while it is present, else ET. -/
def ppsTimeOfDay (s : State) (t : Et) : Et :=
  let other := if s.c 0x2000 0x16 = 3 then s.c 0x2000 0x17 else s.c 0x2000 0x16
  if other = 1 ∧ s.refPresent 1 then etShift t (-(psToEt (s.int 0x2100 0x0E)))
  else if other = 2 ∧ s.refPresent 2 then etShift (s.num 0x2210 0x08) ((t : Int) - s.eph.irigEt)
  else t

/-- A PPS edge (R120, R127): captured when its high time is 1 µs to 900 ms and it is not lost (R117), accepted within ±100 ms of a whole
second. Edges more than 3 s apart are not consecutive; an edge that is not captured breaks no run (DESIGN CHOICE, log entry 82). -/
def pps (s : State) (tdc highTimeNs : Nat) : State :=
  let e := s.takeEdge 1 tdc (s.c 0x2211 0x01 == 3 && decide (1000 ≤ highTimeNs) && decide (highTimeNs ≤ 900000000))
  if !e.2 then e.1
  else
    let t := s.edgeEt 1 tdc
    let r := s.ppsTimeOfDay t % sec
    let ok := r ≤ 100 * ms ∨ sec - 100 * ms ≤ r
    let s1 := e.1.capture 1 t true (!decide ok)
    if ok then s1.modEph (fun x => { x with
      ppsRun := if x.raw < x.ppsAccepted + 3 * tickSec then bumpRun x.ppsRun else 1, ppsAccepted := x.raw })
    else s1.modEph (fun x => { x with ppsRun := if x.ppsRun < 2 then 0 else x.ppsRun })

/-- A commit sets the MODE of a timed input: IRIG-B primes its comparison anew (R119), and a run of PPS edges that is not yet a reference
ends (R127). -/
def initInput (s : State) (input : Nat) : State :=
  if input = 0 then s.modEph (fun e => { e with irigValid := false })
  else if input = 1 then s.modEph (fun e => { e with ppsRun := if e.ppsRun < 2 then 0 else e.ppsRun })
  else s

/-- 3 s without an accepted PPS edge (R127). -/
def ppsTimeout (s : State) : State :=
  if s.eph.ppsRun ≥ 2 ∧ s.raw ≥ s.eph.ppsAccepted + 3 * tickSec
  then s.modEph (fun e => { e with ppsRun := 0 }) else s

end State

/-! ## The commands of this file -/

/-- INCREMENT_APPLY (R90). -/
def execIncrementApply (s : State) : Host.Outcome State Fault Refusal := complete s State.applyIncrement

/-- REF_TIMEOUT (R96): nothing happens before it is due. -/
def execRefTimeout (s : State) : Host.Outcome State Fault Refusal :=
  complete s (fun s => if s.refTimeoutDue then s.loseReference else s)

/-- HOLDOVER_LIMIT_EXPIRY (R96). -/
def execHoldoverLimitExpiry (s : State) : Host.Outcome State Fault Refusal :=
  complete s (fun s => if s.holdoverDue then s.setQuality 0 else s)

/-- LEAP_SECOND (R102). -/
def execLeapSecond (s : State) : Host.Outcome State Fault Refusal := complete s State.leap

/-- TO_ONE_SHOT_EDGE (R113). -/
def execToOneShotEdge (out : Fin 8) (s : State) : Host.Outcome State Fault Refusal :=
  complete s (fun s => s.oneShotEdge out.val)

/-- TO_PERIODIC_EDGE (R114). -/
def execToPeriodicEdge (out : Fin 8) (s : State) : Host.Outcome State Fault Refusal :=
  complete s (fun s => s.periodicOutEdge out.val)

/-- TO_PULSE_END (R112). -/
def execToPulseEnd (out : Fin 8) (s : State) : Host.Outcome State Fault Refusal :=
  complete s (fun s => s.outPulseEnd out.val)

/-- IRIG_FRAME (R119). -/
def execIrigFrame (pulses : Stamped (List Nat)) (s : State) : Host.Outcome State Fault Refusal :=
  complete s (fun s => s.irig pulses.item pulses.tdc)

/-- IRIG_REFERENCE_TIMEOUT (R126). -/
def execIrigReferenceTimeout (s : State) : Host.Outcome State Fault Refusal := complete s State.irigTimeout

/-- PPS_EDGE (R120). -/
def execPpsEdge (tdc highTimeNs : Nat) (s : State) : Host.Outcome State Fault Refusal :=
  complete s (fun s => s.pps tdc highTimeNs)

/-- PPS_REFERENCE_TIMEOUT (R127). -/
def execPpsReferenceTimeout (s : State) : Host.Outcome State Fault Refusal := complete s State.ppsTimeout

end Sys2Proof.Machine
end

