-- ==== Sys2Proof/Machine/Local.lean ====
section
/-! DEFINITION. Local channels: the sample grid, delays, the tracking resampler, synchronising resets, phasors, frequency
and input supervision (R128–R173). -/

namespace Sys2Proof.Machine

/-- Key of a fault qualifier: chapter group, number and kind. -/
def qkey (group n kind : Nat) : Nat := (group * 65536 + n) * 8 + kind

/-- A rational number of seconds as an ET span, rounded to nearest, ties away from zero (R136). -/
def ratToEt (q : Rat) : Int := roundRat (q * 4294967296000000000)

/-- An ET span in seconds. -/
def etToRat (t : Int) : Rat := mkRat t 4294967296000000000

/-- e^(jx). -/
def expj (x : F64) : Cplx := ⟨cosOf x, sinOf x⟩

/-- The advance Δp = 187.5 / f_est, in F64, rounded to nearest at 2^-32 (R142). -/
def advanceOf (fEst : F64) : Nat :=
  (roundRat (((F64.ofRat (375 / 2)).div fEst).toRat * 4294967296)).toNat

namespace State

def channel (s : State) (ch : Nat) : Channel := nth s.loc.channels ch ⟨[], [], [], false, 0, 0, 0, none, false⟩

def modChannel (s : State) (ch : Nat) (f : Channel → Channel) : State :=
  s.modLoc (fun l => { l with channels := modNth l.channels ch f })

def chainState (s : State) : Nat := s.num 0x3200 0x0B

/-- The chain emits samples: SETTLING or RUNNING. -/
def chainOn (s : State) : Bool := s.chainState ≥ 2

/-! ## Delays and timestamps (R136–R141) -/

/-- g in force at fixed-rate sample k: a slew or a step in between leaves the stamps of earlier samples as they are (R137). -/
def gridAt (s : State) (k : Nat) : Int := ((s.loc.grids.find? (fun x => x.1 ≤ k)).map (·.2)).getD s.loc.grid

/-- t_k = S + g + k × 20,833⅓ ns in the present epoch (R136). -/
def fixedEt (s : State) (k : Nat) : Et := etShift s.loc.epoch (s.gridAt k + ratToEt (mkRat k 48000))

/-- The exact instant of a position in fixed-rate samples (32 fraction bits), as seconds after S + g (R142). -/
def positionSec (p : Nat) : Rat := mkRat p (48000 * 4294967296)

/-- τ of a position: S + g + p / 48,000 s, rounded as in R136 (R142). -/
def positionEt (s : State) (p : Nat) : Et := etShift s.loc.epoch (s.gridAt (p / 4294967296) + ratToEt (positionSec p))

/-- g moved: for the next fixed-rate sample and those after it (R137). -/
def setGrid (s : State) (g : Int) : State :=
  (s.modLoc (fun l => { l with
    grid := g, grids := (l.nextFixed, g) :: l.grids.filter (fun x => decide (x.1 < l.nextFixed)) })).setI 0x3200 0x0A (etToPs g)

/-! ## Supervision (R164–R168) -/

/-- Any of the channel's three conditions is present, or a qualifier LASTING (R168). -/
def supervisionError (s : State) (ch : Nat) : Bool := s.num (0x3000 + ch) 0x09 != 0

/-- A supervision condition (0 open, 1 short, 2 reversal) becomes present or absent: a change to present is one
occurrence, which counts in SUP_TRANSIENTS unless it makes the qualifier LASTING (R167). -/
def setCondition (s : State) (ch kind : Nat) (present : Bool) : State :=
  let st := s.num (0x3000 + ch) 0x09
  if st.testBit kind = present then s
  else
    let t := s.setN (0x3000 + ch) 0x09 (setBit st kind present)
    if !present then t
    else
      match t.occurs (qkey 1 ch kind) (s.c (0x3000 + ch) 0x07) (s.c (0x3000 + ch) 0x08) with
      | (u, .became) =>
        (u.setN (0x3000 + ch) 0x09 (setBit (u.num (0x3000 + ch) 0x09) (4 + kind) true)).raiseEvent (48 + kind) ch
      | (u, _) => u.inc32 (0x3000 + ch) 0x0A

/-- A condition that its SUP_ENABLE bit allows (R168). -/
def supEnabled (s : State) (ch kind : Nat) : Bool :=
  (s.c (0x3000 + ch) 0x06).testBit kind && s.cB (0x3000 + ch) 0x01

/-- The 1 ms open-wire sample (R164): present from the second consecutive sample outside, until the second inside. -/
def openSample (s : State) (ch : Nat) (outside : Bool) : State :=
  if s.chainState = 0 ∨ !s.cB (0x3000 + ch) 0x05 ∨ !s.supEnabled ch 0 then s
  else
    let x := s.channel ch
    let o := if outside then min 2 (x.outRun + 1) else 0
    let i := if outside then 0 else min 2 (x.inRun + 1)
    let t := s.modChannel ch (fun x => { x with outRun := o, inRun := i })
    if o ≥ 2 then t.setCondition ch 0 true else if i ≥ 2 then t.setCondition ch 0 false else t

/-- The short condition from its two parts (R165). -/
def updateShort (s : State) (ch : Nat) : State :=
  if !s.supEnabled ch 1 then s
  else s.setCondition ch 1 (decide ((s.channel ch).overRun ≥ 48) || (s.channel ch).dcShort)

/-- The 200 ms mean, evaluated every 10 ms (R165): DC, and its part of the short condition. -/
def shortEvaluation (s : State) (ch : Nat) : State :=
  if !s.chainOn ∨ !s.cB (0x3000 + ch) 0x01 then s
  else
    let xs := (s.channel ch).fixed.take 9600
    let mean : Rat := if xs.isEmpty then 0 else (xs.map (fun x => x.value.toRat)).sum / 9600
    let limit : Rat := (s.cF32 (0x3000 + ch) 0x02).toRat / 10
    let t := s.setF32 (0x3000 + ch) 0x0E (F32.ofRat mean)
    (t.modChannel ch (fun x => { x with dcShort := decide (limit ≤ mean) || decide (mean ≤ -limit) })).updateShort ch

/-- After a commit: the conditions that their SUP_ENABLE bit, OPEN_BIAS or DIRECTION no longer allows are absent (R164, R166, R168). -/
def dropConditions (s : State) (ch : Nat) : State :=
  let a := if s.supEnabled ch 0 ∧ s.cB (0x3000 + ch) 0x05 then s
    else (s.modChannel ch (fun x => { x with outRun := 0, inRun := 0 })).setCondition ch 0 false
  let b := if a.supEnabled ch 1 then a else a.setCondition ch 1 false
  if b.supEnabled ch 2 ∧ b.c (0x3100 + ch / 6) 0x04 ≠ 0 then b else b.setCondition ch 2 false

/-- SUP_CLEAR of a channel (R168, R523): the latches and the occurrence histories. -/
def clearSupervision (s : State) (ch : Nat) : State :=
  (((s.clearQualifier (qkey 1 ch 0)).clearQualifier (qkey 1 ch 1)).clearQualifier (qkey 1 ch 2)).setN (0x3000 + ch) 0x09
    (s.num (0x3000 + ch) 0x09 % 8)

/-! ## Fixed-rate samples (R130–R136) -/

/-- A code as a primary value (R130): F32 of the code times FULL_SCALE, over 2^31, negated by INVERT. -/
def primary (s : State) (ch : Nat) (code : Int) : F32 :=
  let v := ((F32.ofInt code).mul (s.cF32 (0x3000 + ch) 0x02)).div (F32.ofInt 2147483648)
  if s.cB (0x3000 + ch) 0x04 then v.neg else v

/-- The flags of a sample of a channel now (R98, R131, R148, R168), before OVERRANGE. -/
def sampleFlags (s : State) (ch : Nat) : Quality :=
  qIf (decide (s.loc.nextFixed < 128)) qSETTLING ||| qIf (!s.locked) qTIME_UNLOCKED |||
  qIf (!s.cB (0x3000 + ch) 0x01) qABSENT |||
  qIf (s.supervisionError ch || (s.channel ch).calFailed) qSOURCE_ERROR

/-- One channel's share of a fixed-rate sample: the delay line, overrange, the value and its quality. -/
def channelSample (s : State) (ch : Nat) (code : Int) : State :=
  let x := s.channel ch
  let line := (code :: x.line).take 64
  let out := nth line (s.delaySamples ch) 0
  let ovr := s.cB (0x3000 + ch) 0x01 && decide (out.natAbs ≥ 0x78000000)
  let first : Bool := match x.lastOver with
    | none => true
    | some t => decide (t + tickSec ≤ s.raw)
  let s1 := s.modChannel ch (fun x => { x with
    line := line
    overRun := if ovr then min 48 (x.overRun + 1) else 0
    lastOver := if ovr then some s.raw else x.lastOver })
  let s2 := if ovr then s1.inc32 (0x3000 + ch) 0x10 else s1
  let s3 := if ovr ∧ first then s2.raiseEvent 51 ch else s2
  let s4 := s3.updateShort ch
  let flags := s4.sampleFlags ch ||| qIf ovr qOVERRANGE
  let v := if s.cB (0x3000 + ch) 0x01 then s.primary ch out else absentValue
  (s4.setN (0x3000 + ch) 0x0F (qMake true flags).toNat).modChannel ch (fun x => { x with
    fixed := (⟨out, v, flags⟩ :: x.fixed).take 9600 })

/-- The grid moves one tick towards g = 0 per sample, until |g| < 2.5 ns (R137). -/
def slewGrid (s : State) : State :=
  let tick : Int := 10737418240
  let g := s.loc.grid
  let g' := if g ≥ tick then g - tick else if g ≤ -tick then g + tick else g
  if g' = g then s else s.setGrid g'

/-- A 48 kS/s sample of every channel (R136). Codes beyond the list's end are 0. -/
def fixedSample (s : State) (codes : List Int) : State :=
  if !s.chainOn then s
  else
    let s0 := if s.loc.nextFixed = 0 then s else s.slewGrid
    let s1 := (List.range 48).foldl (fun t ch => t.channelSample ch (nth codes ch 0)) s0
    let s2 := s1.modLoc (fun l => { l with nextFixed := l.nextFixed + 1 })
    if s2.loc.nextFixed = 128 ∧ s2.chainState = 2 then s2.setN 0x3200 0x0B 3 else s2

/-! ## The resampler (R142, R143) -/

/-- Fixed-rate sample k of a channel; before sample 0 the flushed chain holds zeros. -/
def fixedAt (s : State) (ch : Nat) (k : Int) : FixedSample :=
  if k < 0 then ⟨0, F32.zero, 0#16⟩
  else nth (s.channel ch).fixed (s.loc.nextFixed - 1 - k.toNat) ⟨0, F32.zero, 0#16⟩

/-- The base sample and coefficient phase of channel c at the present position (R143). -/
def tap0 (s : State) (ch : Nat) : Int × Nat :=
  let p' : Int := (s.loc.position : Int) - s.residual ch * 4194304
  let base := p' / 4294967296
  let phase := (roundDiv ((p' % 4294967296) * 1024) 4294967296).toNat
  if phase = 1024 then (base + 1, 0) else (base, phase)

/-- The tracked sample of a channel at the present position (R143). -/
def trackedOf (s : State) (ch : Nat) : TrackedSample :=
  let bp := s.tap0 ch
  let xs := (List.range 32).map (fun (i : Nat) => s.fixedAt ch (bp.1 - 15 + (i : Int)))
  let v := F64.sum (List.zipWith (fun (x : FixedSample) i =>
    F64.mul ⟨Config.resamplerTap bp.2 i⟩ x.value.to64) xs (List.range 32))
  ⟨v, qUnion (xs.map (·.flags))⟩

/-- Every channel's window at the present position lies among the emitted samples. -/
def windowReady (s : State) : Bool :=
  (List.range 48).all (fun ch => (s.tap0 ch).1 + 16 < s.loc.nextFixed)

/-- A tracked sample of every channel (R142): once its window is there and no cycle boundary waits. The 64-bit position register holds
`position` modulo 2^64; instants and windows go on beyond it (DESIGN CHOICE, log entry 92). -/
def trackedSample (s : State) : State :=
  if !s.chainOn ∨ s.loc.boundaryDue ∨ !s.windowReady then s
  else
    let s1 := (List.range 48).foldl (fun t ch => t.modChannel ch (fun x => { x with
      tracked := (s.trackedOf ch :: x.tracked).take 2560 })) s
    s1.modLoc (fun l => { l with
      nextTracked := l.nextTracked + 1, position := l.position + l.advance
      boundaryDue := (l.nextTracked + 1) % 256 == 0 })

/-- Tracked sample j of a channel; none before sample 0, past the newest or beyond the history. -/
def trackedAt (s : State) (ch : Nat) (j : Int) : Option TrackedSample :=
  if j < 0 ∨ j ≥ s.loc.nextTracked then none
  else (s.channel ch).tracked[s.loc.nextTracked - 1 - j.toNat]?

/-! ## Phasors (R151–R155) -/

/-- The window weight w[n] (R153): class P triangular, class M sin². -/
def weight (m : Bool) (n : Nat) : F64 :=
  if m then
    let a := (pi64.mul ((F64.ofInt n).add (F64.ofRat (1 / 2)))).div (F64.ofInt 1536)
    (sinOf a).mul (sinOf a)
  else F64.ofRat (1 - absRat ((n : Rat) - 511 / 2) / 256)

/-- The complex phasor of samples with weights (R152): sqrt(2)/sum(w) × Σ w x e^(−j2π(n − c)/256). -/
def phasorOf (xs : List F64) (ws : List F64) : Cplx :=
  let n := xs.length
  let c : Rat := ((n : Rat) - 1) / 2
  let terms := List.zipWith (fun (xw : F64 × F64) (i : Nat) =>
      Cplx.scale (xw.2.mul xw.1) (expj (((twoPi64.mul (F64.ofRat ((i : Rat) - c))).div (F64.ofInt 256)).neg)))
    (xs.zip ws) (List.range n)
  Cplx.scale ((F64.sqrt (F64.ofInt 2)).div (F64.sum ws)) (terms.foldl Cplx.add Cplx.zero)

/-- The samples i0 … i0 + n − 1 of a channel; none when one is missing. -/
def window (s : State) (ch : Nat) (i0 : Int) (n : Nat) : Option (List TrackedSample) :=
  ((List.range n).map (fun (i : Nat) => s.trackedAt ch (i0 + i))).foldr
    (fun o acc => match o, acc with
      | some x, some l => some (x :: l)
      | _, _ => none) (some [])

/-- The boundary in force at a tracked index: the latest one at or before it. -/
def boundaryFor (s : State) (j : Nat) : Boundary :=
  (s.loc.boundaries.find? (fun b => b.j ≤ j)).getD ⟨0, 0, s.loc.advance⟩

/-- The position of tracked sample j (32 fraction bits). -/
def positionOf (s : State) (j : Int) : Int :=
  let b := s.boundaryFor j.toNat
  (b.p : Int) + (j - b.j) * b.dp

/-- An ET in seconds after S + g, with the g in force at its sample (R137). -/
def epochSec (s : State) (t : Rat) : Rat :=
  let at_ := fun (g : Int) => t - etToRat ((s.loc.epoch : Int) + g)
  at_ (s.gridAt (at_ s.loc.grid * 48000).floor.toNat)

/-- A reporting instant in seconds after S + g. -/
def reportSec (s : State) (k rate : Nat) : Rat := s.epochSec (mkRat k rate)

/-- j_r of R151 for an instant given in seconds after S + g. -/
def trackedIndex (s : State) (x : Rat) : F64 :=
  let b := (s.loc.boundaries.find? (fun b => decide (positionSec b.p ≤ x))).getD ⟨0, 0, s.loc.advance⟩
  let num := ((F64.ofRat x).mul (F64.ofInt 48000)).sub (F64.ofRat (mkRat b.p 4294967296))
  (F64.ofInt b.j).add (num.div (F64.ofRat (mkRat b.dp 4294967296)))

/-- The first sample of an n-sample window centred on j_r (R151). -/
def windowStart (jr : F64) (n : Nat) : Int := (jr.toRat - ((n : Rat) - 1) / 2).floor

/-- t_c of a window, in seconds after S + g: half way between its two middle samples (R151). -/
def windowCentre (s : State) (i0 : Int) (n : Nat) : Rat :=
  let m : Int := i0 + ((n / 2 : Nat) : Int)
  ((s.positionOf (m - 1) + s.positionOf m : Int) : Rat) / (2 * 48000 * 4294967296)

/-- a = e^(j2π/3) and the sequence phasors of R154. -/
def seqA : Cplx := expj (twoPi64.div (F64.ofInt 3))
def sequences (a b c : Cplx) : Cplx × Cplx × Cplx :=
  let third := fun (x : Cplx) => (⟨x.re.div (F64.ofInt 3), x.im.div (F64.ofInt 3)⟩ : Cplx)
  let a2 := seqA.mul seqA
  (third ((a.add (seqA.mul b)).add (a2.mul c)), third ((a.add (a2.mul b)).add (seqA.mul c)), third ((a.add b).add c))

/-- ψ at the instant: arg + 2π f_est δ, and the angle of R152. -/
def angleOf (s : State) (x : Cplx) (delta : Rat) (tr : Rat) : F64 :=
  let psi := (argOf x).add ((twoPi64.mul s.loc.fEst).mul (F64.ofRat delta))
  let turn := (twoPi64.mul (F64.ofInt (s.c 0x3200 0x01))).mul (F64.ofRat (tr - tr.floor))
  (psi.sub turn).wrap

/-- Phases made continuous: each differs from the one before by less than half a turn. -/
def unwrap : F64 → List F64 → List F64
  | _, [] => []
  | prev, x :: rest =>
    let y := prev.add ((x.sub prev).wrap)
    y :: unwrap y rest

/-- The least-squares fit ψ = a0 + b·τ + q·τ² over symmetric τ: b and q (R156). -/
def fitPhase (taus psis : List F64) : F64 × F64 :=
  let n := F64.ofInt taus.length
  let t2 := taus.map (fun t => t.mul t)
  let s2 := F64.sum t2
  let s4 := F64.sum (t2.map (fun t => t.mul t))
  let sp := F64.sum psis
  let st := F64.sum (List.zipWith F64.mul taus psis)
  let st2 := F64.sum (List.zipWith F64.mul t2 psis)
  (st.div s2, ((n.mul st2).sub (s2.mul sp)).div ((n.mul s4).sub (s2.mul s2)))

/-- The rectangular one-cycle positive-sequence (or phase-A) sub-phasor from i0 (R156, R158). -/
def subPhasor (s : State) (bay : Nat) (phaseA : Bool) (i0 : Int) : Option Cplx :=
  let ones := List.replicate 256 (F64.ofInt 1)
  let ph := fun (c : Nat) => (s.window (6 * bay + c) i0 256).map (fun w => phasorOf (w.map (·.value)) ones)
  match ph 0, ph 1, ph 2 with
  | some a, some b, some c => some (if phaseA then a else (sequences a b c).1)
  | _, _, _ => none

/-- Frequency and ROCOF at a tracked index (R156): M sub-phasors at half-cycle steps. none when one is missing. -/
def frequency (s : State) (bay : Nat) (phaseA : Bool) (m : Nat) (jr : F64) (tr : Rat) : Option (F64 × F64) :=
  let offs := (List.range m).map (fun (i : Nat) => (i : Rat) - ((m : Rat) - 1) / 2)
  let one := fun (o : Rat) =>
    let j := F64.ofRat (jr.toRat + o * 128)
    let i0 := windowStart j 256
    match s.subPhasor bay phaseA i0 with
    | none => none
    | some x =>
      let tau := (F64.ofRat (o / 2)).div s.loc.fEst
      let delta := tr + tau.toRat - s.windowCentre i0 256
      some (tau, ((argOf x).add ((twoPi64.mul s.loc.fEst).mul (F64.ofRat delta))).sub (pi64.mul (F64.ofRat o)))
  let rs := offs.map one
  if rs.any Option.isNone then none
  else
    let ps := rs.filterMap id
    let psis := match ps.map (·.2) with
      | [] => []
      | p :: rest => p :: unwrap p rest
    let bq := fitPhase (ps.map (·.1)) psis
    some (s.loc.fEst.add (bq.1.div twoPi64), bq.2.div pi64)

/-! ## Tracking (R144, R145, R158) -/

/-- RMS of a channel over the last tracked cycle. -/
def cycleRms (s : State) (ch : Nat) : F32 :=
  let xs := ((s.channel ch).tracked.take 256).map (·.value)
  ((F64.sum (xs.map (fun x => x.mul x))).div (F64.ofInt 256)).sqrt.to32

/-- The reference at a boundary: its frequency when it is valid (R144). The 512 tracked samples that end at the boundary
are its span (DESIGN CHOICE, log entry 21). -/
def reference (s : State) : Option F64 :=
  let bay := s.c 0x3200 0x02
  let i0 : Int := (s.loc.nextTracked : Int) - 512
  let ws := (List.range 3).map (fun c => s.window (6 * bay + c) i0 512)
  if i0 < 0 ∨ ws.any Option.isNone then none
  else
    let samples := ws.filterMap id
    let tri := (List.range 512).map (weight false)
    let ph := samples.map (fun w => phasorOf (w.map (·.value)) tri)
    let v1 := (sequences (nth ph 0 Cplx.zero) (nth ph 1 Cplx.zero) (nth ph 2 Cplx.zero)).1
    let used := if s.c 0x3200 0x03 = 1 then samples.take 1 else samples
    let q := qDerive (used.map (fun w => qUnion (w.map (·.flags))))
    let jr := F64.ofRat ((i0 : Rat) + 511 / 2)
    match s.frequency bay (s.c 0x3200 0x03 = 1) 3 jr (s.windowCentre i0 512) with
    | none => none
    | some (f, _) =>
      let vMin := (s.cF32 (0x3100 + bay) 0x06).to64.div (F64.ofInt 3).sqrt
      if qValid q ∧ (F64.ofInt 40).le f ∧ f.le (F64.ofInt 70) ∧
         (vMin.div (F64.ofInt 10)).le v1.abs then some f else none

/-- f_est moved towards the reference by at most 0.25 Hz (R144). -/
def approach (fEst f : F64) : F64 :=
  let step := F64.ofRat (1 / 4)
  if (fEst.add step).lt f then fEst.add step
  else if f.lt (fEst.sub step) then fEst.sub step
  else f

/-- A new f_est and its advance, in force from this boundary. -/
def setFEst (s : State) (f : F64) : State :=
  (s.modLoc (fun l => { l with
    fEst := f, advance := advanceOf f
    boundaries := (⟨l.nextTracked, l.position, advanceOf f⟩ :: l.boundaries).take 16 })).setF32 0x3200 0x04 f.to32

/-- A tracked-cycle boundary (R144, R145): RMS of the cycle, then f_est and the tracking state. -/
def cycleBoundary (s : State) : State :=
  if !s.loc.boundaryDue then s
  else
    let s0 := (List.range 48).foldl (fun t ch => t.setF32 (0x3000 + ch) 0x0D (s.cycleRms ch))
      (s.modLoc (fun l => { l with boundaryDue := false }))
    let nominal := F64.ofInt (s.c 0x3200 0x01)
    match s.reference, s.num 0x3200 0x05 with
    | some f, 1 => s0.setFEst (approach s.loc.fEst f)
    | none, 1 =>
      ((((s0.setFEst nominal).setN 0x3200 0x05 0).inc32 0x3200 0x06).modLoc (fun l => { l with validRun := 0 })).raiseEvent 54
        (s.c 0x3200 0x02)
    | some f, _ =>
      if s.loc.validRun + 1 ≥ 5 then
        ((s0.setFEst (approach s.loc.fEst f)).setN 0x3200 0x05 1).modLoc (fun l => { l with validRun := 0 })
      else (s0.setFEst s.loc.fEst).modLoc (fun l => { l with validRun := l.validRun + 1 })
    | none, _ => (s0.setFEst nominal).modLoc (fun l => { l with validRun := 0 })

/-! ## Synchronising resets (R146–R149) -/

/-- A cause of a synchronising reset (R146, R147): starts one, joins the one that waits, or is not held while the chain is OFF. -/
def syncCause (s : State) : State :=
  if s.chainState = 0 ∨ s.loc.waiting.isSome then s
  else
    let due := (s.et + 100 * ms + sec - 1) / sec * sec
    (s.modLoc (fun l => { l with waiting := some due })).setN 0x3200 0x0B 1

/-- A channel with its filters, delay line and histories flushed (R147). -/
def Channel.flush (x : Channel) : Channel := { x with line := [], fixed := [], tracked := [], overRun := 0 }

/-- S of the waiting reset has come. -/
def syncDue (s : State) : Option Et :=
  match s.loc.waiting with
  | some t => if t ≤ s.et then some t else none
  | none => none

/-- Sample 0 (R145, R147–R149): the flushed chain starts a new epoch at S with g = 0 in FALLBACK, SYNC_RESET is raised,
and a waiting SYNC_RESET_CMD ends DONE. -/
def sampleZero (s : State) (epoch : Et) : State :=
  let f := F64.ofInt (s.c 0x3200 0x01)
  let s1 := s.modLoc (fun l => { l with
    waiting := none, epoch := epoch, grid := 0, grids := [(0, 0)], nextFixed := 0, nextTracked := 0, position := 0
    advance := advanceOf f, boundaryDue := false, boundaries := [⟨0, 0, advanceOf f⟩], fEst := f, validRun := 0
    channels := l.channels.map Channel.flush
    bays := (List.range 8).map (fun b =>
      ⟨(epoch * s.c (0x3100 + b) 0x03 + sec - 1) / sec, 0⟩) })
  let s2 := (((((s1.setF32 0x3200 0x04 f.to32).setN 0x3200 0x05 0).setN 0x3200 0x0B 2).inc32 0x3200 0x08).setN 0x3200 0x09
    epoch).setI 0x3200 0x0A 0
  let s3 := s2.raiseEvent 53 0
  if s3.resultState 0x3201 = 1 then s3.finishCmd 0x3201 0 (etBytes epoch) else s3

/-- An offset step on the sample grid (R137, R138): up to 1 µs it adds to g, above it starts a synchronising reset. -/
def stepGrid (s : State) (amount : Int) : State :=
  if us < amount.natAbs then s.syncCause
  else if s.chainState = 0 then s
  else s.setGrid (s.loc.grid + amount)

/-! ## Bay reports (R150–R163) -/

/-- A value entry of a local result: F32 and quality (R162); an ABSENT one as R243 states. -/
def entryOf (v : F64) (flags : Quality) : Entry :=
  if qBit flags qABSENT then ⟨absentValue, qMake false flags, 0xFFFF⟩ else ⟨v.to32, qMake true flags, 0⟩

/-- The P/Q pair of a phase in MW and Mvar (R155). -/
def powerOf (v i : Cplx) : F64 × F64 :=
  let p := v.mul i.conj
  (p.re.div (F64.ofInt 1000), p.im.div (F64.ofInt 1000))

/-- The reversal conditions of a bay from a P-class result (R166): per current phase, from the phase powers. -/
def reversal (s : State) (bay : Nat) (p : List F64) (blocked : Bool) : State :=
  let dir := s.c (0x3100 + bay) 0x04
  let lim := (s.cF32 (0x3100 + bay) 0x05).to64
  (List.range 3).foldl (fun t x =>
    let ch := 6 * bay + 3 + x
    let px := nth p x F64.zero
    let oth := [nth p ((x + 1) % 3) F64.zero, nth p ((x + 2) % 3) F64.zero]
    if dir = 0 ∨ !t.supEnabled ch 2 then t.setCondition ch 2 false
    else if blocked then t
    else
      let big := lim.le px.abs
      let cond := match dir with
        | 1 => px.lt F64.zero
        | 2 => F64.zero.lt px
        | _ => oth.all (fun o => lim.le o.abs && ((o.lt F64.zero && F64.zero.lt px) || (F64.zero.lt o && px.lt F64.zero)))
      t.setCondition ch 2 (big && cond)) s

/-- A bay's results for one reporting instant: the 35 value entries of R162. -/
structure Report where
  /-- Seconds after S + g, and the instant on the ET scale. -/
  time : Et
  entries : List Entry
  powers : List F64
  flags : Quality
  deriving DecidableEq, Repr

/-- The estimate of a bay for its window (R152–R159), given the window's start. none while a sample is missing. -/
def estimate (s : State) (bay : Nat) (k rate : Nat) : Option Report :=
  let m := s.c (0x3100 + bay) 0x02 = 1
  let n := if m then 1536 else 512
  let tr := s.reportSec k rate
  let trEt : Rat := mkRat k rate
  let jr := s.trackedIndex tr
  let i0 := windowStart jr n
  let ws := (List.range 6).map (fun c => s.window (6 * bay + c) i0 n)
  match s.frequency bay false (if m then 11 else 3) jr tr with
  | none => none
  | some (f, rocof) =>
    if ws.any Option.isNone then none
    else
      let samples := ws.filterMap id
      let wt := (List.range n).map (weight m)
      let ph := samples.map (fun w => phasorOf (w.map (·.value)) wt)
      let p := fun (i : Nat) => nth ph i Cplx.zero
      let v := sequences (p 0) (p 1) (p 2)
      let i := sequences (p 3) (p 4) (p 5)
      let delta := tr - s.windowCentre i0 n
      let classed := decide (i0 < ((nth s.loc.bays bay ⟨0, 0⟩).classFrom : Int))
      let calBad := (List.range 6).map (fun c => (s.channel (6 * bay + c)).calFailed)
      let q := fun (c : Nat) => qUnion ((nth samples c []).map (·.flags)) |||
        qIf (classed || nth calBad c false) qSETTLING
      let qv := (q 0 ||| q 1 ||| q 2)
      let qi := (q 3 ||| q 4 ||| q 5)
      let all := [p 0, p 1, p 2, p 3, p 4, p 5, v.1, v.2.1, v.2.2, i.1, i.2.1, i.2.2]
      let qs := [q 0, q 1, q 2, q 3, q 4, q 5, qv, qv, qv, qi, qi, qi]
      let phs := (all.zip qs).flatMap (fun (xq : Cplx × Quality) =>
        [entryOf xq.1.abs xq.2, entryOf (s.angleOf xq.1 delta trEt) xq.2])
      let pw := (List.range 3).map (fun x => powerOf (p x) (p (3 + x)))
      let pq := fun (x : Nat) => q x ||| q (3 + x)
      let pSum := (nth pw 0 (F64.zero, F64.zero)).1.add ((nth pw 1 (F64.zero, F64.zero)).1.add (nth pw 2 (F64.zero, F64.zero)).1)
      let qSum := (nth pw 0 (F64.zero, F64.zero)).2.add ((nth pw 1 (F64.zero, F64.zero)).2.add (nth pw 2 (F64.zero, F64.zero)).2)
      let analog := (pw.zip (List.range 3)).map (fun x => entryOf x.1.1 (pq x.2)) ++
        (pw.zip (List.range 3)).map (fun x => entryOf x.1.2 (pq x.2)) ++
        [entryOf pSum (qv ||| qi), entryOf qSum (qv ||| qi)]
      let fOver := f.lt (F64.ofInt 40) || (F64.ofInt 70).lt f
      let rOver := (F64.ofInt 100).lt rocof.abs
      let rLim := if (F64.ofInt 100).lt rocof then F64.ofInt 100
        else if rocof.lt (F64.ofInt (-100)) then F64.ofInt (-100) else rocof
      let anySettling := qBit (qv ||| qi) qSETTLING
      let word := bitsOfList ((List.range 6).map (fun c => qBit (q c) qSOURCE_ERROR) ++
        [s.num 0x3200 0x05 == 0, anySettling, s.c 0x3200 0x02 == bay])
      let dig : Entry := ⟨F32.ofInt word, qMake true (qIf (qBit (qv ||| qi) qTIME_UNLOCKED) qTIME_UNLOCKED), 0⟩
      some {
        time := (ratToEt trEt).toNat
        entries := [entryOf f (qv ||| qIf fOver qOVERRANGE), entryOf rLim (qv ||| qIf rOver qOVERRANGE)] ++
          phs ++ analog ++ [dig]
        powers := pw.map (·.1), flags := qv ||| qi }

/-- The window of a bay's next instant begins before tracked sample 0: no result for it (R151). -/
def reportSuppressed (s : State) (bay k rate : Nat) : Bool :=
  let n := if s.c (0x3100 + bay) 0x02 = 1 then 1536 else 512
  windowStart (s.trackedIndex (s.reportSec k rate)) n < 0

/-- SOURCE_ERROR among the bay's channels comes only from their supervision (R166). -/
def onlySupervision (s : State) (bay : Nat) : Bool :=
  (List.range 6).all (fun c => !(s.channel (6 * bay + c)).calFailed)

/-- A bay's next reporting instant (R150): suppressed, not yet estimable, or reported. The answer is the frame of R162
for the local stream when the bay delivers one. -/
def bayReport (s : State) (bay : Nat) : State × Option Report :=
  let rate := s.c (0x3100 + bay) 0x03
  let k := (nth s.loc.bays bay ⟨0, 0⟩).nextK
  let bump := fun (t : State) => t.modLoc (fun l => { l with
    bays := modNth l.bays bay (fun b => { b with nextK := b.nextK + 1 }) })
  if !s.chainOn then (s, none)
  else if s.reportSuppressed bay k rate then (bump s, none)
  else
    match s.estimate bay k rate with
    | none => (s, none)
    | some r =>
      let v1q := (nth r.entries 14 absentEntry).quality
      let s1 := (((bump s).setF32 (0x3100 + bay) 0x07 (nth r.entries 0 absentEntry).value).setF32 (0x3100 + bay) 0x08
        (nth r.entries 1 absentEntry).value).setN (0x3100 + bay) 0x09 v1q.toNat
      let blocked := r.flags &&& 0x0302#16 != 0#16 || (qBit r.flags qSOURCE_ERROR && !s.onlySupervision bay)
      let s2 := if s.c (0x3100 + bay) 0x02 = 0 then s1.reversal bay r.powers blocked else s1
      if s.cB (0x3100 + bay) 0x01 then (s2.setN (0x3100 + bay) 0x0A r.time, some r) else (s2, none)

end State

/-- OPEN_WIRE_SAMPLE (R164). -/
def execOpenWireSample (ch : Fin 48) (outside : Bool) (s : State) : Host.Outcome State Fault Refusal :=
  complete s (fun s => s.openSample ch.val outside)

/-- SHORT_EVALUATION (R165). -/
def execShortEvaluation (ch : Fin 48) (s : State) : Host.Outcome State Fault Refusal :=
  complete s (fun s => s.shortEvaluation ch.val)

/-- TRACKED_SAMPLE (R142). -/
def execTrackedSample (s : State) : Host.Outcome State Fault Refusal := complete s State.trackedSample

end Sys2Proof.Machine
end

