-- ==== Sys2Proof/Machine/Configuration.lean ====
section
/-! DEFINITION. The configuration set as bytes: its entries, the measured section and CONFIG_CRC (R445, R501). -/

namespace Sys2Proof.Machine

/-- The object keys (without element) that a configuration set lists, rising. -/
def configObjects (cfg : Store) : List Nat := ((cfg.map (·.1 / 65536)).dedup).insertionSort (· ≤ ·)

/-- An object's whole value in its encoding (R54): an ARRAY is its elements one after the other. -/
def objectBytes (st : Store) (index sub : Nat) : List Byte :=
  match objAt index sub with
  | none => []
  | some f =>
    match f.ty with
    | .arr n _ => ((List.range n).map (fun e => (st.get (okey index sub e)).toBytes)).flatten
    | ty => encodeValue ty (st.get (okey index sub 0))

/-- One entry of a configuration set: index, sub, type code, value (R445). -/
def configEntry (st : Store) (index sub : Nat) : List Byte :=
  match objAt index sub with
  | none => []
  | some f => beBytes 2 index ++ [byte sub, byte f.ty.code] ++ objectBytes st index sub

/-- The entries of a configuration set, one per ST object that differs from its default, in order (R501). -/
def configEntries (st : Store) : List Byte :=
  ((configObjects st).map (fun k => configEntry st (k / 256) (k % 256))).flatten

/-- CONFIG_CRC of a configuration set (R501). -/
def configCrc (st : Store) : Nat := crc32 (configEntries st)

/-- The ST objects of an index, as (index, subindex). -/
def stObjects (index : Nat) : List (Nat × Nat) :=
  (fieldsAt index).flatMap (fun f =>
    if f.acc = .st then (List.range (f.hi + 1 - f.lo)).map (fun i => (index, f.lo + i)) else [])

namespace State

/-- CONFIG_CRC follows the committed configuration. -/
def refreshCrc (s : State) : State := s.setN 0x1200 0x05 (configCrc s.cfg)

/-- The committed value of an ST object, given by elements, changed by the device itself; the staged object follows when it
equalled the committed one (R199). -/
def setConfig (s : State) (index sub : Nat) (l : List (Nat × Value)) : State :=
  let entries := l.map (fun e => (okey index sub e.1, e.2))
  let same := objectBytes s.staged index sub == objectBytes s.cfg index sub
  { s with
    cfg := s.cfg.setAll entries
    staged := if same then s.staged.setAll entries else s.staged }

end State

end Sys2Proof.Machine
end

