-- ==== Sys2Proof/Machine/Frames.lean ====
section
/-! DEFINITION. Frames that the TN8448 builds: 802.1Q tags, IP and UDP headers, and the membership reports of IGMPv3 and MLDv2 (R178, R190,
R216, R319). Header fields that no rule states are constants of Config. -/

namespace Sys2Proof.Machine

/-! ## Addresses -/

/-- An IPv4 address in the 16-byte form of SRC_ADDR (R220). -/
def mapped4 (a : List Byte) : List Byte := List.replicate 10 0 ++ [0xFF, 0xFF] ++ a

/-- A 16-byte address stands for an IPv4 address. -/
def isMapped4 (a : List Byte) : Bool := a.take 12 == List.replicate 10 0 ++ [0xFF, 0xFF]

/-- An IPv6 link-local address. -/
def isLinkLocal (a : List Byte) : Bool := a.take 2 == [0xFE, 0x80]

/-- An IPv6 link-local address from a MAC address (R216). -/
def linkLocal (m : List Byte) : List Byte :=
  [0xFE, 0x80] ++ List.replicate 6 0 ++ [nth m 0 0 ^^^ 0x02] ++ slice m 1 2 ++ [0xFF, 0xFE] ++ m.drop 3

/-- All bytes are zero. -/
def allZero (b : List Byte) : Bool := b.all (· = 0)

/-- The IPv4 and IPv6 multicast MAC addresses of a group (DST_ADDR form); none for a unicast address. -/
def groupMac (a : List Byte) : Option (List Byte) :=
  if isMapped4 a then
    (if 0xE0 ≤ (nth a 12 0).toNat ∧ (nth a 12 0).toNat ≤ 0xEF
     then some ([0x01, 0x00, 0x5E, nth a 13 0 &&& 0x7F, nth a 14 0, nth a 15 0]) else none)
  else if nth a 0 0 = 0xFF then some ([0x33, 0x33] ++ a.drop 12)
  else none

/-! ## Headers -/

/-- An 802.1Q tag; none for VID 0. -/
def vlanTag (vid pcp : Nat) : List Byte := if vid = 0 then [] else [0x81, 0x00] ++ beBytes 2 (pcp * 8192 + vid)

/-- An Ethernet frame without its FCS: destination, source, tag, EtherType and payload. -/
def ethernet (dst src tag : List Byte) (ty : Nat) (payload : List Byte) : List Byte := dst ++ src ++ tag ++ beBytes 2 ty ++ payload

/-- The Internet checksum of bytes. -/
def checksum16 (b : List Byte) : Nat := 65535 - fold16 (sum16 b)

/-- The pseudo header of an upper-layer checksum, from two addresses of one family. -/
def pseudoHeader (src dst : List Byte) (proto length : Nat) : List Byte :=
  (if isMapped4 dst then src.drop 12 ++ dst.drop 12 else src ++ dst) ++ beBytes 4 length ++ beBytes 4 proto

/-- A UDP datagram with its checksum; a checksum of 0 is sent as 0xFFFF. -/
def udpDatagram (src dst : List Byte) (srcPort dstPort : Nat) (data : List Byte) : List Byte :=
  let h := beBytes 2 srcPort ++ beBytes 2 dstPort ++ beBytes 2 (8 + data.length)
  let c := checksum16 (pseudoHeader src dst 17 (8 + data.length) ++ h ++ [0, 0] ++ data)
  h ++ beBytes 2 (if c = 0 then 0xFFFF else c) ++ data

/-- An IPv4 header, with options. -/
def ipv4Header (src dst options : List Byte) (tos ttl proto length : Nat) (ident : BitVec 16) (df : Bool) : List Byte :=
  let words := 5 + options.length / 4
  let a := [byte (0x40 + words), byte tos] ++ beBytes 2 (4 * words + length) ++ beBytes 2 ident.toNat ++ [byte (if df then 0x40 else 0), 0,
    byte ttl, byte proto]
  let z := src.drop 12 ++ dst.drop 12 ++ options
  a ++ beBytes 2 (checksum16 (a ++ [0, 0] ++ z)) ++ z

/-- An IPv6 header. -/
def ipv6Header (src dst : List Byte) (tos : Nat) (flow : BitVec 20) (next hops length : Nat) : List Byte :=
  beBytes 4 (0x60000000 + tos * 1048576 + flow.toNat) ++ beBytes 2 length ++ [byte next, byte hops] ++ src ++ dst

/-- A UDP datagram in an IP packet, with its EtherType (R61, R319): never fragmented. -/
def udpPacket (src dst : List Byte) (srcPort dstPort : Nat) (data : List Byte) : Nat × List Byte :=
  let d := udpDatagram src dst srcPort dstPort data
  if isMapped4 dst then
    (0x0800, ipv4Header src dst [] Config.ipService.toNat Config.ipHops.toNat 17 d.length (Config.ipIdent d) Config.ipDontFragment ++ d)
  else (0x86DD, ipv6Header src dst Config.ipService.toNat Config.ipFlow 17 Config.ipHops.toNat d.length ++ d)

/-! ## Membership reports (R216) -/

/-- An IGMPv3 report of groups joined with any source (RFC 3376), as a frame without addresses: EtherType and payload. -/
def igmpReport (src : List Byte) (groups : List (List Byte)) : Nat × List Byte :=
  let r := [0, 0] ++ beBytes 2 groups.length ++ groups.flatMap (fun g => [4, 0, 0, 0] ++ g.drop 12)
  let m := [0x22, 0] ++ beBytes 2 (checksum16 ([0x22, 0, 0, 0] ++ r)) ++ r
  (0x0800, ipv4Header src (mapped4 [224, 0, 0, 22]) [0x94, 4, 0, 0] 0xC0 1 2 m.length (Config.ipIdent m) Config.ipDontFragment ++ m)

/-- The address of all MLDv2-capable routers, and the MAC address of a report. -/
def mldRouters : List Byte := [0xFF, 0x02] ++ List.replicate 13 0 ++ [0x16]

/-- An MLDv2 report of groups joined with any source (RFC 3810), with its Router Alert option. -/
def mldReport (src : List Byte) (groups : List (List Byte)) : Nat × List Byte :=
  let r := [0, 0] ++ beBytes 2 groups.length ++ groups.flatMap (fun g => [4, 0, 0, 0] ++ g)
  let c := checksum16 (pseudoHeader src mldRouters 58 (4 + r.length) ++ [143, 0, 0, 0] ++ r)
  let m := [58, 0, 5, 2, 0, 0, 1, 0] ++ [143, 0] ++ beBytes 2 c ++ r
  (0x86DD, ipv6Header src mldRouters 0 Config.ipFlow 0 1 m.length ++ m)

/-! ## Redundancy control trailer (R184, R186) -/

/-- The RCT of IEC 62439-3 for an LSDU size: sequence, LanId and size, suffix. -/
def rct (lan seq size : Nat) : List Byte := beBytes 2 seq ++ beBytes 2 (lan * 4096 + size % 4096) ++ [0x88, 0xFB]

/-- Bytes of a frame before its LSDU: addresses, a tag, EtherType. -/
def lsduStart (frame : List Byte) : Nat := if field frame 12 2 = 0x8100 then 18 else 14

/-- A frame with an RCT of LAN A or B, padded so that it is no runt. -/
def withRct (lan seq : Nat) (frame : List Byte) : List Byte :=
  let f := frame ++ List.replicate (54 - frame.length) 0
  f ++ rct lan seq (f.length - lsduStart f + 6)

/-- A frame without an RCT, padded so that it is no runt. -/
def padded (frame : List Byte) : List Byte := frame ++ List.replicate (60 - frame.length) 0

end Sys2Proof.Machine
end

