-- ==== Sys2Proof/Machine/Ports.lean ====
section
/-! DEFINITION. Network ports: the transmit queues, pause, PRP, the MAC checks and the classification of received frames
(R174–R191, R204–R207, R560). -/

namespace Sys2Proof.Machine

/-- Index of a port's configuration, counters and IP objects (R214–R216). -/
def pCfg (p : Nat) : Nat := 0x1300 + 16 * p
def pCnt (p : Nat) : Nat := 0x1301 + 16 * p
def pIp (p : Nat) : Nat := 0x1302 + 16 * p

/-- The PRP objects of a pair (R217): 0 P0/P1, 1 P2/P3. -/
def prpIndex (pair : Nat) : Nat := 0x1303 + 32 * pair

namespace State

def port (s : State) (p : Nat) : Port := nth s.ing.ports p idlePort

def modPort (s : State) (p : Nat) (f : Port → Port) : State :=
  s.modIng (fun i => { i with ports := modNth i.ports p f })

/-- The configuration is in force: out of reset and past the restore of stage MAIN (R497). -/
def started (s : State) : Bool :=
  !s.boot.inReset && decide (5 ≤ s.num 0xD000 0x01)

/-- A port in service (R560); in recovery mode P4 alone is (R511). -/
def portOn (s : State) (p : Nat) : Bool := s.started && s.cB (pCfg p) 0x01 && (s.num 0xD000 0x01 != 15 || p == 4)

/-- POWER_STATE is QUIET. -/
def quiet (s : State) : Bool := s.num 0xF140 0x01 = 2

/-! ## Wake-pattern filters: which ports stay on (R33, R187) -/

end State

/-- Index of wake filter n (R218). -/
def wakeIndex (n : Nat) : Nat := 0x130C + 16 * (n / 4) + n % 4

namespace State

/-- A port's SerDes is on: in QUIET only with an enabled wake filter (R33). -/
def serdesOn (s : State) (p : Nat) : Bool :=
  !s.quiet || (List.range 16).any (fun n => s.cB (wakeIndex n) 0x01 && s.c (wakeIndex n) 0x02 = p)

/-- A port that has a line to send on: in service, powered and with link. -/
def portUp (s : State) (p : Nat) : Bool := s.portOn p && s.serdesOn p && s.flag (pCfg p) 0x10

/-! ## Transmission (R179, R182, R207) -/

/-- The pair of a port that works as a doubly attached node (R183). -/
def prpPairOf (s : State) (p : Nat) : Option Nat :=
  if p < 4 ∧ s.cB (prpIndex (p / 2)) 0x01 then some (p / 2) else none

/-- The port whose MAC address and IP configuration a port uses (R183). -/
def homePort (s : State) (p : Nat) : Nat :=
  match s.prpPairOf p with
  | some pair => 2 * pair
  | none => p

/-- Received pause is being honoured (R182). -/
def pausing (s : State) (p : Nat) : Bool :=
  s.cB (pCfg p) 0x0C && decide (s.raw < (s.port p).pausedUntil) && (s.port p).ignoreUntil.isNone

/-- The MAC has read the buffers of descriptors: it clears their OWN (R207). -/
def releaseTx (s : State) (p : Nat) (descs : List Nat) : State :=
  s.modPort p (fun x => { x with tx := x.tx.filter (fun (d : Nat × Descriptor) => !descs.contains d.1) })

/-- A frame leaves on the wire, and counts in TX_FRAMES. -/
def putOnWire (s : State) (p : Nat) (o : Output) : State := (s.emit o).inc64 (pCnt p) 0x16

/-- A frame for a transmit queue with the descriptors that hold it: sent at once unless pause is honoured; a port with no line to send on
sends nothing. -/
def sendItem (s : State) (p : Nat) (x : TxItem) : State :=
  if !s.portUp p then s.releaseTx p x.descs
  else if s.pausing p then s.modPort p (fun y => { y with txq := y.txq ++ [x] })
  else (s.putOnWire p x.out).releaseTx p x.descs

/-- A frame that no descriptor holds. -/
def send (s : State) (p cls : Nat) (o : Output) : State := s.sendItem p ⟨cls, o, []⟩

/-- The queued frames of a port leave in strict priority, each queue in order (R179). -/
def drainTx (s : State) (p : Nat) : State :=
  let q := (s.port p).txq
  let ordered := [3, 2, 1, 0].flatMap (fun c => q.filter (fun e => e.cls = c))
  let t := s.modPort p (fun x => { x with txq := [] })
  if !t.portUp p then ordered.foldl (fun u e => u.releaseTx p e.descs) t
  else ordered.foldl (fun u e => (u.putOnWire p e.out).releaseTx p e.descs) t

/-- The sequence number of a pair's next RCT is taken. -/
def takeRctSeq (s : State) (pair : Nat) : State :=
  s.modIng (fun i => { i with pairs := modNth i.pairs pair (fun x => { x with txSeq := (x.txSeq + 1) % 65536 }) })

def rctSeq (s : State) (pair : Nat) : Nat := ((s.ing.pairs[pair]?).map (·.txSeq)).getD 0

/-- A frame the device originates (destination to payload) with the descriptors that hold it: on an enabled PRP pair on both ports with an
RCT of one sequence number (R186), else on its port. -/
def originateFrom (s : State) (p cls : Nat) (descs : List Nat) (frame : List Byte) : State :=
  match s.prpPairOf p with
  | none => s.sendItem p ⟨cls, .frame p (padded frame), descs⟩
  | some pair =>
    let seq := s.rctSeq pair
    [2 * pair, 2 * pair + 1].foldl (fun t q => t.sendItem q ⟨cls, .frame q (withRct (if q % 2 = 0 then 0xA else 0xB) seq frame),
      if q = p then descs else []⟩) (s.takeRctSeq pair)

def originate (s : State) (p cls : Nat) (frame : List Byte) : State := s.originateFrom p cls [] frame

/-- A frame that the wire shows decoded, by its port and the sequence number and LanId of its RCT: on an enabled PRP pair on both ports
(R186), else on its port. -/
def originateDecoded (s : State) (p cls : Nat) (o : Nat → Option (Nat × Nat) → Output) : State :=
  match s.prpPairOf p with
  | none => s.send p cls (o p none)
  | some pair =>
    let seq := s.rctSeq pair
    [2 * pair, 2 * pair + 1].foldl (fun t q => t.send q cls (o q (some (seq, if q % 2 = 0 then 0xA else 0xB)))) (s.takeRctSeq pair)

/-- A slow-path frame of the management core (destination to payload, untagged), tagged with MGMT_VID and MGMT_PCP when MGMT_VID is not 0
(R179). -/
def mgmtTagged (s : State) (p : Nat) (frame : List Byte) : List Byte :=
  frame.take 12 ++ vlanTag (s.c (pCfg p) 0x05) (s.c (pCfg p) 0x06) ++ frame.drop 12

def slowSend (s : State) (p : Nat) (frame : List Byte) : State := s.originate p 0 (s.mgmtTagged p frame)

/-! ## Stream contexts (R195–R198) -/

/-- A context is enabled; a local one takes its bay's STREAM_ENABLE (R198). -/
def ctxEnabled (s : State) (id : Nat) : Bool :=
  if id ≥ 4088 then s.cB (0x3100 + (id - 4088)) 0x01 else s.cB (0x4000 + id) 0x01

/-- A context's RATE. -/
def ctxRate (s : State) (id : Nat) : Nat :=
  if id ≥ 4088 then s.c (0x3100 + (id - 4088)) 0x03 else s.c (0x4000 + id) 0x0A

/-- A context's FNOM. -/
def ctxFnom (s : State) (id : Nat) : Nat := if id ≥ 4088 then s.c 0x3200 0x01 else s.c (0x4000 + id) 0x12

/-- The remote contexts that are enabled, rising. -/
def enabledRemote (s : State) : List Nat :=
  (s.cfg.filter (fun e => decide (0x4001 ≤ e.1 / 16777216) && decide (e.1 / 16777216 ≤ 0x4FF7) &&
    e.1 / 65536 % 256 == 1 && e.2 == .int 1)).map (fun e => e.1 / 16777216 - 0x4000)

/-- All enabled contexts, rising. -/
def enabledStreams (s : State) : List Nat :=
  s.enabledRemote ++ ((List.range 8).map (4088 + ·)).filter s.ctxEnabled

/-! ## IP of the management core: routes and neighbours (R183, R216, R319) -/

/-- The bits of an address above a prefix length agree. -/
def samePrefix (n : Nat) (a b : List Byte) : Bool := beNat a >>> (8 * a.length - n) == beNat b >>> (8 * b.length - n)

/-- A port has a route to an address: on its own network, or by its gateway. -/
def hasRoute (s : State) (p : Nat) (dst : List Byte) : Bool :=
  let h := s.homePort p
  if isMapped4 dst then
    let a := s.cBytes (pIp h) 0x01
    !allZero a && (samePrefix (s.c (pIp h) 0x02) a (dst.drop 12) || !allZero (s.cBytes (pIp h) 0x03))
  else if isLinkLocal dst then true
  else
    let a := s.cBytes (pIp h) 0x04
    !allZero a && (samePrefix (s.c (pIp h) 0x05) a dst || !allZero (s.cBytes (pIp h) 0x06))

/-- The address that a port's packets to an address carry as their source. -/
def sourceAddress (s : State) (p : Nat) (dst : List Byte) : List Byte :=
  let h := s.homePort p
  if isMapped4 dst then mapped4 (padTo 4 (s.cBytes (pIp h) 0x01))
  else if isLinkLocal dst ∨ allZero (s.cBytes (pIp h) 0x04) then linkLocal (macOf h)
  else s.cBytes (pIp h) 0x04

/-- The address to resolve on a port for a unicast address: itself inside the port's prefix, else the port's gateway. -/
def nextHop (s : State) (p : Nat) (a : List Byte) : List Byte :=
  let h := s.homePort p
  if isMapped4 a then
    if samePrefix (s.c (pIp h) 0x02) (a.drop 12) (s.cBytes (pIp h) 0x01) then a else mapped4 (s.cBytes (pIp h) 0x03)
  else if isLinkLocal a ∨ samePrefix (s.c (pIp h) 0x05) a (s.cBytes (pIp h) 0x04) then a
  else s.cBytes (pIp h) 0x06

/-- What a port, with the other one of its pair (R183), knows of a neighbour. -/
def neighbour (s : State) (p : Nat) (a : List Byte) : Option Neighbour :=
  s.egr.neighbours.find? (fun x => x.port = s.homePort p && x.address == a)

/-- The MAC address that frames to an address carry: derived for a group, else that of the next hop, once resolved (R319). -/
def destMac (s : State) (p : Nat) (a : List Byte) : Option (List Byte) :=
  match groupMac a with
  | some m => some m
  | none => (s.neighbour p (s.nextHop p a)).bind (·.mac)

def putNeighbour (s : State) (x : Neighbour) : State :=
  s.modEgr (fun e => { e with
    neighbours := e.neighbours.filter (fun y => !(y.port = x.port && y.address == x.address)) ++ [x] })

end State

/-- An ARP request (RFC 826) or a neighbour solicitation (RFC 4861) of a port for an address (PRESUMED, log entry 43). -/
def questionFrame (mac own4 own6 a : List Byte) : List Byte :=
  if isMapped4 a then
    List.replicate 6 0xFF ++ mac ++ [0x08, 0x06, 0, 1, 0x08, 0, 6, 4, 0, 1] ++ mac ++ padTo 4 own4 ++ List.replicate 6 0 ++ a.drop 12
  else
    let dst : List Byte := [0xFF, 0x02] ++ List.replicate 9 0 ++ [0x01, 0xFF] ++ a.drop 13
    let body : List Byte := [0, 0, 0, 0] ++ a ++ [1, 1] ++ mac
    let c := checksum16 (pseudoHeader own6 dst 58 (4 + body.length) ++ [135, 0, 0, 0] ++ body)
    ethernet ([0x33, 0x33] ++ dst.drop 12) mac [] 0x86DD
      (ipv6Header own6 dst 0 Config.ipFlow 58 255 (4 + body.length) ++ [135, 0] ++ beBytes 2 c ++ body)

namespace State

/-- The management core asks for an address, at most once a second (log entry 43). -/
def askNeighbour (s : State) (p : Nat) (a : List Byte) : State :=
  let h := s.homePort p
  let known := s.neighbour h a
  let due : Bool := match known with
    | none => true
    | some x => x.mac.isNone && decide (x.asked + tickSec ≤ s.raw)
  if !due ∨ allZero a then s
  else (s.putNeighbour ⟨h, a, none, s.raw, (known.map (·.waiting)).getD []⟩).slowSend h
    (questionFrame (macOf h) (s.cBytes (pIp h) 0x01) (linkLocal (macOf h)) a)

/-- A packet of the management core (EtherType and payload) to an address: sent once the address is resolved (log entry 43). -/
def sendPacket (s : State) (p : Nat) (a : List Byte) (k : Nat × List Byte) : State :=
  let h := s.homePort p
  match s.destMac h a with
  | some m => s.slowSend h (ethernet m (macOf h) [] k.1 k.2)
  | none =>
    let hop := s.nextHop h a
    let t := s.askNeighbour h hop
    match t.neighbour h hop with
    | some x => t.putNeighbour { x with waiting := x.waiting ++ [k] }
    | none => t

/-- An address has been resolved: the packets that waited for it leave. -/
def resolve (s : State) (p : Nat) (a mac : List Byte) : State :=
  let h := s.homePort p
  let waiting := ((s.neighbour h a).map (·.waiting)).getD []
  waiting.foldl (fun (t : State) k => t.slowSend h (ethernet mac (macOf h) [] k.1 k.2)) (s.putNeighbour ⟨h, a, some mac, s.raw, []⟩)

/-- What the management core learns from a slow-path frame: an ARP reply or a neighbour advertisement. -/
def learnNeighbour (s : State) (p : Nat) (f : List Byte) : State :=
  if slice f 12 2 = [0x08, 0x06] ∧ slice f 20 2 = [0, 2] then s.resolve p (mapped4 (slice f 28 4)) (slice f 22 6)
  else if slice f 12 2 = [0x86, 0xDD] ∧ slice f 20 1 = [58] ∧ slice f 54 1 = [136] ∧ slice f 78 1 = [2] then
    s.resolve p (slice f 62 16) (slice f 80 6)
  else s

/-! ## Membership of multicast groups (R216) -/

/-- The groups in DST_ADDR of the enabled contexts that receive on a port. -/
def contextGroups (s : State) (p : Nat) : List (List Byte) :=
  (((s.enabledRemote.filter (fun id => (s.c (0x4000 + id) 0x08).testBit p)).map (fun id => s.cBytes (0x4000 + id) 0x05)).filter
    (fun a => (groupMac a).isSome)).dedup

/-- The management core reports its membership of groups on a port: IGMPv3 for IPv4, MLDv2 for IPv6 (log entry 83). -/
def reportGroups (s : State) (p : Nat) (groups : List (List Byte)) : State :=
  let h := s.homePort p
  let v4 := groups.filter isMapped4
  let v6 := groups.filter (fun g => !isMapped4 g)
  let a := if v4.isEmpty then s else s.sendPacket p (mapped4 [224, 0, 0, 22]) (igmpReport (mapped4 (padTo 4 (s.cBytes (pIp h) 0x01))) v4)
  if v6.isEmpty then a else a.sendPacket p mldRouters (mldReport (linkLocal (macOf h)) v6)

/-- A general query of IGMP or MLD in a slow-path frame is answered with a report. -/
def answerQuery (s : State) (p : Nat) (f : List Byte) : State :=
  let ip := f.drop 14
  let igmp := slice f 12 2 == [0x08, 0x00] && slice ip 9 1 == [2] && slice ip (4 * (field ip 0 1 % 16)) 1 == [0x11]
  let mld := slice f 12 2 == [0x86, 0xDD] && slice ip 6 1 == [0] && slice ip 40 1 == [58] && slice ip 48 1 == [130]
  if igmp || mld then s.reportGroups p ((s.contextGroups p).filter (fun g => isMapped4 g == igmp)) else s

/-! ## Pause (R180–R182) -/

/-- One pause frame sent, ahead of all queues and whatever pause is received (R180). -/
def sendPause (s : State) (p quanta : Nat) : State :=
  if !s.portUp p then s
  else
    ((s.emit (.frame p ([0x01, 0x80, 0xC2, 0x00, 0x00, 0x01] ++ macOf (s.homePort p) ++ [0x88, 0x08, 0x00, 0x01] ++
      beBytes 2 quanta ++ List.replicate 42 0))).inc32 (pCnt p) 0x10).modPort p (fun x => { x with pauseTick := s.raw })

/-- Bytes held in a port's receive buffer. -/
def occupancy (s : State) (p : Nat) : Nat := ((s.port p).fifo.map (·.1)).sum

/-- The size of a port's receive buffer (R174). -/
def rxBuffer (s : State) (p : Nat) : Nat := s.num (pCfg p) 0x12

/-- The occupancy is at or below RX_LOW_WM, or at or above RX_HIGH_WM. -/
def atLow (s : State) (p : Nat) : Bool := s.occupancy p * 100 ≤ s.c (pCfg p) 0x09 * s.rxBuffer p
def atHigh (s : State) (p : Nat) : Bool := s.occupancy p * 100 ≥ s.c (pCfg p) 0x08 * s.rxBuffer p

/-- The watermarks after a change of occupancy (R180, R181). -/
def watermarks (s : State) (p : Nat) : State :=
  let x := s.port p
  if s.atLow p then
    let t := s.modPort p (fun x => { x with discarding := false, pauseOn := false })
    if x.pauseOn ∧ s.cB (pCfg p) 0x0A then t.sendPause p 0 else t
  else if s.atHigh p ∧ !x.pauseOn ∧ s.cB (pCfg p) 0x0A then
    (s.modPort p (fun x => { x with pauseOn := true })).sendPause p (s.c (pCfg p) 0x0B)
  else s

/-- Quanta of 512 bit times at a port's speed, in ticks (R182). -/
def quantaTicks (s : State) (p quanta : Nat) : Nat :=
  if s.num (pCfg p) 0x11 = 0 then 0 else quanta * 512 * tickUs / s.num (pCfg p) 0x11

/-- PAUSE_REPEAT (R180): half the quanta time has passed and the occupancy is still above RX_LOW_WM. -/
def pauseRepeat (s : State) (p : Nat) : State :=
  let x := s.port p
  let half := s.quantaTicks p (s.c (pCfg p) 0x0B) / 2
  if x.pauseOn ∧ s.cB (pCfg p) 0x0A ∧ !s.atLow p ∧ s.raw ≥ x.pauseTick + half then s.sendPause p (s.c (pCfg p) 0x0B) else s

/-- A received pause frame (R182). -/
def pauseReceive (s : State) (p quanta : Nat) : State :=
  if !s.portOn p then s
  else
    let s1 := s.inc32 (pCnt p) 0x11
    if !s.cB (pCfg p) 0x0C then s1
    else if quanta = 0 then
      (s1.modPort p (fun x => { x with pausedUntil := 0, honourSince := none })).drainTx p
    else
      s1.modPort p (fun x => { x with
        pausedUntil := s.raw + s.quantaTicks p quanta
        honourSince := if s.pausing p then x.honourSince else if x.ignoreUntil.isSome then none else some s.raw })

/-- PAUSE_EXPIRY (R182): the pause time has run out. -/
def pauseEnd (s : State) (p : Nat) : State :=
  let x := s.port p
  if x.honourSince.isSome ∧ x.pausedUntil ≤ s.raw then
    (s.modPort p (fun x => { x with honourSince := none })).drainTx p
  else s

/-- PAUSE_LIMIT (R182): pause honoured without interruption for PAUSE_MAX. -/
def pauseLimit (s : State) (p : Nat) : State :=
  match (s.port p).honourSince with
  | none => s
  | some since =>
    let max_ := s.c (pCfg p) 0x0D * tickUs
    if !s.pausing p ∨ s.raw < since + max_ then s
    else
      let lost := (s.port p).txq.filter (fun e => e.cls = 0)
      let s1 := (s.releaseTx p (lost.flatMap (·.descs))).modPort p (fun x => { x with
        txq := x.txq.filter (fun e => e.cls != 0), honourSince := none, ignoreUntil := some (s.raw + max_) })
      (((s1.add 64 (pCnt p) 0x13 lost.length).inc32 (pCnt p) 0x12).raiseEvent (8 + 4 * p + 2) p).drainTx p

/-- PAUSE_LIMIT_END (R182): pause is honoured again. -/
def pauseLimitEnd (s : State) (p : Nat) : State :=
  match (s.port p).ignoreUntil with
  | none => s
  | some t =>
    if s.raw < t then s
    else s.modPort p (fun x => { x with
      ignoreUntil := none, honourSince := if s.raw < x.pausedUntil then some s.raw else none })

/-! ## PRP (R183–R186) -/

def pair (s : State) (n : Nat) : PrpPair := nth s.ing.pairs n ⟨[], 0, 0⟩

def modPair (s : State) (n : Nat) (f : PrpPair → PrpPair) : State :=
  s.modIng (fun i => { i with pairs := modNth i.pairs n f })

/-- NODES follows the table. -/
def countNodes (s : State) (n : Nat) : State := s.setN (prpIndex n) 0x07 (s.pair n).nodes.length

end State

/-- The bitmap with bit i set. -/
def markBit (bitmap i : Nat) : Nat := bitmap ||| (1 <<< i)

/-- A source's entry after a frame with sequence number q (R185); none: a duplicate. -/
def PrpNode.accept (n : PrpNode) (q tick : Nat) : Option PrpNode :=
  let ahead := (q + 65536 - n.high) % 65536
  if 1 ≤ ahead ∧ ahead ≤ 32767 then
    some { n with high := q, bitmap := ((n.bitmap <<< ahead) % 2 ^ 64) ||| 1, tick := tick }
  else
    let back := (n.high + 65536 - q) % 65536
    if back ≤ 63 ∧ !n.bitmap.testBit back then some { n with bitmap := markBit n.bitmap back, tick := tick }
    else none

namespace State

/-- The decision of R185 for a frame with an RCT: the answer tells whether it is accepted. -/
def prpAccept (s : State) (n : Nat) (source : List Byte) (q : Nat) : State × Bool :=
  match (s.pair n).nodes.find? (fun x => x.source = source) with
  | none =>
    if (s.pair n).nodes.length ≥ 1024 then (s.inc32 (prpIndex n) 0x06, true)
    else ((s.modPair n (fun x => { x with nodes := x.nodes ++ [⟨source, q, 1, s.raw⟩] })).countNodes n, true)
  | some x =>
    match x.accept q s.raw with
    | some y =>
      (s.modPair n (fun z => { z with nodes := z.nodes.map (fun w => if w.source = source then y else w) }), true)
    | none =>
      ((s.modPair n (fun z => { z with
        nodes := z.nodes.map (fun w => if w.source = source then { w with tick := s.raw } else w) })).inc64 (prpIndex n) 0x04,
       false)

/-- PRP_ENTRY_FORGET (R185): the entry that has seen no frame for ENTRY_FORGET. -/
def prpForget (s : State) (n : Nat) (source : List Byte) : State :=
  let life := s.c (prpIndex n) 0x02 * tickMs
  (s.modPair n (fun x => { x with
    nodes := x.nodes.filter (fun w => !(w.source = source && decide (w.tick + life ≤ s.raw))) })).countNodes n

/-- PRP_SUPERVISION_TRANSMIT (R186): a supervision frame on both ports when its interval has passed. -/
def prpSupervise (s : State) (n : Nat) : State :=
  if !s.started ∨ !s.cB (prpIndex n) 0x01 ∨ s.raw < (s.pair n).supervised + s.c (prpIndex n) 0x03 * tickMs then s
  else
    let mac_ := macOf (2 * n)
    let seq := (s.pair n).txSeq
    let body := [0x01, 0x15, 0x4E, 0x00, 0x01, 0x00] ++ mac_ ++ [0x88, 0xFB, 0x00, 0x01] ++ beBytes 2 seq ++
      [20, 6] ++ mac_ ++ [0, 0]
    (s.modPair n (fun x => { x with supervised := s.raw })).slowSend (2 * n) body

end State

/-! ## Received frames -/

/-- The RCT of a frame without its FCS: sequence number and LanId, when the last six bytes are one (R184). -/
def findRct (frame : List Byte) : Option (Nat × Nat) :=
  let n := frame.length
  if n < 20 ∨ field frame (n - 2) 2 ≠ 0x88FB then none
  else
    let w := field frame (n - 4) 2
    let tagged := decide (field frame 12 2 = 0x8100)
    let size := n - 14 - (if tagged then 4 else 0)
    if w % 4096 = size then some (field frame (n - 6) 2, w / 4096) else none

/-- A frame with its tag taken out (R178): TCI, whether it had one, and the frame; none for a second tag or an S-tag. -/
def untag (frame : List Byte) : Option (Nat × Bool × List Byte) :=
  let ty := field frame 12 2
  if ty = 0x88A8 then none
  else if ty = 0x8100 then
    let inner := field frame 16 2
    if inner = 0x8100 ∨ inner = 0x88A8 then none
    else some (field frame 14 2, true, frame.take 12 ++ frame.drop 16)
  else some (0, false, frame)

/-- What the network layer of an untagged frame holds. -/
inductive Ip where
  /-- No IPv4 or IPv6, or one that R189 sends to "other". -/
  | other
  | fragment
  /-- A slow-path protocol (R189): ICMP, IGMP, ICMPv6. -/
  | control
  /-- A datagram of UDP: source and destination addresses, whether the IPv4 header checksum holds, whether UDP is the first
  header after IPv6's, whether it is IPv6, and the UDP part. -/
  | udp (src dst : List Byte) (headerOk v6 : Bool) (dgram : List Byte)
  | tcp (dst : List Byte)
  deriving DecidableEq, Repr

/-- The IPv6 extension headers up to the upper layer: next header and offset; 44 stops at a Fragment header. -/
def ipv6Upper (pkt : List Byte) : Nat → Nat → Nat → Nat × Nat
  | 0, next, off => (next, off)
  | fuel + 1, next, off =>
    if next = 0 ∨ next = 43 ∨ next = 60 then
      ipv6Upper pkt fuel (field pkt off 1) (off + 8 * (field pkt (off + 1) 1 + 1))
    else (next, off)

/-- The network layer of a frame (R189). -/
def parseIp (frame : List Byte) : Ip :=
  let ty := field frame 12 2
  let pkt := frame.drop 14
  if ty = 0x0800 then
    let ihl := 4 * (field pkt 0 1 % 16)
    let frag := field pkt 6 2
    let proto := field pkt 9 1
    let src := mapped4 (slice pkt 12 4)
    let dst := mapped4 (slice pkt 16 4)
    let total := field pkt 2 2
    if field pkt 0 1 / 16 ≠ 4 then .other
    else if frag % 16384 ≠ 0 then .fragment
    else if proto = 17 then .udp src dst (checksumOk (pkt.take ihl)) false ((pkt.take total).drop ihl)
    else if proto = 6 then .tcp dst
    else if proto = 1 ∨ proto = 2 then .control
    else .other
  else if ty = 0x86DD then
    let first := field pkt 6 1
    let up := ipv6Upper pkt 8 first 40
    let src := slice pkt 8 16
    let dst := slice pkt 24 16
    if up.1 = 44 then .fragment
    else if up.1 = 58 then .control
    else if up.1 = 6 then .tcp dst
    else if first = 17 then .udp src dst true true (slice pkt 40 (field pkt 4 2))
    else .other
  else .other

/-- The payload of a UDP datagram, by its length field. -/
def udpPayload (dgram : List Byte) : List Byte := (dgram.take (field dgram 4 2)).drop 8

/-- The UDP checksum holds: correct over the pseudo header and the length that the datagram gives, or zero on IPv4 (R190). A length that
the packet does not hold fails (log entry 85). -/
def udpChecksumOk (src dst : List Byte) (v6 : Bool) (dgram : List Byte) : Bool :=
  let n := field dgram 4 2
  if n < 8 ∨ dgram.length < n then false
  else if field dgram 6 2 = 0 then !v6
  else fold16 (sum16 (pseudoHeader src dst 17 n ++ dgram.take n)) == 0xFFFF

/-- A BLOCK_LAYOUT of n blocks as triples. -/
def blocksOf (n : Nat) (b : List Byte) : List (Nat × Nat × Nat) :=
  (List.range n).map (fun i => (field b (3 * i) 1, field b (3 * i + 1) 1, field b (3 * i + 2) 1))

namespace State

/-- A context's block layout. -/
def ctxBlocks (s : State) (id : Nat) : List (Nat × Nat × Nat) :=
  blocksOf (s.c (0x4000 + id) 0x0D) (s.cBytes (0x4000 + id) 0x0E)

/-- The unicast addresses a port takes part with (R191): IPv4, global IPv6, link-local. -/
def ownAddresses (s : State) (p : Nat) : List (List Byte) :=
  let h := s.homePort p
  let v4 := s.cBytes (pIp h) 0x01
  let v6 := s.cBytes (pIp h) 0x04
  (if allZero v4 then [] else [mapped4 v4]) ++ (if allZero v6 then [] else [v6]) ++ [linkLocal (macOf h)]

/-- R190 step 4: the context that a data frame belongs to. -/
def matchContext (s : State) (p vid idcode : Nat) (src dst : List Byte) (dport : Nat) : Option Nat :=
  s.enabledRemote.find? (fun id =>
    let i := 0x4000 + id
    s.c i 0x03 = 0 && s.c i 0x02 = idcode &&
    (allZero (s.cBytes i 0x04) || s.cBytes i 0x04 == src) &&
    (if allZero (s.cBytes i 0x05) then (s.ownAddresses p).contains dst else s.cBytes i 0x05 == dst) &&
    s.c i 0x06 = dport &&
    (s.c i 0x09 = 0xFFFF || s.c i 0x09 = vid) &&
    (s.c i 0x08).testBit p)

/-- A record of the unknown-source list (R192): at most one per IDCODE and source in a second. -/
def unknownSource (s : State) (p idcode : Nat) (src : List Byte) : State :=
  let key := (idcode, src)
  let recent := s.ing.unknown.filter (fun e => decide (s.raw < e.2 + tickSec))
  if recent.any (fun e => e.1 = key) then s.modIng (fun i => { i with unknown := recent })
  else
    let n := s.num 0x4000 0x04
    ((s.setElem 0x4000 0x05 (n % 16) (beBytes 2 idcode ++ [byte p, 0] ++ padTo 16 src)).inc32 0x4000 0x04).modIng
      (fun i => { i with unknown := recent ++ [(key, s.raw)] })

def streamState (s : State) (id : Nat) : Nat := s.num (0x4000 + id) 0x1A

/-- The facts of a stream beside its objects. -/
def stream (s : State) (id : Nat) : Stream := (lookup id s.ing.streams).getD ⟨none, none, 0, false⟩

def modStream (s : State) (id : Nat) (f : Stream → Stream) : State :=
  s.modIng (fun i => { i with streams := insertKey id (f (s.stream id)) i.streams })

end State

/-- A C37.118.2 command frame (R200, R201). -/
def commandFrame (idcode soc frac cmd : Nat) : List Byte :=
  let b := [0xAA, 0x41] ++ beBytes 2 18 ++ beBytes 2 idcode ++ beBytes 4 soc ++ beBytes 4 frac ++ beBytes 2 cmd
  b ++ beBytes 2 (crc16 b)

namespace State

/-- The seconds of UTC now, and the fraction of a second in a time base. -/
def utcNow (s : State) (timeBase : Nat) : Nat × Nat :=
  ((((s.et / sec : Nat) : Int) - s.int 0x2000 0x13).toNat, s.et % sec * timeBase / sec)

/-- A port that reaches a stream's source (R201): the lowest in RX_PORTS with link and a route. -/
def sourcePort (s : State) (id : Nat) : Option Nat :=
  (List.range 6).find? (fun p => (s.c (0x4000 + id) 0x08).testBit p && s.portUp p && s.hasRoute p (s.cBytes (0x4000 + id) 0x04))

/-- A command frame to a stream's source: on its connection, or over UDP to SRC_ADDR at CMD_PORT (R200, R201). -/
def sendStreamCommand (s : State) (id cmd : Nat) : State :=
  let i := 0x4000 + id
  let t := s.utcNow (s.c i 0x0B)
  let frame := commandFrame (s.c i 0x02) t.1 t.2 cmd
  let a := s.cBytes i 0x04
  match s.sourcePort id with
  | none => s
  | some p =>
    if s.c i 0x03 = 1 then s.originateDecoded p 0 (fun q trailer => .tcp q trailer (some (a, s.c i 0x06)) 0 frame)
    else s.sendPacket p a (udpPacket (s.sourceAddress p a) a Config.clientPort.toNat (s.c i 0x07) frame)

/-- A stream's source can be asked: by its open connection, or at its SRC_ADDR by a port that reaches it. -/
def canAsk (s : State) (id : Nat) : Bool :=
  (if s.c (0x4000 + id) 0x03 = 1 then decide (2 ≤ s.num (0x4000 + id) 0x1B) else !allZero (s.cBytes (0x4000 + id) 0x04)) &&
  (s.sourcePort id).isSome

/-- A configuration frame is asked for (R200): with AUTOFILL and REQUEST_CFG, at most once per 5 s. One that cannot be asked for waits for
a link (log entry 84). -/
def askConfig (s : State) (id : Nat) : State :=
  let free : Bool := match (s.stream id).asked with
    | none => true
    | some t => decide (t + 5 * tickSec ≤ s.raw)
  if id < 4088 ∧ s.cB (0x4000 + id) 0x18 ∧ s.cB (0x4000 + id) 0x19 ∧ free then
    if s.canAsk id then (s.sendStreamCommand id 0x0005).modStream id (fun x => { x with asked := some s.raw, wanted := false })
    else s.modStream id (fun x => { x with wanted := true })
  else s

/-- Requests that wait for a link are sent once one is there. -/
def askWanted (s : State) : State :=
  (s.ing.streams.filter (fun (x : Nat × Stream) => x.2.wanted)).foldl (fun (t : State) x => if t.canAsk x.1 then t.askConfig x.1 else t) s

/-- A stream has no held value any more (R228). -/
def dropHeld (s : State) (id : Nat) : State :=
  s.modTr (fun t => { t with lanes := t.lanes.map (fun (l : Lane) => { l with
    held := eraseKey id l.held
    slots := l.slots.map (fun x => if (lookup id x.frames).isSome then { x with unheld := id :: x.unheld } else x) }) })

/-- A stream's STATE set, with what entry to WAITING and MISMATCH asks for (R200); a stream that is neither RECEIVING nor LATE has no
held value (R228). -/
def setStreamState (s : State) (id st : Nat) : State :=
  if s.streamState id = st then s
  else
    let t := s.setN (0x4000 + id) 0x1A st
    let u := if st = 2 ∨ st = 3 then t else t.dropHeld id
    if st = 1 ∨ st = 5 then u.askConfig id else u

/-- The layout of a frame does not fit its context (R190 step 5, R197): a fenced stream stays FENCED, and a LATE one LATE. -/
def mismatch (s : State) (id : Nat) : State :=
  if s.streamState id = 6 ∨ s.streamState id = 3 then s else s.setStreamState id 5

/-! ## Links (R33, R214, R560) -/

/-- PORT_LINK_CHANGE (R214, R560): with link, the management core reports its groups and asks what waits to be asked. -/
def linkChange (s : State) (p : Nat) (up : Bool) (speed : Nat) : State :=
  if !s.portOn p ∨ !s.serdesOn p then s
  else
    let s1 := s.setN (pCfg p) 0x11 (if up then speed else 0)
    if s.flag (pCfg p) 0x10 = up then s1
    else
      let t := (s1.setB (pCfg p) 0x10 up).raiseEvent (8 + 4 * p) p
      if up then (t.reportGroups p (t.contextGroups p)).askWanted else t

/-- A port whose line is powered down (R33, R560): what its transmit queues hold does not leave, and LINK falls. -/
def lineOff (s : State) (p : Nat) : State :=
  let t := s.modPort p (fun x => { x with txq := [], tx := x.tx.filter (fun d => !(x.txq.flatMap (·.descs)).contains d.1) })
  if t.flag (pCfg p) 0x10 then ((t.setN (pCfg p) 0x10 0).setN (pCfg p) 0x11 0).raiseEvent (8 + 4 * p) p else t

/-! ## The fast path (R190) -/

/-- A failure at R190 step 5, in a port counter and in the context's DISCARDS. -/
def discardFast (s : State) (p sub id : Nat) : State := (s.inc32 (pCnt p) sub).inc32 (0x4000 + id) 0x1D

/-- A C37.118.2 data frame over UDP (R190): counted, or the entry it makes for its lane. -/
def fastPath (s : State) (p tci : Nat) (src dst : List Byte) (headerOk v6 : Bool) (dgram : List Byte)
    (stamp : Et) : State × Option IngestEntry :=
  let body := udpPayload dgram
  if !headerOk then (s.inc32 (pCnt p) 0x09, none)
  else if !udpChecksumOk src dst v6 dgram then (s.inc32 (pCnt p) 0x0A, none)
  else
    let b1 := field body 1 1
    let version := b1 % 16
    if b1 ≥ 16 ∨ (version ≠ 1 ∧ version ≠ 2) then (s.inc32 (pCnt p) 0x0B, none)
    else
      let idcode := field (padTo 6 body) 4 2
      let context := if body.length < 6 then none else s.matchContext p (tci % 4096) idcode src dst (field dgram 2 2)
      match context with
      | none => ((s.inc64 (pCnt p) 0x0C).unknownSource p idcode src, none)
      | some id =>
        let i := 0x4000 + id
        let size := field body 2 2
        if size ≠ body.length then (s.discardFast p 0x0B id, none)
        else if size ≠ dataFrameSize (s.c i 0x0C) (s.ctxBlocks id) then ((s.discardFast p 0x0D id).mismatch id, none)
        else if crc16 (body.take (size - 2)) ≠ field body (size - 2) 2 then (s.discardFast p 0x0E id, none)
        else if field body 11 3 ≥ s.c i 0x0B then (s.inc32 (pCnt p) 0x0B, none)
        else (s.inc64 (pCnt p) 0x02,
          some ⟨id, p, (if p < 4 ∧ p % 2 = 1 ∧ (s.prpPairOf p).isSome then 1 else 0) + (if s.locked then 0 else 2), stamp, tci, body, 0, []⟩)

end State

/-- Where a classified frame goes (R189). -/
inductive RxClass where
  | pause (quanta : Nat)
  | slow
  | goose
  | fragment
  | other
  | data (src dst : List Byte) (headerOk v6 : Bool) (dgram : List Byte)
  | consumed
  deriving DecidableEq, Repr

namespace State

/-- The transparent clock forwards a PTP message of a port by itself (R103, R105): Sync, Follow_Up and Announce. -/
def tcForwards (s : State) (p : Nat) (frame : List Byte) : Bool :=
  s.c 0x2100 0x01 == 3 && (s.c 0x2100 0x06).testBit p && [0, 8, 0xB].contains (field frame 14 1 % 16)

/-- Classification of an untagged frame: the first matching row of R189. -/
def classify (s : State) (p : Nat) (frame : List Byte) : RxClass :=
  let ty := field frame 12 2
  if ty = 0x8808 then (if field frame 14 2 = 1 then .pause (field frame 16 2) else .consumed)
  else if ty = 0x88F7 then (if s.tcForwards p frame then .consumed else .slow)
  else if ty = 0x88FB ∨ ty = 0x0806 then .slow
  else if ty = 0x88B8 then .goose
  else
    match parseIp frame with
    | .fragment => .fragment
    | .control => .slow
    | .other => .other
    | .tcp dst => if (s.ownAddresses p).contains dst then .slow else .other
    | .udp src dst headerOk v6 dgram =>
      let body := udpPayload dgram
      let c37 := body.take 1 == [0xAA]
      if c37 ∧ field body 1 1 / 16 % 8 = 0 then .data src dst headerOk v6 dgram
      else if c37 ∧ s.enabledRemote.any (fun id => s.c (0x4000 + id) 0x02 = field body 4 2) then .slow
      else if field dgram 2 2 = 5747 ∧ s.cB (pCfg p) 0x04 then .slow
      else .other

/-- The multicast MAC addresses a port uses (R189). -/
def groupMacs (s : State) (p : Nat) : List (List Byte) :=
  let groups := s.enabledRemote.filterMap (fun id => groupMac (s.cBytes (0x4000 + id) 0x05))
  let goose := (((List.range 64).map (s.cElem 0x5903 1)).filter (fun e => (field e 0 1).testBit 0)).map (fun e => slice e 4 6)
  [[0x01, 0x1B, 0x19, 0, 0, 0], [0x01, 0x80, 0xC2, 0, 0, 0x0E], [0x01, 0x80, 0xC2, 0, 0, 0x01],
   [0x01, 0x15, 0x4E, 0, 0x01, 0], [0x33, 0x33, 0, 0, 0, 0x01]] ++ groups ++ goose ++
  (s.ownAddresses p).filterMap (fun a =>
    if nth a 0 0 = 0 then none else some ([0x33, 0x33, 0xFF] ++ a.drop 13))

/-- The MAC accepts a frame's destination (R189). -/
def macAccepts (s : State) (p : Nat) (frame : List Byte) : Bool :=
  let dst := frame.take 6
  dst = macOf (s.homePort p) || dst = List.replicate 6 0xFF || (s.groupMacs p).contains dst

/-! ## Slow-path rings (R204–R207) -/

/-- Descriptors that a frame of n bytes takes, each with one buffer of 2,048 bytes. -/
def descriptorsFor (n : Nat) : Nat := (n + 2047) / 2048

end State

/-- FLAGS of a descriptor (R205), bits 0–6: OWN, SOF, EOF, OVERRUN, LAN_B, TIME_UNLOCKED, TAGGED. -/
def descriptorFlags (own sof eof overrun lanB unlocked tagged : Bool) : Nat :=
  bitsOfList [own, sof, eof, overrun, lanB, unlocked, tagged]

/-- A descriptor's 32 bytes (R205). -/
def Descriptor.bytes (d : Descriptor) : List Byte :=
  beBytes 8 d.bufAddr ++ beBytes 2 d.length ++ beBytes 2 d.flags ++ beBytes 2 d.tci ++ [byte d.port, byte d.cls] ++ etBytes d.timestamp ++
  beBytes 2 d.frameLength ++ [0, 0]

def Descriptor.eof (d : Descriptor) : Bool := d.flags.testBit 2

namespace State

/-- The address of the buffer of a descriptor, 64-byte aligned. -/
def bufferAddress (transmit : Bool) (p i : Nat) : Nat := 64 * Config.bufferPlace transmit p i

/-- Positions of a ring of `size` from a position on. -/
def ringPositions (size first n : Nat) : List Nat := (List.range n).map (fun i => (first + i) % size)

/-- The n descriptors that the MAC fills for a received frame (R205, R206), in ring order, with OWN cleared and the bytes in their
buffers. -/
def rxDescriptors (f : SlowFrame) (cut : Bool) (size first n : Nat) : List (Nat × Descriptor × List Byte × Bool) :=
  ((ringPositions size first n).zip (List.range n)).map (fun (x : Nat × Nat) =>
    let b := slice f.bytes (2048 * x.2) 2048
    (x.1, ⟨bufferAddress false f.port x.1, b.length,
      descriptorFlags false (x.2 == 0) (x.2 == n - 1) cut f.lanB f.unlocked f.tagged, f.tci, f.port, 0,
      if x.2 = 0 then f.stamp else 0, if x.2 = n - 1 then min f.bytes.length (2048 * n) else 0⟩, b, false))

/-- A slow-path frame is given to the receive ring (R206): discarded when no descriptor is free, cut when they run out. -/
def deliverSlow (s : State) (f : SlowFrame) : State :=
  let p := f.port
  let size := s.c (pCfg p) 0x0E
  let free := size - (s.port p).rx.length
  let n := min free (descriptorsFor f.bytes.length)
  let cut := decide (free < descriptorsFor f.bytes.length)
  let s1 := (s.inc64 (pCnt p) 0x03).perf 0 0x24 1
  if free = 0 then s1.inc32 (pCnt p) 0x14
  else
    let t := s1.modPort p (fun x => { x with
      rx := x.rx ++ rxDescriptors f cut size x.rxNext n, rxNext := (x.rxNext + n) % size })
    if cut then (t.inc32 (pCnt p) 0x15).raiseEvent (8 + 4 * p + 3) p else t

/-- The frame that a run of receive descriptors from SOF to EOF holds. -/
def frameOf (p : Nat) (l : List (Nat × Descriptor × List Byte × Bool)) : SlowFrame :=
  let first : Descriptor := ((l.head?).map (·.2.1)).getD ⟨0, 0, 0, 0, 0, 0, 0, 0⟩
  ⟨p, (l.map (·.2.2.1)).flatten, first.tci, first.flags.testBit 6, first.flags.testBit 4, first.flags.testBit 5, first.timestamp,
   l.any (fun x => x.2.1.flags.testBit 3 || x.2.2.2)⟩

/-- The frames that the descriptors of a receive ring hold, oldest first; `run` holds the descriptors since the last EOF. -/
def ringFrames (p : Nat) : List (Nat × Descriptor × List Byte × Bool) → List (Nat × Descriptor × List Byte × Bool) → List SlowFrame
  | _, [] => []
  | run, d :: rest => if d.2.1.eof then frameOf p (run ++ [d]) :: ringFrames p [] rest else ringFrames p (run ++ [d]) rest

/-- The descriptors of a frame that the management core posts (R205, R207), with OWN set. -/
def txDescriptors (p cls size first : Nat) (frame : List Byte) : List (Nat × Descriptor) :=
  let n := descriptorsFor frame.length
  ((ringPositions size first n).zip (List.range n)).map (fun (x : Nat × Nat) =>
    (x.1, ⟨bufferAddress true p x.1, (slice frame (2048 * x.2) 2048).length,
      descriptorFlags true (x.2 == 0) (x.2 == n - 1) false false false false, 0, p, cls, 0,
      if x.2 = n - 1 then frame.length else 0⟩))

/-- The transmit ring has descriptors for a frame of n bytes. -/
def txRingRoom (s : State) (p n : Nat) : Bool := decide ((s.port p).tx.length + descriptorsFor n ≤ s.c (pCfg p) 0x0F)

/-- The management core posts a frame (R207), tagged as R179 says: every descriptor with OWN set, and the MAC sends it from its queue. -/
def postFrame (s : State) (p cls : Nat) (frame : List Byte) : State :=
  let f := s.mgmtTagged p frame
  let size := s.c (pCfg p) 0x0F
  let d := txDescriptors p cls size (s.port p).txNext f
  (s.modPort p (fun x => { x with tx := x.tx ++ d, txNext := (x.txNext + d.length) % size })).originateFrom p cls (d.map (·.1)) f

/-- The datagram of a PDU to its peer, as a frame of the peer's port (R61). -/
def pduFrame (s : State) (x : UdpPeer × Pdu × Option (List Byte)) : List Byte :=
  let p := x.1.port.val
  let k := udpPacket (s.sourceAddress p x.1.address) x.1.address 5747 x.1.udpPort (x.2.1.sealed x.2.2)
  ethernet x.1.mac (macOf (s.homePort p)) [] k.1 k.2

/-- The list without its first element that meets a test. -/
def withoutFirst {α : Type} (f : α → Bool) : List α → List α
  | [] => []
  | x :: rest => if f x then rest else x :: withoutFirst f rest

/-- TX_DESCRIPTOR_POST (R207): while the management core runs and the ring has room, a frame of its own for a queue, or with none its
oldest waiting PDU, which goes to TC0 (R179). -/
def txPost (s : State) (p cls : Nat) (frame : Option (List Byte)) : State :=
  if !s.started ∨ s.quiet ∨ s.boot.paused then s
  else
    match frame with
    | some f => if f.length < 14 ∨ !s.txRingRoom p (s.mgmtTagged p f).length then s else s.postFrame p cls f
    | none =>
      match s.alm.udpTx.find? (fun x => x.1.port.val = p) with
      | none => s
      | some x =>
        if !s.txRingRoom p (s.mgmtTagged p (s.pduFrame x)).length then s
        else (s.modAlm (fun a => { a with udpTx := withoutFirst (fun y => y.1.port.val = p) a.udpTx })).postFrame p 0 (s.pduFrame x)

/-- The slow-path frames at the front of a port's receive buffer pass into its ring; a fast-path frame holds the rest back
(R212). `fuel` bounds them by the buffer's frames. -/
def passSlow : Nat → State → Nat → State
  | 0, s, _ => s
  | fuel + 1, s, p =>
    match (s.port p).fifo with
    | (_, .slow f) :: rest =>
      passSlow fuel (((s.modPort p (fun x => { x with fifo := rest })).watermarks p).deliverSlow f) p
    | _ => s

/-- A frame put into a port's receive buffer, and what passes on at once. -/
def bufferFrame (s : State) (p size : Nat) (item : RxItem) : State :=
  let t := (s.modPort p (fun x => { x with fifo := x.fifo ++ [(size, item)] })).watermarks p
  passSlow (t.port p).fifo.length t p

/-! ## Wake-pattern filters (R187, R188) -/

/-- The frame bytes that a filter's mask selects, in ascending order. -/
def selectedBytes (mask : List Byte) (frame : List Byte) : List Byte :=
  (frame.zip (List.range 128)).filterMap (fun x =>
    if (nth mask (x.2 / 8) 0).getLsbD (x.2 % 8) then some x.1 else none)

/-- The highest frame byte that a mask selects, plus one. -/
def maskEnd (mask : List Byte) : Nat :=
  (List.range 128).foldl (fun m i => if (nth mask (i / 8) 0).getLsbD (i % 8) then i + 1 else m) 0

/-- The filters that a frame on a port matches (R187). -/
def wakeMatches (s : State) (p : Nat) (frame : List Byte) : List Nat :=
  (List.range 16).filter (fun n =>
    let i := wakeIndex n
    let mask := padTo 16 (s.cBytes i 0x03)
    s.cB i 0x01 && s.c i 0x02 = p && decide (maskEnd mask ≤ frame.length) &&
    crc16 (selectedBytes mask frame) = s.c i 0x04)

/-! ## The receive pipeline (R176) -/

/-- The receive timestamp of a frame whose start came at a tick of ET `t` (R107, R108): TDC-refined to 0.1 ns on P0–P3, of that tick on P4
and P5, less RX_DELAY. -/
def stampRx (s : State) (p : Nat) (t : Et) (tdc : Nat) : Et :=
  etShift (t + (if p < 4 then s.eph.increment * (tdc % 25) / 25 else 0)) (-(psToEt (s.cI (0x2110 + p) 0x02)))

/-- The receive timestamp of a frame that comes now. -/
def rxStamp (s : State) (p tdc : Nat) : Et := s.stampRx p s.et tdc

/-- Steps 4 and 5 (R176, R178, R189) for a frame that has passed PRP. -/
def classified (s : State) (p size : Nat) (frame : List Byte) (lanB : Bool) (stamp : Et) : State :=
  match untag frame with
  | none => s.inc32 (pCnt p) 0x0F
  | some (tci, tagged, inner) =>
    match s.classify p inner with
    | .pause q => s.pauseReceive p q
    | .consumed => s
    | .goose => s
    | .fragment => s.inc32 (pCnt p) 0x08
    | .other => s.inc32 (pCnt p) 0x0F
    | .slow => s.bufferFrame p size (.slow ⟨p, inner, tci, tagged, lanB, !s.locked, stamp, false⟩)
    | .data src dst headerOk v6 dgram =>
      match s.fastPath p tci src dst headerOk v6 dgram stamp with
      | (t, none) => t
      | (t, some e) => t.bufferFrame p size (.fast e)

/-- Step 3 (R183–R185): the frame without its RCT; none: discarded as a duplicate. -/
def prpStep (s : State) (p : Nat) (frame : List Byte) : State × Option (List Byte) :=
  match s.prpPairOf p, findRct frame with
  | some n, some (seq, lan) =>
    let s1 := if lan = (if p % 2 = 0 then 0xA else 0xB) then s else s.inc32 (prpIndex n) 0x05
    match s1.prpAccept n (slice frame 6 6) seq with
    | (t, true) => (t, some (frame.take (frame.length - 6)))
    | (t, false) => (t, none)
  | _, _ => (s, some frame)

/-- The MAC checks (R177): the counter of a discarded frame; `frame` is without its FCS. -/
def macCheck (s : State) (p : Nat) (frame : List Byte) (fcsOk : Bool) : Option Nat :=
  if frame.length + 4 < 64 then some 0x04
  else if frame.length + 4 > s.c (pCfg p) 0x07 then some 0x06
  else if !fcsOk then some 0x05
  else none

/-- A frame arrives (R176): the answer's second part is the first wake filter it matches in QUIET (R188). -/
def receive (s : State) (p : Nat) (frame : List Byte) (fcsOk : Bool) (tdc : Nat) : State × Option Nat :=
  if !s.portOn p ∨ !s.serdesOn p then (s, none)
  else
    match s.macCheck p frame fcsOk with
    | some sub => (s.inc32 (pCnt p) sub, none)
    | none =>
      if s.quiet then
        let hits := s.wakeMatches p frame
        (hits.foldl (fun t n => t.inc32 (wakeIndex n) 0x05) (s.inc64 (pCnt p) 0x01), hits.head?)
      else if !s.macAccepts p frame then (s, none)
      else if s.occupancy p + frame.length + 4 > s.rxBuffer p then
        let t := (s.inc64 (pCnt p) 0x07).modPort p (fun x => { x with discarding := true })
        (if (s.port p).discarding then t else t.raiseEvent (8 + 4 * p + 1) p, none)
      else
        match (s.inc64 (pCnt p) 0x01).prpStep p frame with
        | (t, none) => (t, none)
        | (t, some f) =>
          (t.classified p (frame.length + 4) f ((s.prpPairOf p).isSome && p % 2 == 1) (s.rxStamp p tdc), none)

end State

/-- PAUSE_REPEAT (R180). -/
def execPauseRepeat (port : Fin 6) (s : State) : Host.Outcome State Fault Refusal :=
  complete s (fun s => s.pauseRepeat port.val)

/-- PAUSE_FRAME_RECEIVE (R182). -/
def execPauseFrameReceive (port : Fin 6) (quanta : Nat) (s : State) : Host.Outcome State Fault Refusal :=
  complete s (fun s => s.pauseReceive port.val quanta)

/-- PAUSE_EXPIRY (R182). -/
def execPauseExpiry (port : Fin 6) (s : State) : Host.Outcome State Fault Refusal :=
  complete s (fun s => s.pauseEnd port.val)

/-- PAUSE_LIMIT (R182). -/
def execPauseLimit (port : Fin 6) (s : State) : Host.Outcome State Fault Refusal :=
  complete s (fun s => s.pauseLimit port.val)

/-- PAUSE_LIMIT_END (R182). -/
def execPauseLimitEnd (port : Fin 6) (s : State) : Host.Outcome State Fault Refusal :=
  complete s (fun s => s.pauseLimitEnd port.val)

/-- PORT_LINK_CHANGE (R214, R560). -/
def execPortLinkChange (port : Fin 6) (up : Bool) (speed : Nat) (s : State) : Host.Outcome State Fault Refusal :=
  complete s (fun s => s.linkChange port.val up speed)

/-- TX_DESCRIPTOR_POST (R207). -/
def execTxDescriptorPost (port : Fin 6) (cls : Fin 4) (frame : Option (List Byte)) (s : State) : Host.Outcome State Fault Refusal :=
  complete s (fun s => s.txPost port.val cls.val frame)

/-- PRP_ENTRY_FORGET (R185). -/
def execPrpEntryForget (pair : Fin 2) (source : List Byte) (s : State) : Host.Outcome State Fault Refusal :=
  complete s (fun s => s.prpForget pair.val source)

/-- PRP_SUPERVISION_TRANSMIT (R186). -/
def execPrpSupervisionTransmit (pair : Fin 2) (s : State) : Host.Outcome State Fault Refusal :=
  complete s (fun s => s.prpSupervise pair.val)

end Sys2Proof.Machine
end

