-- ==== Sys2Proof/Machine/Ingest.lean ====
section
/-! DEFINITION. Stream ingest: lane ingest queues, frame times, autofill, TCP streams and the stream states (R192–R203, R208–R213). -/

namespace Sys2Proof.Machine

/-- The lane that serves a stream (R15). -/
def laneOf (id : Nat) : Nat := id / 1024

/-- The reporting rates of the manual. -/
def rateSet : List Nat := [10, 12, 15, 20, 25, 30, 50, 60, 100, 120, 200, 240]

namespace State

def modQueue (s : State) (n : Nat) (f : LaneQueue → LaneQueue) : State :=
  s.modIng (fun i => { i with queues := modNth i.queues n f })

/-- LANE_STATE of a lane: 0 RUNNING, 1 FENCED, 2 RELOADING, 3 FAILED; a lane that is not RUNNING is isolated (R49). -/
def laneState (s : State) (n : Nat) : Nat := s.num (0xF130 + n) 0x01
def laneLive (s : State) (n : Nat) : Bool := s.laneState n == 0

/-- The lanes' microcode is loaded, and they are powered: not in QUIET, and not while they are reloaded at a wake (R33, R37). -/
def lanesOn (s : State) : Bool := !s.boot.inReset && decide (6 ≤ s.stage) && s.stage != 15 && decide (s.power ≤ 1)

/-- A lane does its work: it is RUNNING, and powered. -/
def laneRuns (s : State) (n : Nat) : Bool := s.laneLive n && s.lanesOn

/-! ## Lane ingest queues (R208–R213) -/

end State

/-- Tail, spill area of `cap` words and head are all full (R212). -/
def LaneQueue.isFull (q : LaneQueue) (cap : Nat) : Bool :=
  q.tail.length == 16 && q.spill.length == cap && q.head.length == 16

/-- A word is written (R208): through the tail directly into the head while the spill area is empty, else into the spill area, and it stays
in the tail when that is full; none when the queue is full. -/
def LaneQueue.push (q : LaneQueue) (cap : Nat) (w : QWord) : Option LaneQueue :=
  if q.spill.isEmpty ∧ q.head.length < 16 then some { q with head := q.head ++ [w] }
  else if q.spill.length < cap then some { q with spill := q.spill ++ [w], spillNext := q.spillNext + 1 }
  else if q.tail.length < 16 then some { q with tail := q.tail ++ [w] }
  else none

/-- Words written in order, until the queue is full: what it holds then, and the words that are left. -/
def LaneQueue.pushAll (cap : Nat) : LaneQueue → List QWord → LaneQueue × List QWord
  | q, [] => (q, [])
  | q, w :: rest =>
    match q.push cap w with
    | some q' => LaneQueue.pushAll cap q' rest
    | none => (q, w :: rest)

/-- The head has lost a word (R208): one follows it from the spill area, or from the tail when the spill area is empty; one passes from the
tail into the spill area; and the entry under way goes on. -/
def LaneQueue.refill (q : LaneQueue) (cap : Nat) : LaneQueue :=
  let a : LaneQueue := match q.spill, q.tail with
    | w :: rest, _ => { q with head := q.head ++ [w], spill := rest }
    | [], w :: rest => { q with head := q.head ++ [w], tail := rest }
    | [], [] => q
  let b : LaneQueue := match a.tail with
    | w :: rest => if a.spill.length < cap then { a with spill := a.spill ++ [w], spillNext := a.spillNext + 1, tail := rest } else a
    | [] => a
  let r := LaneQueue.pushAll cap b b.part
  { r.1 with part := r.2 }

/-- Words read from the head through the first EOF, after those already read. `fuel` bounds them by the words there are. -/
def LaneQueue.popEntry (cap : Nat) : Nat → LaneQueue → List QWord → LaneQueue × List QWord
  | 0, q, read => (q, read)
  | fuel + 1, q, read =>
    match q.head with
    | [] => (q, read)
    | w :: rest =>
      let q' := ({ q with head := rest } : LaneQueue).refill cap
      if w.eof then (q', read ++ [w]) else LaneQueue.popEntry cap fuel q' (read ++ [w])

namespace State

/-- A lane's queue after a change, with DEPTH_PEAK, the words that have passed into the spill area (0x06 of R524), and FULL_COUNT at an
entry into the full state (R212, R256). -/
def putQueue (s : State) (n : Nat) (q : LaneQueue) : State :=
  let old := s.queue n
  let full := q.isFull s.spillWords
  let t := ((s.modQueue n (fun _ => { q with full := full })).setMax (0x5300 + n) 0x02 q.depth).perf (1 + n) 0x06 (q.spillNext - old.spillNext)
  if full ∧ !old.full then t.inc32 (0x5300 + n) 0x09 else t

/-- A lane's queue takes another entry: it is not full, and no entry is under way. -/
def queueHasRoom (s : State) (n : Nat) : Bool := (s.queue n).part.isEmpty && !(s.queue n).isFull s.spillWords

/-- Frame time of a SOC and FRACSEC with an offset from UTC (R194). -/
def frameTime (soc frac timeBase : Nat) (u : Int) : Int :=
  ((soc : Int) + u) * sec + roundDiv ((frac * sec : Nat) : Int) timeBase

/-- The frame time of an entry (R163, R194): within 2 s of a change of UTC_OFFSET the nearer of two results to the arrival. -/
def entryTime (s : State) (e : IngestEntry) : Int :=
  if e.port = 7 then (e.localTime : Int)
  else
    let soc := field e.frame 6 4
    let frac := field e.frame 11 3
    let tb := s.c (0x4000 + e.stream) 0x0B
    let t := frameTime soc frac tb (s.int 0x2000 0x13)
    match s.ing.utcTick with
    | none => t
    | some tick =>
      let old := frameTime soc frac tb s.ing.prevUtc
      if s.raw < tick + 2 * tickSec ∧ (old - e.arrival).natAbs < (t - e.arrival).natAbs then old else t

/-- What the acceptance of a frame sets in its context (R197, R220); STAT bit 10 starts autofill (R193, R200). -/
def acceptFrame (s : State) (e : IngestEntry) : State :=
  let i := 0x4000 + e.stream
  let stats := if e.port = 7 then [] else statWords (s.c i 0x0C) e.frame 14 (s.ctxBlocks e.stream)
  let stat := stats.headD 0
  let s1 := ((((s.inc64 i 0x1C).setN i 0x1E (s.entryTime e).toNat).setN i 0x1F e.arrival).setN i 0x20 stat).modStream e.stream
    (fun x => { x with accepted := some s.raw })
  let st := s.streamState e.stream
  let s2 := if st = 1 ∨ st = 4 then s1.setN i 0x1A 2 else s1
  if stats.any (fun w => w.testBit 10) then s2.askConfig e.stream else s2

/-- The ARRIVAL and FLAGS of a local frame are those of its write (R163). -/
def atWrite (s : State) (e : IngestEntry) : IngestEntry :=
  if e.port = 7 then { e with arrival := s.et, flags := if s.locked then 0 else 2 } else e

/-- An entry enters its lane's queue (R209), as far as the queue accepts its words; a lane that is isolated takes nothing (R49). -/
def enterQueue (s : State) (x : IngestEntry) : State :=
  let n := laneOf x.stream
  if !s.ctxEnabled x.stream ∨ !s.laneLive n then s
  else
    let e := s.atWrite x
    let q := s.queue n
    let w := e.qwords
    let r := LaneQueue.pushAll s.spillWords q w
    let done := w.length - r.2.length
    let t := (s.acceptFrame e).putQueue n { r.1 with
      part := r.2, times := if e.port = 7 then q.times ++ [e.localTime] else q.times
      writeA := q.writeA + done, writeB := q.writeB + done }
    if r.2.isEmpty then t.inc64 (0x5300 + n) 0x05 else t

/-- Waiting entries pass into a queue that has room again. `fuel` bounds them by their number. -/
def admitWaiting : Nat → State → Nat → State
  | 0, s, _ => s
  | fuel + 1, s, n =>
    match (s.queue n).waiting with
    | e :: rest =>
      if s.queueHasRoom n then admitWaiting fuel ((s.modQueue n (fun q => { q with waiting := rest })).enterQueue e) n
      else s
    | [] => s

/-- An ingest queue is emptied and resumes empty: its frames count as lost, and entries that waited for room come in (R213, R562). -/
def emptyQueue (s : State) (n : Nat) : State :=
  let q := s.queue n
  let t := (s.putQueue n { emptyLaneQueue with waiting := q.waiting, fullTicks := q.fullTicks }).add 64 (0x5300 + n) 0x08 q.frames
  admitWaiting q.waiting.length t n

/-- The pointer copies are compared at every pointer update; a mismatch resets the queue (R213). -/
def checkPointers (s : State) (n : Nat) : State :=
  let q := s.queue n
  if q.writeA = q.writeB ∧ q.readA = q.readB then s
  else ((s.emptyQueue n).inc32 (0x5300 + n) 0x07).raiseEvent (32 + 4 * n + 1) n

/-- An entry is written into its lane's queue. -/
def writeQueue (s : State) (e : IngestEntry) : State := (s.enterQueue e).checkPointers (laneOf e.stream)

/-- An entry that has no port buffer to wait in: written, or kept until its queue has room; nothing waits for an isolated lane. -/
def offerEntry (s : State) (e : IngestEntry) : State :=
  let n := laneOf e.stream
  if (s.queue n).waiting.isEmpty ∧ s.queueHasRoom n then s.writeQueue e
  else if !s.laneLive n then s
  else s.modQueue n (fun q => { q with waiting := q.waiting ++ [e] })

/-- The oldest entry is read from a lane's queue. -/
def readQueue (s : State) (n : Nat) : State × Option IngestEntry :=
  let q := s.queue n
  if q.head.isEmpty then (s, none)
  else
    let r := LaneQueue.popEntry s.spillWords (q.depth + q.part.length) q []
    let e := entryOfWords r.2 (q.times.headD 0)
    let more := q.part.length - r.1.part.length
    let a := s.putQueue n { r.1 with
      times := if e.port = 7 then q.times.tail else q.times
      readA := q.readA + r.2.length, readB := q.readB + r.2.length, writeA := q.writeA + more, writeB := q.writeB + more }
    let b := (if !q.part.isEmpty ∧ r.1.part.isEmpty then a.inc64 (0x5300 + n) 0x05 else a).inc64 (0x5300 + n) 0x06
    ((admitWaiting (b.queue n).waiting.length b n).checkPointers n, some e)

/-- INGEST_QUEUE_WRITE (R208–R212): the fast-path frame at the front of a port's buffer passes into its lane's queue, and the
slow-path frames behind it into the ring. A full queue holds it and everything behind it back. -/
def ingestWrite (s : State) (p : Nat) : State :=
  match (s.port p).fifo with
  | (_, .fast e) :: rest =>
    if s.queueHasRoom (laneOf e.stream) then
      let t := ((s.modPort p (fun x => { x with fifo := rest })).watermarks p).writeQueue e
      passSlow (t.port p).fifo.length t p
    else s
  | _ => s

/-! ## Configuration frames and autofill (R199, R200) -/

end State

end Sys2Proof.Machine

namespace Sys2Proof

open Machine

/-- A configuration frame can be used: DATA_RATE in the set, a layout within the limits, a time base and FNOM in range. -/
def CfgFrame.usable (f : CfgFrame) : Bool :=
  let ph := (f.blocks.map (·.1)).sum
  let an : Nat := (f.blocks.map (fun b => b.2.1)).sum
  let dg : Nat := (f.blocks.map (fun b => b.2.2)).sum
  rateSet.any (fun r => f.rate = (r : Int)) && decide (1 ≤ f.blocks.length) && decide (f.blocks.length ≤ 8) &&
  decide (ph ≤ 32) && decide (an ≤ 8) && decide (dg ≤ 4) && decide (1 ≤ f.timeBase) && decide (f.timeBase ≤ 16777215) &&
  (f.fnom == 50 || f.fnom == 60)

/-- The factor of phasor n (R199): to kV or A. -/
def CfgFrame.phFactor (f : CfgFrame) (n : Nat) : F32 :=
  let current := nth f.currents n false
  if f.format.testBit 1 then F32.ofRat (if current then 1 else 1 / 1000)
  else
    let perBit : Rat := if f.cfg3 then (nth f.phScales n ⟨0⟩).toRat else ((nth f.phUnits n 0 : Nat) : Rat) / 100000
    F32.ofRat (if current then perBit else perBit / 1000)

/-- The factor of analog value n (R199). -/
def CfgFrame.anFactor (f : CfgFrame) (n : Nat) : F32 :=
  if f.cfg3 then nth f.anScales n ⟨0x3F800000#32⟩
  else if f.format.testBit 2 then ⟨0x3F800000#32⟩
  else F32.ofRat (((nth f.anUnits n 0 : Int) : Rat) / 100000)

end Sys2Proof

namespace Sys2Proof.Machine

namespace State

def isTcp (s : State) (id : Nat) : Bool := decide (0 < id) && decide (id < 4088) && s.ctxEnabled id && s.c (0x4000 + id) 0x03 == 1

/-- TCP_RATE: the sum of RATE over the enabled TCP contexts (R219). -/
def showTcpRate (s : State) : State := s.setN 0x4000 0x03 ((s.enabledRemote.filter s.isTcp).map s.ctxRate).sum

/-- Autofill writes subindices 0A–12 of a context in the committed configuration (R199). -/
def autofill (s : State) (id : Nat) (f : CfgFrame) : State :=
  let i := 0x4000 + id
  let one := fun (t : State) (sub : Nat) (v : Value) => t.setConfig i sub [(0, v)]
  let kinds := bitsOfList (f.currents.take 32)
  let s1 := one (one (one (one s 0x0A (.int f.rate)) 0x0B (vNat f.timeBase)) 0x0C (vNat (f.format % 16))) 0x0D (vNat f.blocks.length)
  let s2 := one (one s1 0x0E (.bytes (f.blocks.flatMap (fun b => [byte b.1, byte b.2.1, byte b.2.2])))) 0x0F (vNat kinds)
  let np := (f.blocks.map (·.1)).sum
  let na := (f.blocks.map (·.2.1)).sum
  let s3 := s2.setConfig i 0x10 ((List.range 32).map (fun n =>
    (n, .bytes (beBytes 4 (if n < np then (f.phFactor n).nat else 0x3F800000)))))
  let s4 := s3.setConfig i 0x11 ((List.range 8).map (fun n =>
    (n, .bytes (beBytes 4 (if n < na then (f.anFactor n).nat else 0x3F800000)))))
  let s5 := (((one s4 0x12 (vNat f.fnom)).inc32 i 0x21).refreshCrc).showTcpRate
  if s5.streamState id = 5 then s5.setStreamState id 1 else s5

/-- The layouts of configuration frames take effect at a transit boundary (R199); one whose context has gone by then does not. -/
def autofillNow (s : State) : State :=
  s.ing.autofills.foldl (fun (t : State) x => if t.ctxEnabled x.1 ∧ t.cB (0x4000 + x.1) 0x18 then t.autofill x.1 x.2 else t)
    (s.modIng (fun i => { i with autofills := [] }))

/-- Transmission is turned on (R201). -/
def tcpStart (s : State) (id : Nat) : State := (s.sendStreamCommand id 0x0002).setN (0x4000 + id) 0x1B 3

/-- A CFG-2 or CFG-3 frame of a stream (R199–R201): its layout waits for the next transit boundary, and for none while no transits run. -/
def cfgReceive (s : State) (id : Nat) (f : CfgFrame) : State :=
  if id = 0 ∨ 4088 ≤ id ∨ !s.ctxEnabled id then s
  else
    let s1 := if s.cB (0x4000 + id) 0x18 ∧ f.usable then
        s.modIng (fun i => { i with autofills := i.autofills.filter (fun x => x.1 != id) ++ [(id, f)] })
      else s
    let s2 := if s1.transitsRun then s1 else s1.autofillNow
    if s2.c (0x4000 + id) 0x03 = 1 ∧ s2.num (0x4000 + id) 0x1B = 2 then s2.tcpStart id else s2

/-! ## TCP streams (R201, R202) -/

def tcpState (s : State) (id : Nat) : Nat := s.num (0x4000 + id) 0x1B

/-- A failed or lost connection: CLOSED, with the next attempt 5 s later. -/
def tcpClosed (s : State) (id : Nat) : State :=
  (s.setN (0x4000 + id) 0x1B 0).modStream id (fun x => { x with tcpTick := s.raw })

/-- TCP_CONNECT_ATTEMPT (R201): an attempt succeeds or fails; in a connected state a failure is the loss of the connection. -/
def tcpConnect (s : State) (id : Nat) (connected : Bool) : State :=
  if !s.isTcp id then s
  else if !connected then s.tcpClosed id
  else if s.tcpState id ≠ 1 then s
  else if (s.sourcePort id).isNone then s.tcpClosed id
  else if s.cB (0x4000 + id) 0x19 then
    ((s.sendStreamCommand id 0x0005).setN (0x4000 + id) 0x1B 2).modStream id (fun x => { x with
      tcpTick := s.raw, asked := some s.raw })
  else s.tcpStart id

/-- TCP_RETRY_EXPIRY (R201): 5 s after a failed or lost connection. -/
def tcpRetry (s : State) (id : Nat) : State :=
  if s.isTcp id ∧ s.tcpState id = 0 ∧ s.raw ≥ (s.stream id).tcpTick + 5 * tickSec then s.setN (0x4000 + id) 0x1B 1 else s

/-- TCP_CFG_WAIT_TIMEOUT (R201): 5 s without a configuration frame. -/
def tcpCfgTimeout (s : State) (id : Nat) : State :=
  if s.isTcp id ∧ s.tcpState id = 2 ∧ s.raw ≥ (s.stream id).tcpTick + 5 * tickSec then s.tcpStart id else s

/-- TCP_STREAM_FRAME (R202): a data frame in the context's layout enters the lane's queue with port code 6; what R190 step 5
refuses is counted in DISCARDS. Its arrival is the receive timestamp of the segment with its last byte. -/
def tcpFrame (s : State) (id p tdc : Nat) (frame : List Byte) : State :=
  if !s.isTcp id ∨ s.tcpState id ≠ 3 then s
  else
    let i := 0x4000 + id
    let b1 := field frame 1 1
    let size := field frame 2 2
    if frame.length < 16 ∨ nth frame 0 0 ≠ 0xAA ∨ b1 ≥ 16 ∨ (b1 % 16 ≠ 1 ∧ b1 % 16 ≠ 2) ∨ field frame 4 2 ≠ s.c i 0x02 then s
    else if size ≠ frame.length then s.inc32 i 0x1D
    else if size ≠ dataFrameSize (s.c i 0x0C) (s.ctxBlocks id) then (s.inc32 i 0x1D).mismatch id
    else if crc16 (frame.take (size - 2)) ≠ field frame (size - 2) 2 then s.inc32 i 0x1D
    else if field frame 11 3 ≥ s.c i 0x0B then s
    else s.offerEntry ⟨id, 6, if s.locked then 0 else 2, s.rxStamp p tdc, 0, frame, 0, []⟩

/-! ## Stream states (R197) -/

/-- No frame accepted for 2 s: only a RECEIVING stream becomes SILENT (log entry 30). -/
def silent (s : State) (id : Nat) : State :=
  match (s.stream id).accepted with
  | none => s
  | some t =>
    if s.ctxEnabled id ∧ s.streamState id = 2 ∧ s.raw ≥ t + 2 * tickSec then s.setStreamState id 4 else s

/-- The state a stream leaves LATE for (R236). -/
def afterLate (s : State) (id : Nat) : State :=
  let fresh : Bool := match (s.stream id).accepted with
    | none => false
    | some t => decide (s.raw < t + 2 * tickSec)
  s.setStreamState id (if fresh then 2 else 4)

/-- A local frame enters the L3 queue (R163). -/
def localFrame (s : State) (bay : Nat) (r : Report) : State :=
  s.offerEntry ⟨4088 + bay, 7, 0, s.et, 0, (r.entries.map encodeEntry).flatten, r.time, []⟩

end State

/-- INGEST_QUEUE_WRITE (R208). -/
def execIngestQueueWrite (port : Fin 6) (s : State) : Host.Outcome State Fault Refusal :=
  complete s (fun s => s.ingestWrite port.val)

/-- CFG_FRAME_RECEIVE (R199). -/
def execCfgFrameReceive (stream : Nat) (cfg : CfgFrame) (s : State) : Host.Outcome State Fault Refusal :=
  complete s (fun s => s.cfgReceive stream cfg)

/-- TCP_CONNECT_ATTEMPT (R201). -/
def execTcpConnectAttempt (stream : Nat) (connected : Bool) (s : State) : Host.Outcome State Fault Refusal :=
  complete s (fun s => s.tcpConnect stream connected)

/-- TCP_RETRY_EXPIRY (R201). -/
def execTcpRetryExpiry (stream : Nat) (s : State) : Host.Outcome State Fault Refusal :=
  complete s (fun s => s.tcpRetry stream)

/-- TCP_CFG_WAIT_TIMEOUT (R201). -/
def execTcpCfgWaitTimeout (stream : Nat) (s : State) : Host.Outcome State Fault Refusal :=
  complete s (fun s => s.tcpCfgTimeout stream)

/-- BAY_REPORT (R150, R163): the bay's results for its next instant, and its frame into the L3 queue. -/
def execBayReport (bay : Fin 8) (s : State) : Host.Outcome State Fault Refusal :=
  complete s (fun s =>
    match s.bayReport bay.val with
    | (t, some r) => t.localFrame bay.val r
    | (t, none) => t)

end Sys2Proof.Machine
end

