-- ==== Sys2Proof/Machine/Transit.lean ====
section
/-! DEFINITION. Transit engine: instants and rates, conversion, matching, partial transits, the merge and release in order,
late frames, the watch vector and the lane task scheduler (R222–R257, R563, R564). -/

namespace Sys2Proof.Machine

/-! ## Instants (R222, R564) -/

/-- T_k on the ET scale: k × 10^9 / F_t ns, to the nearest 2^-32 ns, ties away from zero (R222). -/
def instantEt (k rate : Nat) : Et := (roundDiv ((k * sec : Nat) : Int) rate).toNat

namespace State

/-- The rate segment that covers an ET. -/
def segAt (s : State) (t : Et) : RateSeg :=
  (s.tr.segs.find? (fun g => g.fromEt ≤ t)).getD ⟨0, s.c 0x5000 0x01, 0⟩

/-- The ordinal of the first instant of a segment. -/
def RateSeg.firstOrd (g : RateSeg) : Nat :=
  (((g.fromEt * g.rate + sec - 1) / sec : Nat) + g.off : Int).toNat

/-- The segment that an ordinal belongs to. -/
def segOf (s : State) (ord : Nat) : RateSeg :=
  (s.tr.segs.find? (fun g => RateSeg.firstOrd g ≤ ord)).getD (s.segAt 0)

/-- A released instant, or a run of skipped ones, reaches the first instant of a rate that has replaced another (R225, R564). -/
def newRate (s : State) (r : Released) : Bool :=
  s.tr.segs.dropLast.any (fun g => decide (r.ord ≤ RateSeg.firstOrd g) && decide (RateSeg.firstOrd g < r.ord + r.run))

/-- K and T_k of an ordinal. -/
def kOf (s : State) (ord : Nat) : Nat := ((ord : Int) - (s.segOf ord).off).toNat
def tkOf (s : State) (ord : Nat) : Et := instantEt (s.kOf ord) (s.segOf ord).rate

/-- The first instant at or after an ET, as an ordinal. -/
def firstAt (s : State) (t : Et) : Nat :=
  let g := s.segAt t
  ((((t * g.rate + sec - 1) / sec : Nat) : Int) + g.off).toNat

/-- The pending ordinal that an instant number names: the lowest not below the next one to release (R564). -/
def ordOfK (s : State) (k : Nat) : Option Nat :=
  ((s.tr.segs.map (fun g => ((k : Int) + g.off).toNat)).filter (fun o =>
    decide (s.tr.nextOrd ≤ o) && s.kOf o == k)).min?

/-- Stream s is expected at an instant (R227). -/
def expectedAt (s : State) (id ord : Nat) : Bool := s.kOf ord * s.ctxRate id % (s.segOf ord).rate == 0

/-- W in ET units. -/
def wEt (s : State) : Et := s.c 0x5000 0x02 * ms

/-- Ticks from now until an ET is reached on the present segment; 0 when it has passed. -/
def ticksUntil (s : State) (t : Et) : Nat := (t - s.et + s.eph.increment - 1) / s.eph.increment

/-! ## Lanes -/

def lane (s : State) (n : Nat) : Lane := nth s.tr.lanes n ⟨0, [], [], [], [], 0, [], [], false, none⟩

def modLane (s : State) (n : Nat) (f : Lane → Lane) : State :=
  s.modTr (fun t => { t with lanes := modNth t.lanes n f })

/-- The slot of an ordinal in a lane, when it is in use. -/
def laneSlot (s : State) (n ord : Nat) : Option LaneSlot := (s.lane n).slots.find? (fun x => x.ord = ord)

/-- A slot replaced by a function of it; it is taken into use when it is not yet, and PENDING_PEAK follows. -/
def modSlot (s : State) (n ord : Nat) (f : LaneSlot → LaneSlot) : State :=
  let t := s.modLane n (fun l => { l with
    slots := if l.slots.any (fun x => x.ord = ord) then l.slots.map (fun x => if x.ord = ord then f x else x)
             else l.slots ++ [f ⟨ord, [], [], false, false⟩] })
  t.setMax (0x5200 + n) 0x0F (t.lane n).slots.length

/-- The enabled streams of a lane. -/
def laneStreams (s : State) (n : Nat) : List Nat := s.enabledStreams.filter (fun id => laneOf id = n)

/-- A stream is excused (R229): SILENT, MISMATCH or FENCED with EXCUSE_SILENT. -/
def excused (s : State) (id : Nat) : Bool :=
  s.cB 0x5000 0x05 && (s.streamState id == 4 || s.streamState id == 5 || s.streamState id == 6)

/-- The lane has a required stream expected at an instant, excused or not (R229, R230). -/
def laneRequired (s : State) (n ord : Nat) : Bool :=
  (s.laneStreams n).any (fun id => s.cB (0x4000 + id) 0x13 && s.expectedAt id ord)

/-- Required, expected, unexcused streams of a lane that have no frame among those stored (R229, R246). -/
def laneMissing (s : State) (n ord : Nat) (stored : List (Nat × List Entry)) : Nat :=
  ((s.laneStreams n).filter (fun id => s.cB (0x4000 + id) 0x13 && s.expectedAt id ord && !s.excused id &&
    (lookup id stored).isNone)).length

end State

/-! ## Conversion (R238–R240) -/

/-- The flags of a PMU block's STAT (R239). -/
def statFlags (stat tqLimit : Nat) : Quality :=
  let err := stat / 16384
  qIf (err = 1 ∨ err = 3) qSOURCE_ERROR ||| qIf (err = 2) qTEST |||
  qIf (stat.testBit 13 || stat.testBit 12 || decide (bits stat 8 6 ≥ tqLimit) || decide (bits stat 5 4 ≠ 0)) qTIME_UNLOCKED |||
  qIf (stat.testBit 9) qSUBSTITUTED

/-- A value from a word of DRAM with an uncorrectable error (R40): ABSENT with SOURCE_ERROR beside its flags. -/
def spoiltEntry (e : Entry) : Entry :=
  ⟨absentValue, qMake false (qFlags e.quality ||| qSet 0#16 qABSENT ||| qSet 0#16 qSOURCE_ERROR), 0xFFFF⟩

/-- The bytes of an entry's frame from `o` on lay in such a word, or its header or the frame's own header did. -/
def IngestEntry.spoils (e : IngestEntry) (o size : Nat) : Bool :=
  e.bad.any (fun p => decide (p < 4) || (e.port != 7 && decide (p < 6)) || decide (8 * p < 32 + o + size) && decide (32 + o < 8 * p + 8))

/-- A converted value with its block's flags (R238, R243). -/
def valueEntry (v : F64) (flags : Quality) : Entry := ⟨v.to32, qMake true flags, 0⟩

/-- A value that its frame marks as missing (R240). -/
def missingEntry (flags : Quality) : Entry := ⟨absentValue, qMake false (flags ||| qSet 0#16 qABSENT), 0xFFFF⟩

/-- An F32 read from a frame, as F64; none for NaN. -/
def floatAt (b : List Byte) (o : Nat) : Option F64 :=
  let x := F32.ofBits (field b o 4)
  if x.isNaN then none else some x.to64

/-- An I16 read from a frame. -/
def int16At (b : List Byte) (o : Nat) : Int := toSigned 16 (field b o 2)

/-- One number of a frame, an I16 (through a function) or an F32 by a FORMAT bit, as an entry. -/
def numberEntry (b : List Byte) (o : Nat) (float : Bool) (int_ : Int → F64) (flt : F64 → F64) (flags : Quality) : Entry :=
  if float then
    match floatAt b o with
    | some x => valueEntry (flt x) flags
    | none => missingEntry flags
  else valueEntry (int_ (int16At b o)) flags

/-- A phasor's magnitude and angle entries (R238, R240). -/
def phasorEntries (b : List Byte) (o format : Nat) (factor : F64) (flags : Quality) : List Entry :=
  let polar := format.testBit 0
  if format.testBit 1 then
    match floatAt b o, floatAt b (o + 4) with
    | some x, some y =>
      if polar then [valueEntry (x.mul factor) flags, valueEntry y.wrap flags]
      else [valueEntry ((Cplx.abs ⟨x, y⟩).mul factor) flags, valueEntry (argOf ⟨x, y⟩).wrap flags]
    | some x, none => if polar then [valueEntry (x.mul factor) flags, missingEntry flags] else [missingEntry flags, missingEntry flags]
    | none, some y => if polar then [missingEntry flags, valueEntry y.wrap flags] else [missingEntry flags, missingEntry flags]
    | none, none => [missingEntry flags, missingEntry flags]
  else if field b o 2 = 0x8000 ∨ field b (o + 2) 2 = 0x8000 then [missingEntry flags, missingEntry flags]
  else if polar then
    [valueEntry ((F64.ofInt (field b o 2)).mul factor) flags,
     valueEntry ((F64.ofInt (int16At b (o + 2))).mul (F64.ofRat (1 / 10000))).wrap flags]
  else
    let c : Cplx := ⟨F64.ofInt (int16At b o), F64.ofInt (int16At b (o + 2))⟩
    [valueEntry (c.abs.mul factor) flags, valueEntry (argOf c).wrap flags]

namespace State

/-- One PMU block's entries (R240). `ph0` and `an0` are the frame positions of its first phasor and analog value. A value whose bytes, or
whose STAT, lay in a word of DRAM with an uncorrectable error is not used (R40). -/
def blockEntries (s : State) (e : IngestEntry) (o ph0 an0 : Nat) (blk : Nat × Nat × Nat) : List Entry :=
  let i := 0x4000 + e.stream
  let frame := e.frame
  let format := s.c i 0x0C
  let flags := statFlags (field frame o 2) (s.c 0x5000 0x06)
  let phSize := if format.testBit 1 then 8 else 4
  let anSize := if format.testBit 2 then 4 else 2
  let frSize := if format.testBit 3 then 4 else 2
  let oFreq := o + 2 + blk.1 * phSize
  let oAn := oFreq + 2 * frSize
  let oDg := oAn + blk.2.1 * anSize
  let fac := fun (sub n : Nat) => (F32.ofBits (beNat (s.cElem i sub n))).to64
  let whole := e.spoils o 2
  let kept := fun (at_ size : Nat) (l : List Entry) => if whole || e.spoils at_ size then l.map spoiltEntry else l
  kept oFreq frSize [numberEntry frame oFreq (format.testBit 3)
      (fun v => (F64.ofInt (s.c i 0x12)).add ((F64.ofInt v).div (F64.ofInt 1000))) (fun x => x) flags] ++
  kept (oFreq + frSize) frSize [numberEntry frame (oFreq + frSize) (format.testBit 3) (fun v => (F64.ofInt v).div (F64.ofInt 100)) (fun x => x) flags] ++
  (List.range blk.1).flatMap (fun n =>
    kept (o + 2 + n * phSize) phSize (phasorEntries frame (o + 2 + n * phSize) format (fac 0x10 (ph0 + n)) flags)) ++
  (List.range blk.2.1).flatMap (fun n => kept (oAn + n * anSize) anSize
    [numberEntry frame (oAn + n * anSize) (format.testBit 2)
      (fun v => (F64.ofInt v).mul (fac 0x11 (an0 + n))) (fun x => x.mul (fac 0x11 (an0 + n))) flags]) ++
  (List.range blk.2.2).flatMap (fun n => kept (oDg + 2 * n) 2 [valueEntry (F64.ofInt (field frame (oDg + 2 * n) 2)) flags])

/-- All blocks of a frame in order (R240). -/
def blocksEntries (s : State) (e : IngestEntry) : Nat → Nat → Nat → List (Nat × Nat × Nat) → List Entry
  | _, _, _, [] => []
  | o, ph0, an0, blk :: rest =>
    s.blockEntries e o ph0 an0 blk ++
    blocksEntries s e (o + blockSize (s.c (0x4000 + e.stream) 0x0C) blk) (ph0 + blk.1) (an0 + blk.2.1) rest

end State

/-- An entry from its 8 bytes (R243). -/
def decodeEntry (b : List Byte) : Entry := ⟨F32.ofBits (field b 0 4), BitVec.ofNat 16 (field b 4 2), field b 6 2⟩

namespace State

/-- The stream record of an ingest entry (R163, R240). -/
def convert (s : State) (e : IngestEntry) : List Entry :=
  if e.port = 7 then ((chunks 8 35 e.frame).zip (List.range 35)).map (fun x =>
    if e.spoils (8 * x.2) 8 then spoiltEntry (decodeEntry x.1) else decodeEntry x.1)
  else s.blocksEntries e 14 0 0 (s.ctxBlocks e.stream)

/-! ## The watch table (R241–R243) -/

/-- The used entries of the committed watch table: entry number and its 8 bytes. -/
def watchTable (s : State) : List (Nat × List Byte) :=
  (s.cfg.filter (fun e => e.1 / 65536 == 0x5100 * 256 + 1)).map (fun e => (e.1 % 65536, e.2.toBytes))

end State

/-- The place in a stream record of a block's FREQ (what 0), ROCOF (1), a phasor of the frame (2 magnitude, 3 angle), an analog
value (4) or a digital word (5) of the frame, all numbered through the frame; none beyond the layout. -/
def recordPos (what n : Nat) : List (Nat × Nat × Nat) → Nat → Nat → Nat → Nat → Nat → Option Nat
  | [], _, _, _, _, _ => none
  | blk :: rest, o, b, ph, an, dg =>
    let size := 2 + 2 * blk.1 + blk.2.1 + blk.2.2
    if what = 0 ∧ n = b then some o
    else if what = 1 ∧ n = b then some (o + 1)
    else if (what = 2 ∨ what = 3) ∧ ph ≤ n ∧ n < ph + blk.1 then some (o + 2 + 2 * (n - ph) + (what - 2))
    else if what = 4 ∧ an ≤ n ∧ n < an + blk.2.1 then some (o + 2 + 2 * blk.1 + (n - an))
    else if what = 5 ∧ dg ≤ n ∧ n < dg + blk.2.2 then some (o + 2 + 2 * blk.1 + blk.2.1 + (n - dg))
    else recordPos what n rest (o + size) (b + 1) (ph + blk.1) (an + blk.2.1) (dg + blk.2.2)

/-- A value of a stream record. -/
def recordAt (blocks : List (Nat × Nat × Nat)) (record : List Entry) (what n : Nat) : Entry :=
  match recordPos what n blocks 0 0 0 0 0 with
  | some i => nth record i absentEntry
  | none => absentEntry

/-- P or Q of two phasors in F64, rounded to F32 (R242). -/
def phasorPower (vm va im ia : Entry) (three reactive : Bool) : Entry :=
  let q := qUnion [vm.quality, va.quality, im.quality, ia.quality]
  if qBit q qABSENT then ⟨absentValue, qMake false q, 0xFFFF⟩
  else
    let d := va.value.to64.sub ia.value.to64
    let m := F64.ofInt (if three then 3 else 1)
    let x := (((m.mul vm.value.to64).mul im.value.to64).mul (if reactive then sinOf d else cosOf d)).div (F64.ofInt 1000)
    ⟨x.to32, qMake true q, max vm.age im.age⟩

/-- One watch entry from its stream's record (R241, R242). -/
def watchValue (w : List Byte) (blocks : List (Nat × Nat × Nat)) (fnom : Nat) (record : List Entry) : Entry :=
  let kind := field w 2 1
  let block := field w 3 1
  let item := field w 4 1
  let item2 := field w 5 1
  let at_ := recordAt blocks record
  match kind with
  | 1 => at_ 2 item
  | 2 => at_ 3 item
  | 3 => at_ 0 block
  | 4 =>
    let e := at_ 0 block
    if qBit e.quality qABSENT then e else { e with value := (e.value.to64.sub (F64.ofInt fnom)).to32 }
  | 5 => at_ 1 block
  | 6 => phasorPower (at_ 2 item) (at_ 3 item) (at_ 2 item2) (at_ 3 item2) ((field w 6 1).testBit 0) false
  | 7 => phasorPower (at_ 2 item) (at_ 3 item) (at_ 2 item2) (at_ 3 item2) ((field w 6 1).testBit 0) true
  | 8 => at_ 4 item
  | 9 =>
    let e := at_ 5 item
    if qBit e.quality qABSENT then e
    else { e with value := f32OfBool (e.value.toRat.floor.toNat.testBit item2) }
  | _ => absentEntry

namespace State

/-- The held value of a stream at an instant: the last stored frame of an earlier instant (R228). -/
def heldRecord (s : State) (n id ord : Nat) : Option (Nat × List Entry) :=
  let stored := (s.lane n).slots.filterMap (fun x =>
    if x.ord < ord ∧ !x.unheld.contains id then (lookup id x.frames).map (fun r => (x.ord, r)) else none)
  let old := ((lookup id (s.lane n).held).toList).filter (fun h => h.1 < ord)
  (stored ++ old).foldl (fun best h => match best with
    | none => some h
    | some b => if b.1 < h.1 then some h else some b) none

/-- A stream's record at an instant (R228, R236): its frame, its held value, or none where it is ABSENT. -/
def recordFor (s : State) (n id ord : Nat) : Option (List Entry) :=
  let st := s.streamState id
  let frames := ((s.laneSlot n ord).map (·.frames)).getD []
  let base : Option (List Entry) :=
    match lookup id frames with
    | some r => some r
    | none =>
      if s.c (0x4000 + id) 0x14 = 1 ∧ (st = 2 ∨ st = 3) then
        (s.heldRecord n id ord).map (fun h => h.2.map (fun e =>
          { e with quality := qSet e.quality qHELD, age := if qBit e.quality qABSENT then 0xFFFF else min 65534 (e.age + (ord - h.1)) }))
      else none
  base.map (fun r => if st = 3 then r.map (fun e => { e with quality := qSet e.quality qLATE }) else r)

/-- An ABSENT value of a stream; it carries LATE while the stream is LATE (R236). -/
def absentOf (s : State) (id : Nat) : Entry :=
  if s.ctxEnabled id ∧ s.streamState id = 3 then { absentEntry with quality := qSet absentEntry.quality qLATE } else absentEntry

/-- A lane's part of the watch vector at an instant (R242). -/
def watchPart (s : State) (n ord : Nat) : List (Nat × Entry) :=
  s.watchTable.filterMap (fun w =>
    let id := field w.2 0 2
    if id = 0 ∨ laneOf id ≠ n then none
    else
      match (if s.ctxEnabled id then s.recordFor n id ord else none) with
      | none => some (w.1, s.absentOf id)
      | some r => some (w.1, watchValue w.2 (s.ctxBlocks id) (s.ctxFnom id) r))

/-! ## Partial transits (R229, R230) -/

/-- Frames of instants that fall below base become the held values of their streams (R228). -/
def holdFrames (held : List (Nat × Nat × List Entry)) (x : LaneSlot) : List (Nat × Nat × List Entry) :=
  (x.frames.filter (fun f => !x.unheld.contains f.1)).foldl (fun h f =>
    match lookup f.1 h with
    | some old => if old.1 < x.ord then insertKey f.1 (x.ord, f.2) h else h
    | none => insertKey f.1 (x.ord, f.2) h) held

/-- The lowest ordinal from `b` on whose partial the lane has not sent; `fuel` bounds it by the slots. -/
def nextUnsent (slots : List LaneSlot) : Nat → Nat → Nat
  | 0, b => b
  | fuel + 1, b => if slots.any (fun x => x.ord = b && x.sent) then nextUnsent slots fuel (b + 1) else b

/-- base moves to at least an ordinal, and past every instant whose partial is sent (R226). -/
def advanceBase (s : State) (n least : Nat) : State :=
  s.modLane n (fun l =>
    let b := nextUnsent l.slots (l.slots.length + 1) (max l.base least)
    { l with
      base := b
      held := (l.slots.filter (fun x => x.ord < b)).foldl holdFrames l.held
      slots := l.slots.filter (fun x => decide (b ≤ x.ord)) })

/-- The lane sends its partial for an instant (R229, R230). -/
def sendPartial (s : State) (n ord : Nat) : State :=
  let frames := ((s.laneSlot n ord).map (·.frames)).getD []
  let p : Partial := ⟨ord, s.watchPart n ord, frames.length, s.laneMissing n ord frames⟩
  let t := (s.modLane n (fun l => { l with outbox := l.outbox ++ [p] })).modSlot n ord (fun x => { x with sent := true })
  ((t.perf (1 + n) 0x0C 1).perf (1 + n) 0x07 1).advanceBase n 0

/-- An instant is skipped, and waits for the one before it (R237, R563). -/
def isSkipped (s : State) (ord : Nat) : Bool :=
  s.tr.insts.any (fun i => i.skip && decide (i.ord ≤ ord) && decide (ord < i.ord + i.run))

/-- The lane has sent its partial for an instant, or the instant lies below base or is skipped. -/
def partialSent (s : State) (n ord : Nat) : Bool :=
  decide (ord < (s.lane n).base) || (((s.laneSlot n ord).map (·.sent)).getD false) || s.isSkipped ord

end State

/-! ## The lane task scheduler (R248–R252) -/

/-- Class of a task's work (R248). -/
def taskClass : TaskWork → Nat
  | .strobe _ | .answer _ | .partialOf _ | .forward _ => 0
  | .alarm _ => 1
  | .watch _ => 2
  | .assemble _ _ => 3
  | .convert _ => 4
  | .parse => 5
  | .update _ => 6
  | .service _ => 7

/-- The ordered flow of a task (R251): its stream, or 0 for SERVICE; a PARSE task's is not known yet, and other work is in none. -/
def taskFlow : TaskWork → Option Nat
  | .convert e => some e.stream
  | .assemble e _ => some e.stream
  | .service _ => some 0
  | _ => none

/-- A task may hold an earlier frame of a flow: its own does, and so may one that is not parsed yet. -/
def mayHoldFlow (w : TaskWork) (flow : Option Nat) : Bool := w == .parse || ((taskFlow w).isSome && taskFlow w == flow)

/-- TURN (R251): no frame of the same flow that was admitted earlier is still on its way. -/
def hasTurn (l : Lane) (t : Task) : Bool :=
  l.tasks.all (fun x => decide (t.frame ≤ x.frame) || !mayHoldFlow x.work (taskFlow t.work))

/-- The readiness masks of the classes (R248). -/
def classMask : Nat → Nat
  | 0 => 0x18
  | 1 => 0x11
  | 2 => 0x21
  | 3 => 0x07
  | 6 => 0x41
  | 7 => 0x11
  | _ => 0x01

/-- The credit that a message takes on a link that holds `held` (R18): a pool credit, its class's escape credit, or none. -/
def creditFor (held : List (MsgClass × Bool)) (cls : MsgClass) : Option Bool :=
  let pool := held.filter (fun (h : MsgClass × Bool) => !h.2)
  let free := decide (pool.length < 60)
  match cls with
  | .bulk => if free && decide ((pool.filter (fun (h : MsgClass × Bool) => h.1 == .bulk)).length < 48) then some false else none
  | .watch | .mgmt => if free then some false else none
  | .release | .alarm =>
    if free then some false
    else if held.any (fun (h : MsgClass × Bool) => h.2 && h.1 == cls) then none
    else some true

/-- The class of a task class's messages on a Zonov link (R17). -/
def taskMessage (cls : Nat) : MsgClass := if cls = 0 then .release else if cls = 1 then .alarm else if cls = 2 then .watch else .mgmt

/-- The lane holds work of an instant's ring exchange that is not done, so that its watch vector is not whole (R244). -/
def Lane.exchanging (l : Lane) (ord : Nat) : Bool :=
  (l.tasks.map (·.work) ++ l.work).any (fun w => w == .forward ord || w == .watch ord)

namespace State

/-- A message of a class would find a credit on a link. -/
def hasCredit (s : State) (link : Nat) (cls : MsgClass) : Bool := (creditFor (nth s.fab.links link ⟨[], false⟩).held cls).isSome

/-- The whole watch vector of the oldest transit that waits for a lane's inter-area update is present; one that was dropped has none. -/
def ringIn (s : State) (n : Nat) : Bool :=
  match nth s.tr.toSpectro n [] with
  | r :: _ => !(s.lane n).exchanging r.ord
  | [] => true

/-- The event flags of a task (R249). INPUT fails only for a PARSE task whose entry a queue reset has lost; SLOT is set, since a frame
that has no pending slot is counted and discarded, or late, in its ASSEMBLE task (R226); a RELEASE task is admitted by the strobe or
notice of its instant. -/
def taskFlags (s : State) (n : Nat) (t : Task) : Nat :=
  let l := s.lane n
  let cls := taskClass t.work
  bitsOfList [
    t.work != .parse || decide (0 < (s.queue n).frames), hasTurn l t, true, cls == 0,
    s.hasCredit (4 + n) (taskMessage cls), s.hasCredit (8 + n) .watch,
    (match t.work with
     | .update false => s.ringIn n
     | _ => true),
    cls == 5 || cls == 7]

/-- A task is ready (R250): by its class's mask in FLAGS mode; in PRIORITY mode by INPUT, and for ASSEMBLE by TURN and SLOT too. -/
def taskReady (s : State) (n : Nat) (t : Task) : Bool :=
  let cls := taskClass t.work
  let mask := if s.c (0x5200 + n) 0x01 = 0 then classMask cls else if cls = 3 then 0x07 else 0x01
  s.taskFlags n t &&& mask == mask

/-- The task that the scheduler dispatches next (R250): RELEASE and ALARM first, then the earliest admitted; in PRIORITY mode the earliest
of the highest level. -/
def nextTask (s : State) (n : Nat) : Option Task :=
  let ready := (s.lane n).tasks.filter (s.taskReady n)
  if s.c (0x5200 + n) 0x01 = 0 then
    match ready.find? (fun t => decide (taskClass t.work ≤ 1)) with
    | some t => some t
    | none => ready.head?
  else
    ready.foldl (fun best t => match best with
      | none => some t
      | some b =>
        if s.c (0x5200 + n) (2 + taskClass b.work) < s.c (0x5200 + n) (2 + taskClass t.work) then some t else some b) none

end State

/-- The slots that tasks of some classes hold. -/
def Lane.busy (l : Lane) (p : Nat → Bool) : Nat := (l.tasks.filter (fun t => p (taskClass t.work))).length

/-- A task of a class finds a slot (R250): two of the 64 are kept for RELEASE and two for ALARM, and the others share 60. -/
def Lane.hasSlot (l : Lane) (cls : Nat) : Bool :=
  let release := l.busy (· == 0)
  let alarm := l.busy (· == 1)
  if cls = 0 then decide (l.tasks.length + (2 - alarm) < 64)
  else if cls = 1 then decide (l.tasks.length + (2 - release) < 64)
  else decide (l.tasks.length - release - alarm < 60)

/-- Work that waits for a slot is admitted, oldest first. -/
def Lane.admitWork (l : Lane) : Lane :=
  l.work.foldl (fun a w =>
    if a.hasSlot (taskClass w) then { a with tasks := a.tasks ++ [⟨a.nextFrame, w⟩], nextFrame := a.nextFrame + 1 }
    else { a with work := a.work ++ [w] }) { l with work := [] }

/-- Up to `more` tasks with the same work are admitted. -/
def Lane.admitSame (l : Lane) (w : TaskWork) (more : Nat) : Lane :=
  let k := min more (60 - (l.tasks.length - l.busy (decide <| · ≤ 1)))
  { l with tasks := l.tasks ++ (List.range k).map (fun i => ⟨l.nextFrame + i, w⟩), nextFrame := l.nextFrame + k }

/-- A lane without frames, work and messages. -/
def Lane.emptied (l : Lane) : Lane :=
  { l with slots := [], held := [], tasks := [], work := [], notices := [], outbox := [], saturated := false }

/-- Tasks with a work. -/
def Lane.count (l : Lane) (w : TaskWork) : Nat := (l.tasks.filter (fun t => t.work == w)).length

namespace State

/-- Tasks are admitted (R250, R252): the work that waits, the updates of the transits and local blocks that wait, and PARSE tasks while
entries wait. While 60 slots are taken the lane is saturated. -/
def admitTask (s : State) (n : Nat) : State :=
  let old := s.lane n
  let a := old.admitWork
  let b := a.admitSame (.update false) ((nth s.tr.toSpectro n []).length - a.count (.update false))
  let c := b.admitSame (.update true) ((nth s.spec.blocks n []).length - b.count (.update true))
  let d := c.admitSame .parse ((s.queue n).frames - c.count .parse)
  let full := decide (60 ≤ d.busy (decide <| 2 ≤ ·))
  let t := (s.modLane n (fun _ => { d with saturated := full })).setMax (0x5200 + n) 0x0B d.tasks.length
  if full ∧ !old.saturated then
    let quietLong : Bool := match old.saturatedTick with
      | none => true
      | some t => decide (t + tickSec ≤ s.raw)
    let u := t.inc32 (0x5200 + n) 0x0D
    if quietLong then (u.modLane n (fun l => { l with saturatedTick := some s.raw })).raiseEvent 71 n else u
  else t

/-- A task is done: it leaves its slot and is counted. -/
def finishTask (s : State) (n : Nat) (t : Task) : State :=
  ((s.modLane n (fun l => { l with tasks := l.tasks.filter (fun x => x != t) })).inc64 (0x5200 + n) 0x0C).perf (1 + n) 0x04 1

/-- Work comes to a lane: it is admitted, when a slot is free for it, and its task is done by `run` at once when it is ready. What is not
waits for TASK_DISPATCH (log entry 61). -/
def offerWork (s : State) (n : Nat) (w : TaskWork) (run : State → State) : State :=
  let t := (s.modLane n (fun l => { l with work := l.work ++ [w] })).admitTask n
  match (t.lane n).tasks.find? (fun x => x.work == w) with
  | some x => if t.taskReady n x then (run (t.finishTask n x)).admitTask n else t
  | none => t

/-! ## Completeness (R229) -/

/-- A lane's partial for an instant, unless it is sent. -/
def runPartial (s : State) (n ord : Nat) : State := if s.partialSent n ord then s else s.sendPartial n ord

/-- The partial is due: by completeness, or as the answer to a notice. -/
def duePartial (s : State) (n ord : Nat) : State := s.offerWork n (.partialOf ord) (fun t => t.runPartial n ord)

/-- Completeness (R229): the strobe has come and no required, expected, unexcused stream lacks its frame; then the partial goes. -/
def checkComplete (s : State) (n ord : Nat) : State :=
  match s.laneSlot n ord with
  | none => s
  | some x =>
    if x.strobe ∧ !x.sent ∧ s.laneRuns n ∧ s.laneRequired n ord ∧ s.laneMissing n ord x.frames = 0 ∧
        !((s.lane n).tasks.map (·.work) ++ (s.lane n).work).contains (.partialOf ord)
    then s.duePartial n ord else s

/-- A strobe for an instant has come to a lane. -/
def runStrobe (s : State) (n ord : Nat) : State :=
  if s.partialSent n ord then s else (s.modSlot n ord (fun x => { x with strobe := true })).checkComplete n ord

/-- A notice for an instant has come to a lane, which answers with its partial. -/
def runAnswer (s : State) (n ord : Nat) : State := if s.partialSent n ord then s else s.duePartial n ord

/-- Every pending instant of a lane, or of all lanes, checked for completeness in instant order. -/
def recheckLane (s : State) (n : Nat) : State :=
  (((s.lane n).slots.map (·.ord)).insertionSort (· ≤ ·)).foldl (fun t o => t.checkComplete n o) s
def recheck (s : State) : State := (List.range 4).foldl recheckLane s

/-! ## The hub (R224, R229–R233) -/

/-- The hub's record of a pending instant. -/
def inst (s : State) (ord : Nat) : Option HubInstant := s.tr.insts.find? (fun i => i.ord = ord)

/-- The record replaced by a function of it, made when it is not there yet. -/
def modInst (s : State) (ord : Nat) (f : HubInstant → HubInstant) : State :=
  s.modTr (fun t => { t with
    insts := if t.insts.any (fun i => i.ord = ord) then t.insts.map (fun i => if i.ord = ord then f i else i)
             else t.insts ++ [f ⟨ord, s.kOf ord, s.tkOf ord, 1, false, false, none, 0, false, false, []⟩] })

/-- W_MIN_STROBE (R229): at T_k + W_MIN every lane gets the strobe and checks completeness. -/
def wMinStrobe (s : State) (k : Nat) : State :=
  match s.ordOfK k with
  | none => s
  | some ord =>
    if !s.tr.running ∨ s.et < s.tkOf ord + s.c 0x5000 0x03 * ms ∨ s.isSkipped ord ∨ (((s.inst ord).map (·.strobed)).getD false) then s
    else
      (List.range 4).foldl (fun t n => if t.laneRuns n then t.offerWork n (.strobe ord) (fun u => u.runStrobe n ord) else t)
        (s.modInst ord (fun i => { i with strobed := true }))

/-- The hub sends a notice to every live lane that has not sent its partial (R230). -/
def sendNotices (s : State) (ord : Nat) : State :=
  let have_ := ((s.inst ord).map (fun i => i.partials.map (·.1))).getD []
  (List.range 4).foldl (fun t n =>
    if t.laneLive n ∧ !have_.contains n then t.modLane n (fun l => { l with notices := l.notices ++ [ord] }) else t) s

/-- Ticks of the 8 µs that the merge stays open. -/
def mergeTicks : Nat := 8 * tickUs

/-- A notice with its close time (R230). -/
def notice (s : State) (ord : Nat) (kind : NoticeKind) (close : Nat) : State :=
  (s.modInst ord (fun i => { i with notice := some kind, closeTick := close })).sendNotices ord

/-- The live lanes (R230). -/
def liveLanes (s : State) : List Nat := (List.range 4).filter s.laneLive

/-- A partial is stored from every live lane. -/
def allPartials (s : State) (i : HubInstant) : Bool := s.liveLanes.all (fun n => (lookup n i.partials).isSome)

/-- An instant can be released, but for the order (R230): every live lane's partial is in, or the merge has closed. With no lane
live it waits for its notice. -/
def instReady (s : State) (i : HubInstant) : Bool :=
  i.skip || (s.allPartials i && (i.notice.isSome || !s.liveLanes.isEmpty)) ||
  (i.notice.isSome && (i.closed || decide (i.closeTick ≤ s.raw)))

/-- An instant that could be released while its predecessor is pending waits (R231). -/
def markWait (s : State) (ord : Nat) : State :=
  match s.inst ord with
  | none => s
  | some i => if s.instReady i ∧ ord ≠ s.tr.nextOrd ∧ !i.skip then s.modInst ord (fun x => { x with waited := true }) else s

/-- PARTIAL_RECEIVE (R230, R232): the oldest partial on its way from a lane reaches the hub. -/
def partialReceive (s : State) (n : Nat) : State :=
  match (s.lane n).outbox with
  | [] => s
  | p :: rest =>
    let s1 := s.modLane n (fun l => { l with outbox := rest })
    let late : Bool := match s1.inst p.ord with
      | some i => i.closed || (i.notice.isSome && decide (i.closeTick ≤ s1.raw))
      | none => false
    if !s1.laneLive n ∨ p.ord < s1.tr.nextOrd ∨ s1.isSkipped p.ord ∨ late then s1
    else
      let s2 := s1.modInst p.ord (fun i => { i with partials := insertKey n p i.partials })
      let need := s2.liveLanes.filter (fun l => s2.laneRequired l p.ord)
      let s3 := match s2.inst p.ord with
        | none => s2
        | some i =>
          if i.notice.isNone ∧ !need.isEmpty ∧ need.all (fun l => (lookup l i.partials).isSome)
          then s2.notice p.ord .release (s2.raw + mergeTicks) else s2
      s3.markWait p.ord

/-- NOTICE_RECEIVE (R230): the oldest notice on its way to a lane is answered with the lane's partial. -/
def noticeReceive (s : State) (n : Nat) : State :=
  match (s.lane n).notices with
  | [] => s
  | ord :: rest =>
    let s1 := s.modLane n (fun l => { l with notices := rest })
    if s1.laneRuns n then s1.offerWork n (.answer ord) (fun u => u.runAnswer n ord) else s1

/-- DEADLINE_NOTICE (R230, R42). -/
def deadlineNotice (s : State) (k : Nat) : State :=
  match s.ordOfK k with
  | none => s
  | some ord =>
    let sent : Bool := ((s.inst ord).map (fun i => i.notice.isSome)).getD false || s.isSkipped ord
    if !s.tr.running ∨ s.et < s.tkOf ord + s.wEt ∨ sent then s
    else s.notice ord .deadline (s.raw + s.ticksUntil (s.tkOf ord + s.wEt + 8 * us))

end State

/-- A 48-byte transit header (R246). -/
def transitHeader (seq k : Nat) (tk release : Et) (cause flags missing crc : Nat) : List Byte :=
  beBytes 8 seq ++ beBytes 8 k ++ etBytes tk ++ etBytes release ++ [byte cause, byte flags] ++ beBytes 2 (min missing 65535) ++
  beBytes 4 crc

namespace State

/-- A released or skipped instant goes to the Spectroscope's lane shares and to Horizon, whose queues hold 8 released
transits (R281, R297), and to the build queue of each output stream in use, which holds 4 (R318). A transit that finds no room is dropped
for that consumer: counted, TRANSIT_DROPPED (R45), and the consumer sees an instant without a transit. -/
def feed (s : State) (r : Released) : State :=
  let waits := fun (q : List Released) => (q.filter (fun x => x.vec.isSome)).length
  let roomS := !r.vec.isSome || (List.range 4).all (fun n => !s.laneLive n || decide (waits (nth s.tr.toSpectro n []) < 8))
  let roomH := !r.vec.isSome || decide (waits s.tr.toHorizon < 8)
  let fullE := fun (o : EgressOut) => r.vec.isSome && decide (4 ≤ waits o.build)
  let roomE := (List.range 16).all (fun n => !s.cB (0x5800 + n) 0x01 || !fullE (s.egressOut n))
  let none_ := { r with vec := none }
  let s1 := s.modTr (fun t => { t with
    toSpectro := (t.toSpectro.zip (List.range 4)).map (fun q => if s.laneLive q.2 then q.1 ++ [if roomS then r else none_] else q.1)
    toHorizon := t.toHorizon ++ [if roomH then r else none_] })
  let s1 := s1.modEgr (fun e => { e with outs := (e.outs.zip (List.range 16)).map (fun o =>
    if s.cB (0x5800 + o.2) 0x01 then { o.1 with build := o.1.build ++ [if fullE o.1 then none_ else r] } else o.1) })
  let s1 := if roomE then s1 else (s1.inc64 0x5000 0x1E).raiseEvent 64 1
  let s2 := if roomS then s1 else (s1.inc64 0x5000 0x1F).raiseEvent 64 2
  let s3 := if roomH then s2 else (s2.inc64 0x5000 0x20).raiseEvent 64 3
  if roomS ∧ r.vec.isSome ∧ s.flag 0x6000 0x02 then
    let close := max s.raw s.spec.lastInter + 30 * tickUs
    s3.modSpec (fun x => { x with lastInter := close, merges := x.merges ++ [⟨false, r.k, r.tk, close, []⟩] })
  else s3

/-- The instants up to an ordinal are done: the lanes treat their frames as late from here on (R226, R244). -/
def passInstant (s : State) (ord : Nat) : State :=
  let t := s.modTr (fun t => { t with
    nextOrd := ord + 1, insts := t.insts.filter (fun i => decide (ord < i.ord)) })
  (List.range 4).foldl (fun u n => if u.laneLive n then u.advanceBase n (ord + 1) else u) t

/-- The transit enters the history, or is dropped for it: then its slot keeps what it held (R245, R247). -/
def keepHistory (s : State) (h : HistoryEntry) : State :=
  if Config.historyRoom h.seq s.raw then s.modTr (fun t => { t with history := insertKey (h.seq % s.historyCapacity) h t.history })
  else (s.inc64 0x5000 0x1D).raiseEvent 64 0

/-- At a release every lane passes the release message on, and takes the other lanes' parts of the watch vector (R244). -/
def ringExchange (s : State) (ord : Nat) : State :=
  (List.range 4).foldl (fun t n =>
    if t.laneRuns n then (t.offerWork n (.forward ord) id).offerWork n (.watch ord) id else t) s

/-- The release of the next instant (R223, R231–R233, R244–R247). The answer holds the transit for egress and GOOSE. -/
def publish (s : State) (i : HubInstant) : State × Released :=
  let missing := (List.range 4).filter (fun n => (lookup n i.partials).isNone)
  let missedLive := missing.filter s.laneLive
  let s1 := missedLive.foldl (fun t n => (t.inc32 0x5000 (0x0F + n)).raiseEvent 65 n) s
  let cause := match i.notice with
    | some .deadline => 2
    | some .step => 3
    | _ => 1
  let flags := bitsOfList ((List.range 4).map missing.contains ++ [i.waited, !s.locked, s.tr.watchChanged])
  let reqMissing := (i.partials.map (·.2.missing)).sum + (missing.map (fun n => s.laneMissing n i.ord [])).sum
  let absentPart := missing.flatMap (fun n => (s.watchTable.filter (fun w =>
    field w.2 0 2 != 0 && laneOf (field w.2 0 2) == n)).map (fun w => (w.1, s.absentOf (field w.2 0 2))))
  let vec := ((i.partials.flatMap (·.2.entries)) ++ absentPart).insertionSort (fun a b => a.1 ≤ b.1)
  let seq := s.num 0x5000 0x08 + 1
  let header := transitHeader seq i.k i.tk s.et cause flags reqMissing (s.num 0x5100 0x03)
  let s2 := ((((s1.setN 0x5000 0x08 seq).setN 0x5000 0x09 i.k).setN 0x5000 0x0A i.tk).setN 0x5000 0x0B s.et).inc64 0x5000
    (if cause = 1 then 0x0C else 0x0D)
  let s3 := if i.waited then s2.inc64 0x5000 0x0E else s2
  let s4 := (((s3.setElem 0x5000 0x21 (seq % 64) header).setBytes 0x5102 0x02 header).modTr (fun t => { t with
    latest := vec, watchChanged := false, releaseTick := some s.raw })).keepHistory ⟨seq, header, vec⟩
  let r : Released := ⟨i.ord, i.k, i.tk, (s.segOf i.ord).rate, 1, some vec, !s.locked⟩
  ((((s4.feed r).perf 0 0x20 1).ringExchange i.ord).passInstant i.ord, r)

/-- Runs of skipped instants at the front of the order pass at once (R237, R563). `fuel` bounds them by the pending instants. -/
def passSkips : Nat → State → State
  | 0, s => s
  | fuel + 1, s =>
    match s.inst s.tr.nextOrd with
    | some i =>
      if i.skip then
        passSkips fuel ((s.feed ⟨i.ord, i.k, i.tk, (s.segOf i.ord).rate, i.run, none, false⟩).passInstant (i.ord + i.run - 1))
      else s
    | none => s

/-- Releases the next instant when it is ready (R230, R231); the answer holds the transit that was released. -/
def releaseNext (s : State) : State × Option Released :=
  match s.inst s.tr.nextOrd with
  | some i =>
    if s.tr.running ∧ s.instReady i ∧ !i.skip then
      let r := s.publish i
      let t := passSkips r.1.tr.insts.length r.1
      ((t.tr.insts.map (·.ord)).foldl markWait t, some r.2)
    else (s, none)
  | none => (s, none)

/-- The merge of an instant closes 8 µs after its notice (R230). -/
def closeMerge (s : State) (k : Nat) : State :=
  match s.ordOfK k with
  | none => s
  | some ord =>
    match s.inst ord with
    | none => s
    | some i =>
      if i.notice.isSome ∧ i.closeTick ≤ s.raw then (s.modInst ord (fun x => { x with closed := true })).markWait ord else s

/-- Transit generation starts at the first instant at or after S (R224); egress has no transit before it (R314). -/
def startTransits (s : State) (start : Et) : State :=
  let f := s.c 0x5000 0x01
  let segs : List RateSeg :=
    match s.tr.segs with
    | [] => [⟨0, f, 0⟩]
    | g :: rest =>
      if g.rate = f then g :: rest
      else [⟨start, f, g.off + ((start / sec * g.rate : Nat) : Int) - ((start / sec * f : Nat) : Int)⟩, g]
  let s1 := s.modTr (fun t => { t with segs := segs })
  let o := s1.firstAt start
  ((s1.modEgr (fun e => { e with outs := e.outs.map (fun x => { x with build := [], window := [] }) })).modTr (fun t => { t with
    running := true, first := o, nextOrd := o, insts := []
    lanes := t.lanes.map (fun l => { l with base := o, slots := [], notices := [], outbox := [] }) })).setN 0x5000 0x07 (if s.tr.pendingRate.isSome then 2 else 1)

/-- A change of F_T that has not come yet is given up. -/
def forgetRate (s : State) : State :=
  match s.tr.pendingRate with
  | some p => if s.et < p.1 then s.modTr (fun t => { t with pendingRate := none, segs := t.segs.drop 1 }) else s
  | none => s

/-- Transit generation stops: pending transits are discarded without release (R224), and with them the lanes' work on instants. -/
def stopTransits (s : State) : State :=
  (s.forgetRate.modTr (fun t => { t with
    running := false, insts := []
    lanes := t.lanes.map (fun l => { l with
      slots := [], held := [], notices := [], outbox := []
      tasks := l.tasks.filter (fun x => decide (1 ≤ taskClass x.work)), work := l.work.filter (fun w => decide (1 ≤ taskClass w)) }) })).setN
    0x5000 0x07 0

/-- F_t is to change at S_c (R225, R564): instants before it follow the old rate, and those from it on the new one. -/
def planRate (s : State) (sc : Et) (f : Nat) : State :=
  let g := s.segAt sc
  let off := g.off + ((sc / sec * g.rate : Nat) : Int) - ((sc / sec * f : Nat) : Int)
  (s.modTr (fun t => { t with pendingRate := some (sc, f), segs := ⟨sc, f, off⟩ :: t.segs })).setN 0x5000 0x07 2

/-- TRANSIT_RATE_CHANGED (R225): S_c has come. -/
def rateChanged (s : State) : State :=
  match s.tr.pendingRate with
  | none => s
  | some (sc, f) =>
    if s.et < sc then s
    else ((s.modTr (fun t => { t with pendingRate := none })).setN 0x5000 0x07 (bit01 s.tr.running)).raiseEvent 69 f

/-! ## Matching (R226, R234–R236) -/

/-- A late-queue record (R235). -/
def lateRecord (s : State) (e : IngestEntry) (ord : Nat) (record : List Entry) : List Byte :=
  let d : Int := (e.arrival : Int) - ((s.tkOf ord + s.wEt : Nat) : Int)
  let lateness := clampI (-2147483648) 2147483647 (roundDiv d us)
  let vals := (record.take 92).flatMap (fun x => encodeEntry { x with quality := qSet x.quality qLATE })
  padTo 768 (beBytes 2 e.stream ++ [byte (min 92 record.length), 0] ++ beBytes 8 (s.kOf ord) ++ etBytes e.arrival ++
    beInt 4 lateness ++ [0, 0, 0, 0] ++ vals)

/-- A record is written into the late queue (R235). -/
def queueLate (s : State) (r : List Byte) : State :=
  let n := s.num 0x5000 0x18
  let ovr := !allZero (s.elem 0x5000 0x19 (n % 4096))
  let s1 := (s.setElem 0x5000 0x19 (n % 4096) r).incWrap 32 0x5000 0x18
  if !ovr then s1
  else
    let first : Bool := match s.tr.overTick with
      | none => true
      | some t => decide (t + tickSec ≤ s.raw)
    let s2 := (s1.inc32 0x5000 0x1A).modTr (fun t => { t with overTick := some s.raw })
    if first then s2.raiseEvent 67 0 else s2

/-- What follows when an occurrence makes its qualifier LASTING. -/
def onLasting (r : State × Occurrence) (f : State → State) : State := if r.2 = .became then f r.1 else r.1

/-- A late frame (R234, R236): counted, one occurrence of its stream's qualifier, and forwarded when its policy says so. -/
def lateFrame (s : State) (n : Nat) (e : IngestEntry) (ord : Nat) (record : List Entry) : State :=
  let i := 0x4000 + e.stream
  let s1 := (s.inc64 0x5000 0x17).perf (1 + n) 0x03 1
  let s2 := onLasting (s1.occurs (qkey 2 e.stream 0) (s1.c i 0x16) (s1.c i 0x17))
    (fun t => (t.setStreamState e.stream 3).raiseEvent 66 e.stream)
  if s2.c i 0x15 = 1 then
    let r := s2.lateRecord e ord record
    s2.offerWork n (.service r) (fun t => t.queueLate r)
  else s2

/-- FRAME_TIME_AHEAD is raised by the first such frame of a second (R253). -/
def timeAhead (s : State) (id : Nat) : State :=
  let first : Bool := match s.tr.aheadTick with
    | none => true
    | some t => decide (t + tickSec ≤ s.raw)
  let s1 := s.inc64 0x5000 0x13
  if first then (s1.modTr (fun t => { t with aheadTick := some s.raw })).raiseEvent 70 id else s1

/-- A frame stamped at or after a change of F_T that arrived before it (R225). -/
def beforeChange (s : State) (t : Int) (arrival : Et) : Bool :=
  (s.tr.segs.dropLast).any (fun g => decide (arrival < g.fromEt) && decide ((g.fromEt : Int) ≤ t))

/-- The steps of R226 for a converted frame. -/
def matchFrame (s : State) (n : Nat) (e : IngestEntry) (record : List Entry) : State :=
  let t := s.entryTime e
  if !s.ctxEnabled e.stream then s
  else if t > (e.arrival : Int) + sec then s.timeAhead e.stream
  else if s.beforeChange t e.arrival then s.inc64 0x5000 0x16
  else
    let g := s.segAt t.toNat
    let k := ((2 * t * g.rate + sec) / ((2 * sec : Nat) : Int)).toNat
    let ord := ((k : Int) + g.off).toNat
    if (t - (instantEt k g.rate : Int)).natAbs > s.c 0x5000 0x04 * us ∨ !s.tr.running ∨ ord < s.tr.first then s.inc64 0x5000 0x14
    else if s.partialSent n ord then s.lateFrame n e ord record
    else if ord ≥ (s.lane n).base + 512 then s.inc64 0x5000 0x16
    else if (((s.laneSlot n ord).map (fun x => (lookup e.stream x.frames).isSome)).getD false) then s.inc64 0x5000 0x15
    else
      let s1 := (s.modSlot n ord (fun x => { x with frames := x.frames ++ [(e.stream, record)] })).perf (1 + n) 0x02 1
      if s1.cB (0x4000 + e.stream) 0x13 ∧ s1.expectedAt e.stream ord then s1.checkComplete n ord else s1

/-! ## Frames in their tasks (R251) -/

/-- The next stage of a frame takes the slot of the one before. -/
def nextStage (s : State) (n : Nat) (t : Task) (w : TaskWork) : State :=
  s.modLane n (fun l => { l with tasks := l.tasks ++ [⟨t.frame, w⟩] })

/-- A frame's task done. -/
def runFrameTask (s : State) (n : Nat) (t : Task) : State :=
  let s1 := s.finishTask n t
  match t.work with
  | .parse =>
    match s1.readQueue n with
    | (u, none) => u
    | (u, some e) => (u.perf (1 + n) 0x01 1).nextStage n t (.convert e)
  | .convert e => s1.nextStage n t (.assemble e (s.convert e))
  | .assemble e r => s1.matchFrame n e r
  | _ => s1

/-- The work that one frame still has before it: its remaining stages in turn. -/
def runFrame : Nat → State → Nat → Nat → State
  | 0, s, _, _ => s
  | fuel + 1, s, n, frame =>
    match (s.lane n).tasks.find? (fun t => t.frame = frame) with
    | none => s
    | some t => runFrame fuel (s.runFrameTask n t) n frame

/-- FRAME_MATCH (R226): the lane's earliest frame is parsed, converted and matched. -/
def frameMatch (s : State) (n : Nat) : State :=
  if !s.laneRuns n then s
  else
    let s1 := s.admitTask n
    match (((s1.lane n).tasks.filter (fun t => decide (3 ≤ taskClass t.work) && decide (taskClass t.work ≤ 5))).map (·.frame)).min? with
    | none => s1
    | some f => (runFrame 3 s1 n f).admitTask n

/-- LATE_CLEAR (R236): one stream, or every stream for 0. A stream that leaves LATE for SILENT is excused (R229). -/
def lateClear (s : State) (id : Nat) : State :=
  let ids := if id = 0 then (List.range 4096).filter (fun x => s.lasting (qkey 2 x 0) || (lookup (qkey 2 x 0) s.ev.qualifiers).isSome || s.streamState x == 3)
    else [id]
  let t := ids.foldl (fun t x =>
    let u := t.clearQualifier (qkey 2 x 0)
    if u.streamState x = 3 then u.afterLate x else u) s
  if ids.any (fun x => s.streamState x == 3 && t.streamState x == 4) then t.recheck else t

/-! ## Offset steps (R237, R563) -/

/-- An instant has at least one stored frame in some lane. -/
def hasStored (s : State) (ord : Nat) : Bool :=
  (List.range 4).any (fun n =>
    (((s.laneSlot n ord).map (fun x => !x.frames.isEmpty)).getD false) ||
    (s.lane n).outbox.any (fun p => p.ord = ord && decide (0 < p.stored))) ||
  (((s.inst ord).map (fun i => i.partials.any (fun p => decide (0 < p.2.stored)))).getD false)

/-- Instants that hold a frame, from the next one to release up to a limit, without those that are already skipped. -/
def keptOrds (s : State) (limit : Nat) : List Nat :=
  let slots := (List.range 4).flatMap (fun n => (s.lane n).slots.map (·.ord) ++ (s.lane n).outbox.map (·.ord))
  (((slots ++ s.tr.insts.map (·.ord)).filter (fun o => decide (s.tr.nextOrd ≤ o) && decide (o ≤ limit) && !s.isSkipped o)).dedup.insertionSort
    (· ≤ ·)).filter s.hasStored

/-- The last instant whose deadline has passed; none when the next one's has not. -/
def lastPassed (s : State) : Option Nat :=
  let t := s.et - s.wEt
  let g := s.segAt t
  let o := (((t * g.rate / sec : Nat) : Int) + g.off).toNat
  if s.et < s.wEt ∨ o < s.tr.nextOrd then none else some o

/-- A run of instants from `lo` up to, but not with, `hi` is to be skipped, and counts. -/
def skipRun (a : State × Nat) (lo hi : Nat) : State × Nat :=
  if hi ≤ lo then a
  else
    let t := a.1.modTr (fun t => { t with insts := t.insts.filter (fun i => decide (i.ord < lo) || decide (hi ≤ i.ord)) })
    (t.modInst lo (fun i => { i with skip := true, run := hi - lo }), a.2 + (hi - lo))

/-- An instant with a stored frame is to be released by CAUSE 3; its merge stays open for 8 µs, or until the close of the notice that is out. -/
def stepNotice (s : State) (o : Nat) : State :=
  if (((s.inst o).map (fun i => i.notice.isSome)).getD false) then s.modInst o (fun i => { i with notice := some .step })
  else s.notice o .step (s.raw + mergeTicks)

/-- A forward step past deadlines (R237, R563): instants with a stored frame are released by CAUSE 3, those between them are skipped and
counted, but for runs that an earlier step has skipped, and TRANSIT_SKIPPED is raised once. -/
def stepTransits (s : State) : State :=
  match (if s.tr.running then s.lastPassed else none) with
  | none => s
  | some last =>
    let held := (s.keptOrds last).map (fun o => (o, o + 1, true))
    let runs := (s.tr.insts.filter (fun i => i.skip)).map (fun i => (i.ord, i.ord + i.run, false))
    let go := ((held ++ runs).insertionSort (fun a b => a.1 ≤ b.1)).foldl (fun (a : (State × Nat) × Nat) x =>
      let u := skipRun a.1 a.2 x.1
      (if x.2.2 then (u.1.stepNotice x.1, u.2) else u, x.2.1)) ((s, 0), s.tr.nextOrd)
    let t := skipRun go.1 go.2 (last + 1)
    if t.2 = 0 then t.1
    else (passSkips t.1.tr.insts.length (t.1.add 64 0x5000 0x1C t.2)).raiseEvent 68 (min t.2 4294967295)

end State

/-- STREAM_SILENT_TIMEOUT (R197, R229): a stream that becomes SILENT may leave its lane complete. -/
def execStreamSilentTimeout (stream : Nat) (s : State) : Host.Outcome State Fault Refusal :=
  complete s (fun s => (s.silent stream).recheck)

/-- TCP_STREAM_FRAME (R202). -/
def execTcpStreamFrame (stream : Nat) (segment : TcpSegment) (s : State) : Host.Outcome State Fault Refusal :=
  complete s (fun s => (s.tcpFrame stream segment.port.val segment.tdc segment.frame).recheck)

/-- FRAME_MATCH (R226). -/
def execFrameMatch (lane : Fin 4) (s : State) : Host.Outcome State Fault Refusal :=
  complete s (fun s => s.frameMatch lane.val)

/-- W_MIN_STROBE (R229). -/
def execWMinStrobe (k : Nat) (s : State) : Host.Outcome State Fault Refusal := complete s (fun s => s.wMinStrobe k)

/-- PARTIAL_RECEIVE (R230). -/
def execPartialReceive (lane : Fin 4) (s : State) : Host.Outcome State Fault Refusal :=
  complete s (fun s => s.partialReceive lane.val)

/-- NOTICE_RECEIVE (R230). -/
def execNoticeReceive (lane : Fin 4) (s : State) : Host.Outcome State Fault Refusal :=
  complete s (fun s => s.noticeReceive lane.val)

/-- DEADLINE_NOTICE (R230). -/
def execDeadlineNotice (k : Nat) (s : State) : Host.Outcome State Fault Refusal := complete s (fun s => s.deadlineNotice k)

end Sys2Proof.Machine
end

