-- ==== Sys2Proof/Machine/Spectro.lean ====
section
/-! DEFINITION. The Spectroscope: signals, resonators, estimates and alarms, local samples, band merges and mode shapes
(R258–R285). -/

namespace Sys2Proof.Machine

/-! ## F64 and F32 helpers -/

/-- An F32 read from a record's bytes. -/
def f32At (b : List Byte) (o : Nat) : F32 := F32.ofBits (field b o 4)

/-- 2π in F32. -/
def twoPi32 : F32 := twoPi64.to32

/-! ## Records and constants (R261, R263, R267, R271) -/

/-- A band: inter-area (R267) or local. -/
def bandRecord (s : State) (loc : Bool) (b : Nat) : List Byte := s.cElem (if loc then 0x6004 else 0x6003) 0x01 b

def bandOn (s : State) (loc : Bool) (b : Nat) : Bool := field (bandRecord s loc b) 0 1 == 1

/-- A signal's record by its key: inter-area n, or local 4,096 + m. -/
def signalRecord (s : State) (key : Nat) : List Byte :=
  if key < 4096 then s.cElem 0x6001 0x01 key else s.cElem 0x6002 0x01 (key - 4096)

/-- BAND_MASK of a signal. -/
def bandMask (key : Nat) (r : List Byte) : Nat := if key < 4096 then field r 12 4 else field r 4 8

/-- The lane a signal runs on (R262, R263). -/
def signalLane (key : Nat) : Nat := if key < 4096 then key / 1024 else (key - 4096) / 16

/-- The used signals of a kind, by key, rising. -/
def usedSignals (s : State) (loc : Bool) : List Nat :=
  let idx := if loc then 0x6002 else 0x6001
  ((s.cfg.filter (fun e => e.1 / 65536 == idx * 256 + 1 && field e.2.toBytes 0 1 != 0)).map (fun e => e.1 % 65536)).map
    (fun n => if loc then 4096 + n else n)

/-- The bands in which a signal has a resonator (R267). -/
def signalBands (s : State) (key : Nat) : List Nat :=
  let m := bandMask key (signalRecord s key)
  (List.range (if key < 4096 then 32 else 64)).filter (fun b => m.testBit b && bandOn s (decide (4096 ≤ key)) b)

/-- PINC and f0e (R271). -/
def pincOf (band : List Byte) (fs : Nat) : Nat := (roundRat ((f32At band 4).toRat * 4294967296 / fs)).toNat
def f0eOf (band : List Byte) (fs : Nat) : F64 := F64.ofRat ((pincOf band fs * fs : Nat) / 4294967296 : Rat)

/-- β of a band (R271). -/
def betaOf (band : List Byte) (fs : Nat) : F32 :=
  let x := ((twoPi64.mul (F64.ofRat (15538 / 10000))).mul (f32At band 8).to64).div (F64.ofInt fs)
  ((F64.ofInt 1).sub (expOf x.neg)).to32

/-- α of a signal with DC_TAU in units of 0.1 s (R271). -/
def alphaOf (tau fs : Nat) : F64 :=
  (F64.ofInt 1).sub (expOf ((F64.ofInt 1).div ((F64.ofInt (fs * tau)).mul (F64.ofRat (1 / 10)))).neg)

/-- N_hold of a band at its window rate (R271). -/
def nHoldOf (band : List Byte) (fw : Nat) : Nat := max 1 ((field band 20 4 * fw + 999) / 1000)

/-! ## The resonator (R272–R276) -/

/-- A resonator's estimate while it has too few points (R274). -/
def noEstimate (flags : Quality) : Estimate :=
  ⟨absentValue, absentValue, absentValue, absentValue, qMake false (flags ||| qSet 0#16 qABSENT)⟩

/-- A resonator right after a reset, SETTLING and without points. -/
def Resonator.empty : Resonator :=
  ⟨⟨0⟩, ⟨0⟩, ⟨0⟩, ⟨0⟩, none, [], 0, 0, 0, 0, false, false, false, false, noEstimate (qSet 0#16 qSETTLING), 0, []⟩

/-- A reset (R276): the envelope, the window, the counts and the alarms; each clearing is a change. The shape buffer keeps the updates
before it (R279). -/
def Resonator.reset (r : Resonator) : Resonator :=
  { Resonator.empty with
    pdChanged := r.pdChanged != r.pd, grChanged := r.grChanged != r.gr, update := r.update, shapes := r.shapes }

/-- The demodulation phase at an update (R272). -/
def phaseOf (n pinc : Nat) : F32 := (twoPi32.mul (F32.ofInt ((n * pinc) % 4294967296))).div (F32.ofInt 4294967296)

/-- One section u + β (d − u), in F32. -/
def section32 (beta u d : F32) : F32 := u.add (beta.mul (d.sub u))

/-- A usable input: demodulated and filtered (R272), `xd` being f32(x − m). -/
def Resonator.feed (r : Resonator) (beta : F32) (n pinc : Nat) (xd : F32) : Resonator :=
  let ph := phaseOf n pinc
  let two := (F32.ofInt 2).mul xd
  let dRe := two.mul (demod 1 ph)
  let dIm := two.mul (demod 0 ph).neg
  let uRe := section32 beta r.uRe dRe
  let uIm := section32 beta r.uIm dIm
  { r with uRe := uRe, uIm := uIm, zRe := section32 beta r.zRe uRe, zIm := section32 beta r.zIm uIm, staleRun := 0 }

/-- The envelope as a complex F64. -/
def Resonator.z (r : Resonator) : Cplx := ⟨r.zRe.to64, r.zIm.to64⟩

/-- Pushes the position of a window update (R273). -/
def Resonator.push (r : Resonator) (present : Bool) (q : Quality) (l : Nat) : Resonator :=
  if !present then { r with window := (none :: r.window).take l, updates := r.updates + 1 }
  else
    let arg := argOf r.z
    let tiny := F64.ofRat (1 / (2 ^ 126 : Nat))
    let mag := r.z.abs
    let dphi : F32 := match r.argP with
      | none => ⟨0⟩
      | some p => (arg.sub p).wrap.to32
    { r with
      window := (some ⟨(lnOf (if mag.lt tiny then tiny else mag)).to32, dphi, q⟩ :: r.window).take l
      argP := some arg, updates := r.updates + 1 }

/-- The least-squares slope of y over positions i (R273). -/
def slopeOf (pts : List (Nat × F64)) : F64 :=
  let n := F64.ofInt pts.length
  let ibar := (F64.sum (pts.map (fun p => F64.ofInt p.1))).div n
  let ybar := (F64.sum (pts.map (·.2))).div n
  let num := F64.sum (pts.map (fun p => ((F64.ofInt p.1).sub ibar).mul (p.2.sub ybar)))
  let den := F64.sum (pts.map (fun p => ((F64.ofInt p.1).sub ibar).mul ((F64.ofInt p.1).sub ibar)))
  num.div den

/-- Present positions of a window, oldest first, with their points. -/
def Resonator.points (r : Resonator) : List (Nat × WinPoint) :=
  (r.window.reverse.zip (List.range r.window.length)).filterMap (fun x => x.1.map (fun p => (x.2, p)))

/-- The running sum of phase steps: 0 at the first present point (R273). -/
def phaseSums : F64 → List (Nat × WinPoint) → List (Nat × F64)
  | _, [] => []
  | acc, p :: rest => (p.1, acc) :: (match rest with
    | [] => []
    | n :: _ => phaseSums (acc.add n.2.dphi.to64) rest)

/-- The estimate after a window update (R273, R274). -/
def Resonator.estimate (r : Resonator) (present : Bool) (l fw : Nat) (f0e : F64) : Resonator :=
  let pts := r.points
  let flags := (pts.foldl (fun q p => q ||| p.2.quality) 0#16 &&& 0x00FC#16) ||| qIf (decide (r.updates < l)) qSETTLING |||
    qIf (!present) qSTALE
  if pts.length < max 4 ((l + 1) / 2) then { r with est := noEstimate flags }
  else if !present then { r with est := { r.est with quality := qMake true flags } }
  else
    let fwF := F64.ofInt fw
    let sigma := ((slopeOf (pts.map (fun p => (p.1, p.2.lnA.to64)))).neg).mul fwF
    let freq := f0e.add (((slopeOf (phaseSums F64.zero pts)).mul fwF).div twoPi64)
    let w := twoPi64.mul freq
    let root := ((sigma.mul sigma).add (w.mul w)).sqrt
    let zeta := if root.nat = 0 then F64.zero else sigma.div root
    { r with est := ⟨r.z.abs.to32, sigma.to32, freq.to32, zeta.to32, qMake true flags⟩ }

/-- The alarms at a window update with a usable estimate (R275). -/
def Resonator.alarms (r : Resonator) (band : List Byte) (aMin aGrow : F32) (nHold : Nat) : Resonator :=
  if !qValid r.est.quality then r
  else
    let sl := f32At band 16
    let cond := aMin.le r.est.a && r.est.zeta.le (f32At band 12)
    let g := (F32.zero.lt sl) && r.est.sigma.le sl.neg && aGrow.le r.est.a
    let r1 :=
      if cond = r.pd then { r with pdRun := 0 }
      else if r.pdRun + 1 ≥ nHold then { r with pdRun := 0, pd := cond, pdChanged := !r.pdChanged }
      else { r with pdRun := r.pdRun + 1 }
    if g && !r1.gr then { r1 with gr := true, grRun := 0, grChanged := !r1.grChanged }
    else if r1.gr && !g then
      (if r1.grRun + 1 ≥ nHold then { r1 with gr := false, grRun := 0, grChanged := !r1.grChanged }
       else { r1 with grRun := r1.grRun + 1 })
    else { r1 with grRun := 0 }

/-- The shape buffer takes the envelope of an update; it holds the last 16 (R279). -/
def Resonator.remember (r : Resonator) (n : Nat) : Resonator :=
  { r with update := n
           shapes := (⟨n, r.zRe, r.zIm, r.est.quality, bitsOfList [r.pd, r.gr]⟩ :: r.shapes).take 16 }

namespace State

def resonator (s : State) (key : Nat) : Resonator := (lookup key s.spec.res).getD Resonator.empty

def putResonator (s : State) (key : Nat) (r : Resonator) : State :=
  s.modSpec (fun x => { x with res := insertKey key r x.res })

/-- A resonator's reset, counted (R276). -/
def resetResonator (s : State) (key : Nat) : State :=
  (s.putResonator key (s.resonator key).reset).inc64 0x6000 0x05

/-- A signal's reset (R276): m and the accumulator, and its resonators. -/
def resetSignal (s : State) (key : Nat) : State :=
  (signalBands s key).foldl (fun t b => t.resetResonator (key * 64 + b))
    (s.modSpec (fun x => { x with sigs := eraseKey key x.sigs }))

/-- Every resonator of a band reset. -/
def resetBand (s : State) (loc : Bool) (b : Nat) : State :=
  ((usedSignals s loc).filter (fun k => (signalBands s k).contains b)).foldl (fun t k => t.resetResonator (k * 64 + b)) s

/-- Every signal of a kind reset. -/
def resetAllSignals (s : State) (loc : Bool) : State := (usedSignals s loc).foldl resetSignal s

/-- A lane's resonators reset (R50). -/
def resetLaneResonators (s : State) (n : Nat) : State :=
  (usedSignals s false ++ usedSignals s true).foldl (fun t k =>
    if signalLane k = n then (signalBands t k).foldl (fun u b => u.resetResonator (k * 64 + b)) t else t) s

/-- One update of a resonator after its input (R272, R273): at a window update the point, the estimate, the alarms and the
reset after 2 × L stale updates. -/
def resonatorUpdate (s : State) (key : Nat) (r : Resonator) (n : Nat) (windowed present : Bool) (q : Quality) (fw fs : Nat) : State :=
  let k := key / 64
  let b := key % 64
  let rec_ := signalRecord s k
  let band := bandRecord s (decide (4096 ≤ k)) b
  let l := field band 2 2
  let aMin := f32At rec_ (if k < 4096 then 16 else 12)
  let aGrow := f32At rec_ (if k < 4096 then 20 else 16)
  if !windowed then s.putResonator key (r.remember n)
  else
    let r1 := r.push present q l
    if r1.staleRun ≥ 2 * l then (s.putResonator key (r1.reset.remember n)).inc64 0x6000 0x05
    else
      let r2 := r1.estimate present l fw (f0eOf band fs)
      let r3 := if present then r2.alarms band aMin aGrow (nHoldOf band fw) else r2
      s.putResonator key (r3.remember n)

/-- One input of a signal to its resonators: usable with value x, or stale (R270, R272). -/
def signalUpdate (s : State) (key n : Nat) (usable windowed present : Bool) (x : F32) (q : Quality) (tau fw fs : Nat) : State :=
  let st := (lookup key s.spec.sigs).getD ⟨none, ⟨0⟩, none⟩
  let m := match st.m with
    | some m => m.add ((alphaOf tau fs).mul (x.to64.sub m))
    | none => x.to64
  let xd := (x.to64.sub m).to32
  let s1 := if usable then s.modSpec (fun p => { p with sigs := insertKey key { st with m := some m } p.sigs }) else s
  (signalBands s key).foldl (fun t b =>
    let rk := key * 64 + b
    let band := bandRecord s (decide (4096 ≤ key)) b
    let r := t.resonator rk
    let r1 := if usable then r.feed (betaOf band fs) n (pincOf band fs) xd else { r with staleRun := r.staleRun + 1 }
    t.resonatorUpdate rk r1 n windowed present q fw fs) (s1.perf (1 + signalLane key) 0x0A (signalBands s key).length)

/-- One stale update of an inter-area resonator (R270, R272). -/
def staleUpdate (s : State) (key n fw fs : Nat) : State :=
  let r := s.resonator key
  s.resonatorUpdate key { r with staleRun := r.staleRun + 1 } n true false 0#16 fw fs

/-- Stale updates of an inter-area resonator, but for what the shape buffer takes of each. -/
def staleBulk (s : State) (key n run fw fs : Nat) : State :=
  let r := s.resonator key
  let band := bandRecord s false (key % 64)
  let l := field band 2 2
  let total := r.staleRun + run
  if run = 0 ∨ l = 0 then s
  else if total < 2 * l then
    let r1 := { r with
      staleRun := total, window := (List.replicate (min run l) none ++ r.window).take l, updates := r.updates + run }
    s.putResonator key { r1.estimate false l fw (f0eOf band fs) with update := n }
  else
    let left := (total - 2 * l) % (2 * l)
    let r0 := { r.reset with update := n }
    let r1 := { r0 with staleRun := left, window := List.replicate (min left l) none, updates := left }
    (s.putResonator key (if left = 0 then r0 else r1.estimate false l fw (f0eOf band fs))).add 64 0x6000 0x05
      (1 + (total - 2 * l) / (2 * l))

/-- A run of stale updates from update `first` on (R563): as one by one. The shape buffer takes the last 16. -/
def staleRunUpdate (s : State) (key first run fw fs : Nat) : State :=
  let bulk := run - 16
  (List.range (run - bulk)).foldl (fun t i => t.staleUpdate key (first + bulk + i) fw fs)
    (s.staleBulk key (first + bulk - 1) bulk fw fs)

/-! ## Inter-area signals (R258–R260, R270) -/

/-- The watch entries that a signal uses. -/
def signalEntries (r : List Byte) : List Nat :=
  let e := fun i => field r (4 + 2 * i) 2
  match field r 0 1 with
  | 1 => [e 0]
  | 2 | 3 => [e 0, e 1]
  | 4 => e 0 :: ([e 1, e 2, e 3].filter (· != 0xFFFF))
  | _ => []

/-- The watch KIND of an entry. -/
def watchKind (s : State) (n : Nat) : Nat := field (s.cElem 0x5100 0x01 n) 2 1

/-- A signal's value and quality at a transit, and its new state of R259. -/
def signalValue (s : State) (key : Nat) (vec : List (Nat × Entry)) : Bool × F32 × Quality × SigState :=
  let r := signalRecord s key
  let st := (lookup key s.spec.sigs).getD ⟨none, ⟨0⟩, none⟩
  let es := (signalEntries r).map (vectorEntry vec)
  let q := qDerive (es.map (·.quality))
  let usable := qValid q && (!qBit q qHELD || (field r 1 1).testBit 0)
  let x := fun i => (nth es i absentEntry).value.to64
  match field r 0 1 with
  | 1 =>
    if watchKind s (field r 4 2) = 2 then
      let acc := match st.prev with
        | none => x 0
        | some p => st.acc.add ((x 0).sub p).wrap
      (usable, acc.to32, q, if usable then { st with acc := acc, prev := some (x 0) } else st)
    else (usable, (x 0).to32, q, st)
  | 2 => (usable, ((x 0).sub (x 1)).wrap.to32, q, st)
  | 3 => (usable, ((x 0).sub (x 1)).to32, q, st)
  | _ => (usable, (F64.sum (es.map (fun e => e.value.to64))).to32, q, st)

/-- A signal's update at a transit, or at a run of instants without one. -/
def interSignal (s : State) (key : Nat) (r : Released) : State :=
  let tau := field (signalRecord s key) 24 2
  match r.vec with
  | some vec =>
    match s.signalValue key vec with
    | (usable, x, q, st) =>
      (s.modSpec (fun p => { p with sigs := insertKey key st p.sigs })).signalUpdate key r.k usable true usable x q tau r.rate r.rate
  | none =>
    (signalBands s key).foldl (fun t b => t.staleRunUpdate (key * 64 + b) r.k r.run r.rate r.rate)
      (s.perf (1 + signalLane key) 0x0A (r.run * (signalBands s key).length))

/-! ## Contributions (R277) -/

/-- Resonators of a lane and a kind that a commit has removed, whose clearings are not contributed yet. -/
def removedResonators (s : State) (n : Nat) (loc : Bool) : List (Nat × Resonator) :=
  s.spec.res.filter (fun (e : Nat × Resonator) => signalLane (e.1 / 64) = n && decide (4096 ≤ e.1 / 64) = loc &&
    !((usedSignals s loc).contains (e.1 / 64) && (signalBands s (e.1 / 64)).contains (e.1 % 64)))

/-- A resonator's alarm changes since its lane's last contribution, with the number of its signal. -/
def alarmChanges (loc : Bool) (key : Nat) (r : Resonator) : List (Nat × Nat × Bool) :=
  let k := if loc then key / 64 - 4096 else key / 64
  (if r.pdChanged then [(k, 0, r.pd)] else []) ++ (if r.grChanged then [(k, 1, r.gr)] else [])

/-- A lane's share of a band: counts, the lowest usable ζ, and changes since its last contribution. -/
def laneShare (s : State) (n : Nat) (loc : Bool) (b : Nat) : BandShare :=
  let keys := (usedSignals s loc).filter (fun k => signalLane k = n && (signalBands s k).contains b)
  let rs := keys.map (fun k => (if loc then k - 4096 else k, s.resonator (k * 64 + b)))
  { pd := (rs.filter (fun x => x.2.pd)).length, gr := (rs.filter (fun x => x.2.gr)).length
    worst := rs.foldl (fun w x =>
      if !qValid x.2.est.quality then w
      else match w with
        | none => some (x.1, x.2.est.zeta, x.2.est.freq)
        | some (_, z, _) => if x.2.est.zeta.lt z then some (x.1, x.2.est.zeta, x.2.est.freq) else w) none
    changes := keys.flatMap (fun k => alarmChanges loc (k * 64 + b) (s.resonator (k * 64 + b))) ++
      ((s.removedResonators n loc).filter (fun e => e.1 % 64 = b)).flatMap (fun e => alarmChanges loc e.1 e.2) }

/-- A lane's contribution is on its way to the hub. -/
def sendContribution (s : State) (n : Nat) (c : Contribution) : State :=
  s.modSpec (fun x => { x with sent := modNth x.sent n (· ++ [c]) })

/-- A lane makes its contribution for an update, a message of the ALARM class; its changes are then in it. -/
def contribute (s : State) (n : Nat) (loc : Bool) (update : Nat) : State :=
  let gone := s.removedResonators n loc
  let bands := (List.range (if loc then 64 else 32)).filter (fun b => bandOn s loc b || gone.any (fun e => e.1 % 64 = b))
  let c : Contribution := ⟨loc, update, bands.map (fun b => (b, s.laneShare n loc b))⟩
  (s.modSpec (fun x => { x with
    res := (x.res.filter (fun e => !gone.any (fun g => g.1 = e.1))).map (fun e =>
      if signalLane (e.1 / 64) = n ∧ decide (4096 ≤ e.1 / 64) = loc
      then (e.1, { e.2 with pdChanged := false, grChanged := false }) else e) })).offerWork n (.alarm c) (fun t => t.sendContribution n c)

/-- The ANALYTICS task of an update is done (R248). -/
def analyticsDone (s : State) (n : Nat) (loc : Bool) : State :=
  match (s.lane n).tasks.find? (fun t => t.work == .update loc) with
  | some t => s.finishTask n t
  | none => (s.inc64 (0x5200 + n) 0x0C).perf (1 + n) 0x04 1

/-- The targets of a RESET_CMD that a lane carries out at its next update of a kind (R276). -/
def applyResets (s : State) (n : Nat) (loc : Bool) : State :=
  let mine := (nth s.spec.resets n []).filter (fun t => decide (0x8000 ≤ t) = loc)
  let keys := (usedSignals s loc).filter (fun k => signalLane k = n && mine.any (fun t =>
    t = (if loc then 0x8000 + (k - 4096) else k) || t = (if loc then 0xFFFF else 0x7FFF)))
  let t := keys.foldl resetSignal (s.modSpec (fun x => { x with
    resets := modNth x.resets n (fun l => l.filter (fun t => decide (0x8000 ≤ t) != loc)) }))
  if !mine.isEmpty ∧ t.spec.resets.all List.isEmpty ∧ t.resultState 0x6005 = 1 then t.finishCmd 0x6005 0 [] else t

/-- INTER_AREA_UPDATE (R272): a lane takes the next released transit, once its watch vector is whole (R244); the first one at a new F_T resets
its signals first (R271, R276). -/
def interAreaUpdate (s : State) (n : Nat) : State :=
  match nth s.tr.toSpectro n [] with
  | [] => s
  | r :: rest =>
    let s1 := s.modTr (fun t => { t with toSpectro := modNth t.toSpectro n (fun _ => rest) })
    if !s.laneRuns n ∨ (r.vec.isSome ∧ !s.ringIn n) then s
    else if !s1.flag 0x6000 0x02 then s1.analyticsDone n false
    else
      let s2 := s1.applyResets n false
      let s2 := if s2.newRate r then ((usedSignals s2 false).filter (fun k => signalLane k = n)).foldl resetSignal s2 else s2
      let s3 := ((usedSignals s2 false).filter (fun k => signalLane k = n)).foldl (fun t k => t.interSignal k r) s2
      let s4 := s3.analyticsDone n false
      if r.vec.isSome then s4.contribute n false r.k else s4

/-! ## Local signals (R263–R266) -/

/-- Fixed-rate sample i of a channel, while it is held: its value and flags. -/
def heldFixed (s : State) (ch i : Nat) : Option FixedSample :=
  if i < s.loc.nextFixed then (s.channel ch).fixed[s.loc.nextFixed - 1 - i]? else none

/-- A local signal at one fixed-rate sample: CH_A, or CH_A minus CH_B. -/
def localInput (s : State) (r : List Byte) (i : Nat) : Option (F64 × Quality) :=
  match s.heldFixed (field r 2 1) i with
  | none => none
  | some a =>
    if field r 0 1 = 2 then
      (s.heldFixed (field r 3 1) i).map (fun b => (a.value.to64.sub b.value.to64, a.flags ||| b.flags))
    else some (a.value.to64, a.flags)

/-- The decimated value of a local signal at fixed-rate sample c, and its flags (R264, R266). Samples before sample 0 do not
exist: they enter as 0 and mark the value SETTLING. -/
def decimated (s : State) (r : List Byte) (c : Nat) : F64 × Quality :=
  (List.range 161).foldl (fun a t =>
    match (if 80 ≤ c + t then s.localInput r (c + t - 80) else none) with
    | some x => (a.1.add ((⟨Config.decimatorTap t⟩ : F64).mul x.1), a.2 ||| qFlags x.2)
    | none => (a.1, qSet a.2 qSETTLING)) (F64.zero, 0#16)

/-- The notch (R265). -/
def notchStep (s : State) (r : List Byte) (n : Notch) (x : F64) : F64 × Notch :=
  let bw := if field r 22 2 = 0 then 100 else field r 22 2
  let rr := (F64.ofInt 1).sub (((pi64.mul (F64.ofRat (1 / 100))).mul (F64.ofInt bw)).div (F64.ofInt 2400))
  let c2 := (F64.ofInt 2).mul (cosOf ((twoPi64.mul s.loc.fEst).div (F64.ofInt 2400)))
  let y := (((x.sub (c2.mul n.x1)).add n.x2).add ((rr.mul c2).mul n.y1)).sub ((rr.mul rr).mul n.y2)
  (y, ⟨x, n.x1, y, n.y1⟩)

/-- One local sample of every local signal (R264–R266). -/
def formLocal (s : State) (j : Nat) : State :=
  (usedSignals s true).foldl (fun t k =>
    let r := signalRecord t k
    let d := t.decimated r (20 * j)
    let y := t.notchStep r ((lookup k t.spec.notches).getD ⟨⟨0⟩, ⟨0⟩, ⟨0⟩, ⟨0⟩⟩) d.1
    let e : Entry := ⟨y.1.to32, qMake true d.2, 0⟩
    t.modSpec (fun x => { x with
      notches := insertKey k y.2 x.notches
      forming := x.forming.map (fun row => if row.1 = j then (row.1, row.2 ++ [(k, e)]) else row) }))
    (s.modSpec (fun x => { x with forming := x.forming ++ [(j, [])] }))

/-- The ET of local sample j (R264). -/
def localEt (s : State) (j : Nat) : Et := s.fixedEt (20 * j)

/-- A finished block of 8 local samples goes to each lane; a lane with 12 unprocessed blocks loses it (R266). The merge of its window update
closes 30 µs later (R277). -/
def sendBlock (s : State) (lastJ : Nat) : State :=
  let rows := s.spec.forming
  let close := max s.raw s.spec.lastLocal + 30 * tickUs
  (List.range 4).foldl (fun t n =>
    let waiting := ((nth t.spec.blocks n []).filter (fun b => b.rows.isSome)).length
    let put := fun (u : State) (b : LocalBlock) => u.modSpec (fun x => { x with blocks := modNth x.blocks n (· ++ [b]) })
    if !t.laneLive n then t
    else if waiting ≥ 12 then (put t ⟨lastJ, none⟩).inc32 0x6000 0x07
    else put t ⟨lastJ, some rows⟩) (s.modSpec (fun x => { x with
      forming := [], lastLocal := close, merges := x.merges ++ [⟨true, lastJ, s.localEt lastJ, close, []⟩] }))

/-- The local samples that the newest fixed-rate sample completes (R264, R266). -/
def localSamples (s : State) : State :=
  let j := s.spec.nextLocal
  if !s.flag 0x6000 0x02 ∨ s.loc.nextFixed < 20 * j + 81 then s
  else
    let t := (s.formLocal j).modSpec (fun x => { x with nextLocal := j + 1 })
    if j % 8 = 7 then t.sendBlock j else t

/-- One local sample row for one signal. -/
def localRow (s : State) (key j : Nat) (row : Option Entry) (windowed present : Bool) : State :=
  let tau := field (signalRecord s key) 20 2
  match row with
  | some e =>
    let ok := qValid e.quality && !qBit e.quality qHELD
    s.signalUpdate key j ok windowed (present && ok) e.value e.quality tau 300 2400
  | none => s.signalUpdate key j false windowed false ⟨0⟩ 0#16 tau 300 2400

/-- A block's 8 samples for one signal: the window update at the last is stale when any of them is (R271). -/
def localSignal (s : State) (key : Nat) (b : LocalBlock) : State :=
  let js := (List.range 8).map (fun i => b.lastJ - 7 + i)
  let at_ := fun (j : Nat) => match b.rows with
    | some rows => (lookup j rows).bind (lookup key)
    | none => none
  let ok := js.all (fun j => match at_ j with
    | some e => qValid e.quality && !qBit e.quality qHELD
    | none => false)
  js.foldl (fun t j => t.localRow key j (at_ j) (decide (j = b.lastJ)) ok) s

/-- LOCAL_BLOCK_RECEIVE (R266): a lane takes its next block, or the gap of a block it had no room for. -/
def localBlockReceive (s : State) (n : Nat) : State :=
  match nth s.spec.blocks n [] with
  | [] => s
  | b :: rest =>
    let s1 := s.modSpec (fun x => { x with blocks := modNth x.blocks n (fun _ => rest) })
    if !s.laneRuns n then s
    else if !s1.flag 0x6000 0x02 then s1.analyticsDone n true
    else
      let s2 := s1.applyResets n true
      let s3 := ((usedSignals s2 true).filter (fun k => signalLane k = n)).foldl (fun t k => t.localSignal k b) s2
      (s3.analyticsDone n true).contribute n true b.lastJ

/-! ## Band merges (R277, R278, R284, R285) -/

/-- A merge is over: its close has come, or every live lane has contributed. -/
def mergeOver (s : State) (m : BandMerge) : Bool :=
  decide (m.closeTick ≤ s.raw) || s.liveLanes.all (fun n => (lookup n m.parts).isSome)

/-- BAND_CONTRIBUTION (R277): a lane's oldest contribution reaches the hub; one that comes after its close is discarded. -/
def bandContribution (s : State) (n : Nat) : State :=
  match nth s.spec.sent n [] with
  | [] => s
  | c :: rest =>
    let s1 := s.modSpec (fun x => { x with sent := modNth x.sent n (fun _ => rest) })
    if !s1.laneLive n then s1
    else s1.modSpec (fun x => { x with
      merges := x.merges.map (fun m =>
        if m.loc = c.loc ∧ m.update = c.update ∧ s.raw ≤ m.closeTick then { m with parts := insertKey n c m.parts } else m) })

/-- The merged share of a band. -/
def mergeShares (l : List BandShare) : BandShare :=
  l.foldl (fun a b =>
    { pd := a.pd + b.pd, gr := a.gr + b.gr
      worst := match a.worst, b.worst with
        | none, w => w
        | w, none => w
        | some x, some y => if y.2.1.lt x.2.1 then some y else some x
      changes := a.changes ++ b.changes }) ⟨0, 0, none, []⟩

/-- A BAND_SUMMARY element (R284). -/
def bandSummaryBytes (x : BandShare) (update : Nat) : List Byte :=
  let w := x.worst.getD (0xFFFF, absentValue, absentValue)
  beBytes 2 x.pd ++ beBytes 2 x.gr ++ beBytes 2 w.1 ++ [byte (bitsOfList [decide (0 < x.pd), decide (0 < x.gr)]), 0] ++
  beBytes 4 w.2.1.nat ++ beBytes 4 w.2.2.nat ++ beBytes 8 update

/-- The number of a band's alarm (R301). -/
def bandAlarm (loc : Bool) (b alarm : Nat) : Nat :=
  if loc then 64 + 64 * alarm + b else 32 * alarm + b

/-- Alarm changes go to the router together (R303). -/
def deliverAlarms (s : State) (l : List (Nat × Bool)) : State :=
  if l.isEmpty then s else s.modAlr (fun a => { a with batches := a.batches ++ [l] })

/-- The lowest-numbered signal that changed an alarm at a merge; 0xFFFF when none did (R285). -/
def firstChange (l : List (Nat × Nat × Bool)) (alarm : Nat) : Nat :=
  l.foldl (fun m c => if c.2.1 = alarm ∧ c.1 < m then c.1 else m) 0xFFFF

/-- A change of a band alarm raises SPECTRO_ALARM (R278, R285). -/
def spectroAlarm (s : State) (loc : Bool) (b alarm : Nat) (on : Bool) (signal : Nat) : State :=
  s.raiseEvent 72 (b + (if loc then 256 else 0) + 512 * alarm + (if on then 1024 else 0) + 65536 * signal)

/-- One band's merge: summary, SPECTRO_ALARM at each change, and captures (R278, R279); and its alarm changes for the router. -/
def mergeBand (s : State) (m : BandMerge) (b : Nat) (x : BandShare) : State × List (Nat × Bool) :=
  let elem := (if m.loc then 32 else 0) + b
  let old := field (s.elem 0x6011 0x01 elem) 6 1
  let new := bitsOfList [decide (0 < x.pd), decide (0 < x.gr)]
  let s1 := s.setElem 0x6011 0x01 elem (bandSummaryBytes x m.update)
  let changed := [0, 1].filter (fun a => old.testBit a != new.testBit a)
  let s2 := changed.foldl (fun t a => t.spectroAlarm m.loc b a (new.testBit a) (firstChange x.changes a)) s1
  let cap := fun (t : State) (again : Bool) (trig alarm : Nat) => t.modSpec (fun p => { p with
    captures := p.captures ++ [⟨m.loc, b, m.update, m.time, again, trig, alarm⟩]
    episodes := insertKey elem (m.time, trig, alarm) p.episodes })
  let s3 :=
    if old = 0 ∧ new ≠ 0 then
      let trig := (x.changes.filter (fun c => c.2.2)).foldl (fun t c => if c.1 < t then c.1 else t) 0xFFFF
      cap s2 false trig new
    else if new ≠ 0 then
      let period := field (bandRecord s m.loc b) 26 2
      match lookup elem s2.spec.episodes with
      | some (t, trig, alarm) => if 0 < period ∧ t + period * sec ≤ m.time then cap s2 true trig alarm else s2
      | none => s2
    else s2
  (s3, changed.map (fun a => (bandAlarm m.loc b a, new.testBit a)))

/-- The merge of an update closes (R277): lanes that missed it count, with their latest merged contribution in its place. -/
def finishMerge (s : State) (m : BandMerge) : State :=
  let missed := s.liveLanes.filter (fun n => (lookup n m.parts).isNone)
  let s1 := missed.foldl (fun t n => (t.inc32 0x6000 0x06).raiseEvent 74 n) s
  let latest := if m.loc then s1.spec.latestLocal else s1.spec.latestInter
  let parts := s1.liveLanes.filterMap (fun n => match lookup n m.parts with
    | some c => some (n, c)
    | none => (nth latest n none).map (fun c => (n, { c with bands := c.bands.map (fun e => (e.1, { e.2 with changes := [] })) })))
  let s2 := s1.modSpec (fun x =>
    let upd := fun (l : List (Option Contribution)) => m.parts.foldl (fun l p => l.set p.1 (some p.2)) l
    if m.loc then { x with latestLocal := upd x.latestLocal } else { x with latestInter := upd x.latestInter })
  let r := (List.range (if m.loc then 64 else 32)).foldl (fun (a : State × List (Nat × Bool)) b =>
    let u := a.1.mergeBand m b (mergeShares (parts.filterMap (fun p => lookup b p.2.bands)))
    (u.1, a.2 ++ u.2)) (s2, [])
  (r.1.deliverAlarms r.2).inc64 0x6000 (if m.loc then 0x04 else 0x03)

/-- BAND_MERGE_CLOSE (R277): the oldest merge, when it is over. -/
def bandMergeClose (s : State) : State :=
  match s.spec.merges with
  | [] => s
  | m :: rest =>
    if s.mergeOver m then (s.modSpec (fun x => { x with merges := rest })).finishMerge m
    else
      match rest.find? (fun x => x.loc != m.loc) with
      | some x =>
        if s.mergeOver x then (s.modSpec (fun p => { p with merges := p.merges.filter (fun y => y != x) })).finishMerge x else s
      | none => s

/-! ## Mode shapes (R279, R280) -/

/-- A lane's answer for one resonator: the entry of its shape buffer for the update. -/
def shapeEntry (s : State) (c : Capture) (key : Nat) : Option ShapePoint :=
  if s.laneLive (signalLane key) then (s.resonator (key * 64 + c.band)).shapes.find? (fun p => p.update = c.update) else none

/-- The 12 bytes of a shape entry. -/
def shapeBytes (re im : F32) (q : Quality) (alarms : Nat) : List Byte :=
  beBytes 4 re.nat ++ beBytes 4 im.nat ++ beBytes 2 q.toNat ++ [byte alarms, 0]

/-- SHAPE_ANSWER (R279): the oldest capture's answers are normalised and written as a mode-shape record. -/
def shapeAnswer (s : State) : State :=
  match s.spec.captures with
  | [] => s
  | c :: rest =>
    let keys := (usedSignals s c.loc).filter (fun k => (signalBands s k).contains c.band)
    let num := fun (k : Nat) => if c.loc then k - 4096 else k
    let pts := keys.map (fun k => (num k, s.shapeEntry c k))
    let band := bandRecord s c.loc c.band
    let ref := field band 24 2
    let refPt := (pts.find? (fun p => p.1 = ref)).bind (·.2)
    let zRef : Option Cplx := match refPt with
      | some p =>
        let z : Cplx := ⟨p.re.to64, p.im.to64⟩
        if qBit p.quality qABSENT ∨ qBit p.quality qSTALE ∨ z.abs.nat = 0 then none else some z
      | none => none
    let missed := (pts.filter (fun p => p.2.isNone)).length
    let entries := pts.filterMap (fun p => p.2.map (fun x =>
      let v := match zRef with
        | some z => (Cplx.div ⟨x.re.to64, x.im.to64⟩ z)
        | none => ⟨x.re.to64, x.im.to64⟩
      (p.1, shapeBytes v.re.to32 v.im.to32 x.quality x.alarms)))
    let n := s.num 0x6012 0x01
    let fs := if c.loc then 2400 else (s.segAt c.time).rate
    let header := padTo 64 (beBytes 8 c.update ++ etBytes c.time ++ [byte (bit01 c.loc), byte c.band,
      byte (bitsOfList [zRef.isNone, c.again, decide (0 < missed)]), 0] ++ beBytes 2 ref ++ beBytes 2 keys.length ++
      beBytes 2 c.trigger ++ [byte c.alarm, 0] ++ beBytes 4 (f0eOf band fs).to32.nat)
    let s1 := s.modSpec (fun x => { x with captures := rest, shapes := insertKey (n % 64) ⟨n, header, entries⟩ x.shapes })
    ((s1.add 32 0x6000 0x08 missed).incWrap 32 0x6012 0x01).raiseEvent 73
      (c.band + (if c.loc then 256 else 0) + 65536 * (n % 65536))

/-- A reset of all reaches the signals of isolated lanes, which have no next update, at once. -/
def resetIsolated (s : State) (all : Bool) : State :=
  if all then ((usedSignals s false ++ usedSignals s true).filter (fun k => !s.laneLive (signalLane k))).foldl resetSignal s else s

/-- RESET_CMD (R276, R282): taken while RUNNING; the resets come with the next update of the lanes concerned. -/
def spectroReset (s : State) (target : Nat) : State :=
  if !s.flag 0x6000 0x02 then s.quickCmd 0x6005 3 []
  else
    let lanes := if target = 0xFFFF then s.liveLanes
      else [signalLane (if target ≥ 0x8000 then 4096 + (target - 0x8000) else target)].filter s.laneLive
    let items := fun (_ : Nat) => if target = 0xFFFF then 0x7FFF :: (if s.chainOn then [0xFFFF] else []) else [target]
    let t := (s.startCmd 0x6005).resetIsolated (decide (target = 0xFFFF))
    if lanes.isEmpty ∨ (target ≥ 0x8000 ∧ target ≠ 0xFFFF ∧ !s.chainOn) then
      ((usedSignals t (decide (0x8000 ≤ target))).filter (fun k =>
        (if target ≥ 0x8000 then 4096 + (target - 0x8000) else target) = k)).foldl resetSignal (t.finishCmd 0x6005 0 [])
    else t.modSpec (fun x => { x with resets := lanes.foldl (fun l n => modNth l n (· ++ items n)) x.resets })

/-- The local part of a synchronising reset: every local signal, the notches and the sample count (R265, R276). -/
def resetLocalSignals (s : State) : State :=
  (s.resetAllSignals true).modSpec (fun x => { x with
    notches := [], nextLocal := 0, forming := [], blocks := x.blocks.map (fun _ => []), merges := x.merges.filter (fun m => !m.loc) })

/-! ## Task dispatch (R250) -/

/-- A dispatched task does its work (R248). -/
def runTask (s : State) (n : Nat) (t : Task) : State :=
  match t.work with
  | .update false => s.interAreaUpdate n
  | .update true => s.localBlockReceive n
  | .strobe ord => (s.finishTask n t).runStrobe n ord
  | .answer ord => (s.finishTask n t).runAnswer n ord
  | .partialOf ord => (s.finishTask n t).runPartial n ord
  | .alarm c => (s.finishTask n t).sendContribution n c
  | .service r => (s.finishTask n t).queueLate r
  | .forward _ | .watch _ => s.finishTask n t
  | .parse | .convert _ | .assemble _ _ => s.runFrameTask n t

/-- TASK_DISPATCH (R250): tasks are admitted, and the scheduler's choice is done. -/
def taskDispatch (s : State) (n : Nat) : State :=
  if !s.laneRuns n then s
  else
    let s1 := s.admitTask n
    match s1.nextTask n with
    | none => s1
    | some t => (s1.runTask n t).admitTask n

end State

/-- TASK_DISPATCH (R250). -/
def execTaskDispatch (lane : Fin 4) (s : State) : Host.Outcome State Fault Refusal :=
  complete s (fun s => s.taskDispatch lane.val)

/-- INTER_AREA_UPDATE (R272). -/
def execInterAreaUpdate (lane : Fin 4) (s : State) : Host.Outcome State Fault Refusal :=
  complete s (fun s => s.interAreaUpdate lane.val)

/-- LOCAL_BLOCK_RECEIVE (R266). -/
def execLocalBlockReceive (lane : Fin 4) (s : State) : Host.Outcome State Fault Refusal :=
  complete s (fun s => s.localBlockReceive lane.val)

/-- BAND_CONTRIBUTION (R277). -/
def execBandContribution (lane : Fin 4) (s : State) : Host.Outcome State Fault Refusal :=
  complete s (fun s => s.bandContribution lane.val)

/-- SHAPE_ANSWER (R279). -/
def execShapeAnswer (s : State) : Host.Outcome State Fault Refusal := complete s State.shapeAnswer

end Sys2Proof.Machine
end

