-- ==== Sys2Proof/Machine/Horizon.lean ====
section
/-! DEFINITION. Horizon (R286–R297), local loss of mains (R298–R300) and the alarm router (R301–R306). -/

namespace Sys2Proof.Machine

namespace State

/-! ## Buses and ties (R286–R292) -/

def busRecord (s : State) (b : Nat) : List Byte := s.cElem 0x6101 0x01 b
def tieRecord (s : State) (t : Nat) : List Byte := s.cElem 0x6102 0x01 t
def busI (s : State) (t : Nat) : Nat := field (s.tieRecord t) 2 2
def busJ (s : State) (t : Nat) : Nat := field (s.tieRecord t) 4 2

/-- Elements of a configuration array that a flag bit of one of their bytes marks, rising. -/
def markedElems (s : State) (index at_ bit : Nat) : List Nat :=
  (s.cfg.filter (fun e => e.1 / 65536 == index * 256 + 1 && (field e.2.toBytes at_ 1).testBit bit)).map (fun e => e.1 % 65536)

def enabledBuses (s : State) : List Nat := s.markedElems 0x6101 4 0
def enabledTies (s : State) : List Nat := s.markedElems 0x6102 0 0

/-- A bus is usable at a transit (R289). -/
def busUsable (s : State) (vec : List (Nat × Entry)) (b : Nat) : Bool :=
  let r := s.busRecord b
  [field r 0 2, field r 2 2].all (fun e =>
    let q := (vectorEntry vec e).quality
    qValid q && (!qBit q qHELD || (field r 4 1).testBit 1))

end State

/-- |x| > lim, for the tests of R291. -/
def beyond (x lim : F64) : Bool := lim.lt x.abs

end Sys2Proof.Machine

namespace Sys2Proof

open Machine

/-- R291 for a tie whose buses are both OBSERVED: the tie's new state, and whether a slip is counted. -/
def TieState.evaluate (t : TieState) (r : List Byte) (rate : Nat) (df dth : F64) : TieState × Bool :=
  let flags := field r 0 1
  let dfLim := (f32At r 8).to64
  let jump := t.prevSet && beyond (dth.sub t.dThetaPrev) pi64
  let slip := flags.testBit 3 && jump
  let first := !t.refSet
  let ref := if first then dth else t.dThetaRef
  let done := { t with holding := false, refSet := true, prevSet := true, df := df, dTheta := dth, dThetaPrev := dth }
  if t.state = 1 then
    let fRun := if flags.testBit 1 && beyond df dfLim then min 255 (t.fRun + 1) else 0
    let freq : Bool := decide (field r 6 1 ≤ fRun)
    let ang := flags.testBit 2 && !first && beyond (dth.sub ref).wrap (f32At r 12).to64
    if freq || ang || slip then
      ({ done with state := 2, last := 2, dThetaRef := ref, fRun := fRun, cRun := 0, cause := bitsOfList [freq, ang, slip]
                   slips := if slip then min 65535 (t.slips + 1) else t.slips }, slip)
    else
      let a := (F64.ofInt 1).sub (expOf ((F64.ofInt 1).div (F64.ofInt (rate * field r 16 2 : Nat))).neg)
      ({ done with last := 1, dThetaRef := (ref.add (a.mul (dth.sub ref).wrap)).wrap, fRun := fRun }, false)
  else
    let cRun := if df.abs.le dfLim && !jump then min 255 (t.cRun + 1) else 0
    if cRun ≥ field r 7 1 then
      ({ done with state := 1, last := 1, dThetaRef := dth, cRun := cRun, fRun := 0 }, false)
    else ({ done with state := 2, last := 2, dThetaRef := dth, cRun := cRun }, false)

/-- The flags and counts that a bus returning to OBSERVED clears (R292). -/
def TieState.cleared (t : TieState) : TieState := { t with refSet := false, prevSet := false, fRun := 0, cRun := 0 }

/-- A tie that leaves EXCLUDED takes LAST as its state (R292). -/
def TieState.included (t : TieState) : TieState := if t.state = 3 then { t with state := t.last } else t

/-- A tie joins its buses: CLOSED, or EXCLUDED with LAST CLOSED (R293). -/
def TieState.joins (t : TieState) : Bool := t.state == 1 || (t.state == 3 && t.last == 1)

end Sys2Proof

namespace Sys2Proof.Machine

namespace State

def putTie (s : State) (t : Nat) (x : TieState) : State := s.modHor (fun h => { h with ties := insertKey t x h.ties })

/-- One tie at an evaluated transit (R290–R292): the answer tells whether a slip is counted. -/
def stepTie (s : State) (vec : List (Nat × Entry)) (rate : Nat) (returned : List Nat) (t : Nat) : State × Bool :=
  let i := s.busI t
  let j := s.busJ t
  let x0 := s.tie t
  let x := if returned.contains i || returned.contains j then x0.cleared else x0
  let ends := [s.busState i, s.busState j]
  if ends.contains 3 then
    (s.putTie t { x with state := 3, holding := false, last := if x.state = 3 then x.last else x.state }, false)
  else if ends.contains 2 then (s.putTie t { x.included with holding := true }, false)
  else
    let val := fun (b at_ : Nat) => (vectorEntry vec (field (s.busRecord b) at_ 2)).value.to64
    let r := x.included.evaluate (s.tieRecord t) rate ((val i 0).sub (val j 0)) ((val i 2).sub (val j 2)).wrap
    (s.putTie t r.1, r.2)

end State

/-! ## Components and island events (R293–R295) -/

/-- Joins two islands: the larger root takes the smaller (R293). -/
def joinIslands (l : List (Nat × Nat)) (i j : Nat) : List (Nat × Nat) :=
  match lookup i l, lookup j l with
  | some a, some b => l.map (fun e => (e.1, if e.2 = max a b then min a b else e.2))
  | _, _ => l

namespace State

/-- The island id of each enabled bus (R293). -/
def islandsOf (s : State) : List (Nat × Nat) :=
  (s.enabledTies.filter (fun t => (s.tie t).joins)).foldl (fun l t => joinIslands l (s.busI t) (s.busJ t))
    (s.enabledBuses.map (fun b => (b, b)))

/-- The 96-byte record of an island event (R295), and its CAUSE_TIE. `id` is ISLAND_ID and `name` the island of the bitmap. -/
def islandRecord (s : State) (r : Released) (kind isl other name comps : Nat) (islands : List (Nat × Nat)) (changed : List Nat) :
    List Byte × Nat :=
  let members := (islands.filter (fun e => e.2 = name)).map (·.1)
  let cause := ((changed.filter (fun t => members.contains (s.busI t) || members.contains (s.busJ t))).head?).getD 0xFFFF
  let bitmap := (List.range 64).map (fun i => byte (bitsOfList ((List.range 8).map (fun n => members.contains (8 * i + n)))))
  (beBytes 8 r.k ++ etBytes r.tk ++ [byte kind, byte (bit01 (members.any (fun b => s.busState b != 1)))] ++ beBytes 2 isl ++
    beBytes 2 other ++ beBytes 2 comps ++ beBytes 2 members.length ++ beBytes 2 cause ++ bitmap, cause)

/-- Writes an island event record and raises its event (R294, R295, R311). -/
def islandEvent (s : State) (r : Released) (formed : Bool) (isl other name comps : Nat) (islands : List (Nat × Nat))
    (changed : List Nat) : State :=
  let x := s.islandRecord r (if formed then 1 else 2) isl other name comps islands changed
  let n := s.num 0x6105 0x01
  (((s.setElem 0x6105 0x02 (n % 64) x.1).incWrap 32 0x6105 0x01).inc32 0x6100 (if formed then 0x08 else 0x09)).raiseEvent
    (if formed then 75 else 76) (isl + 65536 * x.2)

/-- Ids present in one list and not in another, rising. -/
def idsNotIn (a b : List (Nat × Nat)) : List Nat :=
  (((a.map (·.2)).dedup).filter (fun x => !(b.map (·.2)).contains x)).insertionSort (· ≤ ·)

/-- An evaluated transit (R289–R296). -/
def evaluateTransit (s : State) (r : Released) (vec : List (Nat × Entry)) : State :=
  let buses := s.enabledBuses
  let ties := s.enabledTies
  let runs := buses.map (fun b => (b, if s.busUsable vec b then 0 else min 65535 (s.uRun b + 1)))
  let returned := (runs.filter (fun e => e.2 = 0 && s.uRun e.1 != 0)).map (·.1)
  let s1 := s.modHor (fun h => { h with uRuns := runs })
  let go := ties.foldl (fun (a : State × List Nat) t =>
    let x := a.1.stepTie vec r.rate returned t
    (x.1, if x.2 then a.2 ++ [t] else a.2)) (s1, [])
  let changed := ties.filter (fun t => (s.tie t).state != (go.1.tie t).state)
  let s2 := go.2.foldl (fun t n => (t.inc32 0x6100 0x07).raiseEvent 77 n) go.1
  let islands := s2.islandsOf
  let comps := (islands.filter (fun e => e.1 = e.2)).length
  let formed := if s.hor.fresh then [] else idsNotIn islands s.hor.islands
  let merged := if s.hor.fresh then [] else idsNotIn s.hor.islands islands
  let s3 := formed.foldl (fun t n =>
    t.islandEvent r true n ((lookup n s.hor.islands).getD 0xFFFF) n comps islands changed) s2
  let s4 := merged.foldl (fun t n =>
    let now := (lookup n islands).getD 0xFFFF
    t.islandEvent r false n now now comps islands changed) s3
  let s5 := ((((s4.modHor (fun h => { h with islands := islands, fresh := false })).setN 0x6100 0x04 comps).setN 0x6100 0x05
    (buses.filter (fun b => s4.busState b = 3)).length).inc64 0x6100 0x06).setN 0x6100 0x0A r.k
  s5.deliverAlarms [(192, decide (s.c 0x6100 0x03 < comps)), (193, !formed.isEmpty), (194, !merged.isEmpty), (195, !go.2.isEmpty),
    (196, buses.any (fun b => s5.busState b = 3))]

/-- Mirrored tie states for an instant replace a standby's own (R475). -/
def adoptTies (s : State) (k : Nat) : State :=
  match s.hor.mirrored with
  | some (k', ties) =>
    if k' ≤ k then
      let t := s.modHor (fun h => { h with mirrored := none })
      if k' = k ∧ s.isPair ∧ !s.acting then ties.foldl (fun u e => u.putTie e.1 e.2) t else t
    else s
  | none => s

/-- HORIZON_EVALUATION (R289, R290): the oldest waiting transit; one without values only clears the previous angles. -/
def horizonEvaluation (s : State) : State :=
  match s.tr.toHorizon with
  | [] => s
  | r :: rest =>
    let t := s.modTr (fun x => { x with toHorizon := rest })
    if !s.flag 0x6100 0x02 then t
    else
      match r.vec with
      | none => t.modHor (fun h => { h with ties := h.ties.map (fun e => (e.1, { e.2 with prevSet := false })) })
      | some vec =>
        let u := (t.evaluateTransit r vec).adoptTies r.k
        u.mirrorOut (.mirrorTies r.k (u.enabledTies.map (fun n => (n, u.tie n))))

/-- With ENABLE 0 every Horizon alarm is 0 (R296). -/
def horizonOff (s : State) : State := s.deliverAlarms ((List.range 5).map (fun i => (192 + i, false)))

/-- Ties set CLOSED with runs and flags cleared, and buses with U_RUN 0 (R308). -/
def closeTies (s : State) (ties buses : List Nat) : State :=
  let t := ties.foldl (fun u n => u.putTie n
    { (u.tie n).cleared with state := 1, last := 1, holding := false }) s
  t.modHor (fun h => { h with uRuns := h.uRuns.filter (fun e => !buses.contains e.1) })

/-- The next evaluation only sets the comparison base (R294). -/
def freshIslands (s : State) : State := s.modHor (fun h => { h with fresh := true })

/-! ## Local loss of mains (R298, R299) -/

def lomBay (s : State) (b : Nat) : LomBay := nth s.lom b ⟨0, [], [], 0, false, false, 0⟩

/-- STATE of a bay's loss of mains (R309). -/
def lomState (s : State) (b : Nat) : State :=
  s.setN (0x6110 + b) 0x07 (if (s.lomBay b).active then 2 else bit01 (s.lomBay b).blocked)

/-- The windows h − 4 to h carry SETTLING or SOURCE_ERROR, or are not all there (R298). -/
def lomFlagged (s : State) (b h : Nat) : Bool :=
  (List.range 3).any (fun ph =>
    match s.window (6 * b + ph) ((128 * h : Nat) - 768) 768 with
    | none => true
    | some w => w.any (fun x => qBit x.flags qSETTLING || qBit x.flags qSOURCE_ERROR))

/-- |V1| of window h is below V_MIN % of V_NOM / √3 (R298). -/
def lomLow (s : State) (b : Nat) (v1 : Cplx) : Bool :=
  v1.abs.lt (((F64.ofInt (s.c (0x6110 + b) 0x05)).div (F64.ofInt 100)).mul
    ((s.cF32 (0x3100 + b) 0x06).to64.div (F64.sqrt (F64.ofInt 3))))

/-- vs[h], f[h] and rocof[h] from the angles and frequencies so far, newest first (R298). -/
def lomVs : List F64 → Option F64
  | p0 :: p1 :: p2 :: _ => some ((p0.sub p1).sub (p1.sub p2)).wrap
  | _ => none

def lomFreq (fEst : F64) : List F64 → Option F64
  | p0 :: p1 :: _ => some (fEst.add (((((p0.sub p1).sub pi64).wrap).mul fEst).div pi64))
  | _ => none

def lomRocof (fEst : F64) : List F64 → Option F64
  | f0 :: _ :: f2 :: _ => some ((f0.sub f2).mul fEst)
  | _ => none

/-- The condition is met at a boundary (R299). -/
def lomMet (s : State) (b h cause : Nat) : State :=
  let t := s.modLom b (fun x => { x with lastMet := s.raw, active := true })
  if (s.lomBay b).active then t
  else
    let at_ := s.positionEt (s.positionOf (128 * h : Nat)).toNat
    ((((t.inc32 (0x6110 + b) 0x0A).setN (0x6110 + b) 0x0B at_).setN (0x6110 + b) 0x0C cause).raiseEvent 78 b).deliverAlarms
      [(200 + b, true)]

/-- LOM_HALF_CYCLE (R298, R299): the next half-cycle boundary of an enabled bay, once its samples are there. -/
def lomHalfCycle (s : State) (b : Nat) : State :=
  let h := (s.lomBay b).nextH
  if !s.cB (0x6110 + b) 0x01 ∨ !s.chainOn ∨ s.loc.nextTracked < 128 * h then s
  else
    match s.subPhasor b false ((128 * h : Nat) - 256) with
    | none => (s.modLom b (fun x => { x with nextH := h + 1, psis := [], freqs := [], blocked := true })).lomState b
    | some v1 =>
      let psis := (argOf v1 :: (s.lomBay b).psis).take 3
      let fs := match lomFreq s.loc.fEst psis with
        | some f => (f :: (s.lomBay b).freqs).take 3
        | none => []
      let blocked := s.lomFlagged b h || s.lomLow b v1
      let t := s.modLom b (fun x => { x with nextH := h + 1, psis := psis, freqs := fs, blocked := blocked })
      let t := match lomVs psis with
        | some vs => t.setF32 (0x6110 + b) 0x08 vs.to32
        | none => t
      match lomVs psis, lomRocof s.loc.fEst fs with
      | some vs, some rc =>
        let t1 := t.setF32 (0x6110 + b) 0x09 rc.to32
        if blocked then t1.lomState b
        else
          let run := if (s.cF32 (0x6110 + b) 0x03).to64.le rc.abs then (s.lomBay b).rocofRun + 1 else 0
          let byVs := (s.cF32 (0x6110 + b) 0x02).to64.le vs.abs
          let byRocof : Bool := decide (s.c (0x6110 + b) 0x04 ≤ run)
          let t2 := t1.modLom b (fun x => { x with rocofRun := run })
          (if byVs || byRocof then t2.lomMet b h (bitsOfList [byVs, byRocof]) else t2).lomState b
      | _, _ => (t.modLom b (fun x => { x with blocked := true })).lomState b

/-- LOM_BAYb returns to 0. -/
def lomRelease (s : State) (b : Nat) : State :=
  ((s.modLom b (fun x => { x with active := false })).lomState b).deliverAlarms [(200 + b, false)]

/-- LOM_HOLD_EXPIRY (R299): HOLD has passed since the condition was last met. -/
def lomHoldExpiry (s : State) (b : Nat) : State :=
  if (s.lomBay b).active ∧ (s.lomBay b).lastMet + s.c (0x6110 + b) 0x06 * tickMs ≤ s.raw then s.lomRelease b else s

/-- A synchronising reset starts the boundaries anew (R147). -/
def resetLom (s : State) : State :=
  { s with lom := s.lom.map (fun x => { x with nextH := 0, psis := [], freqs := [], rocofRun := 0 }) }

/-! ## The alarm router (R301–R305) -/

/-- Numbers that are not listed in R301 are reserved and always 0. -/
def alarmExists (a : Nat) : Bool := a < 197 || (200 ≤ a && a < 208)

/-- A set of numbers with one bit written. -/
def bitTo (n i : Nat) (b : Bool) : Nat := Sys2Proof.Machine.setBit n i b

/-- The routed state of an alarm from its state, MIN_ON and latch (R303). -/
def routedOf (s : State) (a : Nat) : Bool :=
  s.alr.state.testBit a || (lookup a s.alr.minOn).isSome || s.alr.latched.testBit a

/-- A rise of routed state starts or restarts the pulse of each PULSE pin in the route's ALM_MASK (R305). -/
def pulsePins (s : State) (a : Nat) : State :=
  let mask := field (s.cElem 0x6200 0x01 a) 1 1
  ((List.range 4).filter (fun n => mask.testBit n && s.c (0x6201 + n) 0x01 = 2)).foldl (fun t n =>
    t.modAlr (fun x => { x with pins := modNth x.pins n (fun _ =>
      ⟨true, s.raw + s.c (0x6201 + n) 0x03 * tickUs⟩) })) s

/-- Brings the routed states of some alarms up to date: ALARM_ROUTED and pulses. The answer's list holds the routed rises (R304). -/
def reroute (s : State) (alarms : List Nat) : State × List Nat :=
  let ch := alarms.filter (fun a => s.routedOf a != s.alr.routed.testBit a)
  let t := s.modAlr (fun x => { x with routed := ch.foldl (fun n a => bitTo n a (s.routedOf a)) x.routed })
  (ch.foldl (fun u a =>
    let on := s.routedOf a
    let u1 := if (s.routeFlags a).testBit 1 then u.raiseEvent 79 (a + 256 * bit01 on) else u
    if on then u1.pulsePins a else u1) t, ch.filter s.routedOf)

/-- An alarm's state as delivered (R303): a rise starts MIN_ON and sets the latch of a LATCH route. -/
def deliverAlarm (s : State) (e : Nat × Bool) : State :=
  let a := e.1
  if !alarmExists a ∨ s.alr.state.testBit a = e.2 then s
  else
    let t := ((s.modAlr (fun x => { x with state := bitTo x.state a e.2 })).inc64 0x6200 0x06).perf 0 0x28 1
    if e.2 then
      let min_ := field (s.cElem 0x6200 0x01 a) 8 2
      (t.modAlr (fun x => { x with
        latched := if (s.routeFlags a).testBit 0 then bitTo x.latched a true else x.latched
        minOn := if min_ = 0 then x.minOn else insertKey a (s.raw + min_ * tickMs) x.minOn })).modOrr
          (fun o => { o with rose := bitTo o.rose a true })
    else t.modOrr (fun o => { o with fell := bitTo o.fell a true })

/-- The oldest delivery on its way to the router (R303); the answer's list holds the routed rises. -/
def routeDelivery (s : State) : State × List Nat :=
  match s.alr.batches with
  | [] => (s, [])
  | l :: rest => (l.foldl deliverAlarm (s.modAlr (fun x => { x with batches := rest }))).reroute ((l.map (·.1)).insertionSort (· ≤ ·))

/-- MIN_ON after a rise has ended (R303). -/
def minOnExpiry (s : State) (a : Nat) : State :=
  match lookup a s.alr.minOn with
  | some t => if t ≤ s.raw then ((s.modAlr (fun x => { x with minOn := eraseKey a x.minOn })).reroute [a]).1 else s
  | none => s

/-- A write of ACK (R303): 0xFFFF for all. An alarm whose state is 1 keeps its latch. -/
def alarmAck (s : State) (a : Nat) : State :=
  let as := ((if a = 0xFFFF then List.range 256 else [a]).filter (fun x => s.alr.latched.testBit x && !s.alr.state.testBit x))
  ((s.modAlr (fun x => { x with latched := as.foldl (fun n y => bitTo n y false) x.latched })).reroute as).1

/-- ALM_PULSE_END (R305). -/
def almPulseEnd (s : State) (n : Nat) : State :=
  let p := nth s.alr.pins n ⟨false, 0⟩
  if p.pulsing ∧ p.endTick ≤ s.raw then s.modAlr (fun x => { x with pins := setNth x.pins n ⟨false, p.endTick⟩ }) else s

/-- New routes (R303): a latch without LATCH is released, and every routed state brought up to date. -/
def rerouteAll (s : State) : State × List Nat :=
  let held := (List.range 256).filter (fun a => s.alr.latched.testBit a && !(s.routeFlags a).testBit 0)
  (s.modAlr (fun x => { x with latched := held.foldl (fun n a => bitTo n a false) x.latched })).reroute (List.range 256)

end State

/-- HORIZON_EVALUATION (R289–R296). -/
def execHorizonEvaluation (s : State) : Host.Outcome State Fault Refusal := complete s State.horizonEvaluation

/-- LOM_HALF_CYCLE (R298). -/
def execLomHalfCycle (bay : Fin 8) (s : State) : Host.Outcome State Fault Refusal := complete s (fun s => s.lomHalfCycle bay.val)

/-- LOM_HOLD_EXPIRY (R299). -/
def execLomHoldExpiry (bay : Fin 8) (s : State) : Host.Outcome State Fault Refusal := complete s (fun s => s.lomHoldExpiry bay.val)

/-- ALM_PULSE_END (R305). -/
def execAlmPulseEnd (pin : Fin 4) (s : State) : Host.Outcome State Fault Refusal := complete s (fun s => s.almPulseEnd pin.val)

end Sys2Proof.Machine
end

