-- ==== Sys2Proof/Machine/Egress.lean ====
section
/-! DEFINITION. Concentrated output streams (R312–R322) and GOOSE (R323–R329). -/

namespace Sys2Proof.Machine

/-! ## Encoding of values (R315) -/

/-- Rounded to nearest, ties away from zero, and saturated to ±32,767; 0x8000 for NaN. -/
def satI16 (x : F64) : List Byte :=
  if x.isNaN then [0x80, 0x00]
  else match d64 x with
    | .inf neg => beInt 2 (if neg then -32767 else 32767)
    | _ => beInt 2 (clampI (-32767) 32767 (roundRat x.toRat))

/-- A polar magnitude as U16, saturating. -/
def satU16 (x : F64) : List Byte :=
  if x.isNaN then [0x80, 0x00]
  else match d64 x with
    | .inf neg => beBytes 2 (if neg then 0 else 65535)
    | _ => beBytes 2 (clampI 0 65535 (roundRat x.toRat)).toNat

def intField (x : Option F64) : List Byte := match x with
  | some v => satI16 v
  | none => [0x80, 0x00]

def floatField (x : Option F64) : List Byte := match x with
  | some v => beBytes 4 v.to32.nat
  | none => [0x7F, 0xC0, 0x00, 0x00]

/-- A value with its quality word, as a transit or a window gives it; none when it is ABSENT. -/
structure OutValue where
  value : Option F64
  quality : Quality
  deriving DecidableEq, Repr

/-- One tap of a window: its coefficient and the transit's values; none for a transit that was skipped or dropped. -/
abbrev Tap := F64 × Option (List (Nat × Entry))

/-- Watch entries over a window (R314): `f` of the entries' values at each tap, summed with the coefficients in F64 and rounded to F32. -/
def overWindow (taps : List Tap) (entries : List Nat) (f : List F64 → F64) : OutValue :=
  let rows := taps.map (fun t => t.2.map (fun v => (t.1, entries.map (vectorEntry v))))
  let quals := rows.flatMap (fun r => match r with
    | some x => x.2.map (·.quality)
    | none => [qSet 0#16 qABSENT])
  let q := qUnion quals
  if qBit q qABSENT then ⟨none, qMake false q⟩
  else
    let terms := rows.filterMap (fun r => r.map (fun x => x.1.mul (f (x.2.map (fun e => e.value.to64)))))
    ⟨some (F64.sum terms).to32.to64, qMake true q⟩

/-- A single transit's value of one entry, unfiltered. -/
def direct (vec : Option (List (Nat × Entry))) (entry : Nat) : OutValue :=
  match vec with
  | none => ⟨none, qMake false (qSet 0#16 qABSENT)⟩
  | some v =>
    let e := vectorEntry v entry
    ⟨if qBit e.quality qABSENT then none else some e.value.to64, e.quality⟩

/-- One entry, filtered when the window has more than one tap. -/
def single (taps : List Tap) (entry : Nat) : OutValue :=
  match taps with
  | [t] => direct t.2 entry
  | _ => overWindow taps [entry] (fun l => nth l 0 F64.zero)

/-- A phasor as (re, im) and (magnitude, angle), with its quality (R314). -/
def phasorOut (taps : List Tap) (a b : Nat) : Option ((F64 × F64) × (F64 × F64)) × Quality :=
  match taps with
  | [t] =>
    let m := direct t.2 a
    let g := direct t.2 b
    (match m.value, g.value with
     | some x, some y => some ((x.mul (cosOf y), x.mul (sinOf y)), (x, y))
     | _, _ => none, qUnion [m.quality, g.quality])
  | _ =>
    let re := overWindow taps [a, b] (fun l => (nth l 0 F64.zero).mul (cosOf (nth l 1 F64.zero)))
    let im := overWindow taps [a, b] (fun l => (nth l 0 F64.zero).mul (sinOf (nth l 1 F64.zero)))
    (match re.value, im.value with
     | some x, some y => some ((x, y), ((⟨x, y⟩ : Cplx).abs, argOf ⟨x, y⟩))
     | _, _ => none, re.quality)

/-! ## Records of an output stream (R312, R313, R331) -/

/-- A BLOCKS record. -/
structure OutBlock where
  idcode : Nat
  first : Nat
  phasors : Nat
  analogs : Nat
  digitals : Nat
  vScale : F32
  iScale : F32
  aScale : F32
  fnom : Nat
  svc : Nat
  deriving DecidableEq, Repr

def outBlock (r : List Byte) : OutBlock :=
  ⟨field r 0 2, field r 2 2, field r 4 2, field r 6 1, field r 7 1, f32At r 8, f32At r 12, f32At r 16, field r 20 1, field r 21 1⟩

namespace State

def egIndex (n : Nat) : Nat := 0x5800 + n

/-- The blocks of output stream n. -/
def outBlocks (s : State) (n : Nat) : List OutBlock :=
  (List.range (s.c (egIndex n) 0x06)).map (fun i => outBlock (s.cElem (egIndex n) 0x07 i))

/-- ENTRY_A and ENTRY_B of a SELECTION element. -/
def selection (s : State) (n e : Nat) : Nat × Nat :=
  let r := s.cElem (egIndex n) 0x08 e
  (field r 0 2, field r 2 2)

/-- A watch record of the committed table. -/
def watchRecord (s : State) (e : Nat) : List Byte := s.cElem 0x5100 0x01 e

/-- The phasor behind a watch entry is a current (R313). -/
def entryCurrent (s : State) (e : Nat) : Bool :=
  let w := s.watchRecord e
  (s.c (0x4000 + field w 0 2) 0x0F).testBit (field w 4 1)

/-! ## The data frame (R313–R317) -/

/-- SOC and FRACSEC of an instant in a TIME_BASE (R316). -/
def socFrac (s : State) (t : Et) (timeBase : Nat) : Nat × Nat :=
  let off := s.utcAt t
  let leapt : Bool := match s.eph.lastLeap with
    | some (at_, _) => decide (at_ ≤ t) && decide (t < at_ + 86400 * sec)
    | none => false
  let pending := s.num 0x2000 0x15
  let high := (if s.locked then 0 else 15) + 16 * bit01 (pending != 0) + 32 * bit01 leapt + 64 * bit01 (pending == 2)
  ((((t / sec : Nat) : Int) - off).toNat, high * 16777216 + (roundDiv ((t % sec * timeBase : Nat) : Int) sec).toNat % 16777216)

/-- The lowest-numbered routed alarm whose route has a bit of its EGRESS_MASK set (R317). -/
def egressAlarm (s : State) (n : Nat) : Option Nat :=
  (List.range 256).find? (fun a => s.alr.routed.testBit a && (field (s.cElem 0x6200 0x01 a) 4 2).testBit n)

/-- A configuration notice is in force (R321): the quiesce of a commit that changes subindex 02–0F of an enabled stream. -/
def configNotice (s : State) (n : Nat) : Bool :=
  s.alm.commit = .quiescing && s.cB (egIndex n) 0x01 && (s.staged.get (okey (egIndex n) 0x01 0)).toInt == 1 &&
  (s.cfg.map (·.1) ++ s.staged.map (·.1)).any (fun k =>
    k / 16777216 = egIndex n && decide (2 ≤ k / 65536 % 256) && decide (k / 65536 % 256 ≤ 0x0F) && s.cfg.get k != s.staged.get k)

/-- STAT of a block (R317). -/
def statOf (s : State) (n : Nat) (quals : List Quality) (allAbsent hdrUnlocked : Bool) : Nat :=
  let q := qUnion quals
  let top := if allAbsent then 3 else if qBit q qTEST then 2 else if qBit q qSOURCE_ERROR then 1 else 0
  let alarm := s.egressAlarm n
  let thr := s.c 0x2000 0x0E
  let acc := if !s.locked then 7 else if thr ≤ 100 then 1 else if thr ≤ 1000 then 2 else 3
  let since := (s.et - s.num 0x2000 0x0A) / sec
  let unl := if s.locked ∨ since < 10 then 0 else if since < 100 then 1 else if since < 1000 then 2 else 3
  top * 16384 + bit01 (qBit q qTIME_UNLOCKED || hdrUnlocked) * 8192 + bit01 alarm.isSome * 2048 + bit01 (s.configNotice n) * 1024 +
    bit01 (qBit q qSUBSTITUTED) * 512 + acc * 64 + unl * 16 +
    (match alarm with
     | some a => field (s.cElem 0x6200 0x01 a) 2 1 % 16
     | none => 0)

/-- While TEST_MODE is 1 every published value carries TEST (R488). -/
def testFlag (s : State) : Quality := qIf (s.flag 0xC000 0x08) qTEST

/-- A phasor's bytes (R315): volts from the watch vector's kV, amperes as they are. -/
def phasorBytes (format : Nat) (scale : F32) (unit : F64) (p : Option ((F64 × F64) × (F64 × F64))) : List Byte :=
  let s1 := fun (x : F64) => x.mul unit
  match format.testBit 0, format.testBit 1, p with
  | false, false, some x => satI16 ((s1 x.1.1).div scale.to64) ++ satI16 ((s1 x.1.2).div scale.to64)
  | false, true, some x => floatField (some (s1 x.1.1)) ++ floatField (some (s1 x.1.2))
  | true, false, some x => satU16 ((s1 x.2.1).div scale.to64) ++ satI16 (x.2.2.mul (F64.ofInt 10000))
  | true, true, some x => floatField (some (s1 x.2.1)) ++ floatField (some x.2.2)
  | _, false, none => [0x80, 0x00, 0x80, 0x00]
  | _, true, none => floatField none ++ floatField none

/-- One PMU block of a data frame (R313–R317): `now` is the transit of T_c itself. -/
def blockBytes (s : State) (n format : Nat) (b : OutBlock) (taps : List Tap) (now : Released) : List Byte :=
  let fe := s.selection n b.first
  let fv := single taps fe.1
  let rv := single taps fe.2
  let dev := if field (s.watchRecord fe.1) 2 1 = 4 then fv.value else fv.value.map (fun x => x.sub (F64.ofInt b.fnom))
  let ph := (List.range b.phasors).map (fun i =>
    let e := s.selection n (b.first + 1 + i)
    (s.entryCurrent e.1, phasorOut taps e.1 e.2))
  let an := (List.range b.analogs).map (fun i => single taps (s.selection n (b.first + 1 + b.phasors + i)).1)
  let dg := (List.range b.digitals).map (fun i =>
    let e := s.selection n (b.first + 1 + b.phasors + b.analogs + i)
    (List.range e.2).map (fun k => direct now.vec (e.1 + k)))
  let quals := [fv.quality, rv.quality] ++ ph.map (·.2.2) ++ an.map (·.quality) ++ dg.flatten.map (·.quality)
  let absent := [fv.value.isNone, rv.value.isNone] ++ ph.map (·.2.1.isNone) ++ an.map (·.value.isNone) ++ dg.flatten.map (·.value.isNone)
  let num := fun (x : Option F64) (k : F64) => if format.testBit 3 then floatField x else intField (x.map (·.mul k))
  beBytes 2 (s.statOf n (s.testFlag :: quals) (absent.all id) now.unlocked) ++
  ph.flatMap (fun p => phasorBytes format (if p.1 then b.iScale else b.vScale) (F64.ofInt (if p.1 then 1 else 1000)) p.2.1) ++
  num dev (F64.ofInt 1000) ++
  (if format.testBit 3 then floatField rv.value else intField (rv.value.map (·.mul (F64.ofInt 100)))) ++
  an.flatMap (fun a => if format.testBit 2 then floatField a.value else intField (a.value.map (·.div b.aScale.to64))) ++
  dg.flatMap (fun w => beBytes 2 (bitsOfList (w.map (fun v => match v.value with
    | some x => (F64.ofRat (1 / 2)).le x
    | none => false))))

end State

/-- A C37.118.2 frame: SYNC, FRAMESIZE, IDCODE, SOC, FRACSEC, content and CHK. -/
def c37Frame (sync idcode soc frac : Nat) (content : List Byte) : List Byte :=
  let b := beBytes 2 sync ++ beBytes 2 (content.length + 16) ++ beBytes 2 idcode ++ beBytes 4 soc ++ beBytes 4 frac ++ content
  b ++ beBytes 2 (crc16 b)

namespace State

/-- The data frame of stream n for the transit `now`, over its taps. -/
def dataFrame (s : State) (n : Nat) (taps : List Tap) (now : Released) : List Byte :=
  let t := s.socFrac now.tk (s.c (egIndex n) 0x05)
  let format := s.c (egIndex n) 0x04
  c37Frame 0xAA02 (s.c (egIndex n) 0x02) t.1 t.2 ((s.outBlocks n).flatMap (fun b => s.blockBytes n format b taps now))

/-! ## Destinations (R319) -/

/-- One copy of a data frame to destination d of stream n (R319). -/
def sendCopy (s : State) (n d : Nat) (tc : Et) (frame : List Byte) : State :=
  let r := s.cElem (egIndex n) 0x0B d
  let p := field r 1 1
  let a := slice r 16 16
  let src := s.sourceAddress p a
  if !(field r 0 1).testBit 0 then s
  else
    match (if isMapped4 a ∧ allZero (src.drop 12) then none else s.destMac p a) with
    | some m =>
      let k := udpPacket src a (field r 10 2) (field r 8 2) frame
      (((s.originate p 1 (ethernet m (macOf (s.homePort p)) (vlanTag (field r 2 2) (field r 4 1)) k.1 k.2)).inc64 (egIndex n) 0x13).setN
        (egIndex n) 0x16 tc).perf 0 0x21 1
    | none => if (groupMac a).isSome then s.inc32 (egIndex n) 0x14 else (s.inc32 (egIndex n) 0x14).askNeighbour p (s.nextHop p a)

/-- The frame of stream n at the newest transit of its window, when one is due (R314, R318). -/
def egressStream (s : State) (n : Nat) : State :=
  let taps := s.c (egIndex n) 0x09
  let len := max 1 taps
  let window := (s.egressOut n).window
  if !s.cB (egIndex n) 0x01 ∨ window.length < len then s
  else
    match window[(len - 1) / 2]? with
    | none => s
    | some now =>
      if now.k % (max 1 (s.c (egIndex n) 0x03)) ≠ 0 ∨ s.egressState n ≠ 1 then s
      else
        let items := (window.take len).reverse
        let tl : List Tap := if taps = 0 then [(F64.ofInt 1, now.vec)]
          else (items.zip (List.range len)).map (fun x => ((F32.ofBits (beNat (s.cElem (egIndex n) 0x0A x.2))).to64, x.1.vec))
        let frame := s.dataFrame n tl now
        (List.range 4).foldl (fun t d => t.sendCopy n d now.tk frame) s

/-- The instants of a run as single window items, at most the 63 newest. -/
def windowItems (s : State) (r : Released) : List Released :=
  let m := min 63 r.run
  (List.range m).map (fun i =>
    let o := r.ord + r.run - 1 - i
    { r with ord := o, k := s.kOf o, tk := s.tkOf o, run := 1 })

/-- A stream takes a transit, or a run of skipped instants, from its build queue (R314); the first one at a new F_T finds its window
empty (R225). -/
def egressTake (s : State) (n : Nat) (r : Released) : State :=
  let fresh := s.newRate r
  let t := s.modEgr (fun e => { e with outs := modNth e.outs n (fun o => { o with
    window := (s.windowItems r ++ (if fresh then [] else o.window)).take 63 }) })
  if r.vec.isSome then t.egressStream n else t

/-- The oldest entries of the build queues, stream by stream; the next ones follow, so that the frames of consecutive transits leave in
transit order (R318). `fuel` bounds them by their number. -/
def buildRound : Nat → State → List Nat → State
  | 0, s, _ => s
  | fuel + 1, s, ready =>
    let some_ := ready.filter (fun n => !(s.egressOut n).build.isEmpty)
    if some_.isEmpty then s
    else
      buildRound fuel (some_.foldl (fun (t : State) n =>
        match (t.egressOut n).build with
        | r :: rest => (t.modEgr (fun e => { e with outs := modNth e.outs n (fun o => { o with build := rest }) })).egressTake n r
        | [] => t) s) ready

/-- The hub builds the frames of the streams whose builds do not wait (R318). -/
def egressRelease (s : State) : State :=
  let ready := (List.range 16).filter (fun n => !Config.buildWaits n s.raw)
  buildRound ((s.egr.outs.map (fun (o : EgressOut) => o.build.length)).foldl max 0) s ready

/-! ## Command frames (R320) -/

/-- The ports of a stream's enabled destinations. -/
def egressPorts (s : State) (n : Nat) : List Nat :=
  ((List.range 4).filter (fun d => (field (s.cElem (egIndex n) 0x0B d) 0 1).testBit 0)).map (fun d =>
    field (s.cElem (egIndex n) 0x0B d) 1 1)

/-- The management core runs: not before MAIN, not in QUIET, not in a live activation's pause. -/
def coreRuns (s : State) : Bool := s.started && decide (s.power ≤ 1) && !s.boot.paused && s.stage != 15

/-- EGRESS_TCP_CONNECT: accepted below 16 connections over all streams, else refused. -/
def egressConnect (s : State) (n p : Nat) : State :=
  if s.coreRuns ∧ s.cB (egIndex n) 0x01 ∧ (s.egressPorts n).contains p ∧ s.egr.conns.length < 16 then
    s.modEgr (fun e => { e with conns := e.conns ++ [(n, p)] })
  else s

/-- A command frame that the stream's IDCODE carries arrives on a connection: the core answers it. -/
def egressListens (s : State) (n : Nat) : Bool :=
  s.coreRuns && s.cB (egIndex n) 0x01 && s.egr.conns.any (fun c => c.1 = n)

/-- Data on or off (R320), when TX_CONTROL is COMMANDED. -/
def egressData (s : State) (n : Nat) (on : Bool) : State :=
  if s.egressListens n ∧ s.c (egIndex n) 0x0C = 1 then
    s.modEgr (fun e => { e with outs := modNth e.outs n (fun o => { o with on := on }) })
  else s

/-- An answer on the oldest of the stream's connections (log entry 88). -/
def egressAnswer (s : State) (n : Nat) (frame : List Byte) : State :=
  match (if s.egressListens n then s.egr.conns.find? (fun c => c.1 = n) else none) with
  | some c => s.originateDecoded c.2 0 (fun q rct => .tcp q rct none n frame)
  | none => s

/-- SOC and FRACSEC of a frame sent now. -/
def nowStamp (s : State) (n : Nat) : Nat × Nat := s.socFrac s.et (s.c (egIndex n) 0x05)

def headerFrame (s : State) (n : Nat) : List Byte :=
  let t := s.nowStamp n
  c37Frame 0xAA12 (s.c (egIndex n) 0x02) t.1 t.2 (s.cBytes (egIndex n) 0x10)

/-- Name i of a stream, padded to 16 bytes. -/
def outName (s : State) (n i : Nat) : List Byte := padSpaces 16 (s.cElem (egIndex n) 0x0F i)

/-- Names that a block takes: its STN, phasors, analog values and 16 per digital word. -/
def namesOf (b : OutBlock) : Nat := 1 + b.phasors + b.analogs + 16 * b.digitals

/-- round(scale × 10^5), in 24 bits. -/
def unitOf (x : F32) : Nat := (roundRat (x.toRat * 100000)).toNat % 16777216

/-- The currents among a block's phasors. -/
def blockCurrents (s : State) (n : Nat) (b : OutBlock) : List Bool :=
  (List.range b.phasors).map (fun i => s.entryCurrent (s.selection n (b.first + 1 + i)).1)

/-- DIGUNIT of digital word i: normal status 0, and the bits in use as valid inputs (PRESUMED, log entry 44). -/
def digUnit (s : State) (n : Nat) (b : OutBlock) (i : Nat) : List Byte :=
  [0, 0] ++ beBytes 2 (2 ^ (s.selection n (b.first + 1 + b.phasors + b.analogs + i)).2 - 1)

/-- FNOM of a configuration frame: bit 0 set for 50 Hz. -/
def fnomField (b : OutBlock) : List Byte := beBytes 2 (bit01 (b.fnom == 50))

/-- Blocks with the number of their first name. -/
def namedBlocks : Nat → List OutBlock → List (Nat × OutBlock)
  | _, [] => []
  | at_, b :: rest => (at_, b) :: namedBlocks (at_ + namesOf b) rest

/-- DATA_RATE: F_t / DIV. -/
def dataRate (s : State) (n : Nat) : List Byte := beBytes 2 (s.c 0x5000 0x01 / max 1 (s.c (egIndex n) 0x03))

/-- CFGCNT: COMMIT_COUNT of the last commit that changed the stream (R320). -/
def cfgCount (s : State) (n : Nat) : List Byte := beBytes 2 (nth s.egr.cfgCounts n 0)

/-- A PMU block of CFG-2 content. -/
def cfg2Block (s : State) (n : Nat) (x : Nat × OutBlock) : List Byte :=
  let b := x.2
  s.outName n x.1 ++ beBytes 2 b.idcode ++ beBytes 2 (s.c (egIndex n) 0x04) ++ beBytes 2 b.phasors ++ beBytes 2 b.analogs ++
  beBytes 2 b.digitals ++ (List.range (namesOf b - 1)).flatMap (fun i => s.outName n (x.1 + 1 + i)) ++
  (s.blockCurrents n b).flatMap (fun cur => beBytes 4 ((if cur then 16777216 else 0) + unitOf (if cur then b.iScale else b.vScale))) ++
  (List.range b.analogs).flatMap (fun _ => beBytes 4 (unitOf b.aScale)) ++ (List.range b.digitals).flatMap (s.digUnit n b) ++
  fnomField b ++ s.cfgCount n

/-- CFG-2 content under a SYNC word (R320). -/
def cfg2Frame (s : State) (n sync : Nat) : List Byte :=
  let t := s.nowStamp n
  c37Frame sync (s.c (egIndex n) 0x02) t.1 t.2 (beBytes 4 (s.c (egIndex n) 0x05) ++ beBytes 2 (s.c (egIndex n) 0x06) ++
    (namedBlocks 0 (s.outBlocks n)).flatMap (s.cfg2Block n) ++ s.dataRate n)

/-- A CFG-3 name: its length and its bytes without trailing spaces. -/
def name3 (b : List Byte) : List Byte :=
  let t := (b.reverse.dropWhile (· = 0x20)).reverse
  byte t.length :: t

/-- A PMU block of CFG-3 (R320). -/
def cfg3Block (s : State) (n : Nat) (x : Nat × OutBlock) : List Byte :=
  let b := x.2
  let ft := s.c 0x5000 0x01
  let taps := s.c (egIndex n) 0x09
  let usOf := fun (k : Nat) => (roundDiv ((k * 1000000 : Nat) : Int) (max 1 ft)).toNat
  name3 (s.outName n x.1) ++ beBytes 2 b.idcode ++ beBytes 16 Config.pmuId.toNat ++ beBytes 2 (s.c (egIndex n) 0x04) ++
  beBytes 2 b.phasors ++ beBytes 2 b.analogs ++ beBytes 2 b.digitals ++
  (List.range (namesOf b - 1)).flatMap (fun i => name3 (s.outName n (x.1 + 1 + i))) ++
  (s.blockCurrents n b).flatMap (fun cur => [0, 0, if cur then 0x08 else 0x00, 0] ++
    beBytes 4 (if cur then b.iScale else b.vScale).nat ++ [0, 0, 0, 0]) ++
  (List.range b.analogs).flatMap (fun _ => beBytes 4 b.aScale.nat ++ [0, 0, 0, 0]) ++
  (List.range b.digitals).flatMap (s.digUnit n b) ++
  floatField none ++ floatField none ++ floatField none ++ [byte b.svc] ++
  beBytes 4 (usOf taps) ++ beBytes 4 (usOf ((taps - 1) / 2)) ++ fnomField b ++ s.cfgCount n

/-- The CFG-3 frames (R320): one, or several with a continuation index when the content is too long for one (log entry 44). -/
def cfg3Frames (s : State) (n : Nat) : List (List Byte) :=
  let t := s.nowStamp n
  let content := beBytes 4 (s.c (egIndex n) 0x05) ++ beBytes 2 (s.c (egIndex n) 0x06) ++
    (namedBlocks 0 (s.outBlocks n)).flatMap (s.cfg3Block n) ++ s.dataRate n
  let parts := chunks 65517 (content.length + 1) content
  (parts.zip (List.range parts.length)).map (fun x =>
    let idx := if parts.length ≤ 1 then 0 else if x.2 + 1 = parts.length then 0xFFFF else x.2 + 1
    c37Frame 0xAA52 (s.c (egIndex n) 0x02) t.1 t.2 (beBytes 2 idx ++ x.1))

/-- BAD_COMMAND: any other command word is counted. -/
def badCommand (s : State) (n cmd : Nat) : State :=
  if s.egressListens n ∧ (cmd = 0 ∨ 6 < cmd) then s.inc32 (egIndex n) 0x15 else s

/-! ## GOOSE publications (R323–R325, R329) -/

def pubRecord (s : State) (p : Nat) : List Byte := s.cElem 0x5901 0x01 p

def pubOn (s : State) (p : Nat) : Bool := (field (s.pubRecord p) 0 1).testBit 0

def goosePub (s : State) (p : Nat) : GoosePub := nth s.egr.pubs p ⟨1, 0, 0, [], [], false, false, 0, none⟩

def modPub (s : State) (p : Nat) (f : GoosePub → GoosePub) : State :=
  s.modEgr (fun e => { e with pubs := modNth e.pubs p f })

/-- The value of a publication's member: its value and quality word (R323). -/
def memberValue (s : State) (p m : Nat) : F32 × Quality :=
  let r := s.pubRecord p
  let kind := field r (64 + 4 * m) 1
  let num := field r (64 + 4 * m + 2) 2
  let e : F32 × Quality :=
    match kind with
    | 1 => (f32OfBool (s.alr.routed.testBit num), 1#16)
    | 2 => (let x := decodeEntry (s.elem 0x7003 0x02 num); (x.value, x.quality))
    | 3 => (let x := vectorEntry s.tr.latest num; (x.value, x.quality))
    | _ => (absentValue, qMake false (qSet 0#16 qABSENT))
  (e.1, e.2 ||| s.testFlag)

end State

/-- A signal is true when its value is at least 0.5; NaN is false (R345). -/
def truth (x : F32) : Bool := !x.isNaN && (F32.ofRat (1 / 2)).le x

/-- The IEC 61850 quality of a quality word (R325); bit i of the vector is bit i of the bit-string (log entry 45). -/
def qualityOut (q : Quality) : BitVec 13 :=
  let odd := qBit q qHELD || qBit q qLATE || qBit q qOVERRANGE
  BitVec.ofNat 13 (bitsOfList [!qValid q || odd, qValid q && odd, qBit q qOVERRANGE, qBit q qOVERRANGE, false, false,
    qBit q qSOURCE_ERROR, qBit q qHELD || qBit q qSTALE || qBit q qLATE, false, qBit q qSETTLING || qBit q qTIME_UNLOCKED,
    qBit q qSUBSTITUTED, qBit q qTEST])

/-- The quality word of a received IEC 61850 quality (R325). -/
def qualityIn (b : BitVec 13) (simulated : Bool) : Quality :=
  let invalid := b.getLsbD 0 && !b.getLsbD 1
  qMake true (qIf (invalid || b.getLsbD 6) qSOURCE_ERROR ||| qIf (b.getLsbD 2 || b.getLsbD 3) qOVERRANGE ||| qIf (b.getLsbD 7) qHELD |||
    qIf (b.getLsbD 9) qTIME_UNLOCKED ||| qIf (b.getLsbD 10) qSUBSTITUTED ||| qIf (b.getLsbD 11 || simulated) qTEST)

/-- A name without its padding. -/
def trimName (b : List Byte) : List Byte := (b.reverse.dropWhile (fun x => x = 0 || x = 0x20)).reverse

namespace State

/-- The members a publication samples: BOOLEAN members, then FLOAT32 members. -/
def boolMembers (s : State) (p : Nat) : List (F32 × Quality) := (List.range (field (s.pubRecord p) 13 1)).map (s.memberValue p)
def floatMembers (s : State) (p : Nat) : List (F32 × Quality) :=
  (List.range (field (s.pubRecord p) 14 1)).map (fun i => s.memberValue p (32 + i))

/-- A sampling moment of one publication (R324): on an acting unit each change increments stNum and sets sqNum 0; on another one the pair
link gives both (R329). -/
def samplePub (s : State) (p : Nat) : State :=
  if !s.pubOn p then s
  else
    let bs := s.boolMembers p
    let bools := bs.map (fun x => truth x.1)
    let quals := bs.map (·.2) ++ (s.floatMembers p).map (·.2)
    let x := s.goosePub p
    if x.sampled ∧ x.bools = bools ∧ x.quals = quals then s
    else
      let t := s.modPub p (fun y => { y with bools := bools, quals := quals, sampled := true })
      if x.sampled ∧ s.acting then
        t.modPub p (fun y => { y with stNum := countUp 32 x.stNum 1, sqNum := 0, changeEt := s.et, changed := true })
      else t

/-- A sampling moment (R324). -/
def gooseSample (s : State) : State := (List.range 16).foldl samplePub s

/-- Sends a publication's message (R323), with `next` ms to the next transmission. -/
def sendGoose (s : State) (p next : Nat) : State :=
  let r := s.pubRecord p
  let x := s.goosePub p
  let name := fun (i : Nat) => trimName (s.cElem 0x5902 0x01 (3 * p + i))
  let msg : GooseMsg :=
    { dstMac := slice r 4 6, srcMac := macOf (s.homePort (field r 1 1)), appId := field r 2 2, gocbRef := name 0, datSet := name 1, goId := name 2,
      timeAllowedToLive := 2 * next, stNum := x.stNum, sqNum := x.sqNum, simulation := false, confRev := field r 16 4, ndsCom := false,
      bools := (x.bools.zip (x.quals.take x.bools.length)).map (fun e => (e.1, qualityOut e.2)),
      floats := (s.floatMembers p).map (fun e => (e.1, qualityOut e.2)), wellTyped := true }
  let utc : Int := (x.changeEt : Int) - s.utcAt x.changeEt * sec
  let tq := 0x80 + (if s.locked then 20 else 0x20 + 31)
  (((s.originateDecoded (field r 1 1) 2 (fun q rct => .goose q (field r 10 2) (field r 12 1) rct p msg utc tq)).inc64 0x5900 0x01).perf
    0 0x22 1).modPub p (fun y => { y with interval := next, next := some (s.raw + next * tickMs) })

/-- Publications run: on an acting unit in RUNNING that is not in QUIET (R36, R329). -/
def gooseOn (s : State) (p : Nat) : Bool := s.pubOn p && s.acting && s.inRunning && decide (s.power = 0)

/-- GOOSE_STATE_CHANGE (R324): the first message of a publication, or the one that follows its changes. -/
def gooseStateChange (s : State) (p : Nat) : State :=
  let x := s.goosePub p
  if !s.gooseOn p ∨ !x.changed ∨ !x.sampled then s
  else
    let t := s.modPub p (fun y => { y with changed := false })
    (t.sendGoose p (field (s.pubRecord p) 20 2)).mirrorOut (.mirrorGoose p x.stNum x.sqNum)

/-- GOOSE_RETRANSMIT (R324). -/
def gooseRetransmit (s : State) (p : Nat) : State :=
  let x := s.goosePub p
  let due : Bool := match x.next with
    | some t => decide (t ≤ s.raw)
    | none => false
  if !s.gooseOn p ∨ !due ∨ x.changed then s
  else
    let sq := if x.sqNum = 4294967295 then 1 else x.sqNum + 1
    let t := s.modPub p (fun y => { y with sqNum := sq })
    (t.sendGoose p (min (2 * x.interval) (field (s.pubRecord p) 22 2))).mirrorOut (.mirrorGoose p x.stNum sq)

/-- A publication at a start: stNum 1, nothing sent. -/
def startPub (s : State) (p : Nat) : State := s.modPub p (fun _ => ⟨1, 0, s.et, [], [], false, s.pubOn p, 0, none⟩)

/-- A unit that becomes acting sends each publication with stNum one above the mirrored value and sqNum 0 (R329). -/
def pubsAfterClaim (s : State) : State :=
  s.modEgr (fun e => { e with pubs := e.pubs.map (fun x => { x with
    stNum := countUp 32 x.stNum 1, sqNum := 0, changeEt := s.et, changed := true, next := none }) })

/-! ## GOOSE subscriptions (R326, R327) -/

def subRecord (s : State) (q : Nat) : List Byte := s.cElem 0x5903 0x01 q

def subOn (s : State) (q : Nat) : Bool := (field (s.subRecord q) 0 1).testBit 0

/-- SUB_STATE of a subscription. -/
def subState (s : State) (q : Nat) : List Byte := padTo 32 (s.elem 0x5905 0x01 q)

/-- Subscription q accepts a frame's addresses and gocbRef (R326). -/
def subMatches (s : State) (p : Nat) (m : GooseMsg) (q : Nat) : Bool :=
  let r := s.subRecord q
  s.subOn q && (field r 1 1).testBit p && field r 2 2 == m.appId && slice r 4 6 == m.dstMac &&
  ((field r 0 1).testBit 2 || slice r 10 6 == m.srcMac) && trimName (s.cElem 0x5904 0x01 (3 * q)) == m.gocbRef

/-- Members of a subscription: BOOLEAN and FLOAT32 ones in use. -/
def subMembers (s : State) (q : Nat) : List Nat :=
  List.range (field (s.subRecord q) 20 1) ++ (List.range (field (s.subRecord q) 21 1)).map (32 + ·)

/-- Every member takes a flag and keeps its value. -/
def flagMembers (s : State) (q flag : Nat) : State :=
  (s.subMembers q).foldl (fun t m =>
    let e := decodeEntry (t.elem 0x5906 0x01 (48 * q + m))
    t.setElem 0x5906 0x01 (48 * q + m) (encodeEntry { e with quality := qMake false (qSet e.quality flag) })) s

/-- sqNum is newer than the last accepted one, taking the wrap into account. -/
def sqNewer (last sq : Nat) : Bool :=
  let d := (sq + 4294967296 - last) % 4294967296
  decide (0 < d) && decide (d < 2147483648)

/-- An expiry (R327): STALE, with every member's value kept. -/
def expireGoose (s : State) (q : Nat) : State :=
  ((((s.modEgr (fun e => { e with expiry := eraseKey q e.expiry })).flagMembers q qSTALE).setElem 0x5905 0x01 q
    (3 :: (s.subState q).drop 1)).inc32 0x5900 0x05).raiseEvent 84 q

/-- An accepted frame with its arrival timestamp (R326 step 4). -/
def acceptGoose (s : State) (q : Nat) (m : GooseMsg) (arrival : Et) : State :=
  let vals := (m.bools.zip (List.range 32)).map (fun x => (x.2, (⟨f32OfBool x.1.1, qualityIn x.1.2 m.simulation, 0⟩ : Entry))) ++
    (m.floats.zip (List.range 16)).map (fun x => (32 + x.2, (⟨x.1.1, qualityIn x.1.2 m.simulation, 0⟩ : Entry)))
  let t := vals.foldl (fun u x => u.setElem 0x5906 0x01 (48 * q + x.1) (encodeEntry x.2)) s
  let frames := (field (s.subState q) 28 4 + 1) % 4294967296
  ((t.setElem 0x5905 0x01 q ([2, 0, 0, 0] ++ beBytes 4 m.stNum ++ beBytes 4 m.sqNum ++ etBytes arrival ++
    beBytes 4 m.timeAllowedToLive ++ beBytes 4 frames)).inc64 0x5900 0x02).modEgr (fun e => { e with
      expiry := insertKey q (arrival + m.timeAllowedToLive * ms) e.expiry })

/-- A frame for subscription q (R326). One that arrives at or after the expiry of the frame before it does not keep the subscription from
STALE (R327), which it then ends. -/
def gooseFor (s : State) (q : Nat) (m : GooseMsg) (arrival : Et) : State :=
  let r := s.subRecord q
  let st := s.subState q
  if m.simulation ∧ !(field r 0 1).testBit 1 then s
  else if field st 28 4 ≠ 0 ∧ field st 4 4 = m.stNum ∧ !sqNewer (field st 8 4) m.sqNum then s.inc32 0x5900 0x03
  else if trimName (s.cElem 0x5904 0x01 (3 * q + 1)) ≠ m.datSet ∨ trimName (s.cElem 0x5904 0x01 (3 * q + 2)) ≠ m.goId ∨
      field r 16 4 ≠ m.confRev ∨ m.bools.length ≠ field r 20 1 ∨ m.floats.length ≠ field r 21 1 ∨ !m.wellTyped ∨ m.ndsCom then
    let t := ((s.inc32 0x5900 0x04).flagMembers q qSOURCE_ERROR).setElem 0x5905 0x01 q (4 :: st.drop 1)
    if field st 0 1 = 4 then t else t.raiseEvent 85 q
  else
    let expired : Bool := match lookup q s.egr.expiry with
      | some t => decide (t ≤ arrival)
      | none => false
    (if expired then s.expireGoose q else s).acceptGoose q m arrival

/-- GOOSE_FRAME_RECEIVE (R326), with the receive timestamp of R107. -/
def gooseReceive (s : State) (p : Nat) (m : GooseMsg) (tdc : Nat) : State :=
  if !s.portOn p ∨ !s.inRunning ∨ s.power ≠ 0 then s
  else
    match (List.range 64).find? (s.subMatches p m) with
    | some q => s.gooseFor q m (s.rxStamp p tdc)
    | none => s

/-- GOOSE_TAL_EXPIRED (R327). -/
def gooseExpire (s : State) (q : Nat) : State :=
  match lookup q s.egr.expiry with
  | some t => if t + 20 * us ≤ s.et ∧ s.subOn q then s.expireGoose q else s
  | none => s

/-- A subscription at a start or after its record changed: WAITING with every member ABSENT, or DISABLED. -/
def startSub (s : State) (q : Nat) : State :=
  let t := (List.range 48).foldl (fun u m => u.setElem 0x5906 0x01 (48 * q + m) (encodeEntry absentEntry)) s
  (t.setElem 0x5905 0x01 q (padTo 32 [byte (bit01 (s.subOn q))])).modEgr (fun e => { e with expiry := eraseKey q e.expiry })

end State

/-- EGRESS_TCP_CONNECT (R320). -/
def execEgressTcpConnect (out : Fin 16) (port : Fin 6) (s : State) : Host.Outcome State Fault Refusal :=
  complete s (fun s => s.egressConnect out.val port.val)

/-- CMD_DATA_OFF (R320). -/
def execCmdDataOff (out : Fin 16) (s : State) : Host.Outcome State Fault Refusal := complete s (fun s => s.egressData out.val false)

/-- CMD_DATA_ON (R320). -/
def execCmdDataOn (out : Fin 16) (s : State) : Host.Outcome State Fault Refusal := complete s (fun s => s.egressData out.val true)

/-- CMD_SEND_HEADER (R320). -/
def execCmdSendHeader (out : Fin 16) (s : State) : Host.Outcome State Fault Refusal :=
  complete s (fun s => s.egressAnswer out.val (s.headerFrame out.val))

/-- CMD_SEND_CFG1 (R320). -/
def execCmdSendCfg1 (out : Fin 16) (s : State) : Host.Outcome State Fault Refusal :=
  complete s (fun s => s.egressAnswer out.val (s.cfg2Frame out.val 0xAA22))

/-- CMD_SEND_CFG2 (R320). -/
def execCmdSendCfg2 (out : Fin 16) (s : State) : Host.Outcome State Fault Refusal :=
  complete s (fun s => s.egressAnswer out.val (s.cfg2Frame out.val 0xAA32))

/-- CMD_SEND_CFG3 (R320). -/
def execCmdSendCfg3 (out : Fin 16) (s : State) : Host.Outcome State Fault Refusal :=
  complete s (fun s => (s.cfg3Frames out.val).foldl (fun t f => t.egressAnswer out.val f) s)

/-- BAD_COMMAND (R320). -/
def execBadCommand (out : Fin 16) (cmd : Nat) (s : State) : Host.Outcome State Fault Refusal :=
  complete s (fun s => s.badCommand out.val cmd)

/-- GOOSE_STATE_CHANGE (R324). -/
def execGooseStateChange (pub : Fin 16) (s : State) : Host.Outcome State Fault Refusal :=
  complete s (fun s => s.gooseStateChange pub.val)

/-- GOOSE_RETRANSMIT (R324). -/
def execGooseRetransmit (pub : Fin 16) (s : State) : Host.Outcome State Fault Refusal :=
  complete s (fun s => s.gooseRetransmit pub.val)

/-- GOOSE_FRAME_RECEIVE (R326). -/
def execGooseFrameReceive (port : Fin 6) (msg : Stamped GooseMsg) (s : State) : Host.Outcome State Fault Refusal :=
  complete s (fun s => s.gooseReceive port.val msg.item msg.tdc)

/-- GOOSE_TAL_EXPIRED (R327). -/
def execGooseTalExpired (sub : Fin 64) (s : State) : Host.Outcome State Fault Refusal := complete s (fun s => s.gooseExpire sub.val)

end Sys2Proof.Machine
end

