-- ==== Sys2Proof/Machine/Orrery.lean ====
section
/-! DEFINITION. The Orrery: logic images, blocks, the cycle, online change (R335–R357), and the binary outputs and inputs
(R358–R364). -/

namespace Sys2Proof.Machine

/-! ## Logic images (R351) -/

/-- Fields of an image. -/
def imgBlocks (i : List Byte) : Nat := field i 6 2
def imgConsts (i : List Byte) : Nat := field i 8 2
def imgPeriodUs (i : List Byte) : Nat := 125 * field i 10 2
def imgOffset (i : List Byte) : Nat := field i 12 4
def imgId (i : List Byte) : Nat := field i 16 4
def imgLength (i : List Byte) : Nat := 68 + 16 * imgBlocks i + 4 * imgConsts i

/-- The block records of an image, by position. -/
def imgTable (i : List Byte) : List (List Byte) := chunks 16 (imgBlocks i) ((i.drop 64).take (16 * imgBlocks i))

/-- The constants of an image. -/
def imgConstants (i : List Byte) : List F32 :=
  (chunks 4 (imgConsts i) ((i.drop (64 + 16 * imgBlocks i)).take (4 * imgConsts i))).map (fun b => F32.ofBits (beNat b))

/-- A block record with its position and its extension record, when FLAGS [0] names one (R347). -/
structure Block where
  pos : Nat
  rec_ : List Byte
  ext : List Byte
  deriving DecidableEq, Repr

def Block.type (b : Block) : Nat := field b.rec_ 0 1
def Block.flags (b : Block) : Nat := field b.rec_ 1 1
def Block.mode (b : Block) : Nat := b.flags / 16
def Block.tag (b : Block) : Nat := field b.rec_ 2 2
def Block.param (b : Block) : F32 := F32.ofBits (field b.rec_ 12 4)
def Block.ref (b : Block) (i : Nat) : Nat := field b.rec_ (4 + 2 * i) 2

/-- The nine operand references of a block; those of an absent extension are unused. -/
def Block.refs (b : Block) : List Nat :=
  (List.range 3).map b.ref ++ (List.range 6).map (fun i => if b.ext.isEmpty then 0x1000 else field b.ext (4 + 2 * i) 2)

/-- The blocks of a table, without its extension records. -/
def tableBlocks : Nat → List (List Byte) → List Block
  | _, [] => []
  | pos, r :: rest =>
    if field r 0 1 = 0xFF then tableBlocks (pos + 1) rest
    else ⟨pos, r, if (field r 1 1).testBit 0 then rest.head?.getD [] else []⟩ :: tableBlocks (pos + 1) rest

def imgBlockList (i : List Byte) : List Block := tableBlocks 0 (imgTable i)

/-- A block right after a reset (R354). -/
def BlockState.reset : BlockState := ⟨⟨0#32⟩, 1#16, false, false, 0, 0, false, true⟩

/-! ## Checking an image (R352) -/

/-- A bank 2 index that R343 lists. -/
def inputListed (i : Nat) : Bool :=
  i ≤ 0xFF || (0x100 ≤ i && i ≤ 0x117) || (0x120 ≤ i && i ≤ 0x12F) || (0x140 ≤ i && i ≤ 0x142) ||
  (0x200 ≤ i && i ≤ 0x27F) || (0x400 ≤ i && i ≤ 0xFFF)

/-- An operand reference is in order (R342, R352 reason 5). -/
def refOk (i : List Byte) (exts : List Nat) (r : Nat) : Bool :=
  if r.testBit 12 then r == 0x1000
  else
    !r.testBit 13 &&
    (match r / 16384 with
     | 0 => decide (r % 4096 < imgBlocks i) && !exts.contains (r % 4096)
     | 1 => true
     | 2 => inputListed (r % 4096)
     | _ => decide (r % 4096 < imgConsts i))

/-- Block types that take an extension (R347). -/
def takesExt (t : Nat) : Bool := [0x01, 0x02, 0x03, 0x0F, 0x11, 0x14].contains t

/-- A finite PARAM as a rational; none for NaN and infinities. -/
def Block.paramRat (b : Block) : Option Rat := if b.param.isNaN || b.param.isInf then none else some b.param.toRat

/-- A PARAM that is an integer in a range. -/
def Block.paramInt (b : Block) (lo hi : Int) : Bool :=
  match b.paramRat with
  | some q => q.den == 1 && decide (lo ≤ q.num) && decide (q.num ≤ hi)
  | none => false

/-- PARAM and MODE lie in their ranges (R348, R352 reason 8). -/
def Block.paramOk (b : Block) : Bool :=
  match b.type with
  | 0x09 | 0x0A | 0x0B => (match b.paramRat with
    | some q => decide (0 ≤ q) && decide (q ≤ 3600000)
    | none => false)
  | 0x0D => b.mode ≤ 5
  | 0x0E | 0x14 => b.mode ≤ 1
  | 0x16 => (match b.paramRat with
    | some q => decide (0 ≤ q)
    | none => false)
  | 0x17 => b.paramInt 0 65535 && b.mode ≤ 1
  | 0x18 => b.mode ≤ 2
  | 0x19 => b.mode = 0 || (b.mode = 1 && b.paramInt 0 15)
  | _ => true

/-- The target of an OUTPUT block; none outside R348. -/
def Block.target (b : Block) : Option Nat :=
  if b.paramInt 0 15 || b.paramInt 256 511 then b.paramRat.map (fun q => q.num.toNat) else none

/-- Byte offset of a block's record. -/
def Block.offset (b : Block) : Nat := 64 + 16 * b.pos

/-- Extension positions, and those not preceded by EXT or EXT without one (reason 4). -/
def badExts : Nat → Bool → List (List Byte) → List Nat
  | pos, want, [] => if want then [pos] else []
  | pos, want, r :: rest =>
    let isExt : Bool := field r 0 1 == 0xFF
    (if isExt != want then [pos] else []) ++ badExts (pos + 1) (!isExt && (field r 1 1).testBit 0) rest

/-- Elements that occur again earlier in a list, with their offsets. -/
def repeated : List (Nat × Nat) → List Nat → List Nat
  | [], _ => []
  | (k, o) :: rest, seen => if seen.contains k then o :: repeated rest seen else repeated rest (k :: seen)

/-- The offsets at which an image fails each reason of R352, in the order of the reasons. -/
def imageFailures (i : List Byte) : List (Nat × List Nat) :=
  let n := imgBlocks i
  let table := imgTable i
  let blocks := imgBlockList i
  let exts := ((table.zip (List.range n)).filter (fun x => field x.1 0 1 == 0xFF)).map (·.2)
  let len := imgLength i
  let reserved4 := (if allZero (slice i 52 12) then [] else [52]) ++
    (blocks.filter (fun b => !(1 ≤ b.type && b.type ≤ 0x19) || field b.rec_ 10 2 != 0 ||
      ((b.flags.testBit 0) && !takesExt b.type))).map Block.offset ++
    (badExts 0 false table).map (fun p => 64 + 16 * p) ++
    ((table.zip (List.range n)).filter (fun x => field x.1 0 1 == 0xFF && field x.1 1 3 != 0)).map (fun x => 64 + 16 * x.2)
  let badRefs := (blocks.filter (fun b => b.refs.any (fun r => !refOk i exts r) ||
      (b.type = 0x18 && !(b.ref 0 / 16384 == 2 && b.ref 0 % 4096 ≤ 0xFF)) ||
      (!takesExt b.type && b.ref 0 == 0x1000))).map Block.offset
  let outs := blocks.filter (fun b => b.type = 0x19)
  [(1, if field i 0 4 = 0x4F525259 ∧ field i 4 2 = 1 then [] else [if field i 0 4 = 0x4F525259 then 4 else 0]),
   (2, if 1 ≤ n ∧ n ≤ 4096 ∧ imgConsts i ≤ 4096 then [] else [6]),
   (3, if field i (len - 4) 4 = crc32 (i.take (len - 4)) then [] else [len - 4]),
   (4, reserved4),
   (5, badRefs),
   (6, repeated ((blocks.filter (fun b => b.tag != 0)).map (fun b => (b.tag, b.offset))) []),
   (7, (outs.filter (fun b => b.target.isNone)).map Block.offset ++
       repeated (outs.filterMap (fun b => b.target.map (fun t => (t, b.offset)))) []),
   (8, (blocks.filter (fun b => !b.paramOk)).map Block.offset ++
       (((imgConstants i).zip (List.range (imgConsts i))).filter (fun c => c.1.isNaN)).map (fun c => 64 + 16 * n + 4 * c.2)),
   (9, (if 1 ≤ field i 10 2 ∧ field i 10 2 ≤ 800 then [] else [10]) ++
       (if 2000 * 2 + n * 25 ≤ imgOffset i * 2000 ∧ imgOffset i ≤ imgPeriodUs i then [] else [12]))]

/-- The first failure of an image: its reason and byte offset (R352). -/
def imageError (i : List Byte) : Option (Nat × Nat) :=
  match (imageFailures i).find? (fun f => !f.2.isEmpty) with
  | some f => some (f.1, f.2.foldl min (f.2.headD 0))
  | none => none

/-- The image that a configuration's IMAGE elements spell (R352): its length comes from its own header. -/
def imageOf (cfg : Store) : List Byte :=
  let e := fun (i : Nat) => (cfg.get (okey 0x7001 0x01 i)).toBytes
  let head := (List.range 5).flatMap e
  let len := min 82004 (imgLength head)
  (List.range (len / 4)).flatMap e

/-! ## Evaluation (R342–R350) -/

/-- A signal: a value and its quality word. -/
abbrev Signal := F32 × Quality

/-- An ABSENT signal has the value 0x7FC0_0000 (R346). -/
def signalOf (v : F32) (q : Quality) : Signal := (if qBit q qABSENT then absentValue else v, q)

/-- A result in F32: beyond the range it is saturated and carries OVERRANGE (R345). -/
def saturate (x : F32) : F32 × Bool :=
  if x.isInf then (if x.lt F32.zero then ⟨0xFF7FFFFF#32⟩ else ⟨0x7F7FFFFF#32⟩, true) else (x, false)

/-- A step of arithmetic with its saturation. -/
def satOp (f : F32 → F32 → F32) (a : F32 × Bool) (b : F32) : F32 × Bool :=
  let r := saturate (f a.1 b)
  (r.1, a.2 || r.2)

/-- A block's operands while it is evaluated: signals of A, B, C and D–I, none where unused. -/
structure Operands where
  ops : List (Option Signal)
  inv : Nat
  deriving DecidableEq, Repr

def Operands.get (o : Operands) (i : Nat) : Option Signal := (o.ops[i]?).getD none

/-- The truth of operand i (R345), inverted by its INV flag (R347); an unused operand is false. -/
def Operands.truth (o : Operands) (i : Nat) : Bool :=
  match o.get i with
  | some x => Machine.truth x.1 != (decide (i < 3) && o.inv.testBit i)
  | none => false

/-- The value of operand i; an unused one is 0. -/
def Operands.value (o : Operands) (i : Nat) : F32 := ((o.get i).map (·.1)).getD F32.zero

/-- Used operands among some positions. -/
def Operands.used (o : Operands) (is : List Nat) : List Signal := is.filterMap o.get

/-- Truths of the used operands. -/
def Operands.truths (o : Operands) : List Bool := ((List.range 9).filter (fun i => (o.get i).isSome)).map o.truth

/-- The quality that a block's output takes from operands (R346). -/
def Operands.quality (o : Operands) (is : List Nat) (overrange : Bool) : Quality :=
  qMake true (qUnion ((o.used is).map (·.2)) ||| qIf overrange qOVERRANGE)

/-- PARAM in µs for a timer's preset. -/
def presetUs (b : Block) : Rat := b.param.toRat * 1000

/-- A timer's elapsed time after a period (R350). -/
def age (e period : Nat) : Nat := min 4294967295 (e + period)

/-- Sum of F32 by repeated addition, and the like. -/
def foldArith (f : F32 → F32 → F32) (l : List Signal) : F32 × Bool :=
  match l with
  | [] => (F32.zero, false)
  | x :: rest => (rest.map (·.1)).foldl (satOp f) (saturate x.1)

/-- The smaller or larger of two values; NaN with either is NaN. -/
def pick (largest : Bool) (a b : F32) : F32 :=
  if a.isNaN then a else if b.isNaN then b else if a.lt b == largest then b else a

/-- A comparison of CMP by MODE (R348). -/
def compare32 (mode : Nat) (a b : F32) : Bool :=
  match mode with
  | 0 => b.lt a
  | 1 => b.le a
  | 2 => a.lt b
  | 3 => a.le b
  | 4 => a.eq b
  | _ => !a.eq b

/-- The output value of RATELIM: p moved towards A by at most PARAM × PERIOD. -/
def rateLimit (p a rate : F32) (period : Nat) (fresh : Bool) : F32 :=
  if fresh ∨ p.isNaN ∨ a.isNaN then a
  else
    let lim := rate.mul (F32.ofRat (mkRat period 1000000))
    let d := a.sub p
    if d.abs.le lim then a else if d.lt F32.zero then p.sub lim else p.add lim

/-- One block's evaluation (R345–R350): its output, and the state it keeps. -/
def evalBlock (b : Block) (o : Operands) (st : BlockState) (snap : Snapshot) (period : Nat) : Signal × BlockState :=
  let a := o.truth 0
  let bb := o.truth 1
  let c := o.truth 2
  let p := truth st.prev
  let va := o.value 0
  let all := List.range 9
  let bool := fun (v : Bool) (is : List Nat) => (f32OfBool v, o.quality is false)
  let arith := fun (r : F32 × Bool) (is : List Nat) => (r.1, o.quality is r.2)
  let prevA := if st.fresh then a else st.prevA
  let prevB := if st.fresh then bb else st.prevB
  let done := fun (x : Signal) (st' : BlockState) =>
    (x, { st' with prev := x.1, prevQuality := x.2, prevA := a, prevB := bb, fresh := false })
  match b.type with
  | 0x01 => done (bool (o.truths.all id) all) st
  | 0x02 => done (bool (o.truths.any id) all) st
  | 0x03 => done (bool ((o.truths.filter id).length % 2 == 1) all) st
  | 0x04 => done (bool (!a) [0]) st
  | 0x05 => done (bool (a || (p && !bb)) [0, 1]) st
  | 0x06 => done (bool (!bb && (a || p)) [0, 1]) st
  | 0x07 => done (bool (a && !prevA) [0]) st
  | 0x08 => done (bool (!a && prevA) [0]) st
  | 0x09 =>
    let e := if a then (if st.prevA then age st.elapsed period else 0) else 0
    done (bool (a && decide (presetUs b ≤ (e : Rat))) [0]) { st with elapsed := e }
  | 0x0A =>
    if a then done (bool true [0]) { st with elapsed := 0 }
    else
      let e := if p then age st.elapsed period else st.elapsed
      done (bool (p && decide ((e : Rat) < presetUs b)) [0]) { st with elapsed := e }
  | 0x0B =>
    let s1 : Bool × Nat := if a && !st.prevA && !st.running then (true, 0)
      else if st.running then (true, age st.elapsed period) else (false, st.elapsed)
    let run := s1.1 && decide ((s1.2 : Rat) < presetUs b)
    done (bool run [0]) { st with running := run, elapsed := s1.2 }
  | 0x0C =>
    let n : Int := st.count + (if a && !prevA then 1 else 0) - (if bb && !prevB then 1 else 0)
    let n' := if c then 0 else clampI (-16777216) 16777216 n
    done (F32.ofInt n', o.quality [0, 1, 2] false) { st with count := n' }
  | 0x0D =>
    let rhs := match o.get 1 with
      | some x => x.1
      | none => b.param
    done (bool (compare32 b.mode va rhs) [0, 1]) st
  | 0x0E =>
    let inside := (o.value 1).le va && va.le (o.value 2)
    let outside := va.lt (o.value 1) || (o.value 2).lt va
    done (bool (if b.mode = 0 then inside else outside) [0, 1, 2]) st
  | 0x0F => done (arith (foldArith F32.add (o.used all)) all) st
  | 0x10 => done (arith (saturate (va.sub (o.value 1))) [0, 1]) st
  | 0x11 => done (arith (foldArith F32.mul (o.used all)) all) st
  | 0x12 => done (arith (satOp F32.add (saturate (va.mul b.param)) (o.value 1)) [0, 1]) st
  | 0x13 =>
    let i := if c then 1 else 0
    done (o.value i, o.quality [i, 2] false) st
  | 0x14 =>
    let l := o.used all
    let v := match l with
      | [] => F32.zero
      | x :: rest => (rest.map (·.1)).foldl (pick (b.mode = 1)) x.1
    done (v, o.quality all false) st
  | 0x15 =>
    let v := if (o.value 1).le va then true else if va.le (o.value 2) then false else p
    done (bool v [0, 1, 2]) st
  | 0x16 => done (arith (saturate (rateLimit st.prev va b.param period st.fresh)) [0]) st
  | 0x17 =>
    let q := ((o.get 0).map (·.2)).getD 0#16
    let hit := q &&& BitVec.ofNat 16 b.param.toRat.floor.toNat != 0#16
    done (f32OfBool (if b.mode = 0 then hit else !hit), 1#16) st
  | 0x18 =>
    let n := b.ref 0 % 4096
    done (f32OfBool (match b.mode with
      | 0 => snap.alarms.testBit n
      | 1 => snap.rose.testBit n
      | _ => snap.fell.testBit n), 1#16) st
  | _ => done (match o.get 0 with
      | some x => x
      | none => (F32.zero, 1#16)) st

/-- What an evaluation reads: the image's constants, the snapshot, the blocks' states before it and the outputs so far. -/
structure EvalEnv where
  consts : List F32
  snap : Snapshot
  old : List (Nat × BlockState)
  outs : List (Nat × Signal)
  new : List (Nat × BlockState)
  deriving DecidableEq, Repr

/-- The signal of an operand reference (R342–R344); none when it is unused. -/
def EvalEnv.signal (e : EvalEnv) (r : Nat) : Option Signal :=
  if r.testBit 12 then none
  else
    let i := r % 4096
    match r / 16384 with
    | 0 => (match lookup i e.outs with
      | some x => some (signalOf x.1 x.2)
      | none => let st := (lookup i e.old).getD BlockState.reset
                some (signalOf st.prev st.prevQuality))
    | 1 =>
      let x := vectorEntry e.snap.watch i
      let q := if e.snap.watchStale then qMake false (qSet x.quality qSTALE) else x.quality
      some (signalOf x.value q)
    | 2 =>
      if i ≤ 0xFF then some (f32OfBool (e.snap.alarms.testBit i), 1#16)
      else (match lookup i e.snap.inputs with
        | some x => some (signalOf x.1 x.2)
        | none => some (absentValue, qMake false (qSet 0#16 qABSENT)))
    | _ => some (nth e.consts i F32.zero, 1#16)

/-- One block of an evaluation. -/
def EvalEnv.step (period : Nat) (e : EvalEnv) (b : Block) : EvalEnv :=
  let o : Operands := ⟨b.refs.map e.signal, if b.type ≤ 0x0C then b.flags / 2 % 8 else 0⟩
  let r := evalBlock b o ((lookup b.pos e.old).getD BlockState.reset) e.snap period
  { e with outs := (b.pos, r.1) :: e.outs, new := e.new ++ [(b.pos, r.2)] }

/-- The block states after an evaluation of an image (R338). -/
def evaluateImage (img : List Byte) (snap : Snapshot) (old : List (Nat × BlockState)) : List (Nat × BlockState) :=
  ((imgBlockList img).foldl (EvalEnv.step (imgPeriodUs img)) ⟨imgConstants img, snap, old, [], []⟩).new

namespace State

/-! ## The cycle (R335–R341) -/

/-- The active image. -/
def image (s : State) : List Byte := nth s.orr.banks (s.num 0x7000 0x03) []

/-- The period in ET units. -/
def periodEt (s : State) : Nat := s.num 0x7000 0x05 * us

/-- c_m of the present cycle (R335). -/
def cycleStart (s : State) : Et := s.orr.base + s.orr.m * s.periodEt

/-- The first multiple of 125 µs of ET at or after a time. -/
def next125 (t : Et) : Et := (t + 125 * us - 1) / (125 * us) * (125 * us)

/-- A value of bank 2 beyond the alarms (R343). -/
def deviceInput (s : State) (i : Nat) : F32 × Quality :=
  if i ≤ 0x117 then (f32OfBool (s.flag (0x7120 + (i - 0x100)) 0x08), BitVec.ofNat 16 (s.num (0x7120 + (i - 0x100)) 0x09))
  else if i ≤ 0x12F then (f32OfBool (s.num (0x7100 + (i - 0x120)) 0x07 % 4 == 0), 1#16)
  else if i = 0x140 then (f32OfBool s.orr.firstCycle, 1#16)
  else if i = 0x141 then (f32OfBool s.acting, 1#16)
  else if i = 0x142 then (f32OfBool s.locked, 1#16)
  else if i ≤ 0x27F then
    let e := decodeEntry (s.elem (0x8000 + (i - 0x200) / 16) 0x0A ((i - 0x200) % 16))
    (e.value, e.quality)
  else
    let e := decodeEntry (s.elem 0x5906 0x01 (i - 0x400))
    (e.value, e.quality)

/-- The device inputs that an image's references name. -/
def inputsOf (img : List Byte) : List Nat :=
  (((imgBlockList img).flatMap (fun b => b.refs.filterMap (fun r =>
    if r.testBit 12 || r / 16384 != 2 || r % 4096 ≤ 0xFF then none else some (r % 4096)))).dedup).insertionSort (· ≤ ·)

/-- Bank 1 is STALE (R344). -/
def watchStale (s : State) : Bool :=
  !s.tr.running || (match s.tr.releaseTick with
    | none => true
    | some t => decide ((s.c 0x5000 0x02 * s.c 0x5000 0x01 + 2000) * tickMs < (s.raw - t) * s.c 0x5000 0x01))

/-- The snapshot (R337, R341). -/
def takeSnapshot (s : State) (img : List Byte) : Snapshot :=
  ⟨s.tr.latest, s.watchStale, s.alr.state, s.orr.rose, s.orr.fell, (inputsOf img).map (fun i => (i, s.deviceInput i))⟩

/-- The objects that show the active image (R365). -/
def showImage (s : State) : State :=
  let i := s.image
  (((s.setN 0x7000 0x04 (imgId i)).setN 0x7000 0x05 (imgPeriodUs i)).setN 0x7000 0x06 (imgOffset i)).setN 0x7000 0x07 (imgBlocks i)

/-- The idle bank takes an image. -/
def loadIdle (s : State) (img : List Byte) : State :=
  s.modOrr (fun o => { o with banks := setNth o.banks (1 - s.num 0x7000 0x03) img })

/-- The state that a block of a new image takes (R354); none when it is reset. -/
def carried (oldImg : List Byte) (old : List (Nat × BlockState)) (b : Block) : Option BlockState :=
  if b.tag = 0 then none
  else
    match (imgBlockList oldImg).find? (fun x => x.tag = b.tag && x.type = b.type) with
    | some x => some ((lookup x.pos old).getD BlockState.reset)
    | none => none

/-- The bank switch of an online change (R353, R354), at the snapshot of the switching cycle. -/
def switchImage (s : State) : State :=
  let old := s.image
  let c := s.cycleStart
  let t := s.setN 0x7000 0x03 (1 - s.num 0x7000 0x03)
  let new := t.image
  let kept := (imgBlockList new).filterMap (fun b => (carried old s.orr.blocks b).map (fun st => (b.pos, st)))
  let u := t.showImage.modOrr (fun o => { o with blocks := kept, switchDue := false, switched := true })
  let v := if imgPeriodUs old = imgPeriodUs new then u else u.modOrr (fun o => { o with base := c, m := 0 })
  ((((v.setN 0x7000 0x0F kept.length).setN 0x7000 0x10 ((imgBlockList new).length - kept.length)).setN 0x7000 0x11
    ((imgBlockList old).length - kept.length)).inc32 0x7000 0x0D).setN 0x7000 0x0E c

/-- A standby adopts the mirrored block state of the cycle before (R476). -/
def adoptBlocks (s : State) : State :=
  if !s.isPair ∨ s.acting then s
  else
    match s.orr.stateIn with
    | some (cyc, bs) =>
      let t := s.modOrr (fun o => { o with
        stateIn := none
        blocks := (imgBlockList s.image).map (fun b =>
          (b.pos, match bs.find? (fun x => x.1 = b.tag && x.2.1 = b.type && b.tag != 0) with
            | some x => x.2.2
            | none => (lookup b.pos o.blocks).getD BlockState.reset)) })
      if cyc + 1 = s.orr.m then t else t.inc32 0xC000 0x0F
    | none => if s.orr.imageNow.isSome ∧ s.num 0xC000 0x09 = 3 then s.inc32 0xC000 0x0F else s

/-- The safe case of R487: every block reset at the first cycle start after the claim. -/
def safeReset (s : State) : State :=
  match s.orr.safeUntil with
  | some u => if s.orr.m + 2 = u then s.modOrr (fun o => { o with blocks := [] }) else s
  | none => s

/-- ORRERY_SNAPSHOT (R337, R353): at a cycle's start. -/
def orrerySnapshot (s : State) : State :=
  if s.num 0x7000 0x02 ≠ 2 ∨ s.orr.phase ≠ .idle ∨ s.et < s.cycleStart then s
  else
    let t := (if s.orr.switchDue then s.switchImage else s).adoptBlocks.safeReset
    t.modOrr (fun o => { o with snap := t.takeSnapshot t.image, rose := 0, fell := 0, phase := .evaluating })

/-- A block's signal after the last evaluation. -/
def blockSignal (s : State) (pos : Nat) : Signal :=
  let st := (lookup pos s.orr.blocks).getD BlockState.reset
  (st.prev, st.prevQuality)

/-- The OUTPUT blocks of the active image with their targets. -/
def outputBlocks (s : State) : List (Nat × Block) :=
  (imgBlockList s.image).filterMap (fun b => if b.type = 0x19 then b.target.map (fun t => (t, b)) else none)

/-- The 256 published signals after an evaluation (R349). -/
def publishedNow (s : State) : List Entry :=
  let outs := s.outputBlocks
  (List.range 256).map (fun i =>
    match outs.find? (fun x => x.1 = 256 + i) with
    | some x => ⟨(s.blockSignal x.2.pos).1, (s.blockSignal x.2.pos).2, 0⟩
    | none => absentPoint)

/-- What an OUTPUT block gives BOn: its truth, and SAFE_VALUE by MODE 1 (R348, R358). -/
def boTarget (s : State) (outs : List (Nat × Block)) (n : Nat) : Bool × Bool :=
  match outs.find? (fun x => x.1 = n) with
  | some x =>
    let v := s.blockSignal x.2.pos
    (truth v.1, x.2.mode == 1 && !qValid v.2)
  | none => (false, false)

/-- The output image of the evaluated cycle (R475, R488). -/
def outputImage (s : State) (special : Bool) : OutputImage :=
  let outs := s.outputBlocks
  ⟨(List.range 16).map (fun n =>
      let t := s.boTarget outs n
      s.cB (0x7100 + n) 0x01 && (if t.2 then s.c (0x7100 + n) 0x02 == 1 else t.1)),
   s.publishedNow, s.orr.m, s.orr.base, s.num 0x7000 0x04, s.flag 0xC000 0x08, special || s.flag 0xC000 0x08⟩

/-- ORRERY_EVALUATION_END (R338). -/
def orreryEvaluated (s : State) : State :=
  if s.num 0x7000 0x02 ≠ 2 ∨ s.orr.phase ≠ .evaluating then s
  else
    let img := s.image
    let spent := (s.et - s.cycleStart) / ns
    let t := s.modOrr (fun o => { o with blocks := evaluateImage img o.snap o.blocks, phase := .evaluated, firstCycle := false })
    let u := (((t.inc64 0x7000 0x08).setN 0x7000 0x0A (min spent 4294967295)).setMax 0x7000 0x0B (min spent 4294967295)).perf 0 0x23
      (imgBlocks img)
    u.mirrorOut (.mirrorImage (u.outputImage false))

/-- BLOCK_OUTPUTS at an output write (R365): each block's output at its position, and ABSENT at every other. -/
def writeOutputs (s : State) : State :=
  let blocks := imgBlockList s.image
  let k := okey 0x7003 0x01 0
  let cleared : State := { s with obj := s.obj.filter (fun e => decide (e.1 < k) || decide (k + 65536 ≤ e.1)) }
  blocks.foldl (fun (t : State) b =>
    t.setElem 0x7003 0x01 b.pos (encodeEntry ⟨(s.blockSignal b.pos).1, (s.blockSignal b.pos).2, 0⟩)) cleared

/-- Every published signal ABSENT, for an overrun (R355). -/
def absentPublished (s : State) : State :=
  (List.range 256).foldl (fun t i => t.setElem 0x7003 0x02 i (encodeEntry absentPoint)) s

/-- The Orrery stops on an overrun (R355). -/
def overrun (s : State) : State :=
  (((s.absentPublished.setN 0x7000 0x02 3).inc32 0x7000 0x0C).modOrr (fun o => { o with phase := .idle })).raiseEvent 80
    (s.num 0x7000 0x04)

/-- BOn as the acting unit's own output write gives it (R339, R358); a retry ends when the output goes off. -/
def writeBo (s : State) (safeAll : Bool) (outs : List (Nat × Block)) (n : Nat) : State :=
  let t := s.boTarget outs n
  let u := s.modBo n (fun b => { b with on := t.1, safe := t.2 || safeAll })
  if u.boCommand n then u else u.modBo n (fun b => { b with retryTick := none })

/-- BOs of a standby at its output write (R478): the last mirrored image, or SAFE_VALUE before the first. -/
def standbyBos (s : State) : State :=
  let take_ : Bool := match s.orr.imageIn with
    | some im => decide (im.cycle ≤ s.orr.m)
    | none => false
  let t := if take_ then s.modOrr (fun o => { o with imageNow := o.imageIn, imageIn := none }) else s
  (List.range 16).foldl (fun u n => u.modBo n (fun b => match t.orr.imageNow with
    | some im => { b with on := nth im.bos n false, safe := false }
    | none => { b with safe := true })) t

/-- After an offset step the next cycle starts at the first multiple of 125 µs of the new ET (R340); skipped cycles count. -/
def realignCycle (s : State) : State :=
  let next := s.cycleStart
  let new := next125 s.et
  let skipped := if s.periodEt = 0 then 0 else (new - next + s.periodEt - 1) / s.periodEt
  (s.add 32 0x7000 0x09 skipped).modOrr (fun o => { o with base := new, m := 0, realign := false })

/-- ORRERY_OUTPUT_WRITE (R339): at c_m + OUTPUT_OFFSET. -/
def orreryWrite (s : State) : State :=
  if s.num 0x7000 0x02 ≠ 2 ∨ s.orr.phase = .idle ∨ s.et < s.cycleStart + s.num 0x7000 0x06 * us then s
  else if s.orr.phase = .evaluating then s.overrun
  else
    let outs := s.outputBlocks
    let pub := s.publishedNow
    let t2 := (pub.zip (List.range 256)).foldl (fun t x => t.setElem 0x7003 0x02 x.2 (encodeEntry x.1)) s.writeOutputs
    let guarded : Bool := match s.orr.safeUntil with
      | some u => decide (s.orr.m < u)
      | none => false
    let t3 := if s.isPair ∧ !s.acting then t2.standbyBos else (List.range 16).foldl (fun t n => t.writeBo guarded outs n) t2
    let t4 := t3.mirrorOut (.mirrorBlocks s.orr.m ((imgBlockList s.image).filterMap (fun b =>
      if b.tag = 0 then none else (lookup b.pos s.orr.blocks).map (fun st => (b.tag, b.type, st)))))
    let t5 := t4.modOrr (fun o => { o with
      written := true, writeTick := s.raw, phase := .idle, m := o.m + 1, switched := false
      safeUntil := if guarded then o.safeUntil else none })
    let t6 := if s.orr.switched then t5.raiseEvent 81 (s.num 0x7000 0x04) else t5
    let t7 := t6.modPar (fun p => { p with notes := { p.notes with wrote := true } })
    if t7.orr.realign then t7.realignCycle else t7

/-- An applied offset step (R340): the cycle in progress keeps its place on the raw counter and the next one is realigned. -/
def stepOrrery (s : State) (amount : Int) : State :=
  if s.num 0x7000 0x02 ≠ 2 then s
  else if s.orr.phase = .idle then s.realignCycle
  else s.modOrr (fun o => { o with base := etShift o.base amount, realign := true })

/-- Every BO at SAFE_VALUE until the next output write. -/
def safeBos (s : State) : State := { s with bos := s.bos.map (fun b => { b with safe := true }) }

/-- The Orrery waits for its start with every block reset (R336, R356). -/
def orreryWait (s : State) : State :=
  ((s.setN 0x7000 0x02 1).modOrr (fun o => { o with
    starting := true, phase := .idle, blocks := [], switchDue := false, switched := false, realign := false, firstCycle := true })).safeBos

/-- The Orrery is off: ENABLE 0, or QUIET (R36). -/
def orreryOff (s : State) : State :=
  (s.setN 0x7000 0x02 0).modOrr (fun o => { o with
    starting := false, phase := .idle, blocks := [], switchDue := false, switched := false, realign := false })

/-- ORRERY_START (R336): once transits have been reached, base is the first multiple of 125 µs at least 1 ms ahead. -/
def orreryStart (s : State) : State :=
  if s.num 0x7000 0x02 ≠ 1 ∨ !s.orr.starting ∨ !s.inRunning ∨ s.power ≠ 0 then s
  else
    (s.showImage.setN 0x7000 0x02 2).modOrr (fun o => { o with
      starting := false, base := next125 (s.et + ms), m := 0, rose := 0, fell := 0 })

/-- REENABLE_CMD (R356). -/
def reenable (s : State) : State :=
  if s.num 0x7000 0x02 = 3 then (s.quickCmd 0x7002 0 []).orreryWait else s.quickCmd 0x7002 3 []

/-! ## Binary outputs (R359–R361) -/

/-- FAULTS of BOn with one bit written. -/
def boFault (s : State) (n bit : Nat) (b : Bool) : State :=
  s.setN (0x7100 + n) 0x07 (bitTo (s.num (0x7100 + n) 0x07) bit b)

/-- A rise of a condition of BOn (kind 0 short, 1 open): one occurrence where SUPERVISION asks for it. -/
def boRise (s : State) (n kind : Nat) : State :=
  if !(s.c (0x7100 + n) 0x03).testBit kind then s
  else
    match s.occurs (qkey 3 n kind) (s.c (0x7100 + n) 0x04) (s.c (0x7100 + n) 0x05) with
    | (t, .became) => (t.boFault n (4 + kind) true).raiseEvent 82 (n + 256 * kind)
    | (t, .transient) | (t, .already) => t.inc32 (0x7100 + n) 0x08

/-- BO_SHORT_DETECT (R359): a driver that is on turns off. -/
def boShort (s : State) (n : Nat) : State :=
  if s.bosFloat ∨ !s.boCommand n ∨ s.shortOff n then s
  else
    let t := s.modBo n (fun b => { b with offTick := some s.raw, retryTick := none })
    if (s.num (0x7100 + n) 0x07).testBit 0 then t else (t.boFault n 0 true).boRise n 0

/-- BO_SHORT_RETRY (R359): once an output write has taken place at least 100 ms after the turn-off. -/
def boRetry (s : State) (n : Nat) : State :=
  match (s.bo n).offTick with
  | some t =>
    if s.shortOff n ∧ t + 100 * tickMs ≤ s.orr.writeTick ∧ s.boCommand n ∧ !(s.num (0x7100 + n) 0x07).testBit 4 ∧ !s.bosFloat then
      s.modBo n (fun b => { b with retryTick := some s.raw })
    else s
  | none => s

/-- BO_SHORT_RETRY_HOLD (R359): a retry that has held for 100 ms ends the condition. -/
def boHold (s : State) (n : Nat) : State :=
  match (s.bo n).retryTick with
  | some t =>
    if t + 100 * tickMs ≤ s.raw ∧ s.boCommand n then
      (s.modBo n (fun b => { b with offTick := none, retryTick := none })).boFault n 0 false
    else s
  | none => s

/-- BO_LOAD_SENSE (R360): in a pair, off-state samples count neither way (R553). -/
def boSense (s : State) (n : Nat) (load : Bool) : State :=
  if !s.cB (0x7100 + n) 0x01 ∨ s.bosFloat ∨ (s.isPair ∧ !s.boOn n (s.boState n)) then s
  else
    let t := s.modBo n (fun b => { b with
      noLoad := if load then 0 else min 2 (b.noLoad + 1), load := if load then min 2 (b.load + 1) else 0 })
    let present := (s.num (0x7100 + n) 0x07).testBit 1
    if !present ∧ (t.bo n).noLoad = 2 then (t.boFault n 1 true).boRise n 1
    else if present ∧ (t.bo n).load = 2 then t.boFault n 1 false
    else t

/-- SUP_CLEAR of BOn (R361, R523). -/
def clearBo (s : State) (n : Nat) : State :=
  ((((s.clearQualifier (qkey 3 n 0)).clearQualifier (qkey 3 n 1)).boFault n 4 false).boFault n 5 false)

/-! ## Binary inputs (R362–R364, R550) -/

/-- The lower limit in mV of the bands by voltage: CONTACT places 0–4 are bands 4, 0, 1, 2, 3 (R550). -/
def bandLimits : List Int := [-150, 150, 650, 1650]

/-- The place of a voltage among the bands, with 20 mV of hysteresis about each limit for the present place. -/
def bandPlace (v : Int) (now : Option Nat) : Nat :=
  let h := fun (i : Nat) (limit : Int) => match now with
    | some p => if p ≤ i then limit + 20 else limit - 20
    | none => limit
  ((bandLimits.zip (List.range 4)).filter (fun x => decide (h x.2 x.1 ≤ v))).length

/-- A band as a place, and back. -/
def bandOf (place : Nat) : Nat := if place = 0 then 4 else place - 1
def placeOf (band : Nat) : Nat := if band = 4 then 0 else band + 1

/-- The band of a sample (R362): with SUPERVISED = 0 only bands 1 and 2. -/
def bandOfSample (supervised : Bool) (v : Int) (now : Nat) : Nat :=
  if supervised then bandOf (bandPlace v (if now ≤ 4 then some (placeOf now) else none))
  else
    let limit : Int := if now = 2 then 630 else if now = 1 then 670 else 650
    if limit ≤ v then 2 else 1

def bi (s : State) (n : Nat) : BiRun := nth s.bis n ⟨0xFF, 0, 0, 0⟩

/-- Which wiring fault a band is (R364): open wire 0, short 1, reversed 2. -/
def wiringKind (band : Nat) : Option Nat :=
  if band = 0 then some 0 else if band = 3 then some 1 else if band = 4 then some 2 else none

/-- QUALITY of a contact state from the accepted band and the LASTING bits (R363, R364). -/
def biQuality (s : State) (n : Nat) : State :=
  let band := s.num (0x7120 + n) 0x07
  let old := BitVec.ofNat 16 (s.num (0x7120 + n) 0x09)
  let err := (wiringKind band).isSome || decide (16 ≤ s.num (0x7120 + n) 0x0C)
  let absent : Bool := if (wiringKind band).isSome then qBit old qABSENT else band == 0xFF
  s.setN (0x7120 + n) 0x09 (qMake true (qIf err qSOURCE_ERROR ||| qIf absent qABSENT)).toNat

/-- One acceptance of a fault band (R364). -/
def biWiring (s : State) (n kind : Nat) : State :=
  match s.occurs (qkey 4 n kind) (s.c (0x7120 + n) 0x05) (s.c (0x7120 + n) 0x06) with
  | (t, .became) =>
    (t.setN (0x7120 + n) 0x0C (bitTo (t.num (0x7120 + n) 0x0C) (4 + kind) true)).raiseEvent 83 (n + 256 * kind)
  | (t, .transient) | (t, .already) => t.inc32 (0x7120 + n) 0x0D

/-- A debounced band is accepted (R363). -/
def acceptBand (s : State) (n band : Nat) (since : Et) : State :=
  let i := 0x7120 + n
  let t := (((s.setN i 0x07 band).setN i 0x0A since).inc32 i 0x0B).modBi n (fun _ => ⟨0xFF, 0, 0, 0⟩)
  let u := match wiringKind band with
    | some k => (t.setN i 0x0C (t.num i 0x0C / 16 * 16 + 2 ^ k)).biWiring n k
    | none => (t.setN i 0x0C (t.num i 0x0C / 16 * 16)).setN i 0x08 (bit01 ((band == 2) != s.cB i 0x03))
  u.biQuality n

/-- A sample of BIn (R362, R363); the answer tells the band accepted before, when this sample accepts one. -/
def biSample (s : State) (n : Nat) (mv : Int) : State × Option Nat :=
  let i := 0x7120 + n
  if !s.cB i 0x01 ∨ s.power ≠ 0 ∨ s.boot.inReset ∨ s.stage < 5 ∨ s.stage = 15 then (s, none)
  else
    let now := s.num i 0x07
    let x := s.bi n
    let band := bandOfSample (s.cB i 0x02) mv (if x.samples = 0 then now else x.band)
    if band = now then (s.modBi n (fun _ => ⟨0xFF, 0, 0, 0⟩), none)
    else
      let y : BiRun := if x.samples ≠ 0 ∧ x.band = band then { x with samples := x.samples + 1 } else ⟨band, s.et, s.raw, 1⟩
      if 2 ≤ y.samples ∧ y.firstTick + s.c i 0x04 * tickMs ≤ s.raw then (s.acceptBand n band y.firstEt, some now)
      else (s.modBi n (fun _ => y), none)

/-- BIn is put in use or out of use: no band is accepted any more, and the input is ABSENT until one is (R363). -/
def freshBi (s : State) (n : Nat) : State :=
  (((s.modBi n (fun _ => ⟨0xFF, 0, 0, 0⟩)).setN (0x7120 + n) 0x07 0xFF).setN (0x7120 + n) 0x0C (s.num (0x7120 + n) 0x0C / 16 * 16)).biQuality n

/-- SUP_CLEAR of BIn (R364, R523). -/
def clearBi (s : State) (n : Nat) : State :=
  let t := [0, 1, 2].foldl (fun u k => u.clearQualifier (qkey 4 n k)) s
  (t.setN (0x7120 + n) 0x0C (t.num (0x7120 + n) 0x0C % 16)).biQuality n

end State

/-- ORRERY_SNAPSHOT (R337). -/
def execOrrerySnapshot (s : State) : Host.Outcome State Fault Refusal := complete s State.orrerySnapshot

/-- ORRERY_EVALUATION_END (R338). -/
def execOrreryEvaluationEnd (s : State) : Host.Outcome State Fault Refusal := complete s State.orreryEvaluated

/-- ORRERY_START (R336). -/
def execOrreryStart (s : State) : Host.Outcome State Fault Refusal := complete s State.orreryStart

/-- BO_SHORT_DETECT (R359). -/
def execBoShortDetect (out : Fin 16) (s : State) : Host.Outcome State Fault Refusal := complete s (fun s => s.boShort out.val)

/-- BO_SHORT_RETRY (R359). -/
def execBoShortRetry (out : Fin 16) (s : State) : Host.Outcome State Fault Refusal := complete s (fun s => s.boRetry out.val)

/-- BO_SHORT_RETRY_HOLD (R359). -/
def execBoShortRetryHold (out : Fin 16) (s : State) : Host.Outcome State Fault Refusal := complete s (fun s => s.boHold out.val)

/-- BO_LOAD_SENSE (R360). -/
def execBoLoadSense (out : Fin 16) (load : Bool) (s : State) : Host.Outcome State Fault Refusal :=
  complete s (fun s => s.boSense out.val load)

end Sys2Proof.Machine
end

