-- ==== Sys2Proof/Machine/Restart.lean ====
section
/-! DEFINITION. What ends sessions (R71), takes the claim away (R470, R493), enters the stages of the start sequence (R497, R498),
resets and restarts the unit (R91, R443, R495, R498), and wakes it from QUIET (R37). -/

namespace Sys2Proof.Machine

namespace State

/-! ## Sessions (R71, R74, R506) -/

/-- The session that owns staging; 0 for none. -/
def stageOwner (s : State) : Nat := s.num 0x1200 0x02

/-- The staged configuration equals the committed one, and ownership ends (R72, R76). -/
def unstage (s : State) : State := ({ s with staged := s.cfg }).setN 0x1200 0x02 0

/-- A session closes: its subscriptions end, staging it owns is discarded unless a commit is BUSY, and so ends its ownership of
firmware banks; what was built for it is gone. -/
def closeSession (s : State) (id : Nat) : State :=
  let s1 := (s.modAlm (fun a => { a with
    sessions := a.sessions.filter (fun (x : Session) => x.id != id)
    subs := a.subs.filter (fun (x : Subscription) => x.session != id) })).modEv (fun e => { e with
    blocks := e.blocks.filter (fun (b : LogBlock) => b.session != id) })
  let s2 := s1.modRec (fun r => { r with chunks := r.chunks.filter (fun (c : ExportChunk) => c.session != id) })
  let s3 := if s2.stageOwner = id ∧ s2.resultState 0x1201 ≠ 1 then s2.unstage else s2
  [0xD010, 0xD011, 0xD012].foldl (fun (t : State) i => if t.num i 0x09 = id then t.setN i 0x09 0 else t) s3

/-- Every session closes. -/
def closeSessions (s : State) : State := (s.alm.sessions.map (·.id)).foldl closeSession s

/-- Every volatile key is zeroised: the root, the loaded slots and the session keys, with every session (R443, R444, R463). PDUs that
wait for the host can no longer be sealed. -/
def zeroise (s : State) : State :=
  ((s.closeSessions.modKeys (fun k => { k with root := none, loaded := [] })).modAlm (fun a => { a with hspiTx := [], udpTx := [] }))

/-! ## Acting (R470, R493) -/

def unitId (s : State) : Nat := s.num 0xC000 0x02

/-- A pair unit stops acting (R470): it raises PAIR_STANDBY, and its own last image stands in for the mirror until the next one. A unit
with PAIR_MODE = 0 acts whenever it runs. -/
def stopActing (s : State) : State :=
  if !s.acting ∨ !s.isPair then s
  else
    let t := s.setN 0xC000 0x05 0
    (t.modOrr (fun o => { o with imageNow := some (s.outputImage false), imageIn := none })).raiseEvent 105 s.unitId

/-- The claim is released. -/
def releaseClaim (s : State) : State := (s.modPar (fun p => { p with claim := false })).stopActing

/-! ## Stages (R497, R498) -/

/-- Entry to a stage: BOOT_STAGE and STAGE_LOG. -/
def enterStage (s : State) (n : Nat) : State :=
  ((s.setN 0xD000 0x01 n).setElem 0xD000 0x02 n (etBytes s.et)).modBoot (fun b => { b with stageTick := s.raw })

/-- Entry to recovery mode (R510). -/
def enterRecoveryMode (s : State) (cause : Nat) : State := (s.enterStage 15).setN 0xD000 0x05 cause

/-! ## Reset (R443, R495, R498) -/

/-- Registers that keep their content through a reset: counts since manufacture, the bank registers, the straps and what PD0 holds. -/
def keptKeys : List Nat :=
  [okey 0x1200 0x04 0, okey 0x1401 0x01 0, okey 0xC000 0x02 0, okey 0xC000 0x03 0, okey 0xC000 0x13 0, okey 0xD000 0x04 0] ++
  [okey 0xB100 0x0B 0, okey 0xB100 0x0C 0, okey 0xB100 0x0D 0, okey 0xB100 0x0E 0] ++
  [okey 0xF130 0x03 0, okey 0xF131 0x03 0, okey 0xF132 0x03 0, okey 0xF133 0x03 0] ++
  [0xD010, 0xD011, 0xD012].flatMap (fun i => [1, 2, 3, 8, 10].map (fun sub => okey i sub 0))

/-- A result RECORD's registers. -/
def resultKeys (result : Nat) : List Nat := [1, 2, 3, 4, 6].map (fun sub => okey result sub 0)

/-- The unit in reset: RESET_N low, or the moment at which the unit restarts itself. Flash, PD0 and the registers of `keys` keep their
content, and so do the pins that others drive. -/
def inResetWith (s : State) (keys : List Nat) : State :=
  let c := s.cutKeyWrite
  { reset with
    pending := c.pending
    wire := c.wire
    dram := c.dram
    flash := c.flash
    obj := keys.foldl (fun (o : Store) k => o.set k (c.obj.get k)) resetObj
    alm := { resetAlm with draws := c.alm.draws }
    keys := { resetKeys with pd0Enable := c.keys.pd0Enable, pd0AonLoss := c.keys.pd0AonLoss, aonLost := c.keys.aonLost }
    boot := { resetBoot with recoverLow := c.boot.recoverLow, cause := c.boot.cause }
    par := { resetPair with peer := c.par.peer, depose := c.par.depose, deposed := c.par.deposed } }

/-- The start sequence begins: the raw counter starts at 0, and stage PUF is entered (R86, R91, R497); a latched DEPOSED raises
UNIT_DEPOSED (R473). -/
def startUp (s : State) (cause : Nat) : State :=
  let t := (((s.modBoot (fun b => { b with inReset := false, cause := cause })).setN 0xD000 0x03 cause).inc32 0xD000 0x04).enterStage 1
  if t.par.deposed then (t.modPar (fun p => { p with deposed := false })).raiseEvent 108 t.unitId else t

/-- The unit restarts as from RESET_N with a START_CAUSE (R498); RESTART_RESULT, FW_RESULT and, when it leaves QUIET so, WAKE_CAUSE can be
read afterwards. -/
def restart (s : State) (cause : Nat) : State :=
  let more := resultKeys 0x1F01 ++ resultKeys 0xD021 ++ (if s.power ≥ 2 then [okey 0xF140 0x04 0] else [])
  (s.inResetWith (keptKeys ++ more)).startUp cause

/-! ## Waking (R33, R37, R444) -/

/-- A wake cause leaves QUIET: the lanes and the analog die are being reloaded. -/
def wake (s : State) (cause : Nat) : State :=
  if s.power ≠ 2 then s
  else (List.range 4).foldl (fun (t : State) n => t.setN (0xF130 + n) 0x01 2) ((s.setN 0xF140 0x01 3).setN 0xF140 0x04 cause)

end State

end Sys2Proof.Machine
end

