-- ==== Sys2Proof/Machine/Tamper.lean ====
section
/-! DEFINITION. Tamper (R461–R464): sources, the latch in PD0 and what it does. -/

namespace Sys2Proof.Machine

/-- A loop voltage is intact between 0.235 V and 1.10 V (R556). -/
def loopIntact (millivolts : Nat) : Bool := decide (235 ≤ millivolts ∧ millivolts ≤ 1100)

namespace State

/-- TAMPER_ENABLE as PD0 holds it (R462). -/
def tamperEnabled (s : State) (bit : Nat) : Bool := s.keys.pd0Enable.testBit bit

/-- RESTRICTED from now on: no slot loaded, the root zeroised, every session closed (R460, R463). -/
def restrict (s : State) : State := (s.abortKey.zeroise.unloadSlots).setN 0xB100 0x01 1

/-- The slots of this start have been loaded: the start sequence has left MAIN. -/
def slotsLoaded (s : State) : Bool := !s.boot.inReset && decide (5 ≤ s.stage)

/-- A latch in QUIET (R37, R463): every volatile key is cleared, and the hub restarts with wake cause 4. -/
def tamperWake (s : State) : State := (s.setN 0xF140 0x04 4).zeroise.restart 6

/-- An enabled source latches (R463): its bit, the count, the first ET since the last clear, the event, and the response of the
moment. While RESTRICTED it only adds its bit; in QUIET it wakes the unit all the same (R37; log entry 96). -/
def latchTamper (s : State) (bit : Nat) : State :=
  let old := s.num 0xB100 0x0B
  let s1 := s.setN 0xB100 0x0B (old ||| 2 ^ bit)
  if s.restricted then (if 2 ≤ s.power then s1.tamperWake else s1)
  else
    let s2 := s1.inc32 0xB100 0x0D
    let s3 := if old = 0 then s2.setN 0xB100 0x0E s2.et else s2
    if 2 ≤ s.power then s3.tamperWake.raiseEvent 96 (old ||| 2 ^ bit)
    else
      let s4 := s3.raiseEvent 96 (old ||| 2 ^ bit)
      if !s4.slotsLoaded then s4 else s4.restrict

/-- TAMPER_LATCH: a source acts only while it is enabled, and the supply monitor not while RESET_N is low (R461, R495). -/
def tamperSource (s : State) (bit : Nat) : State :=
  if !s.tamperEnabled bit ∨ (bit = 4 ∧ s.boot.inReset) ∨ (bit = 8 ∧ !s.keys.pd0AonLoss) ∨ (s.num 0xB100 0x0B).testBit bit then s
  else s.latchTamper bit

/-- A sample of the four loops (R461): a loop is bad on its second bad sample in a row. -/
def tamperLoops (s : State) (millivolts : List Nat) : State :=
  let bad := (List.range 4).map (fun i => !loopIntact (nth millivolts i 500))
  let runs := (List.range 4).map (fun i => if nth bad i false then min 2 (nth s.keys.loopRuns i 0 + 1) else 0)
  let active := bitsOfList (runs.map (fun r => decide (2 ≤ r)))
  let s1 := (s.modKeys (fun k => { k with loopRuns := runs })).setN 0xB100 0x0C (s.num 0xB100 0x0C / 16 * 16 + active)
  (List.range 4).foldl (fun (t : State) i => if active.testBit i then t.tamperSource i else t) s1

/-- TAMPER_CLEAR_CMD (R464): DONE when no enabled source is active, else STATE; accepted only in a recovery session, which a
RESTRICTED unit's are. -/
def tamperClear (s : State) : State :=
  if s.num 0xB100 0x0C &&& s.keys.pd0Enable ≠ 0 then s.quickCmd 0xB103 0x0003 []
  else (s.setN 0xB100 0x0B 0).quickCmd 0xB103 0 []

end State

/-- TAMPER_LOOP_SAMPLE (R461). -/
def execTamperLoopSample (millivolts : List Nat) (s : State) : Host.Outcome State Fault Refusal :=
  complete s (fun s => s.tamperLoops millivolts)

/-- TAMPER_LATCH (R463). -/
def execTamperLatch (source : Fin 9) (s : State) : Host.Outcome State Fault Refusal :=
  complete s (fun s => s.tamperSource source.val)

end Sys2Proof.Machine
end

