-- ==== Sys2Proof/Machine/Health.lean ====
section
/-! DEFINITION. The event controller's acknowledgement (R520), counter snapshots (R526) and the monitors of supply and
temperature (R528). -/

namespace Sys2Proof.Machine

/-- Rail r's nominal value in mV where it has one, and its tamper trips, by 0xF010 subindex − 1 (R538). -/
def railNominal (r : Nat) : Option Nat :=
  match r with
  | 5 => some 1800
  | 6 => some 3300
  | 7 => some 3300
  | 8 => some 1100
  | _ => none

def railTrips (r : Nat) : Option (Nat × Nat) :=
  match r with
  | 0 | 1 | 2 | 3 => some (560, 950)
  | 4 => some (610, 950)
  | 6 => some (2970, 3630)
  | 7 => some (3036, 3564)
  | 8 => some (1012, 1188)
  | _ => none

namespace State

/-! ## Events (R520) -/

/-- A write of ACK: one source's PENDING bit, or all; a pin that is still due is released. -/
def eventAck (s : State) (source : Nat) : State :=
  let p := padTo 16 (s.bytes 0xA800 0x02)
  let p' := if source = 0xFFFF then List.replicate 16 0
    else setNth p (source / 8) (byte (setBit (nth p (source / 8) 0).toNat (source % 8) false))
  let t := s.setBytes 0xA800 0x02 p'
  t.modEv (fun e => { e with irqGap := (List.range 4).map (fun n => if t.irqDue n then some t.raw else none) })

/-- The release of an IRQ pin after an ACK ends, 2 µs after it. -/
def irqRearm (s : State) (pin : Nat) : State :=
  match nth s.ev.irqGap pin none with
  | some t => if t + 2 * tickUs ≤ s.raw then s.modEv (fun e => { e with irqGap := setNth e.irqGap pin none }) else s
  | none => s

/-! ## Counter snapshots (R526, R530) -/

def counterSnapshot (s : State) : State :=
  let t := (List.range 80).foldl (fun (u : State) c => u.setElem 0xE050 0x04 c (beBytes 8 (s.num (0xE000 + c) 0x02))) s
  (t.setN 0xE050 0x03 s.et).inc32 0xE050 0x06

/-- SNAPSHOT_CMD: DATA holds t_s. -/
def snapshotCmd (s : State) : State := s.counterSnapshot.quickCmd 0xE051 0 (etBytes s.et)

/-- SNAP_PERIOD has elapsed. -/
def snapPeriod (s : State) : State :=
  let p := s.c 0xE050 0x02
  if p = 0 ∨ s.raw < s.ev.snapDue then s
  else s.counterSnapshot.modEv (fun e => { e with snapDue := e.snapDue + p * tickMs })

/-! ## Monitors (R528, R531) -/

/-- Subindices of a die's TJ and TJ_MAX. -/
def tjSubs (die : Nat) : Nat × Nat := if die = 5 then (1, 2) else (5, 6)

/-- A die's junction temperature: TEMP_WARNING when it rises to TEMP_WARN, again only after it has fallen 2 °C below. -/
def sampleTj (s : State) (die : Nat) (tj : F32) : State :=
  let i := 0xF000 + die
  let old := s.f32 i (tjSubs die).2
  let top := if nth s.ev.tjFresh die true || old.lt tj then tj else old
  let warn := s.c 0xF010 0x0B
  let hot := nth s.ev.hot die false
  let t := ((s.setF32 i (tjSubs die).1 tj).setF32 i (tjSubs die).2 top).modEv (fun e => { e with tjFresh := setNth e.tjFresh die false })
  if !hot ∧ (F32.ofInt warn).le tj then (t.modEv (fun e => { e with hot := setNth e.hot die true })).raiseEvent 116 die
  else if hot ∧ tj.le (F32.ofInt ((warn : Int) - 2)) then t.modEv (fun e => { e with hot := setNth e.hot die false })
  else t

/-- A rail's reference: its last request, or its nominal value; none before the first request. -/
def railReference (s : State) (r : Nat) : Option Nat :=
  match railNominal r with
  | some v => some v
  | none => if s.num 0xF101 (r + 1) = 0 then none else some (s.num 0xF101 (r + 1))

/-- A rail's voltage in mV: SUPPLY_WARNING when it leaves the tolerance of its reference. -/
def sampleRail (s : State) (r mv : Nat) : State :=
  let t := s.setN 0xF010 (r + 1) mv
  match s.railReference r with
  | none => t
  | some v =>
    let far := decide (s.c 0xF010 0x0A * v < 100 * ((mv : Int) - v).natAbs)
    let u := t.modEv (fun e => { e with railOut := setNth e.railOut r far })
    if far ∧ !nth s.ev.railOut r false then u.raiseEvent 117 (r + 1) else u

/-- A measured rail lies beyond its tamper trips, and a measured Tj outside −45 to +115 °C. -/
def supplyActive (rails : List Nat) : Bool :=
  (List.range 9).any (fun r => match rails[r]?, railTrips r with
    | some mv, some (lo, hi) => decide (mv < lo ∨ hi < mv)
    | _, _ => false)

def heatActive (temperatures : List F32) : Bool :=
  temperatures.any (fun (t : F32) => t.lt (F32.ofInt (-45)) || (F32.ofInt 115).lt t)

/-- MONITOR_SAMPLE: every 10 ms. TAMPER_ACTIVE follows the supply and temperature monitors (R461). -/
def monitorSample (s : State) (temperatures : List F32) (rails : List Nat) : State :=
  if s.boot.inReset then s
  else
    let t := ((temperatures.take 6).zip (List.range 6)).foldl (fun (u : State) (x : F32 × Nat) => u.sampleTj x.2 x.1) s
    let v := ((rails.take 9).zip (List.range 9)).foldl (fun (u : State) (x : Nat × Nat) => u.sampleRail x.2 x.1) t
    v.setN 0xB100 0x0C (setBit (setBit (v.num 0xB100 0x0C) 4 (supplyActive rails)) 6 (heatActive temperatures))

end State

/-- IRQ_REARM (R520). -/
def execIrqRearm (pin : Fin 4) (s : State) : Host.Outcome State Fault Refusal := complete s (fun s => s.irqRearm pin.val)

/-- SNAP_PERIOD_EXPIRY (R526). -/
def execSnapPeriodExpiry (s : State) : Host.Outcome State Fault Refusal := complete s State.snapPeriod

/-- MONITOR_SAMPLE (R528). -/
def execMonitorSample (temperatures : List F32) (rails : List Nat) (s : State) : Host.Outcome State Fault Refusal :=
  complete s (fun s => s.monitorSample temperatures rails)

end Sys2Proof.Machine
end

