-- ==== Sys2Proof/Machine/Photometer.lean ====
section
/-! DEFINITION. The Photometer: cycle quantities, registers, saves, snapshots, demand intervals, states, the phase sequence
and neutral conditions, and pulse counters (R369–R391, R477). -/

namespace Sys2Proof.Machine

/-! ## Amounts (R369, R372–R374) -/

/-- An amount added to a register's 80-bit counter: n units to nearest with ties away from zero, and the residue kept. -/
def bookAmount (r : PmRegister) (a : F64) : PmRegister × Int :=
  let x := (a.mul (F64.ofInt 65536)).add r.residue
  let n := roundRat x.toRat
  (⟨(((r.counter : Int) + n) % ((2 ^ 80 : Nat) : Int)).toNat, x.sub (F64.ofInt n)⟩, n)

/-- VALUE has wrapped between two counter values. -/
def valueWrapped (a b : PmRegister) : Bool := a.counter / 2 ^ 64 != b.counter / 2 ^ 64

/-- RMS of samples (R369). -/
def rmsOf (xs : List F64) : F64 := ((F64.sum (xs.map (fun x => x.mul x))).div (F64.ofInt xs.length)).sqrt

/-- The amounts of a span of samples by element (R372): an amount of exactly 0 books nothing into the direction and
quadrant registers. -/
def classAmounts (absolute : Bool) (ep eq es i2 v2 : F64) : List (Nat × F64) :=
  let pos := fun (x : F64) => F64.zero.lt x
  let neg := fun (x : F64) => x.lt F64.zero
  let when_ := fun (c : Bool) (e : Nat) (a : F64) => if c then [(e, a)] else []
  when_ (pos ep) 0 ep ++ when_ (neg ep) 1 ep.neg ++ [(2, if absolute then ep.abs else ep)] ++
  when_ (pos eq) 3 eq ++ when_ (neg eq) 4 eq.neg ++ [(5, if absolute then eq.abs else eq)] ++
  when_ (!neg ep && pos eq) 6 eq.abs ++ when_ (neg ep && pos eq) 7 eq.abs ++
  when_ (neg ep && neg eq) 8 eq.abs ++ when_ (!neg ep && neg eq) 9 eq.abs ++
  when_ (pos ep) 10 es ++ when_ (neg ep) 11 es ++ [(12, es), (13, i2), (14, v2)]

/-- What R369 computes of a span of samples: its duration, whether it is usable, the energies, and the amounts to book. -/
structure Span where
  time : F64
  usable : Bool
  overrange : Bool
  flags : Quality
  ep : F64
  eq : F64
  es : F64
  amounts : List (Nat × F64)
  deriving DecidableEq, Repr

/-- Amounts booked into registers in turn, with the units each booking added. -/
def bookAll (l : List (Nat × F64)) (regs : List PmRegister) : List PmRegister × List (Nat × Int) :=
  l.foldl (fun (acc : List PmRegister × List (Nat × Int)) (ea : Nat × F64) =>
    let b := bookAmount (nth acc.1 ea.1 ⟨0, ⟨0⟩⟩) ea.2
    (setNth acc.1 ea.1 b.1, acc.2 ++ [(ea.1, b.2)])) (regs, [])

/-- Seconds as an amount: the exact duration of an ET span. -/
def secondsOf (t : Nat) : F64 := F64.ofRat (mkRat t 4294967296000000000)

namespace State

/-! ## Cycles -/

/-- ET of tracked sample j's primary instant (R142). -/
def trackedEt (s : State) (j : Nat) : Et := s.positionEt (s.positionOf j).toNat

/-- ET at which a cycle of the epoch ends: the next tracked-cycle boundary. -/
def cycleEndEt (s : State) (c : Nat) : Et :=
  let b := s.boundaryFor (256 * c)
  s.positionEt (b.p + (256 * (c + 1) - b.j) * b.dp)

/-- Samples lo to hi − 1 of a cycle as R369 takes them; before sample 0 the flushed chain holds zeros. -/
def spanOf (s : State) (bay c lo hi : Nat) : Span :=
  let n := hi - lo
  let j0 := 256 * c + lo
  let sample := fun (ch : Nat) (j : Int) => (s.trackedAt ch j).getD ⟨F64.zero, if j < 0 then 0#16 else qSet 0#16 qABSENT⟩
  let xs := fun (k : Nat) => (List.range n).map (fun (i : Nat) => sample (6 * bay + k) ((j0 + i : Nat) : Int))
  let vals := fun (k : Nat) => (xs k).map (·.value)
  let back := fun (k : Nat) => (List.range n).map (fun (i : Nat) => (sample (6 * bay + k) (((j0 + i : Nat) : Int) - 64)).value)
  let dt := (F64.ofRat (mkRat (s.boundaryFor (256 * c)).dp 4294967296)).div (F64.ofInt 48000)
  let tc := (F64.ofInt n).mul dt
  let flags := qUnion ((List.range 6).flatMap (fun k => (xs k).map (·.flags)))
  let usable := flags &&& 0x0602#16 == 0#16
  let wh := fun (x : F64) => (x.mul dt).div (F64.ofRat (18 / 5))
  let phases := (List.range 3).map (fun x =>
    (wh (F64.sum (List.zipWith F64.mul (vals x) (vals (3 + x)))),
     wh (F64.sum (List.zipWith F64.mul (back x) (vals (3 + x)))),
     (((rmsOf (vals x)).mul (rmsOf (vals (3 + x)))).mul tc).div (F64.ofRat (18 / 5))))
  let ep := F64.sum (phases.map (·.1))
  let eq := F64.sum (phases.map (fun p => p.2.1))
  let es := F64.sum (phases.map (fun p => p.2.2))
  let square := fun (k : Nat) => (rmsOf (vals k)).mul (rmsOf (vals k))
  let perHour := fun (l : List Nat) => ((F64.sum (l.map square)).mul tc).div (F64.ofInt 3600)
  { time := tc, usable := usable, overrange := qBit flags qOVERRANGE, flags := flags, ep := ep, eq := eq, es := es
    amounts :=
      if n = 0 then []
      else if !usable then [(15, tc)]
      else classAmounts (s.c (0x8000 + bay) 0x02 == 1) ep eq es (perHour [3, 4, 5]) (perHour [0, 1, 2]) }

/-- Samples of a cycle whose primary instant lies before an ET. -/
def samplesBefore (s : State) (c : Nat) (t : Et) : Nat :=
  ((List.range 256).filter (fun i => decide (s.trackedEt (256 * c + i) < t))).length

/-- The bay's next cycle has all its samples. -/
def cycleReady (s : State) (bay : Nat) : Bool :=
  s.chainOn && decide (256 * ((s.pmBay bay).nextCycle + 1) ≤ s.loc.nextTracked)

/-- PM_ROLLOVER for each register whose VALUE wraps (R373, R391). -/
def raiseRollovers (s : State) (bay : Nat) (old new : List PmRegister) : State :=
  (List.range 16).foldl (fun t e =>
    if valueWrapped (nth old e ⟨0, ⟨0⟩⟩) (nth new e ⟨0, ⟨0⟩⟩) then t.raiseEvent 55 (bay + e * 256) else t) s

/-- Amounts booked for a bay (R372–R374): registers, PM_ROLLOVER and the sums of the demand interval (R381). With `own` false the
mirrored registers already hold them, and only the demand sums take them (R477). -/
def book (s : State) (bay : Nat) (l : List (Nat × F64)) (own : Bool) : State :=
  let old := (s.pmBay bay).registers
  let r := bookAll l old
  let sum := fun (e : Nat) => ((r.2.filter (fun (x : Nat × Int) => x.1 = e)).map (fun (x : Nat × Int) => x.2)).sum.toNat
  let s1 := s.modPmBay bay (fun b => { b with
    registers := if own then r.1 else b.registers
    sums := List.zipWith (fun a e => a + sum e) b.sums [0, 1, 3, 4, 15] })
  if own then s1.raiseRollovers bay old r.1 else s1

/-! ## Demand intervals (R380, R381) -/

/-- DEMAND_PERIOD as an ET span. -/
def demandPeriod (s : State) (bay : Nat) : Nat := s.c (0x8000 + bay) 0x03 * 60 * sec

/-- The latest ET at or before t at which UTC with an offset is a whole multiple of the period since midnight. -/
def demandFloor (s : State) (bay : Nat) (offset : Int) (t : Et) : Et :=
  let p := s.demandPeriod bay
  let x : Int := (t : Int) - offset * sec
  ((x / (p : Int)) * p + offset * sec).toNat

/-- The first such ET at or after t. -/
def demandCeil (s : State) (bay : Nat) (offset : Int) (t : Et) : Et :=
  let f := s.demandFloor bay offset t
  if f < t then f + s.demandPeriod bay else f

/-- The boundary that ends an interval, the next one under the period in force (R381): a leap second inside it moves the boundary with UTC (R380). -/
def demandEnd (s : State) (bay : Nat) (begin_ : Et) : Et :=
  let start := max begin_ (s.pmBay bay).demandFrom
  let off := s.int 0x2000 0x13
  match s.eph.leapAt with
  | some t =>
    let e := s.demandCeil bay off (start + 1)
    if e < t then e else s.demandCeil bay (off + (if s.num 0x2000 0x15 = 2 then -1 else 1)) (max t (start + 1))
  | none =>
    match s.eph.lastLeap with
    | some (t, _) => s.demandCeil bay off (max t (start + 1))
    | none => s.demandCeil bay off (start + 1)

/-- 2^-16 Wh over an interval as MW (R382). -/
def demandAverage (sum len : Nat) : F32 :=
  if len = 0 then F32.zero
  else (((F64.ofRat (mkRat sum 65536)).mul (F64.ofInt 3600)).div (secondsOf len)).div (F64.ofInt 1000000) |>.to32

/-- The record of an interval is written, and the next interval begins at its end. -/
def closeDemand (s : State) (bay : Nat) (start end_ : Et) : State :=
  let b := s.pmBay bay
  let i := 0x8000 + bay
  let n := s.num i 0x0B
  let msOf := fun (units : Nat) => (roundDiv (units * 1000) 65536).toNat
  let rec_ := etBytes start ++ beBytes 4 ((end_ - start) / ms) ++
    ((b.sums.take 4).map (beBytes 8)).flatten ++ beBytes 4 (msOf (nth b.sums 4 0)) ++
    [byte (bitsOfList [b.partial_, b.fault])] ++ List.replicate 11 0
  ((s.setElem i 0x0C (n % 96) rec_).incWrap 32 i 0x0B).modPmBay bay (fun b => { b with
    demandStart := some end_, sums := [0, 0, 0, 0, 0], partial_ := false
    fault := s.lasting (qkey 5 bay 0) || s.lasting (qkey 5 bay 1)
    averages := some ((b.sums.take 4).map (fun x => demandAverage x (end_ - start))) })

/-- The interval in progress is closed when it ends at or before t. Boundaries that no sample has reached, because ET has jumped or the chain
stood still, make no records: the next interval is the one that t lies in, and PARTIAL (DESIGN CHOICE, log entry 98). -/
def closeDemandUpTo (s : State) (bay : Nat) (t : Et) : State :=
  match (s.pmBay bay).demandStart with
  | none => s
  | some st =>
    let e := s.demandEnd bay st
    if t < e then s
    else
      let u := s.closeDemand bay st e
      let f := u.demandFloor bay (u.utcAt t) t
      if e < f then u.modPmBay bay (fun b => { b with demandStart := some f, partial_ := true }) else u

/-- The ET up to which a bay's demand intervals may close: nothing of an earlier cycle is still to be booked. -/
def demandReach (s : State) (bay : Nat) : Et :=
  if s.chainOn then min s.et (s.trackedEt (256 * (s.pmBay bay).nextCycle + 255)) else s.et

/-! ## Phase sequence and neutral (R383, R384) -/

/-- V1, V2 and V0 of a cycle by one-cycle rectangular DFTs. -/
def cycleSequences (s : State) (bay c : Nat) : Cplx × Cplx × Cplx :=
  let ph := fun (k : Nat) => phasorOf ((List.range 256).map (fun (i : Nat) =>
    ((s.trackedAt (6 * bay + k) ((256 * c + i : Nat) : Int)).map (·.value)).getD F64.zero)) (List.replicate 256 (F64.ofInt 1))
  sequences (ph 0) (ph 1) (ph 2)

/-- A condition (0 sequence, 1 neutral) becomes present, which is one occurrence, or absent. -/
def setPmCondition (s : State) (bay kind : Nat) (present : Bool) : State :=
  let i := 0x8000 + bay
  let f := s.num i 0x0D
  if f.testBit kind = present then s
  else
    let t := s.setN i 0x0D (setBit f kind present)
    if !present then t
    else
      match t.occurs (qkey 5 bay kind) (s.c i 0x07) (s.c i 0x08) with
      | (u, .became) => ((u.setN i 0x0D (setBit (u.num i 0x0D) (4 + kind) true)).modPmBay bay (fun b => { b with fault := true })).raiseEvent
          (56 + kind) bay
      | (u, _) => u.inc32 i 0x0E

/-- A condition that does not run is absent, with its counts at 0 (R383). -/
def dropCondition (s : State) (bay kind : Nat) : State :=
  (s.modPmBay bay (fun b => { b with present := setNth b.present kind 0, absent := setNth b.absent kind 0 })).setPmCondition bay kind false

/-- One usable cycle's judgement of a condition, with its consecutive counts. -/
def judgeCondition (s : State) (bay kind : Nat) (holds : Bool) : State :=
  let i := 0x8000 + bay
  if !(s.c i 0x04).testBit kind then s.dropCondition bay kind
  else
    let n := s.c i 0x05
    let b := s.pmBay bay
    let p := if holds then min n (nth b.present kind 0 + 1) else 0
    let a := if holds then 0 else min n (nth b.absent kind 0 + 1)
    let t := s.modPmBay bay (fun b => { b with present := setNth b.present kind p, absent := setNth b.absent kind a })
    if n ≤ p then t.setPmCondition bay kind true
    else if n ≤ a then t.setPmCondition bay kind false
    else t

/-- Both conditions of a usable cycle. -/
def judgeCycle (s : State) (bay : Nat) (v : Cplx × Cplx × Cplx) : State :=
  let u := (s.cF32 (0x3100 + bay) 0x06).to64.div (F64.ofInt 3).sqrt
  let v1 := v.1.abs
  let v2 := v.2.1.abs
  let big := (u.div (F64.ofInt 10)).le v1 || (u.div (F64.ofInt 10)).le v2
  let lim := (u.mul (F64.ofInt (s.c (0x8000 + bay) 0x06))).div (F64.ofInt 100)
  (s.judgeCondition bay 0 (v1.lt v2 && big)).judgeCondition bay 1 (lim.le v.2.2.abs && (s.pmBay bay).vnOpen)

/-- SUP_CLEAR of a bay's Photometer (R384, R523). -/
def clearPm (s : State) (bay : Nat) : State :=
  ((s.clearQualifier (qkey 5 bay 0)).clearQualifier (qkey 5 bay 1)).setN (0x8000 + bay) 0x0D (s.num (0x8000 + bay) 0x0D % 16)

/-- One sample of the VN continuity monitor in mV (R547). -/
def vnSample (b : PmBay) (mv : Int) : PmBay :=
  let high := decide (500 < mv)
  { b with vnOpen := if b.vnOpen then decide (200 ≤ mv) else high && b.vnHigh, vnHigh := high }

/-! ## States (R382) -/

/-- The 16 published states after a cycle. -/
def publishPm (s : State) (bay : Nat) (sp : Span) (v : Cplx × Cplx × Cplx) : State :=
  let mega := fun (e : F64) => (((e.mul (F64.ofInt 3600)).div sp.time).div (F64.ofInt 1000000)).to32
  let live := fun (x : F32) =>
    if sp.usable then (⟨x, qMake true sp.flags, 0⟩ : Entry) else ⟨absentValue, qSet (qFlags sp.flags) qABSENT, 0⟩
  let pf := if sp.es.toRat = 0 then F64.zero else sp.ep.div sp.es
  let ratio := if v.1.abs.toRat = 0 then F64.zero else (v.2.1.abs.div v.1.abs).mul (F64.ofInt 100)
  let avg := fun (k : Nat) => match (s.pmBay bay).averages with
    | some l => (⟨nth l k F32.zero, 1#16, 0⟩ : Entry)
    | none => absentPoint
  let bool := fun (b : Bool) => (⟨f32OfBool b, 1#16, 0⟩ : Entry)
  let es : List Entry := [live (mega sp.ep), live (mega sp.eq), live (mega sp.es), live pf.to32, live ratio.to32] ++
    (List.range 4).map avg ++ [live v.2.2.abs.to32,
      bool (s.lasting (qkey 5 bay 0)), bool (s.lasting (qkey 5 bay 1)), bool (!sp.usable)]
  (es.zip (List.range 13)).foldl (fun t x => t.setElem (0x8000 + bay) 0x0A x.2 (encodeEntry x.1)) s

/-! ## Cycle ends (R369–R371, R377, R477) -/

/-- The time without samples before the first cycle of an epoch is booked as unmeasured (R371). -/
def bookGap (s : State) (bay : Nat) : State :=
  let b := s.pmBay bay
  if !b.resumed then s
  else
    let t := s.modPmBay bay (fun b => { b with resumed := false })
    match b.upTo with
    | some e => if s.cB (0x8000 + bay) 0x01 ∧ e < s.trackedEt 0 then t.book bay [(15, secondsOf (s.trackedEt 0 - e))] true else t
    | none => t

/-- The bay's registers are set to 0 at a cycle end (R377); a reset of every bay ends with its last one. -/
def resetAtEnd (s : State) (bay : Nat) : State :=
  if !(s.pmBay bay).resetDue then s
  else
    let t := s.modPmBay bay (fun b => { b with
      registers := List.replicate 16 ⟨0, ⟨0⟩⟩, resetDue := false, partial_ := true, mirrored := none, own := [] })
    if t.pm.bays.any (·.resetDue) then t
    else ((t.modPm (fun p => { p with resetAll := false })).finishCmd 0x8012 0 []).raiseEvent 58 (if s.pm.resetAll then 0xFF else bay)

/-- Captures a bay for a snapshot whose t_s lies before the end of the cycle that is about to be booked (R378). -/
def captureBay (s : State) (bay : Nat) : State :=
  match s.pm.snap with
  | none => s
  | some sn =>
    if (lookup bay sn.bays).isSome then s
    else
      let c := (s.pmBay bay).nextCycle
      let n := if s.chainOn then s.samplesBefore c sn.ts else 0
      let regs := (s.pmBay bay).registers
      let r := if s.cB (0x8000 + bay) 0x01 then (bookAll (s.spanOf bay c 0 n).amounts regs).1 else regs
      s.modPm (fun p => { p with snap := some { sn with bays := sn.bays ++ [(bay, r)] } })

/-- A snapshot's t_s lies before the end of the bay's next cycle. -/
def snapStraddles (s : State) (bay : Nat) : Bool :=
  match s.pm.snap with
  | some sn => decide (sn.ts < s.cycleEndEt (s.pmBay bay).nextCycle)
  | none => false

/-- The samples of a cycle that a standby's own booking may take: none of those at or before the last mirrored LAST_CYCLE (R477). -/
def ownFrom (s : State) (bay c : Nat) : Nat :=
  match (s.pmBay bay).mirrored with
  | some (_, last) => s.samplesBefore c (last + 1)
  | none => 0

/-- A cycle booked for an enabled bay: registers, demand, conditions and states. -/
def bookCycle (s : State) (bay : Nat) : State :=
  let c := (s.pmBay bay).nextCycle
  let e := s.cycleEndEt c
  let sp := s.spanOf bay c 0 256
  let from_ := s.ownFrom bay c
  let mine := if from_ = 0 then sp.amounts else (s.spanOf bay c from_ 256).amounts
  let s1 := if from_ = 256 then s.book bay sp.amounts false else s.book bay mine true
  let s2 := if sp.usable ∧ sp.overrange then s1.inc32 (0x8000 + bay) 0x10 else s1
  let v := s.cycleSequences bay c
  let s3 := if sp.usable then s2.judgeCycle bay v else s2
  let s4 := s3.publishPm bay sp v
  let standby := s.isPair && !s.acting
  (s4.setN (0x8000 + bay) 0x11 e).modPmBay bay (fun b => { b with
    own := if standby then b.own ++ [⟨s.loc.epoch, c, e, mine⟩] else b.own })

/-- PM_CYCLE_END (R369): the bay's next complete cycle. -/
def pmCycleEnd (s : State) (bay : Nat) (vn : List Int) : State :=
  if !s.cycleReady bay then s
  else
    let c := (s.pmBay bay).nextCycle
    let last := s.trackedEt (256 * c + 255)
    let e := s.cycleEndEt c
    let s1 := s.modPmBay bay (fun b => vn.foldl vnSample b)
    let s2 := (match (s1.pmBay bay).demandStart with
      | none => s1.modPmBay bay (fun b => { b with demandStart := some (s1.demandFloor bay (s1.int 0x2000 0x13) last), partial_ := true })
      | some _ => s1.closeDemandUpTo bay last)
    let s3 := s2.bookGap bay
    let s4 := if s3.snapStraddles bay then s3.captureBay bay else s3
    let s5 := if s4.cB (0x8000 + bay) 0x01 then s4.bookCycle bay else s4
    (s5.modPmBay bay (fun b => { b with nextCycle := c + 1, upTo := some e })).resetAtEnd bay

/-- Sample 0 of a new epoch: cycles are numbered anew, and the time since the last cycle is a gap (R371). -/
def pmResume (s : State) : State :=
  s.modPm (fun p => { p with bays := p.bays.map (fun b => { b with nextCycle := 0, resumed := true }) })

/-- A demand boundary of a bay (R381): the record is written once every cycle of the interval is booked. -/
def demandBoundary (s : State) (bay : Nat) : State := s.closeDemandUpTo bay (s.demandReach bay)

/-! ## Commands (R377–R379, R387) -/

/-- RESET_CMD of one bay or of all (R377). -/
def pmReset (s : State) (bay : Nat) : State :=
  (s.startCmd 0x8012).modPm (fun p => { p with
    resetAll := bay == 0xFF
    bays := (p.bays.zip (List.range 8)).map (fun x => if bay = 0xFF ∨ bay = x.2 then { x.1 with resetDue := true } else x.1) })

/-- SNAPSHOT_CMD (R378). -/
def pmSnapshot (s : State) : State :=
  let ts := if s.num 0x8010 0x01 = 0 then (s.et / sec + 1) * sec else s.num 0x8010 0x01
  if ts < s.et + 10 * ms ∨ s.et + 3600 * sec < ts then s.quickCmd 0x8011 0x0002 []
  else (s.startCmd 0x8011).modPm (fun p => { p with snap := some ⟨ts, [], []⟩ })

/-- Every bay can be captured: its cycles up to t_s are booked and its samples before t_s are there. -/
def snapReady (s : State) (sn : PmSnap) : Bool :=
  decide (sn.ts ≤ s.et) && (List.range 8).all (fun b =>
    (lookup b sn.bays).isSome || !s.chainOn || !s.cB (0x8000 + b) 0x01 ||
    (s.snapStraddles b && decide (0 < s.loc.nextTracked) && decide (sn.ts ≤ s.trackedEt s.loc.nextTracked)))

/-- A pulse counter's COUNT at t_s (R378). -/
def snapCount (s : State) (sn : PmSnap) (n : Nat) : Nat := (lookup n sn.frozen).getD (s.num (0x8100 + n) 0x04)

/-- PM_SNAPSHOT_COMPLETE (R379). -/
def pmSnapshotComplete (s : State) : State :=
  match s.pm.snap with
  | none => s
  | some sn =>
    if !s.snapReady sn then s
    else
      let s1 := (List.range 8).foldl captureBay s
      let bays := match s1.pm.snap with
        | some x => x.bays
        | none => []
      let s2 := (List.range 8).foldl (fun t b => (List.range 16).foldl (fun u e =>
        u.setElem 0x8010 0x04 (16 * b + e) (pmElement (nth ((lookup b bays).getD []) e ⟨0, ⟨0⟩⟩))) t) s1
      let s3 := (List.range 24).foldl (fun t n => t.setElem 0x8010 0x05 n (beBytes 8 (s.snapCount sn n))) s2
      (((s3.setN 0x8010 0x06 sn.ts).inc32 0x8010 0x03).modPm (fun p => { p with snap := none })).finishCmd 0x8011 0 (etBytes sn.ts)

/-! ## Pulse counters (R385–R387) -/

/-- Keeps a counter's present COUNT for a snapshot whose t_s lies at or before an ET. -/
def freezeCount (s : State) (n : Nat) (at_ : Et) : State :=
  match s.pm.snap with
  | none => s
  | some sn =>
    if at_ < sn.ts ∨ (lookup n sn.frozen).isSome then s
    else s.modPm (fun p => { p with snap := some { sn with frozen := (n, s.num (0x8100 + n) 0x04) :: sn.frozen } })

/-- A write of COUNT_SET (R387). -/
def setCount (s : State) (n count : Nat) : State := (s.freezeCount n s.et).setN (0x8100 + n) 0x04 count

/-- An accepted band of BIn with the band accepted before it: a closure is counted, rejected or uncertain (R385). -/
def pulse (s : State) (n before : Nat) : State :=
  let i := 0x8100 + n
  let invert := s.cB (0x7120 + n) 0x03
  let closed := if invert then 1 else 2
  let opened := if invert then 2 else 1
  if !s.cB i 0x01 ∨ s.num (0x7120 + n) 0x07 ≠ closed then s
  else if before = opened then
    let at_ := s.num (0x7120 + n) 0x0A
    let last := s.num i 0x08
    if last ≠ 0 ∧ last ≤ at_ ∧ at_ < last + 20 * ms then s.inc32 i 0x06
    else ((s.freezeCount n at_).inc64 i 0x04).setN i 0x08 at_
  else if before = 0 ∨ before = 3 ∨ before = 4 then s.inc32 i 0x07
  else s

/-! ## Saving and restoring (R376) -/

/-- The demand rings with their counts. -/
def demandValues (s : State) : List (Nat × Value) :=
  s.obj.filter (fun e => 0x8000 * 256 ≤ e.1 / 65536 ∧ e.1 / 65536 < 0x8008 * 256 ∧
    (e.1 / 65536 % 256 = 0x0B ∨ e.1 / 65536 % 256 = 0x0C))

/-- The copy to restore: the highest generation whose CRC verifies. -/
def bestPm (s : State) : Option PmSaved :=
  match s.flash.pmA.filter (·.intact), s.flash.pmB.filter (·.intact) with
  | some a, some b => if b.generation ≤ a.generation then some a else some b
  | some a, none => some a
  | none, o => o

/-- A save: it replaces the copy that would not be restored. -/
def pmSave (s : State) : State :=
  let best := s.bestPm
  let saved : PmSaved := ⟨((best.map (·.generation)).getD 0) + 1, true, s.et, s.pm.bays.map (·.registers),
    (List.range 24).map (fun n => s.num (0x8100 + n) 0x04), s.demandValues⟩
  let intoB : Bool := best.isSome && decide (s.flash.pmA = best)
  ((s.modFlash (fun f => if intoB then { f with pmB := some saved } else { f with pmA := some saved })).setN 0x8010 0x08 s.et).modPm
    (fun p => { p with saveTick := s.raw })

/-- PM_SAVE: SAVE_PERIOD has elapsed in RUNNING. -/
def pmSaveDue (s : State) : Bool :=
  s.inRunning && s.power == 0 && decide (s.pm.saveTick + s.c 0x8010 0x07 * tickSec ≤ s.raw)

/-- A bay's meter at a start. -/
def freshPmBay (regs : List PmRegister) (upTo : Option Et) : PmBay :=
  ⟨regs, 0, upTo, true, [0, 0], [0, 0], false, false, none, 0, [0, 0, 0, 0, 0], true, false, none, false, none, []⟩

/-- The restore at a start; with no copy that verifies every register starts at 0, and PM_RESTORE_FAILED is raised. -/
def pmRestore (s : State) : State :=
  match s.bestPm with
  | some x =>
    let s1 := s.modPm (fun _ => ⟨(List.range 8).map (fun b => freshPmBay (nth x.registers b []) (some x.et)), none, s.raw, false⟩)
    let s2 := (x.counts.zip (List.range 24)).foldl (fun t c => t.setN (0x8100 + c.2) 0x04 c.1) s1
    { s2 with obj := s2.obj.setAll x.demand }.setN 0x8010 0x08 x.et
  | none =>
    (s.modPm (fun _ => ⟨(List.range 8).map (fun _ => freshPmBay (List.replicate 16 (⟨0, ⟨0⟩⟩ : PmRegister)) none), none, s.raw, false⟩)).raiseEvent 59 0

/-! ## Pairs (R475, R477) -/

/-- The mirror of registers, ROLL, residues and LAST_CYCLE of every bay. -/
def pmMirror (s : State) : Output :=
  .mirrorPm (s.pm.bays.map (·.registers)) ((List.range 8).map (fun b => s.num (0x8000 + b) 0x11))

/-- What is left of a standby's own cycle under a mirrored LAST_CYCLE: all of it, the part after it, or none (R477). -/
def trimOwn (s : State) (bay : Nat) (last : Et) (o : OwnCycle) : Option OwnCycle :=
  if o.endEt ≤ last then none
  else if o.epoch ≠ s.loc.epoch then some o
  else
    let n := s.samplesBefore o.cycle (last + 1)
    if n = 0 then some o else some { o with amounts := (s.spanOf bay o.cycle n 256).amounts }

/-- A mirror replaces the standby's registers; its own cycles that the mirror holds are forgotten (R477). -/
def takePmMirror (s : State) (registers : List (List PmRegister)) (lastCycles : List Et) : State :=
  (List.range 8).foldl (fun t b =>
    match registers[b]?, lastCycles[b]? with
    | some r, some e => t.modPmBay b (fun x => { x with
        registers := r, mirrored := some (r, e), own := x.own.filterMap (s.trimOwn b e) })
    | _, _ => t) s

/-- The standby becomes acting: the last mirrored registers, and only its own bookings of samples after the last mirrored
LAST_CYCLE (R477). -/
def keepOwnBookings (s : State) : State :=
  s.modPm (fun p => { p with bays := p.bays.map (fun b =>
    match b.mirrored with
    | none => { b with own := [] }
    | some (r, _) => { b with
        registers := b.own.foldl (fun acc o => (bookAll o.amounts acc).1) r, mirrored := none, own := [] }) })

end State

/-! ## The commands of this file -/

/-- PM_CYCLE_END (R369). -/
def execPmCycleEnd (bay : Fin 8) (vn : List Int) (s : State) : Host.Outcome State Fault Refusal :=
  complete s (fun s => s.pmCycleEnd bay.val vn)

/-- PM_SAVE (R376). -/
def execPmSave (s : State) : Host.Outcome State Fault Refusal :=
  complete s (fun s => if s.pmSaveDue then s.pmSave else s)

/-- PM_SNAPSHOT_COMPLETE (R379). -/
def execPmSnapshotComplete (s : State) : Host.Outcome State Fault Refusal := complete s State.pmSnapshotComplete

/-- DEMAND_BOUNDARY (R381). -/
def execDemandBoundary (bay : Fin 8) (s : State) : Host.Outcome State Fault Refusal :=
  complete s (fun s => s.demandBoundary bay.val)

end Sys2Proof.Machine
end

