-- ==== Sys2Proof/Machine/Deflate.lean ====
section
/-! DEFINITION. DEFLATE (RFC 1951) and the compression engine: runs, jobs, suspension and their status (R428–R437). -/

namespace Sys2Proof.Machine

/-! ## Inflation -/

/-- Why an inflation stops. -/
inductive InflateStop where
  | done | input | format | limit | room
  deriving DecidableEq, Repr

/-- The decoder: input left, bit position in its first byte, bits used, output (newest first) and its length. -/
structure Inflater where
  rest : List Byte
  bit : Nat
  used : Nat
  out : List Byte
  count : Nat
  /-- Output bytes allowed by OUT_LIMIT, and by the room there is. -/
  limit : Nat
  room : Nat
  deriving DecidableEq, Repr

/-- A step of the decoder: a value and the decoder after it, or a stop. -/
abbrev InflateStep (α : Type) := Except (InflateStop × Inflater) (α × Inflater)

def takeBit (d : Inflater) : InflateStep Nat :=
  match d.rest with
  | [] => .error (.input, d)
  | b :: rest =>
    let v := (b.toNat >>> d.bit) % 2
    if d.bit = 7 then .ok (v, { d with rest := rest, bit := 0, used := d.used + 1 })
    else .ok (v, { d with bit := d.bit + 1, used := d.used + 1 })

/-- n bits, least significant first. -/
def takeBits : Nat → Inflater → InflateStep Nat
  | 0, d => .ok (0, d)
  | n + 1, d =>
    match takeBit d with
    | .error e => .error e
    | .ok (v, d1) =>
      match takeBits n d1 with
      | .error e => .error e
      | .ok (w, d2) => .ok (v + 2 * w, d2)

/-- The decoder at the next byte boundary. -/
def alignByte (d : Inflater) : Inflater :=
  if d.bit = 0 then d else { d with rest := d.rest.drop 1, bit := 0, used := d.used + (8 - d.bit) }

/-- One output byte (R432): the limit is tested before the room. -/
def putByte (d : Inflater) (b : Byte) : InflateStep Unit :=
  if d.count ≥ d.limit then .error (.limit, d)
  else if d.count ≥ d.room then .error (.room, d)
  else .ok ((), { d with out := b :: d.out, count := d.count + 1 })

/-- A canonical Huffman code: how many codes each length 1–15 has, and the symbols in order of code. -/
structure Huffman where
  counts : List Nat
  symbols : List Nat
  deriving DecidableEq, Repr

/-- The code of a list of code lengths. -/
def huffman (lengths : List Nat) : Huffman :=
  let sym := fun (l : Nat) => ((lengths.zip (List.range lengths.length)).filter (fun (x : Nat × Nat) => x.1 = l)).map (fun (x : Nat × Nat) => x.2)
  let all := (List.range 15).map (fun i => sym (i + 1))
  ⟨all.map List.length, all.flatten⟩

/-- A code whose lengths claim more codes than there are. -/
def oversubscribed (h : Huffman) : Bool :=
  (h.counts.foldl (fun (acc : Int × Bool) (c : Nat) =>
    let left := 2 * acc.1 - (c : Int)
    (left, acc.2 || decide (left < 0))) ((1 : Int), false)).2

/-- Decodes one symbol, walking the lengths. -/
def decodeSymbol (symbols : List Nat) : List Nat → Nat → Nat → Nat → Inflater → InflateStep Nat
  | [], _, _, _, d => .error (.format, d)
  | c :: rest, code, first, index, d =>
    match takeBit d with
    | .error e => .error e
    | .ok (b, d1) =>
      let code := code + b
      if code < first + c then .ok (nth symbols (index + (code - first)) 0, d1)
      else decodeSymbol symbols rest (2 * code) (2 * (first + c)) (index + c) d1

def symbolOf (h : Huffman) (d : Inflater) : InflateStep Nat := decodeSymbol h.symbols h.counts 0 0 0 d

def lengthBase : List Nat := [3, 4, 5, 6, 7, 8, 9, 10, 11, 13, 15, 17, 19, 23, 27, 31, 35, 43, 51, 59, 67, 83, 99, 115, 131, 163, 195, 227, 258]
def lengthExtra : List Nat := [0, 0, 0, 0, 0, 0, 0, 0, 1, 1, 1, 1, 2, 2, 2, 2, 3, 3, 3, 3, 4, 4, 4, 4, 5, 5, 5, 5, 0]
def distBase : List Nat := [1, 2, 3, 4, 5, 7, 9, 13, 17, 25, 33, 49, 65, 97, 129, 193, 257, 385, 513, 769, 1025, 1537, 2049, 3073, 4097, 6145,
  8193, 12289, 16385, 24577]
def distExtra : List Nat := [0, 0, 0, 0, 1, 1, 2, 2, 3, 3, 4, 4, 5, 5, 6, 6, 7, 7, 8, 8, 9, 9, 10, 10, 11, 11, 12, 12, 13, 13]

/-- Copies n bytes from a distance back. -/
def copyBack : Nat → Nat → Inflater → InflateStep Unit
  | 0, _, d => .ok ((), d)
  | n + 1, dist, d =>
    match putByte d (nth d.out (dist - 1) 0) with
    | .error e => .error e
    | .ok (_, d1) => copyBack n dist d1

/-- A length symbol with its distance. -/
def copyMatch (sym : Nat) (dists : Huffman) (d : Inflater) : InflateStep Unit :=
  if sym ≥ 286 then .error (.format, d)
  else
    match takeBits (nth lengthExtra (sym - 257) 0) d with
    | .error e => .error e
    | .ok (x, d1) =>
      match symbolOf dists d1 with
      | .error e => .error e
      | .ok (ds, d2) =>
        if ds ≥ 30 then .error (.format, d2)
        else
          match takeBits (nth distExtra ds 0) d2 with
          | .error e => .error e
          | .ok (y, d3) =>
            let dist := nth distBase ds 0 + y
            if dist > d3.count then .error (.format, d3) else copyBack (nth lengthBase (sym - 257) 0 + x) dist d3

/-- The symbols of a compressed block. -/
def inflateCodes : Nat → Huffman → Huffman → Inflater → InflateStep Unit
  | 0, _, _, d => .error (.input, d)
  | fuel + 1, lits, dists, d =>
    match symbolOf lits d with
    | .error e => .error e
    | .ok (sym, d1) =>
      if sym = 256 then .ok ((), d1)
      else
        match (if sym < 256 then putByte d1 (byte sym) else copyMatch sym dists d1) with
        | .error e => .error e
        | .ok (_, d2) => inflateCodes fuel lits dists d2

/-- n bytes of a stored block. -/
def copyStored : Nat → Inflater → InflateStep Unit
  | 0, d => .ok ((), d)
  | n + 1, d =>
    match d.rest with
    | [] => .error (.input, d)
    | b :: rest =>
      match putByte d b with
      | .error e => .error e
      | .ok (_, d1) => copyStored n { d1 with rest := rest, used := d1.used + 8 }

def inflateStored (d : Inflater) : InflateStep Unit :=
  match takeBits 16 (alignByte d) with
  | .error e => .error e
  | .ok (len, d1) =>
    match takeBits 16 d1 with
    | .error e => .error e
    | .ok (nlen, d2) => if len + nlen = 65535 then copyStored len d2 else .error (.format, d2)

def fixedLits : Huffman := huffman ((List.range 288).map (fun i => if i < 144 then 8 else if i < 256 then 9 else if i < 280 then 7 else 8))
def fixedDists : Huffman := huffman (List.replicate 30 5)

/-- The code lengths of a dynamic block. -/
def codeLengths : Nat → Huffman → Nat → List Nat → Inflater → InflateStep (List Nat)
  | 0, _, _, _, d => .error (.format, d)
  | fuel + 1, h, want, acc, d =>
    if acc.length ≥ want then (if acc.length = want then .ok (acc, d) else .error (.format, d))
    else
      match symbolOf h d with
      | .error e => .error e
      | .ok (sym, d1) =>
        if sym < 16 then codeLengths fuel h want (acc ++ [sym]) d1
        else
          let n := if sym = 16 then 2 else if sym = 17 then 3 else 7
          match takeBits n d1 with
          | .error e => .error e
          | .ok (x, d2) =>
            if sym = 16 then
              (match acc.getLast? with
               | none => .error (.format, d2)
               | some l => codeLengths fuel h want (acc ++ List.replicate (3 + x) l) d2)
            else codeLengths fuel h want (acc ++ List.replicate ((if sym = 17 then 3 else 11) + x) 0) d2

def takeList : Nat → Nat → Inflater → InflateStep (List Nat)
  | 0, _, d => .ok ([], d)
  | n + 1, w, d =>
    match takeBits w d with
    | .error e => .error e
    | .ok (x, d1) =>
      match takeList n w d1 with
      | .error e => .error e
      | .ok (l, d2) => .ok (x :: l, d2)

def lengthOrder : List Nat := [16, 17, 18, 0, 8, 7, 9, 6, 10, 5, 11, 4, 12, 3, 13, 2, 14, 1, 15]

def inflateDynamic (fuel : Nat) (d : Inflater) : InflateStep Unit :=
  match takeBits 5 d with
  | .error e => .error e
  | .ok (a, d1) =>
    match takeBits 5 d1 with
    | .error e => .error e
    | .ok (b, d2) =>
      match takeBits 4 d2 with
      | .error e => .error e
      | .ok (c, d3) =>
        if a + 257 > 286 ∨ b + 1 > 30 then .error (.format, d3)
        else
          match takeList (c + 4) 3 d3 with
          | .error e => .error e
          | .ok (ls, d4) =>
            let cl := (List.range 19).map (fun s => match lengthOrder.findIdx? (· == s) with
              | some i => nth ls i 0
              | none => 0)
            let h := huffman cl
            if oversubscribed h then .error (.format, d4)
            else
              match codeLengths 400 h (a + 257 + b + 1) [] d4 with
              | .error e => .error e
              | .ok (all, d5) =>
                let hl := huffman (all.take (a + 257))
                let hd := huffman (all.drop (a + 257))
                if oversubscribed hl ∨ oversubscribed hd then .error (.format, d5) else inflateCodes fuel hl hd d5

/-- The blocks of a stream, to the one with BFINAL 1. -/
def inflateBlocks : Nat → Inflater → InflateStop × Inflater
  | 0, d => (.input, d)
  | fuel + 1, d =>
    match takeBits 3 d with
    | .error e => e
    | .ok (h, d1) =>
      match (match h / 2 with
             | 0 => inflateStored d1
             | 1 => inflateCodes (8 * d1.rest.length + 8) fixedLits fixedDists d1
             | 2 => inflateDynamic (8 * d1.rest.length + 8) d1
             | _ => .error (.format, d1)) with
      | .error e => e
      | .ok (_, d2) => if h % 2 = 1 then (.done, d2) else inflateBlocks fuel d2

/-- An inflation of a whole input, with OUT_LIMIT and the room there is. -/
def inflate (input : List Byte) (limit room : Nat) : InflateStop × Inflater :=
  inflateBlocks (8 * input.length + 1) ⟨input, 0, 0, [], 0, limit, room⟩

def Inflater.bytesOut (d : Inflater) : List Byte := d.out.reverse

/-- Bytes of input of which some bit has been used. -/
def Inflater.bytesIn (d : Inflater) : Nat := (d.used + 7) / 8

/-! ## Runs (R430, R431) -/

/-- Stored blocks of at most 65,535 bytes; the last one carries BFINAL when `final`. -/
def storedBlocks : Nat → Bool → List Byte → List Byte
  | 0, _, _ => []
  | fuel + 1, final, b =>
    let part := b.take 65535
    let rest := b.drop 65535
    let header := byte (bit01 (final && rest.isEmpty)) :: [byte part.length, byte (part.length / 256), byte (65535 - part.length), byte ((65535 - part.length) / 256)]
    header ++ part ++ (if rest.isEmpty then [] else storedBlocks fuel final rest)

/-- The stored form of a run: an empty stored block closes it unless it is final. -/
def storedRun (final : Bool) (b : List Byte) : List Byte :=
  storedBlocks 3 final b ++ (if final then [] else [0, 0, 0, 0xFF, 0xFF])

/-- A coded run is one that R430 admits: it decodes alone to its block, and ends as R430 says. -/
def runOk (final : Bool) (b run : List Byte) : Bool :=
  if final then
    match inflate run b.length b.length with
    | (.done, d) => d.bytesOut == b && d.bytesIn == run.length
    | _ => false
  else
    run.drop (run.length - 4) == [0, 0, 0xFF, 0xFF] &&
    (match inflate (run ++ [3, 0]) b.length b.length with
     | (.done, d) => d.bytesOut == b && d.bytesIn == run.length + 2
     | _ => false)

/-- The run of an input block: coded when that is shorter than stored. The Bool tells RAW. -/
def compressRun (final : Bool) (b : List Byte) : List Byte × Bool :=
  let coded := Config.codedRun final b
  let stored := storedRun final b
  if coded.length < stored.length ∧ runOk final b coded then (coded, false) else (stored, true)

/-- The runs of an input (R430), each with RAW. -/
def compressRuns (final : Bool) (input : List Byte) : List (List Byte × Bool) :=
  let blocks := chunks 65536 (input.length / 65536 + 1) input
  (blocks.zip (List.range blocks.length)).map (fun x => compressRun (final && decide (x.2 + 1 = blocks.length)) x.1)

/-! ## Jobs (R428–R434) -/

def dramSize : Nat := 4294967296

/-- The fields of a descriptor in DRAM (R428). -/
structure JobDescriptor where
  op : Nat
  flags : Nat
  inLen : Nat
  inAddr : Nat
  outChain : Nat
  outLimit : Nat
  mapCapacity : Nat
  mapAddr : Nat
  contextAddr : Nat
  deriving DecidableEq, Repr

/-- Where output goes next: the buffer descriptor and the bytes used in it. -/
structure OutPlace where
  mem : Memory
  buffer : Nat
  used : Nat
  bad : Bool
  deriving DecidableEq, Repr

/-- A number of n bytes at an address. -/
def dramNat (m : Memory) (a n : Nat) : Nat := beNat (Memory.readBytes m a n)

def readDescriptor (m : Memory) (a : Nat) : JobDescriptor :=
  ⟨dramNat m a 1, dramNat m (a + 1) 1, dramNat m (a + 4) 4, dramNat m (a + 8) 8, dramNat m (a + 16) 8, dramNat m (a + 24) 8,
   dramNat m (a + 36) 2, dramNat m (a + 48) 8, dramNat m (a + 56) 8⟩

/-- Blocks of an input. -/
def JobDescriptor.blocks (d : JobDescriptor) : Nat := (d.inLen + 65535) / 65536

/-- The fields are in range (R428, R431, R433). -/
def JobDescriptor.ok (d : JobDescriptor) : Bool :=
  (d.op == 1 || d.op == 2) && decide (d.flags < 4) && decide (1 ≤ d.inLen ∧ d.inLen ≤ 16777216) &&
  decide (d.inAddr + d.inLen ≤ dramSize) && decide (d.outChain + 32 ≤ dramSize) && decide (d.contextAddr + 73728 ≤ dramSize) &&
  (if d.op = 1 then decide (d.blocks ≤ d.mapCapacity ∧ d.mapAddr + 8 * d.mapCapacity ≤ dramSize)
   else decide (1 ≤ d.outLimit ∧ d.outLimit ≤ dramSize))

/-- A buffer descriptor is in range (R429). -/
def bufferOk (m : Memory) (a : Nat) : Bool :=
  decide (a + 32 ≤ dramSize) && decide (1 ≤ dramNat m (a + 8) 4 ∧ dramNat m (a + 8) 4 ≤ 16777216) &&
  decide (dramNat m a 8 + dramNat m (a + 8) 4 ≤ dramSize)

/-- USED of the present buffer is written. -/
def OutPlace.mark (p : OutPlace) : OutPlace := { p with mem := Memory.writeBytes p.mem (p.buffer + 12) (beBytes 4 p.used) }

/-- Output bytes written along the chain (R429): the place after them, and the bytes that found no room. -/
def writeChain : Nat → OutPlace → List Byte → OutPlace × List Byte
  | 0, p, bs => (p, bs)
  | fuel + 1, p, bs =>
    if bs.isEmpty then (p, [])
    else if !bufferOk p.mem p.buffer then ({ p with bad := true }, bs)
    else
      let len := dramNat p.mem (p.buffer + 8) 4
      let room := len - p.used
      let now := bs.take room
      let p1 : OutPlace := { p with mem := Memory.writeBytes p.mem (dramNat p.mem p.buffer 8 + p.used) now, used := p.used + now.length }
      let rest := bs.drop room
      if rest.isEmpty then (p1, [])
      else
        let p2 := p1.mark
        let next := dramNat p2.mem (p2.buffer + 16) 8
        if next = 0 then (p2, rest) else writeChain fuel { p2 with buffer := next, used := 0 } rest

/-- What a job did: STATUS, bytes consumed of this submission, output so far, map entries, and where its output stands. -/
structure JobEnd where
  status : Nat
  consumed : Nat
  produced : Nat
  place : OutPlace
  input : List Byte
  mapUsed : Nat
  rawRuns : Nat
  deriving DecidableEq, Repr

/-- Where a submission starts (R434): a fresh job at the head of its chain; a resumed one where it stopped, or at a new chain. -/
def startPlace (m : Memory) (d : JobDescriptor) (old : Option Suspended) : OutPlace :=
  match old with
  | none => ⟨m, d.outChain, 0, false⟩
  | some o =>
    let next := dramNat m (o.buffer + 16) 8
    if o.output ∧ next ≠ 0 then ⟨m, next, 0, false⟩
    else if o.output then ⟨m, d.outChain, 0, false⟩
    else ⟨m, o.buffer, o.used, false⟩

/-- A DECOMPRESS job run to its stop (R432–R434). `bad` is the input offset of an uncorrectable read. -/
def runDecompress (m : Memory) (d : JobDescriptor) (old : Option Suspended) (bad : Option Nat) : JobEnd :=
  let fresh := Memory.readBytes m d.inAddr d.inLen
  let cut := match bad with
    | some n => fresh.take n
    | none => fresh
  let before := match old with
    | some o => if o.output then o.input.take (o.input.length - o.length) else o.input
    | none => []
  let done := (old.map (·.produced)).getD 0
  let input := before ++ cut
  let r := inflate input d.outLimit (dramSize + 1)
  let w := writeChain (r.2.count + 1) (startPlace m d old) (r.2.bytesOut.drop done)
  let produced := r.2.count - w.2.length
  let final := d.flags.testBit 0
  let place := if w.1.bad then w.1 else if bufferOk w.1.mem w.1.buffer then w.1.mark else w.1
  let at_ := fun (st : InflateStop × Inflater) => min d.inLen (st.2.bytesIn - before.length)
  if w.1.bad then ⟨8, at_ (inflate input d.outLimit produced), produced, place, input, 0, 0⟩
  else if !w.2.isEmpty then ⟨3, at_ (inflate input d.outLimit produced), produced, place, input, 0, 0⟩
  else
    match r.1 with
    | .done => ⟨2, at_ r, produced, place, input, 0, 0⟩
    | .limit => ⟨5, at_ r, produced, place, input, 0, 0⟩
    | .format => ⟨6, at_ r, produced, place, input, 0, 0⟩
    | _ =>
      if bad.isSome then ⟨9, cut.length, produced, place, input, 0, 0⟩
      else if final then ⟨7, d.inLen, produced, place, input, 0, 0⟩
      else ⟨4, d.inLen, produced, place, input, 0, 0⟩

/-- Map entries of the runs that were written whole (R431). -/
def writeMap (m : Memory) (addr : Nat) (runs : List (List Byte × Bool)) (first upTo : Nat) : Memory × Nat :=
  let r := (runs.zip (List.range runs.length)).foldl (fun (acc : Memory × Nat × Nat) (x : (List Byte × Bool) × Nat) =>
    let off := acc.2.1
    let stop := off + x.1.1.length
    if stop ≤ upTo then
      ((if first ≤ x.2 then Memory.writeBytes acc.1 (addr + 8 * x.2) (beBytes 4 off ++ beBytes 4 (bit01 x.1.2 * 2147483648 + x.1.1.length)) else acc.1),
       stop, acc.2.2 + 1)
    else (acc.1, stop, acc.2.2)) (m, 0, 0)
  (r.1, r.2.2)

/-- A COMPRESS job run to its stop. -/
def runCompress (m : Memory) (d : JobDescriptor) (old : Option Suspended) (bad : Option Nat) : JobEnd :=
  let input := match old with
    | some o => o.input
    | none => Memory.readBytes m d.inAddr d.inLen
  let whole := match bad with
    | some n => (min n input.length) / 65536 * 65536
    | none => input.length
  let runs := compressRuns (d.flags.testBit 0 && bad.isNone) (input.take whole)
  let stream := (runs.map (·.1)).flatten
  let done := (old.map (·.produced)).getD 0
  let first := (old.map (·.mapUsed)).getD 0
  let w := writeChain (stream.length + 1) (startPlace m d old) (stream.drop done)
  let produced := stream.length - w.2.length
  let place := if w.1.bad then w.1 else if bufferOk w.1.mem w.1.buffer then w.1.mark else w.1
  let mp := writeMap place.mem d.mapAddr runs first produced
  let raw := (((runs.zip (List.range runs.length)).filter (fun (x : (List Byte × Bool) × Nat) => first ≤ x.2 ∧ x.2 < mp.2)).filter (fun (x : (List Byte × Bool) × Nat) => x.1.2)).length
  let consumed := min d.inLen (65536 * (mp.2 + bit01 (!w.2.isEmpty)))
  ⟨if w.1.bad then 8 else if !w.2.isEmpty then 3 else if bad.isSome then 9 else 2, consumed, produced, { place with mem := mp.1 }, input, mp.2, raw⟩

namespace State

/-- STATUS of a descriptor in DRAM. -/
def setStatus (s : State) (a st : Nat) : State := { s with dram := Memory.writeBytes s.dram (a + 2) [byte st] }

/-- The engine's queue, with QUEUE_DEPTH. -/
def setQueue (s : State) (q : List Nat) : State :=
  (s.modEng (fun e => { e with queue := q })).setN 0x9800 0x09 q.length

/-- A submission (R428): QUEUED, and RUNNING at once when the engine is idle. A full queue takes no job. -/
def submit (s : State) (a : Nat) : State :=
  if s.eng.queue.length ≥ 16 then s
  else (s.setStatus a (if s.eng.queue.isEmpty then 1 else 0)).setQueue (s.eng.queue ++ [a])

/-- The counters of a job's end (R434, R437). -/
def countJob (s : State) (status consumed produced raw : Nat) : State :=
  let t := (((s.add 64 0x9800 0x02 consumed).add 64 0x9800 0x03 produced).add 64 0x9800 0x04 raw).perf 0 0x27 consumed
  match status with
  | 2 => t.inc64 0x9800 0x01
  | 3 | 4 => t.inc32 0x9800 0x05
  | 5 => (t.inc32 0x9800 0x06).raiseEvent 95 status
  | 6 | 7 => (t.inc32 0x9800 0x07).raiseEvent 95 status
  | _ => (t.inc32 0x9800 0x08).raiseEvent 95 status

/-- What a job's end leaves in its descriptor, in the counters and in the queue. -/
def endJob (s : State) (a : Nat) (d : JobDescriptor) (old : Option Suspended) (e : JobEnd) : State :=
  let before := (old.map (·.produced)).getD 0
  let beforeIn := match old with
    | some o => if o.output then o.consumed else 0
    | none => 0
  let mem1 := Memory.writeBytes e.place.mem (a + 2) [byte e.status]
  let mem2 := Memory.writeBytes mem1 (a + 32) (beBytes 4 e.consumed)
  let mem3 := if d.op = 1 then Memory.writeBytes mem2 (a + 38) (beBytes 2 e.mapUsed) else mem2
  let mem4 := Memory.writeBytes mem3 (a + 40) (beBytes 8 e.produced)
  let keep : List Suspended := if e.status = 3 ∨ e.status = 4 then
    [⟨a, e.input, d.inLen, e.consumed, e.produced, e.mapUsed, e.status == 3, e.place.buffer, e.place.used⟩] else []
  let t := (({ s with dram := mem4 }).modEng (fun g => { g with suspended := g.suspended.filter (fun (x : Suspended) => x.descriptor ≠ a) ++ keep })).countJob
    e.status (e.consumed - beforeIn) (e.produced - before) e.rawRuns
  let q := t.eng.queue.drop 1
  let u := t.setQueue q
  match q with
  | n :: _ => u.setStatus n 1
  | [] => u

/-- The job at the head of the queue runs to its stop (R433). A bad read names the DRAM die and the input offset. -/
def stopJob (s : State) (bad : Option (Fin 2 × Nat)) : State :=
  match s.eng.queue with
  | [] => s
  | a :: _ =>
    let d := readDescriptor s.dram a
    let old := if d.flags.testBit 1 then s.eng.suspended.find? (fun (x : Suspended) => x.descriptor = a) else none
    let s1 := match bad with
      | some (die, _) => (s.inc32 0xF120 0x09).raiseEvent 115 die.val
      | none => s
    if !d.ok ∨ (d.flags.testBit 1 ∧ old.isNone) then s1.endJob a d none ⟨8, 0, 0, ⟨s1.dram, 0, 0, true⟩, [], 0, 0⟩
    else
      let off := bad.map (·.2)
      s1.endJob a d old (if d.op = 1 then runCompress s1.dram d old off else runDecompress s1.dram d old off)

/-- A resubmission with RESUME (R434). -/
def resume (s : State) (a : Nat) : State :=
  let f := dramNat s.dram (a + 1) 1
  ({ s with dram := Memory.writeBytes s.dram (a + 1) [byte (f ||| 2)] }).submit a

/-- A block compressed as one job with FINAL for the Logbook or an export (R410, R426): what is read, and whether it is RAW. The bytes
of a stored result are the plain ones, since its stored form would not fit the object (log entry 50). -/
def compressBlock (s : State) (b : List Byte) : State × List Byte × Bool :=
  if b.isEmpty then (s, [], true)
  else
    let r := compressRun true b
    (s.countJob 2 b.length r.1.length (bit01 r.2), if r.2 then b else r.1, r.2)

/-- The engine's self-test (R437): 0, or 0x0010 MISMATCH. -/
def selftestCode (_s : State) : Nat :=
  let v : List Byte := (List.range 65536).map Config.selftestByte
  match inflate (compressRun true v).1 65536 65536 with
  | (.done, d) => if d.bytesOut = v then 0 else 0x0010
  | _ => 0x0010

end State

/-- A job's descriptor lies in DRAM (R38); elsewhere no address exists. -/
def descriptorInDram (a : Nat) : Bool := decide (a + 64 ≤ dramSize)

/-- COMPRESS (R430): a COMPRESS job is submitted. -/
def execCompress (descriptor : Nat) (s : State) : Host.Outcome State Fault Refusal :=
  if descriptorInDram descriptor then complete s (fun s => s.submit descriptor) else .fault .noSuchDramAddress

/-- DECOMPRESS (R432): a DECOMPRESS job is submitted. -/
def execDecompress (descriptor : Nat) (s : State) : Host.Outcome State Fault Refusal :=
  if descriptorInDram descriptor then complete s (fun s => s.submit descriptor) else .fault .noSuchDramAddress

/-- COMPRESS_JOB_STOP (R433). -/
def execCompressJobStop (badRead : Option (Fin 2 × Nat)) (s : State) : Host.Outcome State Fault Refusal :=
  complete s (fun s => s.stopJob badRead)

/-- COMPRESS_JOB_RESUME (R434). -/
def execCompressJobResume (descriptor : Nat) (s : State) : Host.Outcome State Fault Refusal :=
  if descriptorInDram descriptor then complete s (fun s => s.resume descriptor) else .fault .noSuchDramAddress

end Sys2Proof.Machine
end

