-- ==== Sys2Proof/Machine/Plate.lean ====
section
/-! DEFINITION. The Plate recorder and the Shutter: the ring, triggers, the station bus, plates and their export (R392–R413). -/

namespace Sys2Proof.Machine

/-! ## Trigger records (R397) -/

/-- A trigger record by its fields. -/
structure Trigger where
  kind : Nat
  stationOut : Bool
  source : Nat
  mode : Nat
  severity : Nat
  level : F32
  span : Nat
  hyst : F32
  deriving DecidableEq, Repr

def parseTrigger (b : List Byte) : Trigger :=
  ⟨field b 0 1, (field b 1 1).testBit 0, field b 2 1, field b 3 1, field b 4 1 % 8, F32.ofBits (field b 8 4), field b 12 2, F32.ofBits (field b 16 4)⟩

/-- The value meets a LEVEL or RATE condition (R398). -/
def Trigger.meets (t : Trigger) (v : Rat) : Bool :=
  match t.mode % 4 with
  | 0 => decide (t.level.toRat ≤ v)
  | 1 => decide (v ≤ t.level.toRat)
  | _ => decide (t.level.toRat ≤ absRat v)

/-- The value has come back past LEVEL by HYST (R398). -/
def Trigger.back (t : Trigger) (v : Rat) : Bool :=
  !t.meets v &&
  (match t.mode % 4 with
   | 0 => decide (v ≤ t.level.toRat - t.hyst.toRat)
   | 1 => decide (t.level.toRat + t.hyst.toRat ≤ v)
   | _ => decide (absRat v ≤ t.level.toRat - t.hyst.toRat))

/-- The part of a sample step at which a LEVEL condition is met (R399); 1 where the two samples give no crossing between them (DESIGN CHOICE,
log entry 99). -/
def Trigger.ratio (t : Trigger) (v0 v1 : Rat) : Rat :=
  let m := fun (x : Rat) => if t.mode % 4 = 2 then absRat x else x
  if m v1 = m v0 then 1
  else
    let r := (t.level.toRat - m v0) / (m v1 - m v0)
    if 0 ≤ r ∧ r ≤ 1 then r else 1

/-- SETTLING, ABSENT or SOURCE_ERROR: a sample that neither fires nor changes a condition (R398). -/
def unusable (q : Quality) : Bool := q &&& 0x0602#16 != 0#16

namespace State

def trigger (s : State) (t : Nat) : Trigger := parseTrigger (s.cElem 0x9010 0x01 t)

def recorderState (s : State) : Nat := s.num 0x9000 0x02

def cond (s : State) (t : Nat) : Bool := nth s.rec_.conds t false
def setCond (s : State) (t : Nat) (b : Bool) : State := s.modRec (fun r => { r with conds := setNth r.conds t b })

/-! ## Plates (R403–R407) -/

/-- Sample index and FRAC of an ET on the present grid (R399). -/
def platePosition (s : State) (t : Et) : Int × Nat :=
  let x := s.epochSec (etToRat t) * 48000
  let k := x.floor
  let f := (roundRat ((x - k) * 65536)).toNat
  if f ≥ 65536 then (k + 1, 0) else (k, f)

def recording (s : State) : Option (Nat × Plate) := s.rec_.plates.find? (fun (p : Nat × Plate) => p.2.state = 1)

def setPlate (s : State) (slot : Nat) (p : Plate) : State := s.modRec (fun r => { r with plates := insertKey slot p r.plates })

/-- FREE segments of the present epoch that hold samples (R396). -/
def freeSegments (s : State) : List Segment :=
  (s.rec_.segs.filter (fun (g : Nat × Segment) => g.2.epoch = s.rec_.epoch ∧ !s.segHeld g.1 ∧ !g.2.rows.isEmpty)).map (·.2)

/-- The oldest available sample; the next one to come when none is. -/
def oldestAvailable (s : State) : Nat := (s.freeSegments.map (·.first)).foldl min s.loc.nextFixed

/-- The first sample of the unbroken available run that ends before sample k; `fuel` bounds the segments. -/
def runStart (free : List Segment) : Nat → Nat → Nat
  | 0, k => k
  | fuel + 1, k =>
    match free.find? (fun (g : Segment) => g.first < k ∧ k ≤ g.first + g.rows.length) with
    | some g => runStart free fuel g.first
    | none => k

/-- The longest post-trigger part (R405). -/
def maxPost (s : State) : Nat := (s.segments - 3) * 1024 - s.c 0x9000 0x03 * 48

/-- The lowest PLATES slot that is FREE or INVALID (R404). -/
def freeSlot (s : State) : Option Nat :=
  (List.range 64).find? (fun n => match lookup n s.rec_.plates with
    | none => true
    | some p => p.state = 0 ∨ p.state = 3)

/-- A plate closed at its last written sample, with CUT (R396, R407). -/
def cutPlate (s : State) : State :=
  match s.recording with
  | none => s
  | some (slot, p) =>
    let stop := min p.stop (max p.first s.loc.nextFixed)
    let cut : Bool := decide (stop < p.stop)
    (s.setPlate slot { p with state := 2, stop := stop, flags := if cut then p.flags ||| 16 else p.flags }).modRec (fun r => { r with
      lastEnd := s.fixedEt (stop - 1), autoFrom := s.raw })

/-- Acquisition stops under PROTECT (R407). -/
def stopRecorder (s : State) : State := (s.cutPlate.setN 0x9000 0x02 4).raiseEvent 92 0

/-- The held plate of lowest SEVERITY, the oldest of them (R407). -/
def victimPlate (s : State) : Option (Nat × Plate) :=
  s.rec_.plates.foldl (fun best x =>
    if x.2.state = 2 then
      match best with
      | none => some x
      | some b => if x.2.severity < b.2.severity ∨ (x.2.severity = b.2.severity ∧ x.2.number < b.2.number) then some x else best
    else best) none

/-- OVERWRITE invalidates a held plate: LOST, PLATE_LOST. The answer tells whether there was one. -/
def losePlate (s : State) : State × Bool :=
  match s.victimPlate with
  | none => (s, false)
  | some (slot, p) => (((s.setPlate slot { p with state := 3 }).inc32 0x9000 0x13).raiseEvent 90 p.number, true)

/-- Plates are invalidated until a need is met (R407); `fuel` bounds them. -/
def loseUntil (need : State → Bool) : Nat → State → State
  | 0, s => s
  | fuel + 1, s =>
    if need s then s
    else
      let r := s.losePlate
      if r.2 then loseUntil need fuel r.1 else s

/-- A trigger that finds no plate to be in (R403). -/
def missTrigger (s : State) (f : Firing) : State := (s.inc32 0x9000 0x12).raiseEvent 91 (f.trigger + f.severity * 256)

/-- A new plate with its trigger (R404, R405). -/
def openPlate (s : State) (slot : Nat) (f : Firing) : State :=
  let pos := s.platePosition f.et
  let want := s.c 0x9000 0x03 * 48
  let early : Bool := decide (pos.1 < (s.oldestAvailable : Int))
  let k := if early then s.oldestAvailable else pos.1.toNat
  let start := if early then k
    else max (k - want) (min k (runStart s.freeSegments (s.rec_.segs.length + 1) (min k s.loc.nextFixed)))
  let pre := k - start
  let ask := s.c 0x9000 0x04 * 48
  let post := min ask s.maxPost
  let segOf : Nat := match s.rec_.segs.find? (fun (g : Nat × Segment) =>
      g.2.epoch = s.rec_.epoch ∧ g.2.first ≤ start ∧ start < g.2.first + max 1 g.2.rows.length) with
    | some g => g.2.seq
    | none => match s.rec_.cur with
      | some c => (match lookup c s.rec_.segs with
        | some g => if g.epoch = s.rec_.epoch ∧ start < g.first + 1024 then g.seq else s.rec_.nextSeq
        | none => s.rec_.nextSeq)
      | none => s.rec_.nextSeq
  let p : Plate := {
    number := s.rec_.nextPlate, state := 1
    flags := bitsOfList [decide (pre < want), decide (post < ask), f.trigger == 32, f.trigger == 33]
    severity := f.severity, firstTrigger := f.trigger, firstSegment := segOf, startEt := s.fixedEt start, trigEt := f.et
    trigIndex := pre, trigFrac := if early then 0 else pos.2, pre := pre, epoch := s.rec_.epoch
    first := start, trig := k, stop := k + post, markers := [] }
  ((((s.setPlate slot p).modRec (fun r => { r with nextPlate := r.nextPlate + 1 })).setN 0x9000 0x02 2).inc32 0x9000 0x11).raiseEvent 88 p.number

/-- A trigger in ARMED: a slot by the policy of R407, then the plate. -/
def startPlate (s : State) (f : Firing) : State :=
  match s.freeSlot with
  | some slot => s.openPlate slot f
  | none =>
    if s.c 0x9000 0x08 = 1 then s.stopRecorder.missTrigger f
    else
      let t := loseUntil (fun u => u.freeSlot.isSome) 64 s
      match t.freeSlot with
      | some slot => t.openPlate slot f
      | none => t.missTrigger f

/-- A marker in the RECORDING plate (R406). -/
def addMarker (s : State) (f : Firing) : State :=
  match s.recording with
  | none => s
  | some (slot, p) =>
    let pos := s.platePosition f.et
    if p.markers.length < 32 then s.setPlate slot { p with
      severity := max p.severity f.severity, markers := p.markers ++ [⟨pos.1 - p.first, pos.2, f.trigger⟩] }
    else (s.setPlate slot { p with flags := p.flags ||| 64 }).inc32 0x9000 0x14

/-- RETRIGGER: the end is moved to t_p + POST_TRIGGER under R405. -/
def extendPlate (s : State) (f : Firing) : State :=
  match s.recording with
  | none => s
  | some (slot, p) =>
    let want := ((s.platePosition f.et).1 + s.c 0x9000 0x04 * 48).toNat
    let most := p.trig + s.maxPost
    let stop := max p.stop (min want most)
    s.setPlate slot { p with
      stop := stop
      flags := p.flags ||| (if p.stop < stop then 32 else 0) ||| (if most < want then 2 else 0) }

/-- A trigger, by STATE (R403). -/
def takeTrigger (s : State) (f : Firing) : State :=
  match s.recorderState with
  | 1 => s.startPlate f
  | 2 => let t := s.addMarker f
         if s.cB 0x9000 0x05 then t.extendPlate f else t
  | 3 | 4 => s.missTrigger f
  | _ => s

/-- The unit pulls XTRIG_N for XTRIG_WIDTH (R402). -/
def pullStation (s : State) : State :=
  if s.drivesStation ∧ !s.rec_.pulled then
    s.modRec (fun r => { r with pulled := true, pullEnd := s.raw + s.c 0x9000 0x0A * tickUs })
  else s

/-- A firing: with STATION_OUT while XARM_N is low it pulls XTRIG_N and waits for the edge; else it is a trigger (R402). -/
def fire (s : State) (stationOut : Bool) (f : Firing) : State :=
  if s.recorderState = 0 then s
  else if stationOut ∧ s.xarmLow then s.pullStation.modRec (fun r => { r with origins := r.origins ++ [f] })
  else s.takeTrigger f

/-- Firings of one tick, in order of trigger point and trigger number (R403). -/
def fireAll (s : State) (l : List (Firing × Bool)) : State :=
  (l.insertionSort (fun a b => a.1.et < b.1.et ∨ (a.1.et = b.1.et ∧ a.1.trigger ≤ b.1.trigger))).foldl (fun t x => t.fire x.2 x.1) s

/-- The trigger records of a kind that satisfy a condition fire at an ET. -/
def fireKind (s : State) (kind : Nat) (hit : Trigger → Bool) (at_ : Et) : State :=
  if s.recorderState = 0 then s
  else s.fireAll ((List.range 32).filterMap (fun n =>
    let t := s.trigger n
    if t.kind = kind ∧ hit t then some (⟨n, t.severity, at_⟩, t.stationOut) else none))

/-- BI_EDGE: band 2 accepted after band 1, or the reverse; t_p is LAST_CHANGE. -/
def biTrigger (s : State) (n before : Nat) : State :=
  let now := s.num (0x7120 + n) 0x07
  let edge := if before = 1 ∧ now = 2 then 1 else if before = 2 ∧ now = 1 then 2 else 0
  if edge = 0 then s
  else s.fireKind 3 (fun t => t.source = n && t.mode &&& edge == edge) (s.num (0x7120 + n) 0x0A)

/-- TI_EDGE: a capture of the selected edge. -/
def tiTrigger (s : State) (n : Nat) (rising : Bool) : State :=
  let edge := if rising then 1 else 2
  s.fireKind 4 (fun t => t.source = n && t.mode &&& edge == edge) (s.num (0x2210 + n) 0x07)

/-- ALARM: a rise of the routed state, at its delivery. -/
def alarmTrigger (s : State) (alarms : List Nat) : State := s.fireKind 5 (fun t => alarms.contains t.source) s.et

/-- ORRERY: a rise of a published signal at the output write. -/
def orreryTrigger (s : State) : State :=
  if s.recorderState = 0 then s
  else
    let now := fun (t : Trigger) => signalTrue (s.elem 0x7003 0x02 t.source)
    let hits := (List.range 32).filterMap (fun n =>
      let t := s.trigger n
      if t.kind = 6 ∧ now t ∧ !s.cond n then some ((⟨n, t.severity, s.et⟩ : Firing), t.stationOut) else none)
    let s1 := (List.range 32).foldl (fun u n => if (s.trigger n).kind = 6 then u.setCond n (now (s.trigger n)) else u) s
    s1.fireAll hits

/-- One evaluation of a LEVEL or RATE condition: the state with its condition, and whether it fires. -/
def judgeLevel (s : State) (n : Nat) (t : Trigger) (v : Rat) : State × Bool :=
  if s.cond n then ((if t.back v then s.setCond n false else s), false)
  else if t.meets v then (s.setCond n true, true)
  else (s, false)

/-- LEVEL and RATE on a fixed-rate sample (R398, R399). -/
def sampleTriggers (s : State) : State :=
  if s.recorderState = 0 ∨ s.loc.nextFixed = 0 then s
  else
    let n := s.loc.nextFixed - 1
    let r := (List.range 32).foldl (fun (acc : State × List (Firing × Bool)) i =>
      let t := s.trigger i
      if (t.kind = 1 ∧ !t.mode.testBit 2) ∨ t.kind = 2 then
        match (s.channel t.source).fixed with
        | [] => acc
        | x :: older =>
          let ref := if t.kind = 1 then some x else older[t.span - 1]?
          match ref with
          | none => acc
          | some y =>
            if unusable x.flags ∨ unusable y.flags then acc
            else
              let v := if t.kind = 1 then x.value.toRat else (x.value.sub y.value).toRat
              let j := acc.1.judgeLevel i t v
              if !j.2 then (j.1, acc.2)
              else
                let back : Rat := match t.kind, older with
                  | 1, y0 :: _ => 1 - t.ratio y0.value.toRat x.value.toRat
                  | _, _ => 0
                let step : Int := (s.fixedEt n : Int) - s.fixedEt (n - 1)
                let at_ := etShift (s.fixedEt n) (-(roundRat (back * step)))
                (j.1, acc.2 ++ [(⟨i, t.severity, at_⟩, t.stationOut)])
      else acc) (s, [])
    r.1.fireAll r.2

/-- LEVEL with RMS, at a tracked-cycle end (R398). -/
def rmsTriggers (s : State) : State :=
  if s.recorderState = 0 ∨ s.loc.nextTracked = 0 then s
  else
    let at_ := s.trackedEt (s.loc.nextTracked - 1)
    let r := (List.range 32).foldl (fun (acc : State × List (Firing × Bool)) i =>
      let t := s.trigger i
      if t.kind = 1 ∧ t.mode.testBit 2 ∧ !unusable (qUnion (((s.channel t.source).tracked.take 256).map (·.flags))) then
        let j := acc.1.judgeLevel i t (s.f32 (0x3000 + t.source) 0x0D).toRat
        (j.1, if j.2 then acc.2 ++ [((⟨i, t.severity, at_⟩ : Firing), t.stationOut)] else acc.2)
      else acc) (s, [])
    r.1.fireAll r.2

/-! ## The ring (R392–R396, R407) -/

/-- The next FREE position after the present one, in ring order. -/
def nextFree (s : State) : Option Nat :=
  let n := s.segments
  let from_ := match s.rec_.cur with
    | some c => c + 1
    | none => 0
  ((List.range n).map (fun i => (from_ + i) % n)).find? (fun p => !s.segHeld p)

/-- The digital states as they stood at an ET (R393). -/
def digitalAt (s : State) (t : Et) : DigitalState :=
  match s.rec_.digital.find? (fun (d : DigitalState) => d.et ≤ t) with
  | some d => d
  | none => s.rec_.digital.getLast?.getD ⟨t, 0, 0, 0⟩

/-- Sample n of every channel enters a segment, and its flags the QUALITY of its channel (R12, R394); the digital sample with every
fourth. -/
def appendSample (s : State) (pos n : Nat) : State :=
  let row := (List.range 48).map (fun ch =>
    if s.cB (0x3000 + ch) 0x01 then nth ((s.channel ch).fixed.map (·.code)) 0 0 else 0)
  let flags := (List.range 48).map (fun ch => match (s.channel ch).fixed with
    | x :: _ => qFlags x.flags
    | [] => 0#16)
  let d := s.digitalAt (s.fixedEt n)
  match lookup pos s.rec_.segs with
  | none => s
  | some g =>
    let g1 := { g with rows := row :: g.rows, quals := List.zipWith (fun q f => qMake true (qFlags q ||| f)) g.quals flags }
    let g2 := if n % 4 = 0 then { g1 with digital := d.bits :: g1.digital, biError := g1.biError ||| d.biError, orrAbsent := g1.orrAbsent ||| d.orrAbsent } else g1
    s.modRec (fun r => { r with segs := insertKey pos g2 r.segs })

/-- A new segment at a position (R394). -/
def openSegment (s : State) (pos n : Nat) : State :=
  s.modRec (fun r => { r with
    cur := some pos, nextSeq := r.nextSeq + 1
    segs := insertKey pos ⟨r.nextSeq, s.fixedEt n, r.epoch, n, List.replicate 48 0#16, 0, 0, [], []⟩ r.segs })

/-- The segment being written takes another sample of this epoch. -/
def segmentOpen (s : State) : Option Nat :=
  match s.rec_.cur with
  | none => none
  | some c => match lookup c s.rec_.segs with
    | some g => if g.epoch = s.rec_.epoch ∧ g.rows.length < 1024 ∧ c < s.segments then some c else none
    | none => none

/-- The newest sample written: into the present segment, or into the next FREE one by the policy of R407. -/
def writeSample (s : State) : State :=
  let n := s.loc.nextFixed - 1
  match s.segmentOpen with
  | some c => s.appendSample c n
  | none =>
    match s.nextFree with
    | some p => (s.openSegment p n).appendSample p n
    | none =>
      if s.c 0x9000 0x08 = 1 then s.stopRecorder
      else
        let t := loseUntil (fun u => u.nextFree.isSome) 64 s
        match t.nextFree with
        | some p => (t.openSegment p n).appendSample p n
        | none => t.stopRecorder

/-- Entry to ARMED other than after REARM: AUTO_PERIOD runs from here. -/
def armRecorder (s : State) : State := (s.setN 0x9000 0x02 1).modRec (fun r => { r with autoFrom := s.raw })

/-- The recorder takes a fixed-rate sample that has just been emitted (R392, R403). -/
def recordSample (s : State) : State :=
  if !s.cB 0x9000 0x01 ∨ !s.chainOn ∨ s.loc.nextFixed = 0 then s
  else
    let s1 := if s.recorderState = 0 then s.armRecorder else s
    let s2 := if s1.recorderState = 4 then s1 else s1.writeSample
    s2.sampleTriggers

/-- A RECORDING plate whose last sample is written, or whose epoch ends, becomes HELD: REARM, PLATE_COMPLETE (R403). -/
def completePlate (s : State) : State :=
  match s.recording with
  | none => s
  | some (_, p) => ((s.cutPlate).setN 0x9000 0x02 3).raiseEvent 89 p.number

/-- PLATE_COMPLETE, once the last post-trigger sample is written. -/
def plateComplete (s : State) : State :=
  match s.recording with
  | some (_, p) => if p.epoch = s.rec_.epoch ∧ p.stop ≤ s.loc.nextFixed then s.completePlate else s
  | none => s

/-- The epoch ends (R396). -/
def endEpoch (s : State) : State := s.completePlate

/-- Sample 0 of a new epoch. -/
def newEpoch (s : State) : State := s.modRec (fun r => { r with epoch := r.epoch + 1 })

/-- The recorder goes OFF: by a commit with ENABLE = 0, and in QUIET. -/
def recorderOff (s : State) : State := s.completePlate.setN 0x9000 0x02 0

/-- A changed plate ring starts empty (R562). -/
def emptyRing (s : State) : State :=
  let held := s.cutPlate
  (held.modRec (fun r => { r with segs := [], cur := none, chunks := [], plates := r.plates.map (fun (x : Nat × Plate) =>
      (x.1, if x.2.state = 2 then { x.2 with state := 3 } else x.2)) })).setN 0x9000 0x02
    (if s.recorderState = 2 then 3 else s.recorderState)

/-- REARM has elapsed since the plate's last sample (R403). -/
def rearm (s : State) : State :=
  if s.recorderState = 3 ∧ s.rec_.lastEnd + s.c 0x9000 0x06 * ms ≤ s.et then s.setN 0x9000 0x02 1 else s

/-- AUTO_PERIOD has elapsed (R411). -/
def autoFire (s : State) : State :=
  if s.c 0x9000 0x07 = 0 ∨ s.recorderState = 0 ∨ s.raw < s.rec_.autoFrom + s.c 0x9000 0x07 * tickSec then s
  else (s.modRec (fun r => { r with autoFrom := s.raw })).takeTrigger ⟨32, 0, s.et⟩

/-- A falling edge of XTRIG_N, stamped by the TDC (R402). -/
def stationEdge (s : State) (tdc : Nat) : State :=
  if s.c 0x9000 0x09 = 0 ∨ s.power ≠ 0 then s
  else
    let near : Bool := match s.rec_.edgeTick with
      | some t => decide (s.raw < t + 2 * s.c 0x9000 0x0A * tickUs)
      | none => false
    let s1 := s.modRec (fun r => { r with edgeTick := some s.raw })
    if near then s1
    else
      let at_ := s.et + s.eph.increment * (tdc % 128) / 128
      let s2 := s1.takeTrigger ⟨33, 7, at_⟩
      let s3 := s2.rec_.origins.foldl addMarker s2
      s3.modRec (fun r => { r with origins := [] })

/-- XTRIG_WIDTH has elapsed (R402). A trigger whose pull has made no edge that counts is in no plate (DESIGN CHOICE, log entry 99). -/
def releaseStation (s : State) : State :=
  if s.rec_.pulled ∧ s.rec_.pullEnd ≤ s.raw then s.modRec (fun r => { r with pulled := false, origins := [] }) else s

/-! ## Commands (R408–R411) -/

/-- TRIGGER_CMD naming a REMOTE record. -/
def triggerCmd (s : State) (n : Nat) : State :=
  if s.recorderState ≠ 1 ∧ s.recorderState ≠ 2 then s.quickCmd 0x9001 0x0003 []
  else (s.fire (s.trigger n).stationOut ⟨34, 0, s.et⟩).quickCmd 0x9001 0 []

/-- RESUME_CMD. -/
def resumeRecorder (s : State) : State :=
  if s.recorderState ≠ 4 then s.quickCmd 0x9002 0x0003 [] else s.armRecorder.quickCmd 0x9002 0 []

/-- A HELD plate by its number, with its slot. -/
def heldPlate (s : State) (number : Nat) : Option (Nat × Plate) :=
  s.rec_.plates.find? (fun (p : Nat × Plate) => p.2.state = 2 ∧ p.2.number = number)

/-- RELEASE_CMD (R408). -/
def releasePlate (s : State) (number : Nat) : State :=
  match s.heldPlate number with
  | none => s.quickCmd 0x9003 0x0003 []
  | some (slot, p) => (s.setPlate slot { p with state := 0 }).quickCmd 0x9003 0 []

end State

/-! ## COMTRADE (R409, R410) -/

/-- A number of n bytes, least significant byte first, as a COMTRADE binary file holds it (PRESUMED, log entry 52). -/
def leBytes (n v : Nat) : List Byte := (beBytes n v).reverse

/-- Year, month and day of a day number since 1970-01-01 (the civil calendar). -/
def civilDate (days : Int) : Int × Int × Int :=
  let z := days + 719468
  let era := z / 146097
  let doe := z - era * 146097
  let yoe := (doe - doe / 1460 + doe / 36524 - doe / 146096) / 365
  let doy := doe - (365 * yoe + yoe / 4 - yoe / 100)
  let mp := (5 * doy + 2) / 153
  let d := doy - (153 * mp + 2) / 5 + 1
  let m := if mp < 10 then mp + 3 else mp - 9
  let y := yoe + era * 400
  (if m ≤ 2 then y + 1 else y, m, d)

/-- A number in at least w decimal digits. -/
def digits (w : Nat) (n : Int) : List Byte :=
  let t := ascii (toString n)
  List.replicate (w - t.length) 0x30 ++ t

/-- Fields of a line, with commas and the closing CR LF. -/
def csvLine (l : List (List Byte)) : List Byte := ([0x2C].intercalate l) ++ [0x0D, 0x0A]

/-- An ET as a COMTRADE date and time in UTC, to the microsecond. -/
def comtradeTime (t : Et) (offset : Int) : List (List Byte) :=
  let utc : Int := (t : Int) - offset * sec
  let micros := utc / us
  let secs := micros / 1000000
  let date := civilDate (secs / 86400)
  let day := secs % 86400
  [digits 2 date.2.2 ++ ascii "/" ++ digits 2 date.2.1 ++ ascii "/" ++ digits 4 date.1,
   digits 2 (day / 3600) ++ ascii ":" ++ digits 2 (day / 60 % 60) ++ ascii ":" ++ digits 2 (day % 60) ++ ascii "." ++ digits 6 (micros % 1000000)]

namespace State

/-- The CFG line of an analog channel. -/
def analogLine (s : State) (ch : Nat) : List Byte :=
  let a : Rat := (s.cF32 (0x3000 + ch) 0x02).toRat / 2147483648
  let a := if s.cB (0x3000 + ch) 0x04 then -a else a
  let skew : Rat := mkRat (s.residual ch * 20345) 1000000
  csvLine [digits 1 (ch + 1 : Nat), Config.comtradeToken 0 ch, Config.comtradeToken 1 ch, Config.comtradeToken 2 ch,
    ascii (if ch % 6 < 3 then "kV" else "A"), Config.decimal a.num a.den, ascii "0", Config.decimal skew.num skew.den,
    Config.comtradeToken 3 ch, Config.comtradeToken 4 ch, ascii "1", ascii "1", ascii "P"]

/-- The configuration file of a plate (R409). -/
def cfgFile (s : State) (p : Plate) : List Byte :=
  csvLine [s.cBytes 0x9000 0x0C, serial, ascii "2013"] ++
  csvLine [ascii "88", ascii "48A", ascii "40D"] ++
  ((List.range 48).map s.analogLine).flatten ++
  ((List.range 40).map (fun n => csvLine [digits 1 (n + 1 : Nat), Config.comtradeToken 5 n, Config.comtradeToken 6 n, Config.comtradeToken 7 n,
    Config.comtradeToken 8 n])).flatten ++
  csvLine [digits 1 (s.c 0x3200 0x01)] ++ csvLine [ascii "1"] ++ csvLine [ascii "48000", digits 1 (p.stop - p.first : Nat)] ++
  csvLine (comtradeTime p.startEt (s.utcAt p.startEt)) ++ csvLine (comtradeTime p.trigEt (s.utcAt p.trigEt)) ++
  csvLine [ascii "BINARY32"] ++ csvLine [ascii "1"] ++ csvLine [ascii "+0h00", Config.comtradeToken 9 0] ++
  csvLine [ascii (if s.locked then "0" else "F"), digits 1 (s.num 0x2000 0x15)]

/-- Bytes of a plate's DAT file. -/
def datLength (p : Plate) : Nat := 206 * (p.stop - p.first)

/-- EXPORT_CMD of a held plate; the rest follows at its completion. -/
def exportPlate (s : State) (number : Nat) : State :=
  match s.heldPlate number with
  | none => s.quickCmd 0x9013 0x0003 []
  | some _ => (s.startCmd 0x9013).addJob ⟨0x9013, 0, [], .exportPlate number⟩

/-- The end of EXPORT_CMD. -/
def finishExport (s : State) (number : Nat) : State :=
  match s.heldPlate number with
  | none => s.finishCmd 0x9013 0x0003 []
  | some (_, p) =>
    let file := (s.cfgFile p).take 32768
    (((s.modRec (fun r => { r with exported := some number, exportCfg := file, chunks := [] })).setN 0x9012 0x09 file.length).setN
      0x9012 0x04 ((datLength p + 65535) / 65536)).finishCmd 0x9013 0 (beBytes 4 number ++ beBytes 4 (p.stop - p.first))

/-- The exported plate, while it is held (R408). -/
def exportedPlate (s : State) : Option Plate :=
  match s.rec_.exported with
  | some n => (s.heldPlate n).map (·.2)
  | none => none

/-- The DAT record of a plate's sample i: number, time, analog values, digital words. -/
def datRecord (s : State) (p : Plate) (i : Nat) : List Byte :=
  let n := p.first + i
  match s.rec_.segs.find? (fun (g : Nat × Segment) => g.2.epoch = p.epoch ∧ g.2.first ≤ n ∧ n < g.2.first + g.2.rows.length) with
  | none => List.replicate 206 0
  | some (_, g) =>
    let row := nth g.rows (g.rows.length - 1 - (n - g.first)) []
    let dig := nth g.digital (g.digital.length - 1 - (n / 4 - (g.first + 3) / 4)) 0
    leBytes 4 (i + 1) ++ leBytes 4 (roundDiv (i * 125) 6).toNat ++
    ((List.range 48).map (fun ch => leBytes 4 (if s.cB (0x3000 + ch) 0x01 then lowBits 32 (nth row ch 0) else 0x80000000))).flatten ++
    leBytes 2 dig ++ leBytes 2 (dig / 65536) ++ leBytes 2 (dig / 4294967296)

/-- DAT bytes 65,536 × b to 65,536 × b + 65,535 (R410). -/
def datBlock (s : State) (p : Plate) (b : Nat) : List Byte :=
  let off := 65536 * b
  let stop := min (off + 65536) (datLength p)
  if stop ≤ off then []
  else
    let i0 := off / 206
    let i1 := (stop + 205) / 206
    (((List.range (i1 - i0)).map (fun i => s.datRecord p (i0 + i))).flatten.drop (off - 206 * i0)).take (stop - off)

/-- A write of EXPORT_SEEK: the chunk is being built. -/
def seekExport (s : State) (sess block : Nat) : State :=
  s.modRec (fun r => { r with chunks := r.chunks.filter (fun (c : ExportChunk) => c.session ≠ sess) ++ [⟨sess, block, false, [], false⟩] })

/-- EXPORT_CHUNK_READY: the chunk becomes readable, compressed with EXPORT_FORMAT 1. -/
def chunkReady (s : State) (sess : Nat) : State :=
  match s.chunk sess, s.exportedPlate with
  | some c, some p =>
    if c.ready then s
    else
      let b := s.datBlock p c.block
      let r := if s.num 0x9012 0x02 = 1 then s.compressBlock b else (s, b, false)
      r.1.modRec (fun x => { x with chunks := x.chunks.map (fun (y : ExportChunk) =>
        if y.session = sess then { y with ready := true, bytes := r.2.1, raw := r.2.2 } else y) })
  | _, _ => s

end State

/-! ## The commands of this file -/

/-- PLATE_COMPLETE (R403). -/
def execPlateComplete (s : State) : Host.Outcome State Fault Refusal := complete s State.plateComplete

/-- REARM_EXPIRY (R403). -/
def execRearmExpiry (s : State) : Host.Outcome State Fault Refusal := complete s State.rearm

/-- AUTO_TRIGGER (R411). -/
def execAutoTrigger (s : State) : Host.Outcome State Fault Refusal := complete s State.autoFire

/-- STATION_TRIGGER_EDGE (R402). -/
def execStationTriggerEdge (tdc : Nat) (s : State) : Host.Outcome State Fault Refusal :=
  complete s (fun s => s.stationEdge tdc)

/-- XTRIG_RELEASE (R402). -/
def execXtrigRelease (s : State) : Host.Outcome State Fault Refusal := complete s State.releaseStation

/-- EXPORT_CHUNK_READY (R410). -/
def execExportChunkReady (session : Nat) (s : State) : Host.Outcome State Fault Refusal :=
  complete s (fun s => s.chunkReady session)

end Sys2Proof.Machine
end

