-- ==== Sys2Proof/Machine/Ptp.lean ====
section
/-! DEFINITION. The PTP engine (R102–R110, R122, R125): the default BMCA, Sync and peer-delay exchanges, the transmit-timestamp queues,
and the transparent clock. -/

namespace Sys2Proof.Machine

/-- Lexicographic order of the numbers of two data sets: the first is better (R103, IEEE 1588's default BMCA). -/
def lexLess : List Nat → List Nat → Bool
  | [], _ => false
  | _, [] => false
  | a :: as, b :: bs => decide (a < b) || (a == b && lexLess as bs)

/-- What an Announce says of its grandmaster, in the order of comparison. -/
def gmNumbers (m : PtpMsg) : List Nat :=
  [m.gmPriority1, m.gmClockClass, m.gmAccuracy, m.gmVariance, m.gmPriority2, beNat m.gmIdentity]

/-- A sender as a number that orders port identities. -/
def senderNumber (m : PtpMsg) : Nat := beNat m.sourceId * 65536 + m.sourcePort

/-- An Announce received on a port is better than another one. -/
def announceBetter (a b : Nat × PtpMsg) : Bool :=
  if a.2.gmIdentity == b.2.gmIdentity then
    lexLess [a.2.stepsRemoved, senderNumber a.2, a.1] [b.2.stepsRemoved, senderNumber b.2, b.1]
  else lexLess (gmNumbers a.2) (gmNumbers b.2)

/-- The best of a list of Announces. -/
def bestOf (l : List (Nat × PtpMsg)) : Option (Nat × PtpMsg) :=
  l.foldl (fun best a =>
    match best with
    | none => some a
    | some b => if announceBetter a b then some a else best) none

/-- A correctionField in units of 2^-16 ns, held in 2^-32 ns. -/
def corrRound (x : Int) : Int := roundDiv x 65536 * 65536

namespace State

def ptpPort (s : State) (p : Nat) : PtpPort :=
  nth s.ptp.ports p ⟨[], 0, 0, 0, 0, none, none, 0, none, none, none, none, 0, none, [], 0, 0, []⟩

def modPtpPort (s : State) (p : Nat) (f : PtpPort → PtpPort) : State :=
  s.modPtp (fun x => { x with ports := modNth x.ports p f })

/-- PTP_MODE: 0 OFF, 1 ordinary, 2 boundary, 3 transparent. -/
def ptpMode (s : State) : Nat := s.c 0x2100 0x01

/-- Port p takes part. -/
def ptpOn (s : State) (p : Nat) : Bool :=
  s.portOn p && !s.quiet && s.ptpMode != 0 && (s.c 0x2100 0x06).testBit p

def clockIdentity (s : State) : List Byte := s.bytes 0x2100 0x0C

/-- PORT_STATE: 3 DISABLED, 4 LISTENING, 5 PRE_MASTER, 6 MASTER, 7 PASSIVE, 8 UNCALIBRATED, 9 SLAVE. -/
def ptpState (s : State) (p : Nat) : Nat := s.num (0x2110 + p) 0x01

/-- 2^log seconds in ticks, for logs from −4. -/
def logTicks (log : Int) : Nat := tickSec * 2 ^ (log + 4).toNat / 16

def announceTicks (s : State) : Nat := logTicks (s.cI 0x2100 0x08)

/-- The transmit timestamp (R107, R108): TDC-refined to 0.1 ns on P0–P3, of the present tick on P4 and P5, plus TX_DELAY. -/
def txStamp (s : State) (p tdc : Nat) : Et :=
  etShift (s.et + (if p < 4 then s.eph.increment * (tdc % 25) / 25 else 0)) (psToEt (s.cI (0x2110 + p) 0x03))

/-! ## The data sets -/

/-- The default data set (R103): clockClass 248; accuracy and variance unknown. -/
def ownNumbers (s : State) : List Nat :=
  [s.c 0x2100 0x04, 248, 0xFE, 0xFFFF, s.c 0x2100 0x05, beNat s.clockIdentity]

/-- Qualified foreign masters of a port. -/
def candidates (s : State) (p : Nat) : List (Nat × PtpMsg) :=
  ((s.ptpPort p).foreign.filter (fun f => f.qualified && decide (f.msg.stepsRemoved < 255))).map (fun f => (p, f.msg))

/-- Port p loses the foreign masters that announceReceiptTimeout has passed by. -/
def expireForeign (s : State) (p : Nat) : State :=
  s.modPtpPort p (fun x => { x with
    foreign := x.foreign.filter (fun f => decide (s.raw < f.tick + s.c 0x2100 0x0B * s.announceTicks)) })

/-- The state the default BMCA gives port p, for the best Announce of all and the port's own best; `listening` keeps a port that
has heard nothing in LISTENING. A transparent clock's ports only listen or follow. -/
def decideState (s : State) (p : Nat) (best own : Option (Nat × PtpMsg)) (listening : Bool) : Nat :=
  let asMaster := if s.ptpMode = 3 then 4 else 6
  match best with
  | none => if listening then 4 else asMaster
  | some b =>
    if b.1 = p ∧ !lexLess s.ownNumbers (gmNumbers b.2) then
      (match s.ptp.parent with
       | some q => if q.1 = p ∧ senderNumber q.2 = senderNumber b.2 ∧ s.ptpState p = 9 then 9 else 8
       | none => 8)
    else
      match own with
      | none => if listening then 4 else if lexLess s.ownNumbers (gmNumbers b.2) ∨ s.ptpState p = 6 ∨ s.ptpMode = 3 then asMaster else 5
      | some r =>
        if lexLess s.ownNumbers (gmNumbers b.2) then asMaster
        else if r.2.gmIdentity == b.2.gmIdentity &&
            (r.2.stepsRemoved == b.2.stepsRemoved ||
             (r.2.stepsRemoved == b.2.stepsRemoved + 1 && decide (beNat r.2.sourceId < beNat s.clockIdentity))) then
          (if s.ptpMode = 3 then 4 else 7)
        else if s.ptpMode = 3 then 4
        else if s.ptpState p = 6 then 6 else 5

/-- A port enters a state. -/
def enterPortState (s : State) (p st : Nat) (steps : Nat) : State :=
  if s.ptpState p = st then s
  else
    (s.setN (0x2110 + p) 0x01 st).modPtpPort p (fun x => { x with
      sync := none, sentTick := s.raw - s.announceTicks
      masterTick := if st = 5 then s.raw + (steps + 1) * s.announceTicks else x.masterTick })

/-- UTC_OFFSET_VALID, UTC_OFFSET and LEAP_PENDING from the parent's Announce while a PTP reference is present (R102). LEAP_PENDING stays when
that reference is lost (DESIGN CHOICE, log entry 79). -/
def takeUtc (s : State) : State :=
  match s.ptp.parent with
  | some (_, m) =>
    let t := ((s.setB 0x2100 0x12 m.utcOffsetValid).modEph (fun e => { e with
      ptpUtc := if m.utcOffsetValid then some m.utcOffset else none })).refreshUtc
    if t.refPresent 1 then t.setLeap (if m.leap61 then 1 else if m.leap59 then 2 else 0) else t
  | none => ((s.setB 0x2100 0x12 false).modEph (fun e => { e with ptpUtc := none })).refreshUtc

/-- GM_IDENTITY, STEPS_REMOVED and SLAVE_PORT after the port states; a change raises PTP_PARENT_CHANGED (R125). -/
def followParent (s : State) : State :=
  let slave := ((List.range 6).find? (fun p => s.ptpState p = 9)).getD 0xFF
  let master := (List.range 6).any (fun p => s.ptpState p = 6)
  let gm := match s.ptp.parent with
    | some q => q.2.gmIdentity
    | none => if master then s.clockIdentity else s.bytes 0x2100 0x0D
  let steps := match s.ptp.parent with
    | some q => q.2.stepsRemoved + 1
    | none => 0
  let t := (((s.setBytes 0x2100 0x0D gm).setN 0x2100 0x11 slave).setN 0x2100 0x10 steps).takeUtc
  if gm = s.bytes 0x2100 0x0D ∧ slave = s.num 0x2100 0x11 then t else t.raiseEvent 3 0

/-- The BMCA (R103): every taking-part port's state, and the parent. `forced` is a port whose wait in LISTENING is over. -/
def bmca (s : State) (forced : Option Nat) : State :=
  let ports := (List.range 6).filter (fun p => s.ptpState p != 3)
  let best := bestOf (ports.flatMap s.candidates)
  let steps := match best with
    | some b => b.2.stepsRemoved
    | none => 0
  let states := ports.map (fun p =>
    (p, s.decideState p best (bestOf (s.candidates p)) (s.ptpState p == 4 && forced != some p)))
  let t := states.foldl (fun (u : State) (x : Nat × Nat) => u.enterPortState x.1 x.2 steps) s
  let parent := match best with
    | some b => if states.any (fun (x : Nat × Nat) => x.1 = b.1 && (x.2 = 8 || x.2 = 9)) then some b else none
    | none => none
  (t.modPtp (fun x => { x with parent := parent })).followParent

/-- The engine begins anew with the committed PTP configuration: taking-part ports LISTEN, the others are DISABLED. -/
def initPtp (s : State) : State :=
  let t := (List.range 6).foldl (fun u p =>
    (u.setN (0x2110 + p) 0x01 (if u.ptpOn p then 4 else 3)).modPtpPort p (fun x => { x with
      foreign := [], announceTick := u.raw, sync := none, request := none, pdelayT1 := none, pdelayT2 := none,
      pdelayT3 := none, pdelayT4 := none, prev := none, txts := [], residence := [], syncDue := 0, pdelayDue := 0 })) s
  (t.modPtp (fun x => { x with parent := none })).followParent

/-! ## Received messages -/

/-- The engine supports a message (R103): layer 2, the domain, the message types of the peer-to-peer mechanism, Sync intervals. -/
def ptpSupported (s : State) (m : PtpMsg) : Bool :=
  m.layer2 && m.domain == s.c 0x2100 0x03 && [0, 2, 3, 8, 0xA, 0xB].contains m.msgType &&
  (m.msgType != 0 || (decide (-4 ≤ m.logInterval) && decide (m.logInterval ≤ 1)))

/-- An offset measurement: OFFSET_FROM_MASTER and MEAN_LINK_DELAY; an UNCALIBRATED port becomes SLAVE. -/
def ptpOffset (s : State) (p : Nat) (rx origin : Et) (correction : Int) : State :=
  let delay := s.int (0x2110 + p) 0x04
  let o : Int := (rx : Int) - origin - correction - psToEt delay
  let t := (s.setI 0x2100 0x0E (sat64 (etToPs o))).setI 0x2100 0x0F delay
  if t.ptpState p = 8 then (t.enterPortState p 9 0).followParent else t

/-- A message is the parent's, on its port. -/
def fromParent (s : State) (p : Nat) (m : PtpMsg) : Bool :=
  match s.ptp.parent with
  | some q => q.1 == p && senderNumber q.2 == senderNumber m && (s.ptpState p == 8 || s.ptpState p == 9)
  | none => false

/-- A Sync: one-step measures at once, two-step waits for its Follow_Up. -/
def ptpSync (s : State) (p : Nat) (m : PtpMsg) (rx : Et) : State :=
  if !s.fromParent p m then s
  else if m.twoStep then s.modPtpPort p (fun x => { x with sync := some (m, rx) })
  else s.ptpOffset p rx m.stamp m.correction

def ptpFollowUp (s : State) (p : Nat) (m : PtpMsg) : State :=
  match (s.ptpPort p).sync with
  | some (y, rx) =>
    if s.fromParent p m ∧ y.seqId = m.seqId then
      (s.modPtpPort p (fun x => { x with sync := none })).ptpOffset p rx m.stamp (y.correction + m.correction)
    else s
  | none => s

/-- The peer delay once t1, t2, t3 and t4 are known, with the neighbour rate ratio from the exchange before. -/
def peerDelay (s : State) (p : Nat) : State :=
  let x := s.ptpPort p
  match x.pdelayT1, x.pdelayT2, x.pdelayT3, x.pdelayT4 with
  | some t1, some t2, some t3, some t4 =>
    let d : Int := ((t4 : Int) - t1 - ((t3 : Int) - t2) - x.pdelayCorrection) / 2
    let s1 := s.setI (0x2110 + p) 0x04 (sat64 (etToPs d))
    let s2 := match x.prev with
      | some (p3, p4) =>
        if p3 < t3 ∧ p4 < t4 then s1.setF64 (0x2110 + p) 0x05 (F64.ofRat (((t3 - p3 : Nat) : Rat) / ((t4 - p4 : Nat) : Rat))) else s1
      | none => s1
    s2.modPtpPort p (fun y => { y with
      prev := some (t3, t4), pdelayT1 := none, pdelayT2 := none, pdelayT3 := none, pdelayT4 := none })
  | _, _, _, _ => s

/-- The message answers the port's own present Pdelay_Req. -/
def answersUs (s : State) (p : Nat) (m : PtpMsg) : Bool :=
  m.requestingId == s.clockIdentity && m.requestingPort == p + 1 && m.seqId == (s.ptpPort p).pdelaySeq

def ptpPdelayResp (s : State) (p : Nat) (m : PtpMsg) (rx : Et) : State :=
  if !s.answersUs p m then s
  else
    (s.modPtpPort p (fun x => { x with
      pdelayT2 := some m.stamp, pdelayT4 := some rx, pdelayCorrection := m.correction
      pdelayT3 := if m.twoStep then none else some m.stamp })).peerDelay p

def ptpPdelayFollowUp (s : State) (p : Nat) (m : PtpMsg) : State :=
  if !s.answersUs p m ∨ (s.ptpPort p).pdelayT2.isNone then s
  else
    (s.modPtpPort p (fun x => { x with
      pdelayT3 := some m.stamp, pdelayCorrection := x.pdelayCorrection + m.correction })).peerDelay p

/-- An Announce (R103): a foreign master is qualified by its second Announce within four intervals; the BMCA follows. -/
def ptpAnnounce (s : State) (p : Nat) (m : PtpMsg) : State :=
  if m.sourceId == s.clockIdentity then s
  else
    let old := (s.ptpPort p).foreign.find? (fun f => senderNumber f.msg = senderNumber m)
    let q : Bool := match old with
      | some f => decide (s.raw ≤ f.tick + 4 * s.announceTicks)
      | none => false
    let t := s.modPtpPort p (fun x => { x with
      foreign := x.foreign.filter (fun f => senderNumber f.msg != senderNumber m) ++ [⟨m, s.raw, q⟩]
      announceTick := s.raw })
    let u := match m.alternateOffset with
      | some a => t.modPtp (fun x => { x with alternate := some a })
      | none => t
    u.bmca none

/-- A received PTP message (R103). A port that takes no part hands it to nobody; a second Pdelay_Req takes the place of one whose response
is still due (DESIGN CHOICE, log entry 81). -/
def ptpReceive (s : State) (p : Nat) (m : PtpMsg) (tdc : Nat) : State :=
  if !s.ptpOn p then s
  else if !s.ptpSupported m then s.modPtp (fun x => { x with discarded := x.discarded + 1 })
  else
    let rx := s.rxStamp p tdc
    match m.msgType with
    | 0 => s.ptpSync p m rx
    | 2 => s.modPtpPort p (fun x => { x with request := some (m, rx) })
    | 3 => s.ptpPdelayResp p m rx
    | 8 => s.ptpFollowUp p m
    | 0xA => s.ptpPdelayFollowUp p m
    | _ => s.ptpAnnounce p m

/-- announceReceiptTimeout on port p (R103). -/
def announceTimeout (s : State) (p : Nat) : State :=
  if s.ptpOn p ∧ [4, 7, 8, 9].contains (s.ptpState p) ∧
      s.raw ≥ (s.ptpPort p).announceTick + s.c 0x2100 0x0B * s.announceTicks then
    ((s.expireForeign p).modPtpPort p (fun x => { x with announceTick := s.raw })).bmca (some p)
  else s

/-! ## Sent messages -/

/-- A message of the engine's own, from port p. -/
def ptpOwn (s : State) (p type seq : Nat) (stamp : Et) : PtpMsg :=
  { msgType := type, layer2 := true, domain := s.c 0x2100 0x03, twoStep := type == 0 || type == 3
    sourceId := s.clockIdentity, sourcePort := p + 1, seqId := seq % 65536, correction := 0, stamp := stamp
    logInterval := if type = 0xB then s.cI 0x2100 0x08 else if type = 0 ∨ type = 8 then s.cI 0x2100 0x09 else 0x7F
    requestingId := List.replicate 8 0, requestingPort := 0
    gmIdentity := s.clockIdentity, gmPriority1 := s.c 0x2100 0x04, gmClockClass := 248, gmAccuracy := 0xFE, gmVariance := 0xFFFF
    gmPriority2 := s.c 0x2100 0x05, stepsRemoved := s.num 0x2100 0x10, utcOffset := s.int 0x2000 0x13
    utcOffsetValid := s.flag 0x2100 0x12, leap61 := s.num 0x2000 0x15 == 1, leap59 := s.num 0x2000 0x15 == 2
    c37Inaccuracy := none, alternateOffset := none }

/-- The Announce of a master port: the parent's grandmaster, or the clock itself; with C37.238 the totalTimeInaccuracy of the
parent's TLV increased by 50 ns (R103). -/
def ptpAnnounceOut (s : State) (p : Nat) : PtpMsg :=
  let m := s.ptpOwn p 0xB (s.ptpPort p).announceSeq 0
  match s.ptp.parent with
  | none => m
  | some (_, q) =>
    { m with
      gmIdentity := q.gmIdentity, gmPriority1 := q.gmPriority1, gmClockClass := q.gmClockClass, gmAccuracy := q.gmAccuracy
      gmVariance := q.gmVariance, gmPriority2 := q.gmPriority2
      c37Inaccuracy := if s.c 0x2100 0x02 = 1 then q.c37Inaccuracy.map (· + 50) else none }

/-- A transmit timestamp enters the port's queue, or is discarded when 32 wait (R109, R110). -/
def pushTxts (s : State) (p type seq : Nat) (stamp : Et) : State :=
  if (s.ptpPort p).txts.length < 32 then
    s.modPtpPort p (fun x => { x with
      txts := x.txts ++ [([byte p, byte (type % 16)] ++ beBytes 2 (seq % 65536) ++ etBytes stamp, !s.locked)] })
  else ((s.setB (0x2110 + p) 0x07 true).inc32 (0x2110 + p) 0x08).raiseEvent 4 p

/-- The engine may transmit this event message now, while the port honours no pause (R179, R182): a Sync on a MASTER port at its interval, a
Pdelay_Req on a taking-part port at its interval (R122), and a Pdelay_Resp to the Pdelay_Req that waits. -/
def mayTransmit (s : State) (p type seq : Nat) : Bool :=
  s.ptpOn p && s.portUp p && !s.pausing p && !s.boot.paused &&
  (match type with
   | 0 => s.ptpState p == 6 && decide ((s.ptpPort p).syncDue ≤ s.raw)
   | 2 => decide ((s.ptpPort p).pdelayDue ≤ s.raw)
   | 3 =>
     (match (s.ptpPort p).request with
      | some r => r.1.seqId == seq % 65536
      | none => false)
   | _ => false)

/-- A two-step event message leaves, and its timestamp enters the queue (R109). -/
def ptpTransmit (s : State) (p type seq tdc : Nat) : State :=
  if !s.mayTransmit p type seq then s
  else
    let base := s.ptpOwn p type seq 0
    let m : PtpMsg :=
      if type = 3 then
        match (s.ptpPort p).request with
        | some r => { base with requestingId := r.1.sourceId, requestingPort := r.1.sourcePort, stamp := r.2 }
        | none => base
      else base
    let t := (s.send p 3 (.ptp p m)).pushTxts p type seq (s.txStamp p tdc)
    if type = 2 then
      t.modPtpPort p (fun x => { x with
        pdelaySeq := seq % 65536, pdelayT1 := none, pdelayT2 := none, pdelayT3 := none, pdelayT4 := none
        pdelayDue := s.raw + logTicks (s.cI 0x2100 0x0A) })
    else if type = 0 then t.modPtpPort p (fun x => { x with syncDue := s.raw + logTicks (s.cI 0x2100 0x09) })
    else t

/-- The engine reads the oldest entry of a port's queue (R109): a Follow_Up or a Pdelay_Resp_Follow_Up leaves, or t1 is known. -/
def readTxts (s : State) (p : Nat) : State :=
  match (s.ptpPort p).txts with
  | [] => s
  | e :: rest =>
    let t := s.modPtpPort p (fun x => { x with txts := rest })
    let type := field e.1 1 1
    let seq := field e.1 2 2
    let stamp := field e.1 4 12
    if type = 0 then t.send p 3 (.ptp p (t.ptpOwn p 8 seq stamp))
    else if type = 2 then
      (if (t.ptpPort p).pdelaySeq = seq then (t.modPtpPort p (fun x => { x with pdelayT1 := some stamp })).peerDelay p else t)
    else
      match (t.ptpPort p).request with
      | some r =>
        if r.1.seqId = seq then
          (t.send p 3 (.ptp p { t.ptpOwn p 0xA seq stamp with
            requestingId := r.1.sourceId, requestingPort := r.1.sourcePort, correction := r.1.correction })).modPtpPort p
            (fun x => { x with request := none })
        else t
      | none => t

/-- What the engine does by itself on a port as time passes: it reads its queue, PRE_MASTER ends, and a MASTER port announces. -/
def ptpTick (s : State) (p : Nat) : State :=
  if !s.ptpOn p ∨ s.boot.paused then s
  else
    let t := s.readTxts p
    let u := if t.ptpState p = 5 ∧ t.raw ≥ (t.ptpPort p).masterTick then (t.enterPortState p 6 0).followParent else t
    if u.ptpState p = 6 ∧ u.raw ≥ (u.ptpPort p).sentTick + u.announceTicks then
      (u.send p 3 (.ptp p (u.ptpAnnounceOut p))).modPtpPort p (fun x => { x with
        sentTick := u.raw, announceSeq := (x.announceSeq + 1) % 65536 })
    else u

/-- TXTS_CLEAR (R110, R122). -/
def txtsClear (s : State) (p : Nat) : State :=
  ((s.setB (0x2110 + p) 0x07 false).setN (0x2110 + p) 0x08 0).setN (0x2110 + p) 0x0B 0

/-! ## The transparent clock (R105, R106) -/

/-- Two ports between which the transparent clock forwards. -/
def tcPorts (s : State) (ingress egress : Nat) : Bool :=
  s.ptpMode == 3 && s.ptpOn ingress && s.ptpOn egress && ingress != egress

/-- The residence time plus the ingress link's peer delay scaled by the neighbour rate ratio (R105). -/
def tcSum (s : State) (ingress : Nat) (rx tx : Et) : Int :=
  corrRound ((tx : Int) - rx +
    roundRat ((s.int (0x2110 + ingress) 0x04 : Rat) * (s.f64 (0x2110 + ingress) 0x05).toRat * 4294967296 / 1000))

/-- A forwarded Sync that came `rxAgo` ticks ago (R105, R106): its correctionField grows while it passes, or the sum waits in the residence
table of 16 entries; a full table takes no more, and the Sync is forwarded all the same (DESIGN CHOICE, log entry 78). A port that honours
pause forwards nothing yet. -/
def tcSync (s : State) (ingress egress : Nat) (m : PtpMsg) (rxAgo rxTdc tdc : Nat) : State :=
  if !s.tcPorts ingress egress ∨ m.msgType ≠ 0 ∨ !s.portUp egress ∨ s.pausing egress then s
  else
    let rx := s.stampRx ingress (etShift s.et (-(rxAgo * s.eph.increment : Nat))) rxTdc
    let tx := s.txStamp egress tdc
    let sum := s.tcSum ingress rx tx
    let t := s.setMax (0x2110 + egress) 0x0B (min 4294967295 (etToPs ((tx : Int) - rx)).toNat)
    if !m.twoStep ∨ s.cB 0x2100 0x07 then t.send egress 3 (.ptp egress { m with correction := m.correction + sum })
    else
      let u := t.send egress 3 (.ptp egress m)
      if (u.ptpPort egress).residence.length < 16 then
        u.modPtpPort egress (fun x => { x with
          residence := x.residence ++ [⟨ingress, m.sourceId, m.sourcePort, m.seqId, sum, u.raw⟩] })
      else u

/-- The key of the residence table (R105). -/
def tcMatches (ingress : Nat) (m : PtpMsg) (r : Residence) : Bool :=
  r.ingress == ingress && r.sourceId == m.sourceId && r.sourcePort == m.sourcePort && r.seqId == m.seqId

/-- A forwarded Follow_Up (R105, R106). -/
def tcFollowUp (s : State) (ingress egress : Nat) (m : PtpMsg) : State :=
  if !s.tcPorts ingress egress ∨ m.msgType ≠ 8 then s
  else if s.cB 0x2100 0x07 then s.send egress 3 (.ptp egress m)
  else
    match (s.ptpPort egress).residence.find? (tcMatches ingress m) with
    | some r =>
      (s.send egress 3 (.ptp egress { m with correction := m.correction + r.amount })).modPtpPort egress (fun x => { x with
        residence := x.residence.filter (fun y => !tcMatches ingress m y) })
    | none => (s.send egress 3 (.ptp egress m)).inc32 (0x2110 + egress) 0x0A

/-- Entries of a residence table that are 1 s old go (R105). -/
def tcExpire (s : State) (egress : Nat) : State :=
  s.modPtpPort egress (fun x => { x with residence := x.residence.filter (fun y => decide (s.raw < y.tick + tickSec)) })

/-! ## The firmware servo (R100, R101, R565) -/

/-- A reference kind's number in REF_PRIMARY. -/
def refNumber : RefKind → Nat
  | .none => 0
  | .ptp => 1
  | .irigB => 2
  | .pps => 3

/-- The firmware servo on an offset measurement in ps (R100, R565): an immediate step, or a new increment; then one report with
REF_PRESENT at 1. -/
def servo (s : State) (ref : RefKind) (o : Int) : State :=
  if s.c 0x2000 0x0B ≠ 0 ∨ !s.started ∨ s.stage = 15 ∨ s.quiet ∨ s.boot.paused ∨ refNumber ref = 0 ∨ refNumber ref ≠ s.selectedRef then s
  else
    let t :=
      if o.natAbs > s.c 0x2000 0x18 * 1000 then
        s.modEph (fun e => { e with step := some ⟨psToEt (-o), none, false⟩ })
      else
        let r := s.servoControl ((o : Rat) / 1000)
        (s.sendIncrement r.2).modEph (fun e => { e with integ := r.1 })
    (t.setB 0x2000 0x0D true).report o

end State

/-- PTP_MESSAGE_RECEIVE (R103). -/
def execPtpMessageReceive (port : Fin 6) (msg : PtpMsg) (tdc : Nat) (s : State) : Host.Outcome State Fault Refusal :=
  complete s (fun s => s.ptpReceive port.val msg tdc)

/-- PTP_ANNOUNCE_TIMEOUT (R103). -/
def execPtpAnnounceTimeout (port : Fin 6) (s : State) : Host.Outcome State Fault Refusal :=
  complete s (fun s => s.announceTimeout port.val)

/-- PTP_MESSAGE_TRANSMIT (R109). -/
def execPtpMessageTransmit (port : Fin 6) (msgType seqId tdc : Nat) (s : State) : Host.Outcome State Fault Refusal :=
  complete s (fun s => s.ptpTransmit port.val msgType seqId tdc)

/-- TC_FORWARD_SYNC (R105, R106). -/
def execTcForwardSync (ingress egress : Fin 6) (msg : PtpMsg) (rx : RxTime) (tdc : Nat) (s : State) :
    Host.Outcome State Fault Refusal :=
  complete s (fun s => s.tcSync ingress.val egress.val msg rx.ago rx.tdc tdc)

/-- TC_FORWARD_FOLLOW_UP (R105, R106). -/
def execTcForwardFollowUp (ingress egress : Fin 6) (msg : PtpMsg) (s : State) : Host.Outcome State Fault Refusal :=
  complete s (fun s => s.tcFollowUp ingress.val egress.val msg)

/-- TC_RESIDENCE_EXPIRY (R105). -/
def execTcResidenceExpiry (egress : Fin 6) (s : State) : Host.Outcome State Fault Refusal :=
  complete s (fun s => s.tcExpire egress.val)

/-- SERVO_MEASUREMENT (R100, R565). -/
def execServoMeasurement (ref : RefKind) (offset : Int) (s : State) : Host.Outcome State Fault Refusal :=
  complete s (fun s => s.servo ref offset)

end Sys2Proof.Machine
end

