-- ==== Sys2Proof/Machine/Fabric.lean ====
section
/-! DEFINITION. Zonov links (R16–R20), pace and the supply loop (R21–R28), DRAM scrubbing (R40), and lanes with their leases, fences
and reloads (R48–R51, R561). -/

namespace Sys2Proof.Machine

namespace State

/-! ## Lanes (R48–R51, R561) -/

def lanePower (s : State) (n : Nat) : LanePower := nth s.fab.lanes n ⟨0, [], false⟩

def modLanePower (s : State) (n : Nat) (f : LanePower → LanePower) : State := s.modFab (fun x => { x with lanes := x.lanes.modify n f })

/-- A lane cannot be reloaded, or not any more: FAILED (R51). -/
def laneFailed (s : State) (n : Nat) : State := (s.setN (0xF130 + n) 0x01 3).raiseEvent 118 n

/-- The automatic reload of a fenced lane, while fewer than RELOAD_LIMIT began in the last hour (R51). -/
def autoReload (s : State) (n : Nat) : State :=
  if !s.cB 0xF134 0x01 then s
  else
    let recent := (s.lanePower n).reloads.filter (fun t => s.raw < t + 3600 * tickSec)
    if recent.length < s.c 0xF134 0x02 then
      (s.setN (0xF130 + n) 0x01 2).modLanePower n (fun p => { p with reloads := recent ++ [s.raw], commanded := false })
    else s.laneFailed n

/-- What a lane and its ingest queue hold is gone, and the hub keeps nothing of what the lane has sent (R33, R49). -/
def dropLane (s : State) (n : Nat) : State :=
  (((s.modQueue n (fun q => { emptyLaneQueue with fullTicks := q.fullTicks })).modLane n Lane.emptied).modTr (fun t => { t with
    insts := t.insts.map (fun i => { i with partials := eraseKey n i.partials }), toSpectro := setNth t.toSpectro n [] })).modSpec
      (fun x => { x with
        blocks := setNth x.blocks n [], sent := setNth x.sent n []
        latestInter := setNth x.latestInter n none, latestLocal := setNth x.latestLocal n none })

/-- A lane is isolated (R49): what it holds is lost, and its streams are ABSENT. A RESET_CMD that waited for its next update reaches it at
once, since it has none. -/
def isolateLane (s : State) (n : Nat) : State :=
  let t := ((s.applyResets n false).applyResets n true).dropLane n
  (t.laneStreams n).foldl (fun (u : State) i => u.setStreamState i 6) t

/-- A lane is fenced (R49): isolated, its spill content counted as lost; then R51 decides about its reload, and
an instant that waited for this lane alone can be released (R230). -/
def fenceLane (s : State) (n : Nat) : State :=
  if !s.laneLive n then s
  else
    let lost := (s.queue n).frames
    let s1 := ((s.setN (0xF130 + n) 0x01 1).inc32 (0xF130 + n) 0x03).add 64 (0xF130 + n) 0x04 lost
    let t := ((s1.isolateLane n).raiseEvent (32 + 4 * n + 2) n).autoReload n
    (t.tr.insts.map (·.ord)).foldl markWait t

/-- LANE_PACE_REPORT (R48): the lease is renewed, unless it has expired. -/
def paceReport (s : State) (n : Nat) : State :=
  if !s.laneLive n ∨ !s.lanesOn ∨ (s.lanePower n).leaseTick + 4000000 ≤ s.raw then s
  else (s.modLanePower n (fun p => { p with leaseTick := s.raw })).setN (0xF130 + n) 0x02 s.et

/-- SPILL_LEASE_EXPIRY (R48): 4,000,000 ticks after the last renewal. -/
def leaseExpiry (s : State) (n : Nat) : State :=
  if s.laneLive n ∧ s.lanesOn ∧ (s.lanePower n).leaseTick + 4000000 ≤ s.raw then s.fenceLane n else s

/-- A lane runs with freshly loaded microcode and contexts, and its hub–lane links are trained (R20, R50, R51). -/
def laneUp (s : State) (n : Nat) : State :=
  let s1 := (s.setN (0xF130 + n) 0x01 0).modFab (fun x => { x with
    lanes := x.lanes.modify n (fun p => { p with leaseTick := s.raw })
    links := (x.links.modify n (fun _ => ⟨[], false⟩)).modify (4 + n) (fun _ => ⟨[], false⟩) })
  let s2 := (s1.laneStreams n).foldl (fun (t : State) i => if t.streamState i = 6 then t.setStreamState i 1 else t) s1
  (s2.modLane n (fun l => { l.emptied with base := s2.tr.nextOrd })).resetLaneResonators n

/-- A reload of a lane that RELOAD_CMD asked for ends: DONE, or FAILED with RELOAD_FAILED (R561). -/
def reloadEnds (s : State) (n : Nat) (ok : Bool) : State :=
  let t := s.modLanePower n (fun p => { p with commanded := false })
  if (s.lanePower n).commanded ∧ s.resultState 0xF135 = 1 then t.finishCmd 0xF135 (if ok then 0 else 0x0050) [] else t

/-- LANE_RELOAD_COMPLETE (R51, R561). -/
def reloadComplete (s : State) (n : Nat) (ok : Bool) : State :=
  if s.laneState n ≠ 2 ∨ s.power ≠ 0 then s
  else if ok then ((s.laneUp n).raiseEvent (32 + 4 * n + 3) n).reloadEnds n true
  else (s.laneFailed n).reloadEnds n false

/-- The reload of a lane at a wake, whatever its state was (R37): a lane that fails is isolated. -/
def wakeLane (s : State) (n : Nat) (ok : Bool) : State :=
  if ok then (s.laneUp n).reloadEnds n true
  else ((s.isolateLane n).laneFailed n).reloadEnds n false

/-- RELOAD_CMD (R561). -/
def reloadCmd (s : State) (n : Nat) : State :=
  if s.laneState n = 0 ∨ s.laneState n = 2 then s.quickCmd 0xF135 0x0003 []
  else ((s.startCmd 0xF135).setN (0xF130 + n) 0x01 2).modLanePower n (fun p => { p with commanded := true })

/-! ## Zonov links (R17–R20) -/

/-- The lane that a link leaves or, for the first four, enters: hub→Ln, Ln→hub, and the ring hop from Ln. -/
def linkLane (n : Nat) : Nat := n % 4

/-- A link goes DOWN (R19, R20): a hub–lane link fences its lane. -/
def linkFails (s : State) (n : Nat) : State :=
  if s.linkDown n then s
  else
    let t := (s.modFab (fun x => { x with links := x.links.modify n (fun _ => ⟨[], true⟩) })).raiseEvent (32 + 4 * linkLane n) (linkLane n)
    if n < 8 then t.fenceLane (linkLane n) else t

/-- The lane whose performance counters see what a link's receiver asks for: none where the hub receives. -/
def receiverDie (n : Nat) : Option Nat := if n < 4 then some (n + 1) else if n < 8 then none else some ((n - 8 + 1) % 4 + 1)

/-- Replays that a link's receiver asks for (R52, R524). -/
def countReplays (s : State) (n replays : Nat) : State :=
  let t := s.add 32 (0xF110 + n) 0x03 replays
  match receiverDie n with
  | some d => t.perf d 0x09 replays
  | none => t

/-- ZONOV_LINK_DOWN (R19): 16 replays of a message have failed, one after another. -/
def linkDownRow (s : State) (n : Nat) : State :=
  if s.linkDown n ∨ !s.lanesOn then s else (s.countReplays n 16).linkFails n

/-- ZONOV_MESSAGE_RECEIVE (R18, R19, R52): `drained` of the oldest messages have left the receiver; the message takes its credit and is
delivered after its replays, or 16 failed replays take the link DOWN. Without a credit it is not sent. LAT_MAX, a U16, holds 65,535 for any
longer latency (DESIGN CHOICE, log entry 72). -/
def zonovMessage (s : State) (n : Nat) (cls : MsgClass) (drained latency failedChecks : Nat) : State :=
  let i := 0xF110 + n
  let s0 := s.modFab (fun x => { x with links := x.links.modify n (fun l => { l with held := l.held.drop drained }) })
  if s.linkState n = 1 ∨ s.linkState n = 2 ∨ !s.lanesOn then s
  else
    let held := (nth s0.fab.links n ⟨[], false⟩).held
    match creditFor held cls with
    | none => s0
    | some escape =>
      let replays := min 16 failedChecks
      let s1 := s0.modFab (fun x => { x with links := x.links.modify n (fun l => { l with held := l.held ++ [(cls, escape)] }) })
      let s3 := s1.countReplays n replays
      let s4 := if escape then (if n < 4 then s3 else s3.perf (linkLane n + 1) 0x08 1).inc32 i 0x04 else s3
      if failedChecks > 16 then s4.linkFails n
      else
        let s5 := (s4.inc64 i 0x02).setMax i 0x05 (min latency 65535)
        if 4 ≤ n ∧ n < 8 then s5.perf (linkLane n + 1) 0x07 1 else s5

/-! ## Pace (R21, R22, R528) -/

/-- Ring-path completions of die d in a window of 1 ms as pace, with its margin. -/
def paceDie (s : State) (d completions : Nat) : State :=
  let i := 0xF000 + d
  let pace := (F64.ofInt completions).div (F64.ofInt 1000)
  let fl := (F32.ofBits (s.num i 0x02)).to64
  let margin := (((F64.ofInt 100).mul (pace.sub fl)).div fl).to32
  let old := s.f32 i 0x04
  let s1 := ((s.setF32 i 0x01 pace.to32).setF32 i 0x03 margin).setF32 i 0x04
    (if nth s.ev.marginFresh d true || margin.lt old then margin else old)
  let s2 := (s1.modEv (fun e => { e with marginFresh := setNth e.marginFresh d false })).perf d (if d = 0 then 0x2A else 0x0B) completions
  if !margin.lt F32.zero then s2
  else
    let due : Bool := match nth s.ev.lastBelow d none with
      | some t => decide (t + tickSec ≤ s.raw)
      | none => true
    let s3 := (s2.inc64 i 0x07).modEv (fun e => { e with lastBelow := setNth e.lastBelow d (some s.raw) })
    if due then s3.raiseEvent 112 d else s3

/-! ## The supply loop (R23–R28) -/

/-- Rail r, 0–3 the lanes and 4 the hub: its die, its limits in mV, and its request. -/
def railDie (r : Nat) : Nat := if r = 4 then 0 else r + 1
def railMin (r : Nat) : Nat := if r = 4 then 650 else 600
def railMax (s : State) (r : Nat) : Nat := if r = 4 then 900 else s.c 0xF100 0x05
def railRequest (s : State) (r : Nat) : Nat := s.num 0xF101 (r + 1)

/-- The voltage from which the loop goes on. -/
def railNow (s : State) (r : Nat) : Nat :=
  if s.railRequest r = 0 then min (s.railMax r) (max (railMin r) (Config.avsStart r)) else s.railRequest r

def railMargin (s : State) (r : Nat) : F32 := s.f32 (0xF000 + railDie r) 0x03

def rail (s : State) (r : Nat) : Rail := nth s.fab.rails r ⟨false, none, false⟩

def modRail (s : State) (r : Nat) (f : Rail → Rail) : State := s.modFab (fun x => { x with rails := x.rails.modify r f })

/-- The loop's new voltage (R25). -/
def railNext (s : State) (r : Nat) : Nat :=
  let v := s.railNow r
  let m := s.railMargin r
  let target : Int := s.c 0xF100 0x01
  let step := s.c 0xF100 0x06
  if m.lt (F32.ofInt 5) then min (v + 4 * step) (s.railMax r)
  else if m.lt (F32.ofInt (target - 5)) then min (v + step) (s.railMax r)
  else if (F32.ofInt (target + 5)).lt m then max (v - step) (railMin r)
  else v

/-- The supply loop runs (R25): with AVS_ENABLE 1, from stage MICROCODE on, not in QUIET. -/
def loopOn (s : State) : Bool :=
  s.cB 0xF100 0x02 && !s.boot.inReset && decide (5 ≤ s.stage) && s.stage != 15 && decide (s.power ≤ 1)

/-- Since when the margin has been short with the loop's voltage at v_max (R26). -/
def noteLimit (s : State) (r : Nat) : State :=
  let short := (s.railMargin r).lt (F32.ofInt ((s.c 0xF100 0x01 : Int) - 5)) && s.railNow r == s.railMax r && s.loopOn
  s.modRail r (fun x => if !short then { x with limitSince := none, limited := false }
    else { x with limitSince := some (x.limitSince.getD s.raw) })

/-- A voltage request on a rail. -/
def requestRail (s : State) (r v : Nat) : State := (s.emit (.avs r v)).setN 0xF101 (r + 1) v

/-- One rail's loop period with what its regulator answered (R25, R27). -/
def loopRail (s : State) (r : Nat) (reply : AvsReply) : State :=
  let v := if (s.rail r).retry then s.railRequest r else s.railNext r
  let write := (s.rail r).retry || v != s.railNow r
  let s1 := if write then s.requestRail r v else s
  let bad := (write && !reply.acknowledged) || reply.statusFault
  let s2 := s1.modRail r (fun x => { x with retry := bad && s1.railRequest r != 0 })
  let s3 := s2.noteLimit r
  if bad then s3.raiseEvent 114 r else s3

/-- AVS_LOOP_PERIOD (R25). -/
def avsLoop (s : State) (replies : List AvsReply) : State :=
  if !s.loopOn ∨ s.raw < s.fab.loopTick + s.c 0xF100 0x07 * tickMs then s
  else
    let t := s.modFab (fun x => { x with loopTick := s.raw })
    (List.range 5).foldl (fun (u : State) r => u.loopRail r (nth replies r ⟨true, false⟩)) t

/-- AVS_AT_LIMIT (R26): 1 s at v_max with the margin short. -/
def avsAtLimit (s : State) (r : Nat) : State :=
  match (s.rail r).limitSince with
  | some t =>
    if !(s.rail r).limited ∧ t + tickSec ≤ s.raw then (s.modRail r (fun x => { x with limited := true })).raiseEvent 113 r else s
  | none => s

/-- The fixed voltages, requested once (R28). -/
def avsFixed (s : State) : State :=
  let t := (List.range 4).foldl (fun (u : State) r => u.requestRail r (s.c 0xF100 0x03)) s
  t.requestRail 4 (s.c 0xF100 0x04)

/-- PACE_WINDOW (R21): the 1 ms window has ended. -/
def paceWindow (s : State) (completions : List Nat) : State :=
  if s.boot.inReset ∨ 2 ≤ s.power ∨ s.raw < s.fab.paceTick + tickMs then s
  else
    let t := s.modFab (fun x => { x with paceTick := s.raw })
    let u := ((completions.take 5).zip (List.range 5)).foldl (fun (v : State) (x : Nat × Nat) => v.paceDie x.2 x.1) t
    (List.range 5).foldl noteLimit u

/-! ## DRAM (R38, R40) -/

/-- The offset of a DRAM address in a partition, when it lies there. -/
def partitionOffset (s : State) (sub a : Nat) : Option Nat :=
  let base := Config.partitionBase ((List.range 5).map (fun i => s.c 0xF120 (i + 1))) sub
  if base ≤ a ∧ a < base + s.c 0xF120 sub * 1048576 then some (a - base) else none

/-- Eight bytes of a lane's spill region are bad (R211): an eighth of a word, or the tags of eight words. -/
def spoilSpill (s : State) (off : Nat) : State :=
  let region := s.c 0xF120 0x01 * 262144
  let o := off % region
  let cap := s.spillWords
  let hit := fun (place : Nat) =>
    if o < 64 * cap then (if place = o / 64 then 2 ^ (o % 64 / 8) else 0) else if place / 8 = (o - 64 * cap) / 8 then 0xFF else 0
  s.modQueue (off / region) (fun q => { q with
    spill := (q.spill.zip (List.range q.spill.length)).map (fun x =>
      { x.1 with bad := x.1.bad ||| hit ((q.spillNext - q.spill.length + x.2) % cap) }) })

/-- Eight bytes of a plate segment are bad (R394): two samples, the QUALITY of four channels, or digital samples. The samples read as a
disabled channel's do (R409). -/
def spoilSegment (s : State) (off : Nat) : State :=
  let o := off % 198016
  let v := (o - 128) / 4
  s.modRec (fun r => { r with segs := r.segs.map (fun x =>
    if x.1 ≠ off / 198016 then x
    else
      let g := x.2
      let flag := fun (lo hi : Nat) => (g.quals.zip (List.range 48)).map (fun q =>
        if lo ≤ q.2 ∧ q.2 < hi then qMake false (qFlags q.1 ||| qSet 0#16 qABSENT ||| qSet 0#16 qSOURCE_ERROR) else q.1)
      (x.1,
        if o < 128 then (if 24 ≤ o ∧ o < 120 then { g with quals := flag ((o - 24) / 2) ((o - 24) / 2 + 4) } else g)
        else if o < 196736 then
          { g with
            quals := flag (v % 48) (v % 48 + 2)
            rows := if v / 48 < g.rows.length then g.rows.modify (g.rows.length - 1 - v / 48) (fun row =>
                (row.set (v % 48) (-2147483648)).set (v % 48 + 1) (-2147483648)) else g.rows }
        else { g with biError := 0xFFFFFF, orrAbsent := 0xFFFF })) })

/-- A word of DRAM is bad: its consumer receives every value in it with ABSENT and SOURCE_ERROR; a Logbook record is damaged (R424), and a
frame in a receive buffer is not whole (log entry 90). -/
def spoilWord (s : State) (a : Nat) : State :=
  let s1 := match s.partitionOffset 1 a with
    | some o => s.spoilSpill o
    | none => s
  let s2 := match s1.partitionOffset 2 a with
    | some o => s1.spoilSegment o
    | none => s1
  let s3 := match s2.partitionOffset 3 a with
    | some o => s2.modTr (fun t => { t with history := t.history.map (fun (h : Nat × HistoryEntry) =>
        if h.1 = o / 32768 then (h.1, { h.2 with vec := h.2.vec.map (fun (e : Nat × Entry) =>
          if e.1 = o % 32768 / 8 then (e.1, spoiltEntry e.2) else e) }) else h) })
    | none => s2
  let s4 := match s3.partitionOffset 4 a with
    | some o => s3.modEv (fun e => { e with ring := e.ring.modify (o / 64) (fun (r : LogRecord) => { r with intact := false }) })
    | none => s3
  s4.modIng (fun i => { i with ports := i.ports.map (fun (p : Port) => { p with rx := p.rx.map (fun d =>
    if d.2.1.bufAddr ≤ a ∧ a < d.2.1.bufAddr + 2048 then (d.1, d.2.1, d.2.2.1, true) else d) }) })

/-- A read with an uncorrectable error is counted and raised, and spoils what it read. -/
def dramUncorrected (s : State) (die word : Nat) : State := ((s.inc32 0xF120 0x09).raiseEvent 115 die).spoilWord (8 * word)

/-- DRAM_SCRUB_PASS (R40): SCRUB_PERIOD has passed; a pass finds the words with uncorrectable errors, each on its die. -/
def scrubPass (s : State) (corrected : Nat) (uncorrected : List (Fin 2 × Nat)) : State :=
  if s.boot.inReset ∨ s.stage < 4 ∨ 2 ≤ s.power ∨ s.raw < s.fab.scrubTick + s.c 0xF120 0x0A * 3600 * tickSec then s
  else
    let t := ((s.modFab (fun x => { x with scrubTick := s.raw })).add 64 0xF120 0x08 corrected).perf 0 0x29 corrected
    uncorrected.foldl (fun (u : State) d => u.dramUncorrected d.1.val d.2) t

end State

/-! ## The commands of this file -/

/-- ZONOV_MESSAGE_RECEIVE (R18). -/
def execZonovMessageReceive (link : Fin 12) (cls : MsgClass) (drained latency failedChecks : Nat) (s : State) :
    Host.Outcome State Fault Refusal :=
  complete s (fun s => s.zonovMessage link.val cls drained latency failedChecks)

/-- ZONOV_LINK_DOWN (R20). -/
def execZonovLinkDown (link : Fin 12) (s : State) : Host.Outcome State Fault Refusal := complete s (fun s => s.linkDownRow link.val)

/-- PACE_WINDOW (R21). -/
def execPaceWindow (completions : List Nat) (s : State) : Host.Outcome State Fault Refusal :=
  complete s (fun s => s.paceWindow completions)

/-- AVS_LOOP_PERIOD (R25). -/
def execAvsLoopPeriod (replies : List AvsReply) (s : State) : Host.Outcome State Fault Refusal := complete s (fun s => s.avsLoop replies)

/-- AVS_AT_LIMIT (R26). -/
def execAvsAtLimit (rail : Fin 5) (s : State) : Host.Outcome State Fault Refusal := complete s (fun s => s.avsAtLimit rail.val)

/-- LANE_PACE_REPORT (R48). -/
def execLanePaceReport (lane : Fin 4) (s : State) : Host.Outcome State Fault Refusal := complete s (fun s => s.paceReport lane.val)

/-- SPILL_LEASE_EXPIRY (R48). -/
def execSpillLeaseExpiry (lane : Fin 4) (s : State) : Host.Outcome State Fault Refusal := complete s (fun s => s.leaseExpiry lane.val)

/-- LANE_RELOAD_COMPLETE (R51). -/
def execLaneReloadComplete (lane : Fin 4) (ok : Bool) (s : State) : Host.Outcome State Fault Refusal :=
  complete s (fun s => s.reloadComplete lane.val ok)

/-- DRAM_SCRUB_PASS (R40). -/
def execDramScrubPass (corrected : Nat) (uncorrected : List (Fin 2 × Nat)) (s : State) : Host.Outcome State Fault Refusal :=
  complete s (fun s => s.scrubPass corrected uncorrected)

end Sys2Proof.Machine
end

