-- ==== Sys2Proof/Machine/Pair.lean ====
section
/-! DEFINITION. Redundant pairs and the witness (R468–R493): the interlock, the mirror's receiving side, POLL and STATUS on both
sides, and the handover. -/

namespace Sys2Proof.Machine

namespace State

/-! ## The interlock (R469–R473, R487) -/

/-- The unit holds a permit (R483). -/
def hasPermit (s : State) : Bool :=
  s.flag 0xC000 0x06 && match s.par.permitTick with
    | some t => decide (s.raw < t + s.c 0xC000 0x18 * tickMs)
    | none => false

/-- The held case of R487: the last output image arrived within PAIR_HOLD and did not carry SPECIAL. -/
def heldCase (s : State) : Bool :=
  s.num 0xC000 0x09 != 2 &&
  match s.orr.imageTick, s.lastImage with
  | some t, some im => decide (s.raw ≤ t + s.c 0xC000 0x07 * tickMs) && !im.special
  | _, _ => false

/-- The first own output write after a claim in the safe case is that of cycle j + 2, where j is the next cycle to start. -/
def safeCase (s : State) : State :=
  let j := if s.orr.phase = .idle then s.orr.m else s.orr.m + 1
  (s.modOrr (fun o => { o with safeUntil := some (j + 2) })).safeBos

/-- PAIR_CLAIM (R471, R487): a READY pair unit with a permit and ACT_PEER_N high. -/
def claimNow (s : State) : State :=
  if !s.isPair ∨ s.par.claim ∨ s.par.peer ∨ !s.pairReady ∨ !s.hasPermit then s
  else
    let t := s.modPar (fun p => { p with claim := true, claimTick := s.raw })
    if s.heldCase then t else t.safeCase

/-- ACTING_START (R470, R329, R477): 1 µs after the claim, with ACT_PEER_N and DEPOSE_N high. -/
def actingStart (s : State) : State :=
  if !s.isPair ∨ s.acting ∨ !s.par.claim ∨ s.par.peer ∨ s.par.depose ∨ s.raw < s.par.claimTick + 400 then s
  else
    let t := (((s.setN 0xC000 0x05 1).inc32 0xC000 0x11).setN 0xC000 0x14 s.et).modPar (fun p => { p with holdExpired := false })
    t.pubsAfterClaim.keepOwnBookings.raiseEvent 104 s.unitId

/-- PEER_CLAIM_CHANGE (R472, R489): a claim of the peer beside the own one is a contention, which UNIT_ID 1 ends by releasing its own;
the peer's claim ends a handover. -/
def peerClaim (s : State) (held : Bool) : State :=
  let t := s.modPar (fun p => { p with peer := held })
  if !held ∨ s.par.peer ∨ !s.isPair then t
  else if s.par.claim then
    (let u := (t.inc32 0xC000 0x12).raiseEvent 107 s.unitId
     if s.unitId = 1 then u.releaseClaim else u.stopActing)
  else if s.par.handedOver ∧ s.resultState 0xC001 = 1 then
    (t.finishCmd 0xC001 0 []).modPar (fun p => { p with handover := false, handedOver := false })
  else t

/-- DEPOSE_ASSERT (R473): the claim is released, new claims are blocked, and DEPOSED is latched in PD0; BO and TO4–TO7 follow the pin. -/
def deposeAssert (s : State) : State :=
  if s.par.depose then s
  else
    ((s.modPar (fun p => { p with depose := true, deposeTick := s.raw, deposed := true })).inc32 0xC000 0x13).releaseClaim

/-- DEPOSE_RELEASE (R473). -/
def deposeRelease (s : State) : State := s.modPar (fun p => { p with depose := false })

/-- DEPOSE_RESTART (R473): DEPOSE_N low for 100 ms in stage RUNNING. -/
def deposeRestart (s : State) : State :=
  if s.isPair ∧ s.cB 0xC000 0x16 ∧ s.inRunning ∧ s.power = 0 ∧ s.par.depose ∧ s.par.deposeTick + 100 * tickMs ≤ s.raw
  then s.restart 4 else s

/-! ## The pair link (R474–R479) -/

/-- PAIR_LINK_CHANGED (R474): UP when the generations are equal and the UNIT_IDs differ. A handover whose release has not come ends. -/
def pairLinkChange (s : State) (h : PairHello) : State :=
  if !s.isPair then s
  else
    let st := if !h.trained then 0 else if h.generation = s.num 0xC000 0x0A ∧ h.unitId ≠ s.unitId then 3 else 2
    let t := if h.trained then (s.setN 0xC000 0x0B h.generation).setBytes 0xC000 0x0C h.serial else s
    let u := t.setN 0xC000 0x09 st
    let v := if s.num 0xC000 0x09 = st then u else u.raiseEvent 106 st
    if st ≠ 3 ∧ v.par.handover ∧ !v.par.handedOver then
      (v.finishCmd 0xC001 0x0031 []).modPar (fun p => { p with handover := false })
    else v

/-- The unit takes the mirror: a pair unit that is not acting, over an UP link. -/
def takesMirror (s : State) : Bool := s.isPair && !s.acting && s.num 0xC000 0x09 == 3 && s.inRunning

/-- A standby's cycle starts follow the mirrored base (R476). -/
def alignCycles (s : State) (im : OutputImage) : State :=
  if s.num 0x7000 0x02 ≠ 2 ∨ s.orr.base = im.base then s
  else s.modOrr (fun o => { o with base := im.base, m := im.cycle })

/-- OUTPUT_IMAGE_RECEIVE (R478, R479): kept for its cycle's output write; one that comes after it is late. -/
def receiveImage (s : State) (im : OutputImage) : State :=
  if !s.takesMirror then s
  else
    let t := ((s.alignCycles im).modOrr (fun o => { o with imageIn := some im, imageTick := some s.raw })).setN 0xC000 0x0D s.et
    let u := t.modPar (fun p => { p with holdExpired := false })
    if u.num 0x7000 0x02 = 2 ∧ im.cycle < u.orr.m then
      (let v := u.inc32 0xC000 0x0E
       let due : Bool := match v.orr.lateTick with
         | some t => decide (t + tickSec ≤ v.raw)
         | none => true
       if due then (v.modOrr (fun o => { o with lateTick := some v.raw })).raiseEvent 111 v.unitId else v)
    else u

/-- A block's state as it is taken in: the reserved bits of its quality word are ignored (R13). -/
def receivedBlock (b : BlockState) : BlockState := { b with prevQuality := qInput b.prevQuality }

/-- BLOCK_STATE_RECEIVE (R13, R476). -/
def receiveBlocks (s : State) (cycle : Nat) (blocks : List (Nat × Nat × BlockState)) : State :=
  if s.takesMirror then
    s.modOrr (fun o => { o with stateIn := some (cycle, blocks.map (fun x => (x.1, x.2.1, receivedBlock x.2.2))) })
  else s

/-- TIE_STATE_RECEIVE (R475): at once for the instant last evaluated, kept for one still to be evaluated. -/
def receiveTies (s : State) (k : Nat) (ties : List (Nat × TieState)) : State :=
  if !s.takesMirror ∨ k < s.num 0x6100 0x0A then s
  else if k = s.num 0x6100 0x0A then ties.foldl (fun (u : State) (e : Nat × TieState) => u.putTie e.1 e.2) s
  else s.modHor (fun h => { h with mirrored := some (k, ties) })

/-- A band summary as its element (R284). -/
def summaryBytes (b : BandSummary) : List Byte :=
  beBytes 2 b.pdCount ++ beBytes 2 b.grCount ++ beBytes 2 b.worstSignal ++ [byte (bitsOfList [b.pd, b.gr]), 0] ++
  beBytes 4 b.worstZeta.nat ++ beBytes 4 b.worstFreq.nat ++ beBytes 8 b.update

/-- An element of BAND_SUMMARY as plain data, for the mirror. -/
def summaryOf (e : List Byte) : BandSummary :=
  ⟨field e 0 2, field e 2 2, field e 4 2, (field e 6 1).testBit 0, (field e 6 1).testBit 1, F32.ofBits (field e 8 4), F32.ofBits (field e 12 4),
   field e 16 8⟩

/-- BAND_SUMMARY_MIRROR (R475): each element that differs from the own one counts; a mirror of an instant this unit has not released has
nothing to be compared with. -/
def receiveBands (s : State) (k : Nat) (summaries : List BandSummary) : State :=
  if !s.takesMirror ∨ s.num 0x5000 0x09 < k then s
  else
    let n := ((summaries.zip (List.range 96)).filter (fun (x : BandSummary × Nat) => summaryBytes x.1 != padTo 24 (s.elem 0x6011 0x01 x.2))).length
    s.add 32 0xC000 0x10 n

/-- The mirror of the band summaries at a released transit. -/
def bandMirror (s : State) (k : Nat) : Output := .mirrorBands k ((List.range 96).map (fun i => summaryOf (padTo 24 (s.elem 0x6011 0x01 i))))

/-- GOOSE_COUNT_MIRROR (R329). -/
def receiveGooseCount (s : State) (pub stNum sqNum : Nat) : State :=
  if s.takesMirror then s.modPub pub (fun x => { x with stNum := stNum, sqNum := sqNum }) else s

/-- PAIR_HOLD_EXPIRY (R479). -/
def holdExpiry (s : State) : State :=
  if s.isPair ∧ !s.acting ∧ s.par.peer ∧ s.orr.imageTick.getD 0 + s.c 0xC000 0x07 * tickMs ≤ s.raw
  then s.modPar (fun p => { p with holdExpired := true }) else s

/-! ## The unit's side of the witness link (R481–R483) -/

/-- The stored configuration makes this a pair unit: what the unit goes by before its configuration is in force. -/
def storedPair (s : State) : Bool :=
  let copies := [s.flash.configA, s.flash.configB].filterMap id
  match copies.filter (·.intact) with
  | [] => false
  | x :: rest =>
    let best := rest.foldl (fun (b : ConfigCopy) c => if b.generation < c.generation then c else b) x
    (best.entries.get (okey 0xC000 0x01 0)).toInt == 1

/-- The unit answers POLLs: a pair unit, from stage ROM onward. -/
def answersPolls (s : State) : Bool :=
  !s.boot.inReset && decide (2 ≤ s.stage) && (if s.stage < 5 ∨ s.stage = 15 then s.storedPair else s.isPair)

/-- Bound of a stage before MAIN, in ms after the release of RESET_N (R497). -/
def stageBound (stage : Nat) : Nat := if stage = 1 then 15 else if stage = 2 then 100 else 700

/-- What R482 asks of the interval since the previous POLL, for ALIVE to advance. -/
def intervalAlive (s : State) : Bool :=
  s.par.notes.opened && decide (s.power ≤ 1) &&
  (if s.stage < 4 then decide (s.raw ≤ (stageBound s.stage + 25 * s.boot.morePuf) * tickMs)
   else
     (!s.transitsRun || decide ((s.raw - max s.boot.stageTick (s.tr.releaseTick.getD 0)) * s.c 0x5000 0x01 ≤
       (s.c 0x5000 0x02 * s.c 0x5000 0x01 + 2000) * tickMs)) &&
     (s.num 0x7000 0x02 != 2 || s.par.notes.wrote))

/-- STATE of a STATUS (R481, R482, R510): 0 STARTING, 1 NOT_READY, 2 READY, 3 ACTING. -/
def statusState (s : State) : Nat :=
  if s.stage = 15 then 1
  else if s.stage < 9 then 0
  else if s.boot.paused then 1
  else if s.acting then 3
  else if s.pairReady then 2
  else 1

/-- The STATUS that answers a POLL of SEQ `seq`. -/
def statusFrame (s : State) (seq : Nat) : List Byte :=
  let b := [0xA5, 2, byte s.unitId, byte seq, byte s.statusState,
    byte (bitsOfList [s.par.claim, s.par.peer, s.num 0xC000 0x09 == 3, s.par.depose, s.flag 0xC000 0x08])] ++
    beBytes 2 s.par.alive ++ [byte (s.num 0xC000 0x0A), 0]
  b ++ beBytes 2 (crc16 b)

/-- A frame of the witness link with its length, TYPE and CRC as R481 has them. -/
def witnessFrameOk (b : List Byte) (length type : Nat) : Bool :=
  b.length == length && field b 0 1 == 0xA5 && field b 1 1 == type && field b (length - 2) 2 == crc16 (b.take (length - 2))

/-- POLL at the unit (R482, R483). -/
def poll (s : State) (b : List Byte) : State :=
  if !s.answersPolls ∨ !witnessFrameOk b 8 1 ∨ field b 2 1 ≠ s.unitId then s
  else
    let alive := if s.intervalAlive then (s.par.alive + 1) % 65536 else s.par.alive
    let permit := (field b 4 1).testBit 0
    let t := s.modPar (fun p => { p with
      alive := alive, notes := ⟨true, false⟩, pollTick := some s.raw, lost := false
      permitTick := if permit then some s.raw else p.permitTick })
    let u := if permit then t.setN 0xC000 0x06 1 else t
    u.emit (.witness (u.statusFrame (field b 3 1)))

/-- PERMIT_LAPSE (R483). -/
def permitLapse (s : State) : State := if s.flag 0xC000 0x06 ∧ !s.hasPermit then s.setN 0xC000 0x06 0 else s

/-- WITNESS_LOST (R483). -/
def witnessLost (s : State) : State :=
  if s.isPair ∧ !s.par.lost ∧ s.par.pollTick.getD 0 + s.c 0xC000 0x18 * tickMs ≤ s.raw then
    (s.modPar (fun p => { p with lost := true })).raiseEvent 109 s.unitId
  else s

/-! ## The witness (R481–R486) -/

/-- The witness runs: strapped WIT_MODE = 1 and enabled. -/
def witnessOn (s : State) : Bool :=
  s.flag 0xC000 0x03 && s.cB 0xC100 0x01 && !s.boot.inReset && decide (5 ≤ s.stage) && s.stage != 15 && decide (s.power ≤ 1)

def witUnit (s : State) (u : Nat) : WitUnit := nth s.wit.units u ⟨0, none, 0xFF, none, none, 0, 0, 0⟩

def modUnit (s : State) (u : Nat) (f : WitUnit → WitUnit) : State := s.modWit (fun w => { w with units := w.units.modify u f })

/-- WDEPu_N is low. -/
def wdep (s : State) (u : Nat) : Bool := (s.num 0xC100 0x08).testBit u

/-- What unit u reports, while it is not deposed. -/
def reported (s : State) (u : Nat) : Nat := if s.wdep u then 0xFF else s.num 0xC100 (0x04 + u)

/-- PERMIT for unit u (R483). -/
def permitFor (s : State) (u : Nat) : Bool :=
  s.reported u == 2 && (s.reported (1 - u) == 3 || !(u == 1 && s.reported 0 == 2))

/-- The POLL to unit u. -/
def pollFrame (s : State) (u : Nat) : List Byte :=
  let b := [0xA5, 1, byte u, byte (s.witUnit u).seq, byte (bitsOfList [s.permitFor u, s.wdep 0, s.wdep 1]), 0]
  b ++ beBytes 2 (crc16 b)

/-- A POLL is sent to unit u. -/
def sendPoll (s : State) (u : Nat) : State :=
  let t := s.modUnit u (fun x => { x with seq := (x.seq + 1) % 256, polled := some s.raw })
  t.emit (.witness (t.pollFrame u))

/-- WITNESS_POLL_PERIOD (R481): HB_PERIOD has passed. -/
def pollPeriod (s : State) : State :=
  if !s.witnessOn ∨ s.raw < s.wit.pollTick + s.c 0xC100 0x02 * tickUs then s
  else ((s.modWit (fun w => { w with pollTick := s.raw, round := w.round + 1 })).sendPoll 0).sendPoll 1

/-- A poll of unit u without an answer. -/
def noAnswer (s : State) (u : Nat) : State := (s.modUnit u (fun x => { x with polled := none })).inc32 0xC100 0x0A

/-- STATUS_TIMEOUT (R481): 50 µs after the POLL. -/
def statusTimeout (s : State) (u : Nat) : State :=
  match (s.witUnit u).polled with
  | some t => if s.witnessOn ∧ t + 50 * tickUs ≤ s.raw then s.noAnswer u else s
  | none => s

/-- Both units have reported their claim held in the same two rounds in a row. -/
def dualClaim (s : State) : Bool :=
  [0, 1].all (fun u => decide (2 ≤ (s.witUnit u).claimRun) && (s.witUnit u).claimRound == s.wit.round)

/-- A valid STATUS of unit u (R482–R485). -/
def takeStatus (s : State) (u : Nat) (b : List Byte) : State :=
  let st := field b 4 1
  let claim := (field b 5 1).testBit 0
  let alive := field b 6 2
  let x := s.witUnit u
  let beat := x.alive != some alive
  let calm := if !beat then x.calm else if st ≤ 1 ∧ !claim then min 2 (x.calm + 1) else 0
  let y : WitUnit := { x with
    polled := none, state := st, alive := some alive, hbTick := if beat then some s.raw else x.hbTick
    claimRun := if !claim then 0 else if x.claimRound + 1 = s.wit.round then x.claimRun + 1 else 1
    claimRound := if claim then s.wit.round else x.claimRound
    calm := calm }
  let t := (s.modUnit u (fun _ => y)).setN 0xC100 (0x04 + u) st
  let v := if beat then t.setN 0xC100 (0x06 + u) t.et else t
  let w := if v.dualClaim then v.inc32 0xC100 0x0C else v
  if w.wdep u ∧ 2 ≤ calm then
    (w.setN 0xC100 0x08 (setBit (w.num 0xC100 0x08) u false)).modUnit u (fun z => { z with calm := 0 })
  else w

/-- The unit whose answer is awaited: unit 0 is polled first. -/
def awaited (s : State) : Option Nat := [0, 1].find? (fun u => (s.witUnit u).polled.isSome)

/-- STATUS at the witness (R481, R483). A frame that is no answer to a POLL in time leaves everything as it was. -/
def status (s : State) (b : List Byte) : State :=
  if !s.witnessOn then s
  else if !witnessFrameOk b 12 2 then
    (match s.awaited with
     | some u => (s.noAnswer u).inc32 0xC100 0x0B
     | none => s.inc32 0xC100 0x0B)
  else
    let u := field b 2 1
    match (s.witUnit u).polled with
    | some t => if u ≤ 1 ∧ field b 3 1 = (s.witUnit u).seq ∧ s.raw ≤ t + 170 * tickUs then s.takeStatus u b else s
    | none => s

/-- Unit u is due for deposition (R484). -/
def deposeDue (s : State) (u : Nat) : Bool :=
  !s.wdep u && decide (2 ≤ (s.witUnit u).state ∧ (s.witUnit u).state ≤ 3) &&
  ((match (s.witUnit u).hbTick with
    | some t => decide (t + s.c 0xC100 0x03 * tickMs ≤ s.raw)
    | none => false) || (u == 1 && s.dualClaim))

/-- WITNESS_DEPOSE (R484). -/
def witnessDepose (s : State) (u : Nat) : State :=
  if s.witnessOn ∧ s.deposeDue u then
    (((s.setN 0xC100 0x08 (setBit (s.num 0xC100 0x08) u true)).inc32 0xC100 0x09).modUnit u (fun z => { z with calm := 0 })).raiseEvent 110 u
  else s

/-! ## Handover (R489) -/

/-- HANDOVER_CMD: the release follows the next output write; with no Orrery running it follows at once. -/
def handover (s : State) : State :=
  if !s.isPair ∨ !s.acting then s.quickCmd 0xC001 0x0003 []
  else if s.num 0xC000 0x09 ≠ 3 then s.quickCmd 0xC001 0x0031 []
  else if !Config.peerReady s.raw then s.quickCmd 0xC001 0x0030 []
  else
    let t := (s.startCmd 0xC001).modPar (fun p => { p with handover := true, handedOver := false })
    if s.num 0x7000 0x02 = 2 then t else (t.modPar (fun p => { p with handedOver := true })).releaseClaim

/-- An output write has taken place while a handover waits for it. -/
def handOver (s : State) : State :=
  if s.par.handover ∧ !s.par.handedOver then (s.modPar (fun p => { p with handedOver := true })).releaseClaim else s

end State

/-! ## The commands of this file -/

/-- PAIR_CLAIM (R471). -/
def execPairClaim (s : State) : Host.Outcome State Fault Refusal := complete s State.claimNow

/-- ACTING_START (R470). -/
def execActingStart (s : State) : Host.Outcome State Fault Refusal := complete s State.actingStart

/-- PEER_CLAIM_CHANGE (R472). -/
def execPeerClaimChange (held : Bool) (s : State) : Host.Outcome State Fault Refusal := complete s (fun s => s.peerClaim held)

/-- DEPOSE_ASSERT (R473). -/
def execDeposeAssert (s : State) : Host.Outcome State Fault Refusal := complete s State.deposeAssert

/-- DEPOSE_RESTART (R473). -/
def execDeposeRestart (s : State) : Host.Outcome State Fault Refusal := complete s State.deposeRestart

/-- DEPOSE_RELEASE (R473). -/
def execDeposeRelease (s : State) : Host.Outcome State Fault Refusal := complete s State.deposeRelease

/-- PAIR_LINK_CHANGED (R474). -/
def execPairLinkChanged (hello : PairHello) (s : State) : Host.Outcome State Fault Refusal := complete s (fun s => s.pairLinkChange hello)

/-- OUTPUT_IMAGE_RECEIVE (R478). -/
def execOutputImageReceive (image : OutputImage) (s : State) : Host.Outcome State Fault Refusal :=
  complete s (fun s => s.receiveImage image)

/-- BLOCK_STATE_RECEIVE (R476). -/
def execBlockStateReceive (cycle : Nat) (blocks : List (Nat × Nat × BlockState)) (s : State) : Host.Outcome State Fault Refusal :=
  complete s (fun s => s.receiveBlocks cycle blocks)

/-- TIE_STATE_RECEIVE (R475). -/
def execTieStateReceive (k : Nat) (ties : List (Nat × TieState)) (s : State) : Host.Outcome State Fault Refusal :=
  complete s (fun s => s.receiveTies k ties)

/-- PM_REGISTER_MIRROR (R477). -/
def execPmRegisterMirror (registers : List (List PmRegister)) (lastCycles : List Et) (s : State) : Host.Outcome State Fault Refusal :=
  complete s (fun s => if s.takesMirror then s.takePmMirror registers lastCycles else s)

/-- BAND_SUMMARY_MIRROR (R475). -/
def execBandSummaryMirror (k : Nat) (summaries : List BandSummary) (s : State) : Host.Outcome State Fault Refusal :=
  complete s (fun s => s.receiveBands k summaries)

/-- GOOSE_COUNT_MIRROR (R329). -/
def execGooseCountMirror (pub : Fin 16) (stNum sqNum : Nat) (s : State) : Host.Outcome State Fault Refusal :=
  complete s (fun s => s.receiveGooseCount pub.val stNum sqNum)

/-- PAIR_HOLD_EXPIRY (R479). -/
def execPairHoldExpiry (s : State) : Host.Outcome State Fault Refusal := complete s State.holdExpiry

/-- POLL (R482). -/
def execPoll (frame : List Byte) (s : State) : Host.Outcome State Fault Refusal := complete s (fun s => s.poll frame)

/-- WITNESS_POLL_PERIOD (R481). -/
def execWitnessPollPeriod (s : State) : Host.Outcome State Fault Refusal := complete s State.pollPeriod

/-- STATUS (R483). -/
def execStatus (frame : List Byte) (s : State) : Host.Outcome State Fault Refusal := complete s (fun s => s.status frame)

/-- STATUS_TIMEOUT (R481). -/
def execStatusTimeout (unit : Fin 2) (s : State) : Host.Outcome State Fault Refusal := complete s (fun s => s.statusTimeout unit.val)

/-- WITNESS_DEPOSE (R484). -/
def execWitnessDepose (unit : Fin 2) (s : State) : Host.Outcome State Fault Refusal := complete s (fun s => s.witnessDepose unit.val)

/-- PERMIT_LAPSE (R483). -/
def execPermitLapse (s : State) : Host.Outcome State Fault Refusal := complete s State.permitLapse

/-- WITNESS_LOST (R483). -/
def execWitnessLost (s : State) : Host.Outcome State Fault Refusal := complete s State.witnessLost

end Sys2Proof.Machine
end

