-- ==== Sys2Proof/Machine/Validate.lean ====
section
/-! DEFINITION. Validation of a whole configuration (R73–R75): every range and dependency that the chapters state, and the exclusive
use of balls, Ephemeris timers and DRAM partitions. Each check reads the configuration it judges as the committed one. -/

namespace Sys2Proof.Machine

/-- A conflict of the report (R75): CODE, CLASS, RESOURCE and the two claimants. -/
structure Conflict where
  code : Nat
  cls : Nat
  resource : Nat
  a : Nat × Nat
  b : Nat × Nat
  deriving DecidableEq, Repr

/-- No second claimant. -/
def noOne : Nat × Nat := (0, 0)

/-- Codes of R75 with CLASS 0. -/
def dependency (a b : Nat × Nat) : Conflict := ⟨0x0104, 0, 0, a, b⟩
def outOfRange (a : Nat × Nat) : Conflict := ⟨0x0106, 0, 0, a, noOne⟩

/-- A conflict when a check fails. -/
def failing (bad : Bool) (c : Conflict) : List Conflict := if bad then [c] else []

/-- CONFLICT_REPORT's element (R75). -/
def Conflict.element (c : Conflict) : List Byte :=
  beBytes 2 c.code ++ [byte c.cls, 0] ++ beBytes 2 c.resource ++ beBytes 2 c.a.1 ++ [byte c.a.2] ++ beBytes 2 c.b.1 ++ [byte c.b.2]

/-- The order of the report (R75): CLAIMANT_A, CODE, CLAIMANT_B, RESOURCE. -/
def Conflict.key (c : Conflict) : List Nat := [c.a.1, c.a.2, c.code, c.b.1, c.b.2, c.resource]

def Conflict.before (x y : Conflict) : Bool := !lexLess y.key x.key

/-- All pairs of a list, each in the order of the list. -/
def pairsOf {α : Type} : List α → List (α × α)
  | [] => []
  | x :: rest => rest.map (fun y => (x, y)) ++ pairsOf rest

/-- All bytes of a slice are zero. -/
def zeroAt (b : List Byte) (at_ n : Nat) : Bool := allZero (slice b at_ n)

/-- An F32 lies in an interval. -/
def f32In (x lo hi : F32) : Bool := lo.le x && x.le hi

/-- An F32 is at least 0. -/
def f32NonNeg (x : F32) : Bool := F32.zero.le x

namespace State

/-- The elements of an ST array that differ from their default, by number. -/
def usedElems (s : State) (index sub : Nat) : List (Nat × List Byte) :=
  (s.cfg.filter (fun e => e.1 / 65536 == index * 256 + sub)).map (fun e => (e.1 % 65536, e.2.toBytes))

/-! ## Ranges (R73) -/

/-- An entry can be applied (R501): an ST object that exists, and a value of its type and length (R54). -/
def applies (key : Nat) (v : Value) : Bool :=
  match objAt (key / 65536 / 256) (key / 65536 % 256) with
  | none => false
  | some f => f.acc == .st &&
    (match f.ty, v with
     | .arr n w, .bytes b => decide (key % 65536 < n) && b.length == w
     | .octets n, .bytes b => key % 65536 == 0 && decide (b.length ≤ n)
     | .str n, .bytes b => key % 65536 == 0 && decide (b.length ≤ n)
     | .arr _ _, .int _ => false
     | .octets _, .int _ => false
     | .str _, .int _ => false
     | _, .bytes _ => false
     | _, .int _ => key % 65536 == 0)

/-- The entries of a stored copy that cannot be applied (R501): one element for each object. -/
def strangeConflicts (entries : Store) : List Conflict :=
  ((entries.filter (fun (e : Nat × Value) => !applies e.1 e.2)).map (fun (e : Nat × Value) =>
    outOfRange (e.1 / 65536 / 256, e.1 / 65536 % 256))).dedup

/-- Every object that differs from its default, against its own range (R54). -/
def rangeConflicts (s : State) : List Conflict :=
  s.cfg.flatMap (fun (e : Nat × Value) =>
    let k := e.1 / 65536
    match objAt (k / 256) (k % 256) with
    | none => []
    | some f =>
      match f.ty with
      | .arr _ _ => []
      | _ => failing (!inRange f e.2) (outOfRange (k / 256, k % 256)))

/-! ## Ephemeris, PTP, timers and balls (R101, R104, R111, R114, R121, R536) -/

/-- The timed outputs that claim a timer, with it (R111, R123). -/
def timerClaims (s : State) : List (Nat × Nat) :=
  ((List.range 8).filter (fun n => s.c (0x2200 + n) 0x01 != 0)).map (fun n => (s.c (0x2200 + n) 0x06, n))

def timerConflicts (s : State) : List Conflict :=
  (List.range 16).flatMap (fun t =>
    match (s.timerClaims.filter (fun x => x.1 = t)).map (·.2) with
    | [] => []
    | n :: rest => rest.map (fun m => ⟨0x0102, 2, t, (0x2200 + n, 0x06), (0x2200 + m, 0x06)⟩))

def pinConflicts (s : State) : List Conflict :=
  (List.range 35).flatMap (fun e =>
    match pinClaimants s.cfg e with
    | x :: y :: _ => [⟨0x0101, 1, e, x, y⟩]
    | _ => [])

def outputRanges (s : State) (n : Nat) : List Conflict :=
  if s.c (0x2200 + n) 0x01 ≠ 2 then []
  else
    failing (decide (s.c (0x2200 + n) 0x03 ≤ s.c (0x2200 + n) 0x05)) (outOfRange (0x2200 + n, 0x05)) ++
    failing (decide (s.c (0x2200 + n) 0x03 ≤ s.c (0x2200 + n) 0x04)) (outOfRange (0x2200 + n, 0x04))

def ephConflicts (s : State) : List Conflict :=
  let p := s.c 0x2000 0x16
  let q := s.c 0x2000 0x17
  let ports := s.c 0x2100 0x06
  let mode := s.c 0x2100 0x01
  let members := ((List.range 8).filter (fun i => ports.testBit i)).length
  failing (decide (s.c 0x2000 0x10 < s.c 0x2000 0x0E)) (dependency (0x2000, 0x10) (0x2000, 0x0E)) ++
  failing (p == q && p != 0) (dependency (0x2000, 0x17) (0x2000, 0x16)) ++
  failing ((p == 3 && q == 0) || (p == 0 && q == 3)) (dependency (0x2000, 0x16) (0x2000, 0x17)) ++
  failing (((mode == 2 || mode == 3) && decide (16 ≤ ports)) || (mode == 1 && members != 1)) (dependency (0x2100, 0x06) (0x2100, 0x01)) ++
  (List.range 8).flatMap s.outputRanges ++ s.timerConflicts ++ s.pinConflicts

/-! ## Ports and stream contexts (R180, R188, R191, R203, R204, R220) -/

def portConflicts (s : State) : List Conflict :=
  (List.range 6).flatMap (fun p =>
    failing (decide (s.c (pCfg p) 0x08 ≤ s.c (pCfg p) 0x09)) (dependency (pCfg p, 0x09) (pCfg p, 0x08))) ++
  (List.range 16).flatMap (fun n =>
    let i := wakeIndex n
    failing (s.cB i 0x01 && allZero (s.cBytes i 0x03)) (dependency (i, 0x01) (i, 0x03)) ++
    failing (s.cB i 0x01 && !s.cB (pCfg (s.c i 0x02)) 0x01) (dependency (i, 0x01) (pCfg (s.c i 0x02), 0x01)))

/-- Descriptors and buffers of every ring, against the slow-path partition (R204). -/
def ringConflicts (s : State) : List Conflict :=
  let need := ((List.range 6).map (fun p => (s.c (pCfg p) 0x0E + s.c (pCfg p) 0x0F) * (32 + 2048))).sum
  failing (decide (s.c 0xF120 0x05 * 1048576 < need)) ⟨0x0103, 3, 5, (0xF120, 0x05), (0x1300, 0x0E)⟩

/-- Remote contexts whose NUM_PMU or BLOCK_LAYOUT differs from its default. -/
def laidOut (s : State) : List Nat :=
  ((s.cfg.filter (fun e => decide (0x4001 ≤ e.1 / 16777216) && decide (e.1 / 16777216 ≤ 0x4FF7) &&
    (e.1 / 65536 % 256 == 0x0D || e.1 / 65536 % 256 == 0x0E))).map (fun e => e.1 / 16777216)).dedup

def layoutBad (s : State) (i : Nat) : Bool :=
  let b := s.cBytes i 0x0E
  let blocks := blocksOf (s.c i 0x0D) b
  b.length != 3 * s.c i 0x0D || decide (32 < (blocks.map (·.1)).sum) || decide (8 < (blocks.map (·.2.1)).sum) ||
  decide (4 < (blocks.map (·.2.2)).sum)

/-- The destination addresses of two contexts overlap on a port they share (R191). -/
def dstOverlap (s : State) (i j : Nat) : Bool :=
  let a := s.cBytes i 0x05
  let b := s.cBytes j 0x05
  (List.range 6).any (fun p =>
    (s.c i 0x08).testBit p && (s.c j 0x08).testBit p &&
    (if allZero a then allZero b || (s.ownAddresses p).contains b
     else if allZero b then (s.ownAddresses p).contains a
     else a == b))

/-- Two enabled UDP contexts could match one frame (R191). -/
def ctxOverlap (s : State) (i j : Nat) : Bool :=
  let any2 := fun (sub : Nat) => s.cBytes i sub == s.cBytes j sub || allZero (s.cBytes i sub) || allZero (s.cBytes j sub)
  s.c i 0x02 == s.c j 0x02 && s.c i 0x06 == s.c j 0x06 && any2 0x04 &&
  (s.c i 0x09 == s.c j 0x09 || s.c i 0x09 == 0xFFFF || s.c j 0x09 == 0xFFFF) && s.dstOverlap i j

def ctxConflicts (s : State) : List Conflict :=
  let on := s.enabledRemote.map (0x4000 + ·)
  let tcp := on.filter (fun i => s.c i 0x03 = 1)
  let udp := on.filter (fun i => s.c i 0x03 = 0)
  on.flatMap (fun i => failing (s.c i 0x02 == 0) (outOfRange (i, 0x02))) ++
  s.laidOut.flatMap (fun i => failing (s.layoutBad i) (dependency (i, 0x0E) (i, 0x0D))) ++
  failing (decide (256 < tcp.length)) (dependency (0x4000, 0x02) noOne) ++
  failing (decide (20000 < (tcp.map (fun i => s.c i 0x0A)).sum)) (dependency (0x4000, 0x03) noOne) ++
  tcp.flatMap (fun i => failing (allZero (s.cBytes i 0x04)) (dependency (i, 0x04) (i, 0x03))) ++
  (pairsOf udp).flatMap (fun (x : Nat × Nat) => failing (s.ctxOverlap x.1 x.2) (dependency (x.1, 0x02) (x.2, 0x02)))

/-! ## The watch table (R241) -/

/-- KIND of a watch entry; 0 for an unused one. -/
def usedKind (s : State) (e : Nat) : Nat := if e < 4096 ∧ field (s.watchRecord e) 0 2 ≠ 0 then field (s.watchRecord e) 2 1 else 0

/-- Fields that must be 0, or KIND, lie outside the table of R241. -/
def watchRangeBad (w : List Byte) : Bool :=
  let kind := field w 2 1
  decide (9 < kind) || decide (1 < field w 6 1) || field w 7 1 != 0 || decide (4095 < field w 0 2) ||
  (field w 0 2 != 0 && kind != 0 &&
    (decide (7 < field w 3 1) || (!(kind == 3 || kind == 4 || kind == 5) && field w 3 1 != 0) ||
     (!(kind == 6 || kind == 7 || kind == 9) && field w 5 1 != 0)))

/-- An entry names what its stream's layout has (R241). -/
def watchFits (s : State) (w : List Byte) : Bool :=
  let id := field w 0 2
  let blocks := s.ctxBlocks id
  let has := fun (what n : Nat) => (recordPos what n blocks 0 0 0 0 0).isSome
  let current := fun (n : Nat) => (s.c (0x4000 + id) 0x0F).testBit n
  let item := field w 4 1
  let item2 := field w 5 1
  s.ctxEnabled id &&
  (match field w 2 1 with
   | 1 | 2 => has 2 item
   | 3 | 4 | 5 => has 0 (field w 3 1)
   | 6 | 7 => has 2 item && has 2 item2 && !current item && current item2
   | 8 => has 4 item
   | _ => has 5 item && decide (item2 ≤ 15))

def watchConflicts (s : State) : List Conflict :=
  failing (decide (s.c 0x5000 0x02 < s.c 0x5000 0x03)) (dependency (0x5000, 0x03) (0x5000, 0x02)) ++
  (s.usedElems 0x5100 0x01).flatMap (fun (x : Nat × List Byte) =>
    let id := field x.2 0 2
    let kind := field x.2 2 1
    failing (watchRangeBad x.2) (outOfRange (0x5100, 0x01)) ++
    failing (decide (1 ≤ id ∧ id ≤ 4095 ∧ 1 ≤ kind ∧ kind ≤ 9) && !s.watchFits x.2) (dependency (0x5100, 0x01) (0x4000 + id, 0x01)))

/-! ## The Spectroscope (R261, R263, R268, R269) -/

/-- The entries and bands of an inter-area signal are in order (R258, R261). -/
def interOk (s : State) (r : List Byte) : Bool :=
  let ents := (List.range 4).map (fun i => field r (4 + 2 * i) 2)
  let kinds := ents.map s.usedKind
  let k := fun (i : Nat) => nth kinds i 0
  let unusedFrom := fun (n : Nat) => (ents.drop n).all (fun x => x = 0xFFFF)
  match field r 0 1 with
  | 1 => k 0 != 0 && k 0 != 9 && unusedFrom 1
  | 2 => k 0 == 2 && k 1 == 2 && unusedFrom 2
  | 3 => k 0 == k 1 && (k 0 == 3 || k 0 == 4) && unusedFrom 2
  | _ =>
    k 0 == 6 && (ents.drop 1).any (fun x => x != 0xFFFF) && (ents.drop 1).all (fun x => x = 0xFFFF || s.usedKind x = 6)

def interConflicts (s : State) : List Conflict :=
  (s.usedElems 0x6001 0x01).flatMap (fun (x : Nat × List Byte) =>
    let r := x.2
    let kind := field r 0 1
    if kind = 0 then []
    else if 4 < kind then [outOfRange (0x6001, 0x01)]
    else
      failing (decide (1 < field r 1 1) || !zeroAt r 2 2 || !zeroAt r 26 6) (outOfRange (0x6001, 0x01)) ++
      failing (!s.interOk r) (dependency (0x6001, 0x01) (0x5100, 0x01)) ++
      failing (field r 12 4 == 0) (dependency (0x6001, 0x01) noOne) ++
      failing (!(decide (1 ≤ field r 24 2 ∧ field r 24 2 ≤ 6000) && f32NonNeg (f32At r 16) && f32NonNeg (f32At r 20)))
        (outOfRange (0x6001, 0x01)))

def localConflicts (s : State) : List Conflict :=
  (s.usedElems 0x6002 0x01).flatMap (fun (x : Nat × List Byte) =>
    let r := x.2
    let kind := field r 0 1
    let a := field r 2 1
    let b := field r 3 1
    let bw := if field r 22 2 = 0 then 100 else field r 22 2
    if kind = 0 then []
    else if 2 < kind then [outOfRange (0x6002, 0x01)]
    else
      let aOk := decide (a ≤ 47)
      let bOk := kind == 2 && decide (b ≤ 47)
      failing (field r 1 1 != 0 || !zeroAt r 24 8 || !aOk || decide (47 < b) || (kind != 2 && b != 0)) (outOfRange (0x6002, 0x01)) ++
      failing (aOk && bOk && decide (a % 6 < 3) != decide (b % 6 < 3)) (dependency (0x6002, 0x01) noOne) ++
      failing (aOk && !s.cB (0x3000 + a) 0x01) (dependency (0x6002, 0x01) (0x3000 + a, 0x01)) ++
      failing (bOk && !s.cB (0x3000 + b) 0x01) (dependency (0x6002, 0x01) (0x3000 + b, 0x01)) ++
      failing (field r 4 8 == 0) (dependency (0x6002, 0x01) noOne) ++
      failing (!(decide (1 ≤ field r 20 2 ∧ field r 20 2 ≤ 6000 ∧ 10 ≤ bw ∧ bw ≤ 1000) && f32NonNeg (f32At r 12) && f32NonNeg (f32At r 16)))
        (outOfRange (0x6002, 0x01)))

/-- F0, B and REF_SIGNAL of an enabled band meet R268. -/
def bandOk (s : State) (loc : Bool) (b : Nat) (r : List Byte) : Bool :=
  let ft := s.c 0x5000 0x01
  let f0 := f32At r 4
  let bw := f32At r 8
  let ref := field r 24 2
  let key := if loc then 4096 + ref else ref
  let hi := fun (x : Rat) => F32.ofRat (x * ft)
  (if loc then f32In f0 (F32.ofInt 2) (F32.ofInt 1000) && f32In bw (F32.ofRat (1 / 10)) (F32.ofInt 100)
   else f32In f0 (F32.ofRat (1 / 100)) (hi (2 / 5)) && f32In bw (F32.ofRat (1 / 1000)) (hi (1 / 5))) &&
  decide (ref < (if loc then 64 else 4096)) && field (signalRecord s key) 0 1 != 0 && (bandMask key (signalRecord s key)).testBit b

def bandConflicts (s : State) (loc : Bool) : List Conflict :=
  let i := if loc then 0x6004 else 0x6003
  (s.usedElems i 0x01).flatMap (fun (x : Nat × List Byte) =>
    let r := x.2
    failing (decide (1 < field r 0 1) || field r 1 1 != 0 || !zeroAt r 28 4) (outOfRange (i, 0x01)) ++
    (if field r 0 1 ≠ 1 then []
     else
       failing (!(decide (8 ≤ field r 2 2 ∧ field r 2 2 ≤ 1024 ∧ field r 20 4 ≤ 3600000 ∧ field r 26 2 ≤ 3600) &&
           f32In (f32At r 12) (F32.ofInt (-1)) (F32.ofInt 1) && f32NonNeg (f32At r 16))) (outOfRange (i, 0x01)) ++
       failing (!s.bandOk loc x.1 r) (dependency (i, 0x01) (if loc then (0x6002, 0x01) else (0x6001, 0x01)))))

/-- Window entries that a lane's signals use (R269). -/
def windowUsed (s : State) (lane : Nat) : Nat :=
  ((usedSignals s false ++ usedSignals s true).map (fun key =>
    if signalLane key = lane then
      ((signalBands s key).map (fun b => field (bandRecord s (decide (4096 ≤ key)) b) 2 2)).sum
    else 0)).sum

def windowConflicts (s : State) : List Conflict :=
  (List.range 4).flatMap (fun n => failing (decide (2621440 < s.windowUsed n)) ⟨0x0103, 0, 0, (0x6001, 0x01), (0x6003, 0x01)⟩)

/-! ## Horizon and the alarm routes (R288, R302) -/

def busConflicts (s : State) : List Conflict :=
  (s.usedElems 0x6101 0x01).flatMap (fun (x : Nat × List Byte) =>
    let r := x.2
    let fk := s.usedKind (field r 0 2)
    failing (decide (3 < field r 4 1) || field r 5 1 != 0 || !zeroAt r 8 8) (outOfRange (0x6101, 0x01)) ++
    (if !(field r 4 1).testBit 0 then []
     else
       failing (!(fk == 3 || fk == 4) || s.usedKind (field r 2 2) != 2) (dependency (0x6101, 0x01) (0x5100, 0x01)) ++
       failing (field r 6 2 == 0) (dependency (0x6101, 0x01) noOne)))

def tieConflicts (s : State) : List Conflict :=
  (s.usedElems 0x6102 0x01).flatMap (fun (x : Nat × List Byte) =>
    let r := x.2
    let i := field r 2 2
    let j := field r 4 2
    let kindOf := fun (b : Nat) => s.usedKind (field (s.busRecord b) 0 2)
    failing (decide (15 < field r 0 1) || field r 1 1 != 0 || !zeroAt r 18 14) (outOfRange (0x6102, 0x01)) ++
    (if !(field r 0 1).testBit 0 then []
     else
       failing (decide (512 ≤ i) || decide (512 ≤ j) || !s.busEnabled i || !s.busEnabled j || i == j || kindOf i != kindOf j)
         (dependency (0x6102, 0x01) (0x6101, 0x01)) ++
       failing (!(decide (1 ≤ field r 6 1 ∧ 1 ≤ field r 7 1 ∧ 1 ≤ field r 16 2 ∧ field r 16 2 ≤ 600) &&
           F32.zero.lt (f32At r 8) && F32.zero.lt (f32At r 12) && (f32At r 12).le ⟨0x40490FDB#32⟩)) (dependency (0x6102, 0x01) noOne)))

/-- An alarm number that R301 lists. -/
def alarmListed (a : Nat) : Bool := a < 197 || (200 ≤ a && a ≤ 207)

def routeConflicts (s : State) : List Conflict :=
  (s.usedElems 0x6200 0x01).flatMap (fun (x : Nat × List Byte) =>
    let r := x.2
    failing (if alarmListed x.1 then
        decide (15 < field r 0 1) || decide (15 < field r 1 1) || decide (15 < field r 2 1) || field r 3 1 != 0 || !zeroAt r 10 6
      else !allZero r) (outOfRange (0x6200, 0x01)))

/-! ## Output streams and GOOSE (R322, R328, R331, R333) -/

/-- The reporting rates of R150 and R220. -/
def rateSet : List Nat := [10, 12, 15, 20, 25, 30, 50, 60, 100, 120, 200, 240]

/-- The watch KINDs behind a block's selection elements are as R313 asks. -/
def blockSelectionOk (s : State) (n : Nat) (b : OutBlock) : Bool :=
  let total := 1 + b.phasors + b.analogs + b.digitals
  decide (b.first + total ≤ 4096) &&
  (List.range total).all (fun i =>
    let e := s.selection n (b.first + i)
    let ka := s.usedKind e.1
    let kb := s.usedKind e.2
    if i = 0 then (ka == 3 || ka == 4) && kb == 5
    else if i < 1 + b.phasors then ka == 1 && kb == 2
    else if i < 1 + b.phasors + b.analogs then ka != 0 && ka != 9 && e.2 == 0xFFFF
    else decide (1 ≤ e.2 ∧ e.2 ≤ 16 ∧ e.1 + e.2 ≤ 4096))

def blockFieldsOk (b : OutBlock) : Bool :=
  [b.vScale, b.iScale, b.aScale].all (fun x => f32In x (F32.ofRat (1 / 100000)) (F32.ofRat (16777 / 100))) &&
  (b.fnom == 50 || b.fnom == 60) && (b.svc == 0x50 || b.svc == 0x4D)

/-- Enabled destinations of an output stream: their records. -/
def destinations (s : State) (n : Nat) : List (List Byte) :=
  ((List.range 4).map (fun i => s.cElem (egIndex n) 0x0B i)).filter (fun r => (field r 0 1).testBit 0)

def destFieldsOk (r : List Byte) : Bool :=
  decide (field r 0 1 ≤ 1 ∧ field r 1 1 ≤ 5 ∧ field r 2 2 ≤ 4094 ∧ field r 4 1 ≤ 7 ∧ 1 ≤ field r 8 2 ∧ 1 ≤ field r 10 2) &&
  zeroAt r 5 3 && zeroAt r 12 4

/-- An address of R220 is an IPv4 address. -/
def isMapped4 (a : List Byte) : Bool := allZero (a.take 10) && slice a 10 2 == [0xFF, 0xFF]

def egressConflicts (s : State) : List Conflict :=
  let on := (List.range 16).filter (fun n => s.cB (egIndex n) 0x01)
  on.flatMap (fun n =>
    let i := egIndex n
    let blocks := s.outBlocks n
    let rate := s.c 0x5000 0x01
    let div := s.c i 0x03
    failing (s.c i 0x02 == 0) (outOfRange (i, 0x02)) ++
    failing (blocks.any (fun b => !blockFieldsOk b)) (outOfRange (i, 0x07)) ++
    failing ((s.destinations n).any (fun r => !destFieldsOk r)) (outOfRange (i, 0x0B)) ++
    failing (blocks.any (fun b => !s.blockSelectionOk n b)) (dependency (i, 0x08) (0x5100, 0x01)) ++
    failing (decide (2048 < (blocks.map (·.phasors)).sum)) (dependency (i, 0x07) noOne) ++
    failing (!(rate % div == 0 && rateSet.contains (rate / div))) (dependency (i, 0x03) (0x5000, 0x01)) ++
    failing (s.c i 0x09 != 0 && s.c i 0x09 % 2 == 0) (dependency (i, 0x09) noOne) ++
    (s.destinations n).flatMap (fun r =>
      let p := pCfg (field r 1 1 % 6)
      failing (decide (s.c p 0x07 < egressFrameSize s.cfg n + (if isMapped4 (slice r 16 16) then 46 else 66)))
        (dependency (i, 0x0B) (p, 0x07)))) ++
  (pairsOf on).flatMap (fun (x : Nat × Nat) =>
    failing (s.c (egIndex x.1) 0x02 == s.c (egIndex x.2) 0x02) (dependency (egIndex x.1, 0x02) (egIndex x.2, 0x02)))

/-- A GOOSE group address of R333. -/
def gooseMac (a : List Byte) : Bool := slice a 0 4 == [0x01, 0x0C, 0xCD, 0x01] && decide (field a 4 1 ≤ 1)

/-- Member m of a publication: KIND and number. -/
def pubMember (s : State) (p m : Nat) : Nat × Nat := (field (s.pubRecord p) (64 + 4 * m) 1, field (s.pubRecord p) (64 + 4 * m + 2) 2)

/-- The members that a publication sends. -/
def pubMembers (s : State) (p : Nat) : List Nat :=
  List.range (min 32 (field (s.pubRecord p) 13 1)) ++ (List.range (min 16 (field (s.pubRecord p) 14 1))).map (32 + ·)

def memberRangeOk (m : Nat × Nat) : Bool :=
  match m.1 with
  | 0 => true
  | 1 | 2 => decide (m.2 ≤ 255)
  | 3 => decide (m.2 ≤ 4095)
  | _ => false

def pubConflicts (s : State) (p : Nat) : List Conflict :=
  let r := s.pubRecord p
  let ms := (s.pubMembers p).map (fun m => (m, s.pubMember p m))
  if !s.pubOn p then []
  else
    failing (!(decide (field r 0 1 ≤ 1 ∧ field r 1 1 ≤ 5 ∧ field r 2 2 ≤ 0x3FFF ∧ field r 10 2 ≤ 4094 ∧ field r 12 1 ≤ 7 ∧ field r 13 1 ≤ 32 ∧
        field r 14 1 ≤ 16 ∧ 1 ≤ field r 20 2 ∧ field r 20 2 ≤ 1000 ∧ 100 ≤ field r 22 2 ∧ field r 22 2 ≤ 60000) &&
        gooseMac (slice r 4 6) && field r 15 1 == 0 && zeroAt r 24 40 && ms.all (fun m => memberRangeOk m.2)))
      (outOfRange (0x5901, 0x01)) ++
    ms.flatMap (fun (m : Nat × Nat × Nat) =>
      failing (m.2.1 == 1 && !(field (s.cElem 0x6200 0x01 m.2.2) 6 2).testBit p) (dependency (0x5901, 0x01) (0x6200, 0x01)) ++
      failing (m.2.1 == 3 && decide (m.1 < 32) && s.usedKind m.2.2 != 9) (dependency (0x5901, 0x01) (0x5100, 0x01)))

/-- Two enabled subscriptions could accept one frame (R326, R328). -/
def subsOverlap (s : State) (x y : Nat) : Bool :=
  let a := s.subRecord x
  let b := s.subRecord y
  let anySource := fun (r : List Byte) => (field r 0 1).testBit 2
  (field a 1 1 &&& field b 1 1) != 0 && slice a 2 8 == slice b 2 8 &&
  (anySource a || anySource b || slice a 10 6 == slice b 10 6) &&
  trimName (s.cElem 0x5904 0x01 (3 * x)) == trimName (s.cElem 0x5904 0x01 (3 * y))

def gooseConflicts (s : State) : List Conflict :=
  let on := (List.range 64).filter s.subOn
  (List.range 16).flatMap s.pubConflicts ++
  on.flatMap (fun q =>
    let r := s.subRecord q
    failing (!(decide (field r 0 1 ≤ 7 ∧ field r 1 1 ≤ 63 ∧ field r 20 1 ≤ 32 ∧ field r 21 1 ≤ 16) && zeroAt r 22 10))
      (outOfRange (0x5903, 0x01))) ++
  (pairsOf on).flatMap (fun (x : Nat × Nat) => failing (s.subsOverlap x.1 x.2) (dependency (0x5903, 0x01) (0x5904, 0x01)))

/-! ## The Orrery (R352, R478), pulse counters (R386), the recorder (R397, R405) -/

/-- IMAGE holds something, or the Orrery is to run it. -/
def imageInUse (s : State) : Bool := s.orreryOn || !(s.usedElems 0x7001 0x01).isEmpty

def imageConflicts (s : State) : List Conflict :=
  if !s.imageInUse then []
  else
    match imageError (imageOf s.cfg) with
    | some _ => [⟨0x0105, 0, 0, (0x7001, 0x01), noOne⟩]
    | none =>
      let i := imageOf s.cfg
      ((imgBlockList i).filter (fun b => b.type = 0x19)).flatMap (fun b =>
        match b.target with
        | some t => failing (decide (t < 16) && !s.cB (0x7100 + t) 0x01) (dependency (0x7001, 0x01) (0x7100 + t, 0x01))
        | none => []) ++
      failing (s.isPair && decide (imgOffset i * 2000 < (2 + 14) * 2000 + imgBlocks i * 25)) (dependency (0x7001, 0x01) (0xC000, 0x01))

def counterConflicts (s : State) : List Conflict :=
  (List.range 24).flatMap (fun n =>
    let on := s.cB (0x8100 + n) 0x01
    failing (on && !s.cB (0x7120 + n) 0x01) (dependency (0x8100 + n, 0x01) (0x7120 + n, 0x01)) ++
    failing (on && s.c (0x7120 + n) 0x04 == 0) (dependency (0x8100 + n, 0x01) (0x7120 + n, 0x04)))

/-- A trigger record's fields lie in R397's ranges. -/
def triggerFieldsOk (r : List Byte) : Bool :=
  let kind := field r 0 1
  let source := field r 2 1
  let mode := field r 3 1
  decide (kind ≤ 7 ∧ field r 1 1 ≤ 1 ∧ field r 4 1 ≤ 7) && zeroAt r 5 3 && zeroAt r 14 2 && zeroAt r 20 12 &&
  (match kind with
   | 1 => decide (source ≤ 47 ∧ mode % 4 ≤ 2 ∧ mode ≤ 7) && f32NonNeg (f32At r 16) && !(f32At r 8).isNaN
   | 2 => decide (source ≤ 47 ∧ mode ≤ 2 ∧ 1 ≤ field r 12 2 ∧ field r 12 2 ≤ 4800) && f32NonNeg (f32At r 16) && !(f32At r 8).isNaN
   | 3 => decide (source ≤ 23 ∧ 1 ≤ mode ∧ mode ≤ 3)
   | 4 => decide (source ≤ 3 ∧ 1 ≤ mode ∧ mode ≤ 3)
   | 5 | 6 => mode == 0
   | _ => source == 0 && mode == 0)

def recorderConflicts (s : State) : List Conflict :=
  (s.usedElems 0x9010 0x01).flatMap (fun (x : Nat × List Byte) =>
    let source := field x.2 2 1
    if field x.2 0 1 = 0 then []
    else
      failing (!triggerFieldsOk x.2) (outOfRange (0x9010, 0x01)) ++
      (match field x.2 0 1 with
       | 1 | 2 => failing (!s.cB (0x3000 + source) 0x01) (dependency (0x9010, 0x01) (0x3000 + source, 0x01))
       | 3 => failing (!s.cB (0x7120 + source) 0x01) (dependency (0x9010, 0x01) (0x7120 + source, 0x01))
       | 4 => failing (s.c (0x2210 + source) 0x01 != 1) (dependency (0x9010, 0x01) (0x2210 + source, 0x01))
       | 5 => failing (!(s.routeFlags source).testBit 2) (dependency (0x9010, 0x01) (0x6200, 0x01))
       | _ => [])) ++
  failing (decide ((s.segments - 3) * 512 < s.c 0x9000 0x03 * 48)) (dependency (0x9000, 0x03) (0xF120, 0x02))

/-! ## Event sources and performance counters (R417, R418, R516, R519, R524) -/

/-- Event sources that R516 marks reserved. -/
def sourceReserved (n : Nat) : Bool := (61 ≤ n && n ≤ 63) || n == 86 || n == 87 || (100 ≤ n && n ≤ 103)

/-- R418 can convert the object a snapshot entry names. -/
def snapshotNames (index sub : Nat) : Bool :=
  match objAt index sub with
  | some f => (snapshot32 f.ty (.int 0)).isSome
  | none => false

def eventConflicts (s : State) : List Conflict :=
  (s.usedElems 0xA001 0x01).flatMap (fun (x : Nat × List Byte) =>
    let r := x.2
    failing (decide (7 < field r 0 1) || !zeroAt r 1 3 || (List.range 8).any (fun v => decide (3 < field r (4 + 4 * v + 3) 1)))
      (outOfRange (0xA001, 0x01)) ++
    (List.range 8).flatMap (fun v =>
      let index := field r (4 + 4 * v) 2
      let sub := field r (4 + 4 * v + 2) 1
      failing ((field r (4 + 4 * v + 3) 1).testBit 0 && !snapshotNames index sub) (dependency (0xA001, 0x01) (index, sub)))) ++
  (s.usedElems 0xA801 0x01).flatMap (fun (x : Nat × List Byte) =>
    failing (if sourceReserved x.1 then !allZero x.2 else decide (7 < field x.2 0 1) || decide (15 < field x.2 1 1) || !zeroAt x.2 2 2)
      (outOfRange (0xA801, 0x01)))

/-- A performance source exists on a die (R524). -/
def perfSourceOk (die code : Nat) : Bool :=
  code == 0 || code == 0x30 || (if die = 0 then 0x20 ≤ code && code ≤ 0x2A else 1 ≤ code && code ≤ 0x0D)

def perfConflicts (s : State) : List Conflict :=
  (List.range 80).flatMap (fun c => failing (!perfSourceOk (c / 16) (s.c (0xE000 + c) 0x01)) (dependency (0xE000 + c, 0x01) noOne))

/-! ## Pairs and the witness (R468, R485), DRAM (R38, R39) -/

def pairConflicts (s : State) : List Conflict :=
  failing (s.isPair && (s.num 0x1401 0x01).testBit 1) (dependency (0xC000, 0x01) (0x1401, 0x01)) ++
  failing (s.cB 0xC100 0x01 && decide (s.c 0xC100 0x03 * 1000 < 4 * s.c 0xC100 0x02)) (dependency (0xC100, 0x03) (0xC100, 0x02))

/-- The default sizes of 0xF120:01–05 in MiB (R38). -/
def partitionDefault (sub : Nat) : Nat := ((objAt 0xF120 sub).map (fun f => f.dflt.toInt.toNat)).getD 0

def dramConflicts (s : State) : List Conflict :=
  let sizes := (List.range 5).map (fun i => (i + 1, s.c 0xF120 (i + 1)))
  sizes.flatMap (fun (x : Nat × Nat) => failing (x.2 % 16 != 0) (outOfRange (0xF120, x.1))) ++
  (if 4096 < (sizes.map (·.2)).sum + 256 then
     sizes.flatMap (fun (x : Nat × Nat) => failing (x.2 != partitionDefault x.1) ⟨0x0103, 3, x.1, (0xF120, x.1), (0xF120, 0x06)⟩)
   else []) ++
  failing (s.c 0xF120 0x01 % 64 != 0) ⟨0x0103, 3, 1, (0xF120, 0x01), noOne⟩

/-! ## The whole set -/

/-- Every conflict of the configuration in `cfg`, in the order of the report (R75). Which object is CLAIMANT_A and which
CLAIMANT_B, and how many elements several bad places of one object give, is the model's where no rule says so (DESIGN CHOICE, log entry 73). -/
def conflicts (s : State) : List Conflict :=
  (s.rangeConflicts ++ s.ephConflicts ++ s.portConflicts ++ s.ringConflicts ++ s.ctxConflicts ++ s.watchConflicts ++
   s.interConflicts ++ s.localConflicts ++ s.bandConflicts false ++ s.bandConflicts true ++ s.windowConflicts ++
   s.busConflicts ++ s.tieConflicts ++ s.routeConflicts ++ s.egressConflicts ++ s.gooseConflicts ++
   s.imageConflicts ++ s.counterConflicts ++ s.recorderConflicts ++ s.eventConflicts ++ s.perfConflicts ++
   s.pairConflicts ++ s.dramConflicts).insertionSort (fun a b => Conflict.before a b)

/-- Validates a configuration set as one (R73): its conflicts. -/
def validate (s : State) (cfg : Store) : List Conflict := conflicts { s with cfg := cfg }

/-- Validates a stored copy (R501): the entries that cannot be applied, with the conflicts of the others. -/
def validateStored (s : State) (entries : Store) : List Conflict :=
  (strangeConflicts entries ++ s.validate (entries.filter (fun (e : Nat × Value) => applies e.1 e.2))).insertionSort
    (fun a b => Conflict.before a b)

/-- The conflict report of a validation (R75), and IMAGE_ERROR when it found the image wrong (R352). -/
def writeReport (s : State) (cfg : Store) (l : List Conflict) : State :=
  let t := (List.range 16).foldl (fun (u : State) i =>
    u.setElem 0x1202 0x01 i (match l[i]? with
      | some c => c.element
      | none => List.replicate 12 0)) (s.setN 0x1202 0x00 (min 65535 l.length))
  if l.any (fun c => c.code = 0x0105) then
    match imageError (imageOf cfg) with
    | some e => t.setN 0x7000 0x13 (e.1 * 16777216 + e.2 % 16777216)
    | none => t
  else t

end State

end Sys2Proof.Machine
end

