-- ==== Sys2Proof/Machine/Commit.lean ====
section
/-! DEFINITION. A commit (R72–R75): the end of its validation, its quiesce (R225, R321), and the one transit boundary at which every
change becomes effective, with what the chapters say of each change. -/

namespace Sys2Proof.Machine

/-- Keys at which two configurations differ. -/
def changedKeys (old new : Store) : List Nat :=
  ((old ++ new).map (fun (e : Nat × Value) => e.1)).dedup.filter (fun k => old.get k != new.get k)

/-- Some key of a change lies in an object, or in a subindex range of an index range. -/
def touches (ch : List Nat) (index sub : Nat) : Bool := ch.any (fun k => k / 65536 == index * 256 + sub)

def touchesRange (ch : List Nat) (lo hi subLo subHi : Nat) : Bool :=
  ch.any (fun k =>
    decide (lo ≤ k / 16777216) && decide (k / 16777216 ≤ hi) && decide (subLo ≤ k / 65536 % 256) && decide (k / 65536 % 256 ≤ subHi))

/-- The elements of an array that a change touches. -/
def touchedElems (ch : List Nat) (index sub : Nat) : List Nat :=
  ((ch.filter (fun k => k / 65536 == index * 256 + sub)).map (· % 65536)).dedup

namespace State

/-- The state with another configuration in force, to ask what held under it. -/
def under (s : State) (cfg : Store) : State := { s with cfg := cfg }

/-! ## The end of validation, and the quiesce (R73, R225, R321) -/

/-- The newest F_t of transit generation. -/
def newestRate (s : State) : Nat :=
  match s.tr.segs with
  | g :: _ => g.rate
  | [] => s.c 0x5000 0x01

/-- The staged value of an object. -/
def stagedNum (s : State) (index sub : Nat) : Nat := (s.staged.get (okey index sub 0)).toInt.toNat

/-- S_c (R225): the first whole second of ET at least W + 100 ms from now, with the larger W. -/
def rateChangeAt (s : State) : Et :=
  let w := max (s.c 0x5000 0x02) (s.stagedNum 0x5000 0x02)
  (s.et + (w + 100) * ms + sec - 1) / sec * sec

/-- With transits running, a staged F_T that is not in force yet waits for its S_c, and STATE is QUIESCING. -/
def awaitRate (s : State) : State :=
  if s.transitsRun ∧ s.newestRate ≠ s.stagedNum 0x5000 0x01 ∧ s.tr.pendingRate.isNone then
    s.planRate s.rateChangeAt (s.stagedNum 0x5000 0x01)
  else s

/-- The longest CFG_NOTICE of the streams whose layout the commit changes, in seconds (R321). -/
def cfgNotice (s : State) : Nat :=
  ((List.range 16).map (fun n =>
    if ({ s with alm := { s.alm with commit := .quiescing } } : State).configNotice n then
      max (s.c (egIndex n) 0x0E) (s.stagedNum (egIndex n) 0x0E) else 0)).foldl max 0

/-- The commit stops here: FAILED, with staging kept unless its owner has closed (R73, R71). -/
def failCommit (s : State) (l : List Conflict) (code : Nat) : State :=
  let t := (s.modAlm (fun a => { a with commit := .idle })).finishCmd 0x1201 code (beBytes 2 (min 65535 l.length))
  if (t.session t.stageOwner).isNone then t.unstage else t

/-- COMMIT_VALIDATION_END (R73–R75). -/
def commitValidated (s : State) : State :=
  if s.alm.commit ≠ .validating then s
  else
    let l := s.validate s.staged
    let t := s.writeReport s.staged l
    match l with
    | c :: _ => t.failCommit l c.code
    | [] => (t.modAlm (fun a => { a with
        commit := .quiescing, quiesce := s.raw + (if s.transitsRun then s.cfgNotice * tickSec else 0) })).awaitRate

/-! ## What each chapter does with a change -/

/-- Objects that show the committed configuration (R52, R216, R253, R282, R307). -/
def showConfig (s : State) : State :=
  let remote := s.enabledRemote
  let tcp := remote.filter s.isTcp
  let a := ((s.setN 0x4000 0x01 s.enabledStreams.length).setN 0x4000 0x02 tcp.length).setN 0x4000 0x03
    (tcp.map s.ctxRate).sum
  let b := a.setN 0x5000 0x22 (s.enabledStreams.filter (fun i => s.cB (0x4000 + i) 0x13)).length
  let used := (s.watchTable.filter (fun (w : Nat × List Byte) => field w.2 0 2 != 0)).length
  let c := (b.setN 0x5100 0x02 used).setN 0x5100 0x03 (crc32 (objectBytes s.cfg 0x5100 0x01))
  let d := (List.range 4).foldl (fun (t : State) n => t.setN 0x6000 (9 + n) (s.windowUsed n)) c
  let e := (d.setN 0x6000 0x02 (s.c 0x6000 0x01)).setN 0x6100 0x02 (s.c 0x6100 0x01)
  (e.setN 0xF120 0x07 (4096 - 256 - ((List.range 5).map (fun i => s.c 0xF120 (i + 1))).sum)).refreshCrc

/-- A waiting next-second step ends when the servo passes to FIRMWARE (R94). -/
def loseStep (s : State) (ch : List Nat) : State :=
  match s.eph.step with
  | some p =>
    if touches ch 0x2000 0x0B ∧ s.c 0x2000 0x0B = 0 ∧ p.commanded ∧ p.second.isSome then
      (s.modEph (fun e => { e with step := none })).finishCmd 0x2001 0x0001 []
    else s
  | none => s

/-- Time: timed outputs whose objects change start anew, PTP starts anew, and UTC_OFFSET follows its source (R102, R104, R112–R114). -/
def applyTime (s : State) (ch : List Nat) : State :=
  let a := (List.range 8).foldl (fun (t : State) n => if touchesRange ch (0x2200 + n) (0x2200 + n) 1 6 then t.initOut n else t)
    (s.loseStep ch)
  let b := ([0, 1].filter (fun n => touches ch (0x2210 + n) 0x01)).foldl initInput a
  (if touchesRange ch 0x2100 0x2115 0 255 then b.initPtp else b).refreshUtc

/-- The local chain (R146, R161, R166, R168): conditions that may no longer be, causes of a synchronising reset, and changes of CLASS and RATE
at this boundary. -/
def applyLocal (s : State) (ch : List Nat) : State :=
  let s := (List.range 48).foldl dropConditions s
  if touchesRange ch 0x3200 0x3200 1 3 ∨ touchesRange ch 0x3000 0x302F 1 1 ∨ touchesRange ch 0x3000 0x302F 3 4 then s.syncCause
  else
    (List.range 8).foldl (fun (t : State) b =>
      let x := t.epochSec (etToRat t.et)
      t.modLoc (fun l => { l with bays := modNth l.bays b (fun (y : Bay) =>
        ⟨if touches ch (0x3100 + b) 0x03 then (t.et * t.c (0x3100 + b) 0x03 + sec - 1) / sec else y.nextK,
         if touches ch (0x3100 + b) 0x02 ∧ t.chainOn then (t.trackedIndex x).toRat.ceil.toNat else y.classFrom⟩) })) s

/-- A port's rings, laid out afresh (R562). -/
def freshRings (s : State) (p : Nat) : State := s.modPort p (fun x => { x with rxNext := 0, rx := [], txNext := 0, tx := [] })

/-- Ports: one that is disabled loses its line (R560), and rings of another size are laid out afresh (DESIGN CHOICE, log entry 93). -/
def applyPorts (s : State) (ch : List Nat) : State :=
  (List.range 6).foldl (fun (t : State) p =>
    let u := if touchesRange ch (pCfg p) (pCfg p) 0x0E 0x0F then t.freshRings p else t
    if u.cB (pCfg p) 0x01 then u else u.lineOff p) s

/-- A context whose commit touches it, or that is in MISMATCH (R197, R201, R236). -/
def applyContext (old : Store) (ch : List Nat) (s : State) (id : Nat) : State :=
  let i := 0x4000 + id
  let was := (s.under old).ctxEnabled id
  let is := s.ctxEnabled id
  let own := touchesRange ch i i 1 0x19 ||
    (decide (4088 ≤ id) && (touches ch (0x3100 + (id - 4088)) 0x01 || touches ch (0x3100 + (id - 4088)) 0x03))
  let a := if own then s.clearQualifier (qkey 2 id 0) else s
  let b :=
    if (s.under old).isTcp id ∧ !s.isTcp id then
      (if 2 ≤ s.tcpState id then ((a.under old).sendStreamCommand id 0x0001).under s.cfg else a).setN i 0x1B 0
    else if !(s.under old).isTcp id ∧ s.isTcp id then a.setN i 0x1B 1
    else a
  if !is then
    if was then ((b.setN i 0x1A 0).dropHeld id).modIng (fun x => { x with streams := eraseKey id x.streams }) else b
  else if !was then
    (b.modStream id (fun _ => ⟨none, none, 0, false⟩)).setStreamState id (if s.laneLive (laneOf id) then 1 else 6)
  else if s.streamState id = 5 then b.setStreamState id (if s.laneLive (laneOf id) then 1 else 6)
  else if own ∧ s.streamState id = 3 then b.afterLate id
  else b

/-- The contexts that a change concerns. -/
def touchedContexts (s : State) (old : Store) (ch : List Nat) : List Nat :=
  let direct := ((ch.map (· / 16777216)).filter (fun i => decide (0x4001 ≤ i) && decide (i ≤ 0x4FFF))).map (· - 0x4000)
  let local_ := ((List.range 8).filter (fun b => touchesRange ch (0x3100 + b) (0x3100 + b) 1 3)).map (4088 + ·)
  let wrong := (s.enabledStreams ++ (s.under old).enabledStreams).filter (fun i => s.streamState i = 5)
  (direct ++ local_ ++ wrong).dedup.insertionSort (· ≤ ·)

/-- Contexts, and the membership reports for the groups of those that the commit touches (R216). -/
def applyContexts (s : State) (old : Store) (ch : List Nat) : State :=
  let t := (s.touchedContexts old ch).foldl (applyContext old ch) s
  (List.range 6).foldl (fun (u : State) p =>
    let before := (s.under old).contextGroups p
    u.reportGroups p ((u.contextGroups p).filter (fun g => !before.contains g))) t

/-- The transit engine: the first transit under a changed watch table says so (R248, R253). -/
def applyTransit (s : State) (ch : List Nat) : State :=
  (if touches ch 0x5100 0x01 then s.modTr (fun t => { t with watchChanged := true }) else s).recheck

/-- The Spectroscope, before its configuration changes (R276): resets of the signals and bands that the commit touches. -/
def resetChanged (s : State) (ch : List Nat) : State :=
  if !s.flag 0x6000 0x02 then s
  else
    let watch := touchedElems ch 0x5100 0x01
    let sigs := fun (k : Nat) =>
      (if k < 4096 then (touchedElems ch 0x6001 0x01).contains k else (touchedElems ch 0x6002 0x01).contains (k - 4096)) ||
      (decide (k < 4096) && (signalEntries (signalRecord s k)).any watch.contains)
    let bands := fun (k : Nat) => touchedElems ch (if k < 4096 then 0x6003 else 0x6004) 0x01
    (usedSignals s false ++ usedSignals s true).foldl (fun (t : State) k =>
      if sigs k then t.resetSignal k
      else ((signalBands t k).filter (bands k).contains).foldl (fun (u : State) b => u.resetResonator (k * 64 + b)) t) s

/-- The lowest-numbered signal whose resonator has an alarm (0 POORLY_DAMPED, 1 GROWING) in a band, or has just been cleared of it by the reset
that a commit makes; 0xFFFF for none (R285). -/
def alarmSignal (s : State) (old : Store) (loc : Bool) (b alarm : Nat) : Nat :=
  let keys := (usedSignals (s.under old) loc ++ usedSignals s loc).filter (fun k =>
    let r := s.resonator (k * 64 + b)
    if alarm = 0 then r.pd || r.pdChanged else r.gr || r.grChanged)
  ((keys.map (fun k => if loc then k - 4096 else k)).min?).getD 0xFFFF

/-- The first number of a local block that fixed-rate samples still to come complete. -/
def nextLocalBlock (s : State) : Nat := if s.loc.nextFixed = 0 then 0 else (s.loc.nextFixed + 159) / 160 * 8

/-- The Spectroscope under its new configuration: resonators that no longer exist are gone, but for alarm clearings that their lane has not
contributed yet; turned off, its alarms end and a waiting RESET_CMD fails; turned on, it starts with everything reset (R276, R278, R282,
R285). -/
def applySpectro (s : State) (old : Store) (ch : List Nat) : State :=
  let was := (s.under old).cB 0x6000 0x01
  let is := s.cB 0x6000 0x01
  if was = is then
    if touchesRange ch 0x6001 0x6004 1 1 then
      let keys := (usedSignals s false ++ usedSignals s true).flatMap (fun k => (signalBands s k).map (fun b => k * 64 + b))
      s.modSpec (fun x => { x with
        res := x.res.filter (fun (e : Nat × Resonator) => keys.contains e.1 || e.2.pdChanged || e.2.grChanged) })
    else s
  else
    let clean := s.modSpec (fun x => { State.resetSpec with
      shapes := x.shapes, lastInter := x.lastInter, lastLocal := x.lastLocal, nextLocal := s.nextLocalBlock })
    if is then clean
    else
      let on := (List.range 96).flatMap (fun e =>
        ([0, 1].filter (field (s.elem 0x6011 0x01 e) 6 1).testBit).map (fun a => (decide (32 ≤ e), e % 32 + (if 64 ≤ e then 32 else 0), a)))
      let raised := on.foldl (fun (u : State) x => u.spectroAlarm x.1 x.2.1 x.2.2 false (s.alarmSignal old x.1 x.2.1 x.2.2)) clean
      let t := (List.range 96).foldl (fun (u : State) e => u.setElem 0x6011 0x01 e (List.replicate 24 0))
        (raised.deliverAlarms (on.map (fun x => (bandAlarm x.1 x.2.1 x.2.2, false))))
      if t.resultState 0x6005 = 1 then t.finishCmd 0x6005 0x0003 [] else t

/-- Horizon (R294, R296, R308): the buses and ties that the commit touches start anew. -/
def applyHorizon (s : State) (old : Store) (ch : List Nat) : State :=
  let o := s.under old
  let watch := touchedElems ch 0x5100 0x01
  let busIds := (o.enabledBuses ++ s.enabledBuses ++ touchedElems ch 0x6101 0x01).dedup
  let buses := busIds.filter (fun b => (touchedElems ch 0x6101 0x01).contains b || watch.contains (field (s.busRecord b) 0 2) ||
    watch.contains (field (s.busRecord b) 2 2))
  let tieIds := (o.enabledTies ++ s.enabledTies ++ touchedElems ch 0x6102 0x01).dedup
  let ties := tieIds.filter (fun t => (touchedElems ch 0x6102 0x01).contains t || buses.contains (s.busI t) || buses.contains (s.busJ t))
  let a := s.closeTies ties buses
  let on := s.cB 0x6100 0x01
  let b := if !buses.isEmpty ∨ !ties.isEmpty ∨ touches ch 0x6100 0x03 ∨ (on ∧ !o.cB 0x6100 0x01) then a.freshIslands else a
  let c := if !on ∧ o.cB 0x6100 0x01 then b.horizonOff else b
  (List.range 8).foldl (fun (t : State) y =>
    if !touches ch (0x6110 + y) 0x01 then t
    else if t.cB (0x6110 + y) 0x01 then
      t.modLom y (fun x => { x with nextH := (t.loc.nextTracked + 127) / 128, psis := [], freqs := [], rocofRun := 0 })
    else if (t.lomBay y).active then (t.modLom y (fun x => { x with blocked := false })).lomRelease y
    else (t.modLom y (fun x => { x with blocked := false })).lomState y) c

/-- Output streams and GOOSE (R320, R323, R326): CFGCNT of each changed stream, connections of those not in use, and publications
and subscriptions whose records change start anew. -/
def applyEgress (s : State) (old : Store) (ch : List Nat) : State :=
  let a := (List.range 16).foldl (fun (t : State) n =>
    if !touchesRange ch (egIndex n) (egIndex n) 1 0x0F then t
    else
      let u := t.modEgr (fun e => { e with cfgCounts := setNth e.cfgCounts n (t.num 0x1200 0x04) })
      if t.cB (egIndex n) 0x01 then
        (if (t.under old).cB (egIndex n) 0x01 then u
         else u.modEgr (fun e => { e with outs := modNth e.outs n (fun (_ : EgressOut) => ⟨false, [], []⟩) }))
      else u.modEgr (fun e => { e with
        outs := modNth e.outs n (fun (_ : EgressOut) => ⟨false, [], []⟩)
        conns := e.conns.filter (fun (x : Nat × Nat) => x.1 != n) })) s
  let b := (touchedElems ch 0x5901 0x01).foldl startPub a
  ((touchedElems ch 0x5903 0x01).foldl startSub b).gooseSample

/-- The Orrery (R353, R356): a changed image waits for its switch while the Orrery runs and is taken at once otherwise; ENABLE, and
from STOPPED a changed image, start it anew. -/
def applyOrrery (s : State) (ch : List Nat) : State :=
  let image := touches ch 0x7001 0x01
  let a :=
    if !image then s
    else if s.num 0x7000 0x02 = 2 ∧ s.orreryOn then (s.loadIdle (imageOf s.cfg)).modOrr (fun o => { o with switchDue := true })
    else
      let t := s.loadIdle (imageOf s.cfg)
      (t.setN 0x7000 0x03 (1 - t.num 0x7000 0x03)).showImage
  let b :=
    if !a.orreryOn then (if a.num 0x7000 0x02 = 0 then a else a.orreryOff)
    else if a.num 0x7000 0x02 = 0 ∨ (a.num 0x7000 0x02 = 3 ∧ (image ∨ touches ch 0x7000 0x01)) then a.orreryWait
    else a
  let c := (List.range 16).foldl (fun (t : State) n =>
    if touches ch (0x7100 + n) 0x01 then
      (t.modBo n (fun _ => ⟨false, true, none, none, 0, 0⟩)).setN (0x7100 + n) 0x07 (t.num (0x7100 + n) 0x07 / 16 * 16)
    else t) b
  (List.range 24).foldl (fun (t : State) n => if touches ch (0x7120 + n) 0x01 then t.freshBi n else t) c

/-- The demand interval in progress at a DEMAND_PERIOD change is PARTIAL, and ends at the next boundary under the new period (R381); a
condition of R383 that is not enabled any more is absent. -/
def applyMeters (s : State) (ch : List Nat) : State :=
  (List.range 8).foldl (fun (t : State) b =>
    let u := if touches ch (0x8000 + b) 0x03 then t.modPmBay b (fun x => { x with partial_ := true, demandFrom := t.et }) else t
    [0, 1].foldl (fun (v : State) k => if (v.c (0x8000 + b) 0x04).testBit k then v else v.dropCondition b k) u) s

/-- The recorder (R403); the condition of a changed trigger record is false until it is met. -/
def applyRecorder (s0 : State) (ch : List Nat) : State :=
  let s := (touchedElems ch 0x9010 0x01).foldl (fun (t : State) n => t.setCond n false) s0
  if !s.cB 0x9000 0x01 then (if s.recorderState = 0 then s else s.recorderOff)
  else if s.power ≠ 0 then s
  else if s.recorderState = 0 ∨ (s.recorderState = 4 ∧ touchesRange ch 0x9000 0x9000 1 0x0C) then s.armRecorder
  else s

/-- Counters whose SOURCE changes are cleared (R525), and the snapshot period starts anew. -/
def applyHealth (s : State) (ch : List Nat) : State :=
  let t := (List.range 80).foldl (fun (u : State) c => if touches ch (0xE000 + c) 0x01 then u.setN (0xE000 + c) 0x02 0 else u) s
  if touches ch 0xE050 0x02 then t.modEv (fun e => { e with snapDue := t.raw + t.c 0xE050 0x02 * tickMs }) else t

/-- The tamper policy goes to PD0 and to flash when a commit changes it (R462). -/
def applyTamper (s : State) (ch : List Nat) : State :=
  if !touchesRange ch 0xB100 0xB100 9 0x0A then s
  else
    let gen := match s.flash.policy with
      | some p => p.generation + 1
      | none => 1
    (s.modKeys (fun k => { k with pd0Enable := s.c 0xB100 0x09, pd0AonLoss := s.cB 0xB100 0x0A })).modFlash (fun f => { f with
      policy := some ⟨s.c 0xB100 0x09, s.cB 0xB100 0x0A, gen⟩ })

/-- PAIR_MODE (R468–R470): a unit that becomes a pair unit stops acting until it claims; a SINGLE unit in RUNNING acts. -/
def applyPair (s : State) (ch : List Nat) : State :=
  if !touches ch 0xC000 0x01 then s
  else if s.isPair then s.setN 0xC000 0x05 0
  else ((s.modPar (fun p => { p with claim := false, holdExpired := false, handover := false })).setN 0xC000 0x09 0).setN 0xC000 0x05
    (bit01 (s.inRunning && decide (s.power = 0)))

/-- A partition whose size changes loses its content and is reported (R562). -/
def losePartition (s : State) (sub : Nat) : State :=
  match sub with
  | 1 => (List.range 4).foldl emptyQueue s
  | 2 => s.emptyRing
  | 3 => s.modTr (fun t => { t with history := [] })
  | 4 => s.modEv (fun e => { e with ring := [] })
  | _ => (List.range 6).foldl freshRings s

def applyPartitions (s : State) (ch : List Nat) : State :=
  let subs := ((List.range 5).map (· + 1)).filter (touches ch 0xF120)
  subs.foldl (fun (t : State) x => t.raiseEvent 60 x) (subs.foldl losePartition s)

/-- AUTO_RELOAD turned on reloads the lanes that are fenced (R51). -/
def applyLanes (s : State) (ch : List Nat) : State :=
  if touches ch 0xF134 0x01 ∧ s.power = 0 then ((List.range 4).filter (fun n => s.laneState n == 1)).foldl autoReload s else s

/-- Fixed voltages are requested once (R28). -/
def applySupply (s : State) : State := if s.cB 0xF100 0x02 then s else s.avsFixed

/-! ## The boundary -/

/-- Every change becomes effective (R73). -/
def applyConfig (s : State) (old : Store) (ch : List Nat) : State :=
  let a := ((((s.applyPartitions ch).applyTime ch).applyLocal ch).applyPorts ch).applyContexts old ch
  let b := (((a.applyTransit ch).applySpectro old ch).applyHorizon old ch).rerouteAll.1
  let c := (((b.applyEgress old ch).applyOrrery ch).applyMeters ch).applyRecorder ch
  (((((c.applyHealth ch).applyTamper ch).applyPair ch).applyLanes ch).applySupply).showConfig

/-- The commit's transit boundary has come: the first instant of a running transit generation at or after the end of the quiesce, under the
staged F_T; at once while no transits run. -/
def atBoundary (s : State) : Bool :=
  !s.transitsRun ||
  (decide (s.alm.quiesce ≤ s.raw) && s.tr.pendingRate.isNone && decide (s.tkOf (s.firstAt (s.etAt s.alm.quiesce)) ≤ s.et))

/-- The staged configuration becomes the committed one, and the commit ends DONE (R73, R501). -/
def activate (s : State) : State :=
  let ch := changedKeys s.cfg s.staged
  let a := ({ s.resetChanged ch with cfg := s.staged } : State).inc32 0x1200 0x04
  let b := ((a.applyConfig s.cfg ch).setN 0xD000 0x09 0).modBoot (fun x => { x with saveDue := true })
  ((b.unstage).modAlm (fun x => { x with commit := .idle })).finishCmd 0x1201 0 (beBytes 2 0)

/-- COMMIT_ACTIVATE (R73). -/
def commitActivate (s : State) : State :=
  if s.alm.commit ≠ .quiescing then s
  else
    let t := s.awaitRate
    if t.atBoundary then t.activate else t

end State

/-- COMMIT_VALIDATION_END (R73). -/
def execCommitValidationEnd (s : State) : Host.Outcome State Fault Refusal := complete s State.commitValidated

/-- COMMIT_ACTIVATE (R73). -/
def execCommitActivate (s : State) : Host.Outcome State Fault Refusal := complete s State.commitActivate

end Sys2Proof.Machine
end

