-- ==== Sys2Proof/Machine/Logbook.lean ====
section
/-! DEFINITION. The Logbook's flash ring, its blocks for sessions and its clears (R420, R424–R427). The writing of records is in
Ops.lean. -/

namespace Sys2Proof.Machine

namespace State

/-- A record enters the flash ring: 128 sectors of 1,024 records, the oldest sector erased when all are full (R425). -/
def appendFlash (s : State) (r : LogRecord) : State :=
  let log := s.flash.log
  match log.getLast? with
  | some sec =>
    if sec.length < 1024 then s.modFlash (fun f => { f with log := f.log.dropLast ++ [sec ++ [r]] })
    else if log.length < 128 then s.modFlash (fun f => { f with log := f.log ++ [[r]] })
    else (s.modFlash (fun f => { f with log := f.log.drop 1 ++ [[r]] })).add 64 0xA000 0x0A (log.headD []).length
  | none => s.modFlash (fun f => { f with log := [[r]] })

/-- The oldest queued record is written to flash; a write that a power loss cuts leaves a record that fails its CRC (R425). -/
def flashMirrorWrite (s : State) (cut : Bool) : State :=
  match s.ev.flashQueue with
  | [] => s
  | r :: rest => (s.modEv (fun e => { e with flashQueue := rest })).appendFlash { r with intact := !cut }

/-- Damaged records met in a ring (0 DRAM, 1 flash): counted, and LOG_DAMAGED at most once per second (R424, R425). -/
def countDamaged (s : State) (ring n : Nat) : State :=
  if n = 0 then s
  else
    let t := s.add 32 0xA000 0x07 n
    let u := if ring = 1 then t.add 32 0xA000 0x0C n else t
    let due : Bool := match s.ev.lastDamaged with
      | none => true
      | some l => decide (l + tickSec ≤ s.raw)
    if due then (u.modEv (fun e => { e with lastDamaged := some s.raw })).raiseEvent 94 ring else u

/-- A session's own value of an object it holds separately. -/
def own (s : State) (sess index sub : Nat) : Nat := s.ownNum sess index sub

/-- A write of LOG_SELECT (R426): the block of up to 1,024 records as the ring stands; readable at LOG_BLOCK_READY. -/
def logSelect (s : State) (sess select : Nat) : State :=
  let ring := s.own sess 0xA002 0x01
  let all := if ring = 1 then s.flash.log.flatten else s.ev.ring
  let wanted := all.filter (fun (r : LogRecord) => select ≤ r.sequence)
  let good := ((wanted.filter (·.intact)).insertionSort (fun a b => a.sequence ≤ b.sequence)).take 1024
  let bytes := (good.map LogRecord.bytes).flatten
  let s1 := s.countDamaged ring (wanted.filter (fun r => !r.intact)).length
  let c := if s.own sess 0xA002 0x03 = 1 then s1.compressBlock bytes else (s1, bytes, false)
  let next := match good.getLast? with
    | some r => r.sequence + 1
    | none => select
  c.1.modEv (fun e => { e with
    blocks := e.blocks.filter (fun (b : LogBlock) => b.session ≠ sess) ++ [⟨sess, c.2.1, c.2.2, good.length, next, false⟩] })

/-- The block that was built becomes readable (R426). -/
def logBlockReady (s : State) (sess : Nat) : State :=
  s.modEv (fun e => { e with blocks := e.blocks.map (fun (b : LogBlock) => if b.session = sess then { b with ready := true } else b) })

/-- CLEAR (R427). -/
def clearLog (s : State) : State := s.modEv (fun e => { e with ring := [] })

/-- FLASH_CLEAR (R427). -/
def clearFlashLog (s : State) : State := s.modFlash (fun f => { f with log := [] })

/-- The next SEQUENCE at a start (R420); the records of the flash ring that do not verify are met on the way (R424; DEDUCED, log entry
100). -/
def restoreSequence (s : State) : State :=
  let all := s.flash.log.flatten
  let good := all.filter (fun (r : LogRecord) => r.intact)
  (s.countDamaged 1 (all.length - good.length)).setN 0xA000 0x03 ((good.map (fun (r : LogRecord) => r.sequence)).foldl max 0 + 1)

end State

/-- FLASH_MIRROR_WRITE (R425). -/
def execFlashMirrorWrite (cut : Bool) (s : State) : Host.Outcome State Fault Refusal :=
  complete s (fun s => s.flashMirrorWrite cut)

/-- LOG_BLOCK_READY (R426). -/
def execLogBlockReady (session : Nat) (s : State) : Host.Outcome State Fault Refusal :=
  complete s (fun s => s.logBlockReady session)

end Sys2Proof.Machine
end

