-- ==== Sys2Proof/Machine/Startup.lean ====
section
/-! DEFINITION. The start sequence (R497–R501), the root at a start and at a wake (R439–R444), persistent images (R502–R509), recovery
mode (R510–R512), and entry to QUIET and the wake from it (R33–R37). -/

namespace Sys2Proof.Machine

/-! ## Images (R502, R503, R512) -/

/-- Bytes of a bank of a type. -/
def bankSize (type : Nat) : Nat := if type = 0 then 262144 else if type = 1 then 16777216 else 1048576

def imageVersion (b : List Byte) : Nat := field b 8 4
def imagePayload (b : List Byte) : List Byte := slice b 256 (field b 12 4)

/-- PEER MIN and MAX of an image for another type. -/
def imagePeer (b : List Byte) (type : Nat) : Nat × Nat := (field b (24 + 8 * type) 4, field b (28 + 8 * type) 4)

/-- Bytes of a header that R502 fixes. -/
def headerOk (b : List Byte) (type : Nat) : Bool :=
  field b 0 4 == 0x5446574D && field b 4 1 == 1 && field b 5 1 == type && allZero (slice b 6 2) && allZero (slice b 21 3) &&
  allZero (slice b 144 16) && allZero (slice b (24 + 8 * type) 8) && (type == 1 || (field b 20 1 == 0 && allZero (slice b 96 48))) &&
  decide (256 + field b 12 4 ≤ min b.length (bankSize type))

/-- The payload unpacks to exactly UNPACKED_LEN bytes. -/
def unpacks (b : List Byte) : Bool :=
  match inflate (imagePayload b) (field b 16 4) (field b 16 4) with
  | (.done, d) => d.bytesOut.length == field b 16 4
  | _ => false

/-- The check of R503 on a bank's bytes, with the key of KS1: 0, or the code of R514 that the first failure has. -/
def imageCheck (ks1 : List Byte) (type : Nat) (b : List Byte) : Nat :=
  if !headerOk b type then 0x0046
  else if !ecdsaVerify ks1 (sha384 (b.take 160)) (slice b 160 96) then 0x0043
  else if sha384 (imagePayload b) ≠ slice b 48 48 then 0x0044
  else if !unpacks b then 0x0045
  else 0

/-- The check of a recovery image (R512): the trailer keyed with RK_IMAGE in place of SIGNATURE. -/
def recoveryCheck (rk : List Byte) (type : Nat) (b : List Byte) : Nat :=
  let n := 256 + field b 12 4
  if !headerOk b type ∨ b.length < n + 48 then 0x0046
  else if slice b n 48 ≠ hmac (recoveryChild rk "image") (b.take n) then 0x0043
  else if sha384 (imagePayload b) ≠ slice b 48 48 then 0x0044
  else if !unpacks b then 0x0045
  else 0

/-- The check of a bank; a blank one holds no image, and what manufacture programmed verifies (log entry 6). -/
def bankCheck (ks1 : List Byte) (type : Nat) : BankContent → Nat
  | .blank => 0x0046
  | .factory => 0
  | .written b => imageCheck ks1 type b

namespace State

def bank (s : State) (type b : Nat) : BankContent :=
  let p := nth s.flash.banks type (.blank, .blank)
  if b = 0 then p.1 else p.2

def setBank (s : State) (type b : Nat) (x : BankContent) : State :=
  s.modFlash (fun f => { f with banks := f.banks.modify type (fun (p : BankContent × BankContent) => if b = 0 then (x, p.2) else (p.1, x)) })

def activeBank (s : State) (type : Nat) : Nat := s.num (0xD010 + type) 0x01
def idleBank (s : State) (type : Nat) : Nat := 1 - s.activeBank type

/-- STATE of a bank: 0 EMPTY, 1 WRITING, 2 WRITTEN, 3 VERIFIED, 4 INVALID, 5 ACTIVE, 6 TRIAL. -/
def bankState (s : State) (type b : Nat) : Nat := s.num (0xD010 + type) (2 + b)
def setBankState (s : State) (type b st : Nat) : State := s.setN (0xD010 + type) (2 + b) st

def setTried (s : State) (type : Nat) (b : Bool) : State := s.modFlash (fun f => { f with tried := setNth f.tried type b })

/-- KS1's public point: of its loaded record, or of an intact record's plain PUBLIC when there is no root to check it with. -/
def ks1Point (s : State) : List Byte :=
  match s.key 1 with
  | some k => k.pub
  | none =>
    let p := nth s.flash.slots 1 (.blank, .blank)
    let a := slotBytes 1 p.1
    slice (if a.length = 256 then a else slotBytes 1 p.2) 96 97

/-- The bank that a stage runs (R503, R504): the active one unless it fails or has been tried in TRIAL, then the other; the answer
tells whether there is one. -/
def chooseBank (s : State) (type : Nat) : State × Bool :=
  let a := s.activeBank type
  let o := s.idleBank type
  let trial := s.bankState type a == 6
  let ok := fun (b : Nat) => bankCheck s.ks1Point type (s.bank type b) == 0
  if ok a ∧ !(trial && nth s.flash.tried type true) then (if trial then s.setTried type true else s, true)
  else
    let t := s.setBankState type a 4
    if ok o then
      ((((t.setN (0xD010 + type) 0x01 o).setBankState type o 5).inc32 (0xD010 + type) 0x0A).raiseEvent 123 type, true)
    else (if s.bankState type o = 0 then t else t.setBankState type o 4, false)

/-- A TRIAL image that has passed becomes ACTIVE (R504). -/
def endTrial (s : State) (type : Nat) : State :=
  if s.bankState type (s.activeBank type) = 6 then s.setBankState type (s.activeBank type) 5 else s

/-! ## The root (R439–R444, R459) -/

/-- The PUF read and reconstruction, in up to 3 attempts: the registers it leaves, the root, and whether there is one. -/
def readPuf (s : State) (attempts : List PufRead) : State :=
  let tried := attempts.take 3
  let n := (tried.takeWhile (fun (a : PufRead) => !a.copyA && !a.copyB)).length
  let last : PufRead := nth tried (min n (tried.length - 1)) ⟨false, false, 0⟩
  let ok := last.copyA || last.copyB
  let s1 := ((s.setN 0xB100 0x06 last.berPpm).setN 0xB100 0x07 (bitsOfList [!last.copyA, ok && last.copyA && !last.copyB])).modBoot
    (fun b => { b with morePuf := min n 2 })
  let s2 := if ok ∧ 100000 < last.berPpm then s1.raiseEvent 98 last.berPpm else s1
  if ok then (s2.setN 0xB100 0x05 (bit01 (decide (0 < n)))).modKeys (fun k => { k with root := some unitRoot })
  else ((s2.setN 0xB100 0x05 2).setN 0xB100 0x07 3).raiseEvent 99 (max 1 tried.length)

/-- VDD_AON was lost (R461, R462): bit 8 as the verified flash copy of the policy says, and the PD0 copy loaded from it. -/
def decideAonLoss (s : State) : State :=
  if !s.keys.aonLost then s
  else
    let policy := if s.keys.root.isSome then s.flash.policy else none
    let hit : Bool := match policy with
      | some p => p.aonLoss && p.enable.testBit 8
      | none => true
    let s1 := s.modKeys (fun k => { k with
      aonLost := false
      pd0Enable := (policy.map (·.enable)).getD 0x00FF
      pd0AonLoss := (policy.map (·.aonLoss)).getD false })
    if hit then s1.latchTamper 8 else s1.inc32 0xB100 0x0D

/-- STAGE_PUF (R439–R442, R459). -/
def stagePuf (s : State) (attempts : List PufRead) : State :=
  if s.boot.inReset ∨ s.stage ≠ 1 then s
  else
    let a := s.readPuf attempts
    let b := match a.keys.root with
      | some root => (a.modKeys (fun k => { k with rk := some (recoveryKey root) })).setBytes 0xB100 0x08 (rkFingerprint (recoveryKey root))
      | none => a.setN 0xB100 0x01 1
    b.decideAonLoss.enterStage 2

/-- One more item in M (R445). -/
def measure (s : State) (n : Nat) (item : List Byte) : State :=
  (s.setBytes 0xB100 0x02 (extendM s.measurement item)).setElem 0xB100 0x04 n (sha384 item)

/-- STAGE_ROM (R445, R451, R503, R510). -/
def stageRom (s : State) : State :=
  if s.boot.inReset ∨ s.stage ≠ 2 then s
  else if s.boot.recoverLow then s.enterRecoveryMode 1
  else if s.flash.enterRecovery then (s.modFlash (fun f => { f with enterRecovery := false })).enterRecoveryMode 4
  else
    let a := match s.keys.root with
      | some root => s.loadSlot root 1
      | none => s
    let b := a.chooseBank 0
    if !b.2 then b.1.enterRecoveryMode 2
    else ((b.1.measure 0 Config.romImage).measure 1 (b.1.activeImage 0)).enterStage 3

/-- STAGE_STAGE2 (R503, R504, R510). -/
def stageStage2 (s : State) : State :=
  if s.boot.inReset ∨ s.stage ≠ 3 then s
  else
    let a := s.chooseBank 1
    if !a.2 then a.1.enterRecoveryMode 3
    else
      let image := a.1.activeImage 1
      ((((a.1.measure 2 image).setN 0xC000 0x0A (field image 20 1)).endTrial 0).modBoot (fun b => { b with mainTick := s.raw })).enterStage 4

/-! ## Stage MAIN (R451, R497, R501) -/

/-- The stored copy to restore: the one of highest generation whose CRC verifies. -/
def bestConfig (s : State) : Option ConfigCopy :=
  let l := ([s.flash.configA, s.flash.configB].filterMap id).filter (·.intact)
  match l with
  | [] => none
  | x :: rest => some (rest.foldl (fun (b : ConfigCopy) c => if b.generation < c.generation then c else b) x)

/-- The newest generation in flash. -/
def configGeneration (s : State) : Nat :=
  (([s.flash.configA, s.flash.configB].filterMap id).map (·.generation)).foldl max 0

/-- The configuration as restored, validated (R501): its source, and CONFIG_RESTORE_FAILED. -/
def restoreConfig (s : State) : State :=
  let g := s.setN 0xD000 0x07 s.configGeneration
  if s.flash.configA.isNone ∧ s.flash.configB.isNone then ({ g with cfg := [] } : State).setN 0xD000 0x08 1
  else
    match s.bestConfig with
    | none => (({ g with cfg := [] } : State).setN 0xD000 0x08 2).raiseEvent 122 s.boot.cause
    | some x =>
      let l := g.validateStored x.entries
      let t := g.writeReport x.entries l
      if l.isEmpty then ((({ t with cfg := x.entries } : State).setN 0xD000 0x08 0).setN 0xD000 0x09 1)
      else (({ t with cfg := [] } : State).setN 0xD000 0x08 2).raiseEvent 122 s.boot.cause

/-- The fourth item is measured and M is locked (R445): the section of the configuration as restored. -/
def lockM (s : State) : State :=
  (s.measure 3 (measuredSection ((s.bestConfig.map (·.entries)).getD []))).modKeys (fun k => { k with locked := true })

/-- Slots are loaded, or the unit is RESTRICTED when it has no root or the tamper latch is set (R451, R463). -/
def loadKeys (s : State) : State :=
  if s.keys.root.isSome ∧ s.num 0xB100 0x0B = 0 then s.loadSlots
  else (s.unloadSlots.modKeys (fun k => { k with root := none })).setN 0xB100 0x01 1

/-- A helper copy that failed is rewritten from the one that did not (R440). -/
def rewriteHelper (s : State) : State :=
  let h := s.num 0xB100 0x07
  if h = 1 ∨ h = 2 then s.setN 0xB100 0x07 (h + 4) else s

/-- The ports take the configuration of a start: a disabled one loses its line, and one that has link reports its groups (R216, R560). -/
def beginPorts (s : State) : State :=
  ((List.range 6).foldl (fun (t : State) p =>
    if !t.cB (pCfg p) 0x01 then t.lineOff p
    else if t.flag (pCfg p) 0x10 then t.reportGroups p (t.contextGroups p) else t) s).askWanted

/-- Every block of the configuration takes it at a start; with AVS_ENABLE 0 the fixed voltages are requested here, R28 speaking only of a
commit (DESIGN CHOICE, log entry 71). -/
def beginConfig (s : State) : State :=
  let a := (((List.range 8).foldl initOut s).initPtp).refreshUtc
  let b := a.enabledStreams.foldl (fun (t : State) i =>
    (if t.isTcp i then t.setN (0x4000 + i) 0x1B 1 else t).setStreamState i 1) a
  let c := (List.range 64).foldl startSub ((List.range 16).foldl startPub b.beginPorts)
  let img := imageOf c.cfg
  let d := ((c.modOrr (fun o => { o with banks := [img, []] })).setN 0x7000 0x03 0).showImage
  let e := if d.orreryOn then d.orreryWait else d
  ((e.modEv (fun x => { x with snapDue := e.raw + e.c 0xE050 0x02 * tickMs })).freshIslands.applySupply).showConfig

/-- STAGE_MAIN (R497). -/
def stageMain (s : State) : State :=
  if s.boot.inReset ∨ s.stage ≠ 4 then s
  else
    let a := s.lockM.loadKeys.restoreConfig
    let b := a.restoreSequence.logReady
    let c := (({ b with staged := b.cfg } : State).rewriteHelper.pmRestore).beginConfig
    c.enterStage 5

/-- STAGE_MICROCODE (R500): the lanes run. -/
def stageMicrocode (s : State) : State :=
  if s.boot.inReset ∨ s.stage ≠ 5 then s
  else (s.modFab (fun f => { f with lanes := f.lanes.map (fun (l : LanePower) => { l with leaseTick := s.raw }) })).enterStage 6

/-- The channels that failed calibration (R132). -/
def failChannels (s : State) (failed : List (Fin 48)) : State :=
  (List.range 48).foldl (fun (t : State) ch =>
    let bad := t.cB (0x3000 + ch) 0x01 && failed.any (fun (f : Fin 48) => f.val = ch)
    let u := t.modChannel ch (fun c => { c with calFailed := bad })
    if bad then u.raiseEvent 52 ch else u) s

/-- No channel has failed calibration. -/
def calibrated (s : State) : Bool := (List.range 48).all (fun ch => !(s.channel ch).calFailed)

/-- The analog die is loaded and calibrated (R132, R503, R504): without a calibration image every enabled channel keeps its factory gain
and offset (log entry 95). -/
def calibrate (s : State) (failed : List (Fin 48)) : State :=
  let a := s.chooseBank 2
  let b := a.1.failChannels (if a.2 then failed else List.finRange 48)
  let ok := a.2 && b.calibrated
  ((if ok then b.endTrial 2 else b).setN 0x3200 0x0C (if ok then 1 else 2)).setN 0x3200 0x0B 1

/-- STAGE_CALIBRATION (R132, R503, R504). -/
def stageCalibration (s : State) (failed : List (Fin 48)) : State :=
  if s.boot.inReset ∨ s.stage ≠ 6 then s else (s.calibrate failed).enterStage 7

/-- The start-up's synchronising reset (R146, R497). -/
def endAcquisition (s : State) : State := (s.enterStage 8).syncCause

/-- ACQUISITION_END (R499): LOCKED, or no reference configured. -/
def acquisitionEnd (s : State) : State :=
  if s.stage = 7 ∧ !s.boot.inReset ∧ (s.locked ∨ (s.c 0x2000 0x16 = 0 ∧ s.c 0x2000 0x17 = 0)) then s.endAcquisition else s

/-- ACQUISITION_TIMEOUT (R499). -/
def acquisitionTimeout (s : State) : State :=
  if s.stage = 7 ∧ !s.boot.inReset ∧ s.boot.stageTick + s.c 0xD000 0x06 * tickSec ≤ s.raw then
    s.endAcquisition.raiseEvent 121 s.boot.cause
  else s

/-- WATCHDOG_EXPIRY (R498): the watchdog runs from stage MAIN onward while the management core does. -/
def watchdog (s : State) : State :=
  if s.boot.inReset ∨ s.stage < 4 ∨ s.stage = 15 ∨ 1 < s.power then s else s.restart 5

/-- CONFIG_SAVE (R501). -/
def configSave (s : State) : State :=
  if !s.boot.saveDue ∨ 1 < s.power ∨ s.boot.paused then s
  else
    let g := s.configGeneration + 1
    let copy : ConfigCopy := ⟨g, s.cfg, true⟩
    let intoB : Bool := match s.flash.configA with
      | some x => x.generation == s.configGeneration
      | none => false
    (((s.modFlash (fun f => if intoB then { f with configB := some copy } else { f with configA := some copy })).setN 0xD000 0x07 g).setN
      0xD000 0x09 1).modBoot (fun b => { b with saveDue := false })

/-- TRIAL_END (R504). -/
def trialEnd (s : State) (type : Nat) : State :=
  let due : Bool := match type with
    | 0 => decide (4 ≤ s.stage)
    | 1 => decide (4 ≤ s.stage) && !s.boot.paused && decide (s.boot.mainTick + 10 * tickSec ≤ s.raw)
    | _ => s.chainOn && s.calibrated
  if s.boot.inReset ∨ s.stage = 15 ∨ !due then s else s.endTrial type

/-! ## RESET_N -/

/-- RESET_N_ASSERT (R443, R495, R498). -/
def resetAssert (s : State) : State :=
  if s.boot.inReset then s
  else
    let t := s.inResetWith keptKeys
    if 2 ≤ s.power then t.setN 0xF140 0x04 5 else t

/-- RESET_N_RELEASE (R468, R497, R510): the straps are sampled; a lost VDD_AON leaves PD0 cleared, and power-on leaves DRAM with
nothing written. -/
def resetRelease (s : State) (unitId witMode recoverLow aonLost powerOn : Bool) : State :=
  if !s.boot.inReset then s
  else
    let a := ((s.setN 0x1401 0x01 (bitsOfList [unitId, witMode, recoverLow])).setN 0xC000 0x02 (bit01 unitId)).setN 0xC000 0x03
      (bit01 witMode)
    let b := a.modBoot (fun x => { x with recoverLow := recoverLow })
    let c := if aonLost then
        ((b.setN 0xB100 0x0B 0).modPar (fun p => { p with deposed := false })).modKeys (fun k => { k with aonLost := true })
      else b
    let d := if powerOn then { c with dram := [] } else c
    d.startUp (if powerOn then 0 else 1)

/-! ## Restarts by command (R488, R498, R510, R512) -/

/-- An acting pair unit's last image carries SPECIAL, and it releases its claim (R488). -/
def leaveActing (s : State) : State :=
  if s.isPair ∧ s.acting then (s.mirrorOut (.mirrorImage (s.outputImage true))).releaseClaim else s

/-- RESTART_CMD completes: the restart, from recovery with cause 7 (R512). -/
def restartNow (s : State) : State :=
  let t := (s.finishCmd 0x1F01 0 []).leaveActing
  if s.stage = 15 then (t.modFlash (fun f => { f with recovered := some (s.num 0xD000 0x05) })).restart 7 else t.restart 2

/-- ENTER_RECOVERY completes: the unit restarts into recovery mode (R505, R510). -/
def recoverNow (s : State) : State :=
  ((s.finishCmd 0xD021 0 []).leaveActing.modFlash (fun f => { f with enterRecovery := true })).restart 2

/-! ## Firmware commands (R505–R509, R512) -/

/-- FW_RESULT with a code, in one step. -/
def fwQuick (s : State) (code : Nat) (data : List Byte) : State := s.quickCmd 0xD021 code data

def fwStart (s : State) (j : Job) : State := (s.startCmd 0xD021).addJob j

/-- VERIFY (R503, R512) of the idle bank's content. -/
def fwCheck (s : State) (type : Nat) : Nat :=
  if s.stage = 15 then
    match s.keys.rk, s.bank type (s.idleBank type) with
    | some rk, .written b => recoveryCheck rk type b
    | _, _ => 0x0046
  else bankCheck s.ks1Point type (s.bank type (s.idleBank type))

/-- The first pair of image types, of the three that would run, one of whose PEER ranges does not hold for the other (R507). -/
def badPeer (s : State) (type : Nat) : Option (Nat × Nat) :=
  let image := fun (t : Nat) => if t = type then imageCut (s.bankBytes t (s.idleBank t)) else s.activeImage t
  [(0, 1), (0, 2), (1, 0), (1, 2), (2, 0), (2, 1)].find? (fun (p : Nat × Nat) =>
    let r := imagePeer (image p.1) p.2
    let v := imageVersion (image p.2)
    decide (v < r.1) || decide (r.2 < v))

/-- An activation changes what the data plane runs: TYPE 2, or TYPE 1 with other microcode (R508). -/
def changesMicrocode (s : State) (type : Nat) : Bool :=
  type == 2 || (type == 1 && slice (s.bankBytes 1 (s.idleBank 1)) 96 48 != slice (s.activeImage 1) 96 48)

/-- The idle bank becomes the active one, in TRIAL (R504, R507). -/
def switchBank (s : State) (type : Nat) (running : Bool) : State :=
  let a := s.activeBank type
  let o := s.idleBank type
  ((((s.setBankState type a 3).setBankState type o 6).setN (0xD010 + type) 0x01 o).setTried type running).raiseEvent 125 type

/-- ACTIVATE in recovery (R512): both banks of the type hold the image, bank 0 active. -/
def activateRecovery (s : State) (type : Nat) : State :=
  let img := BankContent.written (imageCut (s.bankBytes type (s.idleBank type)))
  ((((((s.setBank type 0 img).setBank type 1 img).setN (0xD010 + type) 0x01 0).setBankState type 0 5).setBankState type 1 3).raiseEvent
    125 type).fwQuick 0 []

/-- ACTIVATE (R507, R508): its checks, and the service pause that a live activation begins. -/
def fwActivate (s : State) (type mode : Nat) : State :=
  let restarts := mode.testBit 0
  if s.bankState type (s.idleBank type) ≠ 3 then s.fwQuick 0x0003 []
  else if s.stage = 15 then s.activateRecovery type
  else
    match s.badPeer type with
    | some p => s.fwQuick 0x0041 [byte p.1, byte p.2]
    | none =>
      if s.isPair ∧ s.num 0xC000 0x09 = 3 ∧ type = 1 ∧ !mode.testBit 1 ∧
          field (s.bankBytes 1 (s.idleBank 1)) 20 1 ≠ s.num 0xC000 0x0B then s.fwQuick 0x0042 []
      else if !restarts ∧ type ≠ 0 ∧ s.isPair ∧ s.acting then s.fwQuick 0x0040 []
      else if s.resultState 0x1201 = 1 then s.fwQuick 0x0003 []
      else if restarts then s.fwStart ⟨0xD021, 0, [], .activate type true false⟩
      else if type = 0 then (s.switchBank 0 false).fwQuick 0 []
      else
        let micro := s.changesMicrocode type
        let t := ((s.fwStart ⟨0xD021, 0, [], .activate type false micro⟩).modBoot (fun b => { b with paused := true })).closeSessions
        if micro then t.stopTransits else t

/-- The end of ACTIVATE. -/
def fwActivated (s : State) (type : Nat) (restarts micro : Bool) : State :=
  if restarts then ((((s.switchBank type false).finishCmd 0xD021 0 []).leaveActing)).restart 3
  else
    let t := ((s.switchBank type true).finishCmd 0xD021 0 []).modBoot (fun b => { b with paused := false, mainTick := s.raw })
    if micro then t.syncCause else t

/-- FW_CMD (R505): the opcode with the FW_TYPE and FW_MODE of the writing session. -/
def fwCommand (s : State) (sess opcode : Nat) : State :=
  let type := s.ownNum sess 0xD020 0x02
  let st := s.bankState type (s.idleBank type)
  match opcode with
  | 1 => s.fwStart ⟨0xD021, 0, [], .prepare type sess⟩
  | 2 =>
    if st = 0 then s.fwQuick 0x0003 []
    else
      let code := s.fwCheck type
      (s.setBankState type (s.idleBank type) 2).fwStart ⟨0xD021, code,
        if code = 0 then beBytes 4 (imageVersion (s.bankBytes type (s.idleBank type))) else [], .verify type (code == 0)⟩
  | 3 => s.fwActivate type (s.ownNum sess 0xD020 0x03)
  | 4 => if 1 ≤ st ∧ st ≤ 4 then s.fwStart ⟨0xD021, 0, [], .abandon type⟩ else s.fwQuick 0x0003 []
  | _ => s.fwStart ⟨0xD021, 0, [], .enterRecovery⟩

/-- The end of PREPARE: the bank is erased and WRITING, and the session owns it while it is open. -/
def fwPrepared (s : State) (type sess : Nat) : State :=
  let o := s.idleBank type
  (((((s.setBank type o (.written [])).setBankState type o 1).setN (0xD010 + type) 0x08 0).setN (0xD010 + type) 0x09
    (if (s.session sess).isSome then sess else 0))).finishCmd 0xD021 0 []

/-- The end of VERIFY. -/
def fwVerified (s : State) (type : Nat) (valid : Bool) (code : Nat) (data : List Byte) : State :=
  let t := (s.setBankState type (s.idleBank type) (if valid then 3 else 4)).finishCmd 0xD021 code data
  if valid then t else t.raiseEvent 124 type

/-- The end of ABANDON. -/
def fwAbandoned (s : State) (type : Nat) : State :=
  let o := s.idleBank type
  ((((s.setBank type o .blank).setBankState type o 0).setN (0xD010 + type) 0x08 0).setN (0xD010 + type) 0x09 0).finishCmd 0xD021 0 []

/-- Bytes of DOWNLOAD from a bank offset on (R506); erased flash reads 0xFF. -/
def fwWrite (s : State) (type offset : Nat) (bytes : List Byte) : State :=
  let o := s.idleBank type
  if bytes.isEmpty then s else
  match s.bank type o with
  | .written old =>
    let grown := old ++ List.replicate (offset + bytes.length - old.length) 0xFF
    (s.setBank type o (.written (grown.take offset ++ bytes ++ grown.drop (offset + bytes.length)))).setMax (0xD010 + type) 0x08
      (offset + bytes.length)
  | _ => s

/-! ## QUIET (R33–R37, R444) -/

/-- QUIET_CMD (R35). -/
def quietCmd (s : State) : State :=
  if s.power ≠ 0 ∨ !s.inRunning then s.quickCmd 0xF141 0x0003 []
  else if s.isPair ∧ s.par.claim then s.quickCmd 0xF141 0x0040 []
  else (s.startCmd 0xF141).setN 0xF140 0x01 1

/-- The waiting synchronising reset is dropped; its command ends FAILED (R149). -/
def dropSync (s : State) : State :=
  let t := (s.modLoc (fun l => { l with waiting := none })).setN 0x3200 0x0B 0
  if t.resultState 0x3201 = 1 then t.finishCmd 0x3201 0x0003 [] else t

/-- What loses its power in QUIET (R33): the lanes with all they hold, and the lines of ports without a wake-pattern filter. -/
def powerDown (s : State) : State :=
  (List.range 6).foldl (fun (t : State) p => if t.serdesOn p then t else t.lineOff p) ((List.range 4).foldl dropLane s)

/-- QUIET_ENTRY_COMPLETE (R33, R36, R376, R444): everything stops, and a WAKE_AT that has passed wakes the unit at once (R37). -/
def quietEntry (s : State) : State :=
  if s.power ≠ 1 then s
  else
    let a := s.stopTransits.orreryOff.safeBos.dropSync
    let b := if a.num 0x2000 0x09 = 2 then a.setQuality 3 else a
    let c := (b.pmSave.recorderOff.zeroise).setN 0xC000 0x05 (if b.isPair then b.num 0xC000 0x05 else 0)
    let d := ((c.finishCmd 0xF141 0 (etBytes c.et)).setN 0xF140 0x01 2).powerDown
    if d.num 0xF140 0x03 ≠ 0 ∧ d.num 0xF140 0x03 ≤ d.et then d.wake 3 else d

/-- WAKE_AT_EXPIRY (R37). -/
def wakeAt (s : State) : State :=
  if s.power = 2 ∧ s.num 0xF140 0x03 ≠ 0 ∧ s.num 0xF140 0x03 ≤ s.et then s.wake 3 else s

/-- The root and the slots after a wake (R444): a unit that cannot reconstruct the root continues as R442 states. -/
def wakeKeys (s : State) (attempts : List PufRead) : State :=
  if s.restricted then s
  else
    let t := s.readPuf attempts
    if t.keys.root.isSome then t.loadSlots else t.unloadSlots.setN 0xB100 0x01 1

/-- WAKE_COMPLETE (R37, R132, R276, R308, R444): lanes and analog die reloaded as at start-up, the root and the slots restored, and a
synchronising reset under way. -/
def wakeComplete (s : State) (laneOk : List Bool) (attempts : List PufRead) (failed : List (Fin 48)) : State :=
  if s.power ≠ 3 then s
  else
    let a := (s.wakeKeys attempts).setN 0xF140 0x01 0
    let b := (List.range 4).foldl (fun (t : State) n => t.wakeLane n (nth laneOk n true)) a
    let c := (usedSignals b false ++ usedSignals b true).foldl (fun (t : State) k =>
      if nth laneOk (signalLane k) true then t.modSpec (fun x => { x with sigs := eraseKey k x.sigs }) else t.resetSignal k) b
    let d := ((c.closeTies c.enabledTies (List.range 512)).freshIslands.calibrate failed).syncCause
    let f := if d.isPair then d else d.setN 0xC000 0x05 1
    if f.orreryOn then f.orreryWait else f

end State

/-! ## The commands of this file -/

/-- QUIET_ENTRY_COMPLETE (R36). -/
def execQuietEntryComplete (s : State) : Host.Outcome State Fault Refusal := complete s State.quietEntry

/-- WAKE_AT_EXPIRY (R37). -/
def execWakeAtExpiry (s : State) : Host.Outcome State Fault Refusal := complete s State.wakeAt

/-- WAKE_COMPLETE (R37). -/
def execWakeComplete (laneOk : List Bool) (found : WakeReads) (s : State) :
    Host.Outcome State Fault Refusal :=
  complete s (fun s => s.wakeComplete laneOk found.attempts found.failed)

/-- RESET_N_ASSERT (R495). -/
def execResetNAssert (s : State) : Host.Outcome State Fault Refusal := complete s State.resetAssert

/-- RESET_N_RELEASE (R497). -/
def execResetNRelease (unitId witMode recoverLow aonLost powerOn : Bool) (s : State) : Host.Outcome State Fault Refusal :=
  complete s (fun s => s.resetRelease unitId witMode recoverLow aonLost powerOn)

/-- STAGE_PUF (R497). -/
def execStagePuf (attempts : List PufRead) (s : State) : Host.Outcome State Fault Refusal := complete s (fun s => s.stagePuf attempts)

/-- STAGE_ROM (R497). -/
def execStageRom (s : State) : Host.Outcome State Fault Refusal := complete s State.stageRom

/-- STAGE_STAGE2 (R497). -/
def execStageStage2 (s : State) : Host.Outcome State Fault Refusal := complete s State.stageStage2

/-- STAGE_MAIN (R497). -/
def execStageMain (s : State) : Host.Outcome State Fault Refusal := complete s State.stageMain

/-- STAGE_MICROCODE (R500). -/
def execStageMicrocode (s : State) : Host.Outcome State Fault Refusal := complete s State.stageMicrocode

/-- STAGE_CALIBRATION (R132). -/
def execStageCalibration (failed : List (Fin 48)) (s : State) : Host.Outcome State Fault Refusal :=
  complete s (fun s => s.stageCalibration failed)

/-- ACQUISITION_END (R499). -/
def execAcquisitionEnd (s : State) : Host.Outcome State Fault Refusal := complete s State.acquisitionEnd

/-- ACQUISITION_TIMEOUT (R499). -/
def execAcquisitionTimeout (s : State) : Host.Outcome State Fault Refusal := complete s State.acquisitionTimeout

/-- WATCHDOG_EXPIRY (R498). -/
def execWatchdogExpiry (s : State) : Host.Outcome State Fault Refusal := complete s State.watchdog

/-- CONFIG_SAVE (R501). -/
def execConfigSave (s : State) : Host.Outcome State Fault Refusal := complete s State.configSave

/-- TRIAL_END (R504). -/
def execTrialEnd (image : Fin 3) (s : State) : Host.Outcome State Fault Refusal := complete s (fun s => s.trialEnd image.val)

end Sys2Proof.Machine
end

