-- ==== Sys2Proof/Machine/Steps.lean ====
section
/-! DEFINITION. Events of the time base, the sampling chain, the transit engine, the alarm router and binary I/O whose effects run
through several chapters: an offset step (R93–R95), samples and synchronising resets (R136–R149), transit release (R230–R233),
alarm delivery (R303) and the Orrery's output write (R339). -/

namespace Sys2Proof.Machine

namespace State

/-! ## Offset steps (R93–R95, R565) -/

/-- The step has been added: its count and record, its event, and what it does to the grid, the quality state, the timed outputs, the
transits and the Orrery. -/
def afterStep (s : State) (amount : Int) : State :=
  let a := (((s.inc32 0x2000 0x1B).setI 0x2000 0x1C (amount / 4294967296)).raiseEvent 1 0).placeLeap.stepGrid amount
  let b := (List.range 8).foldl stepOut (a.qualityAfterStep amount)
  b.stepTransits.stepOrrery amount

/-- STEP_APPLY (R93, R94): at the applying tick, a waiting increment first, then the step; one that would make ET negative is not
applied. -/
def stepApply (s : State) : State :=
  match s.eph.step with
  | none => s
  | some p =>
    let due : Bool := match p.second with
      | none => true
      | some t => decide (t ≤ s.et)
    if !due then s
    else
      let a := s.applyIncrement.modEph (fun e => { e with step := none })
      if (s.et : Int) + p.amount < 0 then (if p.commanded then a.finishCmd 0x2001 0x0002 [] else a)
      else
        let b := a.addStep p.amount
        let c := if p.commanded then b.finishCmd 0x2001 0 (etBytes b.et) else b
        c.afterStep p.amount

/-! ## Timed and binary inputs -/

/-- TI_EDGE (R116, R398). -/
def tiEdge (s : State) (input : Nat) (rising : Bool) (tdc : Nat) : State :=
  let r := s.timedEdge input rising tdc
  if r.2 then r.1.tiTrigger input rising else r.1

/-- BI_SAMPLE (R362, R385, R398). -/
def biStep (s : State) (input : Nat) (mv : Int) : State :=
  match s.biSample input mv with
  | (t, some before) => (t.pulse input before).biTrigger input before
  | (t, none) => t

/-! ## The sampling chain -/

/-- FIXED_RATE_SAMPLE (R136, R264, R392). -/
def takeFixed (s : State) (codes : List Int) : State :=
  if !s.chainOn then s else (s.fixedSample codes).localSamples.recordSample

/-- TRACKED_CYCLE_BOUNDARY (R144, R398). -/
def endCycle (s : State) : State := if s.loc.boundaryDue then s.cycleBoundary.rmsTriggers else s

/-- Entry to stage RUNNING (R470, R496, R498, R512). -/
def enterRunning (s : State) : State :=
  let a := (s.enterStage 9).raiseEvent 120 s.boot.cause
  let b := match a.flash.recovered with
    | some cause => (a.modFlash (fun f => { f with recovered := none })).raiseEvent 126 cause
    | none => a
  let c := (b.setN 0xC000 0x05 (if b.isPair then b.num 0xC000 0x05 else 1)).modOrr (fun o => { o with written := false })
  if c.orreryOn then c.orreryWait else c

/-- SYNC_RESET_SAMPLE_ZERO (R147–R149, R224): at S the chain emits sample 0 of a new epoch; the start-up's reset and that of a wake or
of a live activation start the transits. -/
def syncZero (s : State) : State :=
  match s.syncDue with
  | none => s
  | some start =>
    let a := ((s.endEpoch.sampleZero start).newEpoch.pmResume).resetLocalSignals.resetLom
    let b := if 8 ≤ a.stage ∧ a.stage ≤ 9 ∧ !a.tr.running then a.startTransits start else a
    if b.stage = 8 then b.enterRunning else b

/-! ## Transit release (R230–R233, R475) -/

/-- What follows a release: egress, the GOOSE sampling moment, and the pair mirrors of this transit. -/
def afterRelease (s : State) (r : Released) : State :=
  let a := s.egressRelease.gooseSample
  (a.mirrorOut a.pmMirror).mirrorOut (a.bandMirror r.k)

/-- The next instant is released, when it can be. -/
def release (s : State) : State :=
  match s.releaseNext with
  | (t, some r) => t.afterRelease r
  | (t, none) => t

/-- MERGE_CLOSE (R230): the merge for k closes, and its transit is released when it is next. -/
def mergeEnd (s : State) (k : Nat) : State :=
  match s.ordOfK k with
  | none => s
  | some ord =>
    let t := s.closeMerge k
    let closed : Bool := ((t.inst ord).map (·.closed)).getD false
    if closed ∧ ord = t.tr.nextOrd then t.release else t

/-! ## Alarm delivery and output writes -/

/-- ALARM_DELIVERY (R303, R398, R324). -/
def alarmDelivery (s : State) : State :=
  match s.alr.batches with
  | [] => s
  | _ :: _ =>
    let r := s.routeDelivery
    (r.1.alarmTrigger r.2).gooseSample

/-- ORRERY_OUTPUT_WRITE (R339, R324, R398, R489). -/
def outputWrite (s : State) : State :=
  if s.num 0x7000 0x02 ≠ 2 ∨ s.orr.phase = .idle ∨ s.et < s.cycleStart + s.num 0x7000 0x06 * us then s
  else if s.orr.phase = .evaluating then s.orreryWrite
  else s.orreryWrite.handOver.gooseSample.orreryTrigger

end State

/-! ## The commands of this file -/

/-- STEP_APPLY (R93). -/
def execStepApply (s : State) : Host.Outcome State Fault Refusal := complete s State.stepApply

/-- TI_EDGE (R116). -/
def execTiEdge (input : Fin 4) (rising : Bool) (tdc : Nat) (s : State) : Host.Outcome State Fault Refusal :=
  complete s (fun s => s.tiEdge input.val rising tdc)

/-- BI_SAMPLE (R362). -/
def execBiSample (input : Fin 24) (millivolts : Int) (s : State) : Host.Outcome State Fault Refusal :=
  complete s (fun s => s.biStep input.val millivolts)

/-- FIXED_RATE_SAMPLE (R136). -/
def execFixedRateSample (codes : List Int) (s : State) : Host.Outcome State Fault Refusal := complete s (fun s => s.takeFixed codes)

/-- TRACKED_CYCLE_BOUNDARY (R144). -/
def execTrackedCycleBoundary (s : State) : Host.Outcome State Fault Refusal := complete s State.endCycle

/-- SYNC_RESET_SAMPLE_ZERO (R147). -/
def execSyncResetSampleZero (s : State) : Host.Outcome State Fault Refusal := complete s State.syncZero

/-- MERGE_CLOSE (R230). -/
def execMergeClose (k : Nat) (s : State) : Host.Outcome State Fault Refusal := complete s (fun s => s.mergeEnd k)

/-- TRANSIT_RELEASE (R231). -/
def execTransitRelease (s : State) : Host.Outcome State Fault Refusal := complete s State.release

/-- TRANSIT_RATE_CHANGED (R225). -/
def execTransitRateChanged (s : State) : Host.Outcome State Fault Refusal := complete s State.rateChanged

/-- BAND_MERGE_CLOSE (R277). -/
def execBandMergeClose (s : State) : Host.Outcome State Fault Refusal := complete s State.bandMergeClose

/-- ALARM_DELIVERY (R303). -/
def execAlarmDelivery (s : State) : Host.Outcome State Fault Refusal := complete s State.alarmDelivery

/-- MIN_ON_EXPIRY (R303). -/
def execMinOnExpiry (alarm : Fin 256) (s : State) : Host.Outcome State Fault Refusal :=
  complete s (fun s => s.minOnExpiry alarm.val)

/-- ORRERY_OUTPUT_WRITE (R339). -/
def execOrreryOutputWrite (s : State) : Host.Outcome State Fault Refusal := complete s State.outputWrite

end Sys2Proof.Machine
end

