-- ==== Sys2Proof/Machine/Almanac.lean ====
section
/-! DEFINITION. The Almanac server (R53–R85): who may do what to which object, what a write of each object does, staging, block
transfers, subscriptions, command results and sessions. A request's answer is a `Reply`; Requests.lean takes the requests. -/

namespace Sys2Proof.Machine

/-! ## Answers (R64, R68, R559) -/

/-- The aborts of R68, in the order in which R559 reports them. -/
inductive Abort where
  | opcode | resource | noObject | noSubindex | access | role | type | length | element | busy | locked | unacked | state | range
  deriving DecidableEq, Repr

/-- The code of an abort (R68). -/
def Abort.code : Abort → Nat
  | .noObject => 0x0001 | .noSubindex => 0x0002 | .access => 0x0003 | .role => 0x0004 | .type => 0x0005 | .range => 0x0006
  | .element => 0x0007 | .length => 0x0008 | .busy => 0x0009 | .locked => 0x000A | .unacked => 0x000B | .opcode => 0x000C
  | .resource => 0x000D | .state => 0x000E

/-- What a request is answered with. -/
inductive Reply where
  | answer (payload : List Byte)
  | abort (a : Abort) (index sub elem : Nat)
  deriving DecidableEq, Repr

/-- The payload of a reply. -/
def Reply.payload : Reply → List Byte
  | .answer p => p
  | .abort a index sub elem => beBytes 2 a.code ++ beBytes 2 index ++ [byte sub, 0] ++ beBytes 2 elem

/-- FLAGS of a response (R62). -/
def Reply.flags : Reply → Nat
  | .answer _ => 1
  | .abort .. => 3

/-- The first abort whose condition holds (R559). -/
def firstAbort (l : List (Bool × Abort)) : Option Abort := (l.find? (fun x => x.1)).map (·.2)

namespace State

/-! ## Which objects exist, and for whom (R53, R59, R460, R511) -/

/-- The indices present in recovery mode (R511). -/
def recoveryIndex (index : Nat) : Bool :=
  index == 0x1018 || index == 0x1F00 || index == 0x1F01 || index == 0xB100 || index == 0xB101 || index == 0xB102 ||
  (decide (0xD000 ≤ index) && decide (index ≤ 0xD021))

/-- The object at an address in the present mode, or NO_OBJECT or NO_SUBINDEX. Recovery mode has 0xB100 read-only. -/
def lookupObject (s : State) (index sub : Nat) : Except Abort Field :=
  if (s.stage = 15 ∧ !recoveryIndex index) ∨ (fieldsAt index).isEmpty then .error .noObject
  else
    match objAt index sub with
    | none => .error .noSubindex
    | some f => .ok (if s.stage = 15 ∧ index = 0xB100 then { f with acc := match f.acc with
        | .wo => .wo
        | _ => .ro } else f)

/-- An operation's object, or NO_OBJECT, NO_SUBINDEX or the first abort of a list that depends on it. -/
def checkObject (s : State) (index sub : Nat) (checks : Field → List (Bool × Abort)) : Except Abort Field :=
  match s.lookupObject index sub with
  | .error a => .error a
  | .ok f =>
    match firstAbort (checks f) with
    | some a => .error a
    | none => .ok f

/-- Roles that an index range asks for (R59). -/
def rangeRole (reading1100 : Bool) (index : Nat) : Nat :=
  if (0x1100 ≤ index ∧ index ≤ 0x11FF ∧ !reading1100) ∨ (0xB000 ≤ index ∧ index ≤ 0xB1FF) ∨ (0xD000 ≤ index ∧ index ≤ 0xDFFF) then 3
  else 0

/-- The role for a write or a command (R59): an acknowledgement takes its command's role (R79). -/
def writeRole (index sub : Nat) : Nat :=
  let home := match commandOf index with
    | some c => max (homeRole c.1 c.2) (rangeRole false c.1)
    | none => homeRole index sub
  max (max (if perSession index sub then 0 else 1) home) (rangeRole false index)

/-- The role for staging an object. -/
def stageRole (index sub : Nat) : Nat := max (max 2 (homeRole index sub)) (rangeRole false index)

/-- What a session of a RESTRICTED unit may touch (R460): identity, the key state, the key and tamper commands with their results, and
RESTART_CMD; without `write`, for reading. -/
def restrictedAllows (write : Bool) (index sub : Nat) : Bool :=
  if write then
    index == 0xB101 || index == 0xB102 || index == 0xB103 || index == 0x1F00 || index == 0x1F01 || (index == 0xB100 && sub == 0x0F)
  else
    (decide (0x1000 ≤ index) && decide (index ≤ 0x10FF)) || index == 0xB100 || index == 0xB101 || index == 0xB102 || index == 0xB103 ||
    index == 0x1F01

/-- An object is not usable in the present state (R68 STATE), before its own conditions: RESTRICTED, and the witness's objects without
WIT_MODE (R492). -/
def barred (s : State) (write : Bool) (index sub : Nat) : Bool :=
  (s.restricted && s.stage != 15 && !restrictedAllows write index sub) || (index == 0xC100 && !s.flag 0xC000 0x03)

/-! ## Reading (R55, R64, R65) -/

/-- A read of data that is not held, or not yet readable (R254, R280, R408, R410, R426). -/
def notHeld (s : State) (sess index sub : Nat) : Bool :=
  if index = 0x5101 ∧ (sub = 0x05 ∨ sub = 0x06) then (s.historyAt (s.historySelect sess)).isNone
  else if index = 0x6012 ∧ (sub = 0x03 ∨ sub = 0x04) then (s.shapeAt sess).isNone
  else if index = 0x9012 ∧ sub = 0x03 then s.rec_.exported.isSome && s.exportedPlate.isNone
  else if index = 0x9012 ∧ 6 ≤ sub ∧ sub ≤ 8 then
    match s.chunk sess with
    | some c => !c.ready || s.exportedPlate.isNone
    | none => sub == 0x06
  else if index = 0xA002 ∧ 4 ≤ sub ∧ sub ≤ 8 then
    match s.ev.blocks.find? (fun (b : LogBlock) => b.session = sess) with
    | some b => !b.ready
    | none => sub == 0x04
  else false

/-- The object's form is wrong for a single access or a block access. -/
def wrongForm (f : Field) (block : Bool) : Bool :=
  match f.ty with
  | .arr _ _ => !block
  | _ => block

/-- Elements and element size of an ARRAY. -/
def arraySize (f : Field) : Nat × Nat :=
  match f.ty with
  | .arr n w => (n, w)
  | _ => (0, 0)

/-- The bytes that a read of an object, or of one element, returns: its current or its staged value. -/
def readBytes (s : State) (sess index sub elem : Nat) (f : Field) (staged : Bool) : List Byte :=
  encodeValue f.ty (if staged then s.staged.get (okey index sub elem) else readObj s sess index sub elem)

/-- What a read needs (R55, R59). -/
def readChecks (x : Session) (index : Nat) (staged block reading : Bool) (f : Field) : List (Bool × Abort) :=
  [(wrongForm f block || f.acc == .wo || (staged && f.acc != .st), .access),
   (decide (x.role < max (if staged then 2 else 0) (rangeRole reading index)), .role)]

/-- READ. -/
def readReply (s : State) (x : Session) (index sub : Nat) (staged : Bool) : Reply :=
  match s.checkObject index sub (fun f => readChecks x index staged false true f ++
    [(decide (x.maxPayload < 4 + (s.readBytes x.id index sub 0 f staged).length), .length),
     (s.barred false index sub || s.notHeld x.id index sub, .state)]) with
  | .error a => .abort a index sub 0
  | .ok f =>
    let v := s.readBytes x.id index sub 0 f staged
    .answer ([byte f.ty.code, 0] ++ beBytes 2 v.length ++ v)

/-- The element that an ELEMENT abort names: the first of the request that is beyond the array. -/
def firstBeyond (f : Field) (first : Nat) : Nat := max first (arraySize f).1

/-- The element an abort of a block request names. -/
def abortElem (s : State) (a : Abort) (index sub first : Nat) : Nat :=
  match a, s.lookupObject index sub with
  | .element, .ok f => firstBeyond f first
  | _, _ => first

/-- BLOCK_READ (R65). -/
def blockReadReply (s : State) (x : Session) (index sub first count : Nat) (staged : Bool) : Reply :=
  match s.checkObject index sub (fun f => readChecks x index staged true false f ++
    [(decide (x.maxPayload < 8 + count * (arraySize f).2), .length),
     (decide ((arraySize f).1 < first + count), .element),
     (s.barred false index sub || s.notHeld x.id index sub, .state)]) with
  | .error a => .abort a index sub (s.abortElem a index sub first)
  | .ok f =>
    .answer (beBytes 2 index ++ [byte sub, 0] ++ beBytes 2 first ++ beBytes 2 count ++
      ((List.range count).map (fun i => s.readBytes x.id index sub (first + i) f staged)).flatten)

/-! ## Writing (R55, R64, R77–R79) -/

/-- A commit or an ACTIVATE is in progress, so that staging waits (R74, R507). -/
def stagingBusy (s : State) : Bool :=
  s.resultState 0x1201 == 1 || s.alm.jobs.any (fun (j : Job) => match j.action with
    | .activate .. => true
    | _ => false)

/-- Another session owns staging (R72). -/
def stagingLocked (s : State) (sess : Nat) : Bool := s.stageOwner != 0 && s.stageOwner != sess

/-- Aborts of an acknowledgement, a commit, a staging command and any other command (R73, R78, R79). -/
def commandChecks (s : State) (sess index sub : Nat) : List (Bool × Abort) :=
  match commandOf index, resultOf index sub with
  | some _, _ => [(s.resultState index == 1, .busy)]
  | none, some r =>
    let mine := if index = 0x1200 then s.stageOwner != sess else index == 0x1F02 && s.stagingLocked sess
    [(s.resultState r == 1 || ((index == 0x1200 || index == 0x1F02) && s.stagingBusy), .busy), (mine, .locked),
     (s.resultState r != 0, .unacked)]
  | none, none => []

/-- Objects that only the servo's owner writes (R99). -/
def servoObject (index sub : Nat) : Bool :=
  index == 0x2000 && (sub == 3 || sub == 6 || sub == 7 || sub == 8 || sub == 0xC || sub == 0xD)

/-- A write that the object's home chapter does not take in the present state (R99, R113, R460, R464, R492). -/
def writeBarred (s : State) (index sub : Nat) : Bool :=
  s.barred true index sub || (servoObject index sub && s.c 0x2000 0x0B == 0) ||
  (decide (0x2200 ≤ index) && decide (index ≤ 0x2207) && sub == 7 && s.c index 0x01 != 1) ||
  (index == 0xB100 && sub == 0x0F && !s.restricted)

/-- A value lies in an object's range, with the ranges that other objects set (R410, R411). -/
def valueInRange (s : State) (index sub : Nat) (f : Field) (v : Value) : Bool :=
  inRange f v &&
  (!(index == 0x9012 && sub == 5) || decide (v.toInt.toNat < s.num 0x9012 0x04)) &&
  (!(index == 0x9000 && sub == 0x15) || (s.trigger v.toInt.toNat).kind == 7)

/-- A session's own value of an object that it holds separately. -/
def setOwn (s : State) (sess index sub : Nat) (v : Value) : State :=
  s.modSession sess (fun x => { x with own := x.own.set (okey index sub 0) v })

/-- Registers of one index back at their defaults. -/
def clearSubs (s : State) (index : Nat) (subs : List Nat) : State :=
  { s with obj := s.obj.filter (fun e => !(e.1 / 16777216 == index && subs.contains (e.1 / 65536 % 256))) }

/-- Subindices from lo to hi. -/
def subsFrom (lo hi : Nat) : List Nat := (List.range (hi + 1 - lo)).map (lo + ·)

/-- What a clearing object clears beside state of its own (R527 and each chapter's table): index and subindices. -/
def clearTarget (index sub : Nat) : Option (Nat × List Nat) :=
  if 0x1300 ≤ index ∧ index ≤ 0x1350 ∧ index % 16 = 0 ∧ sub = 0x13 then some (index + 1, subsFrom 0x01 0x16)
  else if 0x4001 ≤ index ∧ index ≤ 0x4FFF ∧ sub = 0x22 then some (index, [0x1C, 0x1D, 0x21])
  else if 0x5200 ≤ index ∧ index ≤ 0x5203 ∧ sub = 0x10 then some (index, [0x0B, 0x0C, 0x0D, 0x0F])
  else if 0x5300 ≤ index ∧ index ≤ 0x5303 ∧ sub = 0x0B then some (index, 0x02 :: subsFrom 0x05 0x0A)
  else if 0x5800 ≤ index ∧ index ≤ 0x580F ∧ sub = 0x17 then some (index, subsFrom 0x13 0x15)
  else if 0xF000 ≤ index ∧ index ≤ 0xF004 ∧ sub = 0x08 then some (index, [0x04, 0x06, 0x07])
  else if 0xF110 ≤ index ∧ index ≤ 0xF11B ∧ sub = 0x06 then some (index, [0x05])
  else
    match index * 256 + sub with
    | 0x500023 => some (0x5000, (subsFrom 0x0C 0x20).filter (fun x => x != 0x18 && x != 0x19 && x != 0x1B))
    | 0x60000E => some (0x6000, subsFrom 0x03 0x08)
    | 0x61000B => some (0x6100, subsFrom 0x06 0x09)
    | 0x620007 => some (0x6200, [0x06])
    | 0x590006 => some (0x5900, subsFrom 0x01 0x05)
    | 0x700014 => some (0x7000, [0x09, 0x0B, 0x0C])
    | 0x900018 => some (0x9000, subsFrom 0x12 0x14)
    | 0xA0000F => some (0xA000, subsFrom 0x05 0x08 ++ subsFrom 0x0A 0x0C)
    | 0x98000B => some (0x9800, subsFrom 0x01 0x08)
    | 0xC00017 => some (0xC000, subsFrom 0x0E 0x12)
    | 0xA80005 => some (0xA800, [0x01])
    | 0xE06005 => some (0xE060, subsFrom 0x02 0x04)
    | 0xF00503 => some (0xF005, [0x02])
    | 0x400006 => some (0x4000, [0x04, 0x05])
    | _ => none

/-- What a clearing object clears elsewhere: every context's counters, the ALM pins' counts, COUNTS, the time a queue was full, and the
first sample after which MARGIN_MIN and TJ_MAX start anew (R531). -/
def clearMore (s : State) (index sub : Nat) : State :=
  if index = 0x4000 then
    { s with obj := s.obj.filter (fun e => !(decide (0x4001 ≤ e.1 / 16777216) && decide (e.1 / 16777216 ≤ 0x4FFF) &&
      [0x1C, 0x1D, 0x21].contains (e.1 / 65536 % 256))) }
  else if index = 0x6200 then (List.range 4).foldl (fun (t : State) n => t.clearSubs (0x6201 + n) [0x06]) s
  else if index = 0xA800 then s.clearSubs 0xA801 [0x02]
  else if 0x5300 ≤ index ∧ index ≤ 0x5303 then
    s.modIng (fun i => { i with queues := i.queues.modify (index - 0x5300) (fun (q : LaneQueue) => { q with fullTicks := 0 }) })
  else if 0xF000 ≤ index ∧ index ≤ 0xF005 ∧ (sub = 0x08 ∨ sub = 0x03) then
    s.modEv (fun e => { e with
      marginFresh := setNth e.marginFresh (index - 0xF000) true, tjFresh := setNth e.tjFresh (index - 0xF000) true })
  else s

/-- A write of a clearing object (R527). -/
def clearCounters (s : State) (index sub : Nat) : State :=
  match clearTarget index sub with
  | some (i, subs) => (s.clearSubs i subs).clearMore index sub
  | none => s

/-- CLEAR of the performance counters (R527): one counter's VALUE, or all. -/
def clearPerf (s : State) (n : Nat) : State :=
  if n = 0xFF then (List.range 80).foldl (fun (t : State) c => t.clearSubs (0xE000 + c) [0x02]) s else s.clearSubs (0xE000 + n) [0x02]

/-- STEP_CMD (R92): an immediate step, or one at the next whole second of ET. -/
def stepCmd (s : State) (mode : Nat) : State :=
  (s.startCmd 0x2001).modEph (fun e => { e with
    step := some ⟨s.stepAmount, if mode = 1 then none else some ((s.et / sec + 1) * sec), true⟩ })

/-- SYNC_RESET_CMD (R149). -/
def syncResetCmd (s : State) : State :=
  if s.chainState = 0 then s.quickCmd 0x3201 0x0003 [] else (s.startCmd 0x3201).syncCause

/-- COMMIT (R73): validation of the staged configuration begins. -/
def commitStart (s : State) : State := (s.startCmd 0x1201).modAlm (fun a => { a with commit := .validating })

/-- STAGE_DEFAULTS_CMD (R85): every ST object is staged at its default. -/
def stageDefaults (s : State) (sess : Nat) : State := (({ s with staged := [] } : State).setN 0x1200 0x02 sess).quickCmd 0x1F03 0 []

/-- KEY_CMD (R453): SLOT, TARGET and INPUT are those of the session. -/
def keyCmd (s : State) (sess opcode : Nat) : State :=
  let input := match s.session sess with
    | some x => (x.own.get (okey 0xB101 0x04 0)).toBytes
    | none => []
  (s.startCmd 0xB102).addJob ⟨0xB102, 0, [], .key opcode (s.ownNum sess 0xB101 0x02) (s.ownNum sess 0xB101 0x03) input⟩

/-- Writes of the chapters Ephemeris to Egress; none: not one of them. -/
def writeTime (s : State) (index sub : Nat) (v : Value) : Option State :=
  let n := v.toInt.toNat
  if index = 0x2000 then
    (match sub with
     | 0x03 => some (s.sendIncrement n)
     | 0x08 => some (s.stepCmd n)
     | 0x0C => some (s.report v.toInt)
     | 0x0D => some (s.writeRefPresent (n != 0))
     | _ => none)
  else if 0x2110 ≤ index ∧ index ≤ 0x2115 ∧ sub = 0x09 then some (s.txtsClear (index - 0x2110))
  else if 0x2200 ≤ index ∧ index ≤ 0x2207 ∧ sub = 0x07 then some (s.writeArmAt (index - 0x2200) n)
  else if 0x3000 ≤ index ∧ index ≤ 0x302F ∧ sub = 0x0B then some (s.clearSupervision (index - 0x3000))
  else if index = 0x3200 ∧ sub = 0x07 then some s.syncResetCmd
  else if index = 0x5000 ∧ sub = 0x1B then some (s.lateClear n)
  else if index = 0x6000 ∧ sub = 0x0D then some (s.spectroReset n)
  else if index = 0x6200 ∧ sub = 0x04 then some (s.alarmAck n)
  else none

/-- Writes of the chapters Orrery to Logbook; none: not one of them. -/
def writePlant (s : State) (sess index sub : Nat) (v : Value) : Option State :=
  let n := v.toInt.toNat
  if index = 0x7000 ∧ sub = 0x12 then some s.reenable
  else if 0x7100 ≤ index ∧ index ≤ 0x710F ∧ sub = 0x09 then some (s.clearBo (index - 0x7100))
  else if 0x7120 ≤ index ∧ index ≤ 0x7137 ∧ sub = 0x0E then some (s.clearBi (index - 0x7120))
  else if 0x8000 ≤ index ∧ index ≤ 0x8007 ∧ sub = 0x0F then some (s.clearPm (index - 0x8000))
  else if index = 0x8010 ∧ sub = 0x02 then some s.pmSnapshot
  else if index = 0x8010 ∧ sub = 0x09 then some (s.pmReset n)
  else if 0x8100 ≤ index ∧ index ≤ 0x8117 ∧ sub = 0x09 then some (s.setCount (index - 0x8100) n)
  else if index = 0x9000 ∧ sub = 0x15 then some (s.triggerCmd n)
  else if index = 0x9000 ∧ sub = 0x16 then some s.resumeRecorder
  else if index = 0x9000 ∧ sub = 0x17 then some (s.releasePlate n)
  else if index = 0x9012 ∧ sub = 0x01 then some (s.exportPlate n)
  else if index = 0x9012 ∧ sub = 0x05 then some ((s.setOwn sess index sub v).seekExport sess n)
  else if index = 0x9800 ∧ sub = 0x0A then some ((s.startCmd 0x9801).addJob ⟨0x9801, 0, [], .selftest⟩)
  else if index = 0xA000 ∧ sub = 0x0D then some s.clearLog
  else if index = 0xA000 ∧ sub = 0x0E then some s.clearFlashLog
  else if index = 0xA002 ∧ sub = 0x02 then some ((s.setOwn sess index sub v).logSelect sess n)
  else none

/-- Writes of the management chapters; none: not one of them. -/
def writeManagement (s : State) (sess index sub : Nat) (v : Value) : Option State :=
  let n := v.toInt.toNat
  match index * 256 + sub with
  | 0x120001 => some s.commitStart
  | 0x1F0001 => some ((s.startCmd 0x1F01).addJob ⟨0x1F01, 0, [], .restart⟩)
  | 0x1F0201 => some (s.stageDefaults sess)
  | 0xA80003 => some (s.eventAck n)
  | 0xB1000F => some s.tamperClear
  | 0xB10101 => some (s.keyCmd sess n)
  | 0xC00015 => some s.handover
  | 0xD02001 => some (s.fwCommand sess n)
  | 0xE05001 => some s.snapshotCmd
  | 0xE05005 => some (s.clearPerf n)
  | 0xF13403 => some (s.reloadCmd n)
  | 0xF14002 => some s.quietCmd
  | _ => none

/-- What an accepted write does (R55): the object's own effect, an acknowledgement, a clearing, the session's own value, or the
register's new value. -/
def writeEffect (s : State) (sess index sub : Nat) (v : Value) : State :=
  match s.writeTime index sub v with
  | some t => t
  | none =>
    match s.writePlant sess index sub v with
    | some t => t
    | none =>
      match s.writeManagement sess index sub v with
      | some t => t
      | none =>
        if (commandOf index).isSome ∧ sub = 0x05 then (if s.resultState index = 0 then s else s.setN index 0x02 0)
        else if (clearTarget index sub).isSome then s.clearCounters index sub
        else if perSession index sub then s.setOwn sess index sub v
        else s.set index sub 0 v

/-- A WRITE or COMMAND of an object with a type code and the value's bytes (R54, R55, R64, R559). -/
def writeReply (s : State) (x : Session) (command : Bool) (index sub typeCode : Nat) (bytes : List Byte) : State × Reply :=
  match s.checkObject index sub (fun f =>
    [(wrongForm f false || f.acc == .ro || f.acc == .st || (s.stage == 15 && index == 0xB100) ||
      (command && (resultOf index sub).isNone), .access),
     (decide (x.role < writeRole index sub), .role),
     (typeCode != f.ty.code || (decodeValue f.ty bytes).isNone, .type),
     (decide (x.maxPayload < 4 + bytes.length), .length)] ++ s.commandChecks x.id index sub ++
    [(s.writeBarred index sub, .state),
     (!(((decodeValue f.ty bytes).map (s.valueInRange index sub f)).getD false), .range)]) with
  | .error a => (s, .abort a index sub 0)
  | .ok f =>
    let v := (decodeValue f.ty bytes).getD (.int 0)
    (s.writeEffect x.id index sub v, .answer (match command, resultOf index sub with
      | true, some r => beBytes 4 (s.nextSeq r)
      | _, _ => []))

/-! ## Staging (R72–R76) -/

/-- Values written into the staged configuration, which makes the session its owner (R72). -/
def putStaged (s : State) (sess index sub first : Nat) (vs : List Value) : State :=
  ({ s with staged := s.staged.setAll ((vs.zip (List.range vs.length)).map (fun (e : Value × Nat) => (okey index sub (first + e.2), e.1))) }).setN
    0x1200 0x02 sess

/-- STAGE. -/
def stageReply (s : State) (x : Session) (index sub typeCode : Nat) (bytes : List Byte) : State × Reply :=
  match s.checkObject index sub (fun f =>
    [(wrongForm f false || f.acc != .st, .access),
     (decide (x.role < stageRole index sub), .role),
     (typeCode != f.ty.code || (decodeValue f.ty bytes).isNone, .type),
     (decide (x.maxPayload < 4 + bytes.length), .length),
     (s.stagingBusy, .busy), (s.stagingLocked x.id, .locked),
     (s.barred true index sub || s.stage == 15, .state),
     (!(((decodeValue f.ty bytes).map (inRange f)).getD false), .range)]) with
  | .error a => (s, .abort a index sub 0)
  | .ok f => (s.putStaged x.id index sub 0 [(decodeValue f.ty bytes).getD (.int 0)], .answer [])

/-- COMMIT (R73); the commit object is 0x1200:01. -/
def commitReply (s : State) (x : Session) : State × Reply :=
  match firstAbort ([(decide (x.role < 2), .role), (decide (x.maxPayload < 4), .length)] ++ s.commandChecks x.id 0x1200 0x01 ++
    [(s.barred true 0x1200 0x01 || s.stage == 15, .state)]) with
  | some a => (s, .abort a 0x1200 0x01 0)
  | none => (s.commitStart, .answer (beBytes 4 (s.nextSeq 0x1201)))

/-- DISCARD (R76). -/
def discardReply (s : State) (x : Session) : State × Reply :=
  match firstAbort [(decide (x.role < 2), .role), (s.stagingBusy, .busy), (s.stagingLocked x.id, .locked),
    (s.barred true 0x1200 0x01 || s.stage == 15, .state)] with
  | some a => (s, .abort a 0x1200 0x01 0)
  | none => (if s.stageOwner = 0 then s else s.unstage, .answer [])

/-! ## BLOCK_WRITE (R65, R506) -/

/-- Arrays of F32 or of characters, whose elements their type restricts (R54). -/
def elementType (index sub : Nat) : Ty :=
  if (0x4001 ≤ index ∧ index ≤ 0x4FFF ∧ (sub = 0x10 ∨ sub = 0x11)) ∨ (0x5800 ≤ index ∧ index ≤ 0x580F ∧ sub = 0x0A) then .f32
  else if (0x5800 ≤ index ∧ index ≤ 0x580F ∧ sub = 0x0F) ∨ (index = 0x5902) ∨ (index = 0x5904) then .str 65536
  else .octets 65536

/-- An element's value is admitted: its type's own restriction, and ORRERY_CHANNELS' range. -/
def elementOk (index sub : Nat) (e : List Byte) : Bool :=
  (match elementType index sub with
   | .f32 => !(F32.ofBits (beNat e)).isNaN
   | .str n => typeAdmits (.str n) (.bytes e)
   | _ => true) &&
  (!(index == 0x9000 && sub == 0x0B) || decide (beNat e ≤ 255) || beNat e == 0xFFFF)

/-- The image type whose DOWNLOAD an index holds. -/
def downloadType (index sub : Nat) : Option Nat :=
  if 0xD010 ≤ index ∧ index ≤ 0xD012 ∧ sub = 0x06 then some (index - 0xD010) else none

/-- BLOCK_WRITE. -/
def blockWriteReply (s : State) (x : Session) (index sub first count : Nat) (bytes : List Byte) (staged : Bool) : State × Reply :=
  let load := downloadType index sub
  match s.checkObject index sub (fun f =>
    let w := (arraySize f).2
    [(wrongForm f true || (if staged then f.acc != .st else f.acc != .rw && f.acc != .wo), .access),
     (decide (x.role < if staged then stageRole index sub else writeRole index sub), .role),
     (bytes.length != count * w, .type),
     (decide (x.maxPayload < 8 + bytes.length), .length),
     (decide ((arraySize f).1 < first + count), .element),
     (staged && s.stagingBusy, .busy),
     (if staged then s.stagingLocked x.id else load.isSome && s.num index 0x09 != x.id, .locked),
     (s.barred true index sub || (staged && s.stage == 15) ||
      (load.map (fun t => s.bankState t (s.idleBank t) != 1)).getD false, .state),
     (!(chunks w count bytes).all (elementOk index sub), .range)]) with
  | .error a => (s, .abort a index sub (s.abortElem a index sub first))
  | .ok f =>
    (match load with
     | some t => s.fwWrite t (s.ownNum x.id index 0x07 + first) bytes
     | none => s.putStaged x.id index sub first ((chunks (arraySize f).2 count bytes).map .bytes), .answer [])

/-! ## Subscriptions (R80) -/

/-- A fresh number of `w` bits, from a next one on, that is not 0 and that nothing open has. -/
def freshNumber (w next : Nat) (used : List Nat) : Nat :=
  (((List.range (used.length + 2)).map (fun i => (next + i) % 2 ^ w)).find? (fun n => n != 0 && !used.contains n)).getD 0

/-- SUBSCRIBE: mode 0 cancels, 1 is ON_CHANGE, 2 is PERIODIC. CANCEL of an id that the session does not hold, and a mode above 2, end with
abort RANGE (DESIGN CHOICE, log entry 74). -/
def subscribeReply (s : State) (x : Session) (index sub mode minInterval period : Nat) (staged : Bool) : State × Reply :=
  if x.maxPayload < 8 then (s, .abort .length index sub 0)
  else if mode = 0 then
    match s.alm.subs.find? (fun (y : Subscription) => y.id = index ∧ y.session = x.id) with
    | some _ => (s.modAlm (fun a => { a with subs := a.subs.filter (fun (y : Subscription) => y.id != index) }), .answer (beBytes 2 index))
    | none => (s, .abort .range index sub 0)
  else
    let mine := (s.alm.subs.filter (fun (y : Subscription) => y.session = x.id)).length
    let full := decide (64 ≤ mine) || decide (256 ≤ s.alm.subs.length)
    if full then (s, .abort .resource index sub 0)
    else
      match s.checkObject index sub (fun f =>
        readChecks x index staged false false f ++ [(s.barred false index sub || s.restricted, .state), (decide (2 < mode), .range)]) with
      | .error a => (s, .abort a index sub 0)
      | .ok _ =>
        let id := freshNumber 16 s.alm.nextSub (s.alm.subs.map (·.id))
        (s.modAlm (fun a => { a with
          subs := a.subs ++ [⟨id, x.id, index, sub, mode == 1, minInterval, period, s.raw + period * tickMs, none, false⟩]
          nextSub := (id + 1) % 65536 }), .answer (beBytes 2 id))

/-- SUBSCRIPTION_PERIOD: a PERIODIC subscription is due. -/
def subscriptionPeriod (s : State) (id : Nat) : State :=
  match s.alm.subs.find? (fun (y : Subscription) => y.id = id) with
  | some y =>
    if !y.onChange ∧ y.due ≤ s.raw then
      (s.notify y).modSub id (fun z => { z with due := z.due + y.period * tickMs })
    else s
  | none => s

/-- ON_CHANGE_INTERVAL_EXPIRY: the latest changed value is notified at the end of the minimum interval. -/
def intervalExpiry (s : State) (id : Nat) : State :=
  match s.alm.subs.find? (fun (y : Subscription) => y.id = id) with
  | some y =>
    let due : Bool := match y.lastSent with
      | some t => decide (t + y.minInterval * tickMs ≤ s.raw)
      | none => true
    if y.onChange ∧ y.waiting ∧ due then
      (s.notify y).modSub id (fun z => { z with lastSent := some s.raw, waiting := false })
    else s
  | none => s

/-! ## Sessions (R69–R71) -/

/-- The Almanac server runs: from the end of stage MAIN, not in QUIET or a service pause, and in recovery mode (R444, R497, R508, R511). -/
def serverOn (s : State) : Bool := s.coreRuns || (!s.boot.inReset && s.stage == 15)

/-- A transport on which the dictionary protocol runs (R61, R511). -/
def transportOn (s : State) : Transport → Bool
  | .hostSpi => true
  | .udp peer => s.portOn peer.port.val && s.cB (pCfg peer.port.val) 0x04

/-- SESSION_IDLE_TIMEOUT (R71). -/
def idleTimeout (s : State) (id : Nat) : State :=
  match s.session id with
  | some x => if x.lastValid + s.c 0x1100 0x02 * tickSec ≤ s.raw then s.closeSession id else s
  | none => s

/-- The key that authenticates an opening for a role; none when that role cannot open (R71, R442, R460, R511). -/
def roleKey (s : State) (role : Nat) : Option (List Byte) :=
  if s.restricted ∨ s.stage = 15 then
    (if role = 3 then s.keys.rk.map (fun rk => recoveryChild rk "session") else none)
  else (s.key (8 + role)).map (·.secret)

/-- Sessions that may be open at once (R71, R511). -/
def sessionLimit (s : State) : Nat := if s.stage = 15 then 1 else 8

/-- OPEN_SESSION's payload before its HMAC (R69). -/
def openFields (role maxPayload : Nat) (qh nh : List Byte) : List Byte := byte role :: (beBytes 2 maxPayload ++ qh ++ nh)

/-- The header of a session-0 PDU of opcode OPEN_SESSION. -/
def openHeader (flags length : Nat) : List Byte :=
  (⟨0x0B, flags, 0, 0, List.replicate length 0⟩ : Pdu).header

/-- The values a session holds for itself when it opens (R254, R282). -/
def openOwn (s : State) : Store :=
  Store.set (Store.set [] (okey 0x5101 0x04 0) (vNat s.newestSeq)) (okey 0x6012 0x02 0) (vNat ((s.num 0x6012 0x01 + 4294967295) % 4294967296))

/-- An accepted opening: the keys of R70, the session, and the answer of R69. A point that is not on the curve is out of range. -/
def openAccepted (s : State) (t : Transport) (role maxPayload : Nat) (qh nh roleKey : List Byte) : State × Reply :=
  let r := s.draw 80
  let d := beNat (r.1.take 48) % (p384N - 1) + 1
  let nd := r.1.drop 48
  match ecdh d qh with
  | none => (s, .abort .range 0 0 0)
  | some z =>
    let id := freshNumber 32 s.alm.nextSession (s.alm.sessions.map (·.id))
    let granted := min maxPayload 8192
    let okm := hkdf z (nh ++ nd) (ascii "TN8448 almanac" ++ beBytes 4 id ++ [byte role]) 64
    let own := beBytes 4 id ++ beBytes 2 granted ++ publicKey d ++ nd
    let mac := hmac roleKey (openHeader 1 183 ++ openFields role maxPayload qh nh ++ own)
    (r.2.modAlm (fun a => { a with
      nextSession := (id + 1) % 4294967296
      sessions := a.sessions ++ [⟨id, t, role, granted, okm.take 32, okm.drop 32, 0, 0, 0, false, s.raw, s.openOwn⟩] }), .answer (own ++ mac))

/-- OPEN_SESSION (R71) with the header it came with, whose reply goes out in session 0; none: no answer. -/
def openReply (s : State) (t : Transport) (header : List Byte) (role maxPayload : Nat) (qh nh mac : List Byte) : State × Option Reply :=
  if s.sessionLimit ≤ s.alm.sessions.length then (s, some (.abort .resource 0 0 0))
  else if 3 < role then (s, some (.abort .range 0 0 0))
  else
    match s.roleKey role with
    | none => (s, some (.abort .state 0 0 0))
    | some k =>
      if hmac k (header ++ openFields role maxPayload qh nh) ≠ mac then ((s.inc32 0x1100 0x04).raiseEvent 127 role, none)
      else
        let r := s.openAccepted t role maxPayload qh nh k
        (r.1, some r.2)

/-- OPEN_SESSION on a transport: the server's answer in session 0. -/
def openSession (s : State) (t : Transport) (header : List Byte) (role maxPayload : Nat) (qh nh mac : List Byte) : State :=
  if !s.serverOn ∨ !s.transportOn t then s
  else
    match s.openReply t header role maxPayload qh nh mac with
    | (u, some r) => u.sendPdu t none ⟨0x0B, r.flags, 0, 0, r.payload⟩
    | (u, none) => u

/-! ## Completion of commands (R78) -/

/-- COMMAND_COMPLETE: a command in progress whose result RECORD this is ends. Commands that a later event ends (a step, a snapshot, a
reload, QUIET, a synchronising reset, a handover, a commit) have no job here. -/
def commandComplete (s : State) (result : Nat) : State :=
  match s.job result with
  | none => s
  | some j =>
    let t := s.dropJob result
    match j.action with
    | .none => t.finishCmd result j.code j.data
    | .restart => t.restartNow
    | .key opcode slot target input => t.completeKey opcode slot target input
    | .prepare type sess => t.fwPrepared type sess
    | .verify type valid => t.fwVerified type valid j.code j.data
    | .activate type restarts micro => t.fwActivated type restarts micro
    | .abandon type => t.fwAbandoned type
    | .enterRecovery => t.recoverNow
    | .tamperClear => t.tamperClear
    | .exportPlate plate => t.finishExport plate
    | .selftest => t.finishCmd 0x9801 t.selftestCode []

end State

/-! ## The commands of this file -/

/-- SESSION_IDLE_TIMEOUT (R71). -/
def execSessionIdleTimeout (session : Nat) (s : State) : Host.Outcome State Fault Refusal := complete s (fun s => s.idleTimeout session)

/-- SUBSCRIPTION_PERIOD (R80). -/
def execSubscriptionPeriod (subscription : Nat) (s : State) : Host.Outcome State Fault Refusal :=
  complete s (fun s => s.subscriptionPeriod subscription)

/-- ON_CHANGE_INTERVAL_EXPIRY (R80). -/
def execOnChangeIntervalExpiry (subscription : Nat) (s : State) : Host.Outcome State Fault Refusal :=
  complete s (fun s => s.intervalExpiry subscription)

/-- COMMAND_COMPLETE (R78). -/
def execCommandComplete (result : Nat) (s : State) : Host.Outcome State Fault Refusal := complete s (fun s => s.commandComplete result)

/-- OPEN_SESSION (R71). -/
def execOpenSession (t : Transport) (role maxPayload : Nat) (qh nh mac : List Byte) (s : State) : Host.Outcome State Fault Refusal :=
  complete s (fun s => s.openSession t (State.openHeader 0 180) role maxPayload qh nh mac)

end Sys2Proof.Machine
end

