-- ==== Sys2Proof/Machine/Requests.lean ====
section
/-! DEFINITION. The requests of the dictionary protocol (R61–R68), as commands of a session and as PDUs over host SPI (R82–R84) and
UDP (R189), with the command of each host-started row of the table. -/

namespace Sys2Proof.Machine

/-! ## Sequence numbers (R66) -/

/-- A SEQUENCE that the session accepts: above the highest it has accepted, or within the 64 below it and not yet accepted. -/
def Session.accepts (x : Session) (seq : Nat) : Bool :=
  if x.highest < seq then decide (seq < 4294967296)
  else if seq = x.highest then false
  else decide (x.highest - seq ≤ 64) && !x.seen.testBit (x.highest - seq - 1)

/-- The session after it has accepted a SEQUENCE, with its idle time started anew (R66, R71). -/
def Session.take (x : Session) (seq tick : Nat) : Session :=
  if x.highest < seq then
    let ahead := seq - x.highest
    { x with
      highest := seq
      seen := if 65 ≤ ahead then 0 else ((x.seen <<< ahead) ||| (1 <<< (ahead - 1))) % 2 ^ 64
      lastValid := tick }
  else { x with seen := x.seen ||| (1 <<< (x.highest - seq - 1)), lastValid := tick }

/-! ## Requests -/

/-- What a request asks for (R64). -/
inductive Ask where
  | read (index sub : Nat) (staged : Bool)
  | write (command : Bool) (index sub typeCode : Nat) (value : List Byte)
  | stage (index sub typeCode : Nat) (value : List Byte)
  | commit
  | discard
  | blockRead (index sub first count : Nat) (staged : Bool)
  | blockWrite (index sub first count : Nat) (elements : List Byte) (staged : Bool)
  | subscribe (index sub mode minInterval period : Nat) (staged : Bool)
  | close
  /-- A WRITE or a COMMAND with the STAGED flag, which no object takes (R53, R55). -/
  | flagged (command : Bool) (index sub : Nat)
  /-- An opcode that no request has. -/
  | unknown (opcode : Nat)
  /-- A payload that its opcode does not have. -/
  | malformed (opcode : Nat)
  deriving DecidableEq, Repr

/-- The opcode of a request (R64). -/
def Ask.opcode : Ask → Nat
  | .read .. => 0x01
  | .write command .. => if command then 0x0A else 0x02
  | .stage .. => 0x03
  | .commit => 0x04
  | .discard => 0x05
  | .blockRead .. => 0x06
  | .blockWrite .. => 0x07
  | .subscribe .. => 0x08
  | .close => 0x0C
  | .flagged command _ _ => if command then 0x0A else 0x02
  | .unknown opcode => opcode
  | .malformed opcode => opcode

/-- The index, subindex and element that an abort of a request names. -/
def Ask.place : Ask → Nat × Nat × Nat
  | .read index sub _ => (index, sub, 0)
  | .write _ index sub _ _ => (index, sub, 0)
  | .stage index sub _ _ => (index, sub, 0)
  | .commit => (0x1200, 0x01, 0)
  | .discard => (0x1200, 0x01, 0)
  | .blockRead index sub first _ _ => (index, sub, first)
  | .blockWrite index sub first _ _ _ => (index, sub, first)
  | .subscribe index sub _ _ _ _ => (index, sub, 0)
  | .flagged _ index sub => (index, sub, 0)
  | .close => (0, 0, 0)
  | .unknown _ => (0, 0, 0)
  | .malformed _ => (0, 0, 0)

/-- A request is of a known opcode. -/
def Ask.known : Ask → Bool
  | .unknown _ => false
  | _ => true

/-- A write of a number to an object in the object's own type; a number that the type cannot hold goes with no type code (R54). A command
object is written by COMMAND. -/
def Ask.own (index sub : Nat) (v : Int) : Ask :=
  let command := (resultOf index sub).isSome
  match objAt index sub with
  | none => .write command index sub 0 []
  | some f =>
    let b := encodeValue f.ty (.int v)
    if decodeValue f.ty b = some (.int v) then .write command index sub f.ty.code b else .write command index sub 0 b

namespace State

/-- What a request does, and its answer. A payload whose shape its opcode does not have ends with abort LENGTH, naming 0x0000:00 (DESIGN
CHOICE, log entry 75). -/
def perform (s : State) (x : Session) (a : Ask) : State × Reply :=
  match a with
  | .read index sub staged => (s, s.readReply x index sub staged)
  | .write command index sub typeCode value => s.writeReply x command index sub typeCode value
  | .stage index sub typeCode value => s.stageReply x index sub typeCode value
  | .commit => s.commitReply x
  | .discard => s.discardReply x
  | .blockRead index sub first count staged => (s, s.blockReadReply x index sub first count staged)
  | .blockWrite index sub first count elements staged => s.blockWriteReply x index sub first count elements staged
  | .subscribe index sub mode minInterval period staged => s.subscribeReply x index sub mode minInterval period staged
  | .flagged _ index sub =>
    (s, match s.lookupObject index sub with
        | .error a => .abort a index sub 0
        | .ok _ => .abort .access index sub 0)
  | .close => (s, .answer [])
  | .unknown _ => (s, .abort .opcode 0 0 0)
  | .malformed _ => (s, .abort .length 0 0 0)

/-- A PDU, a transfer or a request that is discarded is counted (R63, R83). -/
def discardPdu (s : State) : State := s.inc32 0x1100 0x03

/-- Requests of a session whose responses wait for the host (R66). -/
def outstanding (s : State) (id : Nat) : Nat :=
  (s.waitingPdus.filter (fun p => p.session = id && p.opcode != 0x09)).length

/-- A ninth outstanding request of a session (R66). -/
def tooMany (s : State) (x : Session) (a : Ask) : Bool := a.known && decide (8 ≤ s.outstanding x.id)

/-- What a request does, and its answer, with the limit of outstanding requests. -/
def answerTo (s : State) (x : Session) (a : Ask) : State × Reply :=
  if s.tooMany x a then (s, .abort .resource a.place.1 a.place.2.1 a.place.2.2) else s.perform x a

/-- A request in a session, with its SEQUENCE: discarded outside the replay window, else performed and answered on a transport (R64,
R66). CLOSE, and the last SEQUENCE, end the session. -/
def serve (s : State) (x : Session) (t : Transport) (seq : Nat) (a : Ask) : State :=
  if !x.accepts seq then s.discardPdu
  else
    let r := (s.modSession x.id (fun y => y.take seq s.raw)).answerTo x a
    let u := r.1.sendPdu t (some x.keyOut) ⟨a.opcode, r.2.flags, x.id, seq, r.2.payload⟩
    if seq = 0xFFFFFFFF ∨ (a = .close ∧ s.tooMany x a = false) then u.closeSession x.id else u

/-- A host's request by its session's number. A PDU of a session whose transport does not carry the protocol does not arrive. -/
def request (s : State) (r : Req) (a : Ask) : State :=
  if !s.serverOn then s
  else
    match s.session r.session with
    | none => s.discardPdu
    | some x => if s.transportOn x.transport then s.serve x x.transport r.seq a else s

/-- The objects that a unit without a root reads in session 0 (R442). -/
def plainObject (index sub : Nat) : Bool :=
  (decide (0x1000 ≤ index) && decide (index ≤ 0x10FF)) || (index == 0xB100 && decide (5 ≤ sub) && decide (sub ≤ 7))

/-- The answer to a READ in session 0. -/
def plainReply (s : State) (index sub : Nat) (staged : Bool) : Reply :=
  match s.checkObject index sub (fun f => [(!plainObject index sub || wrongForm f false || f.acc == .wo || staged, .access)]) with
  | .error a => .abort a index sub 0
  | .ok f =>
    let v := s.readBytes 0 index sub 0 f false
    .answer ([byte f.ty.code, 0] ++ beBytes 2 v.length ++ v)

/-- A READ in session 0: answered by a unit that has no root, discarded by others (R442). -/
def plainRead (s : State) (t : Transport) (seq index sub : Nat) (staged : Bool) : State :=
  if s.keys.root.isSome ∨ seq ≠ 0 then s.discardPdu
  else
    let r := s.plainReply index sub staged
    s.sendPdu t none ⟨0x01, r.flags, 0, 0, r.payload⟩

/-- READ by its session's number; in session 0 over host SPI. -/
def readRequest (s : State) (r : Req) (index sub : Nat) (staged : Bool) : State :=
  if r.session = 0 then (if s.serverOn then s.plainRead .hostSpi r.seq index sub staged else s)
  else s.request r (.read index sub staged)

/-! ## PDUs as bytes (R62, R63) -/

end State

/-- The request that a payload makes with its opcode and STAGED flag (R64, R80). -/
def parseAsk (opcode : Nat) (staged : Bool) (p : List Byte) : Ask :=
  let n := p.length
  let index := field p 0 2
  let sub := field p 2 1
  match opcode with
  | 0x01 => if n = 4 then .read index sub staged else .malformed opcode
  | 0x02 => if n < 4 then .malformed opcode else if staged then .flagged false index sub else .write false index sub (field p 3 1) (p.drop 4)
  | 0x03 => if 4 ≤ n then .stage index sub (field p 3 1) (p.drop 4) else .malformed opcode
  | 0x04 => if n = 0 then .commit else .malformed opcode
  | 0x05 => if n = 0 then .discard else .malformed opcode
  | 0x06 => if n = 8 then .blockRead index sub (field p 4 2) (field p 6 2) staged else .malformed opcode
  | 0x07 => if 8 ≤ n then .blockWrite index sub (field p 4 2) (field p 6 2) (p.drop 8) staged else .malformed opcode
  | 0x08 => if n = 8 then .subscribe index sub (field p 3 1) (field p 4 2) (field p 6 2) staged else .malformed opcode
  | 0x0A => if n < 4 then .malformed opcode else if staged then .flagged true index sub else .write true index sub (field p 3 1) (p.drop 4)
  | 0x0C => if n = 0 then .close else .malformed opcode
  | _ => .unknown opcode

namespace State

/-- A PDU of session 0 with a zero tag, with its header: an opening, or a READ. -/
def takePlain (s : State) (t : Transport) (header : List Byte) (opcode seq : Nat) (staged : Bool) (p : List Byte) : State :=
  if opcode = 0x0B ∧ p.length = 180 ∧ seq = 0 then
    s.openSession t header (field p 0 1) (field p 1 2) (slice p 3 97) (slice p 100 32) (slice p 132 48)
  else if opcode = 0x01 ∧ p.length = 4 then s.plainRead t seq (field p 0 2) (field p 2 1) staged
  else s.discardPdu

/-- A PDU arrives on a transport (R62, R63). One with RESPONSE = 1 is discarded and counted, and so is one of session 0 that is no READ of 4
bytes and no OPEN_SESSION of 180 bytes (DESIGN CHOICE, log entry 76). -/
def takePdu (s : State) (t : Transport) (b : List Byte) : State :=
  let opcode := field b 3 1
  let flags := field b 4 2
  let n := field b 6 2
  let id := field b 8 4
  let seq := field b 12 4
  let tag := slice b (16 + n) 16
  if b.length ≠ n + 32 ∨ field b 0 2 ≠ 0x5A57 ∨ field b 2 1 ≠ 1 ∨ flags.testBit 0 then s.discardPdu
  else if id = 0 then (if allZero tag then s.takePlain t (b.take 16) opcode seq (flags.testBit 2) (slice b 16 n) else s.discardPdu)
  else
    match s.session id with
    | none => s.discardPdu
    | some x =>
      match gcmOpen x.keyIn (beBytes 4 id ++ beBytes 4 0 ++ beBytes 4 seq) (b.take 16) (slice b 16 n) tag with
      | none => s.discardPdu
      | some p => s.serve x t seq (parseAsk opcode (flags.testBit 2) p)

/-! ## Host SPI (R37, R82–R84) -/

/-- A host SPI transfer wakes a unit in QUIET, and at its end HSPI_INT_N is released for 2 µs. A unit in reset takes none. -/
def hspiTransfer (s : State) (f : State → State) : State :=
  if s.boot.inReset then s else ((f s).wake 2).modAlm (fun a => { a with hspiGap := some s.raw })

/-- HSPI_INT_N has been high for 2 µs after the last transfer. -/
def hspiRearm (s : State) : State :=
  match s.alm.hspiGap with
  | some t => if t + 2 * tickUs ≤ s.raw then s.modAlm (fun a => { a with hspiGap := none }) else s
  | none => s

/-- READ_STATUS: STATUS and the length of the pending PDU, 0 for none. -/
def readStatus (s : State) : State :=
  let n := match s.alm.hspiTx with
    | [] => 0
    | p :: _ => p.1.payload.length + 32
  s.emit (.hspi (byte (bitsOfList [s.serverOn, !s.alm.hspiTx.isEmpty]) :: beBytes 2 n))

/-- WRITE_PDU. -/
def writePdu (s : State) (b : List Byte) : State := if s.serverOn then s.takePdu .hostSpi b else s.discardPdu

/-- READ_PDU: the pending PDU's bytes, which leaves the queue when all of them have been clocked out. -/
def readPdu (s : State) (clocked : Nat) : State :=
  match s.alm.hspiTx with
  | [] => s.discardPdu
  | p :: rest =>
    let b := p.1.sealed p.2
    if clocked < b.length then s.emit (.hspi (b.take clocked)) else (s.emit (.hspi b)).modAlm (fun a => { a with hspiTx := rest })

/-! ## Frames (R176, R189, R206) -/

/-- The dictionary protocol's PDU in a slow-path frame of a port, with its sender and the destination address; none: the frame holds none.
Fragments and frames cut in the ring hold none (R61, R206). -/
def pduIn (p : Fin 6) (f : SlowFrame) : Option (UdpPeer × List Byte × List Byte) :=
  match parseIp f.bytes with
  | .udp src dst headerOk v6 dgram =>
    if f.overrun ∨ field dgram 2 2 ≠ 5747 ∨ !headerOk ∨ !udpChecksumOk src dst v6 dgram then none
    else some (⟨p, slice f.bytes 6 6, src, field dgram 0 2⟩, dst, udpPayload dgram)
  | _ => none

/-- The addresses at which a port takes the dictionary protocol: in recovery mode the link-local one only (R511). -/
def hostAddresses (s : State) (p : Nat) : List (List Byte) :=
  if s.stage = 15 then [linkLocal (macOf (s.homePort p))] else s.ownAddresses p

/-- The management core takes a frame from a port's receive ring. -/
def slowFrame (p : Fin 6) (s : State) (f : SlowFrame) : State :=
  let t := if f.overrun then s else (s.learnNeighbour p.val f.bytes).answerQuery p.val f.bytes
  match pduIn p f with
  | none => t
  | some (peer, dst, b) =>
    if t.serverOn ∧ t.transportOn (.udp peer) ∧ (t.hostAddresses p.val).contains dst then t.takePdu (.udp peer) b else t

/-- The management core takes the frames of a port's receive ring and gives their descriptors back (R206). -/
def serveRing (s : State) (p : Fin 6) : State :=
  if s.serverOn then (ringFrames p.val [] (s.port p.val).rx).foldl (slowFrame p) (s.modPort p.val (fun x => { x with rx := [] })) else s

/-- A frame received on a port: in QUIET a match wakes the unit, with cause 1 (R37, R188). One that puts its stream in MISMATCH may
leave the stream's lane complete (R190, R229). -/
def frameReceive (s : State) (p : Fin 6) (frame : List Byte) (fcsOk : Bool) (tdc : Nat) : State :=
  let r := s.receive p.val frame fcsOk tdc
  match r.2 with
  | some _ => r.1.wake 1
  | none => if r.1.num (pCnt p.val) 0x0D = s.num (pCnt p.val) 0x0D then r.1.serveRing p else (r.1.serveRing p).recheck

/-! ## Addresses of the rows that name a channel, an output or another unit -/

/-- The clearing subindex of the objects with fault qualifiers (R523): SUP_CLEAR of channels, CLEAR of BO, BI and bays. -/
def supClearSub (index : Nat) : Nat :=
  if 0x7100 ≤ index ∧ index ≤ 0x710F then 0x09
  else if 0x7120 ≤ index ∧ index ≤ 0x7137 then 0x0E
  else if 0x8000 ≤ index ∧ index ≤ 0x8007 then 0x0F
  else 0x0B

/-- A command of a host: a write of a number to one object. -/
def ownWrite (s : State) (r : Req) (index sub : Nat) (v : Int) : Host.Outcome State Fault Refusal :=
  complete s (fun s => s.request r (Ask.own index sub v))

end State

/-! ## The requests of the protocol -/

/-- REGISTER_WRITE (R55): a WRITE in the object's own type. -/
def execRegisterWrite (r : Req) (index sub : Nat) (value : List Byte) (s : State) : Host.Outcome State Fault Refusal :=
  complete s (fun s => s.request r (.write false index sub (((objAt index sub).map (fun (f : Field) => f.ty.code)).getD 0) value))

/-- READ (R64, R442). -/
def execRead (r : Req) (index sub : Nat) (staged : Bool) (s : State) : Host.Outcome State Fault Refusal :=
  complete s (fun s => s.readRequest r index sub staged)

/-- WRITE (R64). -/
def execWrite (r : Req) (index sub typeCode : Nat) (value : List Byte) (s : State) : Host.Outcome State Fault Refusal :=
  complete s (fun s => s.request r (.write false index sub typeCode value))

/-- STAGE (R72). -/
def execStage (r : Req) (index sub typeCode : Nat) (value : List Byte) (s : State) : Host.Outcome State Fault Refusal :=
  complete s (fun s => s.request r (.stage index sub typeCode value))

/-- COMMIT (R73). -/
def execCommit (r : Req) (s : State) : Host.Outcome State Fault Refusal := complete s (fun s => s.request r .commit)

/-- DISCARD (R76). -/
def execDiscard (r : Req) (s : State) : Host.Outcome State Fault Refusal := complete s (fun s => s.request r .discard)

/-- BLOCK_READ (R65). -/
def execBlockRead (r : Req) (index sub first count : Nat) (staged : Bool) (s : State) : Host.Outcome State Fault Refusal :=
  complete s (fun s => s.request r (.blockRead index sub first count staged))

/-- BLOCK_WRITE (R65). -/
def execBlockWrite (r : Req) (index sub first count : Nat) (elements : List Byte) (staged : Bool) (s : State) :
    Host.Outcome State Fault Refusal :=
  complete s (fun s => s.request r (.blockWrite index sub first count elements staged))

/-- SUBSCRIBE (R80). -/
def execSubscribe (r : Req) (index sub mode minInterval period : Nat) (s : State) : Host.Outcome State Fault Refusal :=
  complete s (fun s => s.request r (.subscribe index sub mode minInterval period false))

/-- COMMAND (R64). -/
def execCommand (r : Req) (index sub typeCode : Nat) (value : List Byte) (s : State) : Host.Outcome State Fault Refusal :=
  complete s (fun s => s.request r (.write true index sub typeCode value))

/-- CLOSE (R64). -/
def execClose (r : Req) (s : State) : Host.Outcome State Fault Refusal := complete s (fun s => s.request r .close)

/-- OPCODE_UNKNOWN (R68). -/
def execOpcodeUnknown (r : Req) (opcode : Nat) (s : State) : Host.Outcome State Fault Refusal :=
  complete s (fun s => s.request r (.unknown opcode))

/-- RESULT_ACK (R79). -/
def execResultAck (r : Req) (result : Nat) (s : State) : Host.Outcome State Fault Refusal := State.ownWrite s r result 0x05 1

/-- RESTART_CMD (R85). -/
def execRestartCmd (r : Req) (s : State) : Host.Outcome State Fault Refusal := State.ownWrite s r 0x1F00 0x01 1

/-- STAGE_DEFAULTS_CMD (R85). -/
def execStageDefaultsCmd (r : Req) (s : State) : Host.Outcome State Fault Refusal := State.ownWrite s r 0x1F02 0x01 1

/-! ## Host SPI and frames -/

/-- READ_STATUS (R82, R83). -/
def execReadStatus (s : State) : Host.Outcome State Fault Refusal := complete s (fun s => s.hspiTransfer State.readStatus)

/-- WRITE_PDU (R82, R83). -/
def execWritePdu (pdu : List Byte) (s : State) : Host.Outcome State Fault Refusal :=
  complete s (fun s => s.hspiTransfer (fun s => s.writePdu pdu))

/-- READ_PDU (R82, R83). -/
def execReadPdu (clocked : Nat) (s : State) : Host.Outcome State Fault Refusal :=
  complete s (fun s => s.hspiTransfer (fun s => s.readPdu clocked))

/-- HSPI_INT_REARM (R84). -/
def execHspiIntRearm (s : State) : Host.Outcome State Fault Refusal := complete s State.hspiRearm

/-- FRAME_RECEIVE (R176). -/
def execFrameReceive (port : Fin 6) (frame : List Byte) (fcsOk : Bool) (tdc : Nat) (s : State) : Host.Outcome State Fault Refusal :=
  complete s (fun s => s.frameReceive port frame fcsOk tdc)

/-! ## Rows that write one object -/

/-- RELOAD_CMD (R561). -/
def execReloadCmd (r : Req) (lane : Nat) (s : State) : Host.Outcome State Fault Refusal := State.ownWrite s r 0xF134 0x03 lane

/-- QUIET_CMD (R35). -/
def execQuietCmd (r : Req) (s : State) : Host.Outcome State Fault Refusal := State.ownWrite s r 0xF140 0x02 1

/-- INCREMENT_WRITE (R90). -/
def execIncrementWrite (r : Req) (increment : Nat) (s : State) : Host.Outcome State Fault Refusal :=
  State.ownWrite s r 0x2000 0x03 increment

/-- STEP_NOW (R92). -/
def execStepNow (r : Req) (s : State) : Host.Outcome State Fault Refusal := State.ownWrite s r 0x2000 0x08 1

/-- STEP_NEXT_SECOND (R92). -/
def execStepNextSecond (r : Req) (s : State) : Host.Outcome State Fault Refusal := State.ownWrite s r 0x2000 0x08 2

/-- OFFSET_REPORT (R96). -/
def execOffsetReport (r : Req) (offset : Int) (s : State) : Host.Outcome State Fault Refusal := State.ownWrite s r 0x2000 0x0C offset

/-- REF_PRESENT_WRITE (R96). -/
def execRefPresentWrite (r : Req) (present : Nat) (s : State) : Host.Outcome State Fault Refusal := State.ownWrite s r 0x2000 0x0D present

/-- TXTS_CLEAR (R122). -/
def execTxtsClear (r : Req) (port : Fin 6) (s : State) : Host.Outcome State Fault Refusal := State.ownWrite s r (0x2110 + port.val) 0x09 1

/-- ARM_AT_WRITE (R113). -/
def execArmAtWrite (r : Req) (out : Fin 8) (at_ : Et) (s : State) : Host.Outcome State Fault Refusal :=
  State.ownWrite s r (0x2200 + out.val) 0x07 at_

/-- SYNC_RESET_CMD (R149). -/
def execSyncResetCmd (r : Req) (s : State) : Host.Outcome State Fault Refusal := State.ownWrite s r 0x3200 0x07 1

/-- SUP_CLEAR (R523). -/
def execSupClear (r : Req) (index : Nat) (s : State) : Host.Outcome State Fault Refusal :=
  State.ownWrite s r index (State.supClearSub index) 1

/-- COUNTER_CLEAR (R527). -/
def execCounterClear (r : Req) (index sub value : Nat) (s : State) : Host.Outcome State Fault Refusal := State.ownWrite s r index sub value

/-- LATE_CLEAR (R236). -/
def execLateClear (r : Req) (stream : Nat) (s : State) : Host.Outcome State Fault Refusal := State.ownWrite s r 0x5000 0x1B stream

/-- SPECTRO_RESET_CMD (R276). -/
def execSpectroResetCmd (r : Req) (target : Nat) (s : State) : Host.Outcome State Fault Refusal := State.ownWrite s r 0x6000 0x0D target

/-- ALARM_ACK (R303). -/
def execAlarmAck (r : Req) (alarm : Nat) (s : State) : Host.Outcome State Fault Refusal := State.ownWrite s r 0x6200 0x04 alarm

/-- ALM_FORCE (R305). -/
def execAlmForce (r : Req) (pin : Fin 4) (force : Nat) (s : State) : Host.Outcome State Fault Refusal :=
  State.ownWrite s r (0x6201 + pin.val) 0x04 force

/-- REENABLE_CMD (R356). -/
def execReenableCmd (r : Req) (s : State) : Host.Outcome State Fault Refusal := State.ownWrite s r 0x7000 0x12 1

/-- COUNT_SET (R387). -/
def execCountSet (r : Req) (counter : Fin 24) (count : Nat) (s : State) : Host.Outcome State Fault Refusal :=
  State.ownWrite s r (0x8100 + counter.val) 0x09 count

/-- PM_RESET_CMD (R377). -/
def execPmResetCmd (r : Req) (bay : Nat) (s : State) : Host.Outcome State Fault Refusal := State.ownWrite s r 0x8010 0x09 bay

/-- PM_SNAPSHOT_CMD (R378). -/
def execPmSnapshotCmd (r : Req) (s : State) : Host.Outcome State Fault Refusal := State.ownWrite s r 0x8010 0x02 1

/-- TRIGGER_CMD (R411). -/
def execTriggerCmd (r : Req) (trigger : Nat) (s : State) : Host.Outcome State Fault Refusal := State.ownWrite s r 0x9000 0x15 trigger

/-- RESUME_CMD (R403). -/
def execResumeCmd (r : Req) (s : State) : Host.Outcome State Fault Refusal := State.ownWrite s r 0x9000 0x16 1

/-- RELEASE_CMD (R408). -/
def execReleaseCmd (r : Req) (plate : Nat) (s : State) : Host.Outcome State Fault Refusal := State.ownWrite s r 0x9000 0x17 plate

/-- EXPORT_CMD (R409). -/
def execExportCmd (r : Req) (plate : Nat) (s : State) : Host.Outcome State Fault Refusal := State.ownWrite s r 0x9012 0x01 plate

/-- EXPORT_SEEK (R410). -/
def execExportSeek (r : Req) (block : Nat) (s : State) : Host.Outcome State Fault Refusal := State.ownWrite s r 0x9012 0x05 block

/-- LOG_SELECT (R426). -/
def execLogSelect (r : Req) (sequence : Nat) (s : State) : Host.Outcome State Fault Refusal := State.ownWrite s r 0xA002 0x02 sequence

/-- LOG_CLEAR (R427). -/
def execLogClear (r : Req) (s : State) : Host.Outcome State Fault Refusal := State.ownWrite s r 0xA000 0x0D 1

/-- FLASH_CLEAR (R427). -/
def execFlashClear (r : Req) (s : State) : Host.Outcome State Fault Refusal := State.ownWrite s r 0xA000 0x0E 1

/-- SELFTEST_CMD (R437). -/
def execSelftestCmd (r : Req) (s : State) : Host.Outcome State Fault Refusal := State.ownWrite s r 0x9800 0x0A 1

/-- GENERATE (R454). -/
def execGenerate (r : Req) (s : State) : Host.Outcome State Fault Refusal := State.ownWrite s r 0xB101 0x01 1

/-- DERIVE_SLOT (R449, R454). -/
def execDeriveSlot (r : Req) (s : State) : Host.Outcome State Fault Refusal := State.ownWrite s r 0xB101 0x01 2

/-- IMPORT (R454, R457). -/
def execImportKey (r : Req) (s : State) : Host.Outcome State Fault Refusal := State.ownWrite s r 0xB101 0x01 3

/-- DESTROY (R452, R454). -/
def execDestroy (r : Req) (s : State) : Host.Outcome State Fault Refusal := State.ownWrite s r 0xB101 0x01 4

/-- SIGN (R454). -/
def execSign (r : Req) (s : State) : Host.Outcome State Fault Refusal := State.ownWrite s r 0xB101 0x01 5

/-- VERIFY (R454). -/
def execVerify (r : Req) (s : State) : Host.Outcome State Fault Refusal := State.ownWrite s r 0xB101 0x01 6

/-- ENCRYPT (R454). -/
def execEncrypt (r : Req) (s : State) : Host.Outcome State Fault Refusal := State.ownWrite s r 0xB101 0x01 7

/-- DECRYPT (R454). -/
def execDecrypt (r : Req) (s : State) : Host.Outcome State Fault Refusal := State.ownWrite s r 0xB101 0x01 8

/-- MAC (R454). -/
def execMac (r : Req) (s : State) : Host.Outcome State Fault Refusal := State.ownWrite s r 0xB101 0x01 9

/-- DERIVE (R454). -/
def execDerive (r : Req) (s : State) : Host.Outcome State Fault Refusal := State.ownWrite s r 0xB101 0x01 10

/-- WRAP (R454). -/
def execWrap (r : Req) (s : State) : Host.Outcome State Fault Refusal := State.ownWrite s r 0xB101 0x01 11

/-- ATTEST (R458). -/
def execAttest (r : Req) (s : State) : Host.Outcome State Fault Refusal := State.ownWrite s r 0xB101 0x01 12

/-- TAMPER_CLEAR_CMD (R464). -/
def execTamperClearCmd (r : Req) (s : State) : Host.Outcome State Fault Refusal := State.ownWrite s r 0xB100 0x0F 1

/-- HANDOVER_CMD (R489). -/
def execHandoverCmd (r : Req) (s : State) : Host.Outcome State Fault Refusal := State.ownWrite s r 0xC000 0x15 1

/-- PREPARE (R505). -/
def execPrepare (r : Req) (s : State) : Host.Outcome State Fault Refusal := State.ownWrite s r 0xD020 0x01 1

/-- FW_VERIFY (R503). -/
def execFwVerify (r : Req) (s : State) : Host.Outcome State Fault Refusal := State.ownWrite s r 0xD020 0x01 2

/-- ACTIVATE (R507). -/
def execActivate (r : Req) (s : State) : Host.Outcome State Fault Refusal := State.ownWrite s r 0xD020 0x01 3

/-- ABANDON (R505). -/
def execAbandon (r : Req) (s : State) : Host.Outcome State Fault Refusal := State.ownWrite s r 0xD020 0x01 4

/-- ENTER_RECOVERY (R510). -/
def execEnterRecovery (r : Req) (s : State) : Host.Outcome State Fault Refusal := State.ownWrite s r 0xD020 0x01 5

/-- EVENT_ACK (R520). -/
def execEventAck (r : Req) (source : Nat) (s : State) : Host.Outcome State Fault Refusal := State.ownWrite s r 0xA800 0x03 source

/-- COUNTER_SNAPSHOT_CMD (R526). -/
def execCounterSnapshotCmd (r : Req) (s : State) : Host.Outcome State Fault Refusal := State.ownWrite s r 0xE050 0x01 1

/-- DOWNLOAD (R506): a BLOCK_WRITE of image bytes. -/
def execDownload (r : Req) (image : Fin 3) (first : Nat) (bytes : List Byte) (s : State) : Host.Outcome State Fault Refusal :=
  complete s (fun s => s.request r (.blockWrite (0xD010 + image.val) 0x06 first bytes.length bytes false))

end Sys2Proof.Machine
end

