-- ==== Sys2Proof/Machine/Dispatch.lean ====
section
/-! DEFINITION. The meaning of every command: one arm per constructor, each a call of its meaning. -/

namespace Sys2Proof.Machine

def exec (i : Instr) (s : State) : Host.Outcome State Fault Refusal :=
  match i with
  | .registerWrite r index sub value => Sys2Proof.Machine.execRegisterWrite r index sub value s
  | .read r index sub staged => Sys2Proof.Machine.execRead r index sub staged s
  | .write r index sub typeCode value => Sys2Proof.Machine.execWrite r index sub typeCode value s
  | .stage r index sub typeCode value => Sys2Proof.Machine.execStage r index sub typeCode value s
  | .commit r => Sys2Proof.Machine.execCommit r s
  | .commitValidationEnd => Sys2Proof.Machine.execCommitValidationEnd s
  | .commitActivate => Sys2Proof.Machine.execCommitActivate s
  | .discard r => Sys2Proof.Machine.execDiscard r s
  | .blockRead r index sub first count staged => Sys2Proof.Machine.execBlockRead r index sub first count staged s
  | .blockWrite r index sub first count elements staged => Sys2Proof.Machine.execBlockWrite r index sub first count elements staged s
  | .subscribe r index sub mode minInterval period => Sys2Proof.Machine.execSubscribe r index sub mode minInterval period s
  | .command r index sub typeCode value => Sys2Proof.Machine.execCommand r index sub typeCode value s
  | .openSession t role maxPayload qh nh mac => Sys2Proof.Machine.execOpenSession t role maxPayload qh nh mac s
  | .close r => Sys2Proof.Machine.execClose r s
  | .opcodeUnknown r opcode => Sys2Proof.Machine.execOpcodeUnknown r opcode s
  | .sessionIdleTimeout session => Sys2Proof.Machine.execSessionIdleTimeout session s
  | .subscriptionPeriod subscription => Sys2Proof.Machine.execSubscriptionPeriod subscription s
  | .onChangeIntervalExpiry subscription => Sys2Proof.Machine.execOnChangeIntervalExpiry subscription s
  | .resultAck r result => Sys2Proof.Machine.execResultAck r result s
  | .commandComplete result => Sys2Proof.Machine.execCommandComplete result s
  | .restartCmd r => Sys2Proof.Machine.execRestartCmd r s
  | .stageDefaultsCmd r => Sys2Proof.Machine.execStageDefaultsCmd r s
  | .readStatus => Sys2Proof.Machine.execReadStatus s
  | .writePdu pdu => Sys2Proof.Machine.execWritePdu pdu s
  | .readPdu clocked => Sys2Proof.Machine.execReadPdu clocked s
  | .hspiIntRearm => Sys2Proof.Machine.execHspiIntRearm s
  | .zonovMessageReceive link cls drained latency failedChecks => Sys2Proof.Machine.execZonovMessageReceive link cls drained latency failedChecks s
  | .zonovLinkDown link => Sys2Proof.Machine.execZonovLinkDown link s
  | .paceWindow completions => Sys2Proof.Machine.execPaceWindow completions s
  | .avsLoopPeriod replies => Sys2Proof.Machine.execAvsLoopPeriod replies s
  | .avsAtLimit rail => Sys2Proof.Machine.execAvsAtLimit rail s
  | .lanePaceReport lane => Sys2Proof.Machine.execLanePaceReport lane s
  | .spillLeaseExpiry lane => Sys2Proof.Machine.execSpillLeaseExpiry lane s
  | .laneReloadComplete lane ok => Sys2Proof.Machine.execLaneReloadComplete lane ok s
  | .reloadCmd r lane => Sys2Proof.Machine.execReloadCmd r lane s
  | .quietCmd r => Sys2Proof.Machine.execQuietCmd r s
  | .quietEntryComplete => Sys2Proof.Machine.execQuietEntryComplete s
  | .wakeAtExpiry => Sys2Proof.Machine.execWakeAtExpiry s
  | .dramScrubPass corrected uncorrected => Sys2Proof.Machine.execDramScrubPass corrected uncorrected s
  | .incrementWrite r increment => Sys2Proof.Machine.execIncrementWrite r increment s
  | .incrementApply => Sys2Proof.Machine.execIncrementApply s
  | .stepNow r => Sys2Proof.Machine.execStepNow r s
  | .stepNextSecond r => Sys2Proof.Machine.execStepNextSecond r s
  | .stepApply => Sys2Proof.Machine.execStepApply s
  | .offsetReport r offset => Sys2Proof.Machine.execOffsetReport r offset s
  | .refPresentWrite r present => Sys2Proof.Machine.execRefPresentWrite r present s
  | .refTimeout => Sys2Proof.Machine.execRefTimeout s
  | .holdoverLimitExpiry => Sys2Proof.Machine.execHoldoverLimitExpiry s
  | .servoMeasurement ref offset => Sys2Proof.Machine.execServoMeasurement ref offset s
  | .leapSecond => Sys2Proof.Machine.execLeapSecond s
  | .ptpMessageReceive port msg tdc => Sys2Proof.Machine.execPtpMessageReceive port msg tdc s
  | .ptpAnnounceTimeout port => Sys2Proof.Machine.execPtpAnnounceTimeout port s
  | .ptpMessageTransmit port msgType seqId tdc => Sys2Proof.Machine.execPtpMessageTransmit port msgType seqId tdc s
  | .tcForwardSync ingress egress msg rx tdc => Sys2Proof.Machine.execTcForwardSync ingress egress msg rx tdc s
  | .tcForwardFollowUp ingress egress msg => Sys2Proof.Machine.execTcForwardFollowUp ingress egress msg s
  | .tcResidenceExpiry egress => Sys2Proof.Machine.execTcResidenceExpiry egress s
  | .txtsClear r port => Sys2Proof.Machine.execTxtsClear r port s
  | .armAtWrite r out at_ => Sys2Proof.Machine.execArmAtWrite r out at_ s
  | .toOneShotEdge out => Sys2Proof.Machine.execToOneShotEdge out s
  | .toPeriodicEdge out => Sys2Proof.Machine.execToPeriodicEdge out s
  | .toPulseEnd out => Sys2Proof.Machine.execToPulseEnd out s
  | .tiEdge input rising tdc => Sys2Proof.Machine.execTiEdge input rising tdc s
  | .irigFrame pulses => Sys2Proof.Machine.execIrigFrame pulses s
  | .irigReferenceTimeout => Sys2Proof.Machine.execIrigReferenceTimeout s
  | .ppsEdge tdc highTimeNs => Sys2Proof.Machine.execPpsEdge tdc highTimeNs s
  | .ppsReferenceTimeout => Sys2Proof.Machine.execPpsReferenceTimeout s
  | .fixedRateSample codes => Sys2Proof.Machine.execFixedRateSample codes s
  | .trackedSample => Sys2Proof.Machine.execTrackedSample s
  | .trackedCycleBoundary => Sys2Proof.Machine.execTrackedCycleBoundary s
  | .syncResetCmd r => Sys2Proof.Machine.execSyncResetCmd r s
  | .syncResetSampleZero => Sys2Proof.Machine.execSyncResetSampleZero s
  | .bayReport bay => Sys2Proof.Machine.execBayReport bay s
  | .openWireSample ch outside => Sys2Proof.Machine.execOpenWireSample ch outside s
  | .shortEvaluation ch => Sys2Proof.Machine.execShortEvaluation ch s
  | .supClear r index => Sys2Proof.Machine.execSupClear r index s
  | .counterClear r index sub value => Sys2Proof.Machine.execCounterClear r index sub value s
  | .frameReceive port frame fcsOk tdc => Sys2Proof.Machine.execFrameReceive port frame fcsOk tdc s
  | .prpEntryForget pair source => Sys2Proof.Machine.execPrpEntryForget pair source s
  | .prpSupervisionTransmit pair => Sys2Proof.Machine.execPrpSupervisionTransmit pair s
  | .pauseRepeat port => Sys2Proof.Machine.execPauseRepeat port s
  | .pauseFrameReceive port quanta => Sys2Proof.Machine.execPauseFrameReceive port quanta s
  | .pauseExpiry port => Sys2Proof.Machine.execPauseExpiry port s
  | .pauseLimit port => Sys2Proof.Machine.execPauseLimit port s
  | .pauseLimitEnd port => Sys2Proof.Machine.execPauseLimitEnd port s
  | .portLinkChange port up speed => Sys2Proof.Machine.execPortLinkChange port up speed s
  | .txDescriptorPost port cls frame => Sys2Proof.Machine.execTxDescriptorPost port cls frame s
  | .ingestQueueWrite port => Sys2Proof.Machine.execIngestQueueWrite port s
  | .cfgFrameReceive stream cfg => Sys2Proof.Machine.execCfgFrameReceive stream cfg s
  | .tcpConnectAttempt stream connected => Sys2Proof.Machine.execTcpConnectAttempt stream connected s
  | .tcpRetryExpiry stream => Sys2Proof.Machine.execTcpRetryExpiry stream s
  | .tcpCfgWaitTimeout stream => Sys2Proof.Machine.execTcpCfgWaitTimeout stream s
  | .tcpStreamFrame stream segment => Sys2Proof.Machine.execTcpStreamFrame stream segment s
  | .streamSilentTimeout stream => Sys2Proof.Machine.execStreamSilentTimeout stream s
  | .frameMatch lane => Sys2Proof.Machine.execFrameMatch lane s
  | .lateClear r stream => Sys2Proof.Machine.execLateClear r stream s
  | .wMinStrobe k => Sys2Proof.Machine.execWMinStrobe k s
  | .partialReceive lane => Sys2Proof.Machine.execPartialReceive lane s
  | .noticeReceive lane => Sys2Proof.Machine.execNoticeReceive lane s
  | .deadlineNotice k => Sys2Proof.Machine.execDeadlineNotice k s
  | .mergeClose k => Sys2Proof.Machine.execMergeClose k s
  | .transitRelease => Sys2Proof.Machine.execTransitRelease s
  | .transitRateChanged => Sys2Proof.Machine.execTransitRateChanged s
  | .taskDispatch lane => Sys2Proof.Machine.execTaskDispatch lane s
  | .interAreaUpdate lane => Sys2Proof.Machine.execInterAreaUpdate lane s
  | .localBlockReceive lane => Sys2Proof.Machine.execLocalBlockReceive lane s
  | .bandContribution lane => Sys2Proof.Machine.execBandContribution lane s
  | .bandMergeClose => Sys2Proof.Machine.execBandMergeClose s
  | .shapeAnswer => Sys2Proof.Machine.execShapeAnswer s
  | .spectroResetCmd r target => Sys2Proof.Machine.execSpectroResetCmd r target s
  | .horizonEvaluation => Sys2Proof.Machine.execHorizonEvaluation s
  | .lomHalfCycle bay => Sys2Proof.Machine.execLomHalfCycle bay s
  | .lomHoldExpiry bay => Sys2Proof.Machine.execLomHoldExpiry bay s
  | .alarmDelivery => Sys2Proof.Machine.execAlarmDelivery s
  | .minOnExpiry alarm => Sys2Proof.Machine.execMinOnExpiry alarm s
  | .alarmAck r alarm => Sys2Proof.Machine.execAlarmAck r alarm s
  | .almPulseEnd pin => Sys2Proof.Machine.execAlmPulseEnd pin s
  | .almForce r pin force => Sys2Proof.Machine.execAlmForce r pin force s
  | .egressTcpConnect out port => Sys2Proof.Machine.execEgressTcpConnect out port s
  | .cmdDataOff out => Sys2Proof.Machine.execCmdDataOff out s
  | .cmdDataOn out => Sys2Proof.Machine.execCmdDataOn out s
  | .cmdSendHeader out => Sys2Proof.Machine.execCmdSendHeader out s
  | .cmdSendCfg1 out => Sys2Proof.Machine.execCmdSendCfg1 out s
  | .cmdSendCfg2 out => Sys2Proof.Machine.execCmdSendCfg2 out s
  | .cmdSendCfg3 out => Sys2Proof.Machine.execCmdSendCfg3 out s
  | .badCommand out cmd => Sys2Proof.Machine.execBadCommand out cmd s
  | .gooseStateChange pub => Sys2Proof.Machine.execGooseStateChange pub s
  | .gooseRetransmit pub => Sys2Proof.Machine.execGooseRetransmit pub s
  | .gooseFrameReceive port msg => Sys2Proof.Machine.execGooseFrameReceive port msg s
  | .gooseTalExpired sub => Sys2Proof.Machine.execGooseTalExpired sub s
  | .orrerySnapshot => Sys2Proof.Machine.execOrrerySnapshot s
  | .orreryEvaluationEnd => Sys2Proof.Machine.execOrreryEvaluationEnd s
  | .orreryOutputWrite => Sys2Proof.Machine.execOrreryOutputWrite s
  | .orreryStart => Sys2Proof.Machine.execOrreryStart s
  | .reenableCmd r => Sys2Proof.Machine.execReenableCmd r s
  | .boShortDetect out => Sys2Proof.Machine.execBoShortDetect out s
  | .boShortRetry out => Sys2Proof.Machine.execBoShortRetry out s
  | .boLoadSense out load => Sys2Proof.Machine.execBoLoadSense out load s
  | .biSample input millivolts => Sys2Proof.Machine.execBiSample input millivolts s
  | .countSet r counter count => Sys2Proof.Machine.execCountSet r counter count s
  | .pmCycleEnd bay vn => Sys2Proof.Machine.execPmCycleEnd bay vn s
  | .pmSave => Sys2Proof.Machine.execPmSave s
  | .pmResetCmd r bay => Sys2Proof.Machine.execPmResetCmd r bay s
  | .pmSnapshotCmd r => Sys2Proof.Machine.execPmSnapshotCmd r s
  | .pmSnapshotComplete => Sys2Proof.Machine.execPmSnapshotComplete s
  | .demandBoundary bay => Sys2Proof.Machine.execDemandBoundary bay s
  | .plateComplete => Sys2Proof.Machine.execPlateComplete s
  | .rearmExpiry => Sys2Proof.Machine.execRearmExpiry s
  | .autoTrigger => Sys2Proof.Machine.execAutoTrigger s
  | .stationTriggerEdge tdc => Sys2Proof.Machine.execStationTriggerEdge tdc s
  | .xtrigRelease => Sys2Proof.Machine.execXtrigRelease s
  | .triggerCmd r trigger => Sys2Proof.Machine.execTriggerCmd r trigger s
  | .resumeCmd r => Sys2Proof.Machine.execResumeCmd r s
  | .releaseCmd r plate => Sys2Proof.Machine.execReleaseCmd r plate s
  | .exportCmd r plate => Sys2Proof.Machine.execExportCmd r plate s
  | .exportSeek r block => Sys2Proof.Machine.execExportSeek r block s
  | .exportChunkReady session => Sys2Proof.Machine.execExportChunkReady session s
  | .flashMirrorWrite cut => Sys2Proof.Machine.execFlashMirrorWrite cut s
  | .logSelect r sequence => Sys2Proof.Machine.execLogSelect r sequence s
  | .logBlockReady session => Sys2Proof.Machine.execLogBlockReady session s
  | .logClear r => Sys2Proof.Machine.execLogClear r s
  | .flashClear r => Sys2Proof.Machine.execFlashClear r s
  | .compress descriptor => Sys2Proof.Machine.execCompress descriptor s
  | .decompress descriptor => Sys2Proof.Machine.execDecompress descriptor s
  | .compressJobStop badRead => Sys2Proof.Machine.execCompressJobStop badRead s
  | .compressJobResume descriptor => Sys2Proof.Machine.execCompressJobResume descriptor s
  | .selftestCmd r => Sys2Proof.Machine.execSelftestCmd r s
  | .generate r => Sys2Proof.Machine.execGenerate r s
  | .deriveSlot r => Sys2Proof.Machine.execDeriveSlot r s
  | .importKey r => Sys2Proof.Machine.execImportKey r s
  | .destroy r => Sys2Proof.Machine.execDestroy r s
  | .sign r => Sys2Proof.Machine.execSign r s
  | .verify r => Sys2Proof.Machine.execVerify r s
  | .encrypt r => Sys2Proof.Machine.execEncrypt r s
  | .decrypt r => Sys2Proof.Machine.execDecrypt r s
  | .mac r => Sys2Proof.Machine.execMac r s
  | .derive r => Sys2Proof.Machine.execDerive r s
  | .wrap r => Sys2Proof.Machine.execWrap r s
  | .attest r => Sys2Proof.Machine.execAttest r s
  | .tamperLoopSample millivolts => Sys2Proof.Machine.execTamperLoopSample millivolts s
  | .tamperLatch source => Sys2Proof.Machine.execTamperLatch source s
  | .tamperClearCmd r => Sys2Proof.Machine.execTamperClearCmd r s
  | .pairClaim => Sys2Proof.Machine.execPairClaim s
  | .actingStart => Sys2Proof.Machine.execActingStart s
  | .peerClaimChange held => Sys2Proof.Machine.execPeerClaimChange held s
  | .deposeAssert => Sys2Proof.Machine.execDeposeAssert s
  | .deposeRestart => Sys2Proof.Machine.execDeposeRestart s
  | .pairLinkChanged hello => Sys2Proof.Machine.execPairLinkChanged hello s
  | .outputImageReceive image => Sys2Proof.Machine.execOutputImageReceive image s
  | .blockStateReceive cycle blocks => Sys2Proof.Machine.execBlockStateReceive cycle blocks s
  | .tieStateReceive k ties => Sys2Proof.Machine.execTieStateReceive k ties s
  | .pmRegisterMirror registers lastCycles => Sys2Proof.Machine.execPmRegisterMirror registers lastCycles s
  | .bandSummaryMirror k summaries => Sys2Proof.Machine.execBandSummaryMirror k summaries s
  | .gooseCountMirror pub stNum sqNum => Sys2Proof.Machine.execGooseCountMirror pub stNum sqNum s
  | .pairHoldExpiry => Sys2Proof.Machine.execPairHoldExpiry s
  | .poll frame => Sys2Proof.Machine.execPoll frame s
  | .witnessPollPeriod => Sys2Proof.Machine.execWitnessPollPeriod s
  | .status frame => Sys2Proof.Machine.execStatus frame s
  | .statusTimeout unit => Sys2Proof.Machine.execStatusTimeout unit s
  | .witnessDepose unit => Sys2Proof.Machine.execWitnessDepose unit s
  | .permitLapse => Sys2Proof.Machine.execPermitLapse s
  | .witnessLost => Sys2Proof.Machine.execWitnessLost s
  | .handoverCmd r => Sys2Proof.Machine.execHandoverCmd r s
  | .resetNRelease unitId witMode recoverLow aonLost powerOn => Sys2Proof.Machine.execResetNRelease unitId witMode recoverLow aonLost powerOn s
  | .stagePuf attempts => Sys2Proof.Machine.execStagePuf attempts s
  | .stageRom => Sys2Proof.Machine.execStageRom s
  | .stageStage2 => Sys2Proof.Machine.execStageStage2 s
  | .stageMain => Sys2Proof.Machine.execStageMain s
  | .stageMicrocode => Sys2Proof.Machine.execStageMicrocode s
  | .stageCalibration failed => Sys2Proof.Machine.execStageCalibration failed s
  | .acquisitionEnd => Sys2Proof.Machine.execAcquisitionEnd s
  | .acquisitionTimeout => Sys2Proof.Machine.execAcquisitionTimeout s
  | .watchdogExpiry => Sys2Proof.Machine.execWatchdogExpiry s
  | .configSave => Sys2Proof.Machine.execConfigSave s
  | .trialEnd image => Sys2Proof.Machine.execTrialEnd image s
  | .prepare r => Sys2Proof.Machine.execPrepare r s
  | .download r image first bytes => Sys2Proof.Machine.execDownload r image first bytes s
  | .fwVerify r => Sys2Proof.Machine.execFwVerify r s
  | .activate r => Sys2Proof.Machine.execActivate r s
  | .abandon r => Sys2Proof.Machine.execAbandon r s
  | .enterRecovery r => Sys2Proof.Machine.execEnterRecovery r s
  | .eventAck r source => Sys2Proof.Machine.execEventAck r source s
  | .irqRearm pin => Sys2Proof.Machine.execIrqRearm pin s
  | .counterSnapshotCmd r => Sys2Proof.Machine.execCounterSnapshotCmd r s
  | .snapPeriodExpiry => Sys2Proof.Machine.execSnapPeriodExpiry s
  | .monitorSample temperatures rails => Sys2Proof.Machine.execMonitorSample temperatures rails s
  | .resetNAssert => Sys2Proof.Machine.execResetNAssert s
  | .wakeComplete laneOk found => Sys2Proof.Machine.execWakeComplete laneOk found s
  | .boShortRetryHold out => Sys2Proof.Machine.execBoShortRetryHold out s
  | .deposeRelease => Sys2Proof.Machine.execDeposeRelease s

end Sys2Proof.Machine
end

