-- ==== Sys2Proof/Machine/Tick.lean ====
section
/-! DEFINITION. One tick of EPH (R86), which passes when no command waits (DESIGN CHOICE, log entry 1). Everything that the table gives
a row of its own waits for that row; what has none happens here. -/

namespace Sys2Proof.Machine

namespace State

/-- What a lane counts at a whole microsecond: its occupied task slots, and the time saturated (R252, R524). -/
def laneMicrosecond (s : State) (n : Nat) : State :=
  let t := s.perf (n + 1) 0x05 (s.lane n).tasks.length
  if (s.lane n).saturated then t.perf (n + 1) 0x0D 1 else t

/-- What the lanes count at a tick: EPH ticks, the time a queue has been full, and each microsecond. -/
def laneTick (s : State) : State :=
  let t := (List.range 4).foldl (fun (u : State) n => u.perf (n + 1) 0x30 1) (s.modIng (fun i => { i with
    queues := i.queues.map (fun (q : LaneQueue) => if q.full then { q with fullTicks := q.fullTicks + 1 } else q) }))
  if t.raw % 400 = 0 then (List.range 4).foldl laneMicrosecond t else t

/-- A tick that has carried ET from `before` on has passed a transit boundary, or no transits run (R199). -/
def passedBoundary (s : State) (before : Et) : Bool := !s.transitsRun || decide (s.tkOf (s.firstAt (before + 1)) ≤ s.et)

/-- What waits in the hub for a tick: layouts of configuration frames for a transit boundary (R199), and transits for the building of their
frames (R318). -/
def hubTick (s : State) (before : Et) : State :=
  let t := if s.ing.autofills.isEmpty ∨ !s.passedBoundary before then s else s.autofillNow
  if 2 ≤ t.power ∨ t.egr.outs.all (fun (o : EgressOut) => o.build.isEmpty) then t else t.egressRelease

/-- What the hub counts at a tick: ticks, and the reads and writes of DRAM (R524). -/
def hubCounts (s : State) : State :=
  ((s.perf 0 0x30 1).perf 0 0x25 (Config.dramReads s.raw)).perf 0 0x26 (Config.dramWrites s.raw)

/-- The raw counter advances by one (R86); a unit in reset does not count. The hub and the lanes count, and the PTP engine
and the hub do what they do by themselves. -/
def tick (s : State) : State :=
  if s.boot.inReset then s
  else
    let t := s.modEph (fun e => { e with raw := e.raw + 1 })
    let u := if t.power = 2 then t else t.hubCounts
    let v := if u.lanesOn then u.laneTick else u
    ((List.range 6).foldl ptpTick v).hubTick s.et

end State

/-- An EPH tick on an empty queue. -/
def execTick (s : State) : Host.Outcome State Fault Refusal := complete s State.tick

end Sys2Proof.Machine
end

