-- ==== Sys2Proof/Safety.lean ====
section
/-! DEFINITION. The terms in which claims about the machine are made: the state between commands (outputs that agree with the registers
they follow, no raise left over), what a command leaves alone, which events it raises, and a session's response. -/

namespace Sys2Proof.Machine

/-! ## Between commands -/

/-- Every output agrees with the state it follows: PIN_STATE of ALM0–ALM3 (R305), STATE of BO0–BO15 (R366), the levels of TO0–TO7
(R112, R115), of HSPI_INT_N (R84) and of IRQ0_N–IRQ3_N (R520). -/
def State.pinsAgree (s : State) : Prop :=
  (∀ n, n < 4 → s.num (0x6201 + n) 0x05 = s.almLevel n) ∧
  (∀ n, n < 16 → s.num (0x7100 + n) 0x06 = s.boState n) ∧
  (∀ n, n < 8 → ∀ o, s.eph.outs[n]? = some o → o.level = s.toLevel n) ∧
  (s.alm.hspiIntLow = (!s.alm.hspiTx.isEmpty && s.alm.hspiGap.isNone)) ∧
  (∀ n, n < 4 → s.ev.irqLow[n]? = some (s.irqDue n && (nth s.ev.irqGap n none).isNone))

/-- The state between two commands: the outputs agree, and no raise of an event is left to hand on (R518). -/
structure State.settled (s : State) : Prop where
  pins : s.pinsAgree
  raises : s.ev.raised = []

/-! ## What a command leaves alone -/

/-- Registers that the end of any command may change: NEXT_SEQUENCE, DROPPED, OVERWRITTEN, BOOT_OVERFLOW and MIRROR_DROPS of the
Logbook, RAISES, PENDING, COUNTS and EVENT_NOTIFY of the event controller, PIN_STATE and its count and time of the ALM pins, and STATE
and its count and time of the binary outputs. -/
def endRegister (index sub : Nat) : Bool :=
  (index == 0xA000 && (sub == 3 || sub == 5 || sub == 6 || sub == 8 || sub == 0xB)) ||
  (index == 0xA800 && (sub == 1 || sub == 2)) || (index == 0xA801 && sub == 2) || (index == 0xA802 && sub == 1) ||
  (decide (0x6201 ≤ index) && decide (index ≤ 0x6204) && (sub == 5 || sub == 6 || sub == 7)) ||
  (decide (0x7100 ≤ index) && decide (index ≤ 0x710F) && (sub == 6 || sub == 0xA || sub == 0xB))

/-- The parts of the state beside the registers and the queue. -/
inductive Part where
  | cfg | staged | wire | dram | alm | ev | eph | ptp | flash | keys | boot | loc | ing | tr | spec | hor | lom | alr | egr | orr
  | bos | bis | par | wit | pm | rec_ | eng | fab
  deriving DecidableEq, Repr

/-- The Almanac server without what the end of a command may change in it: the notification numbers of sessions, what subscriptions
have sent, the PDUs that wait to be sent, and HSPI_INT_N. -/
def Alm.core (a : Alm) : Alm :=
  { a with
    sessions := a.sessions.map (fun x => { x with notifySeq := 0, loss := false })
    subs := a.subs.map (fun x => { x with lastSent := none, waiting := false })
    hspiTx := []
    udpTx := []
    hspiIntLow := false }

/-- The event controller without what the end of a command may change in it: raises, the Logbook's records and the pins. -/
def Events.core (e : Events) : Events :=
  { e with
    raised := [], bootBuffer := [], intake := 0, ring := [], flashQueue := [], dropped := false, lastDropped := none, notifies := 0, notifyOnly := 0
    irqLow := [] }

/-- The Ephemeris without the levels of the timed outputs. -/
def Eph.core (e : Eph) : Eph := { e with outs := e.outs.map (fun o => { o with level := 0 }) }

/-- Ingest without the memory of the changes of UTC_OFFSET. -/
def Ingest.core (i : Ingest) : Ingest := { i with prevUtc := 0, utcTick := none, utcSteps := [] }

/-- The Plate recorder without its digital states. -/
def Recorder.core (r : Recorder) : Recorder := { r with digital := [] }

/-- Between two servers, only notifications have joined the PDUs that wait to be sent over each transport, behind those that did. -/
structure OnlyNotified (a b : Alm) : Prop where
  hspi : ∃ l, b.hspiTx = a.hspiTx ++ l ∧ l.all (fun x => x.1.opcode == 0x09) = true
  udp : ∃ l, b.udpTx = a.udpTx ++ l ∧ l.all (fun x => x.2.1.opcode == 0x09) = true

/-- A part is the same in two states, but for what the end of any command may change in it. -/
def Part.same (p : Part) (s t : State) : Prop :=
  match p with
  | .cfg => t.cfg = s.cfg
  | .staged => t.staged = s.staged
  | .wire => t.wire = s.wire
  | .dram => t.dram = s.dram
  | .alm => t.alm.core = s.alm.core ∧ OnlyNotified s.alm t.alm
  | .ev => t.ev.core = s.ev.core
  | .eph => t.eph.core = s.eph.core
  | .ptp => t.ptp = s.ptp
  | .flash => t.flash = s.flash
  | .keys => t.keys = s.keys
  | .boot => t.boot = s.boot
  | .loc => t.loc = s.loc
  | .ing => t.ing.core = s.ing.core
  | .tr => t.tr = s.tr
  | .spec => t.spec = s.spec
  | .hor => t.hor = s.hor
  | .lom => t.lom = s.lom
  | .alr => t.alr = s.alr
  | .egr => t.egr = s.egr
  | .orr => t.orr = s.orr
  | .bos => t.bos = s.bos
  | .bis => t.bis = s.bis
  | .par => t.par = s.par
  | .wit => t.wit = s.wit
  | .pm => t.pm = s.pm
  | .rec_ => t.rec_.core = s.rec_.core
  | .eng => t.eng = s.eng
  | .fab => t.fab = s.fab

/-- Between two states only the listed parts and the listed registers (index, subindex) have changed, beside what the end of any
command may change; the queue is the same. -/
structure Frame (parts : List Part) (regs : List (Nat × Nat)) (s t : State) : Prop where
  parts : ∀ p : Part, p ∉ parts → p.same s t
  regs : ∀ index sub elem : Nat, sub < 256 → elem < 65536 → (index, sub) ∉ regs → endRegister index sub = false →
    t.value index sub elem = s.value index sub elem
  pending : t.pending = s.pending

/-! ## Events -/

/-- COUNTS of a source after n more raises: it saturates (R518). -/
def countAfter (count n : Nat) : Nat := if n = 0 then count else min 4294967295 (count + n)

/-- Exactly these sources have been raised between two states, each as often as it is listed; LOG_DROPPED, which the Logbook itself
may raise on the way (R421), is left open. -/
def Raised (sources : List Nat) (s t : State) : Prop :=
  ∀ n, n < 128 → n ≠ 93 → beNat (t.elem 0xA801 0x02 n) = countAfter (beNat (s.elem 0xA801 0x02 n)) (sources.count n)

/-- A source has been raised exactly once between two states, whatever else has been. -/
def CountedOnce (source : Nat) (s t : State) : Prop :=
  beNat (t.elem 0xA801 0x02 source) = countAfter (beNat (s.elem 0xA801 0x02 source)) 1

/-! ## Requests -/

/-- The session and SEQUENCE of a command that is a request of a session (R62, R64); none for the commands of time, pins, links and
frames. -/
def requestOf (c : Instr) : Option Req :=
  match c with
  | .registerWrite r _ _ _ | .read r _ _ _ | .write r _ _ _ _ | .stage r _ _ _ _ | .commit r | .discard r | .blockRead r _ _ _ _ _
  | .blockWrite r _ _ _ _ _ _ | .subscribe r _ _ _ _ _ | .command r _ _ _ _ | .close r | .opcodeUnknown r _ | .resultAck r _
  | .restartCmd r | .stageDefaultsCmd r | .reloadCmd r _ | .quietCmd r | .incrementWrite r _ | .stepNow r | .stepNextSecond r
  | .offsetReport r _ | .refPresentWrite r _ | .txtsClear r _ | .armAtWrite r _ _ | .syncResetCmd r | .supClear r _
  | .counterClear r _ _ _ | .lateClear r _ | .spectroResetCmd r _ | .alarmAck r _ | .almForce r _ _ | .reenableCmd r
  | .countSet r _ _ | .pmResetCmd r _ | .pmSnapshotCmd r | .triggerCmd r _ | .resumeCmd r | .releaseCmd r _ | .exportCmd r _
  | .exportSeek r _ | .logSelect r _ | .logClear r | .flashClear r | .selftestCmd r | .generate r | .deriveSlot r | .importKey r
  | .destroy r | .sign r | .verify r | .encrypt r | .decrypt r | .mac r | .derive r | .wrap r | .attest r | .tamperClearCmd r
  | .handoverCmd r | .prepare r | .download r _ _ _ | .fwVerify r | .activate r | .abandon r | .enterRecovery r | .eventAck r _
  | .counterSnapshotCmd r => some r
  | _ => none

/-- A session's request reaches the server and is neither discarded nor turned away for want of room (R61, R66). The last SEQUENCE of a
session, which also closes it, is not among these. -/
structure Heard (s : State) (r : Req) (x : Session) : Prop where
  server : s.serverOn = true
  session : s.session r.session = some x
  transport : s.transportOn x.transport = true
  fresh : x.accepts r.seq = true
  last : r.seq ≠ 0xFFFFFFFF
  room : s.outstanding x.id < 8

/-- A session's request is heard outside recovery mode and RESTRICTED: what a host's row needs to be performed. -/
structure Ready (s : State) (r : Req) (x : Session) : Prop extends Heard s r x where
  normal : s.stage ≠ 15
  free : s.restricted = false

/-- A server whose PDUs for a transport end with one more. -/
def Alm.withPdu (a : Alm) (w : Transport) (key : Option (List Byte)) (p : Pdu) : Alm :=
  match w with
  | .hostSpi => { a with hspiTx := a.hspiTx ++ [(p, key)] }
  | .udp peer => { a with udpTx := a.udpTx ++ [(peer, p, key)] }

/-- A PDU has been sent on a transport: it waits behind what waited there, for READ_PDU over host SPI (R83), or for the management core to
post its datagram over UDP (R207); only notifications follow it, on either. -/
def Sent (s t : State) (w : Transport) (key : Option (List Byte)) (p : Pdu) : Prop := OnlyNotified (s.alm.withPdu w key p) t.alm

/-- A response of a session has been sent on its transport, sealed with its key. -/
def Responded (s t : State) (x : Session) (p : Pdu) : Prop := Sent s t x.transport (some x.keyOut) p

/-- The Almanac server after a session's request has been accepted: its SEQUENCE is taken (R66). -/
def taken (s : State) (x : Session) (seq : Nat) : Alm :=
  { s.alm with sessions := s.alm.sessions.map (fun y => if y.id = x.id then y.take seq s.raw else y) }

/-- The state in which a session's request is performed: its SEQUENCE is taken. -/
def State.accepted (s : State) (x : Session) (seq : Nat) : State := s.modSession x.id (fun y => y.take seq s.raw)

/-- The outcome of a request that is performed: what it has left, its response, and the end of the command. -/
def served (s : State) (x : Session) (seq opcode : Nat) (payload : List Byte) (u : State) : Host.Outcome State Fault Refusal :=
  .next (s.settle (u.sendPdu x.transport (some x.keyOut) ⟨opcode, 1, x.id, seq, payload⟩))

/-- A WRITE of a value to an object, in a session, that none of the aborts ACCESS, ROLE, BUSY, LOCKED, UNACKED, STATE and RANGE stops
(R53–R55, R59, R68, R73, R78, R79). -/
structure Admitted (s : State) (x : Session) (index sub : Nat) (f : Field) (v : Value) : Prop where
  object : objAt index sub = some f
  form : State.wrongForm f false = false
  access : f.acc = .rw ∨ f.acc = .wo
  role : State.writeRole index sub ≤ x.role
  checks : ∀ y ∈ s.commandChecks x.id index sub, y.1 = false
  usable : s.writeBarred index sub = false
  range : s.valueInRange index sub f v = true

/-- What a host's row needs that writes a number to a command object: the role, room for the answer, and its result RECORD IDLE. -/
structure Commands (s : State) (r : Req) (x : Session) (index sub result : Nat) : Prop extends Ready s r x where
  role : State.writeRole index sub ≤ x.role
  payload : 16 ≤ x.maxPayload
  idle : s.num result 2 = 0

/-- What a host's row needs that writes a number to an object that is no command. -/
structure Writes (s : State) (r : Req) (x : Session) (index sub : Nat) : Prop extends Ready s r x where
  role : State.writeRole index sub ≤ x.role
  payload : 16 ≤ x.maxPayload

/-- What a request has left in the Almanac server: its response is sent, its SEQUENCE is taken, and beside that the server has changed
by `f` alone. -/
structure Answered (s t : State) (x : Session) (r : Req) (opcode : Nat) (payload : List Byte) (f : Alm → Alm) : Prop where
  response : Responded s t x ⟨opcode, 1, x.id, r.seq, payload⟩
  server : t.alm.core = (f (taken s x r.seq)).core

/-! ## Ingest queues -/

/-- A lane's queue has taken the words of an entry as far as it accepts them, and the rest of them are under way (R208, R209, R212). -/
structure TakesEntry (s t : State) (n : Nat) (e : IngestEntry) : Prop where
  head : (t.queue n).head = (LaneQueue.pushAll s.spillWords (s.queue n) e.qwords).1.head
  spill : (t.queue n).spill = (LaneQueue.pushAll s.spillWords (s.queue n) e.qwords).1.spill
  tail : (t.queue n).tail = (LaneQueue.pushAll s.spillWords (s.queue n) e.qwords).1.tail
  part : (t.queue n).part = (LaneQueue.pushAll s.spillWords (s.queue n) e.qwords).2

/-- Two queues hold the same words in the same places. -/
structure SameWords (q r : LaneQueue) : Prop where
  head : q.head = r.head
  spill : q.spill = r.spill
  tail : q.tail = r.tail
  part : q.part = r.part

/-- A lane's tasks, with no work that waits for a slot and no update due (R250, R252). -/
structure OnlyTasks (s : State) (n : Nat) (tasks : List Task) : Prop where
  tasks : (s.lane n).tasks = tasks
  work : (s.lane n).work = []
  updates : nth s.tr.toSpectro n [] = []
  blocks : nth s.spec.blocks n [] = []

/-! ## What a command does -/

/-- A command answers a next state in which only the listed parts and registers have changed (beside what the end of any command may
change), in which exactly the listed events have been raised, and which is as `after` says. -/
def Does (c : Instr) (s : State) (parts : List Part) (regs : List (Nat × Nat)) (events : List Nat) (after : State → Prop) : Prop :=
  ∃ t, Sys2Proof.Machine.exec c s = .next t ∧ Frame parts regs s t ∧ Raised events s t ∧ after t

/-- A command answers a next state in which only the listed parts and registers have changed (beside what the end of any command may
change), and which is as `after` says; which events it raises is left open. -/
def Leaves (c : Instr) (s : State) (parts : List Part) (regs : List (Nat × Nat)) (after : State → Prop) : Prop :=
  ∃ t, Sys2Proof.Machine.exec c s = .next t ∧ Frame parts regs s t ∧ after t

/-- A command answers a next state that is as `after` says. -/
def Reaches (c : Instr) (s : State) (after : State → Prop) : Prop := ∃ t, Sys2Proof.Machine.exec c s = .next t ∧ after t

/-- The registers of a result RECORD that a command writes when it is taken and completes in one step (R77, R78). -/
def outcomeRegisters (result : Nat) : List (Nat × Nat) := [(result, 1), (result, 2), (result, 3), (result, 4), (result, 6)]

/-- The registers of a result RECORD that a command writes when it is taken and goes on: STATE, and the sequence it has taken. -/
def busyRegisters (result : Nat) : List (Nat × Nat) := [(result, 2), (result, 6)]

/-- VALUE and OVERFLOWS of the 16 performance counters of a die (R524, R525). -/
def counterRegisters (die : Nat) : List (Nat × Nat) :=
  (List.range 16).flatMap (fun c => [(0xE000 + (16 * die + c), 2), (0xE000 + (16 * die + c), 3)])

/-- What a lane's tasks may write: its performance counters, SLOTS_PEAK, TASKS_DONE, SATURATIONS and PENDING_PEAK (R255, R524). -/
def taskRegisters (lane : Nat) : List (Nat × Nat) :=
  counterRegisters (1 + lane) ++ [(0x5200 + lane, 0x0B), (0x5200 + lane, 0x0C), (0x5200 + lane, 0x0D), (0x5200 + lane, 0x0F)]

/-- The registers that the resets of a lane's resonators may write: their count, and the result of a RESET_CMD that waited for them
(R276). -/
def spectroRegisters : List (Nat × Nat) := (0x6000, 5) :: outcomeRegisters 0x6005

/-- Between two states a command has been taken and is in progress (R77). -/
structure Busy (result : Nat) (s t : State) : Prop where
  state : t.num result 2 = 1
  sequence : t.num result 6 = s.nextSeq result

/-- A result RECORD holds the outcome of the command with a sequence (R77, R78). -/
structure Outcome (result seq code : Nat) (data : List Byte) (t : State) : Prop where
  sequence : t.num result 1 = seq
  state : t.num result 2 = if code = 0 then 2 else 3
  code : t.num result 3 = code
  data : t.bytes result 4 = data.take 32

/-- A host's request that is performed: the session is answered with the opcode and payload, and the rest is as in `Does`. -/
def Serves (c : Instr) (s : State) (r : Req) (x : Session) (opcode : Nat) (payload : List Byte) (f : Alm → Alm) (parts : List Part)
    (regs : List (Nat × Nat)) (events : List Nat) (after : State → Prop) : Prop :=
  Does c s (.alm :: parts) regs events (fun t => Answered s t x r opcode payload f ∧ after t)

/-- A session's request that is turned away: it is answered with an abort (FLAGS 3, R62, R68) that names an index, a subindex and an
element, its SEQUENCE is taken, and nothing else has changed. -/
def Aborts (c : Instr) (s : State) (r : Req) (x : Session) (opcode code index sub elem : Nat) : Prop :=
  Does c s [.alm] [] [] (fun t =>
    Responded s t x ⟨opcode, 3, x.id, r.seq, beBytes 2 code ++ beBytes 2 index ++ [byte sub, 0] ++ beBytes 2 elem⟩ ∧
    t.alm.core = (taken s x r.seq).core)

end Sys2Proof.Machine
end

