-- ==== Sys2Proof/Certificates/Slice0/Obligations.lean ====
section
/-! DEFINITION. The statements about the TN8448 for the provers: what each command does, by the rules of the manual, and what holds of
every state between commands. `Does`, `Leaves`, `Reaches`, `Serves` and `Aborts` (Sys2Proof/Safety.lean) all say that exec answers a
next state; the first two also say which parts of the state and which registers alone have changed. -/

open Sys2Proof Sys2Proof.Machine

/-! ## The machine as a whole -/

/-- A step executes the command at the front of the queue on the state with the queue's rest (the model's form of a block). -/
def Obligations.StepExecutesFrontCommand : Prop :=
  ∀ (c : Instr) (rest : List Instr) (s : State), s.pending = c :: rest → step s = exec c { s with pending := rest }

/-- Every command of the table completes, in every state and with every operand: it answers a next state, settled (R518), with the commands
that wait as they were. Of COMPRESS, DECOMPRESS and the continuation of a job the descriptor's 64 bytes lie within the 4 GiB of DRAM (R38);
one that does not faults (log entry 51). So the queue is consumed in order: a step leaves exactly the queue's rest, and on an empty queue an
empty one. -/
def Obligations.StepConsumesQueueInOrder : Prop :=
  (∀ (c : Instr) (s : State),
    (∀ a, c = .compress a ∨ c = .decompress a ∨ c = .compressJobResume a → a + 64 ≤ 4294967296) →
    ∃ t, Sys2Proof.Machine.exec c s = .next t ∧ t.settled ∧ t.pending = s.pending) ∧
  (∀ s t : State, step s = .next t → t.pending = s.pending.tail)

/-- Whatever the command, every next state has its outputs in agreement with the registers they follow (R84, R112, R305, R366, R520), and
no raised event is left unhandled (R518). -/
def Obligations.EveryStepLeavesOutputsSettled : Prop :=
  ∀ s t : State, step s = .next t → t.settled

/-- What reset leaves (R91, R112, R366, R494, R496, R497): stage RESET with RESET_N low, the raw counter and ET at 0 on the nominal
increment of 2.5 ns, every ST object at its default (R57), ALM, BO and TO pins at high impedance, no session, no stream accepted, nothing
in DRAM and no command waiting; and the state is settled. -/
def Obligations.ResetLeavesDefaultsAndFloatingPins : Prop :=
  State.reset.pending = [] ∧ State.reset.stage = 0 ∧ State.reset.boot.inReset = true ∧ State.reset.raw = 0 ∧ State.reset.et = 0 ∧
  State.reset.eph.increment * 2 = 5 * 2 ^ 32 ∧ (∀ index sub elem, State.reset.cValue index sub elem = keyDefault (okey index sub elem)) ∧
  (∀ n, n < 4 → State.reset.num (0x6201 + n) 0x05 = 2) ∧ (∀ n, n < 16 → State.reset.num (0x7100 + n) 0x06 = 3) ∧
  (∀ n, n < 8 → State.reset.toLevel n = 2) ∧ State.reset.alm.sessions = [] ∧ State.reset.dram = [] ∧ Memory.wf State.reset.dram = true ∧
  State.reset.settled

/-- With no command waiting a step is one tick of EPH (the model's choice, log entry 1): out of reset the raw counter advances by one
(R86), and ET by the increment of the present segment (R88). -/
def Obligations.IdleStepIsOneTick : Prop :=
  ∀ s : State, s.pending = [] → s.boot.inReset = false → s.settled → s.eph.baseRaw ≤ s.raw →
    ∃ t, step s = .next t ∧ t.raw = s.raw + 1 ∧ t.et = s.et + s.eph.increment ∧ t.pending = []

/-! ## Links, lanes, power and DRAM -/

/-- Which credit a message takes on a link that holds `held` (R18): a pool credit (`some false`) while the pool of 60 has one and, for
BULK, while BULK holds fewer than 48 of them; an escape credit (`some true`) only for RELEASE and ALARM, only when the pool is empty and
that class's own escape credit is free. -/
def Obligations.ZonovCreditsByClass : Prop :=
  ∀ (held : List (MsgClass × Bool)) (cls : MsgClass),
    (creditFor held cls = some false ↔
      held.countP (fun h => !h.2) < 60 ∧ (cls = .bulk → held.countP (fun h => !h.2 && h.1 == .bulk) < 48)) ∧
    (creditFor held cls = some true ↔
      60 ≤ held.countP (fun h => !h.2) ∧ (cls = .release ∨ cls = .alarm) ∧ (cls, true) ∉ held)

/-- A message that has a credit on a link that is UP or BYPASSED, and that needs at most 16 replays, is delivered (R18–R20, R52): it holds
its credit behind those not yet drained, and MSG_COUNT, REPLAYS, ESCAPE_USED and LAT_MAX follow; beside them only the links and performance
counters have changed. -/
def Obligations.ZonovMessageTakesCreditAndIsDelivered : Prop :=
  ∀ (n : Fin 12) (cls : MsgClass) (drained latency failedChecks : Nat) (escape : Bool) (s : State),
    s.settled → s.lanesOn = true → s.linkState n.val ≠ 1 → s.linkState n.val ≠ 2 → failedChecks ≤ 16 → n.val < s.fab.links.length →
    creditFor ((nth s.fab.links n.val ⟨[], false⟩).held.drop drained) cls = some escape →
    Leaves (.zonovMessageReceive n cls drained latency failedChecks) s [.fab]
      ([(0xF110 + n.val, 2), (0xF110 + n.val, 3), (0xF110 + n.val, 4), (0xF110 + n.val, 5)] ++ (List.range 5).flatMap counterRegisters)
      (fun t =>
        (nth t.fab.links n.val ⟨[], false⟩).held = (nth s.fab.links n.val ⟨[], false⟩).held.drop drained ++ [(cls, escape)] ∧
        t.num (0xF110 + n.val) 2 = State.countUp 64 (s.num (0xF110 + n.val) 2) 1 ∧
        t.num (0xF110 + n.val) 3 = State.countUp 32 (s.num (0xF110 + n.val) 3) failedChecks ∧
        t.num (0xF110 + n.val) 4 = (if escape then State.countUp 32 (s.num (0xF110 + n.val) 4) 1 else s.num (0xF110 + n.val) 4) ∧
        t.num (0xF110 + n.val) 5 = max (s.num (0xF110 + n.val) 5) (min latency 65535))

/-- A lane that is fenced (R48, R49): what it and its queue hold is lost and its frames are counted, no partial of it stays at the hub, and
its streams are FENCED. LANE_STATE is what R51 decides about its reload, with the events it raises: FENCED without AUTO_RELOAD,
RELOADING while fewer than RELOAD_LIMIT automatic reloads began in the last 3,600 s, else FAILED with LANE_RELOAD_FAILED. -/
def Obligations.SpillLeaseExpiryFencesLane : Prop :=
  ∀ (n : Fin 4) (s : State), s.settled → s.laneLive n.val = true → s.lanesOn = true → (s.lanePower n.val).leaseTick + 4000000 ≤ s.raw →
    ∀ recent : Nat, recent = ((s.lanePower n.val).reloads.filter (fun t => s.raw < t + 3600 * tickSec)).length →
    ∀ (next : Nat) (events : List Nat),
      (next, events) = (if s.cB 0xF134 1 = false then (1, []) else if recent < s.c 0xF134 2 then (2, []) else (3, [118])) →
      Does (.spillLeaseExpiry n) s [.fab, .ing, .tr, .spec]
        ([(0xF130 + n.val, 1), (0xF130 + n.val, 3), (0xF130 + n.val, 4)] ++ spectroRegisters ++
          (s.laneStreams n.val).map (fun i => (0x4000 + i, 0x1A)))
        ((32 + 4 * n.val + 2) :: events)
        (fun t => t.laneState n.val = next ∧ t.num (0xF130 + n.val) 3 = State.countUp 32 (s.num (0xF130 + n.val) 3) 1 ∧
          t.num (0xF130 + n.val) 4 = State.countUp 64 (s.num (0xF130 + n.val) 4) (s.queue n.val).frames ∧
          (t.queue n.val).depth = 0 ∧ (t.queue n.val).frames = 0 ∧ (t.queue n.val).waiting = [] ∧ (t.lane n.val).slots = [] ∧
          (∀ i ∈ t.tr.insts, ∀ p ∈ i.partials, p.1 ≠ n.val) ∧ ∀ i ∈ s.laneStreams n.val, t.streamState i = 6)

/-- A link that goes DOWN (R19, R20, R49, R52): ZONOV_LINK_DOWN is raised and counted once, and its 16 failed replays are counted; a ring hop
changes nothing else, and a hub–lane link of a running lane fences the lane. -/
def Obligations.LinkDownFencesLaneOrBypassesHop : Prop :=
  ∀ (n : Fin 12) (s : State), s.settled → s.linkDown n.val = false → s.lanesOn = true → n.val < s.fab.links.length →
    (8 ≤ n.val → Leaves (.zonovLinkDown n) s [.fab] ((0xF110 + n.val, 3) :: (List.range 5).flatMap counterRegisters) (fun t =>
      t.linkDown n.val = true ∧ t.num (0xF110 + n.val) 3 = State.countUp 32 (s.num (0xF110 + n.val) 3) 16 ∧
      CountedOnce (32 + 4 * (n.val % 4)) s t)) ∧
    (n.val < 8 → s.laneLive (n.val % 4) = true → s.cB 0xF134 1 = false →
      Leaves (.zonovLinkDown n) s [.fab, .ing, .tr, .spec]
        ([(0xF110 + n.val, 3), (0xF130 + n.val % 4, 1), (0xF130 + n.val % 4, 3), (0xF130 + n.val % 4, 4)] ++ spectroRegisters ++
          (List.range 5).flatMap counterRegisters ++ (s.laneStreams (n.val % 4)).map (fun i => (0x4000 + i, 0x1A)))
        (fun t => t.linkDown n.val = true ∧ t.num (0xF110 + n.val) 3 = State.countUp 32 (s.num (0xF110 + n.val) 3) 16 ∧
          CountedOnce (32 + 4 * (n.val % 4)) s t ∧ CountedOnce (32 + 4 * (n.val % 4) + 2) s t ∧
          t.laneState (n.val % 4) = 1 ∧ (t.queue (n.val % 4)).frames = 0 ∧ ∀ i ∈ s.laneStreams (n.val % 4), t.streamState i = 6))

/-- Leases and reloads (R48, R51, R561): a pace report before the lease's 4,000,000th tick renews it and one at or after it does not;
a reload that completes puts the lane in RUNNING with trained links and its FENCED streams in WAITING, one that fails puts it in FAILED with
LANE_RELOAD_FAILED; RELOAD_CMD starts the reload of a FENCED or FAILED lane and ends with STATE for any other. -/
def Obligations.LeaseRenewalAndLaneReload : Prop :=
  (∀ (n : Fin 4) (s : State), s.settled → s.laneLive n.val = true → s.lanesOn = true →
    (s.raw < (s.lanePower n.val).leaseTick + 4000000 →
      Does (.lanePaceReport n) s [.fab] [(0xF130 + n.val, 2)] [] (fun t =>
        t.fab.lanes = s.fab.lanes.modify n.val (fun p => { p with leaseTick := s.raw }) ∧ t.num (0xF130 + n.val) 2 = s.et)) ∧
    ((s.lanePower n.val).leaseTick + 4000000 ≤ s.raw → Does (.lanePaceReport n) s [] [] [] (fun _ => True))) ∧
  (∀ (n : Fin 4) (s : State), s.settled → s.laneState n.val = 2 → s.power = 0 →
    Reaches (.laneReloadComplete n true) s (fun t => t.laneState n.val = 0 ∧ t.linkDown n.val = false ∧ t.linkDown (4 + n.val) = false ∧
      (∀ i ∈ s.laneStreams n.val, s.streamState i = 6 → t.streamState i = 1) ∧
      ((s.lanePower n.val).commanded = true → s.num 0xF135 2 = 1 → Outcome 0xF135 (s.num 0xF135 6) 0 [] t)) ∧
    Does (.laneReloadComplete n false) s [.fab] ((0xF130 + n.val, 1) :: outcomeRegisters 0xF135) [118] (fun t =>
      t.laneState n.val = 3 ∧
      ((s.lanePower n.val).commanded = true → s.num 0xF135 2 = 1 → Outcome 0xF135 (s.num 0xF135 6) 0x0050 [] t))) ∧
  (∀ (r : Req) (x : Session) (lane : Nat) (s : State), s.settled → Commands s r x 0xF134 3 0xF135 → lane < 4 →
    (s.laneState lane = 1 ∨ s.laneState lane = 3 →
      Serves (.reloadCmd r lane) s r x 0x0A (beBytes 4 (s.nextSeq 0xF135)) id [.fab] ((0xF130 + lane, 1) :: busyRegisters 0xF135) []
        (fun t => Busy 0xF135 s t ∧ t.laneState lane = 2)) ∧
    (s.laneState lane = 0 ∨ s.laneState lane = 2 →
      Serves (.reloadCmd r lane) s r x 0x0A (beBytes 4 (s.nextSeq 0xF135)) id [] (outcomeRegisters 0xF135) []
        (Outcome 0xF135 (s.nextSeq 0xF135) 0x0003 [])))

/-- QUIET (R35–R37): QUIET_CMD starts the entry from ACTIVE in RUNNING, unless the unit is a pair unit that holds its claim (ACTING); the
entry ends the command with its ET, closes every session and zeroises the root and the loaded keys; WAKE_AT wakes the unit with
cause 3 and every lane reloading; at the end of the wake the unit is ACTIVE, and each lane RUNNING or FAILED by its reload. -/
def Obligations.QuietEntryAndWake : Prop :=
  (∀ (r : Req) (x : Session) (s : State), s.settled → Commands s r x 0xF140 2 0xF141 →
    (s.power = 0 → s.inRunning = true → (s.isPair && s.par.claim) = false →
      Serves (.quietCmd r) s r x 0x0A (beBytes 4 (s.nextSeq 0xF141)) id [] ((0xF140, 1) :: busyRegisters 0xF141) []
        (fun t => Busy 0xF141 s t ∧ t.power = 1)) ∧
    (s.power ≠ 0 ∨ s.inRunning = false →
      Serves (.quietCmd r) s r x 0x0A (beBytes 4 (s.nextSeq 0xF141)) id [] (outcomeRegisters 0xF141) []
        (Outcome 0xF141 (s.nextSeq 0xF141) 0x0003 [])) ∧
    (s.power = 0 → s.inRunning = true → (s.isPair && s.par.claim) = true →
      Serves (.quietCmd r) s r x 0x0A (beBytes 4 (s.nextSeq 0xF141)) id [] (outcomeRegisters 0xF141) []
        (Outcome 0xF141 (s.nextSeq 0xF141) 0x0040 []))) ∧
  (∀ s : State, s.settled → s.power = 1 → s.num 0xF140 3 = 0 →
    Reaches .quietEntryComplete s (fun t => t.power = 2 ∧ Outcome 0xF141 (s.num 0xF141 6) 0 (etBytes s.et) t ∧ t.alm.sessions = [] ∧
      t.keys.root = none ∧ t.keys.loaded = [] ∧ t.transitsRun = false)) ∧
  (∀ s : State, s.settled → s.power = 2 → s.num 0xF140 3 ≠ 0 → s.num 0xF140 3 ≤ s.et →
    Does .wakeAtExpiry s [] [(0xF140, 1), (0xF140, 4), (0xF130, 1), (0xF131, 1), (0xF132, 1), (0xF133, 1)] []
      (fun t => t.power = 3 ∧ t.num 0xF140 4 = 3 ∧ ∀ n, n < 4 → t.laneState n = 2)) ∧
  (∀ (laneOk : List Bool) (attempts : List PufRead) (failed : List (Fin 48)) (s : State), s.settled → s.power = 3 →
    Reaches (.wakeComplete laneOk ⟨attempts, failed⟩) s (fun t =>
      t.power = 0 ∧ ∀ n, n < 4 → t.laneState n = if nth laneOk n true then 0 else 3))

/-- Pace, the supply loop and the scrub (R21, R25, R26, R40): a window's completions give each die its PACE and MARGIN; the loop moves
each rail's request by R25's rule and within its limits, with no event while every regulator answers well; 1 s at the limit raises
AVS_AT_LIMIT once; a scrub pass counts what it corrects and every uncorrectable read, and spoils only what lies in the words it names. -/
def Obligations.PaceSupplyLoopAndScrub : Prop :=
  (∀ (completions : List Nat) (s : State), s.settled → s.boot.inReset = false → s.power < 2 → s.fab.paceTick + tickMs ≤ s.raw →
    completions.length = 5 →
    Reaches (.paceWindow completions) s (fun t => t.fab.paceTick = s.raw ∧ ∀ d, d < 5 →
      let pace := (F64.ofInt (nth completions d 0)).div (F64.ofInt 1000)
      let floor := (F32.ofBits (s.num (0xF000 + d) 2)).to64
      t.num (0xF000 + d) 1 = pace.to32.nat ∧
      t.num (0xF000 + d) 3 = (((F64.ofInt 100).mul (pace.sub floor)).div floor).to32.nat)) ∧
  (∀ (replies : List AvsReply) (s : State), s.settled → s.cB 0xF100 2 = true → s.boot.inReset = false → 5 ≤ s.stage → s.stage ≠ 15 →
    s.power < 2 → s.fab.loopTick + s.c 0xF100 7 * tickMs ≤ s.raw → (∀ y ∈ replies, y = ⟨true, false⟩) →
    Does (.avsLoopPeriod replies) s [.fab, .wire] ((List.range 5).map (fun r => (0xF101, r + 1))) [] (fun t =>
      t.fab.loopTick = s.raw ∧ ∀ r, r < 5 → (s.rail r).retry = false → s.railRequest r ≠ 0 →
        let m := s.railMargin r
        let v := s.railRequest r
        let step := s.c 0xF100 6
        t.railRequest r =
          if m.lt (F32.ofInt 5) then min (v + 4 * step) (s.railMax r)
          else if m.lt (F32.ofInt ((s.c 0xF100 1 : Int) - 5)) then min (v + step) (s.railMax r)
          else if (F32.ofInt ((s.c 0xF100 1 : Int) + 5)).lt m then max (v - step) (State.railMin r)
          else v)) ∧
  (∀ (r : Fin 5) (t0 : Nat) (s : State), s.settled → (s.rail r.val).limitSince = some t0 → (s.rail r.val).limited = false →
    t0 + tickSec ≤ s.raw → Does (.avsAtLimit r) s [.fab] [] [113] (fun t => (t.rail r.val).limited = true)) ∧
  (∀ (corrected : Nat) (uncorrected : List (Fin 2 × Nat)) (s : State), s.settled → s.boot.inReset = false → 4 ≤ s.stage → s.power < 2 →
    s.fab.scrubTick + s.c 0xF120 0x0A * 3600 * tickSec ≤ s.raw →
    Leaves (.dramScrubPass corrected uncorrected) s [.fab, .ing, .tr, .rec_] ([(0xF120, 8), (0xF120, 9)] ++ counterRegisters 0) (fun t =>
      t.fab.scrubTick = s.raw ∧ t.num 0xF120 8 = State.countUp 64 (s.num 0xF120 8) corrected ∧
      t.num 0xF120 9 = uncorrected.foldl (fun v _ => State.countUp 32 v 1) (s.num 0xF120 9)))

/-! ## The Almanac and the dictionary protocol -/

/-- A READ, and a BLOCK_READ, of an object that a session may read returns its value and changes nothing (R55, R56, R64, R65): the
current or committed value without STAGED; with it, the staged value of an ST object. The value is taken when the request's SEQUENCE is
accepted. -/
def Obligations.ReadReturnsValueAndChangesNothing : Prop :=
  ∀ (r : Req) (x : Session) (index sub : Nat) (f : Field) (s u : State), s.settled → Ready s r x → r.session ≠ 0 → u = s.accepted x r.seq →
    objAt index sub = some f → f.acc ≠ .wo → State.rangeRole true index ≤ x.role → u.barred false index sub = false →
    u.notHeld x.id index sub = false →
    (∀ v : List Byte, State.wrongForm f false = false → v = encodeValue f.ty (readObj u x.id index sub 0) → 4 + v.length ≤ x.maxPayload →
      Serves (.read r index sub false) s r x 0x01 ([byte f.ty.code, 0] ++ beBytes 2 v.length ++ v) id [] [] [] (fun _ => True)) ∧
    (∀ v : List Byte, State.wrongForm f false = false → f.acc = .st → 2 ≤ x.role →
      v = encodeValue f.ty (s.staged.get (okey index sub 0)) → 4 + v.length ≤ x.maxPayload →
      Serves (.read r index sub true) s r x 0x01 ([byte f.ty.code, 0] ++ beBytes 2 v.length ++ v) id [] [] [] (fun _ => True)) ∧
    (∀ n w first count : Nat, f.ty = .arr n w → first + count ≤ n → 8 + count * w ≤ x.maxPayload →
      Serves (.blockRead r index sub first count false) s r x 0x06
        (beBytes 2 index ++ [byte sub, 0] ++ beBytes 2 first ++ beBytes 2 count ++
          ((List.range count).map (fun i => encodeValue f.ty (readObj u x.id index sub (first + i)))).flatten) id [] [] []
        (fun _ => True))

/-- A WRITE, a REGISTER_WRITE in the object's own type, and a COMMAND, that no abort stops take effect at once and are answered (R55,
R64): the object's own effect in the state with the SEQUENCE taken; a COMMAND's answer is the sequence it takes. -/
def Obligations.WriteTakesEffectAtOnce : Prop :=
  ∀ (r : Req) (x : Session) (index sub : Nat) (f : Field) (v : Value) (value : List Byte) (s u : State),
    Ready s r x → u = s.accepted x r.seq → Admitted u x index sub f v → decodeValue f.ty value = some v →
    4 + value.length ≤ x.maxPayload →
    exec (.write r index sub f.ty.code value) s =
      .next (s.settle ((u.writeEffect x.id index sub v).sendPdu x.transport (some x.keyOut) ⟨0x02, 1, x.id, r.seq, []⟩)) ∧
    exec (.registerWrite r index sub value) s =
      .next (s.settle ((u.writeEffect x.id index sub v).sendPdu x.transport (some x.keyOut) ⟨0x02, 1, x.id, r.seq, []⟩)) ∧
    (∀ result, resultOf index sub = some result →
      exec (.command r index sub f.ty.code value) s =
        .next (s.settle ((u.writeEffect x.id index sub v).sendPdu x.transport (some x.keyOut)
          ⟨0x0A, 1, x.id, r.seq, beBytes 4 (u.nextSeq result)⟩)))

/-- A request that several aborts would stop reports the first of them (R559), changes nothing, and has the codes of R68: an unknown
opcode; no object at the index; no such subindex; an access that the class or form forbids, whatever the role; a role too low, whatever the
value; a value of another type, whatever its range; a value out of range. -/
def Obligations.AbortsComeInOrder : Prop :=
  ∀ (r : Req) (x : Session) (s : State), s.settled → Ready s r x →
    (∀ opcode, Aborts (.opcodeUnknown r opcode) s r x opcode 0x000C 0 0 0) ∧
    ∀ (index sub typeCode : Nat) (value : List Byte),
      (fieldsAt index = [] → Aborts (.write r index sub typeCode value) s r x 0x02 0x0001 index sub 0) ∧
      (fieldsAt index ≠ [] → objAt index sub = none → Aborts (.write r index sub typeCode value) s r x 0x02 0x0002 index sub 0) ∧
      ∀ f : Field, objAt index sub = some f →
        (f.acc = .ro ∨ f.acc = .st ∨ State.wrongForm f false = true →
          Aborts (.write r index sub typeCode value) s r x 0x02 0x0003 index sub 0) ∧
        (f.acc = .rw ∨ f.acc = .wo → State.wrongForm f false = false →
          (x.role < State.writeRole index sub → Aborts (.write r index sub typeCode value) s r x 0x02 0x0004 index sub 0) ∧
          (State.writeRole index sub ≤ x.role →
            (typeCode ≠ f.ty.code ∨ decodeValue f.ty value = none →
              Aborts (.write r index sub typeCode value) s r x 0x02 0x0005 index sub 0) ∧
            (∀ v, typeCode = f.ty.code → decodeValue f.ty value = some v → 4 + value.length ≤ x.maxPayload →
              (∀ y ∈ (s.accepted x r.seq).commandChecks x.id index sub, y.1 = false) →
              (s.accepted x r.seq).writeBarred index sub = false → (s.accepted x r.seq).valueInRange index sub f v = false →
              Aborts (.write r index sub typeCode value) s r x 0x02 0x0006 index sub 0)))

/-- Staging (R72, R76, R85): a STAGE or a staged BLOCK_WRITE, while no other session owns staging and no commit runs, writes the staged
configuration alone and makes the session its owner; DISCARD by the owner returns it to the committed one and ends ownership, and without an
owner changes nothing; STAGE_DEFAULTS_CMD stages the default of every object. Another session's staging ends with LOCKED. -/
def Obligations.StagingBelongsToOneSession : Prop :=
  ∀ (r : Req) (x : Session) (s : State), s.settled → Ready s r x → 2 ≤ x.role → s.stagingBusy = false →
    (s.stagingLocked x.id = false →
      (∀ (index sub : Nat) (f : Field) (v : Value) (value : List Byte), objAt index sub = some f → f.acc = .st →
        State.wrongForm f false = false → State.stageRole index sub ≤ x.role → decodeValue f.ty value = some v → inRange f v = true →
        4 + value.length ≤ x.maxPayload → s.barred true index sub = false →
        Serves (.stage r index sub f.ty.code value) s r x 0x03 [] id [.staged] [(0x1200, 2)] [] (fun t =>
          (∀ k, t.staged.get k = if k = okey index sub 0 then v else s.staged.get k) ∧ t.num 0x1200 2 = x.id)) ∧
      (∀ (index sub first count n w : Nat) (f : Field) (elements : List Byte), objAt index sub = some f → f.acc = .st → f.ty = .arr n w →
        State.stageRole index sub ≤ x.role → elements.length = count * w → 8 + elements.length ≤ x.maxPayload → first + count ≤ n →
        (chunks w count elements).all (State.elementOk index sub) = true → State.downloadType index sub = none →
        s.barred true index sub = false →
        Serves (.blockWrite r index sub first count elements true) s r x 0x07 [] id [.staged] [(0x1200, 2)] [] (fun t =>
          t.staged = s.staged.setAll (((chunks w count elements).map .bytes).zip (List.range count) |>.map
            (fun e => (okey index sub (first + e.2), e.1))) ∧
          t.num 0x1200 2 = x.id)) ∧
      (s.stageOwner = x.id → s.stageOwner ≠ 0 → Serves (.discard r) s r x 0x05 [] id [.staged] [(0x1200, 2)] [] (fun t =>
        t.staged = s.cfg ∧ t.num 0x1200 2 = 0)) ∧
      (s.stageOwner = 0 → Serves (.discard r) s r x 0x05 [] id [] [] [] (fun _ => True)) ∧
      (Commands s r x 0x1F02 1 0x1F03 →
        Serves (.stageDefaultsCmd r) s r x 0x0A (beBytes 4 (s.nextSeq 0x1F03)) id [.staged] ((0x1200, 2) :: outcomeRegisters 0x1F03) []
          (fun t => t.staged = [] ∧ t.num 0x1200 2 = x.id ∧ Outcome 0x1F03 (s.nextSeq 0x1F03) 0 [] t))) ∧
    (s.stagingLocked x.id = true →
      Aborts (.discard r) s r x 0x05 0x000A 0x1200 1 0 ∧
      ∀ (index sub : Nat) (f : Field) (value : List Byte), objAt index sub = some f → f.acc = .st →
        State.wrongForm f false = false → State.stageRole index sub ≤ x.role → (decodeValue f.ty value).isSome = true →
        4 + value.length ≤ x.maxPayload → Aborts (.stage r index sub f.ty.code value) s r x 0x03 0x000A index sub 0)

/-- A commit (R73, R75): COMMIT by the owner starts validation; a set with a conflict ends FAILED with the first conflict's code and their
number, the report replaced, and with the staged and the committed configuration as they were; a set without one waits for its quiesce. -/
def Obligations.CommitValidatesTheStagedSet : Prop :=
  (∀ (r : Req) (x : Session) (s : State), s.settled → Ready s r x → 2 ≤ x.role → s.num 0x1201 2 = 0 → s.stagingBusy = false →
    s.stageOwner = x.id → 4 ≤ x.maxPayload →
    Serves (.commit r) s r x 0x04 (beBytes 4 (s.nextSeq 0x1201)) (fun a => { a with commit := .validating }) [] (busyRegisters 0x1201) []
      (Busy 0x1201 s)) ∧
  (∀ (s : State) (c : Conflict) (l : List Conflict), s.settled → s.alm.commit = .validating → s.validate s.staged = c :: l →
    (s.session s.stageOwner).isSome = true →
    Does .commitValidationEnd s [.alm] ([(0x1202, 0), (0x1202, 1), (0x7000, 0x13)] ++ outcomeRegisters 0x1201) [] (fun t =>
      t.alm.core = { s.alm with commit := .idle }.core ∧ t.num 0x1202 0 = min 65535 (l.length + 1) ∧
      (∀ i, i < 16 → t.elem 0x1202 1 i = (((c :: l)[i]?).map Conflict.element).getD (List.replicate 12 0)) ∧
      Outcome 0x1201 (s.num 0x1201 6) c.code (beBytes 2 (min 65535 (l.length + 1))) t)) ∧
  (∀ s : State, s.settled → s.alm.commit = .validating → s.validate s.staged = [] → s.transitsRun = false →
    Does .commitValidationEnd s [.alm] [(0x1202, 0), (0x1202, 1)] [] (fun t =>
      t.alm.core = { s.alm with commit := .quiescing, quiesce := s.raw }.core ∧ t.num 0x1202 0 = 0 ∧
      ∀ i, i < 16 → t.elem 0x1202 1 i = List.replicate 12 0))

/-- A commit that has passed validation, while no transits run, makes the whole staged set effective at once (R73): the committed
configuration is what was staged, the staged one equals it, ownership ends, COMMIT_COUNT rises by one, and the commit ends DONE. -/
def Obligations.CommitActivatesTheStagedSet : Prop :=
  ∀ s : State, s.settled → s.alm.commit = .quiescing → s.transitsRun = false →
    Reaches .commitActivate s (fun t => t.cfg = s.staged ∧ t.staged = s.staged ∧ t.num 0x1200 2 = 0 ∧ t.alm.commit = .idle ∧
      t.num 0x1200 4 = State.countUp 32 (s.num 0x1200 4) 1 ∧ Outcome 0x1201 (s.num 0x1201 6) 0 (beBytes 2 0) t)

/-- Subscriptions (R68, R80, R81): SUBSCRIBE adds one with an id of 16 bits that is not 0 and that no other has, and with mode CANCEL ends the
session's own; a session that was granted less than its payload is told so (LENGTH). A PERIODIC one that is
due, and an ON_CHANGE one whose change has waited for its interval, send a NOTIFY of the present value while fewer than 128 wait. -/
def Obligations.SubscriptionsNotify : Prop :=
  (∀ (r : Req) (x : Session) (index sub minInterval period : Nat) (f : Field) (s : State), s.settled → Ready s r x →
    (∀ mode, x.maxPayload < 8 → Aborts (.subscribe r index sub mode minInterval period) s r x 0x08 0x0008 index sub 0) ∧
    (∀ mode id, 8 ≤ x.maxPayload → mode = 1 ∨ mode = 2 → id = State.freshNumber 16 s.alm.nextSub (s.alm.subs.map (·.id)) → (s.alm.subs.filter (fun y => y.session = x.id)).length < 64 → s.alm.subs.length < 256 →
      objAt index sub = some f → State.wrongForm f false = false → f.acc ≠ .wo → State.rangeRole false index ≤ x.role →
      s.barred false index sub = false →
      (0 < id ∧ id < 65536 ∧ ∀ y ∈ s.alm.subs, y.id ≠ id) ∧
      Serves (.subscribe r index sub mode minInterval period) s r x 0x08 (beBytes 2 id) (fun a => { a with
        subs := a.subs ++ [⟨id, x.id, index, sub, mode == 1, minInterval, period, s.raw + period * tickMs, none, false⟩]
        nextSub := (id + 1) % 65536 }) [] [] [] (fun _ => True)) ∧
    (8 ≤ x.maxPayload → (∃ y ∈ s.alm.subs, y.id = index ∧ y.session = x.id) →
      Serves (.subscribe r index 0 0 minInterval period) s r x 0x08 (beBytes 2 index) (fun a => { a with
        subs := a.subs.filter (fun (y : Subscription) => y.id != index) }) [] [] [] (fun _ => True))) ∧
  (∀ (id : Nat) (y : Subscription) (x : Session) (f : Field) (v : List Byte) (s : State), s.settled →
    s.alm.subs.find? (fun z => z.id = id) = some y → s.session y.session = some x → s.notifyDepth x.id < 128 →
    objAt y.index y.sub = some f → v = encodeValue f.ty (readObj s x.id y.index y.sub 0) →
    (y.onChange = false → y.due ≤ s.raw → Does (.subscriptionPeriod id) s [.alm] [] [] (fun t =>
      t.alm.core = { s.alm with subs := s.alm.subs.map (fun (z : Subscription) => if z.id = id then { z with due := z.due + z.period * tickMs } else z) }.core ∧
      Sent s t x.transport (some x.keyOut) ⟨0x09, if x.loss then 8 else 0, x.id, x.notifySeq + 1,
        beBytes 2 y.id ++ etBytes s.et ++ [byte f.ty.code, 0] ++ beBytes 2 v.length ++ v⟩)) ∧
    (∀ t0, y.onChange = true → y.waiting = true → y.lastSent = some t0 → t0 + y.minInterval * tickMs ≤ s.raw →
      Does (.onChangeIntervalExpiry id) s [.alm] [] [] (fun t =>
        t.alm.core = s.alm.core ∧
        Sent s t x.transport (some x.keyOut) ⟨0x09, if x.loss then 8 else 0, x.id, x.notifySeq + 1,
          beBytes 2 y.id ++ etBytes s.et ++ [byte f.ty.code, 0] ++ beBytes 2 v.length ++ v⟩)))

/-- Sessions open and close (R69–R71): an opening with a right HMAC is answered with its four fields and their HMAC and makes a session
with the keys of R70, whose number is not 0 and is no open session's; one with a wrong HMAC is not answered, counted, and raises ALMANAC_AUTH_FAIL; with the limit of sessions open it ends
with RESOURCE. CLOSE is answered and ends the session; so does IDLE_TIMEOUT without a request. Its subscriptions end with it, and so does
staging it owns while no commit is BUSY. The device's key pair and nonce are free values. -/
def Obligations.SessionsOpenAndClose : Prop :=
  (∀ (w : Transport) (role maxPayload : Nat) (qh nh mac k : List Byte) (s : State), s.settled → s.serverOn = true →
    s.transportOn w = true →
    (s.sessionLimit ≤ s.alm.sessions.length → Does (.openSession w role maxPayload qh nh mac) s [.alm] [] [] (fun t =>
      t.alm.core = s.alm.core ∧ Sent s t w none ⟨0x0B, 3, 0, 0, beBytes 2 0x000D ++ List.replicate 6 0⟩)) ∧
    (s.alm.sessions.length < s.sessionLimit → role ≤ 3 → s.roleKey role = some k →
      (hmac k (State.openHeader 0 180 ++ State.openFields role maxPayload qh nh) ≠ mac →
        Does (.openSession w role maxPayload qh nh mac) s [] [(0x1100, 4)] [127] (fun t =>
          t.num 0x1100 4 = State.countUp 32 (s.num 0x1100 4) 1)) ∧
      (hmac k (State.openHeader 0 180 ++ State.openFields role maxPayload qh nh) = mac →
        ∀ (okm own nd : List Byte) (d id : Nat), id = State.freshNumber 32 s.alm.nextSession (s.alm.sessions.map (·.id)) → d = beNat ((s.draw 80).1.take 48) % (p384N - 1) + 1 → nd = (s.draw 80).1.drop 48 →
          okm = hkdf ((ecdh d qh).getD []) (nh ++ nd) (ascii "TN8448 almanac" ++ beBytes 4 id ++ [byte role]) 64 →
          own = beBytes 4 id ++ beBytes 2 (min maxPayload 8192) ++ publicKey d ++ nd →
          (0 < id ∧ id < 2 ^ 32 ∧ ∀ y ∈ s.alm.sessions, y.id ≠ id) ∧ Does (.openSession w role maxPayload qh nh mac) s [.alm] [] [] (fun t => match ecdh d qh with
            | none => t.alm.core = s.alm.core ∧ Sent s t w none ⟨0x0B, 3, 0, 0, beBytes 2 0x0006 ++ List.replicate 6 0⟩
            | some _ => t.alm.core = { s.alm with
                draws := s.alm.draws + 80, nextSession := (id + 1) % 2 ^ 32
                sessions := s.alm.sessions ++ [Session.mk id w role (min maxPayload 8192) (okm.take 32) (okm.drop 32) 0 0 0 false
                  s.raw s.openOwn] }.core ∧
              Sent s t w none ⟨0x0B, 1, 0, 0, own ++ hmac k (State.openHeader 1 183 ++ State.openFields role maxPayload qh nh ++ own)⟩)))) ∧
  (∀ (r : Req) (x : Session) (s : State), s.settled → Heard s r x →
    Does (.close r) s [.alm, .ev, .rec_, .staged] [(0x1200, 2), (0xD010, 9), (0xD011, 9), (0xD012, 9)] [] (fun t =>
      Responded s t x ⟨0x0C, 1, x.id, r.seq, []⟩ ∧ t.session x.id = none ∧ (∀ y ∈ t.alm.subs, y.session ≠ x.id) ∧
      (s.stageOwner = x.id → s.num 0x1201 2 ≠ 1 → t.staged = s.cfg ∧ t.num 0x1200 2 = 0))) ∧
  (∀ (id : Nat) (x : Session) (s : State), s.settled → s.session id = some x →
    (x.lastValid + s.c 0x1100 2 * tickSec ≤ s.raw →
      Does (.sessionIdleTimeout id) s [.alm, .ev, .rec_, .staged] [(0x1200, 2), (0xD010, 9), (0xD011, 9), (0xD012, 9)] [] (fun t =>
        t.session id = none ∧ (∀ y ∈ t.alm.subs, y.session ≠ id) ∧
        (s.stageOwner = id → s.num 0x1201 2 ≠ 1 → t.staged = s.cfg ∧ t.num 0x1200 2 = 0))) ∧
    (s.raw < x.lastValid + s.c 0x1100 2 * tickSec → Does (.sessionIdleTimeout id) s [] [] [] (fun _ => True)))

/-- Command results (R77–R79): a command in progress whose outcome is settled ends with SEQ, CODE and DATA in one step; an acknowledgement
puts a result that is DONE or FAILED to IDLE and keeps SEQ, CODE and DATA, is without effect in IDLE and ends with BUSY in BUSY;
RESTART_CMD is taken and BUSY. -/
def Obligations.CommandResultsFollowThePattern : Prop :=
  (∀ (result : Nat) (j : Job) (s : State), s.settled → (commandOf result).isSome = true → s.job result = some j → j.action = .none →
    Does (.commandComplete result) s [.alm] (outcomeRegisters result) [] (fun t =>
      Outcome result (s.num result 6) j.code j.data t ∧ t.num result 6 = 0 ∧ t.job result = none)) ∧
  (∀ (r : Req) (x : Session) (result : Nat) (s : State), s.settled → (commandOf result).isSome = true → Writes s r x result 5 →
    (s.num result 2 = 2 ∨ s.num result 2 = 3 →
      Serves (.resultAck r result) s r x 0x02 [] id [] [(result, 2)] [] (fun t => t.num result 2 = 0)) ∧
    (s.num result 2 = 0 → Serves (.resultAck r result) s r x 0x02 [] id [] [] [] (fun _ => True)) ∧
    (s.num result 2 = 1 → Aborts (.resultAck r result) s r x 0x02 0x0009 result 5 0)) ∧
  (∀ (r : Req) (x : Session) (s : State), s.settled → Commands s r x 0x1F00 1 0x1F01 →
    Serves (.restartCmd r) s r x 0x0A (beBytes 4 (s.nextSeq 0x1F01)) (fun a => { a with jobs := a.jobs ++ [⟨0x1F01, 0, [], .restart⟩] }) []
      (busyRegisters 0x1F01) [] (Busy 0x1F01 s))

/-- Host SPI (R37, R63, R82–R84), for a unit out of reset and not in QUIET: READ_STATUS sends RX_READY, TX_PENDING and the pending PDU's
length; WRITE_PDU takes a PDU that verifies as its session's request, and counts one with a wrong MAGIC in PDU_DISCARDED; READ_PDU sends
the pending PDU, which leaves the queue when all of it has been clocked out. HSPI_INT_N is high after every transfer and stays so for 2 µs;
after the rearm it is low exactly while a PDU waits. -/
def Obligations.HostSpiCarriesPdus : Prop :=
  (∀ s : State, s.settled → s.boot.inReset = false → s.power ≠ 2 →
    Does .readStatus s [.alm, .wire] [] [] (fun t => t.alm.core = { s.alm with hspiGap := some s.raw }.core ∧ t.alm.hspiIntLow = false ∧
      t.wire = s.wire ++ [.hspi (byte (bitsOfList [s.serverOn, !s.alm.hspiTx.isEmpty]) ::
        beBytes 2 ((s.alm.hspiTx.head?.map (fun p => p.1.payload.length + 32)).getD 0))])) ∧
  (∀ (b : List Byte) (s : State), s.settled → s.boot.inReset = false → s.power ≠ 2 →
    (s.serverOn = false ∨ field b 0 2 ≠ 0x5A57 →
      Does (.writePdu b) s [.alm] [(0x1100, 3)] [] (fun t => t.alm.core = { s.alm with hspiGap := some s.raw }.core ∧
        t.num 0x1100 3 = State.countUp 32 (s.num 0x1100 3) 1)) ∧
    (∀ (x : Session) (p : List Byte), s.serverOn = true → b.length = field b 6 2 + 32 → field b 0 2 = 0x5A57 → field b 2 1 = 1 →
      (field b 4 2).testBit 0 = false → field b 8 4 ≠ 0 → s.session (field b 8 4) = some x →
      gcmOpen x.keyIn (beBytes 4 (field b 8 4) ++ beBytes 4 0 ++ beBytes 4 (field b 12 4)) (b.take 16) (slice b 16 (field b 6 2))
        (slice b (16 + field b 6 2) 16) = some p →
      exec (.writePdu b) s = complete s (fun s => ((s.serve x .hostSpi (field b 12 4)
        (parseAsk (field b 3 1) ((field b 4 2).testBit 2) p)).wake 2).modAlm (fun a => { a with hspiGap := some s.raw })))) ∧
  (∀ (clocked : Nat) (s : State), s.settled → s.boot.inReset = false → s.power ≠ 2 →
    (s.alm.hspiTx = [] → Does (.readPdu clocked) s [.alm] [(0x1100, 3)] [] (fun t =>
      t.num 0x1100 3 = State.countUp 32 (s.num 0x1100 3) 1)) ∧
    ∀ (p : Pdu) (key : Option (List Byte)) (rest : List (Pdu × Option (List Byte))), s.alm.hspiTx = (p, key) :: rest →
      Reaches (.readPdu clocked) s (fun t => t.alm.hspiIntLow = false ∧
        t.wire = s.wire ++ [.hspi ((p.sealed key).take clocked)] ∧
        ∃ l, t.alm.hspiTx = (if clocked < (p.sealed key).length then s.alm.hspiTx else rest) ++ l)) ∧
  (∀ (t0 : Nat) (s : State), s.settled → s.alm.hspiGap = some t0 →
    (t0 + 2 * tickUs ≤ s.raw → Does .hspiIntRearm s [.alm] [] [] (fun t =>
      t.alm.core = { s.alm with hspiGap := none }.core ∧ t.alm.hspiIntLow = !t.alm.hspiTx.isEmpty)) ∧
    (s.raw < t0 + 2 * tickUs → Does .hspiIntRearm s [] [] [] (fun t => t.alm.hspiIntLow = false)))

/-! ## The Ephemeris, PTP and timed input and output -/

/-- Rate segments and steps (R90, R92–R95, R99): INCREMENT and STEP_CMD of the servo's owner HOST are taken, and end with STATE under
FIRMWARE; a written increment folds the segment, so that ET is continuous; a step that is due adds its amount to ET exactly, counts in
STEP_COUNT with its whole nanoseconds in LAST_STEP, and ends its command with the new ET; one that would make ET negative is not applied. -/
def Obligations.IncrementsAndStepsMoveTheSegment : Prop :=
  (∀ (r : Req) (x : Session) (v : Nat) (s : State), s.settled → Writes s r x 0x2000 3 → 0x027F5C28F6 ≤ v → v ≤ 0x0280A3D70A →
    (s.c 0x2000 0x0B ≠ 0 → Serves (.incrementWrite r v) s r x 0x02 [] id [.eph] [] [] (fun t =>
      t.eph.core = { s.eph with newIncrement := some v }.core)) ∧
    (s.c 0x2000 0x0B = 0 → Aborts (.incrementWrite r v) s r x 0x02 0x000E 0x2000 3 0)) ∧
  (∀ (v : Nat) (s : State), s.settled → s.eph.newIncrement = some v → Does .incrementApply s [.eph] [] [] (fun t =>
    t.eph.core = { s.eph with baseEt := s.et, baseRaw := s.raw, increment := v, newIncrement := none }.core ∧ t.et = s.et)) ∧
  (∀ (r : Req) (x : Session) (s : State), s.settled → Commands s r x 0x2000 8 0x2001 →
    (s.c 0x2000 0x0B ≠ 0 →
      Serves (.stepNow r) s r x 0x0A (beBytes 4 (s.nextSeq 0x2001)) id [.eph] (busyRegisters 0x2001) [] (fun t =>
        Busy 0x2001 s t ∧ t.eph.core = { s.eph with step := some ⟨s.stepAmount, none, true⟩ }.core) ∧
      Serves (.stepNextSecond r) s r x 0x0A (beBytes 4 (s.nextSeq 0x2001)) id [.eph] (busyRegisters 0x2001) [] (fun t =>
        Busy 0x2001 s t ∧ t.eph.core = { s.eph with step := some ⟨s.stepAmount, some ((s.et / sec + 1) * sec), true⟩ }.core)) ∧
    (s.c 0x2000 0x0B = 0 → Aborts (.stepNow r) s r x 0x0A 0x000E 0x2000 8 0 ∧
      Aborts (.stepNextSecond r) s r x 0x0A 0x000E 0x2000 8 0)) ∧
  (∀ (p : PendingStep) (s : State), s.settled → s.eph.step = some p → (∀ at_, p.second = some at_ → at_ ≤ s.et) →
    (0 ≤ (s.et : Int) + p.amount → Reaches .stepApply s (fun t =>
      (t.et : Int) = s.et + p.amount ∧ t.num 0x2000 0x1B = State.countUp 32 (s.num 0x2000 0x1B) 1 ∧
      t.int 0x2000 0x1C = p.amount / 4294967296 ∧ (p.commanded = true → Outcome 0x2001 (s.num 0x2001 6) 0 (etBytes t.et) t))) ∧
    ((s.et : Int) + p.amount < 0 → p.commanded = true → Does .stepApply s [.eph] (outcomeRegisters 0x2001) [] (fun t =>
      t.et = s.et ∧ t.eph.step = none ∧ Outcome 0x2001 (s.num 0x2001 6) 2 [] t))) ∧
  (∀ (p : PendingStep) (at_ : Et) (s : State), s.settled → s.eph.step = some p → p.second = some at_ → s.et < at_ →
    Does .stepApply s [] [] [] (fun _ => True))

/-- The time-quality state (R96, R97, R100, R102, R565): a report moves it as the table says, with its ET and ET_QUALITY_CHANGED at each
change; a reference that is lost, by REF_PRESENT or by REF_TIMEOUT, raises REF_LOST and takes ACQUIRING to FREE and LOCKED to HOLDOVER;
HOLDOVER_LIMIT ends HOLDOVER; a measurement of the selected reference makes the firmware servo write an increment by R100, or step; a
pending leap moves UTC_OFFSET by one second and not ET. -/
def Obligations.TimeQualityFollowsReports : Prop :=
  (∀ (r : Req) (x : Session) (o : Int) (q next : Nat) (good bad : Bool) (s : State), s.settled → Writes s r x 0x2000 0x0C →
    s.c 0x2000 0x0B ≠ 0 → -9223372036854775808 ≤ o → o < 9223372036854775808 → q = s.num 0x2000 9 → q ≤ 3 →
    good = decide (o.natAbs ≤ s.c 0x2000 0x0E * 1000) → bad = decide (s.c 0x2000 0x10 * 1000 < o.natAbs) →
    next = (if q = 0 then (if s.flag 0x2000 0x0D then 1 else 0)
      else if q = 1 then (if good ∧ s.c 0x2000 0x0F ≤ s.eph.goodRun + 1 then 2 else 1)
      else if q = 2 then (if bad ∧ 3 ≤ s.eph.badRun + 1 then 1 else 2)
      else if bad then 1 else if good ∧ s.c 0x2000 0x0F ≤ s.eph.goodRun + 1 then 2 else 3) →
    Serves (.offsetReport r o) s r x 0x02 [] id [.eph] [(0x2000, 0x0C), (0x2000, 9), (0x2000, 0x0A)] (if next = q then [] else [0])
      (fun t => t.int 0x2000 0x0C = o ∧ t.num 0x2000 9 = next ∧ t.num 0x2000 0x0A = if next = q then s.num 0x2000 0x0A else s.et)) ∧
  (∀ (q next : Nat) (s : State), s.settled → q = s.num 0x2000 9 → next = (if q = 1 then 0 else if q = 2 then 3 else q) →
    (∀ (r : Req) (x : Session), Writes s r x 0x2000 0x0D → s.c 0x2000 0x0B ≠ 0 → s.eph.refHeld = true →
      Serves (.refPresentWrite r 0) s r x 0x02 [] id [.eph] [(0x2000, 0x0D), (0x2000, 9), (0x2000, 0x0A)]
        (2 :: if next = q then [] else [0])
        (fun t => t.flag 0x2000 0x0D = false ∧ t.num 0x2000 9 = next ∧ t.eph.refHeld = false)) ∧
    (∀ (r : Req) (x : Session), Writes s r x 0x2000 0x0D → s.c 0x2000 0x0B ≠ 0 →
      Serves (.refPresentWrite r 1) s r x 0x02 [] id [] [(0x2000, 0x0D)] [] (fun t => t.flag 0x2000 0x0D = true)) ∧
    (s.eph.refHeld = true → s.eph.lastReport + s.c 0x2000 0x11 * tickMs ≤ s.raw →
      Does .refTimeout s [.eph] [(0x2000, 9), (0x2000, 0x0A)] (2 :: if next = q then [] else [0]) (fun t =>
        t.num 0x2000 9 = next ∧ t.eph.refHeld = false)) ∧
    (q = 3 → s.eph.qualitySince + s.c 0x2000 0x12 * tickSec ≤ s.raw →
      Does .holdoverLimitExpiry s [.eph] [(0x2000, 9), (0x2000, 0x0A)] [0] (fun t =>
        t.num 0x2000 9 = 0 ∧ t.num 0x2000 0x0A = s.et))) ∧
  (∀ (ref : RefKind) (o : Int) (s : State), s.settled → s.c 0x2000 0x0B = 0 → s.started = true → s.stage ≠ 15 → s.quiet = false →
    s.boot.paused = false → State.refNumber ref ≠ 0 → State.refNumber ref = s.selectedRef →
    Leaves (.servoMeasurement ref o) s [.eph] [(0x2000, 9), (0x2000, 0x0A), (0x2000, 0x0C), (0x2000, 0x0D)] (fun t =>
      t.flag 0x2000 0x0D = true ∧ t.int 0x2000 0x0C = o ∧ (s.num 0x2000 9 = 0 → t.num 0x2000 9 = 1) ∧
      (s.c 0x2000 0x18 * 1000 < o.natAbs → t.eph.step = some ⟨psToEt (-o), none, false⟩) ∧
      (o.natAbs ≤ s.c 0x2000 0x18 * 1000 → ∀ integ adj : Rat,
        integ = max (-1000000) (min 1000000 (s.eph.integ + (s.cF32 0x2000 0x1A).toRat * ((o : Rat) / 1000))) →
        adj = max (-1000000) (min 1000000 (-((s.cF32 0x2000 0x19).toRat * ((o : Rat) / 1000)) - integ)) →
        t.eph.integ = integ ∧ t.eph.newIncrement = some (roundRat (0x0280000000 * (1 + adj / 1000000000))).toNat))) ∧
  (∀ (at_ : Et) (s : State), s.settled → s.eph.leapAt = some at_ → at_ ≤ s.et →
    Does .leapSecond s [.eph] [(0x2000, 0x13), (0x2000, 0x15)] [] (fun t =>
      t.int 0x2000 0x13 = s.int 0x2000 0x13 + (if s.num 0x2000 0x15 = 2 then -1 else 1) ∧ t.num 0x2000 0x15 = 0 ∧ t.et = s.et))

/-- The PTP engine (R103, R105, R106, R109, R110): a message it does not support is counted and discarded, and one on a port that takes no
part reaches nobody; a Sync of the parent measures at once or waits for its Follow_Up; a Pdelay_Req waits for its response; an event
message it sends leaves its timestamp in the port's queue of 32, or, when the queue is full, is counted with TX_TS_OVERFLOW; a silent port's
announce timeout makes it MASTER when no foreign master is known; the transparent clock adds residence and peer delay to a Sync, or keeps
them for its Follow_Up, up to 1 s. -/
def Obligations.PtpEngineHandlesItsMessages : Prop :=
  (∀ (p : Fin 6) (m : PtpMsg) (tdc : Nat) (s : State), s.settled →
    (s.ptpOn p.val = false → Does (.ptpMessageReceive p m tdc) s [] [] [] (fun _ => True)) ∧
    (s.ptpOn p.val = true → s.ptpSupported m = false → Does (.ptpMessageReceive p m tdc) s [.ptp] [] [] (fun t =>
      t.ptp = { s.ptp with discarded := s.ptp.discarded + 1 })) ∧
    (s.ptpOn p.val = true → s.ptpSupported m = true →
      (m.msgType = 2 → Does (.ptpMessageReceive p m tdc) s [.ptp] [] [] (fun t =>
        t.ptp.ports = s.ptp.ports.modify p.val (fun y => { y with request := some (m, s.rxStamp p.val tdc) }))) ∧
      (m.msgType = 0 → s.fromParent p.val m = true → m.twoStep = true → Does (.ptpMessageReceive p m tdc) s [.ptp] [] [] (fun t =>
        t.ptp.ports = s.ptp.ports.modify p.val (fun y => { y with sync := some (m, s.rxStamp p.val tdc) }))) ∧
      (m.msgType = 0 → s.fromParent p.val m = true → m.twoStep = false → s.ptpState p.val = 9 →
        Does (.ptpMessageReceive p m tdc) s [] [(0x2100, 0x0E), (0x2100, 0x0F)] [] (fun t =>
          t.int 0x2100 0x0F = s.int (0x2110 + p.val) 4 ∧
          t.int 0x2100 0x0E = sat64 (etToPs ((s.rxStamp p.val tdc : Int) - m.stamp - m.correction - psToEt (s.int (0x2110 + p.val) 4))))))) ∧
  (∀ (p : Fin 6) (s : State), s.settled → p.val < s.ptp.ports.length → s.ptpOn p.val = true →
    (s.ptpState p.val = 4 ∨ s.ptpState p.val = 7 ∨ s.ptpState p.val = 8 ∨ s.ptpState p.val = 9) →
    (s.ptpPort p.val).announceTick + s.c 0x2100 0x0B * s.announceTicks ≤ s.raw →
    Reaches (.ptpAnnounceTimeout p) s (fun t => (t.ptpPort p.val).announceTick = s.raw ∧
      (s.ptpMode ≠ 3 → (∀ q, q < 6 → (s.ptpPort q).foreign = []) → t.ptpState p.val = 6))) ∧
  (∀ (p : Fin 6) (type seq tdc : Nat) (s : State), s.settled → p.val < s.ptp.ports.length → s.mayTransmit p.val type seq = true →
    ∀ (regs : List (Nat × Nat)) (events : List Nat), (regs, events) =
      (if (s.ptpPort p.val).txts.length < 32 then ([], []) else ([(0x2110 + p.val, 7), (0x2110 + p.val, 8)], [4])) →
    Does (.ptpMessageTransmit p type seq tdc) s [.ptp, .wire] ((pCnt p.val, 0x16) :: regs) events (fun t =>
      (∃ m l, t.wire = s.wire ++ .ptp p.val m :: l ∧ m.msgType = type ∧ m.seqId = seq % 65536) ∧
      ((s.ptpPort p.val).txts.length < 32 → (t.ptpPort p.val).txts = (s.ptpPort p.val).txts ++
        [([byte p.val, byte (type % 16)] ++ beBytes 2 (seq % 65536) ++ etBytes (s.txStamp p.val tdc), !s.locked)]) ∧
      (32 ≤ (s.ptpPort p.val).txts.length → (t.ptpPort p.val).txts = (s.ptpPort p.val).txts ∧ t.flag (0x2110 + p.val) 7 = true ∧
        t.num (0x2110 + p.val) 8 = State.countUp 32 (s.num (0x2110 + p.val) 8) 1))) ∧
  (∀ (r : Req) (x : Session) (p : Fin 6) (s : State), s.settled → Writes s r x (0x2110 + p.val) 9 →
    Serves (.txtsClear r p) s r x 0x02 [] id [] [(0x2110 + p.val, 7), (0x2110 + p.val, 8), (0x2110 + p.val, 0x0B)] [] (fun t =>
      t.flag (0x2110 + p.val) 7 = false ∧ t.num (0x2110 + p.val) 8 = 0 ∧ t.num (0x2110 + p.val) 0x0B = 0)) ∧
  (∀ (ingress egress : Fin 6) (m : PtpMsg) (ago rxTdc tdc : Nat) (rx : Et) (s : State), s.settled → egress.val < s.ptp.ports.length →
    s.tcPorts ingress.val egress.val = true → s.portUp egress.val = true → s.pausing egress.val = false →
    rx = s.stampRx ingress.val (etShift s.et (-((ago * s.eph.increment : Nat) : Int))) rxTdc →
    (m.msgType = 0 → (m.twoStep = false ∨ s.cB 0x2100 7 = true) →
      Does (.tcForwardSync ingress egress m ⟨ago, rxTdc⟩ tdc) s [.wire] [(pCnt egress.val, 0x16), (0x2110 + egress.val, 0x0B)] [] (fun t =>
        ∃ l, t.wire = s.wire ++
          .ptp egress.val { m with correction := m.correction + s.tcSum ingress.val rx (s.txStamp egress.val tdc) } :: l)) ∧
    (m.msgType = 0 → m.twoStep = true → s.cB 0x2100 7 = false → (s.ptpPort egress.val).residence.length < 16 →
      Does (.tcForwardSync ingress egress m ⟨ago, rxTdc⟩ tdc) s [.ptp, .wire] [(pCnt egress.val, 0x16), (0x2110 + egress.val, 0x0B)] [] (fun t =>
        (∃ l, t.wire = s.wire ++ .ptp egress.val m :: l) ∧
        (t.ptpPort egress.val).residence = (s.ptpPort egress.val).residence ++
          [⟨ingress.val, m.sourceId, m.sourcePort, m.seqId, s.tcSum ingress.val rx (s.txStamp egress.val tdc), s.raw⟩])) ∧
    (m.msgType = 8 → s.cB 0x2100 7 = true → Does (.tcForwardFollowUp ingress egress m) s [.wire] [(pCnt egress.val, 0x16)] [] (fun t =>
      ∃ l, t.wire = s.wire ++ .ptp egress.val m :: l)) ∧
    (∀ e, m.msgType = 8 → s.cB 0x2100 7 = false →
      (s.ptpPort egress.val).residence.find? (State.tcMatches ingress.val m) = some e →
      Does (.tcForwardFollowUp ingress egress m) s [.ptp, .wire] [(pCnt egress.val, 0x16)] [] (fun t =>
        ∃ l, t.wire = s.wire ++ .ptp egress.val { m with correction := m.correction + e.amount } :: l)) ∧
    (m.msgType = 8 → s.cB 0x2100 7 = false → (s.ptpPort egress.val).residence.find? (State.tcMatches ingress.val m) = none →
      Does (.tcForwardFollowUp ingress egress m) s [.wire] [(pCnt egress.val, 0x16), (0x2110 + egress.val, 0x0A)] [] (fun t =>
        (∃ l, t.wire = s.wire ++ .ptp egress.val m :: l) ∧
        t.num (0x2110 + egress.val) 0x0A = State.countUp 32 (s.num (0x2110 + egress.val) 0x0A) 1)) ∧
    Does (.tcResidenceExpiry egress) s [.ptp] [] [] (fun t =>
      (t.ptpPort egress.val).residence = (s.ptpPort egress.val).residence.filter (fun y => decide (s.raw < y.tick + tickSec))))

/-- Timed outputs (R112–R114): ARM_AT arms a one-shot, misses it with TO_MISSED when its time has passed, is kept while a pulse runs, and
ends with STATE outside ONE_SHOT; at its time the edge is driven for the width in ticks, rounded up, and counted with its ET; a periodic
output does the same at its edge times; the pulse ends after that many ticks. -/
def Obligations.TimedOutputsPulse : Prop :=
  (∀ (r : Req) (x : Session) (n : Fin 8) (at_ : Et) (s : State), s.settled → Writes s r x (0x2200 + n.val) 7 → at_ < 2 ^ 96 →
    (s.c (0x2200 + n.val) 1 ≠ 1 → Aborts (.armAtWrite r n at_) s r x 0x02 0x000E (0x2200 + n.val) 7 0) ∧
    (s.c (0x2200 + n.val) 1 = 1 → s.num (0x2200 + n.val) 8 ≠ 2 → s.et ≤ at_ →
      Serves (.armAtWrite r n at_) s r x 0x02 [] id [] [(0x2200 + n.val, 7), (0x2200 + n.val, 8)] [] (fun t =>
        t.num (0x2200 + n.val) 7 = at_ ∧ t.num (0x2200 + n.val) 8 = 1)) ∧
    (s.c (0x2200 + n.val) 1 = 1 → s.num (0x2200 + n.val) 8 ≠ 2 → at_ < s.et →
      Serves (.armAtWrite r n at_) s r x 0x02 [] id [] [(0x2200 + n.val, 7), (0x2200 + n.val, 8), (0x2200 + n.val, 0x0A)] [5] (fun t =>
        t.num (0x2200 + n.val) 8 = 3 ∧ t.num (0x2200 + n.val) 0x0A = State.countUp 32 (s.num (0x2200 + n.val) 0x0A) 1)) ∧
    (s.c (0x2200 + n.val) 1 = 1 → s.num (0x2200 + n.val) 8 = 2 →
      Serves (.armAtWrite r n at_) s r x 0x02 [] id [.eph] [(0x2200 + n.val, 7)] [] (fun t => t.num (0x2200 + n.val) 7 = at_))) ∧
  (∀ (n : Fin 8) (s : State), s.settled → n.val < s.eph.outs.length →
    (s.c (0x2200 + n.val) 1 = 1 → s.num (0x2200 + n.val) 8 = 1 → s.num (0x2200 + n.val) 7 ≤ s.et →
      Does (.toOneShotEdge n) s [.eph] [(0x2200 + n.val, 8), (0x2200 + n.val, 9), (0x2200 + n.val, 0x0B)] [] (fun t =>
        t.num (0x2200 + n.val) 8 = 2 ∧ t.num (0x2200 + n.val) 9 = State.countUp 32 (s.num (0x2200 + n.val) 9) 1 ∧
        t.num (0x2200 + n.val) 0x0B = s.et ∧ (t.timedOut n.val).active = true ∧
        (t.timedOut n.val).endTick = s.raw + (s.c (0x2200 + n.val) 5 * ns + s.eph.increment - 1) / s.eph.increment)) ∧
    (s.num (0x2200 + n.val) 8 = 1 → s.et < s.num (0x2200 + n.val) 7 → Does (.toOneShotEdge n) s [] [] [] (fun _ => True)) ∧
    (s.c (0x2200 + n.val) 1 = 2 → s.num (0x2200 + n.val) 8 = 4 →
      (∀ e, (s.timedOut n.val).lastPeriodic = some e → e < s.periodicEdge n.val s.et) →
      Does (.toPeriodicEdge n) s [.eph] [(0x2200 + n.val, 9), (0x2200 + n.val, 0x0B)] [] (fun t =>
        t.num (0x2200 + n.val) 9 = State.countUp 32 (s.num (0x2200 + n.val) 9) 1 ∧ t.num (0x2200 + n.val) 0x0B = s.et ∧
        (t.timedOut n.val).active = true ∧ (t.timedOut n.val).lastPeriodic = some (s.periodicEdge n.val s.et))) ∧
    ((s.timedOut n.val).active = true → (s.timedOut n.val).endTick ≤ s.raw →
      (s.num (0x2200 + n.val) 8 = 2 → (s.timedOut n.val).rearm = false →
        Does (.toPulseEnd n) s [.eph] [(0x2200 + n.val, 8)] [] (fun t =>
          (t.timedOut n.val).active = false ∧ t.num (0x2200 + n.val) 8 = 3)) ∧
      (s.num (0x2200 + n.val) 8 = 2 → (s.timedOut n.val).rearm = true → s.et ≤ s.num (0x2200 + n.val) 7 →
        Does (.toPulseEnd n) s [.eph] [(0x2200 + n.val, 8)] [] (fun t =>
          (t.timedOut n.val).active = false ∧ t.num (0x2200 + n.val) 8 = 1)) ∧
      (s.num (0x2200 + n.val) 8 = 4 → Does (.toPulseEnd n) s [.eph] [] [] (fun t => (t.timedOut n.val).active = false))))

/-- Timed inputs (R116–R120, R126, R127): a selected edge is written into element CAPTURE_COUNT mod 64 with its corrected ET, or, within
10 ns of the one before, counted in LOST with TI_EDGE_LOST, as the edges of IRIG-B and PPS are; an IRIG-B frame that is not valid is counted with IRIG_ERROR, and one that
follows a valid one by exactly a second gives IRIG_TIME; a PPS edge is captured, and counts towards the reference near a whole second;
each reference is gone after 3 s. -/
def Obligations.TimedInputsCapture : Prop :=
  (∀ (n : Fin 4) (rising : Bool) (tdc now : Nat) (s : State), s.settled → s.c (0x2210 + n.val) 1 = 1 →
    s.edgeSelected n.val rising = true → now = s.raw * 128 + tdc % 128 →
    ((∀ l, nth s.eph.lastEdge n.val none = some l → l + 512 ≤ now) →
      Reaches (.tiEdge n rising tdc) s (fun t => t.num (0x2210 + n.val) 4 = (s.num (0x2210 + n.val) 4 + 1) % 2 ^ 32) ∧
      (s.recorderState = 0 →
        Does (.tiEdge n rising tdc) s [.eph] [(0x2210 + n.val, 4), (0x2210 + n.val, 5), (0x2210 + n.val, 7)] [] (fun t =>
          t.num (0x2210 + n.val) 7 = s.edgeEt n.val tdc ∧
          t.elem (0x2210 + n.val) 5 (s.num (0x2210 + n.val) 4 % 64) = etBytes (s.edgeEt n.val tdc) ++
            [if rising then 1 else 2, 0] ++ beBytes 2 (qMake true (qIf (!s.locked) qTIME_UNLOCKED)).toNat))) ∧
    (∀ l, nth s.eph.lastEdge n.val none = some l → now < l + 512 →
      Does (.tiEdge n rising tdc) s [.eph] [(0x2210 + n.val, 6)] [6] (fun t =>
        t.num (0x2210 + n.val) 6 = State.countUp 32 (s.num (0x2210 + n.val) 6) 1))) ∧
  (∀ (pulses : List Nat) (f : IrigFrame) (tdc : Nat) (s : State), s.settled → s.c 0x2210 1 = 2 → f = irigDecode pulses →
    (∀ l, nth s.eph.lastEdge 0 none = some l → l + 512 ≤ s.raw * 128 + tdc % 128) →
    ((f.markersOk && f.parityOk && decide (f.timeQuality ≤ s.c 0x2210 0x0B)) = false →
      Does (.irigFrame ⟨pulses, tdc⟩) s [.eph] [(0x2210, 4), (0x2210, 5), (0x2210, 7), (0x2210, 9), (0x2210, 0x0A)] [7] (fun t =>
        t.num 0x2210 0x0A = State.countUp 32 (s.num 0x2210 0x0A) 1 ∧ t.eph.irigValid = false)) ∧
    (f.markersOk = true → f.parityOk = true → f.timeQuality ≤ s.c 0x2210 0x0B → s.eph.irigValid = true →
      s.raw ≤ s.eph.irigTick + 440000000 → f.codedSeconds = s.eph.irigSecond + 1 →
      Does (.irigFrame ⟨pulses, tdc⟩) s [.eph] [(0x2210, 4), (0x2210, 5), (0x2210, 7), (0x2210, 8), (0x2210, 9), (0x2000, 0x15)] [] (fun t =>
        t.num 0x2210 8 = (f.codedSeconds - f.offsetMinutes * 60 + s.int 0x2000 0x13).toNat * sec ∧
        t.num 0x2210 7 = s.edgeEt 0 tdc ∧ t.eph.irigAccepted = s.raw ∧ t.eph.irigUnlocked = !s.locked)) ∧
    (f.markersOk = true → f.parityOk = true → f.timeQuality ≤ s.c 0x2210 0x0B → s.eph.irigValid = false →
      Does (.irigFrame ⟨pulses, tdc⟩) s [.eph] [(0x2210, 4), (0x2210, 5), (0x2210, 7), (0x2210, 9)] [] (fun t =>
        t.eph.irigValid = true ∧ t.eph.irigSecond = f.codedSeconds))) ∧
  (∀ s : State, s.settled → 2 ≤ s.eph.irigRun → s.eph.irigAccepted + 3 * tickSec ≤ s.raw →
    Does .irigReferenceTimeout s [.eph] [] [] (fun t => t.eph.core = { s.eph with irigRun := 0 }.core)) ∧
  (∀ (tdc high : Nat) (r : Nat) (s : State), s.settled → s.c 0x2211 1 = 3 → 1000 ≤ high → high ≤ 900000000 →
    r = s.ppsTimeOfDay (s.edgeEt 1 tdc) % sec → (∀ l, nth s.eph.lastEdge 1 none = some l → l + 512 ≤ s.raw * 128 + tdc % 128) →
    Does (.ppsEdge tdc high) s [.eph] [(0x2211, 4), (0x2211, 5), (0x2211, 7)] [] (fun t =>
      t.num 0x2211 4 = (s.num 0x2211 4 + 1) % 2 ^ 32 ∧ t.num 0x2211 7 = s.edgeEt 1 tdc ∧
      ((r ≤ 100 * ms ∨ sec - 100 * ms ≤ r) → t.eph.ppsAccepted = s.raw ∧
        t.eph.ppsRun = if s.raw < s.eph.ppsAccepted + 3 * tickSec then min 2 (s.eph.ppsRun + 1) else 1))) ∧
  (∀ (n : Fin 4) (c : Instr) (tdc high : Nat) (l : Nat) (s : State), s.settled →
    ((n = 0 ∧ s.c 0x2210 1 = 2 ∧ ∃ pulses, c = .irigFrame ⟨pulses, tdc⟩) ∨
      (n = 1 ∧ s.c 0x2211 1 = 3 ∧ 1000 ≤ high ∧ high ≤ 900000000 ∧ c = .ppsEdge tdc high)) →
    nth s.eph.lastEdge n.val none = some l → s.raw * 128 + tdc % 128 < l + 512 →
    Does c s [.eph] [(0x2210 + n.val, 6)] [6] (fun t =>
      t.num (0x2210 + n.val) 6 = State.countUp 32 (s.num (0x2210 + n.val) 6) 1)) ∧
  (∀ s : State, s.settled → 2 ≤ s.eph.ppsRun → s.eph.ppsAccepted + 3 * tickSec ≤ s.raw →
    Does .ppsReferenceTimeout s [.eph] [] [] (fun t => t.eph.core = { s.eph with ppsRun := 0 }.core))

/-! ## Local channels -/

/-- The sampling chain (R130, R136, R140–R145, R147–R151): a fixed-rate sample enters every channel's delay line and gives its delayed
primary value, the 128th ending SETTLING; a tracked sample advances the position by the present advance, with a boundary every 256; at a
boundary without a valid reference TRACKING falls back to F_NOM, and with one f_est approaches it; SYNC_RESET_CMD waits for its whole
second, at which sample 0 starts a new epoch; a bay's instant is suppressed, or reported. -/
def Obligations.SamplingChainAdvances : Prop :=
  (∀ (codes : List Int) (s : State), s.settled →
    (s.chainOn = false → Does (.fixedRateSample codes) s [] [] [] (fun _ => True)) ∧
    (s.chainOn = true → Reaches (.fixedRateSample codes) s (fun t =>
      t.loc.nextFixed = s.loc.nextFixed + 1 ∧
      t.num 0x3200 0x0B = (if s.loc.nextFixed + 1 = 128 ∧ s.num 0x3200 0x0B = 2 then 3 else s.num 0x3200 0x0B) ∧
      ∀ ch, ch < 48 → ch < s.loc.channels.length → ∀ (code out : Int), code = nth codes ch 0 →
        out = nth ((code :: (s.channel ch).line).take 64) (s.delaySamples ch) 0 →
        (t.channel ch).line = (code :: (s.channel ch).line).take 64 ∧
        ((t.channel ch).fixed.head?.map (fun x => (x.code, x.value))) =
          some (out, if s.cB (0x3000 + ch) 1 then s.primary ch out else absentValue)))) ∧
  (∀ s : State, s.settled →
    (s.chainOn = true → s.loc.boundaryDue = false → s.windowReady = true → Does .trackedSample s [.loc] [] [] (fun t =>
      t.loc.nextTracked = s.loc.nextTracked + 1 ∧ t.loc.position = s.loc.position + s.loc.advance ∧
      t.loc.boundaryDue = ((s.loc.nextTracked + 1) % 256 == 0) ∧
      ∀ ch, ch < 48 → ch < s.loc.channels.length → (t.channel ch).tracked = (s.trackedOf ch :: (s.channel ch).tracked).take 2560)) ∧
    (s.chainOn = false ∨ s.windowReady = false ∨ s.loc.boundaryDue = true → Does .trackedSample s [] [] [] (fun _ => True)) ∧
    (s.loc.boundaryDue = true → s.num 0x3200 5 = 1 → Reaches .trackedCycleBoundary s (fun t => t.loc.boundaryDue = false ∧
      match s.reference with
      | none => t.num 0x3200 5 = 0 ∧ t.loc.fEst = F64.ofInt (s.c 0x3200 1) ∧ t.num 0x3200 6 = State.countUp 32 (s.num 0x3200 6) 1
      | some f => t.num 0x3200 5 = 1 ∧ t.loc.fEst = State.approach s.loc.fEst f)) ∧
    (∀ at_, s.loc.waiting = some at_ → at_ ≤ s.et → Reaches .syncResetSampleZero s (fun t =>
      t.loc.waiting = none ∧ t.loc.epoch = at_ ∧ t.loc.grid = 0 ∧ t.loc.nextFixed = 0 ∧ t.loc.nextTracked = 0 ∧ t.num 0x3200 0x0B = 2 ∧
      t.num 0x3200 8 = State.countUp 32 (s.num 0x3200 8) 1 ∧ t.num 0x3200 9 = at_ ∧
      (s.num 0x3201 2 = 1 → Outcome 0x3201 (s.num 0x3201 6) 0 (etBytes at_) t))) ∧
    (∀ at_, s.loc.waiting = some at_ → s.et < at_ → Does .syncResetSampleZero s [] [] [] (fun _ => True))) ∧
  (∀ (r : Req) (x : Session) (s : State), s.settled → Commands s r x 0x3200 7 0x3201 →
    (s.num 0x3200 0x0B = 0 → Serves (.syncResetCmd r) s r x 0x0A (beBytes 4 (s.nextSeq 0x3201)) id [] (outcomeRegisters 0x3201) []
      (Outcome 0x3201 (s.nextSeq 0x3201) 3 [])) ∧
    (s.num 0x3200 0x0B ≠ 0 → s.loc.waiting = none →
      Serves (.syncResetCmd r) s r x 0x0A (beBytes 4 (s.nextSeq 0x3201)) id [.loc] ((0x3200, 0x0B) :: busyRegisters 0x3201) [] (fun t =>
        Busy 0x3201 s t ∧ t.num 0x3200 0x0B = 1 ∧ t.loc.waiting = some ((s.et + 100 * ms + sec - 1) / sec * sec)))) ∧
  (∀ (bay : Fin 8) (k rate : Nat) (s : State), s.settled → rate = s.c (0x3100 + bay.val) 3 → k = (nth s.loc.bays bay.val ⟨0, 0⟩).nextK →
    (s.chainOn = false → Does (.bayReport bay) s [] [] [] (fun _ => True)) ∧
    (s.chainOn = true → bay.val < s.loc.bays.length → s.reportSuppressed bay.val k rate = true →
      Does (.bayReport bay) s [.loc] [] [] (fun t => (nth t.loc.bays bay.val ⟨0, 0⟩).nextK = k + 1)) ∧
    (s.chainOn = true → bay.val < s.loc.bays.length → s.reportSuppressed bay.val k rate = false → Reaches (.bayReport bay) s (fun t =>
      match s.estimate bay.val k rate with
      | none => (nth t.loc.bays bay.val ⟨0, 0⟩).nextK = k
      | some y => (nth t.loc.bays bay.val ⟨0, 0⟩).nextK = k + 1 ∧
        t.num (0x3100 + bay.val) 7 = (nth y.entries 0 absentEntry).value.nat ∧
        t.num (0x3100 + bay.val) 8 = (nth y.entries 1 absentEntry).value.nat ∧
        t.num (0x3100 + bay.val) 9 = (nth y.entries 14 absentEntry).quality.toNat ∧
        t.num (0x3100 + bay.val) 0x0A = if s.cB (0x3100 + bay.val) 1 then y.time else s.num (0x3100 + bay.val) 0x0A)))

/-- Input supervision and clearing (R164, R165, R167, R168, R522, R523, R527): the second open-wire sample outside makes the condition
present, one occurrence of its qualifier, which is TRANSIENT below the threshold and LASTING with CH_OPEN at it, and which SUP_TRANSIENTS
counts unless it makes the qualifier LASTING; the second inside ends it;
the short evaluation sets DC and its condition; SUP_CLEAR empties a channel's qualifiers; a clearing object puts its counters back. -/
def Obligations.SupervisionQualifiesAndClears : Prop :=
  (∀ (ch : Fin 48) (now : List Nat) (s : State), s.settled → ch.val < s.loc.channels.length → s.num 0x3200 0x0B ≠ 0 →
    s.cB (0x3000 + ch.val) 5 = true → s.supEnabled ch.val 0 = true →
    now = (s.qualifier (qkey 1 ch.val 0)).history.filter (fun t => s.raw < t + s.c (0x3000 + ch.val) 7 * tickMs) →
    (1 ≤ (s.channel ch.val).outRun → (s.num (0x3000 + ch.val) 9).testBit 0 = false → s.lasting (qkey 1 ch.val 0) = false →
      (now.length + 1 < s.c (0x3000 + ch.val) 8 →
        Does (.openWireSample ch true) s [.loc, .ev] [(0x3000 + ch.val, 9), (0x3000 + ch.val, 0x0A), (0xE060, 2), (0xE060, 3)] [] (fun t =>
          t.num (0x3000 + ch.val) 9 = setBit (s.num (0x3000 + ch.val) 9) 0 true ∧ t.lasting (qkey 1 ch.val 0) = false ∧
          t.num (0x3000 + ch.val) 0x0A = State.countUp 32 (s.num (0x3000 + ch.val) 0x0A) 1)) ∧
      (s.c (0x3000 + ch.val) 8 ≤ now.length + 1 →
        Does (.openWireSample ch true) s [.loc, .ev] [(0x3000 + ch.val, 9), (0xE060, 2), (0xE060, 4)] [48] (fun t =>
          t.num (0x3000 + ch.val) 9 = setBit (setBit (s.num (0x3000 + ch.val) 9) 0 true) 4 true ∧
          t.lasting (qkey 1 ch.val 0) = true))) ∧
    (1 ≤ (s.channel ch.val).outRun → (s.num (0x3000 + ch.val) 9).testBit 0 = false → s.lasting (qkey 1 ch.val 0) = true →
      Does (.openWireSample ch true) s [.loc] [(0x3000 + ch.val, 9), (0x3000 + ch.val, 0x0A), (0xE060, 2)] [] (fun t =>
        t.num (0x3000 + ch.val) 9 = setBit (s.num (0x3000 + ch.val) 9) 0 true ∧
        t.num (0x3000 + ch.val) 0x0A = State.countUp 32 (s.num (0x3000 + ch.val) 0x0A) 1)) ∧
    (1 ≤ (s.channel ch.val).inRun → (s.num (0x3000 + ch.val) 9).testBit 0 = true →
      Does (.openWireSample ch false) s [.loc] [(0x3000 + ch.val, 9)] [] (fun t =>
        t.num (0x3000 + ch.val) 9 = setBit (s.num (0x3000 + ch.val) 9) 0 false)) ∧
    ((s.channel ch.val).outRun = 0 → (s.num (0x3000 + ch.val) 9).testBit 0 = false →
      Does (.openWireSample ch true) s [.loc] [] [] (fun t => (t.channel ch.val).outRun = 1))) ∧
  (∀ (ch : Fin 48) (mean : Rat) (s : State), s.settled → ch.val < s.loc.channels.length → s.chainOn = true →
    s.cB (0x3000 + ch.val) 1 = true → (s.channel ch.val).fixed ≠ [] →
    mean = (((s.channel ch.val).fixed.take 9600).map (fun y => y.value.toRat)).sum / 9600 →
    Reaches (.shortEvaluation ch) s (fun t => t.num (0x3000 + ch.val) 0x0E = (F32.ofRat mean).nat ∧
      ((s.cF32 (0x3000 + ch.val) 2).toRat / 10 ≤ mean → s.supEnabled ch.val 1 = true →
        (t.num (0x3000 + ch.val) 9).testBit 1 = true))) ∧
  (∀ (r : Req) (x : Session) (ch : Fin 48) (s : State), s.settled → Writes s r x (0x3000 + ch.val) 0x0B →
    Serves (.supClear r (0x3000 + ch.val)) s r x 0x02 [] id [.ev] [(0x3000 + ch.val, 9)] [] (fun t =>
      t.num (0x3000 + ch.val) 9 = s.num (0x3000 + ch.val) 9 % 8 ∧
      ∀ kind, kind < 3 → t.lasting (qkey 1 ch.val kind) = false ∧ (t.qualifier (qkey 1 ch.val kind)).history = [])) ∧
  (∀ (r : Req) (x : Session) (s : State), s.settled →
    (∀ p : Fin 6, Writes s r x (0x1300 + 16 * p.val) 0x13 →
      Serves (.counterClear r (0x1300 + 16 * p.val) 0x13 1) s r x 0x02 [] id []
        ((State.subsFrom 1 0x16).map (fun b => (0x1301 + 16 * p.val, b))) [] (fun t =>
          ∀ b, 1 ≤ b → b ≤ 0x16 → t.num (0x1301 + 16 * p.val) b = 0)) ∧
    (∀ n, n < 80 → Writes s r x 0xE050 5 →
      Serves (.counterClear r 0xE050 5 n) s r x 0x02 [] id [] [(0xE000 + n, 2)] [] (fun t => t.num (0xE000 + n) 2 = 0)))

/-! ## Network ports and stream ingest -/

/-- Reception (R176, R177, R181, R185, R188, R190, R560): a port that is off takes nothing; a frame that fails the MAC checks is counted in
the counter of the first; one for which the buffer has no room is discarded, with PORT_RX_DISCARD once; in QUIET a frame that a wake filter
matches wakes the unit; a PRP duplicate goes no further; a data frame of a context enters the receive buffer, and from it its lane's
queue, word by word, where it counts for its stream; a queue without room holds it back, and one whose pointer copies disagree is reset. -/
def Obligations.ReceivedFramesReachTheirLane : Prop :=
  (∀ (p : Fin 6) (frame : List Byte) (fcsOk : Bool) (tdc : Nat) (s : State), s.settled → (s.port p.val).rx = [] →
    (s.portOn p.val = false → Does (.frameReceive p frame fcsOk tdc) s [.ing] [] [] (fun t => t.ing.core = s.ing.core)) ∧
    (s.portOn p.val = true → s.serdesOn p.val = true →
      (∀ sub, sub = (if frame.length + 4 < 64 then 0x04 else if s.c (pCfg p.val) 7 < frame.length + 4 then 0x06 else 0x05) →
        (frame.length + 4 < 64 ∨ s.c (pCfg p.val) 7 < frame.length + 4 ∨ fcsOk = false) →
        Does (.frameReceive p frame fcsOk tdc) s [.ing] [(pCnt p.val, sub)] [] (fun t => t.ing.core = s.ing.core ∧
          t.num (pCnt p.val) sub = State.countUp 32 (s.num (pCnt p.val) sub) 1)) ∧
      (s.macCheck p.val frame fcsOk = none →
        (∀ w rest, s.power = 2 → s.wakeMatches p.val frame = w :: rest → Reaches (.frameReceive p frame fcsOk tdc) s (fun t =>
          t.power = 3 ∧ t.num 0xF140 4 = 1)) ∧
        (s.quiet = false → s.macAccepts p.val frame = true → s.rxBuffer p.val < s.occupancy p.val + frame.length + 4 →
          p.val < s.ing.ports.length →
          Does (.frameReceive p frame fcsOk tdc) s [.ing] [(pCnt p.val, 7)]
            (if (s.port p.val).discarding then [] else [8 + 4 * p.val + 1]) (fun t =>
              t.num (pCnt p.val) 7 = State.countUp 64 (s.num (pCnt p.val) 7) 1 ∧ (t.port p.val).discarding = true)) ∧
        (s.quiet = false → s.macAccepts p.val frame = true → s.occupancy p.val + frame.length + 4 ≤ s.rxBuffer p.val →
          (∀ n seq lan node, s.prpPairOf p.val = some n → findRct frame = some (seq, lan) →
            (s.pair n).nodes.find? (fun y => y.source = slice frame 6 6) = some node → node.accept seq s.raw = none →
            Does (.frameReceive p frame fcsOk tdc) s [.ing] [(pCnt p.val, 1), (prpIndex n, 4), (prpIndex n, 5)] [] (fun t =>
              t.num (prpIndex n) 4 = State.countUp 64 (s.num (prpIndex n) 4) 1 ∧ (t.port p.val).fifo = (s.port p.val).fifo)) ∧
          (∀ tci tagged inner src dst ok v6 dgram e u, s.prpPairOf p.val = none → untag frame = some (tci, tagged, inner) →
            s.classify p.val inner = .data src dst ok v6 dgram →
            (s.inc64 (pCnt p.val) 1).fastPath p.val tci src dst ok v6 dgram (s.rxStamp p.val tdc) = (u, some e) →
            (s.port p.val).fifo = [] → p.val < s.ing.ports.length →
            Reaches (.frameReceive p frame fcsOk tdc) s (fun t => (t.port p.val).fifo = [(frame.length + 4, .fast e)])))))) ∧
  (∀ (p : Fin 6) (n size : Nat) (e : IngestEntry) (rest : List (Nat × RxItem)) (s : State), s.settled →
    (s.port p.val).fifo = (size, .fast e) :: rest → n = laneOf e.stream → n < 4 → n < s.ing.queues.length →
    (s.queueHasRoom n = true → e.port ≠ 7 → s.ctxEnabled e.stream = true → s.laneLive n = true →
      ((s.queue n).writeA = (s.queue n).writeB → (s.queue n).readA = (s.queue n).readB →
        Reaches (.ingestQueueWrite p) s (fun t => TakesEntry s t n e ∧
          ((t.queue n).part = [] → t.num (0x5300 + n) 5 = State.countUp 64 (s.num (0x5300 + n) 5) 1) ∧
          t.num (0x4000 + e.stream) 0x1C = State.countUp 64 (s.num (0x4000 + e.stream) 0x1C) 1 ∧
          (s.streamState e.stream = 1 ∨ s.streamState e.stream = 4 → t.streamState e.stream = 2))) ∧
      ((s.queue n).writeA ≠ (s.queue n).writeB → (s.queue n).waiting = [] → Reaches (.ingestQueueWrite p) s (fun t =>
        (t.queue n).depth = 0 ∧ (t.queue n).frames = 0 ∧
        (t.queue n).writeA = (t.queue n).writeB ∧ t.num (0x5300 + n) 7 = State.countUp 32 (s.num (0x5300 + n) 7) 1))) ∧
    (s.queueHasRoom n = false → Does (.ingestQueueWrite p) s [] [] [] (fun _ => True)))

/-- Transmission, pause, links and PRP (R179, R180, R182, R185, R186, R205, R207, R214, R560): a posted frame, with its tag, takes descriptors
of the transmit ring; it leaves at once, on both ports of a PRP pair with an RCT, waits while pause is honoured, and goes nowhere on a port
without a line; the oldest waiting PDU of a port leaves in its datagram. Received pause holds the queues until it ends, which drains them by
class; pause honoured for PAUSE_MAX discards TC0 with PORT_PAUSE_LIMIT and is then not honoured for as long; the port's own pause frame
repeats while its buffer is above RX_LOW_WM; a link change is reported; an idle PRP entry is forgotten, and supervision goes out on both
ports under one sequence. -/
def Obligations.PortsPauseAndTransmit : Prop :=
  (∀ (p : Fin 6) (cls : Fin 4) (frame f : List Byte) (next : Nat) (descs : List (Nat × Descriptor)) (s : State), s.settled →
      p.val < s.ing.ports.length → f = s.mgmtTagged p.val frame →
      next = ((s.port p.val).txNext + State.descriptorsFor f.length) % s.c (pCfg p.val) 0x0F →
      descs = State.txDescriptors p.val cls.val (s.c (pCfg p.val) 0x0F) (s.port p.val).txNext f →
      (∀ what, s.started = false ∨ s.quiet = true ∨ s.boot.paused = true → Does (.txDescriptorPost p cls what) s [] [] [] (fun _ => True)) ∧
      (frame.length < 14 ∨ s.txRingRoom p.val f.length = false → Does (.txDescriptorPost p cls (some frame)) s [] [] [] (fun _ => True)) ∧
      (s.started = true → s.quiet = false → s.boot.paused = false →
        (14 ≤ frame.length → s.txRingRoom p.val f.length = true →
          (s.prpPairOf p.val = none →
            (s.portUp p.val = false → Does (.txDescriptorPost p cls (some frame)) s [.ing] [] [] (fun t =>
              (t.port p.val).txq = (s.port p.val).txq ∧ (t.port p.val).txNext = next)) ∧
            (s.portUp p.val = true → s.pausing p.val = false →
              Does (.txDescriptorPost p cls (some frame)) s [.ing, .wire] [(pCnt p.val, 0x16)] [] (fun t =>
                (∃ l, t.wire = s.wire ++ .frame p.val (padded f) :: l) ∧ (t.port p.val).txNext = next ∧
                t.num (pCnt p.val) 0x16 = State.countUp 64 (s.num (pCnt p.val) 0x16) 1)) ∧
            (s.portUp p.val = true → s.pausing p.val = true →
              Does (.txDescriptorPost p cls (some frame)) s [.ing] [] [] (fun t =>
                (t.port p.val).txq = (s.port p.val).txq ++ [⟨cls.val, .frame p.val (padded f), descs.map (·.1)⟩] ∧
                (t.port p.val).tx = (s.port p.val).tx ++ descs ∧ (t.port p.val).txNext = next))) ∧
          (∀ n, s.prpPairOf p.val = some n → (∀ k, k < 2 → s.portUp (2 * n + k) = true ∧ s.pausing (2 * n + k) = false) →
            Does (.txDescriptorPost p cls (some frame)) s [.ing, .wire] [(pCnt (2 * n), 0x16), (pCnt (2 * n + 1), 0x16)] [] (fun t =>
              ∃ l, t.wire = s.wire ++
                [.frame (2 * n) (withRct 0xA (s.rctSeq n) f), .frame (2 * n + 1) (withRct 0xB (s.rctSeq n) f)] ++ l))) ∧
        (s.alm.udpTx.find? (fun y => y.1.port.val = p.val) = none → Does (.txDescriptorPost p cls none) s [] [] [] (fun _ => True)) ∧
        (∀ y, s.alm.udpTx.find? (fun z => z.1.port.val = p.val) = some y →
          s.txRingRoom p.val (s.mgmtTagged p.val (s.pduFrame y)).length = true → s.prpPairOf p.val = none → s.portUp p.val = true →
          s.pausing p.val = false → Reaches (.txDescriptorPost p cls none) s (fun t =>
            (∃ l, t.wire = s.wire ++ .frame p.val (padded (s.mgmtTagged p.val (s.pduFrame y))) :: l) ∧
            ∃ l, t.alm.udpTx = State.withoutFirst (fun z => z.1.port.val = p.val) s.alm.udpTx ++ l)))) ∧
  (∀ (p : Fin 6) (sent : List TxItem → List Output) (s : State), s.settled → p.val < s.ing.ports.length →
    (∀ q, sent q = ([3, 2, 1, 0].flatMap (fun c => q.filter (fun e => e.cls = c))).map (·.out)) →
    (∀ quanta, s.portOn p.val = true → s.cB (pCfg p.val) 0x0C = true → quanta ≠ 0 →
      Does (.pauseFrameReceive p quanta) s [.ing] [(pCnt p.val, 0x11)] [] (fun t =>
        (t.port p.val).pausedUntil = s.raw + s.quantaTicks p.val quanta)) ∧
    (s.portUp p.val = true → s.cB (pCfg p.val) 0x0C = true →
      Does (.pauseFrameReceive p 0) s [.ing, .wire] [(pCnt p.val, 0x11), (pCnt p.val, 0x16)] [] (fun t =>
        (t.port p.val).pausedUntil = 0 ∧ (t.port p.val).txq = [] ∧ ∃ l, t.wire = s.wire ++ sent (s.port p.val).txq ++ l)) ∧
    ((s.port p.val).honourSince.isSome = true → (s.port p.val).pausedUntil ≤ s.raw → s.portUp p.val = true →
      Does (.pauseExpiry p) s [.ing, .wire] [(pCnt p.val, 0x16)] [] (fun t =>
        (t.port p.val).honourSince = none ∧ (t.port p.val).txq = [] ∧ ∃ l, t.wire = s.wire ++ sent (s.port p.val).txq ++ l)) ∧
    (∀ since, (s.port p.val).honourSince = some since → s.pausing p.val = true → since + s.c (pCfg p.val) 0x0D * tickUs ≤ s.raw →
      s.portUp p.val = true →
      Does (.pauseLimit p) s [.ing, .wire] [(pCnt p.val, 0x12), (pCnt p.val, 0x13), (pCnt p.val, 0x16)] [8 + 4 * p.val + 2] (fun t =>
        t.num (pCnt p.val) 0x13 = State.countUp 64 (s.num (pCnt p.val) 0x13) ((s.port p.val).txq.filter (fun e => e.cls = 0)).length ∧
        t.num (pCnt p.val) 0x12 = State.countUp 32 (s.num (pCnt p.val) 0x12) 1 ∧ (t.port p.val).txq = [] ∧
        (t.port p.val).ignoreUntil = some (s.raw + s.c (pCfg p.val) 0x0D * tickUs) ∧
        ∃ l, t.wire = s.wire ++ sent ((s.port p.val).txq.filter (fun e => e.cls != 0)) ++ l)) ∧
    (∀ until_, (s.port p.val).ignoreUntil = some until_ → until_ ≤ s.raw → Does (.pauseLimitEnd p) s [.ing] [] [] (fun t =>
      (t.port p.val).ignoreUntil = none ∧
      (t.port p.val).honourSince = if s.raw < (s.port p.val).pausedUntil then some s.raw else none)) ∧
    ((s.port p.val).pauseOn = true → s.cB (pCfg p.val) 0x0A = true → s.atLow p.val = false → s.portUp p.val = true →
      (s.port p.val).pauseTick + s.quantaTicks p.val (s.c (pCfg p.val) 0x0B) / 2 ≤ s.raw →
      Does (.pauseRepeat p) s [.ing, .wire] [(pCnt p.val, 0x10)] [] (fun t => (t.port p.val).pauseTick = s.raw ∧
        ∃ l, t.wire = s.wire ++ .frame p.val ([0x01, 0x80, 0xC2, 0x00, 0x00, 0x01] ++ macOf (s.homePort p.val) ++
          [0x88, 0x08, 0x00, 0x01] ++ beBytes 2 (s.c (pCfg p.val) 0x0B) ++ List.replicate 42 0) :: l)) ∧
    (∀ up speed, s.portOn p.val = true → s.serdesOn p.val = true →
      Reaches (.portLinkChange p up speed) s (fun t =>
        t.flag (pCfg p.val) 0x10 = up ∧ t.num (pCfg p.val) 0x11 = if up then speed else 0) ∧
      (up = false ∨ s.flag (pCfg p.val) 0x10 = up ∨ s.contextGroups p.val = [] ∧ (∀ y ∈ s.ing.streams, y.2.wanted = false) →
        Does (.portLinkChange p up speed) s [] [(pCfg p.val, 0x10), (pCfg p.val, 0x11)]
          (if s.flag (pCfg p.val) 0x10 = up then [] else [8 + 4 * p.val]) (fun _ => True))) ∧
    (∀ up speed, s.portOn p.val = false ∨ s.serdesOn p.val = false →
      Does (.portLinkChange p up speed) s [] [] [] (fun _ => True))) ∧
  (∀ (n : Fin 2) (s : State), s.settled → n.val < s.ing.pairs.length →
    (∀ source, Does (.prpEntryForget n source) s [.ing] [(prpIndex n.val, 7)] [] (fun t =>
      (t.pair n.val).nodes = (s.pair n.val).nodes.filter (fun w =>
        !(w.source = source && decide (w.tick + s.c (prpIndex n.val) 2 * tickMs ≤ s.raw))) ∧
      t.num (prpIndex n.val) 7 = (t.pair n.val).nodes.length)) ∧
    (∀ seq body, s.started = true → s.cB (prpIndex n.val) 1 = true →
      (s.pair n.val).supervised + s.c (prpIndex n.val) 3 * tickMs ≤ s.raw →
      (∀ k, k < 2 → s.portUp (2 * n.val + k) = true ∧ s.pausing (2 * n.val + k) = false) → seq = (s.pair n.val).txSeq →
      body = s.mgmtTagged (2 * n.val) ([0x01, 0x15, 0x4E, 0x00, 0x01, 0x00] ++ macOf (2 * n.val) ++ [0x88, 0xFB, 0x00, 0x01] ++
        beBytes 2 seq ++ [20, 6] ++ macOf (2 * n.val) ++ [0, 0]) →
      Does (.prpSupervisionTransmit n) s [.ing, .wire] [(pCnt (2 * n.val), 0x16), (pCnt (2 * n.val + 1), 0x16)] [] (fun t =>
        (t.pair n.val).supervised = s.raw ∧ (t.pair n.val).txSeq = (seq + 1) % 65536 ∧
        ∃ l, t.wire = s.wire ++ [.frame (2 * n.val) (withRct 0xA seq body), .frame (2 * n.val + 1) (withRct 0xB seq body)] ++ l)))

/-- Stream contexts (R197, R199–R202): a usable configuration frame waits for the next transit boundary, and with no transits running fills
a context with AUTOFILL at once, in the staged copy too where that equalled the committed one, and a stream in MISMATCH waits anew; a TCP
stream connects, asks for its configuration and turns transmission on, and retries 5 s after a loss; its frames enter the lane's queue with
port code 6 and their receive timestamp, and one of another layout is counted and puts it in MISMATCH; 2 s without a frame make a RECEIVING
stream SILENT. -/
def Obligations.StreamContextsFollowTheirSources : Prop :=
  ∀ (n i : Nat) (s : State), s.settled → 1 ≤ n → n < 4088 → i = 0x4000 + n →
    (∀ cfg : CfgFrame, s.ctxEnabled n = true → s.cB i 0x18 = true → cfg.usable = true → s.c i 3 ≠ 1 →
      (s.transitsRun = true → Does (.cfgFrameReceive n cfg) s [.ing] [] [] (fun t =>
        t.ing.autofills = s.ing.autofills.filter (fun y => y.1 != n) ++ [(n, cfg)])) ∧
      (s.transitsRun = false → s.ing.autofills = [] → Reaches (.cfgFrameReceive n cfg) s (fun t =>
        t.cI i 0x0A = cfg.rate ∧ t.c i 0x0B = cfg.timeBase ∧ t.c i 0x0C = cfg.format % 16 ∧
        t.c i 0x0D = cfg.blocks.length ∧ t.c i 0x12 = cfg.fnom ∧ t.num i 0x21 = State.countUp 32 (s.num i 0x21) 1 ∧
        (objectBytes s.staged i 0x0A = objectBytes s.cfg i 0x0A → t.staged.get (okey i 0x0A 0) = t.cfg.get (okey i 0x0A 0)) ∧
        (objectBytes s.staged i 0x0A ≠ objectBytes s.cfg i 0x0A → t.staged.get (okey i 0x0A 0) = s.staged.get (okey i 0x0A 0)) ∧
        (s.streamState n = 5 → t.streamState n = 1)))) ∧
    (∀ cfg : CfgFrame, s.ctxEnabled n = false ∨
        s.ing.autofills = [] ∧ (s.cB i 0x18 = false ∨ cfg.usable = false) ∧ s.c i 3 ≠ 1 →
      Does (.cfgFrameReceive n cfg) s [] [] [] (fun _ => True)) ∧
    (s.isTcp n = true →
      Does (.tcpConnectAttempt n false) s [.ing] [(i, 0x1B)] [] (fun t => t.tcpState n = 0 ∧ (t.stream n).tcpTick = s.raw) ∧
      (s.tcpState n ≠ 1 → Does (.tcpConnectAttempt n true) s [] [] [] (fun _ => True)) ∧
      (∀ (p : Nat) (asks : Nat → Output), s.sourcePort n = some p → s.prpPairOf p = none → s.pausing p = false →
        (∀ cmd, asks cmd = Output.tcp p none (some (s.cBytes i 4, s.c i 6)) 0
          (commandFrame (s.c i 2) (s.utcNow (s.c i 0x0B)).1 (s.utcNow (s.c i 0x0B)).2 cmd)) →
        (s.tcpState n = 1 → s.cB i 0x19 = true →
          Does (.tcpConnectAttempt n true) s [.ing, .wire] [(i, 0x1B), (pCnt p, 0x16)] [] (fun t => t.tcpState n = 2 ∧
            (t.stream n).tcpTick = s.raw ∧ ∃ l, t.wire = s.wire ++ asks 5 :: l)) ∧
        (s.tcpState n = 1 → s.cB i 0x19 = false →
          Does (.tcpConnectAttempt n true) s [.ing, .wire] [(i, 0x1B), (pCnt p, 0x16)] [] (fun t => t.tcpState n = 3 ∧
            ∃ l, t.wire = s.wire ++ asks 2 :: l)) ∧
        (s.tcpState n = 2 → (s.stream n).tcpTick + 5 * tickSec ≤ s.raw →
          Does (.tcpCfgWaitTimeout n) s [.ing, .wire] [(i, 0x1B), (pCnt p, 0x16)] [] (fun t => t.tcpState n = 3 ∧
            ∃ l, t.wire = s.wire ++ asks 2 :: l))) ∧
      (s.tcpState n = 0 → (s.stream n).tcpTick + 5 * tickSec ≤ s.raw → Does (.tcpRetryExpiry n) s [] [(i, 0x1B)] [] (fun t =>
        t.tcpState n = 1)) ∧
      (∀ (p : Fin 6) (tdc : Nat) (frame : List Byte), s.tcpState n = 3 → 16 ≤ frame.length → nth frame 0 0 = 0xAA →
        (field frame 1 1 = 1 ∨ field frame 1 1 = 2) → field frame 4 2 = s.c i 2 → field frame 2 2 = frame.length →
        (field frame 2 2 ≠ dataFrameSize (s.c i 0x0C) (s.ctxBlocks n) →
          (s.streamState n ≠ 6 → s.streamState n ≠ 3 → Reaches (.tcpStreamFrame n ⟨p, tdc, frame⟩) s (fun t =>
            t.streamState n = 5 ∧ t.num i 0x1D = State.countUp 32 (s.num i 0x1D) 1)) ∧
          (s.streamState n = 6 ∨ s.streamState n = 3 → (∀ l, l < 4 → (s.lane l).slots = []) →
            Does (.tcpStreamFrame n ⟨p, tdc, frame⟩) s [] [(i, 0x1D)] [] (fun t =>
            t.num i 0x1D = State.countUp 32 (s.num i 0x1D) 1))) ∧
        (field frame 2 2 = dataFrameSize (s.c i 0x0C) (s.ctxBlocks n) →
          crc16 (frame.take (field frame 2 2 - 2)) = field frame (field frame 2 2 - 2) 2 → field frame 11 3 < s.c i 0x0B →
          ∀ e : IngestEntry, e = ⟨n, 6, if s.locked then 0 else 2, s.rxStamp p.val tdc, 0, frame, 0, []⟩ →
          (s.queue (laneOf n)).waiting = [] → s.queueHasRoom (laneOf n) = true → s.laneLive (laneOf n) = true →
          laneOf n < s.ing.queues.length → (s.queue (laneOf n)).writeA = (s.queue (laneOf n)).writeB →
          (s.queue (laneOf n)).readA = (s.queue (laneOf n)).readB →
          Reaches (.tcpStreamFrame n ⟨p, tdc, frame⟩) s (fun t => TakesEntry s t (laneOf n) e)))) ∧
    (∀ at_, (s.stream n).accepted = some at_ → s.ctxEnabled n = true → s.streamState n = 2 → at_ + 2 * tickSec ≤ s.raw →
      Reaches (.streamSilentTimeout n) s (fun t => t.streamState n = 4) ∧
      ((∀ l, l < 4 → (s.lane l).slots = []) → Does (.streamSilentTimeout n) s [.tr] [(i, 0x1A)] [] (fun _ => True)))

/-! ## The transit engine -/

/-- Matching in a lane (R226, R227, R234–R236, R248, R250, R253, R564): a converted frame that is too far ahead, stamped across a coming
change of F_T, off the grid, beyond the slots or a second one of its stream is counted and dropped; one for an instant whose partial is out
is late: counted, one occurrence of its stream's qualifier, and under FORWARD_LATE, with a credit for it, a late-queue record; any other is stored in its
instant's slot, and the last one that a strobed instant needs sends the lane's partial; a dispatch on a waiting frame parses it, FRAME_MATCH
takes it through all stages; LATE_CLEAR empties the qualifier and ends LATE. -/
def Obligations.LanesMatchFramesToInstants : Prop :=
  (∀ (n : Fin 4) (c : Instr) (e : IngestEntry) (record : List Entry) (t : Int) (g : RateSeg) (i k ord f : Nat) (common : List (Nat × Nat))
    (s : State), s.settled → (c = .frameMatch n ∨ c = .taskDispatch n) → n.val < s.tr.lanes.length → s.laneRuns n.val = true →
    OnlyTasks s n.val [⟨f, .assemble e record⟩] → f < (s.lane n.val).nextFrame → (s.queue n.val).frames = 0 → s.ctxEnabled e.stream = true → i = 0x4000 + e.stream →
    t = s.entryTime e → g = s.segAt t.toNat → k = ((2 * t * g.rate + sec) / ((2 * sec : Nat) : Int)).toNat → ord = ((k : Int) + g.off).toNat →
    common = counterRegisters (1 + n.val) ++ [(0x5200 + n.val, 0x0B), (0x5200 + n.val, 0x0C)] →
    ((e.arrival : Int) + sec < t → Leaves c s [.tr] ((0x5000, 0x13) :: common) (fun u =>
      u.num 0x5000 0x13 = State.countUp 64 (s.num 0x5000 0x13) 1 ∧
      u.num (0x5200 + n.val) 0x0C = State.countUp 64 (s.num (0x5200 + n.val) 0x0C) 1)) ∧
    (t ≤ (e.arrival : Int) + sec → s.beforeChange t e.arrival = true → Leaves c s [.tr] ((0x5000, 0x16) :: common) (fun u =>
      u.num 0x5000 0x16 = State.countUp 64 (s.num 0x5000 0x16) 1)) ∧
    (t ≤ (e.arrival : Int) + sec → s.beforeChange t e.arrival = false →
      (s.c 0x5000 0x04 * us < (t - (instantEt k g.rate : Int)).natAbs ∨ s.tr.running = false ∨ ord < s.tr.first →
        Leaves c s [.tr] ((0x5000, 0x14) :: common) (fun u => u.num 0x5000 0x14 = State.countUp 64 (s.num 0x5000 0x14) 1)) ∧
      ((t - (instantEt k g.rate : Int)).natAbs ≤ s.c 0x5000 0x04 * us → s.tr.running = true → s.tr.first ≤ ord →
        (∀ recent : List Nat, s.partialSent n.val ord = true →
          recent = (s.qualifier (qkey 2 e.stream 0)).history.filter (fun x => s.raw < x + s.c i 0x16 * tickMs) →
          Leaves c s [.tr, .ev] ([(0x5000, 0x17), (0x5000, 0x18), (0x5000, 0x19), (0x5000, 0x1A), (i, 0x1A), (0xE060, 2), (0xE060, 3),
            (0xE060, 4)] ++ common) (fun u =>
            u.num 0x5000 0x17 = State.countUp 64 (s.num 0x5000 0x17) 1 ∧
            (s.c i 0x15 = 1 → s.hasCredit (4 + n.val) .mgmt = true → u.num 0x5000 0x18 = (s.num 0x5000 0x18 + 1) % 4294967296 ∧
              u.elem 0x5000 0x19 (s.num 0x5000 0x18 % 4096) = s.lateRecord e ord record) ∧
            (s.c i 0x15 ≠ 1 → u.num 0x5000 0x18 = s.num 0x5000 0x18) ∧
            (s.lasting (qkey 2 e.stream 0) = false →
              (s.c i 0x17 ≤ recent.length + 1 → u.streamState e.stream = 3 ∧ u.lasting (qkey 2 e.stream 0) = true) ∧
              (recent.length + 1 < s.c i 0x17 → u.streamState e.stream = s.streamState e.stream ∧
                u.lasting (qkey 2 e.stream 0) = false)))) ∧
        (s.partialSent n.val ord = false →
          ((s.lane n.val).base + 512 ≤ ord → Leaves c s [.tr] ((0x5000, 0x16) :: common) (fun u =>
            u.num 0x5000 0x16 = State.countUp 64 (s.num 0x5000 0x16) 1)) ∧
          (∀ y, ord < (s.lane n.val).base + 512 → s.laneSlot n.val ord = some y → (lookup e.stream y.frames).isSome = true →
            Leaves c s [.tr] ((0x5000, 0x15) :: common) (fun u => u.num 0x5000 0x15 = State.countUp 64 (s.num 0x5000 0x15) 1)) ∧
          (ord < (s.lane n.val).base + 512 → (∀ y, s.laneSlot n.val ord = some y → lookup e.stream y.frames = none) →
            (s.cB i 0x13 = false ∨ s.expectedAt e.stream ord = false) →
            Leaves c s [.tr] ((0x5200 + n.val, 0x0F) :: common) (fun u =>
              (u.laneSlot n.val ord).map (fun y => lookup e.stream y.frames) = some (some record))) ∧
          (∀ y, ord < (s.lane n.val).base + 512 → s.laneSlot n.val ord = some y → lookup e.stream y.frames = none → y.strobe = true →
            s.cB i 0x13 = true → s.expectedAt e.stream ord = true → s.laneRequired n.val ord = true →
            s.laneMissing n.val ord (y.frames ++ [(e.stream, record)]) = 0 → s.hasCredit (4 + n.val) .release = true →
            Leaves c s [.tr] ((0x5200 + n.val, 0x0F) :: common) (fun u => u.partialSent n.val ord = true ∧
              ∃ p : Partial, (u.lane n.val).outbox = (s.lane n.val).outbox ++ [p] ∧ p.ord = ord ∧ p.missing = 0 ∧
                p.stored = y.frames.length + 1)))))) ∧
  (∀ (n : Fin 4) (e : IngestEntry) (left : LaneQueue) (words : List QWord) (s : State), s.settled → n.val < s.tr.lanes.length →
    n.val < s.ing.queues.length → s.laneRuns n.val = true → OnlyTasks s n.val [] → (s.queue n.val).head ≠ [] → 0 < (s.queue n.val).frames →
    (left, words) = LaneQueue.popEntry s.spillWords ((s.queue n.val).depth + (s.queue n.val).part.length) (s.queue n.val) [] →
    e = entryOfWords words ((s.queue n.val).times.headD 0) → (s.queue n.val).waiting = [] → (s.queue n.val).writeA = (s.queue n.val).writeB → (s.queue n.val).readA = (s.queue n.val).readB →
    Reaches (.taskDispatch n) s (fun u => SameWords (u.queue n.val) left ∧ (∃ f, ⟨f, .convert e⟩ ∈ (u.lane n.val).tasks) ∧
      u.num (0x5300 + n.val) 6 = State.countUp 64 (s.num (0x5300 + n.val) 6) 1) ∧
    (∀ (t : Int) (g : RateSeg) (k ord : Nat), s.ctxEnabled e.stream = true → t = s.entryTime e → g = s.segAt t.toNat →
      k = ((2 * t * g.rate + sec) / ((2 * sec : Nat) : Int)).toNat → ord = ((k : Int) + g.off).toNat → t ≤ (e.arrival : Int) + sec →
      s.beforeChange t e.arrival = false → (t - (instantEt k g.rate : Int)).natAbs ≤ s.c 0x5000 0x04 * us → s.tr.running = true →
      s.tr.first ≤ ord → s.partialSent n.val ord = false → ord < (s.lane n.val).base + 512 → s.laneSlot n.val ord = none →
      s.cB (0x4000 + e.stream) 0x13 = false → Reaches (.frameMatch n) s (fun u => SameWords (u.queue n.val) left ∧
        (u.laneSlot n.val ord).map (fun y => lookup e.stream y.frames) = some (some (s.convert e))))) ∧
  (∀ (r : Req) (x : Session) (stream : Nat) (s : State), s.settled → Writes s r x 0x5000 0x1B → 1 ≤ stream → stream ≤ 4095 →
    (s.streamState stream ≠ 3 → Serves (.lateClear r stream) s r x 0x02 [] id [.ev] [] [] (fun t =>
      t.lasting (qkey 2 stream 0) = false ∧ (t.qualifier (qkey 2 stream 0)).history = [])) ∧
    (∀ at_, s.streamState stream = 3 → (s.stream stream).accepted = some at_ → s.raw < at_ + 2 * tickSec →
      Serves (.lateClear r stream) s r x 0x02 [] id [.ev] [(0x4000 + stream, 0x1A)] [] (fun t => t.streamState stream = 2 ∧
        t.lasting (qkey 2 stream 0) = false)) ∧
    (s.streamState stream = 3 → (∀ at_, (s.stream stream).accepted = some at_ → at_ + 2 * tickSec ≤ s.raw) →
      Reaches (.lateClear r stream) s (fun t => t.streamState stream = 4 ∧ t.lasting (qkey 2 stream 0) = false)))

/-- Strobes, notices, merge and release (R225, R229–R233, R246, R564): at T_k + W_MIN every live lane has the strobe or has sent; at T_k + W
the lanes that have not sent get the notice, and answer it; a partial is stored unless its lane is fenced, its instant is done or its
merge has closed, and the last required one closes the merge 8 µs on; a closed merge behind a pending instant waits; the next ready
instant is released with the next SEQ, its K and T_k, its cause's count and LANE_MISS of each live lane without a partial, and nothing is
released otherwise; at S_c the new F_T is in force, and S_c is the same instant in both rates. -/
def Obligations.TransitsAreMergedAndReleasedInOrder : Prop :=
  (∀ (k ord : Nat) (s : State), s.settled → s.ordOfK k = some ord → s.tr.lanes.length = 4 →
    (s.tr.running = true → s.tkOf ord + s.c 0x5000 0x03 * ms ≤ s.et → (∀ i, s.inst ord = some i → i.strobed = false) → s.isSkipped ord = false →
      s.lanesOn = true → (∀ n, n < 4 → (s.lane n).tasks = [] ∧ (s.lane n).work = [] ∧ s.hasCredit (4 + n) .release = true) →
      Leaves (.wMinStrobe k) s [.tr] ([0, 1, 2, 3].flatMap taskRegisters)
        (fun u => (u.inst ord).map (·.strobed) = some true ∧
          ∀ n, n < 4 → s.laneLive n = true → u.partialSent n ord = true ∨ (u.laneSlot n ord).map (·.strobe) = some true)) ∧
    (s.tr.running = false ∨ s.et < s.tkOf ord + s.c 0x5000 0x03 * ms → Does (.wMinStrobe k) s [] [] [] (fun _ => True)) ∧
    (s.tr.running = true → s.tkOf ord + s.wEt ≤ s.et → (∀ i, s.inst ord = some i → i.notice = none) → s.isSkipped ord = false →
      Does (.deadlineNotice k) s [.tr] [] [] (fun u =>
        (u.inst ord).map (fun i => (i.notice, i.closeTick)) = some (some .deadline, s.raw + s.ticksUntil (s.tkOf ord + s.wEt + 8 * us)) ∧
        ∀ n, n < 4 → (u.lane n).notices = (s.lane n).notices ++
          if s.laneLive n ∧ ∀ i, s.inst ord = some i → lookup n i.partials = none then [ord] else [])) ∧
    (s.tr.running = false ∨ s.et < s.tkOf ord + s.wEt → Does (.deadlineNotice k) s [] [] [] (fun _ => True)) ∧
    (∀ i, s.inst ord = some i → i.notice.isSome = true → i.closeTick ≤ s.raw → i.skip = false →
      (ord ≠ s.tr.nextOrd → Does (.mergeClose k) s [.tr] [] [] (fun u =>
        (u.inst ord).map (fun j => (j.closed, j.waited)) = some (true, true))) ∧
      (ord = s.tr.nextOrd → s.tr.running = true → Reaches (.mergeClose k) s (fun u => u.num 0x5000 8 = s.num 0x5000 8 + 1 ∧
        u.num 0x5000 9 = i.k ∧ ord < u.tr.nextOrd)))) ∧
  (∀ (n : Fin 4) (s : State), s.settled → n.val < s.tr.lanes.length →
    (∀ ord rest, (s.lane n.val).notices = ord :: rest → s.laneRuns n.val = false → Does (.noticeReceive n) s [.tr] [] [] (fun u =>
      (u.lane n.val).notices = rest ∧ (u.lane n.val).outbox = (s.lane n.val).outbox)) ∧
    (∀ ord rest, (s.lane n.val).notices = ord :: rest → s.laneRuns n.val = true → (s.lane n.val).tasks = [] → (s.lane n.val).work = [] →
      s.hasCredit (4 + n.val) .release = true →
      (s.partialSent n.val ord = false →
        Leaves (.noticeReceive n) s [.tr] (taskRegisters n.val) (fun u =>
          u.partialSent n.val ord = true ∧ (u.lane n.val).notices = rest ∧
          ∃ p : Partial, (u.lane n.val).outbox = (s.lane n.val).outbox ++ [p] ∧ p.ord = ord)) ∧
      (s.partialSent n.val ord = true → Leaves (.noticeReceive n) s [.tr] (taskRegisters n.val) (fun u => (u.lane n.val).notices = rest ∧
        (u.lane n.val).outbox = (s.lane n.val).outbox))) ∧
    (∀ p rest, (s.lane n.val).outbox = p :: rest →
      (s.laneLive n.val = false ∨ p.ord < s.tr.nextOrd ∨ s.isSkipped p.ord = true ∨ (∃ i, s.inst p.ord = some i ∧ (i.closed = true ∨
          i.notice.isSome = true ∧ i.closeTick ≤ s.raw)) →
        Does (.partialReceive n) s [.tr] [] [] (fun u => (u.lane n.val).outbox = rest ∧ u.tr.insts = s.tr.insts)) ∧
      (s.laneLive n.val = true → s.tr.nextOrd ≤ p.ord → s.isSkipped p.ord = false →
        (∀ i, s.inst p.ord = some i → i.closed = false ∧ (i.notice.isSome = true → s.raw < i.closeTick)) →
        Does (.partialReceive n) s [.tr] [] [] (fun u => (u.inst p.ord).bind (fun i => lookup n.val i.partials) = some p ∧
          (∀ j, s.inst p.ord = some j → j.notice = none → s.laneRequired n.val p.ord = true →
            (∀ l, l < 4 → l ≠ n.val → s.laneLive l = true → s.laneRequired l p.ord = true → (lookup l j.partials).isSome = true) →
            (u.inst p.ord).map (fun i => (i.notice, i.closeTick)) = some (some .release, s.raw + 8 * tickUs)))))) ∧
  (∀ (i : HubInstant) (s : State), s.settled → s.inst s.tr.nextOrd = some i →
    (s.tr.running = true → s.instReady i = true → i.skip = false → Reaches .transitRelease s (fun u =>
      u.num 0x5000 8 = s.num 0x5000 8 + 1 ∧ u.num 0x5000 9 = i.k ∧ u.num 0x5000 0x0A = i.tk ∧ u.num 0x5000 0x0B = s.et ∧
      s.tr.nextOrd < u.tr.nextOrd ∧
      (∀ sub, sub = (if i.notice = some .deadline ∨ i.notice = some .step then 0x0D else 0x0C) →
        u.num 0x5000 sub = State.countUp 64 (s.num 0x5000 sub) 1) ∧
      u.num 0x5000 0x0E = (if i.waited then State.countUp 64 (s.num 0x5000 0x0E) 1 else s.num 0x5000 0x0E) ∧
      ∀ n, n < 4 → u.num 0x5000 (0x0F + n) = if s.laneLive n ∧ lookup n i.partials = none
        then State.countUp 32 (s.num 0x5000 (0x0F + n)) 1 else s.num 0x5000 (0x0F + n))) ∧
    (s.tr.running = false ∨ s.instReady i = false → Does .transitRelease s [] [] [] (fun _ => True))) ∧
  (∀ s : State, s.settled → s.inst s.tr.nextOrd = none → Does .transitRelease s [] [] [] (fun _ => True)) ∧
  (∀ (sc : Et) (f : Nat) (g : RateSeg) (s : State), g = s.segAt sc → ∃ off : Int,
    (s.planRate sc f).tr.segs = ⟨sc, f, off⟩ :: s.tr.segs ∧ (s.planRate sc f).tr.pendingRate = some (sc, f) ∧
    ((sc / sec * f : Nat) : Int) + off = ((sc / sec * g.rate : Nat) : Int) + g.off) ∧
  (∀ (sc : Et) (f : Nat) (s : State), s.settled → s.tr.pendingRate = some (sc, f) →
    (sc ≤ s.et → Does .transitRateChanged s [.tr] [(0x5000, 7)] [69] (fun u => u.tr.pendingRate = none ∧
      u.num 0x5000 7 = (if s.tr.running then 1 else 0) ∧ u.tr.segs = s.tr.segs)) ∧
    (s.et < sc → Does .transitRateChanged s [] [] [] (fun _ => True)))

/-! ## The Spectroscope -/

/-- Resonators (R244, R258, R263, R266, R270–R276, R281, R282): INTER_AREA_UPDATE takes a lane's next transit, once its watch vector is whole: a
usable input is detrended,
demodulated and filtered and gives a new window point and estimate, any other freezes the envelope and leaves a hole, and 2 × L stale
updates in a row reset the resonator; a block that was dropped is eight stale samples; each update sends one contribution, with a credit;
RESET_CMD is refused while OFF, else waits for its lane's next update, which resets the signal and ends the command. -/
def Obligations.ResonatorsFollowTheirSignals : Prop :=
  (∀ (n : Fin 4) (s : State), s.settled →
    (nth s.tr.toSpectro n.val [] = [] → Does (.interAreaUpdate n) s [] [] [] (fun _ => True)) ∧
    (∀ (r : Released) (rest : List Released), nth s.tr.toSpectro n.val [] = r :: rest →
      (s.laneRuns n.val = false ∨ r.vec.isSome = true ∧ s.ringIn n.val = false → Does (.interAreaUpdate n) s [] [] [] (fun _ => True)) ∧
      (s.flag 0x6000 2 = false → s.laneRuns n.val = true → (r.vec = none ∨ s.ringIn n.val = true) →
        Leaves (.interAreaUpdate n) s [.tr] (taskRegisters n.val) (fun t => nth t.tr.toSpectro n.val [] = rest)) ∧
      (s.flag 0x6000 2 = true → s.laneRuns n.val = true → (r.vec = none ∨ s.ringIn n.val = true) →
        ((nth s.spec.resets n.val []).all (fun y => decide (0x8000 ≤ y)) = true → s.newRate r = false →
          ∀ (key b rk l : Nat) (vec : List (Nat × Entry)) (usable : Bool) (x : F32) (q : Quality) (st : SigState) (m : F64) (band : List Byte)
            (old fed : Resonator), r.vec = some vec → (usedSignals s false).Nodup → key ∈ usedSignals s false → key < 4096 →
          key / 1024 = n.val → b ∈ signalBands s key → rk = key * 64 + b → band = bandRecord s false b → l = field band 2 2 → 0 < l →
          old = s.resonator rk → s.signalValue key vec = (usable, x, q, st) →
          m = (match st.m with
            | some y => y.add ((alphaOf (field (signalRecord s key) 24 2) r.rate).mul (x.to64.sub y))
            | none => x.to64) →
          fed = old.feed (betaOf band r.rate) r.k (pincOf band r.rate) (x.to64.sub m).to32 →
          Reaches (.interAreaUpdate n) s (fun t => nth t.tr.toSpectro n.val [] = rest ∧
            (n.val < s.spec.sent.length → n.val < s.tr.lanes.length → (s.lane n.val).tasks = [] → (s.lane n.val).work = [] →
              s.hasCredit (4 + n.val) .alarm = true →
              ∃ c : Contribution, nth t.spec.sent n.val [] = nth s.spec.sent n.val [] ++ [c] ∧ c.loc = false ∧ c.update = r.k) ∧
            (usable = true → (t.resonator rk).zRe = fed.zRe ∧ (t.resonator rk).zIm = fed.zIm ∧ (t.resonator rk).staleRun = 0 ∧
              (t.resonator rk).est = ((fed.push true q l).estimate true l r.rate (f0eOf band r.rate)).est) ∧
            (usable = false → old.staleRun + 1 < 2 * l → (t.resonator rk).zRe = old.zRe ∧ (t.resonator rk).zIm = old.zIm ∧
              (t.resonator rk).staleRun = old.staleRun + 1 ∧ (t.resonator rk).window = (none :: old.window).take l) ∧
            (usable = false → 2 * l ≤ old.staleRun + 1 → (t.resonator rk).zRe = ⟨0⟩ ∧ (t.resonator rk).zIm = ⟨0⟩ ∧
              (t.resonator rk).staleRun = 0 ∧ (t.resonator rk).window = [] ∧ (t.resonator rk).pd = false ∧
              (t.resonator rk).gr = false))) ∧
        (∀ key, nth s.spec.resets n.val [] = [key] → key < 4096 → (∀ k, k < 4 → k ≠ n.val → nth s.spec.resets k [] = []) →
          s.spec.resets.length = 4 → s.num 0x6005 2 = 1 → Reaches (.interAreaUpdate n) s (Outcome 0x6005 (s.num 0x6005 6) 0 []))))) ∧
  (∀ (n : Fin 4) (s : State), s.settled →
    (nth s.spec.blocks n.val [] = [] → Does (.localBlockReceive n) s [] [] [] (fun _ => True)) ∧
    (∀ (blk : LocalBlock) (rest : List LocalBlock), nth s.spec.blocks n.val [] = blk :: rest →
      (s.laneRuns n.val = false → Does (.localBlockReceive n) s [] [] [] (fun _ => True)) ∧
      (s.flag 0x6000 2 = false → s.laneRuns n.val = true →
        Leaves (.localBlockReceive n) s [.spec, .tr] (taskRegisters n.val) (fun t => nth t.spec.blocks n.val [] = rest)) ∧
      (s.flag 0x6000 2 = true → s.laneRuns n.val = true → Reaches (.localBlockReceive n) s (fun t =>
        nth t.spec.blocks n.val [] = rest ∧ t.spec.merges = s.spec.merges ∧
        (n.val < s.spec.sent.length → n.val < s.tr.lanes.length → (s.lane n.val).tasks = [] → (s.lane n.val).work = [] →
          s.hasCredit (4 + n.val) .alarm = true → ∃ c : Contribution, nth t.spec.sent n.val [] = nth s.spec.sent n.val [] ++ [c] ∧ c.loc = true ∧
          c.update = blk.lastJ) ∧
        (∀ key b rk l, blk.rows = none → 7 ≤ blk.lastJ → (nth s.spec.resets n.val []).all (fun y => decide (y < 0x8000)) = true →
          (usedSignals s true).Nodup → key ∈ usedSignals s true → signalLane key = n.val → 4096 ≤ key → b ∈ signalBands s key →
          rk = key * 64 + b → l = field (bandRecord s true b) 2 2 → (s.resonator rk).staleRun + 8 < 2 * l →
          (t.resonator rk).zRe = (s.resonator rk).zRe ∧ (t.resonator rk).zIm = (s.resonator rk).zIm ∧
          (t.resonator rk).staleRun = (s.resonator rk).staleRun + 8 ∧
          (t.resonator rk).window = (none :: (s.resonator rk).window).take l))))) ∧
  (∀ (r : Req) (x : Session) (target : Nat) (s : State), s.settled → Commands s r x 0x6000 0x0D 0x6005 →
    (s.flag 0x6000 2 = false → (target < 4096 ∨ target = 0xFFFF) →
      Serves (.spectroResetCmd r target) s r x 0x0A (beBytes 4 (s.nextSeq 0x6005)) id [] (outcomeRegisters 0x6005) []
        (Outcome 0x6005 (s.nextSeq 0x6005) 3 [])) ∧
    (s.flag 0x6000 2 = true → target < 4096 → s.laneLive (target / 1024) = true → s.spec.resets.length = 4 →
      Serves (.spectroResetCmd r target) s r x 0x0A (beBytes 4 (s.nextSeq 0x6005)) id [.spec] (busyRegisters 0x6005) [] (fun t =>
        Busy 0x6005 s t ∧ nth t.spec.resets (target / 1024) [] = nth s.spec.resets (target / 1024) [] ++ [target])))

/-- Band merges and mode shapes (R276–R280, R284, R285): a live lane's contribution counts in the open merge of its update unless the close
has passed; a merge that is over is closed: counted, its summaries written from all contributions, every change of a band alarm delivered
to the router in one delivery, and a capture begun with an alarm episode; a live lane that has missed it counts in LANE_LATE; SHAPE_ANSWER writes the
next record, with an entry of each resonator that still holds the update, and counts the others. -/
def Obligations.BandsMergeAndCaptureShapes : Prop :=
  (∀ (n : Fin 4) (c : Contribution) (rest : List Contribution) (s : State), s.settled → nth s.spec.sent n.val [] = c :: rest →
    (s.laneLive n.val = false → Does (.bandContribution n) s [.spec] [] [] (fun t => nth t.spec.sent n.val [] = rest ∧
      t.spec.merges = s.spec.merges)) ∧
    (s.laneLive n.val = true → Does (.bandContribution n) s [.spec] [] [] (fun t => nth t.spec.sent n.val [] = rest ∧
      ∀ m ∈ s.spec.merges, (m.loc = c.loc → m.update = c.update → s.raw ≤ m.closeTick →
        { m with parts := insertKey n.val c m.parts } ∈ t.spec.merges) ∧
        (m.loc ≠ c.loc ∨ m.update ≠ c.update ∨ m.closeTick < s.raw → m ∈ t.spec.merges)))) ∧
  (∀ (n : Fin 4) (s : State), s.settled → nth s.spec.sent n.val [] = [] → Does (.bandContribution n) s [] [] [] (fun _ => True)) ∧
  (∀ (m : BandMerge) (rest : List BandMerge) (s : State), s.settled → s.spec.merges = m :: rest →
    (s.mergeOver m = true → Reaches .bandMergeClose s (fun t => t.spec.merges = rest ∧
      (∀ sub, sub = (if m.loc then 4 else 3) → t.num 0x6000 sub = State.countUp 64 (s.num 0x6000 sub) 1) ∧
      (∀ n, s.liveLanes.filter (fun k => (lookup k m.parts).isNone) = [n] → t.num 0x6000 6 = State.countUp 32 (s.num 0x6000 6) 1) ∧
      (s.liveLanes.all (fun k => (lookup k m.parts).isSome) = true → t.num 0x6000 6 = s.num 0x6000 6 ∧
        ∀ (b elem old new : Nat) (share : BandShare), b < (if m.loc then 64 else 32) → elem = (if m.loc then 32 else 0) + b →
          share = State.mergeShares (s.liveLanes.filterMap (fun k => (lookup k m.parts).bind (fun c => lookup b c.bands))) →
          old = field (s.elem 0x6011 1 elem) 6 1 → new = (if 0 < share.pd then 1 else 0) + (if 0 < share.gr then 2 else 0) →
          t.elem 0x6011 1 elem = State.bandSummaryBytes share m.update ∧ field (t.elem 0x6011 1 elem) 6 1 = new ∧
          (∀ a, a < 2 → old.testBit a ≠ new.testBit a → ∃ batch, t.alr.batches = s.alr.batches ++ [batch] ∧
            (State.bandAlarm m.loc b a, new.testBit a) ∈ batch) ∧
          (old = 0 → new ≠ 0 → ∃ c ∈ t.spec.captures, c.loc = m.loc ∧ c.band = b ∧ c.update = m.update ∧ c.time = m.time ∧
            c.again = false ∧ c.alarm = new)))) ∧
    (s.mergeOver m = false → rest = [] → Does .bandMergeClose s [] [] [] (fun _ => True))) ∧
  (∀ s : State, s.settled → s.spec.captures = [] → Does .shapeAnswer s [] [] [] (fun _ => True)) ∧
  (∀ (c : Capture) (rest : List Capture) (keys : List Nat) (number : Nat) (s : State), s.settled → s.spec.captures = c :: rest →
    keys = (usedSignals s c.loc).filter (fun k => (signalBands s k).contains c.band) → number = s.num 0x6012 1 →
    Does .shapeAnswer s [.spec] [(0x6000, 8), (0x6012, 1)] [73] (fun t => t.spec.captures = rest ∧
      t.num 0x6012 1 = (number + 1) % 4294967296 ∧
      t.num 0x6000 8 = State.countUp 32 (s.num 0x6000 8) (keys.filter (fun k => (s.shapeEntry c k).isNone)).length ∧
      ∃ y : ShapeRecord, lookup (number % 64) t.spec.shapes = some y ∧ y.number = number ∧
        y.header.take 20 = beBytes 8 c.update ++ etBytes c.time ∧ field y.header 26 2 = keys.length % 65536 ∧
        y.entries.length = (keys.filter (fun k => (s.shapeEntry c k).isSome)).length))

/-! ## Horizon and the alarm router -/

/-- Horizon and loss of mains (R286–R299, R308, R309, R475): a transit without values only clears the previous angles; an evaluated one
counts, moves every bus's U_RUN, excludes, holds or evaluates every tie, forms the islands, writes one record for a new or a vanished id,
and delivers the five Horizon alarms; an unblocked half cycle that meets the condition trips its bay, with TRIPS, LOSS_OF_MAINS and the
alarm at the rise; HOLD after the condition was last met the alarm returns to 0. -/
def Obligations.HorizonFollowsTiesAndIslands : Prop :=
  (∀ s : State, s.settled → s.tr.toHorizon = [] → Does .horizonEvaluation s [] [] [] (fun _ => True)) ∧
  (∀ (r : Released) (rest : List Released) (s : State), s.settled → s.tr.toHorizon = r :: rest →
    (s.flag 0x6100 2 = false → Does .horizonEvaluation s [.tr] [] [] (fun t => t.tr.toHorizon = rest)) ∧
    (s.flag 0x6100 2 = true → r.vec = none → Does .horizonEvaluation s [.tr, .hor] [] [] (fun t => t.tr.toHorizon = rest ∧
      t.hor.islands = s.hor.islands ∧ t.hor.uRuns = s.hor.uRuns ∧ t.hor.ties = s.hor.ties.map (fun e => (e.1, { e.2 with prevSet := false })))) ∧
    (∀ vec, s.flag 0x6100 2 = true → r.vec = some vec → s.hor.mirrored = none → s.enabledTies.Nodup → Reaches .horizonEvaluation s (fun t =>
      t.tr.toHorizon = rest ∧ t.num 0x6100 0x0A = r.k ∧ t.num 0x6100 6 = State.countUp 64 (s.num 0x6100 6) 1 ∧
      t.num 0x6100 4 = (t.hor.islands.filter (fun e => e.1 = e.2)).length ∧ t.hor.islands = t.islandsOf ∧ t.hor.fresh = false ∧
      (∀ b ∈ s.enabledBuses, t.uRun b = if s.busUsable vec b then 0 else min 65535 (s.uRun b + 1)) ∧
      (∀ n ∈ s.enabledTies, ∀ i j : Nat, i = s.busI n → j = s.busJ n →
        (t.busState i = 3 ∨ t.busState j = 3 → (t.tie n).state = 3 ∧ (t.tie n).holding = false ∧
          (t.tie n).last = if (s.tie n).state = 3 then (s.tie n).last else (s.tie n).state) ∧
        (t.busState i ≠ 3 → t.busState j ≠ 3 → t.busState i = 2 ∨ t.busState j = 2 → (t.tie n).holding = true ∧
          (t.tie n).state = if (s.tie n).state = 3 then (s.tie n).last else (s.tie n).state) ∧
        (i ∈ s.enabledBuses → j ∈ s.enabledBuses → i < 512 → j < 512 → s.busUsable vec i = true → s.busUsable vec j = true →
          s.uRun i = 0 → s.uRun j = 0 → ∀ val : Nat → Nat → F64,
          val = (fun b at_ => (vectorEntry vec (field (s.busRecord b) at_ 2)).value.to64) →
          t.tie n = ((s.tie n).included.evaluate (s.tieRecord n) r.rate ((val i 0).sub (val j 0)) ((val i 2).sub (val j 2)).wrap).1)) ∧
      (∀ formed merged : List Nat, formed = (if s.hor.fresh then [] else State.idsNotIn t.hor.islands s.hor.islands) →
        merged = (if s.hor.fresh then [] else State.idsNotIn s.hor.islands t.hor.islands) →
        (∃ slips : Bool, t.alr.batches = s.alr.batches ++ [[(192, decide (s.c 0x6100 3 < t.num 0x6100 4)), (193, !formed.isEmpty),
          (194, !merged.isEmpty), (195, slips), (196, s.enabledBuses.any (fun b => t.busState b = 3))]]) ∧
        (formed = [] → merged = [] → t.num 0x6105 1 = s.num 0x6105 1) ∧
        (∀ id kind, (formed = [id] ∧ merged = [] ∧ kind = 1) ∨ (formed = [] ∧ merged = [id] ∧ kind = 2) →
          t.num 0x6105 1 = (s.num 0x6105 1 + 1) % 4294967296 ∧
          t.num 0x6100 (7 + kind) = State.countUp 32 (s.num 0x6100 (7 + kind)) 1 ∧
          ∀ y, y = t.elem 0x6105 2 (s.num 0x6105 1 % 64) → y.take 20 = beBytes 8 r.k ++ etBytes r.tk ∧ field y 20 1 = kind ∧
            field y 22 2 = id % 65536 ∧ field y 26 2 = t.num 0x6100 4 % 65536))))) ∧
  (∀ (bay : Fin 8) (i h : Nat) (s : State), s.settled → i = 0x6110 + bay.val → h = (s.lomBay bay.val).nextH → bay.val < s.lom.length →
    (s.cB i 1 = false ∨ s.chainOn = false ∨ s.loc.nextTracked < 128 * h → Does (.lomHalfCycle bay) s [] [] [] (fun _ => True)) ∧
    (∀ (v1 : Cplx) (psis freqs : List F64) (f vs rc : F64) (blocked byVs byRocof trips : Bool) (run : Nat), s.cB i 1 = true →
      s.chainOn = true → 128 * h ≤ s.loc.nextTracked → s.subPhasor bay.val false ((128 * h : Nat) - 256) = some v1 →
      psis = (argOf v1 :: (s.lomBay bay.val).psis).take 3 → State.lomFreq s.loc.fEst psis = some f →
      freqs = (f :: (s.lomBay bay.val).freqs).take 3 → State.lomVs psis = some vs → State.lomRocof s.loc.fEst freqs = some rc →
      blocked = (s.lomFlagged bay.val h || s.lomLow bay.val v1) →
      run = (if blocked then (s.lomBay bay.val).rocofRun
        else if (s.cF32 i 3).to64.le rc.abs then (s.lomBay bay.val).rocofRun + 1 else 0) →
      byVs = (!blocked && (s.cF32 i 2).to64.le vs.abs) → byRocof = (!blocked && decide (s.c i 4 ≤ run)) →
      trips = ((byVs || byRocof) && !(s.lomBay bay.val).active) →
      Does (.lomHalfCycle bay) s [.lom, .alr] [(i, 7), (i, 8), (i, 9), (i, 0x0A), (i, 0x0B), (i, 0x0C)] (if trips then [78] else []) (fun t =>
        (t.lomBay bay.val).nextH = h + 1 ∧ t.num i 8 = vs.to32.nat ∧ t.num i 9 = rc.to32.nat ∧ (t.lomBay bay.val).rocofRun = run ∧
        t.num i 7 = (if (s.lomBay bay.val).active || trips then 2 else if blocked then 1 else 0) ∧
        (t.lomBay bay.val).lastMet = (if (byVs || byRocof) = true then s.raw else (s.lomBay bay.val).lastMet) ∧
        (if trips then t.num i 0x0A = State.countUp 32 (s.num i 0x0A) 1 ∧ t.alr.batches = s.alr.batches ++ [[(200 + bay.val, true)]] ∧
          t.num i 0x0C = (if byVs then 1 else 0) + (if byRocof then 2 else 0)
         else t.num i 0x0A = s.num i 0x0A ∧ t.num i 0x0B = s.num i 0x0B ∧ t.num i 0x0C = s.num i 0x0C ∧ t.alr = s.alr))) ∧
    ((s.lomBay bay.val).active = true → (s.lomBay bay.val).lastMet + s.c i 6 * tickMs ≤ s.raw →
      Does (.lomHoldExpiry bay) s [.lom, .alr] [(i, 7)] [] (fun t => (t.lomBay bay.val).active = false ∧
        t.num i 7 = (if (s.lomBay bay.val).blocked then 1 else 0) ∧ t.alr.batches = s.alr.batches ++ [[(200 + bay.val, false)]])) ∧
    ((s.lomBay bay.val).active = false ∨ s.raw < (s.lomBay bay.val).lastMet + s.c i 6 * tickMs →
      Does (.lomHoldExpiry bay) s [] [] [] (fun _ => True)))

/-- The alarm router (R301–R305, R310, R311): a delivered change sets the alarm's state and counts; its routed state is 1 while the state is,
for MIN_ON after a rise, and while it is latched; each change of it raises ALARM_ROUTED where the route asks for it, and its rise starts
the pulse of a PULSE pin; MIN_ON ends; ACK clears the latch of an alarm whose state is 0; a pulse ends; FORCE overrides a pin. -/
def Obligations.AlarmRouterRoutesAndDrives : Prop :=
  (∀ s : State, s.settled → s.alr.batches = [] → Does .alarmDelivery s [] [] [] (fun _ => True)) ∧
  (∀ (a : Nat) (v : Bool) (rest : List (List (Nat × Bool))) (route : List Byte) (s : State), s.settled → s.alr.batches = [(a, v)] :: rest →
    State.alarmExists a = true → route = s.cElem 0x6200 1 a →
    (s.alr.state.testBit a = v → Reaches .alarmDelivery s (fun t => t.alr.batches = rest ∧ t.alr.state = s.alr.state ∧
      t.num 0x6200 6 = s.num 0x6200 6)) ∧
    (s.alr.state.testBit a = false → v = true → Reaches .alarmDelivery s (fun t => t.alr.batches = rest ∧ t.alr.state.testBit a = true ∧
      t.alr.routed.testBit a = true ∧ t.num 0x6200 6 = State.countUp 64 (s.num 0x6200 6) 1 ∧
      t.alr.latched.testBit a = (s.alr.latched.testBit a || (field route 0 1).testBit 0) ∧
      (field route 8 2 ≠ 0 → lookup a t.alr.minOn = some (s.raw + field route 8 2 * tickMs)) ∧
      (∀ n, n < 4 → n < s.alr.pins.length → s.alr.routed.testBit a = false → (field route 1 1).testBit n = true → s.c (0x6201 + n) 1 = 2 →
        nth t.alr.pins n ⟨false, 0⟩ = ⟨true, s.raw + s.c (0x6201 + n) 3 * tickUs⟩) ∧
      beNat (t.elem 0xA801 2 79) = countAfter (beNat (s.elem 0xA801 2 79))
        (if s.alr.routed.testBit a = false ∧ (field route 0 1).testBit 1 = true then 1 else 0))) ∧
    (s.alr.state.testBit a = true → v = false → Reaches .alarmDelivery s (fun t => t.alr.batches = rest ∧ t.alr.state.testBit a = false ∧
      t.num 0x6200 6 = State.countUp 64 (s.num 0x6200 6) 1 ∧ t.alr.latched = s.alr.latched ∧
      t.alr.routed.testBit a = ((lookup a s.alr.minOn).isSome || s.alr.latched.testBit a)))) ∧
  (∀ (a : Fin 256) (s : State), s.settled →
    (∀ t0 now, lookup a.val s.alr.minOn = some t0 → t0 ≤ s.raw → now = (s.alr.state.testBit a.val || s.alr.latched.testBit a.val) →
      Does (.minOnExpiry a) s [.alr] [] (if now ≠ s.alr.routed.testBit a.val ∧ (s.routeFlags a.val).testBit 1 = true then [79] else [])
        (fun t => lookup a.val t.alr.minOn = none ∧ t.alr.routed.testBit a.val = now ∧ t.alr.state = s.alr.state)) ∧
    ((∀ t0, lookup a.val s.alr.minOn = some t0 → s.raw < t0) → Does (.minOnExpiry a) s [] [] [] (fun _ => True)) ∧
    (∀ (r : Req) (x : Session), Writes s r x 0x6200 4 →
      (s.alr.state.testBit a.val = true → Serves (.alarmAck r a.val) s r x 0x02 [] id [] [] [] (fun _ => True)) ∧
      (∀ now, s.alr.state.testBit a.val = false → s.alr.latched.testBit a.val = true → now = (lookup a.val s.alr.minOn).isSome →
        Serves (.alarmAck r a.val) s r x 0x02 [] id [.alr] []
          (if now ≠ s.alr.routed.testBit a.val ∧ (s.routeFlags a.val).testBit 1 = true then [79] else []) (fun t =>
            t.alr.latched.testBit a.val = false ∧ t.alr.routed.testBit a.val = now)))) ∧
  (∀ (r : Req) (x : Session) (s : State), s.settled → Writes s r x 0x6200 4 → Reaches (.alarmAck r 0xFFFF) s (fun t =>
    ∀ a, a < 256 → t.alr.latched.testBit a = (s.alr.latched.testBit a && s.alr.state.testBit a))) ∧
  (∀ (n : Fin 4) (s : State), s.settled →
    (n.val < s.alr.pins.length → (nth s.alr.pins n.val ⟨false, 0⟩).pulsing = true → (nth s.alr.pins n.val ⟨false, 0⟩).endTick ≤ s.raw →
      Does (.almPulseEnd n) s [.alr] [] [] (fun t => (nth t.alr.pins n.val ⟨false, 0⟩).pulsing = false)) ∧
    ((nth s.alr.pins n.val ⟨false, 0⟩).pulsing = false ∨ s.raw < (nth s.alr.pins n.val ⟨false, 0⟩).endTick →
      Does (.almPulseEnd n) s [] [] [] (fun _ => True)) ∧
    (∀ (r : Req) (x : Session) (v : Nat), Writes s r x (0x6201 + n.val) 4 → v ≤ 2 →
      Serves (.almForce r n v) s r x 0x02 [] id [] [(0x6201 + n.val, 4)] [] (fun t => t.num (0x6201 + n.val) 4 = v ∧
        (s.c (0x6201 + n.val) 1 = 0 ∨ s.acting = false ∨ s.pinsReleased = true → t.num (0x6201 + n.val) 5 = 2) ∧
        (s.c (0x6201 + n.val) 1 ≠ 0 → s.acting = true → s.pinsReleased = false → v ≠ 0 → t.num (0x6201 + n.val) 5 = v - 1))))

/-! ## Concentrated output streams and GOOSE -/

/-- Output streams (R312, R316, R320, R329, R330): a data frame has SYNC, its own size, the stream's IDCODE and a valid CHK; a connection is
accepted below 16 on a port of the stream's destinations, else refused; on a stream with a connection the header, CFG-1, CFG-2 and CFG-3
commands are each answered with their frame on the oldest one (log entry 88), data is turned off and on under COMMANDED, and any other
command word is counted; without a connection nothing is done. -/
def Obligations.OutputStreamsAnswerCommands : Prop :=
  (∀ (n : Nat) (taps : List Tap) (now : Released) (frame : List Byte) (s : State), frame = s.dataFrame n taps now →
    field frame 0 2 = 0xAA02 ∧ field frame 2 2 = frame.length % 65536 ∧ field frame 4 2 = s.c (State.egIndex n) 2 % 65536 ∧
    field frame 6 4 = (s.socFrac now.tk (s.c (State.egIndex n) 5)).1 % 4294967296 ∧ 16 ≤ frame.length ∧
    field frame (frame.length - 2) 2 = crc16 (frame.take (frame.length - 2))) ∧
  (∀ (n : Fin 16) (i : Nat) (s : State), s.settled → i = 0x5800 + n.val →
    (∀ p : Fin 6, s.coreRuns = true → s.cB i 1 = true → (s.egressPorts n.val).contains p.val = true → s.egr.conns.length < 16 →
      Does (.egressTcpConnect n p) s [.egr] [] [] (fun t => t.egr.conns = s.egr.conns ++ [(n.val, p.val)])) ∧
    (∀ p : Fin 6, s.cB i 1 = false ∨ (s.egressPorts n.val).contains p.val = false ∨ 16 ≤ s.egr.conns.length →
      Does (.egressTcpConnect n p) s [] [] [] (fun _ => True)) ∧
    (s.egressListens n.val = true → s.c i 0x0C = 1 → n.val < s.egr.outs.length →
      Does (.cmdDataOff n) s [.egr] [] [] (fun t => (t.egressOut n.val).on = false ∧
        t.egressState n.val = if s.acting then 2 else 3) ∧
      Does (.cmdDataOn n) s [.egr] [] [] (fun t => (t.egressOut n.val).on = true ∧
        t.egressState n.val = if s.acting then 1 else 3)) ∧
    (s.egressListens n.val = false ∨ s.c i 0x0C = 0 →
      Does (.cmdDataOff n) s [] [] [] (fun _ => True) ∧ Does (.cmdDataOn n) s [] [] [] (fun _ => True)) ∧
    (∀ p, s.egressListens n.val = true → (s.egr.conns.find? (fun c => c.1 = n.val)).map (·.2) = some p → s.prpPairOf p = none →
      s.portUp p = true → s.pausing p = false →
      Does (.cmdSendHeader n) s [.ing, .wire] [(pCnt p, 0x16)] [] (fun t =>
        (∃ l, t.wire = s.wire ++ .tcp p none none n.val (s.headerFrame n.val) :: l) ∧
        t.num (pCnt p) 0x16 = State.countUp 64 (s.num (pCnt p) 0x16) 1) ∧
      Does (.cmdSendCfg1 n) s [.ing, .wire] [(pCnt p, 0x16)] [] (fun t =>
        ∃ l, t.wire = s.wire ++ .tcp p none none n.val (s.cfg2Frame n.val 0xAA22) :: l) ∧
      Does (.cmdSendCfg2 n) s [.ing, .wire] [(pCnt p, 0x16)] [] (fun t =>
        ∃ l, t.wire = s.wire ++ .tcp p none none n.val (s.cfg2Frame n.val 0xAA32) :: l) ∧
      Does (.cmdSendCfg3 n) s [.ing, .wire] [(pCnt p, 0x16)] [] (fun t =>
        ∃ l, t.wire = s.wire ++ (s.cfg3Frames n.val).map (.tcp p none none n.val) ++ l)) ∧
    (s.egressListens n.val = true →
      (∀ cmd, cmd = 0 ∨ 6 < cmd → Does (.badCommand n cmd) s [] [(i, 0x15)] [] (fun t =>
        t.num i 0x15 = State.countUp 32 (s.num i 0x15) 1))) ∧
    (s.egressListens n.val = false → ∀ c : Instr, c = .cmdSendHeader n ∨ c = .cmdSendCfg1 n ∨ c = .cmdSendCfg2 n ∨ c = .cmdSendCfg3 n ∨
      (∃ cmd, c = .badCommand n cmd) → Does c s [] [] [] (fun _ => True)))

/-- GOOSE (R323, R324, R326, R327, R333, R334): on an acting unit each sampling moment that finds a change takes the next stNum (the
first moment after a start keeps 1) and sqNum 0, and the message that follows carries them; retransmissions count sqNum, past 0xFFFF_FFFF
from 1, at intervals that double from T1 up to T0; a matching frame is discarded when simulated against ACCEPT_SIM, counted when it is a
duplicate, a MISMATCH when its form differs, with SOURCE_ERROR in every member, and otherwise accepted with its values, which ends STALE
when it came past the expiry; at its expiry a subscription is STALE. -/
def Obligations.GooseIsPublishedAndSubscribed : Prop :=
  (∀ (p : Fin 16) (x : GoosePub) (rec_ : List Byte) (port : Nat) (s : State), s.settled → x = s.goosePub p.val → p.val < s.egr.pubs.length →
    rec_ = s.pubRecord p.val → port = field rec_ 1 1 →
    (∀ y : GoosePub, y = (s.samplePub p.val).goosePub p.val → s.pubOn p.val = true →
      y.sampled = true ∧ y.bools = (s.boolMembers p.val).map (fun e => truth e.1) ∧
      y.quals = (s.boolMembers p.val).map (·.2) ++ (s.floatMembers p.val).map (·.2) ∧
      (x.sampled = true → s.acting = true → x.bools ≠ y.bools ∨ x.quals ≠ y.quals →
        y.stNum = State.countUp 32 x.stNum 1 ∧ y.sqNum = 0 ∧ y.changeEt = s.et ∧ y.changed = true) ∧
      (x.sampled = false ∨ s.acting = false ∨ x.bools = y.bools ∧ x.quals = y.quals →
        y.stNum = x.stNum ∧ y.sqNum = x.sqNum ∧ y.changed = x.changed)) ∧
    (∀ t1 : Nat, s.gooseOn p.val = true → x.changed = true → x.sampled = true → t1 = field rec_ 20 2 → Leaves (.gooseStateChange p) s [.egr, .ing, .wire]
        ([(0x5900, 1), (pCnt port, 0x16), (pCnt (port / 2 * 2), 0x16), (pCnt (port / 2 * 2 + 1), 0x16)] ++ counterRegisters 0) (fun t =>
          (t.goosePub p.val).stNum = x.stNum ∧ (t.goosePub p.val).sqNum = x.sqNum ∧ (t.goosePub p.val).changed = false ∧
          (t.goosePub p.val).interval = t1 ∧ (t.goosePub p.val).next = some (s.raw + t1 * tickMs) ∧
          t.num 0x5900 1 = State.countUp 64 (s.num 0x5900 1) 1 ∧
          (s.prpPairOf port = none → s.portUp port = true → s.pausing port = false →
            ∃ (m : GooseMsg) (tq : Nat) (l : List Output), t.wire = s.wire ++ .goose port (field rec_ 10 2) (field rec_ 12 1) none p.val m
                ((x.changeEt : Int) - s.utcAt x.changeEt * sec) tq :: l ∧ m.stNum = x.stNum ∧ m.sqNum = x.sqNum ∧
              m.timeAllowedToLive = 2 * t1 ∧ m.simulation = false ∧ m.ndsCom = false ∧ m.appId = field rec_ 2 2 ∧
              m.dstMac = slice rec_ 4 6 ∧ m.srcMac = macOf port ∧ m.confRev = field rec_ 16 4))) ∧
    (s.gooseOn p.val = false ∨ x.changed = false ∨ x.sampled = false → Does (.gooseStateChange p) s [] [] [] (fun _ => True)) ∧
    (∀ (t0 sq next : Nat), s.gooseOn p.val = true → x.next = some t0 → t0 ≤ s.raw → x.changed = false →
      sq = (if x.sqNum = 4294967295 then 1 else x.sqNum + 1) → next = min (2 * x.interval) (field rec_ 22 2) →
      Leaves (.gooseRetransmit p) s [.egr, .ing, .wire]
        ([(0x5900, 1), (pCnt port, 0x16), (pCnt (port / 2 * 2), 0x16), (pCnt (port / 2 * 2 + 1), 0x16)] ++ counterRegisters 0) (fun t =>
          (t.goosePub p.val).stNum = x.stNum ∧ (t.goosePub p.val).sqNum = sq ∧ (t.goosePub p.val).interval = next ∧
          (t.goosePub p.val).next = some (s.raw + next * tickMs) ∧ t.num 0x5900 1 = State.countUp 64 (s.num 0x5900 1) 1)) ∧
    (s.gooseOn p.val = false ∨ x.next = none ∨ x.changed = true → Does (.gooseRetransmit p) s [] [] [] (fun _ => True))) ∧
  (∀ (p : Fin 6) (m : GooseMsg) (tdc : Nat) (s : State), s.settled →
    (s.portOn p.val = false ∨ s.inRunning = false ∨ s.power ≠ 0 ∨ (List.range 64).find? (s.subMatches p.val m) = none →
      Does (.gooseFrameReceive p ⟨m, tdc⟩) s [] [] [] (fun _ => True)) ∧
    (∀ (q : Nat) (rec_ st : List Byte) (wrong : Bool), s.portOn p.val = true → s.inRunning = true → s.power = 0 →
      (List.range 64).find? (s.subMatches p.val m) = some q → rec_ = s.subRecord q → st = s.subState q →
      wrong = (decide (trimName (s.cElem 0x5904 1 (3 * q + 1)) ≠ m.datSet) || decide (trimName (s.cElem 0x5904 1 (3 * q + 2)) ≠ m.goId) ||
        decide (field rec_ 16 4 ≠ m.confRev) || decide (m.bools.length ≠ field rec_ 20 1) || decide (m.floats.length ≠ field rec_ 21 1) ||
        !m.wellTyped || m.ndsCom) →
      (m.simulation = true → (field rec_ 0 1).testBit 1 = false → Does (.gooseFrameReceive p ⟨m, tdc⟩) s [] [] [] (fun _ => True)) ∧
      (m.simulation = false ∨ (field rec_ 0 1).testBit 1 = true →
        (field st 28 4 ≠ 0 → field st 4 4 = m.stNum → State.sqNewer (field st 8 4) m.sqNum = false →
          Does (.gooseFrameReceive p ⟨m, tdc⟩) s [] [(0x5900, 3)] [] (fun t => t.num 0x5900 3 = State.countUp 32 (s.num 0x5900 3) 1)) ∧
        (field st 28 4 = 0 ∨ field st 4 4 ≠ m.stNum ∨ State.sqNewer (field st 8 4) m.sqNum = true →
          (wrong = true → Does (.gooseFrameReceive p ⟨m, tdc⟩) s [] [(0x5900, 4), (0x5905, 1), (0x5906, 1)]
            (if field st 0 1 = 4 then [] else [85]) (fun t => t.num 0x5900 4 = State.countUp 32 (s.num 0x5900 4) 1 ∧
              field (t.subState q) 0 1 = 4 ∧ ∀ k ∈ s.subMembers q,
              (decodeEntry (t.elem 0x5906 1 (48 * q + k))).value = (decodeEntry (s.elem 0x5906 1 (48 * q + k))).value ∧
              qBit (decodeEntry (t.elem 0x5906 1 (48 * q + k))).quality qSOURCE_ERROR = true)) ∧
          (∀ arrival, wrong = false → arrival = s.rxStamp p.val tdc → Leaves (.gooseFrameReceive p ⟨m, tdc⟩) s [.egr]
              [(0x5900, 2), (0x5900, 5), (0x5905, 1), (0x5906, 1)] (fun t =>
            (∀ due, lookup q s.egr.expiry = some due → due ≤ arrival →
              Raised [84] s t ∧ t.num 0x5900 5 = State.countUp 32 (s.num 0x5900 5) 1) ∧
            ((∀ due, lookup q s.egr.expiry = some due → arrival < due) → Raised [] s t ∧ t.num 0x5900 5 = s.num 0x5900 5) ∧
            t.num 0x5900 2 = State.countUp 64 (s.num 0x5900 2) 1 ∧
            (t.subState q).take 12 = [2, 0, 0, 0] ++ beBytes 4 m.stNum ++ beBytes 4 m.sqNum ∧
            lookup q t.egr.expiry = some (arrival + m.timeAllowedToLive * ms) ∧
            (∀ k v, k < 32 → m.bools[k]? = some v →
              t.elem 0x5906 1 (48 * q + k) = encodeEntry ⟨f32OfBool v.1, qualityIn v.2 m.simulation, 0⟩) ∧
            (∀ k v, k < 16 → m.floats[k]? = some v →
              t.elem 0x5906 1 (48 * q + (32 + k)) = encodeEntry ⟨v.1, qualityIn v.2 m.simulation, 0⟩))))))) ∧
  (∀ (q : Fin 64) (s : State), s.settled →
    (∀ t0, lookup q.val s.egr.expiry = some t0 → t0 + 20 * us ≤ s.et → s.subOn q.val = true →
      Does (.gooseTalExpired q) s [.egr] [(0x5900, 5), (0x5905, 1), (0x5906, 1)] [84] (fun t =>
        t.num 0x5900 5 = State.countUp 32 (s.num 0x5900 5) 1 ∧ field (t.subState q.val) 0 1 = 3 ∧ lookup q.val t.egr.expiry = none ∧
        ∀ k ∈ s.subMembers q.val,
          (decodeEntry (t.elem 0x5906 1 (48 * q.val + k))).value = (decodeEntry (s.elem 0x5906 1 (48 * q.val + k))).value ∧
          qBit (decodeEntry (t.elem 0x5906 1 (48 * q.val + k))).quality qSTALE = true)) ∧
    ((∀ t0, lookup q.val s.egr.expiry = some t0 → s.et < t0 + 20 * us) → Does (.gooseTalExpired q) s [] [] [] (fun _ => True)))

/-! ## The Orrery and binary I/O -/

/-- The Orrery's cycle (R335–R340, R349, R352–R357, R365, R368): it starts on a multiple of 125 µs at least 1 ms ahead; at c_m it takes its
snapshot, and the bank switch when one is due; the end of its evaluation counts the cycle, with every block's new state and nothing
published; at the output write the BOs and the published signals take their new values together, unless the evaluation has not ended:
then it stops, with every signal ABSENT and ORRERY_OVERRUN; REENABLE_CMD resumes it from STOPPED alone. -/
def Obligations.OrreryRunsItsCycle : Prop :=
  (∀ s : State, s.settled →
    (s.num 0x7000 2 = 1 → s.orr.starting = true → s.inRunning = true → s.power = 0 →
      Does .orreryStart s [.orr] [(0x7000, 2), (0x7000, 4), (0x7000, 5), (0x7000, 6), (0x7000, 7)] [] (fun t =>
        t.num 0x7000 2 = 2 ∧ t.orr.base = State.next125 (s.et + ms) ∧ t.orr.m = 0 ∧ t.orr.starting = false ∧
        t.num 0x7000 4 = imgId s.image ∧ t.num 0x7000 5 = imgPeriodUs s.image ∧ t.num 0x7000 6 = imgOffset s.image ∧
        t.num 0x7000 7 = imgBlocks s.image)) ∧
    (s.num 0x7000 2 ≠ 1 ∨ s.orr.starting = false ∨ s.inRunning = false ∨ s.power ≠ 0 → Does .orreryStart s [] [] [] (fun _ => True)) ∧
    (s.num 0x7000 2 = 2 → s.orr.phase = .idle → s.cycleStart ≤ s.et → s.isPair = false →
      (s.orr.switchDue = false → s.orr.safeUntil = none → Does .orrerySnapshot s [.orr] [] [] (fun t =>
        t.orr.phase = .evaluating ∧ t.orr.snap = s.takeSnapshot s.image ∧ t.orr.rose = 0 ∧ t.orr.fell = 0)) ∧
      (s.orr.switchDue = true → Reaches .orrerySnapshot s (fun t => t.orr.phase = .evaluating ∧ t.num 0x7000 3 = 1 - s.num 0x7000 3 ∧
        t.num 0x7000 0x0D = State.countUp 32 (s.num 0x7000 0x0D) 1 ∧ t.num 0x7000 0x0E = s.cycleStart ∧ t.orr.switchDue = false ∧
        t.num 0x7000 4 = imgId (nth s.orr.banks (1 - s.num 0x7000 3) []) ∧
        t.num 0x7000 0x0F + t.num 0x7000 0x10 = (imgBlockList (nth s.orr.banks (1 - s.num 0x7000 3) [])).length))) ∧
    (s.num 0x7000 2 ≠ 2 ∨ s.orr.phase ≠ .idle ∨ s.et < s.cycleStart → Does .orrerySnapshot s [] [] [] (fun _ => True)) ∧
    (s.num 0x7000 2 = 2 → s.orr.phase = .evaluating →
      Leaves .orreryEvaluationEnd s [.orr, .wire] ([(0x7000, 8), (0x7000, 0x0A), (0x7000, 0x0B)] ++ counterRegisters 0) (fun t =>
        t.orr.phase = .evaluated ∧ t.orr.blocks = evaluateImage s.image s.orr.snap s.orr.blocks ∧ t.orr.firstCycle = false ∧
        t.num 0x7000 8 = State.countUp 64 (s.num 0x7000 8) 1)) ∧
    (s.num 0x7000 2 ≠ 2 ∨ s.orr.phase ≠ .evaluating → Does .orreryEvaluationEnd s [] [] [] (fun _ => True)) ∧
    (s.num 0x7000 2 = 2 → s.cycleStart + s.num 0x7000 6 * us ≤ s.et →
      (s.orr.phase = .evaluating → Does .orreryOutputWrite s [.orr] [(0x7000, 2), (0x7000, 0x0C), (0x7003, 2)] [80] (fun t =>
        t.num 0x7000 2 = 3 ∧ t.num 0x7000 0x0C = State.countUp 32 (s.num 0x7000 0x0C) 1 ∧ t.orr.phase = .idle ∧
        (∀ i, i < 256 → t.elem 0x7003 2 i = encodeEntry absentPoint) ∧
        ∀ n, n < 16 → s.bosFloat = false → s.cB (0x7100 + n) 1 = true → s.shortOff n = false → t.num (0x7100 + n) 6 = 2)) ∧
      (s.orr.phase = .evaluated → s.isPair = false → s.orr.safeUntil = none → Reaches .orreryOutputWrite s (fun t =>
        t.orr.phase = .idle ∧ t.orr.written = true ∧ t.orr.writeTick = s.raw ∧ (s.orr.realign = false → t.orr.m = s.orr.m + 1) ∧
        (∀ i, i < 256 → t.elem 0x7003 2 i = encodeEntry (nth s.publishedNow i absentPoint)) ∧
        (∀ b ∈ imgBlockList s.image, b.pos < 4096 →
          t.elem 0x7003 1 b.pos = encodeEntry ⟨(s.blockSignal b.pos).1, (s.blockSignal b.pos).2, 0⟩) ∧
        (∀ n, n < 16 → n < s.bos.length → (t.bo n).on = (s.boTarget s.outputBlocks n).1 ∧
          (t.bo n).safe = (s.boTarget s.outputBlocks n).2) ∧
        (s.orr.switched = true → beNat (t.elem 0xA801 2 81) = countAfter (beNat (s.elem 0xA801 2 81)) 1)))) ∧
    (s.num 0x7000 2 ≠ 2 ∨ s.orr.phase = .idle ∨ s.et < s.cycleStart + s.num 0x7000 6 * us →
      Does .orreryOutputWrite s [] [] [] (fun _ => True))) ∧
  (∀ (r : Req) (x : Session) (s : State), s.settled → Commands s r x 0x7000 0x12 0x7002 →
    (s.num 0x7000 2 = 3 → Serves (.reenableCmd r) s r x 0x0A (beBytes 4 (s.nextSeq 0x7002)) id [.orr, .bos]
      ((0x7000, 2) :: outcomeRegisters 0x7002) [] (fun t => Outcome 0x7002 (s.nextSeq 0x7002) 0 [] t ∧ t.num 0x7000 2 = 1 ∧
        t.orr.starting = true ∧ t.orr.blocks = [])) ∧
    (s.num 0x7000 2 ≠ 3 → Serves (.reenableCmd r) s r x 0x0A (beBytes 4 (s.nextSeq 0x7002)) id [] (outcomeRegisters 0x7002) []
      (Outcome 0x7002 (s.nextSeq 0x7002) 3 [])))

/-- Binary outputs and inputs (R359–R364, R366–R368, R522, R523, R550): a short turns an output that is on off, one occurrence of its
qualifier at its rise; it retries 100 ms on, unless LASTING, and a retry that holds ends the condition; the second sample without load
makes the open condition present, the second with load ends it; a band of a BI that has held for DEBOUNCE, over two samples at least, is
accepted with the ET of its first sample: bands 1 and 2 give the contact state, a fault band its WIRING bit and SOURCE_ERROR;
SUP_CLEAR empties the qualifiers. -/
def Obligations.BinaryOutputsAndInputsAreSupervised : Prop :=
  (∀ (n : Fin 16) (i : Nat) (recent : Nat → List Nat) (s : State), s.settled → i = 0x7100 + n.val → n.val < s.bos.length →
    (∀ k, recent k = (s.qualifier (qkey 3 n.val k)).history.filter (fun y => s.raw < y + s.c i 4 * tickMs)) →
    (s.bosFloat = true ∨ s.boCommand n.val = false ∨ s.shortOff n.val = true → Does (.boShortDetect n) s [] [] [] (fun _ => True)) ∧
    (s.bosFloat = false → s.boCommand n.val = true → s.shortOff n.val = false →
      ((s.num i 7).testBit 0 = true → Does (.boShortDetect n) s [.bos] [] [] (fun t => (t.bo n.val).offTick = some s.raw ∧ t.num i 6 = 4)) ∧
      ((s.num i 7).testBit 0 = false → (s.c i 3).testBit 0 = true → s.lasting (qkey 3 n.val 0) = false →
        ((recent 0).length + 1 < s.c i 5 → Does (.boShortDetect n) s [.bos, .ev] [(i, 7), (i, 8), (0xE060, 2), (0xE060, 3)] [] (fun t =>
          t.num i 6 = 4 ∧ t.num i 7 = setBit (s.num i 7) 0 true ∧ t.num i 8 = State.countUp 32 (s.num i 8) 1)) ∧
        (s.c i 5 ≤ (recent 0).length + 1 → Does (.boShortDetect n) s [.bos, .ev] [(i, 7), (0xE060, 2), (0xE060, 4)] [82] (fun t =>
          t.num i 6 = 4 ∧ t.num i 7 = setBit (setBit (s.num i 7) 0 true) 4 true ∧ t.lasting (qkey 3 n.val 0) = true)))) ∧
    (∀ t0, (s.bo n.val).offTick = some t0 → (s.bo n.val).retryTick = none →
      (t0 + 100 * tickMs ≤ s.orr.writeTick → s.boCommand n.val = true → (s.num i 7).testBit 4 = false → s.bosFloat = false →
        Does (.boShortRetry n) s [.bos] [] [] (fun t => (t.bo n.val).retryTick = some s.raw ∧ t.num i 6 ≠ 4)) ∧
      (s.orr.writeTick < t0 + 100 * tickMs ∨ (s.num i 7).testBit 4 = true → Does (.boShortRetry n) s [] [] [] (fun _ => True))) ∧
    (∀ t0, (s.bo n.val).retryTick = some t0 →
      (t0 + 100 * tickMs ≤ s.raw → s.boCommand n.val = true → Does (.boShortRetryHold n) s [.bos] [(i, 7)] [] (fun t =>
        (t.bo n.val).offTick = none ∧ t.num i 7 = setBit (s.num i 7) 0 false)) ∧
      (s.raw < t0 + 100 * tickMs → Does (.boShortRetryHold n) s [] [] [] (fun _ => True))) ∧
    (s.cB i 1 = false ∨ s.bosFloat = true → ∀ l, Does (.boLoadSense n l) s [] [] [] (fun _ => True)) ∧
    (s.cB i 1 = true → s.bosFloat = false → s.isPair = false →
      ((s.bo n.val).noLoad = 0 → Does (.boLoadSense n false) s [.bos] [] [] (fun t => (t.bo n.val).noLoad = 1)) ∧
      (1 ≤ (s.bo n.val).noLoad → (s.num i 7).testBit 1 = false → (s.c i 3).testBit 1 = true → s.lasting (qkey 3 n.val 1) = false →
        (recent 1).length + 1 < s.c i 5 → Does (.boLoadSense n false) s [.bos, .ev] [(i, 7), (i, 8), (0xE060, 2), (0xE060, 3)] [] (fun t =>
          t.num i 7 = setBit (s.num i 7) 1 true ∧ t.num i 8 = State.countUp 32 (s.num i 8) 1)) ∧
      (1 ≤ (s.bo n.val).load → (s.num i 7).testBit 1 = true → Does (.boLoadSense n true) s [.bos] [(i, 7)] [] (fun t =>
        t.num i 7 = setBit (s.num i 7) 1 false))) ∧
    (∀ (r : Req) (x : Session), Writes s r x i 9 → Serves (.supClear r i) s r x 0x02 [] id [.ev] [(i, 7)] [] (fun t =>
      t.num i 7 = setBit (setBit (s.num i 7) 4 false) 5 false ∧ t.lasting (qkey 3 n.val 0) = false ∧
      t.lasting (qkey 3 n.val 1) = false))) ∧
  (∀ (n : Fin 24) (mv : Int) (i band : Nat) (s : State), s.settled → i = 0x7120 + n.val → n.val < s.bis.length →
    band = State.bandOfSample (s.cB i 2) mv (if (s.bi n.val).samples = 0 then s.num i 7 else (s.bi n.val).band) →
    (s.cB i 1 = false ∨ s.power ≠ 0 → Does (.biSample n mv) s [] [] [] (fun _ => True)) ∧
    (s.cB i 1 = true → s.power = 0 → s.boot.inReset = false → 5 ≤ s.stage → s.stage ≠ 15 →
      (band = s.num i 7 → Does (.biSample n mv) s [.bis] [] [] (fun t => (t.bi n.val).samples = 0)) ∧
      (band ≠ s.num i 7 → (s.bi n.val).samples = 0 → Does (.biSample n mv) s [.bis] [] [] (fun t =>
        t.bi n.val = ⟨band, s.et, s.raw, 1⟩)) ∧
      (band ≠ s.num i 7 → 1 ≤ (s.bi n.val).samples → (s.bi n.val).band = band → (s.bi n.val).firstTick + s.c i 4 * tickMs ≤ s.raw →
        Reaches (.biSample n mv) s (fun t => t.num i 7 = band ∧ t.num i 0x0A = (s.bi n.val).firstEt ∧ (t.bi n.val).samples = 0 ∧
          t.num i 0x0B = State.countUp 32 (s.num i 0x0B) 1 ∧
          (band = 1 ∨ band = 2 → t.flag i 8 = ((band == 2) != s.cB i 3) ∧ t.num i 0x0C = s.num i 0x0C / 16 * 16) ∧
          (∀ k, State.wiringKind band = some k → t.num i 8 = s.num i 8 ∧ (t.num i 0x0C).testBit k = true ∧
            qBit (BitVec.ofNat 16 (t.num i 9)) qSOURCE_ERROR = true)))) ∧
    (∀ (r : Req) (x : Session), Writes s r x i 0x0E → Serves (.supClear r i) s r x 0x02 [] id [.ev] [(i, 9), (i, 0x0C)] [] (fun t =>
      t.num i 0x0C = s.num i 0x0C % 16 ∧ ∀ k, k < 3 → t.lasting (qkey 4 n.val k) = false)))

/-! ## The Photometer -/

/-- Cycles of the Photometer (R369–R374, R377, R382–R384): until a bay has the 256 samples of its next cycle nothing is done; then the
cycle is numbered off, and in an enabled bay its amounts are booked into the 80-bit registers, an unusable one's into UNMEASURED alone,
with one PM_ROLLOVER for each VALUE that wraps, LAST_CYCLE is its end, OVERRANGE_CYCLES counts a usable cycle with OVERRANGE, and
UNMEASURING says whether it was unusable; a pending RESET_CMD sets the registers to 0 and, at the last bay, ends DONE with
PM_REGISTERS_RESET; a condition that has held for FAULT_CYCLES becomes present, one occurrence of its qualifier; SUP_CLEAR of a bay
clears the LASTING bits and empties both qualifiers. -/
def Obligations.PhotometerBooksCycles : Prop :=
  (∀ (bay : Fin 8) (vn : List Int) (i c : Nat) (e : Et) (old : List PmRegister) (sp : Span) (s : State), s.settled → i = 0x8000 + bay.val →
    bay.val < s.pm.bays.length → c = (s.pmBay bay.val).nextCycle → e = s.cycleEndEt c → old = (s.pmBay bay.val).registers →
    sp = s.spanOf bay.val c 0 256 →
    (s.cycleReady bay.val = false → Does (.pmCycleEnd bay vn) s [] [] [] (fun _ => True)) ∧
    (s.cycleReady bay.val = true → (s.pmBay bay.val).resumed = false → (s.pmBay bay.val).resetDue = false → s.pm.snap = none →
      (s.cB i 1 = false → Reaches (.pmCycleEnd bay vn) s (fun t => (t.pmBay bay.val).nextCycle = c + 1 ∧
        (t.pmBay bay.val).upTo = some e ∧ (t.pmBay bay.val).registers = old ∧ t.num i 0x11 = s.num i 0x11)) ∧
      (s.cB i 1 = true → (s.pmBay bay.val).mirrored = none → Reaches (.pmCycleEnd bay vn) s (fun t =>
        (t.pmBay bay.val).nextCycle = c + 1 ∧ (t.pmBay bay.val).upTo = some e ∧ t.num i 0x11 = e ∧
        (t.pmBay bay.val).registers = (bookAll sp.amounts old).1 ∧
        (sp.usable = false → ∀ k, k < 15 → nth (t.pmBay bay.val).registers k ⟨0, ⟨0⟩⟩ = nth old k ⟨0, ⟨0⟩⟩) ∧
        beNat (t.elem 0xA801 2 55) = countAfter (beNat (s.elem 0xA801 2 55))
          ((List.range 16).filter (fun k => valueWrapped (nth old k ⟨0, ⟨0⟩⟩) (nth (bookAll sp.amounts old).1 k ⟨0, ⟨0⟩⟩))).length ∧
        t.num i 0x10 = (if sp.usable = true ∧ sp.overrange = true then State.countUp 32 (s.num i 0x10) 1 else s.num i 0x10) ∧
        t.elem i 0x0A 12 = encodeEntry ⟨f32OfBool (!sp.usable), 1#16, 0⟩))) ∧
    (s.cycleReady bay.val = true → (s.pmBay bay.val).resetDue = true →
      (∀ b, b < s.pm.bays.length → b ≠ bay.val → (s.pmBay b).resetDue = false) → Reaches (.pmCycleEnd bay vn) s (fun t =>
        (t.pmBay bay.val).registers = List.replicate 16 ⟨0, ⟨0⟩⟩ ∧ (t.pmBay bay.val).resetDue = false ∧
        (t.pmBay bay.val).partial_ = true ∧ t.pm.resetAll = false ∧ Outcome 0x8012 (s.num 0x8012 6) 0 [] t ∧
        beNat (t.elem 0xA801 2 58) = countAfter (beNat (s.elem 0xA801 2 58)) 1)) ∧
    (∀ (r : Req) (x : Session), Writes s r x i 0x0F → Serves (.supClear r i) s r x 0x02 [] id [.ev] [(i, 0x0D)] [] (fun t =>
      t.num i 0x0D = s.num i 0x0D % 16 ∧ t.lasting (qkey 5 bay.val 0) = false ∧ t.lasting (qkey 5 bay.val 1) = false))) ∧
  (∀ (r : PmRegister) (a : F64), (bookAmount r a).1.counter < 2 ^ 80 ∧
    (((bookAmount r a).1.counter : Int) - (r.counter + (bookAmount r a).2)) % 2 ^ 80 = 0) ∧
  (∀ (bay kind i : Nat) (recent : List Nat) (s t : State), kind < 2 → i = 0x8000 + bay → t = s.judgeCondition bay kind true →
    recent = (s.qualifier (qkey 5 bay kind)).history.filter (fun y => s.raw < y + s.c i 7 * tickMs) →
    (s.c i 4).testBit kind = true → s.c i 5 ≤ nth (s.pmBay bay).present kind 0 + 1 → (s.num i 0x0D).testBit kind = false →
    s.lasting (qkey 5 bay kind) = false →
    (recent.length + 1 < s.c i 8 → t.num i 0x0D = setBit (s.num i 0x0D) kind true ∧
      t.num i 0x0E = State.countUp 32 (s.num i 0x0E) 1 ∧ t.lasting (qkey 5 bay kind) = false ∧ t.ev.raised = s.ev.raised) ∧
    (s.c i 8 ≤ recent.length + 1 → t.num i 0x0D = setBit (setBit (s.num i 0x0D) kind true) (4 + kind) true ∧
      t.num i 0x0E = s.num i 0x0E ∧ t.lasting (qkey 5 bay kind) = true ∧
      t.ev.raised = s.ev.raised ++ [⟨56 + kind, bay, s.et, !s.locked⟩]))

/-- Commands, saves and demand intervals of the Photometer (R376–R381, R387): SNAPSHOT_CMD fixes t_s or fails with RANGE, and the snapshot
completes DONE with the registers and pulse counts at t_s; RESET_CMD marks one bay or all; a due save writes the copy that would not be
restored, with the next generation; a demand boundary writes the interval's record and begins the next interval at its end, or, PARTIAL,
where ET has jumped on past another boundary, at the latest one (log entry 98); COUNT_SET replaces
COUNT at once, and a snapshot whose t_s has passed keeps the count it had. -/
def Obligations.PhotometerSavesSnapshotsAndDemand : Prop :=
  (∀ (r : Req) (x : Session) (ts : Et) (s : State), s.settled → Commands s r x 0x8010 2 0x8011 →
    ts = (if s.num 0x8010 1 = 0 then (s.et / sec + 1) * sec else s.num 0x8010 1) →
    (ts < s.et + 10 * ms ∨ s.et + 3600 * sec < ts → Serves (.pmSnapshotCmd r) s r x 0x0A (beBytes 4 (s.nextSeq 0x8011)) id []
      (outcomeRegisters 0x8011) [] (Outcome 0x8011 (s.nextSeq 0x8011) 2 [])) ∧
    (s.et + 10 * ms ≤ ts → ts ≤ s.et + 3600 * sec → Serves (.pmSnapshotCmd r) s r x 0x0A (beBytes 4 (s.nextSeq 0x8011)) id [.pm]
      (busyRegisters 0x8011) [] (fun t => Busy 0x8011 s t ∧ t.pm.snap = some ⟨ts, [], []⟩ ∧ t.pm.bays = s.pm.bays))) ∧
  (∀ s : State, s.settled → s.pm.snap = none → Does .pmSnapshotComplete s [] [] [] (fun _ => True)) ∧
  (∀ (sn : PmSnap) (s : State), s.settled → s.pm.snap = some sn →
    (s.snapReady sn = false → Does .pmSnapshotComplete s [] [] [] (fun _ => True)) ∧
    (s.snapReady sn = true → Does .pmSnapshotComplete s [.pm]
      ([(0x8010, 3), (0x8010, 4), (0x8010, 5), (0x8010, 6)] ++ outcomeRegisters 0x8011) [] (fun t => t.pm.snap = none ∧
        t.pm.bays = s.pm.bays ∧ Outcome 0x8011 (s.num 0x8011 6) 0 (etBytes sn.ts) t ∧ t.num 0x8010 6 = sn.ts ∧
        t.num 0x8010 3 = State.countUp 32 (s.num 0x8010 3) 1 ∧ (∀ n, n < 24 → t.elem 0x8010 5 n = beBytes 8 (s.snapCount sn n)) ∧
        ∀ b k, b < 8 → k < 16 →
          (∀ l, lookup b sn.bays = some l → t.elem 0x8010 4 (16 * b + k) = pmElement (nth l k ⟨0, ⟨0⟩⟩)) ∧
          (lookup b sn.bays = none → s.cB (0x8000 + b) 1 = false →
            t.elem 0x8010 4 (16 * b + k) = pmElement (nth (s.pmBay b).registers k ⟨0, ⟨0⟩⟩)) ∧
          (lookup b sn.bays = none → s.cB (0x8000 + b) 1 = true → s.chainOn = true →
            t.elem 0x8010 4 (16 * b + k) = pmElement (nth (bookAll (s.spanOf b (s.pmBay b).nextCycle 0
              (s.samplesBefore (s.pmBay b).nextCycle sn.ts)).amounts (s.pmBay b).registers).1 k ⟨0, ⟨0⟩⟩))))) ∧
  (∀ (r : Req) (x : Session) (bay : Nat) (s : State), s.settled → Commands s r x 0x8010 9 0x8012 → bay < 8 ∨ bay = 0xFF →
    Serves (.pmResetCmd r bay) s r x 0x0A (beBytes 4 (s.nextSeq 0x8012)) id [.pm] (busyRegisters 0x8012) [] (fun t => Busy 0x8012 s t ∧
      t.pm.resetAll = (bay == 0xFF) ∧ t.pm.snap = s.pm.snap ∧ ∀ b, b < 8 → b < s.pm.bays.length →
        (t.pmBay b).registers = (s.pmBay b).registers ∧
        (t.pmBay b).resetDue = ((s.pmBay b).resetDue || bay == 0xFF || bay == b))) ∧
  (∀ s : State, s.settled →
    (s.pmSaveDue = true → Does .pmSave s [.flash, .pm] [(0x8010, 8)] [] (fun t => t.num 0x8010 8 = s.et ∧ t.pm.saveTick = s.raw ∧
      t.pm.bays = s.pm.bays ∧ t.bestPm = some ⟨((s.bestPm.map (·.generation)).getD 0) + 1, true, s.et, s.pm.bays.map (·.registers),
        (List.range 24).map (fun n => s.num (0x8100 + n) 4), s.demandValues⟩ ∧
      ∀ y, s.bestPm = some y → t.flash.pmA = some y ∨ t.flash.pmB = some y)) ∧
    (s.pmSaveDue = false → Does .pmSave s [] [] [] (fun _ => True))) ∧
  (∀ (bay : Fin 8) (i n : Nat) (s : State), s.settled → i = 0x8000 + bay.val → n = s.num i 0x0B → bay.val < s.pm.bays.length →
    ((s.pmBay bay.val).demandStart = none → Does (.demandBoundary bay) s [] [] [] (fun _ => True)) ∧
    (∀ (st e f : Et) (a b c d u : Nat), (s.pmBay bay.val).demandStart = some st → e = s.demandEnd bay.val st →
      f = s.demandFloor bay.val (s.utcAt (s.demandReach bay.val)) (s.demandReach bay.val) →
      (s.pmBay bay.val).sums = [a, b, c, d, u] →
      (s.demandReach bay.val < e → Does (.demandBoundary bay) s [] [] [] (fun _ => True)) ∧
      (e ≤ s.demandReach bay.val → Does (.demandBoundary bay) s [.pm] [(i, 0x0B), (i, 0x0C)] [] (fun t =>
        t.num i 0x0B = (n + 1) % 2 ^ 32 ∧
        t.elem i 0x0C (n % 96) = etBytes st ++ beBytes 4 ((e - st) / ms) ++ beBytes 8 a ++ beBytes 8 b ++ beBytes 8 c ++ beBytes 8 d ++
          beBytes 4 (roundDiv (u * 1000) 65536).toNat ++
          [byte ((if (s.pmBay bay.val).partial_ then 1 else 0) + (if (s.pmBay bay.val).fault then 2 else 0))] ++ List.replicate 11 0 ∧
        (∀ k, k < 96 → k ≠ n % 96 → t.elem i 0x0C k = s.elem i 0x0C k) ∧ (t.pmBay bay.val).demandStart = some (max e f) ∧
        (t.pmBay bay.val).sums = [0, 0, 0, 0, 0] ∧ (t.pmBay bay.val).partial_ = decide (e < f))))) ∧
  (∀ (n : Fin 24) (r : Req) (x : Session) (count : Nat) (s : State), s.settled → Writes s r x (0x8100 + n.val) 9 → count < 2 ^ 64 →
    Serves (.countSet r n count) s r x 0x02 [] id [.pm] [(0x8100 + n.val, 4)] [] (fun t => t.num (0x8100 + n.val) 4 = count ∧
      t.pm.bays = s.pm.bays ∧ (s.pm.snap = none → t.pm.snap = none) ∧
      ∀ sn, s.pm.snap = some sn → sn.ts ≤ s.et → ∃ u, t.pm.snap = some u ∧ u.ts = sn.ts ∧ t.snapCount u n.val = s.snapCount sn n.val))

/-! ## The Plate recorder -/

/-- Triggers and plates (R401–R407): a trigger in ARMED opens a plate in the lowest FREE or INVALID slot, with PLATE_STARTED; without one,
PROTECT stops the recorder and OVERWRITE loses the victim first; in RECORDING it is a marker, and past 32 it is lost; in REARM and STOPPED
it is missed; AUTO_PERIOD, TRIGGER_CMD and the falling edge of XTRIG_N trigger so, an edge within 2 × XTRIG_WIDTH of the last one not; a
plate is HELD once its last sample is written; REARM elapses; XTRIG_N is released, and a
trigger whose pull made no edge is in no plate (log entry 99); RESUME_CMD arms a stopped recorder. -/
def Obligations.PlatesFollowTriggers : Prop :=
  (∀ s : State, s.settled →
    (s.c 0x9000 7 = 0 ∨ s.recorderState = 0 ∨ s.raw < s.rec_.autoFrom + s.c 0x9000 7 * tickSec →
      Does .autoTrigger s [] [] [] (fun _ => True)) ∧
    (s.c 0x9000 7 ≠ 0 → s.rec_.autoFrom + s.c 0x9000 7 * tickSec ≤ s.raw →
      (∀ slot, s.recorderState = 1 → s.freeSlot = some slot → Does .autoTrigger s [.rec_] [(0x9000, 2), (0x9000, 0x11)] [88] (fun t =>
        t.num 0x9000 2 = 2 ∧ t.num 0x9000 0x11 = State.countUp 32 (s.num 0x9000 0x11) 1 ∧ t.rec_.autoFrom = s.raw ∧
        t.rec_.nextPlate = s.rec_.nextPlate + 1 ∧ ∃ p, lookup slot t.rec_.plates = some p ∧ p.number = s.rec_.nextPlate ∧ p.state = 1 ∧
          p.severity = 0 ∧ p.firstTrigger = 32 ∧ p.trigEt = s.et ∧ p.epoch = s.rec_.epoch ∧ p.markers = [] ∧ p.trigIndex = p.pre ∧
          p.first + p.pre = p.trig ∧ p.pre ≤ s.c 0x9000 3 * 48 ∧ p.startEt = s.fixedEt p.first ∧
          p.stop = p.trig + min (s.c 0x9000 4 * 48) s.maxPost ∧
          p.flags = bitsOfList [decide (p.pre < s.c 0x9000 3 * 48), decide (s.maxPost < s.c 0x9000 4 * 48), true, false])) ∧
      (s.recorderState = 1 → s.freeSlot = none → s.c 0x9000 8 = 1 → Does .autoTrigger s [.rec_] [(0x9000, 2), (0x9000, 0x12)] [92, 91]
        (fun t => t.num 0x9000 2 = 4 ∧ t.num 0x9000 0x12 = State.countUp 32 (s.num 0x9000 0x12) 1)) ∧
      (∀ slot p, s.recorderState = 1 → s.freeSlot = none → s.c 0x9000 8 = 0 → s.victimPlate = some (slot, p) → slot < 64 →
        lookup slot s.rec_.plates = some p →
        Does .autoTrigger s [.rec_] [(0x9000, 2), (0x9000, 0x11), (0x9000, 0x13)] [90, 88] (fun t => t.num 0x9000 2 = 2 ∧
          t.num 0x9000 0x13 = State.countUp 32 (s.num 0x9000 0x13) 1 ∧
          ∃ q, lookup slot t.rec_.plates = some q ∧ q.number = s.rec_.nextPlate ∧ q.state = 1)) ∧
      (∀ slot p, s.recorderState = 2 → s.recording = some (slot, p) → s.cB 0x9000 5 = false →
        (p.markers.length < 32 → Does .autoTrigger s [.rec_] [] [] (fun t => lookup slot t.rec_.plates = some { p with
          markers := p.markers ++ [⟨(s.platePosition s.et).1 - p.first, (s.platePosition s.et).2, 32⟩] })) ∧
        (32 ≤ p.markers.length → Does .autoTrigger s [.rec_] [(0x9000, 0x14)] [] (fun t =>
          t.num 0x9000 0x14 = State.countUp 32 (s.num 0x9000 0x14) 1 ∧
          lookup slot t.rec_.plates = some { p with flags := p.flags ||| 64 }))) ∧
      (∀ slot p, s.recorderState = 2 → s.recording = some (slot, p) → (s.rec_.plates.map (·.1)).Nodup → s.cB 0x9000 5 = true →
        p.markers.length < 32 → Does .autoTrigger s [.rec_] [] [] (fun t => ∃ q, lookup slot t.rec_.plates = some q ∧
          q.stop = max p.stop (min ((s.platePosition s.et).1 + s.c 0x9000 4 * 48).toNat (p.trig + s.maxPost)) ∧
          q.markers.length = p.markers.length + 1 ∧ q.first = p.first ∧ (p.stop < q.stop → q.flags.testBit 5 = true))) ∧
      (s.recorderState = 3 ∨ s.recorderState = 4 → Does .autoTrigger s [.rec_] [(0x9000, 0x12)] [91] (fun t =>
        t.num 0x9000 0x12 = State.countUp 32 (s.num 0x9000 0x12) 1 ∧ t.rec_.plates = s.rec_.plates))) ∧
    (∀ tdc : Nat, (s.c 0x9000 9 = 0 ∨ s.power ≠ 0 → Does (.stationTriggerEdge tdc) s [] [] [] (fun _ => True)) ∧
      (s.c 0x9000 9 ≠ 0 → s.power = 0 →
        (∀ t0, s.rec_.edgeTick = some t0 → s.raw < t0 + 2 * s.c 0x9000 0x0A * tickUs →
          Does (.stationTriggerEdge tdc) s [.rec_] [] [] (fun t => t.rec_.edgeTick = some s.raw ∧ t.rec_.plates = s.rec_.plates)) ∧
        (∀ slot f, (∀ t0, s.rec_.edgeTick = some t0 → t0 + 2 * s.c 0x9000 0x0A * tickUs ≤ s.raw) → s.recorderState = 1 →
          s.freeSlot = some slot → s.recording = none → s.rec_.origins = [f] →
          Does (.stationTriggerEdge tdc) s [.rec_] [(0x9000, 2), (0x9000, 0x11)] [88] (fun t => t.num 0x9000 2 = 2 ∧
            t.rec_.edgeTick = some s.raw ∧ t.rec_.origins = [] ∧ ∃ p, lookup slot t.rec_.plates = some p ∧ p.state = 1 ∧
              p.firstTrigger = 33 ∧ p.severity = max 7 f.severity ∧ p.flags.testBit 3 = true ∧
              p.trigEt = s.et + s.eph.increment * (tdc % 128) / 128 ∧
              p.markers = [⟨(s.platePosition f.et).1 - p.first, (s.platePosition f.et).2, f.trigger⟩])))) ∧
    (s.recording = none → Does .plateComplete s [] [] [] (fun _ => True)) ∧
    (∀ slot p, s.recording = some (slot, p) →
      (p.epoch ≠ s.rec_.epoch ∨ s.loc.nextFixed < p.stop → Does .plateComplete s [] [] [] (fun _ => True)) ∧
      (p.epoch = s.rec_.epoch → p.stop ≤ s.loc.nextFixed → Does .plateComplete s [.rec_] [(0x9000, 2)] [89] (fun t =>
        t.num 0x9000 2 = 3 ∧ t.rec_.autoFrom = s.raw ∧ t.rec_.lastEnd = s.fixedEt (p.stop - 1) ∧
        lookup slot t.rec_.plates = some { p with state := 2 }))) ∧
    (s.recorderState = 3 → s.rec_.lastEnd + s.c 0x9000 6 * ms ≤ s.et →
      Does .rearmExpiry s [] [(0x9000, 2)] [] (fun t => t.num 0x9000 2 = 1)) ∧
    (s.recorderState ≠ 3 ∨ s.et < s.rec_.lastEnd + s.c 0x9000 6 * ms → Does .rearmExpiry s [] [] [] (fun _ => True)) ∧
    (s.rec_.pulled = true → s.rec_.pullEnd ≤ s.raw → Does .xtrigRelease s [.rec_] [] [] (fun t =>
      t.rec_.pulled = false ∧ t.rec_.origins = [])) ∧
    (s.rec_.pulled = false ∨ s.raw < s.rec_.pullEnd → Does .xtrigRelease s [] [] [] (fun _ => True))) ∧
  (∀ (r : Req) (x : Session) (n : Nat) (s : State), s.settled → Commands s r x 0x9000 0x15 0x9001 → n < 32 → (s.trigger n).kind = 7 →
    (s.recorderState ≠ 1 → s.recorderState ≠ 2 → Serves (.triggerCmd r n) s r x 0x0A (beBytes 4 (s.nextSeq 0x9001)) id []
      (outcomeRegisters 0x9001) [] (Outcome 0x9001 (s.nextSeq 0x9001) 3 [])) ∧
    (∀ slot, s.recorderState = 1 → s.freeSlot = some slot → (s.trigger n).stationOut = false ∨ s.xarmLow = false →
      Serves (.triggerCmd r n) s r x 0x0A (beBytes 4 (s.nextSeq 0x9001)) id [.rec_]
        ([(0x9000, 2), (0x9000, 0x11)] ++ outcomeRegisters 0x9001) [88] (fun t => Outcome 0x9001 (s.nextSeq 0x9001) 0 [] t ∧
          t.num 0x9000 2 = 2 ∧ ∃ p, lookup slot t.rec_.plates = some p ∧ p.firstTrigger = 34 ∧ p.severity = 0 ∧ p.trigEt = s.et)) ∧
    (s.recorderState = 1 ∨ s.recorderState = 2 → (s.trigger n).stationOut = true → s.xarmLow = true →
      Serves (.triggerCmd r n) s r x 0x0A (beBytes 4 (s.nextSeq 0x9001)) id [.rec_] (outcomeRegisters 0x9001) [] (fun t =>
        Outcome 0x9001 (s.nextSeq 0x9001) 0 [] t ∧ t.rec_.origins = s.rec_.origins ++ [⟨34, 0, s.et⟩] ∧
        t.rec_.plates = s.rec_.plates ∧ (s.drivesStation = true → s.rec_.pulled = false →
          t.rec_.pulled = true ∧ t.rec_.pullEnd = s.raw + s.c 0x9000 0x0A * tickUs)))) ∧
  (∀ (r : Req) (x : Session) (s : State), s.settled → Commands s r x 0x9000 0x16 0x9002 →
    (s.recorderState ≠ 4 → Serves (.resumeCmd r) s r x 0x0A (beBytes 4 (s.nextSeq 0x9002)) id [] (outcomeRegisters 0x9002) []
      (Outcome 0x9002 (s.nextSeq 0x9002) 3 [])) ∧
    (s.recorderState = 4 → Serves (.resumeCmd r) s r x 0x0A (beBytes 4 (s.nextSeq 0x9002)) id [.rec_]
      ((0x9000, 2) :: outcomeRegisters 0x9002) [] (fun t => Outcome 0x9002 (s.nextSeq 0x9002) 0 [] t ∧ t.num 0x9000 2 = 1 ∧
        t.rec_.autoFrom = s.raw)))

/-- Held plates and their export (R408–R410): RELEASE_CMD frees a held plate; EXPORT_CMD of one is taken and, at its completion, leaves its
configuration file, CFG_LEN and the number of blocks of its data file, 206 bytes a sample; EXPORT_SEEK selects a block, whose chunk, once
ready, is that block, plain with EXPORT_FORMAT 0 and compressed as one job, or RAW, with 1; a plate that is not held fails with STATE. -/
def Obligations.HeldPlatesAreExported : Prop :=
  (∀ (r : Req) (x : Session) (number : Nat) (s : State), s.settled → number < 2 ^ 32 →
    (Commands s r x 0x9000 0x17 0x9003 →
      (s.heldPlate number = none → Serves (.releaseCmd r number) s r x 0x0A (beBytes 4 (s.nextSeq 0x9003)) id [] (outcomeRegisters 0x9003)
        [] (Outcome 0x9003 (s.nextSeq 0x9003) 3 [])) ∧
      (∀ slot p, s.heldPlate number = some (slot, p) → Serves (.releaseCmd r number) s r x 0x0A (beBytes 4 (s.nextSeq 0x9003)) id [.rec_]
        (outcomeRegisters 0x9003) [] (fun t => Outcome 0x9003 (s.nextSeq 0x9003) 0 [] t ∧
          lookup slot t.rec_.plates = some { p with state := 0 } ∧
          ∀ k, k ≠ slot → lookup k t.rec_.plates = lookup k s.rec_.plates))) ∧
    (Commands s r x 0x9012 1 0x9013 →
      (s.heldPlate number = none → Serves (.exportCmd r number) s r x 0x0A (beBytes 4 (s.nextSeq 0x9013)) id [] (outcomeRegisters 0x9013)
        [] (Outcome 0x9013 (s.nextSeq 0x9013) 3 [])) ∧
      (s.heldPlate number ≠ none → Serves (.exportCmd r number) s r x 0x0A (beBytes 4 (s.nextSeq 0x9013))
        (fun a => { a with jobs := a.jobs ++ [⟨0x9013, 0, [], .exportPlate number⟩] }) [] (busyRegisters 0x9013) [] (Busy 0x9013 s)))) ∧
  (∀ (j : Job) (number slot : Nat) (p : Plate) (s : State), s.settled → s.job 0x9013 = some j → j.action = .exportPlate number →
    s.heldPlate number = some (slot, p) → Does (.commandComplete 0x9013) s [.alm, .rec_]
      ([(0x9012, 9), (0x9012, 4)] ++ outcomeRegisters 0x9013) [] (fun t =>
        Outcome 0x9013 (s.num 0x9013 6) 0 (beBytes 4 number ++ beBytes 4 (p.stop - p.first)) t ∧ t.rec_.exported = some number ∧
        t.rec_.exportCfg = (s.cfgFile p).take 32768 ∧ t.num 0x9012 9 = t.rec_.exportCfg.length ∧
        t.num 0x9012 4 = (206 * (p.stop - p.first) + 65535) / 65536 ∧ t.rec_.chunks = [] ∧ t.job 0x9013 = none)) ∧
  (∀ (r : Req) (x : Session) (block : Nat) (s : State), s.settled → Writes s r x 0x9012 5 → block < s.num 0x9012 4 → block < 2 ^ 32 →
    Serves (.exportSeek r block) s r x 0x02 [] (fun a => { a with sessions := a.sessions.map (fun y =>
      if y.id = x.id then { y with own := y.own.set (okey 0x9012 5 0) (.int block) } else y) }) [.rec_] [] [] (fun t =>
        t.chunk x.id = some ⟨x.id, block, false, [], false⟩)) ∧
  (∀ (sess : Nat) (s : State), s.settled →
    (s.chunk sess = none ∨ s.exportedPlate = none → Does (.exportChunkReady sess) s [] [] [] (fun _ => True)) ∧
    (∀ c p, s.chunk sess = some c → s.exportedPlate = some p →
      (c.ready = true → Does (.exportChunkReady sess) s [] [] [] (fun _ => True)) ∧
      (c.ready = false → s.num 0x9012 2 = 0 → Does (.exportChunkReady sess) s [.rec_] [] [] (fun t =>
        t.chunk sess = some ⟨sess, c.block, true, s.datBlock p c.block, false⟩)) ∧
      (∀ z raw, c.ready = false → s.num 0x9012 2 = 1 → s.datBlock p c.block ≠ [] → compressRun true (s.datBlock p c.block) = (z, raw) →
        Reaches (.exportChunkReady sess) s (fun t =>
          t.chunk sess = some ⟨sess, c.block, true, if raw = true then s.datBlock p c.block else z, raw⟩)))) ∧
  (∀ (p : Plate) (b : Nat) (s : State), 65536 * b < 206 * (p.stop - p.first) →
    (s.datBlock p b).length = min 65536 (206 * (p.stop - p.first) - 65536 * b))

/-! ## The Logbook and the compression engine -/

/-- The Logbook's records and flash ring (R415, R420–R425, R427): a record is 64 bytes with its CRC; a raise takes a vacant slot with the next
SEQUENCE, mirrored from severity 4 on, else the victim's, which is the lowest SEQUENCE of its severity or lower, else it is counted in
DROPPED; FLASH_MIRROR_WRITE appends the oldest queued record, intact unless cut, erasing the oldest of 128 full sectors; CLEAR and
FLASH_CLEAR empty one ring and change no SEQUENCE; at a start SEQUENCE is above every record of the flash ring that verifies. -/
def Obligations.LogbookKeepsRecords : Prop :=
  (∀ r : LogRecord, r.values.length = 8 → r.bytes.length = 64 ∧ field r.bytes 60 4 = crc32 (r.bytes.take 60) % 2 ^ 32) ∧
  (∀ (ring : List LogRecord) (sev q : Nat), victim ring sev = some q →
    (∃ r ∈ ring, r.intact = true ∧ r.severity ≤ sev ∧ r.sequence = q) ∧
    ∀ r ∈ ring, r.intact = true → r.severity ≤ sev → q ≤ r.sequence) ∧
  (∀ (y : Raise) (sev : Nat) (out : Option LogRecord) (s t : State), s.logRaise y = (t, out) →
    sev = field (s.cElem 0xA001 1 y.source) 0 1 % 8 →
    ((s.ev.ring.filter (·.intact)).length < s.logCapacity ∨ (∃ q, victim s.ev.ring sev = some q) →
      t.num 0xA000 3 = s.num 0xA000 3 + 1 ∧ t.ev.dropped = false ∧ out.isSome = true ∧ ∃ w, t.ev.ring.getLast? = some w ∧
        w.sequence = s.num 0xA000 3 ∧ w.source = y.source ∧ w.et = y.et ∧ w.severity = sev ∧ w.context = y.context % 2 ^ 32 ∧
        w.intact = true ∧ w.flags.testBit 1 = y.unlocked ∧ w.flags.testBit 2 = s.ev.dropped ∧
        w.flags.testBit 0 = (decide (4 ≤ sev) && decide (s.ev.flashQueue.length < 4096)) ∧
        (4 ≤ sev → s.ev.flashQueue.length < 4096 → t.ev.flashQueue = s.ev.flashQueue ++ [w]) ∧
        (4 ≤ sev → 4096 ≤ s.ev.flashQueue.length → t.num 0xA000 0x0B = State.countUp 32 (s.num 0xA000 0x0B) 1)) ∧
    (s.logCapacity ≤ (s.ev.ring.filter (·.intact)).length →
      (∀ q, victim s.ev.ring sev = some q → t.num 0xA000 6 = State.countUp 64 (s.num 0xA000 6) 1 ∧
        ∃ w, t.ev.ring = s.ev.ring.filter (fun r => r.sequence != q) ++ [w]) ∧
      (victim s.ev.ring sev = none → out = none ∧ t.ev.ring = s.ev.ring ∧ t.ev.dropped = true ∧ t.num 0xA000 3 = s.num 0xA000 3 ∧
        beNat (t.elem 0xA000 5 sev) = State.countUp 32 (beNat (s.elem 0xA000 5 sev)) 1))) ∧
  (∀ (cut : Bool) (s : State), s.settled →
    (s.ev.flashQueue = [] → Does (.flashMirrorWrite cut) s [] [] [] (fun _ => True)) ∧
    (∀ r rest w, s.ev.flashQueue = r :: rest → w = { r with intact := !cut } →
      (s.flash.log = [] → Does (.flashMirrorWrite cut) s [.flash] [] [] (fun t => t.ev.flashQueue = rest ∧ t.flash.log = [[w]])) ∧
      (∀ older sec, s.flash.log = older ++ [sec] →
        (sec.length < 1024 → Does (.flashMirrorWrite cut) s [.flash] [] [] (fun t => t.ev.flashQueue = rest ∧
          t.flash.log = older ++ [sec ++ [w]])) ∧
        (1024 ≤ sec.length → older.length < 127 → Does (.flashMirrorWrite cut) s [.flash] [] [] (fun t => t.ev.flashQueue = rest ∧
          t.flash.log = older ++ [sec, [w]])) ∧
        (∀ first more, 1024 ≤ sec.length → 127 ≤ older.length → older = first :: more →
          Does (.flashMirrorWrite cut) s [.flash] [(0xA000, 0x0A)] [] (fun t => t.ev.flashQueue = rest ∧
            t.flash.log = more ++ [sec, [w]] ∧ t.num 0xA000 0x0A = State.countUp 64 (s.num 0xA000 0x0A) first.length))))) ∧
  (∀ (r : Req) (x : Session) (s : State), s.settled →
    (Writes s r x 0xA000 0x0D → Serves (.logClear r) s r x 0x02 [] id [] [] [] (fun t => t.ev.ring = [] ∧ t.flash.log = s.flash.log ∧
      t.num 0xA000 3 = s.num 0xA000 3)) ∧
    (Writes s r x 0xA000 0x0E → Serves (.flashClear r) s r x 0x02 [] id [.flash] [] [] (fun t => t.flash = { s.flash with log := [] } ∧
      t.ev.ring = s.ev.ring ∧ t.num 0xA000 3 = s.num 0xA000 3))) ∧
  (∀ s t : State, t = s.restoreSequence → (∀ r ∈ s.flash.log.flatten, r.intact = true → r.sequence < t.num 0xA000 3) ∧
    ((∀ r ∈ s.flash.log.flatten, r.intact = false) → t.num 0xA000 3 = 1))

/-- Reading the Logbook (R424, R426): a write of LOG_SELECT builds the session's block, not yet readable, of the first 1,024 records of
the chosen ring with that SEQUENCE or above, in increasing SEQUENCE; damaged records are skipped and counted, in the flash ring in
FLASH_DAMAGED too, with LOG_DAMAGED at most once per second; NEXT_SELECT is one above the block's last record, or the SEQUENCE selected;
LOG_BLOCK_READY makes the session's block readable and changes nothing else in it. -/
def Obligations.LogbookIsReadInBlocks : Prop :=
  (∀ (r : Req) (x : Session) (select ring bad : Nat) (wanted good : List LogRecord) (s : State), s.settled → Writes s r x 0xA002 2 →
    select < 2 ^ 64 → ring = s.ownNum x.id 0xA002 1 → s.ownNum x.id 0xA002 3 ≠ 1 →
    wanted = (if ring = 1 then s.flash.log.flatten else s.ev.ring).filter (fun y => decide (select ≤ y.sequence)) →
    good = ((wanted.filter (·.intact)).insertionSort (fun a b => a.sequence ≤ b.sequence)).take 1024 →
    bad = (wanted.filter (fun y => !y.intact)).length →
    Serves (.logSelect r select) s r x 0x02 [] (fun a => { a with sessions := a.sessions.map (fun y =>
        if y.id = x.id then { y with own := y.own.set (okey 0xA002 2 0) (.int select) } else y) }) [.ev] [(0xA000, 7), (0xA000, 0x0C)]
      (if bad ≠ 0 ∧ (∀ l, s.ev.lastDamaged = some l → l + tickSec ≤ s.raw) then [94] else []) (fun t =>
        (bad = 0 → t.num 0xA000 7 = s.num 0xA000 7) ∧ (bad ≠ 0 → t.num 0xA000 7 = State.countUp 32 (s.num 0xA000 7) bad) ∧
        (bad ≠ 0 → ring = 1 → t.num 0xA000 0x0C = State.countUp 32 (s.num 0xA000 0x0C) bad) ∧
        (∀ b ∈ t.ev.blocks, b.session = x.id → b.bytes = (good.map LogRecord.bytes).flatten ∧ b.records = good.length ∧
          b.ready = false ∧ b.raw = false ∧ (∀ older w, good = older ++ [w] → b.next = w.sequence + 1) ∧ (good = [] → b.next = select)) ∧
        (∃ b ∈ t.ev.blocks, b.session = x.id) ∧
        ∀ b, b.session ≠ x.id → (b ∈ t.ev.blocks ↔ b ∈ s.ev.blocks))) ∧
  (∀ (sess : Nat) (s : State), s.settled → Does (.logBlockReady sess) s [.ev] [] [] (fun t => t.ev.ring = s.ev.ring ∧
    t.ev.blocks = s.ev.blocks.map (fun b => { b with ready := b.ready || decide (b.session = sess) })))

/-- Every run that the engine makes of a block decodes alone to that block, the final run as it stands and another one once a final
empty block follows it (R430); a run marked RAW is the stored form, and one that is not is shorter than that (R431). -/
def Obligations.CompressedRunsDecodeAlone : Prop :=
  ∀ b : List Byte, b.length ≤ 65536 →
    (∃ d, inflate (compressRun true b).1 b.length b.length = (.done, d) ∧ d.bytesOut = b) ∧
    (∃ d, inflate ((compressRun false b).1 ++ [3, 0]) b.length b.length = (.done, d) ∧ d.bytesOut = b) ∧
    ∀ final run raw, compressRun final b = (run, raw) →
      (raw = true → run = storedRun final b) ∧ (raw = false → run.length < (storedRun final b).length)

/-- The engine's jobs (R428, R429, R431–R434, R437): a submission is queued, RUNNING at once when the engine is idle, and a full queue takes
none; a descriptor outside the 4 GiB of DRAM faults; a resubmission sets RESUME first; the job at the head ends BAD_DESCRIPTOR when a field is
out of range; a fresh FINAL job whose output fits its first buffer ends DONE, with exact IN_CONSUMED and OUT_PRODUCED, its output and USED in
place, and no other byte of DRAM changed beside its STATUS and counts; the self-test ends with its code. -/
def Obligations.CompressionEngineRunsJobs : Prop :=
  (∀ (a : Nat) (s : State),
    (4294967296 < a + 64 → Sys2Proof.Machine.exec (.compress a) s = .fault .noSuchDramAddress ∧
      Sys2Proof.Machine.exec (.decompress a) s = .fault .noSuchDramAddress ∧
      Sys2Proof.Machine.exec (.compressJobResume a) s = .fault .noSuchDramAddress) ∧
    (s.settled → a + 64 ≤ 4294967296 →
      (16 ≤ s.eng.queue.length → Does (.compress a) s [] [] [] (fun _ => True) ∧ Does (.decompress a) s [] [] [] (fun _ => True)) ∧
      (s.eng.queue.length < 16 → ∀ c : Instr, c = .compress a ∨ c = .decompress a ∨ c = .compressJobResume a →
        Does c s [.dram, .eng] [(0x9800, 9)] [] (fun t => t.eng.queue = s.eng.queue ++ [a] ∧ t.num 0x9800 9 = s.eng.queue.length + 1 ∧
          t.eng.suspended = s.eng.suspended ∧ Memory.read t.dram (a + 2) = (if s.eng.queue = [] then 1 else 0) ∧
          (c = .compressJobResume a → Memory.read t.dram (a + 1) = Memory.read s.dram (a + 1) ||| 2) ∧
          (c ≠ .compressJobResume a → Memory.read t.dram (a + 1) = Memory.read s.dram (a + 1)) ∧
          ∀ z, z ≠ a + 1 → z ≠ a + 2 → Memory.read t.dram z = Memory.read s.dram z)))) ∧
  (∀ (bad : Option (Fin 2 × Nat)) (s : State), s.settled → s.eng.queue = [] →
    Does (.compressJobStop bad) s [] [] [] (fun _ => True)) ∧
  (∀ (a : Nat) (rest : List Nat) (d : JobDescriptor) (s : State), s.settled → s.eng.queue = a :: rest → d = readDescriptor s.dram a →
    (d.ok = false → Leaves (.compressJobStop none) s [.dram, .eng]
      ([(0x9800, 2), (0x9800, 3), (0x9800, 4), (0x9800, 8), (0x9800, 9)] ++ counterRegisters 0) (fun t => t.eng.queue = rest ∧
        t.num 0x9800 9 = rest.length ∧ t.num 0x9800 8 = State.countUp 32 (s.num 0x9800 8) 1 ∧
        beNat (t.elem 0xA801 2 95) = countAfter (beNat (s.elem 0xA801 2 95)) 1 ∧
        (∀ n more, rest = n :: more → Memory.read t.dram (n + 2) = 1) ∧ (rest = [] → Memory.read t.dram (a + 2) = 8))) ∧
    (∀ (out cin base : Nat) (stream : List Byte), rest = [] → d.ok = true → d.flags = 1 → bufferOk s.dram d.outChain = true →
      base = dramNat s.dram d.outChain 8 → stream.length ≤ dramNat s.dram (d.outChain + 8) 4 → out = stream.length →
      (∀ z, base ≤ z → z < base + out → (z < a ∨ a + 64 ≤ z) ∧ (z < d.outChain ∨ d.outChain + 32 ≤ z)) →
      (a + 64 ≤ d.outChain ∨ d.outChain + 32 ≤ a) →
      (d.op = 2 → (∃ e, inflate (Memory.readBytes s.dram d.inAddr d.inLen) d.outLimit 4294967297 = (.done, e) ∧ e.bytesOut = stream ∧
        e.count = out ∧ cin = min d.inLen e.bytesIn)) →
      (d.op = 1 → stream = ((compressRuns true (Memory.readBytes s.dram d.inAddr d.inLen)).map (·.1)).flatten ∧ cin = d.inLen ∧
        ∀ z, d.mapAddr ≤ z → z < d.mapAddr + 8 * d.mapCapacity → (z < a ∨ a + 64 ≤ z) ∧ (z < d.outChain ∨ d.outChain + 32 ≤ z) ∧
          (z < base ∨ base + out ≤ z)) →
      Leaves (.compressJobStop none) s [.dram, .eng]
        ([(0x9800, 1), (0x9800, 2), (0x9800, 3), (0x9800, 4), (0x9800, 9)] ++ counterRegisters 0) (fun t => t.eng.queue = [] ∧
          t.num 0x9800 1 = State.countUp 64 (s.num 0x9800 1) 1 ∧ t.num 0x9800 2 = State.countUp 64 (s.num 0x9800 2) cin ∧
          t.num 0x9800 3 = State.countUp 64 (s.num 0x9800 3) out ∧ Memory.read t.dram (a + 2) = 2 ∧
          dramNat t.dram (a + 32) 4 = cin ∧ dramNat t.dram (a + 40) 8 = out ∧ dramNat t.dram (d.outChain + 12) 4 = out ∧
          Memory.readBytes t.dram base out = stream ∧
          ∀ z, z ≠ a + 2 → (z < a + 32 ∨ a + 48 ≤ z) → (z < d.outChain + 12 ∨ d.outChain + 16 ≤ z) → (z < base ∨ base + out ≤ z) →
            (d.op = 2 ∨ z < d.mapAddr ∨ d.mapAddr + 8 * d.mapCapacity ≤ z) → Memory.read t.dram z = Memory.read s.dram z))) ∧
  (∀ (r : Req) (x : Session) (s : State), s.settled → Commands s r x 0x9800 0x0A 0x9801 →
    Serves (.selftestCmd r) s r x 0x0A (beBytes 4 (s.nextSeq 0x9801))
      (fun a => { a with jobs := a.jobs ++ [⟨0x9801, 0, [], .selftest⟩] }) [] (busyRegisters 0x9801) [] (Busy 0x9801 s)) ∧
  (∀ (j : Job) (s : State), s.settled → s.job 0x9801 = some j → j.action = .selftest →
    Does (.commandComplete 0x9801) s [.alm] (outcomeRegisters 0x9801) [] (fun t =>
      Outcome 0x9801 (s.num 0x9801 6) s.selftestCode [] t ∧ t.job 0x9801 = none))

/-- DRAM keeps its canonical form through every step: addresses strictly rising, and no entry equal to what an unlisted address reads as
(the model's own form; log entry 3). -/
def Obligations.EveryStepKeepsDramCanonical : Prop :=
  ∀ s t : State, Memory.wf s.dram = true → Sys2Proof.Machine.step s = .next t → Memory.wf t.dram = true

/-! ## The key store and tamper -/

/-- Key commands (R449–R458): each of the twelve is taken with the session's SLOT, TARGET and INPUT, and at its completion ends with OUTPUT,
OUT_LEN and USES; RESTRICTED allows none but ATTEST of kind 2; SIGN, VERIFY, ENCRYPT, DECRYPT and MAC need a loaded slot of their usage and type;
ATTEST of the tamper state is signed by KS0 while it is loaded. A new key goes, with the next GENERATION, into the copy that does not hold the
winner, verifies there and is in force; DESTROY leaves the slot EMPTY. A sealed record verifies, and what GCM seals it opens. -/
def Obligations.KeyCommandsRunOnSlots : Prop :=
  (∀ (r : Req) (x : Session) (s : State), s.settled → Commands s r x 0xB101 1 0xB102 →
    ∀ taken : Instr → Nat → Prop, taken = (fun c op => Serves c s r x 0x0A (beBytes 4 (s.nextSeq 0xB102))
      (fun a => { a with jobs := a.jobs ++ [⟨0xB102, 0, [], .key op (s.ownNum x.id 0xB101 2) (s.ownNum x.id 0xB101 3)
        (x.own.get (okey 0xB101 4 0)).toBytes⟩] }) [] (busyRegisters 0xB102) [] (Busy 0xB102 s)) →
    taken (.generate r) 1 ∧ taken (.deriveSlot r) 2 ∧ taken (.importKey r) 3 ∧ taken (.destroy r) 4 ∧ taken (.sign r) 5 ∧
    taken (.verify r) 6 ∧ taken (.encrypt r) 7 ∧ taken (.decrypt r) 8 ∧ taken (.mac r) 9 ∧ taken (.derive r) 10 ∧
    taken (.wrap r) 11 ∧ taken (.attest r) 12) ∧
  (∀ (j : Job) (op slot target : Nat) (input : List Byte) (s : State), s.settled → s.job 0xB102 = some j →
    j.action = .key op slot target input → slot < 64 →
    ∀ ends : Nat → List Byte → Prop, ends = (fun code out => Does (.commandComplete 0xB102) s [.alm]
        ([(0xB101, 5), (0xB101, 6), (0xB000 + slot, 6)] ++ outcomeRegisters 0xB102) [] (fun t =>
          Outcome 0xB102 (s.num 0xB102 6) code [] t ∧ t.bytes 0xB101 5 = out ∧ t.num 0xB101 6 = out.length ∧ t.job 0xB102 = none ∧
          t.num (0xB000 + slot) 6 = if State.attestsTamper op input then s.num (0xB000 + slot) 6
            else State.countUp 32 (s.num (0xB000 + slot) 6) 1)) →
      (s.restricted = true ∨ s.stage = 15 → State.attestsTamper op input = false → ends 0x0003 []) ∧
      (∀ k head, op = 0x0C → input.length = 33 → field input 32 1 = 2 → s.key 0 = some k →
        head = s.statementHead 0 2 1 (input.take 32) (s.num 0xB100 0x0B) (s.num 0xB100 0x0D) [] →
        ends 0 (head ++ ecdsaSign (beNat k.secret) (sha384 head))) ∧
      (s.restricted = false → s.stage ≠ 15 → s.keys.root ≠ none → op ∈ [5, 6, 7, 8, 9] →
        (s.slotBar slot ≠ 0 → ends (s.slotBar slot) []) ∧
        (s.slotBar slot = 0 → s.usable slot (State.usageOf op).1 (State.usageOf op).2 = none → ends 0x0020 []) ∧
        (∀ k, s.slotBar slot = 0 → s.usable slot (State.usageOf op).1 (State.usageOf op).2 = some k →
          (op = 5 → input.length = 48 → k.secret ≠ [] → ends 0 (ecdsaSign (beNat k.secret) input)) ∧
          (op = 6 → input.length = 144 → ends (if ecdsaVerify k.pub (input.take 48) (input.drop 48) then 0 else 0x0024) []) ∧
          (op = 9 → ends 0 (hmac k.secret input)) ∧
          (∀ nonce aad data, nonce.length = 12 → aad.length < 65536 → input = nonce ++ beBytes 2 aad.length ++ aad ++ data →
            (op = 7 → data.length + 16 ≤ 512 → ends 0 ((gcmSeal k.secret nonce aad data).1 ++ (gcmSeal k.secret nonce aad data).2)) ∧
            (∀ body tag, op = 8 → data = body ++ tag → tag.length = 16 →
              (gcmOpen k.secret nonce aad body tag = none → ends 0x0024 []) ∧
              ∀ plain, gcmOpen k.secret nonce aad body tag = some plain → ends 0 plain))))) ∧
  (∀ key nonce aad plain : List Byte,
    gcmOpen key nonce aad (gcmSeal key nonce aad plain).1 (gcmSeal key nonce aad plain).2 = some plain) ∧
  (∀ (root m nonce secret pub : List Byte) (slot a g : Nat), slot < 64 → a < 2 ^ 32 → g < 2 ^ 32 → nonce.length = 12 →
    secret.length ≤ 48 → pub.length ≤ 97 →
    (sealRecord root m slot a g nonce secret pub).length = 256 ∧
    checkCopy root m slot (sealRecord root m slot a g nonce secret pub) = .valid ⟨a, g, secret, pub⟩) ∧
  (∀ (root secret pub out : List Byte) (slot a g i code : Nat) (w : Option (KeyRecord × Bool)) (s t : State), slot < 64 →
    slot < s.flash.slots.length → a < 2 ^ 32 → i = 0xB000 + slot → w = winnerOf (s.copies root slot).1 (s.copies root slot).2 →
    g = (w.map (fun y => y.1.generation + 1)).getD 1 → g < 2 ^ 32 → secret.length ≤ 48 → pub.length ≤ 97 → keyOrigin a ≠ 0 →
    s.createKey root slot a secret pub = (t, code, out) →
    code = 0 ∧ out = pub ∧ t.num i 1 = 1 ∧ t.num i 2 = a ∧ t.num i 3 = g ∧ t.bytes i 4 = pub ∧ t.num i 7 = s.et ∧
    t.key slot = some ⟨slot, a, if keyOrigin a = 2 then derivedSecret root s.measurement slot a else secret, pub⟩ ∧
    (∀ y, w = some y → if y.2 then (nth t.flash.slots slot (.blank, .blank)).1 = (nth s.flash.slots slot (.blank, .blank)).1
      else (nth t.flash.slots slot (.blank, .blank)).2 = (nth s.flash.slots slot (.blank, .blank)).2) ∧
    ∀ n, n ≠ slot → t.key n = s.key n ∧ nth t.flash.slots n (.blank, .blank) = nth s.flash.slots n (.blank, .blank)) ∧
  (∀ (root out : List Byte) (slot code : Nat) (s t : State), 8 ≤ slot → slot < 64 → slot < s.flash.slots.length → s.slotBar slot = 0 →
    ((winnerOf (s.copies root slot).1 (s.copies root slot).2).map (fun y => y.1.generation + 1)).getD 1 < 2 ^ 32 →
    s.keyDestroy root slot = (t, code, out) →
    code = 0 ∧ out = [] ∧ t.num (0xB000 + slot) 1 = 0 ∧ t.key slot = none ∧
    ((nth t.flash.slots slot (.blank, .blank)).1 = .blank ∨ (nth t.flash.slots slot (.blank, .blank)).2 = .blank))

/-- Tamper (R460, R461, R463, R464): a loop is active from its second bad sample in a row; a source that is not enabled, or whose bit is set,
does nothing; a latch sets its bit, counts, keeps the first ET and raises TAMPER_LATCHED; before the slots are loaded that is all; while the unit
runs it zeroises slots, root and sessions and makes it RESTRICTED at once, and a key command in progress ends with TAMPER; in RESTRICTED it only
adds its bit, and in QUIET it wakes the unit all the same (log entry 96). TAMPER_CLEAR_CMD, in RESTRICTED alone, clears the latch unless an enabled source is active. -/
def Obligations.TamperRestrictsTheUnit : Prop :=
  (∀ (l runs : List Nat) (s : State), s.settled →
    runs = (List.range 4).map (fun i => if loopIntact (nth l i 500) then 0 else min 2 (nth s.keys.loopRuns i 0 + 1)) →
    ((∀ i, i < 4 → nth runs i 0 < 2 ∨ s.tamperEnabled i = false ∨ (s.num 0xB100 0x0B).testBit i = true) →
      Does (.tamperLoopSample l) s [.keys] [(0xB100, 0x0C)] [] (fun t => t.keys = { s.keys with loopRuns := runs } ∧
        (∀ i, i < 4 → (t.num 0xB100 0x0C).testBit i = decide (2 ≤ nth runs i 0)) ∧ t.num 0xB100 0x0C / 16 = s.num 0xB100 0x0C / 16)) ∧
    (∀ i, i < 4 → nth runs i 0 = 2 → s.tamperEnabled i = true → (∀ k, k < 4 → k ≠ i → nth runs k 0 < 2) →
      (s.num 0xB100 0x0B).testBit i = false → s.restricted = false → s.slotsLoaded = false → s.power < 2 →
      Does (.tamperLoopSample l) s [.keys] [(0xB100, 0x0B), (0xB100, 0x0C), (0xB100, 0x0D), (0xB100, 0x0E)] [96] (fun t =>
        t.num 0xB100 0x0B = s.num 0xB100 0x0B ||| 2 ^ i ∧ (t.num 0xB100 0x0C).testBit i = true))) ∧
  (∀ (k : Fin 9) (s : State), s.settled →
    (s.tamperEnabled k.val = false ∨ (s.num 0xB100 0x0B).testBit k.val = true ∨ (k.val = 4 ∧ s.boot.inReset = true) ∨
      (k.val = 8 ∧ s.keys.pd0AonLoss = false) → Does (.tamperLatch k) s [] [] [] (fun _ => True)) ∧
    (s.tamperEnabled k.val = true → (s.num 0xB100 0x0B).testBit k.val = false → ¬ (k.val = 4 ∧ s.boot.inReset = true) →
      ¬ (k.val = 8 ∧ s.keys.pd0AonLoss = false) →
      (s.restricted = true → s.power < 2 → Does (.tamperLatch k) s [] [(0xB100, 0x0B)] [] (fun t =>
        t.num 0xB100 0x0B = s.num 0xB100 0x0B ||| 2 ^ k.val)) ∧
      (s.restricted = true → 2 ≤ s.power → Reaches (.tamperLatch k) s (fun t =>
        t.num 0xB100 0x0B = s.num 0xB100 0x0B ||| 2 ^ k.val ∧ t.num 0xF140 4 = 4 ∧ t.stage = 1 ∧ t.keys.root = none ∧
        t.keys.loaded = [] ∧ t.alm.sessions = [])) ∧
      (s.restricted = false → s.power < 2 → s.slotsLoaded = false →
        Does (.tamperLatch k) s [] [(0xB100, 0x0B), (0xB100, 0x0D), (0xB100, 0x0E)] [96] (fun t =>
          t.num 0xB100 0x0B = s.num 0xB100 0x0B ||| 2 ^ k.val ∧ t.num 0xB100 0x0D = State.countUp 32 (s.num 0xB100 0x0D) 1 ∧
          t.num 0xB100 0x0E = if s.num 0xB100 0x0B = 0 then s.et else s.num 0xB100 0x0E)) ∧
      (s.restricted = false → s.power < 2 → s.slotsLoaded = true → Reaches (.tamperLatch k) s (fun t =>
        t.num 0xB100 0x0B = s.num 0xB100 0x0B ||| 2 ^ k.val ∧ t.num 0xB100 0x0D = State.countUp 32 (s.num 0xB100 0x0D) 1 ∧
        (s.num 0xB100 0x0B = 0 → t.num 0xB100 0x0E = s.et) ∧ t.restricted = true ∧ t.keys.root = none ∧ t.keys.loaded = [] ∧
        t.keys.rk = s.keys.rk ∧ t.alm.sessions = [] ∧ (∀ n, n < 64 → t.num (0xB000 + n) 1 = 4) ∧
        t.flash.slots = s.flash.slots ∧ beNat (t.elem 0xA801 2 96) = countAfter (beNat (s.elem 0xA801 2 96)) 1 ∧
        (s.num 0xB102 2 = 1 → Outcome 0xB102 (s.num 0xB102 6) 0x0022 [] t ∧ t.bytes 0xB101 5 = [] ∧ t.job 0xB102 = none))) ∧
      (s.restricted = false → 2 ≤ s.power → Reaches (.tamperLatch k) s (fun t =>
        t.num 0xB100 0x0B = s.num 0xB100 0x0B ||| 2 ^ k.val ∧ t.num 0xF140 4 = 4 ∧ t.stage = 1 ∧ t.keys.root = none ∧
        t.keys.loaded = [] ∧ t.alm.sessions = [])))) ∧
  (∀ (r : Req) (x : Session) (s : State), s.settled → Heard s r x → s.stage ≠ 15 → State.writeRole 0xB100 0x0F ≤ x.role →
    16 ≤ x.maxPayload → s.num 0xB103 2 = 0 →
    (s.restricted = false → Aborts (.tamperClearCmd r) s r x 0x0A 0x000E 0xB100 0x0F 0) ∧
    (s.restricted = true → s.num 0xB100 0x0C &&& s.keys.pd0Enable = 0 →
      Serves (.tamperClearCmd r) s r x 0x0A (beBytes 4 (s.nextSeq 0xB103)) id [] ((0xB100, 0x0B) :: outcomeRegisters 0xB103) [] (fun t =>
        Outcome 0xB103 (s.nextSeq 0xB103) 0 [] t ∧ t.num 0xB100 0x0B = 0 ∧ t.restricted = true)) ∧
    (s.restricted = true → s.num 0xB100 0x0C &&& s.keys.pd0Enable ≠ 0 →
      Serves (.tamperClearCmd r) s r x 0x0A (beBytes 4 (s.nextSeq 0xB103)) id [] (outcomeRegisters 0xB103) [] (fun t =>
        Outcome 0xB103 (s.nextSeq 0xB103) 3 [] t ∧ t.num 0xB100 0x0B = s.num 0xB100 0x0B)))

/-! ## Redundant pairs and the witness -/

/-- The interlock of a pair (R470–R473, R487, R489): a READY unit with a permit and ACT_PEER_N high claims, in the safe case with every BO
at SAFE_VALUE; 1 µs later, with ACT_PEER_N and DEPOSE_N high, it acts; both claims at once are a contention, which UNIT_ID 1 ends by
releasing; DEPOSE_N low releases the claim and latches DEPOSED, and after 100 ms in RUNNING restarts the unit; HANDOVER_CMD is refused, or
waits for an output write, and ends at the peer's claim. A unit with PAIR_MODE = 0 goes on acting. -/
def Obligations.PairUnitsClaimAndRelease : Prop :=
  (∀ s : State, s.settled →
    (s.isPair = false ∨ s.par.claim = true ∨ s.par.peer = true ∨ s.pairReady = false ∨ s.hasPermit = false →
      Does .pairClaim s [] [] [] (fun _ => True)) ∧
    (s.isPair = true → s.par.claim = false → s.par.peer = false → s.pairReady = true → s.hasPermit = true →
      (s.heldCase = true → Does .pairClaim s [.par] [] [] (fun t => t.par = { s.par with claim := true, claimTick := s.raw })) ∧
      (s.heldCase = false → Does .pairClaim s [.par, .orr, .bos] [] [] (fun t => t.par = { s.par with claim := true, claimTick := s.raw } ∧
        t.orr.safeUntil = some ((if s.orr.phase = .idle then s.orr.m else s.orr.m + 1) + 2) ∧
        ∀ n, n < s.bos.length → (t.bo n).safe = true))) ∧
    (s.isPair = false ∨ s.acting = true ∨ s.par.claim = false ∨ s.par.peer = true ∨ s.par.depose = true ∨
      s.raw < s.par.claimTick + 400 → Does .actingStart s [] [] [] (fun _ => True)) ∧
    (s.isPair = true → s.acting = false → s.par.claim = true → s.par.peer = false → s.par.depose = false →
      s.par.claimTick + 400 ≤ s.raw → Does .actingStart s [.par, .egr, .pm] [(0xC000, 5), (0xC000, 0x11), (0xC000, 0x14)] [104] (fun t =>
        t.acting = true ∧ t.num 0xC000 0x11 = State.countUp 32 (s.num 0xC000 0x11) 1 ∧ t.num 0xC000 0x14 = s.et ∧
        t.par = { s.par with holdExpired := false } ∧ (∀ b ∈ t.pm.bays, b.mirrored = none ∧ b.own = []) ∧
        (∀ p, p < s.egr.pubs.length → (t.goosePub p).stNum = State.countUp 32 (s.goosePub p).stNum 1 ∧ (t.goosePub p).sqNum = 0 ∧
          (t.goosePub p).changed = true ∧ (t.goosePub p).changeEt = s.et ∧ (t.goosePub p).next = none) ∧
        ∀ b q, b < s.pm.bays.length → (s.pmBay b).mirrored = some q →
          (t.pmBay b).registers = (s.pmBay b).own.foldl (fun acc o => (bookAll o.amounts acc).1) q.1)) ∧
    (Does (.peerClaimChange false) s [.par] [] [] (fun t => t.par = { s.par with peer := false })) ∧
    (s.par.peer = true ∨ s.isPair = false → Does (.peerClaimChange true) s [.par] [] [] (fun t => t.par = { s.par with peer := true })) ∧
    (s.isPair = true → s.par.peer = false → s.par.claim = true →
      Does (.peerClaimChange true) s [.par, .orr] [(0xC000, 5), (0xC000, 0x12)] (if s.acting = true then [107, 105] else [107]) (fun t =>
        t.acting = false ∧ t.num 0xC000 0x12 = State.countUp 32 (s.num 0xC000 0x12) 1 ∧
        t.par = { s.par with peer := true, claim := decide (s.unitId ≠ 1) })) ∧
    (s.isPair = true → s.par.peer = false → s.par.claim = false → s.par.handedOver = true → s.num 0xC001 2 = 1 →
      Does (.peerClaimChange true) s [.par] (outcomeRegisters 0xC001) [] (fun t => Outcome 0xC001 (s.num 0xC001 6) 0 [] t ∧
        t.par = { s.par with peer := true, handover := false, handedOver := false })) ∧
    (s.par.depose = true → Does .deposeAssert s [] [] [] (fun _ => True)) ∧
    (s.par.depose = false → Does .deposeAssert s [.par, .orr] [(0xC000, 5), (0xC000, 0x13)]
      (if s.acting = true ∧ s.isPair = true then [105] else []) (fun t =>
        t.par = { s.par with depose := true, deposeTick := s.raw, deposed := true, claim := false } ∧
        t.num 0xC000 0x13 = State.countUp 32 (s.num 0xC000 0x13) 1 ∧ (s.isPair = true → t.acting = false ∧ t.bosFloat = true) ∧
        (s.isPair = false → t.acting = s.acting))) ∧
    (Does .deposeRelease s [.par] [] [] (fun t => t.par = { s.par with depose := false })) ∧
    (s.isPair = true → s.cB 0xC000 0x16 = true → s.inRunning = true → s.power = 0 → s.par.depose = true →
      s.par.deposeTick + 100 * tickMs ≤ s.raw → Reaches .deposeRestart s (fun t => t.stage = 1 ∧ t.num 0xD000 3 = 4 ∧ t.raw = 0 ∧
        t.par.claim = false ∧ t.par.depose = true ∧ t.par.deposed = false ∧
        beNat (t.elem 0xA801 2 108) = if s.par.deposed = true then 1 else 0)) ∧
    (s.isPair = false ∨ s.cB 0xC000 0x16 = false ∨ s.inRunning = false ∨ s.par.depose = false ∨
      s.raw < s.par.deposeTick + 100 * tickMs → Does .deposeRestart s [] [] [] (fun _ => True))) ∧
  (∀ (r : Req) (x : Session) (s : State), s.settled → Commands s r x 0xC000 0x15 0xC001 →
    (∀ code, (s.isPair = false ∨ s.acting = false) ∧ code = 0x0003 ∨
        s.isPair = true ∧ s.acting = true ∧ s.num 0xC000 9 ≠ 3 ∧ code = 0x0031 →
      Serves (.handoverCmd r) s r x 0x0A (beBytes 4 (s.nextSeq 0xC001)) id [] (outcomeRegisters 0xC001) []
        (Outcome 0xC001 (s.nextSeq 0xC001) code [])) ∧
    (s.isPair = true → s.acting = true → s.num 0xC000 9 = 3 →
      (s.num 0x7000 2 = 2 → Serves (.handoverCmd r) s r x 0x0A (beBytes 4 (s.nextSeq 0xC001)) id [.par] (outcomeRegisters 0xC001) []
        (fun t => t.acting = true ∧ if Config.peerReady s.raw = true then
          Busy 0xC001 s t ∧ t.par = { s.par with handover := true, handedOver := false }
          else Outcome 0xC001 (s.nextSeq 0xC001) 0x0030 [] t ∧ t.par = s.par)) ∧
      (s.num 0x7000 2 ≠ 2 → Serves (.handoverCmd r) s r x 0x0A (beBytes 4 (s.nextSeq 0xC001)) id [.par, .orr]
        ((0xC000, 5) :: outcomeRegisters 0xC001) (if Config.peerReady s.raw = true then [105] else []) (fun t =>
          if Config.peerReady s.raw = true then Busy 0xC001 s t ∧ t.acting = false ∧
            t.par = { s.par with handover := true, handedOver := true, claim := false }
          else Outcome 0xC001 (s.nextSeq 0xC001) 0x0030 [] t ∧ t.par = s.par ∧ t.acting = true))))

/-- The pair link and mirroring (R329, R474–R479): LINK_STATE is UP only with equal generations and different UNIT_IDs, and each change of
it is an event; a standby over an UP link keeps the last output image, counting one that is late with at most one event per second, the
block state without the reserved bits of its quality words, the tie state of its K, the Photometer registers and the GOOSE counts, and counts each differing band summary; another unit
takes none of them; after PAIR_HOLD without an image, while the peer claims, its BOs float. -/
def Obligations.StandbyTakesTheMirror : Prop :=
  (∀ (h : PairHello) (st : Nat) (s : State), s.settled →
    (s.isPair = false → Does (.pairLinkChanged h) s [] [] [] (fun _ => True)) ∧
    (s.isPair = true → s.par.handover = false →
      st = (if h.trained = false then 0 else if h.generation = s.num 0xC000 0x0A ∧ h.unitId ≠ s.unitId then 3 else 2) →
      Does (.pairLinkChanged h) s [] [(0xC000, 9), (0xC000, 0x0B), (0xC000, 0x0C)] (if s.num 0xC000 9 = st then [] else [106]) (fun t =>
        t.num 0xC000 9 = st ∧ (h.trained = true → t.num 0xC000 0x0B = h.generation ∧ t.bytes 0xC000 0x0C = h.serial) ∧
        (h.trained = false → t.num 0xC000 0x0B = s.num 0xC000 0x0B)))) ∧
  (∀ (im : OutputImage) (k cycle sn sq : Nat) (blocks : List (Nat × Nat × BlockState)) (ties : List (Nat × TieState))
      (regs : List (List PmRegister)) (last : List Et) (bands : List BandSummary) (pub : Fin 16) (s : State), s.settled →
    (s.takesMirror = false → ∀ c : Instr, c = .outputImageReceive im ∨ c = .blockStateReceive cycle blocks ∨ c = .tieStateReceive k ties ∨
        c = .pmRegisterMirror regs last ∨ c = .bandSummaryMirror k bands ∨ c = .gooseCountMirror pub sn sq →
      Does c s [] [] [] (fun _ => True)) ∧
    (s.takesMirror = true →
      (s.num 0x7000 2 ≠ 2 ∨ (s.orr.base = im.base ∧ s.orr.m ≤ im.cycle) →
        Does (.outputImageReceive im) s [.orr, .par] [(0xC000, 0x0D)] [] (fun t => t.orr.imageIn = some im ∧
          t.orr.imageTick = some s.raw ∧ t.num 0xC000 0x0D = s.et ∧ t.par = { s.par with holdExpired := false } ∧ t.orr.m = s.orr.m)) ∧
      (s.num 0x7000 2 = 2 → s.orr.base ≠ im.base → Does (.outputImageReceive im) s [.orr, .par] [(0xC000, 0x0D)] [] (fun t =>
          t.orr.imageIn = some im ∧ t.orr.base = im.base ∧ t.orr.m = im.cycle)) ∧
      (s.num 0x7000 2 = 2 → s.orr.base = im.base → im.cycle < s.orr.m →
        Does (.outputImageReceive im) s [.orr, .par] [(0xC000, 0x0D), (0xC000, 0x0E)]
          (if ∀ l, s.orr.lateTick = some l → l + tickSec ≤ s.raw then [111] else []) (fun t => t.orr.imageIn = some im ∧
            t.num 0xC000 0x0E = State.countUp 32 (s.num 0xC000 0x0E) 1)) ∧
      Does (.blockStateReceive cycle blocks) s [.orr] [] [] (fun t => t.orr = { s.orr with stateIn := some (cycle,
        blocks.map (fun y => (y.1, y.2.1, { y.2.2 with prevQuality := y.2.2.prevQuality &&& 0x07FF#16 }))) }) ∧
      (k < s.num 0x6100 0x0A → Does (.tieStateReceive k ties) s [] [] [] (fun _ => True)) ∧
      (s.num 0x6100 0x0A < k → Does (.tieStateReceive k ties) s [.hor] [] [] (fun t => t.hor = { s.hor with mirrored := some (k, ties) })) ∧
      (k = s.num 0x6100 0x0A → (ties.map (·.1)).Nodup → Does (.tieStateReceive k ties) s [.hor] [] [] (fun t =>
        ∀ n y, (n, y) ∈ ties → lookup n t.hor.ties = some y)) ∧
      Does (.pmRegisterMirror regs last) s [.pm] [] [] (fun t => ∀ b r e, b < 8 → b < s.pm.bays.length → regs[b]? = some r →
        last[b]? = some e → (t.pmBay b).registers = r ∧ (t.pmBay b).mirrored = some (r, e) ∧
        (t.pmBay b).nextCycle = (s.pmBay b).nextCycle) ∧
      (s.num 0x5000 9 < k → Does (.bandSummaryMirror k bands) s [] [] [] (fun _ => True)) ∧
      (k ≤ s.num 0x5000 9 → Does (.bandSummaryMirror k bands) s [] [(0xC000, 0x10)] [] (fun t => t.num 0xC000 0x10 =
        State.countUp 32 (s.num 0xC000 0x10) ((bands.zip (List.range 96)).filter (fun y => decide
          (State.summaryBytes y.1 ≠ padTo 24 (s.elem 0x6011 1 y.2)))).length)) ∧
      (pub.val < s.egr.pubs.length → Does (.gooseCountMirror pub sn sq) s [.egr] [] [] (fun t => (t.goosePub pub.val).stNum = sn ∧
        (t.goosePub pub.val).sqNum = sq)))) ∧
  (∀ s : State, s.settled →
    (s.isPair = true → s.acting = false → s.par.peer = true → s.orr.imageTick.getD 0 + s.c 0xC000 7 * tickMs ≤ s.raw →
      Does .pairHoldExpiry s [.par] [] [] (fun t => t.par = { s.par with holdExpired := true } ∧ t.bosFloat = true)) ∧
    (s.isPair = false ∨ s.acting = true ∨ s.par.peer = false ∨ s.raw < s.orr.imageTick.getD 0 + s.c 0xC000 7 * tickMs →
      Does .pairHoldExpiry s [] [] [] (fun _ => True)))

/-- The witness link (R481–R485): a unit answers a valid POLL with its UNIT by one STATUS, taking PERMIT from it and advancing ALIVE when its
interval was good; its permit lapses, and WITNESS_LOST is raised, after WIT_TIMEOUT. The witness polls both units every HB_PERIOD; a STATUS in
time is taken, a heartbeat when ALIVE differs; one that fails its CRC or does not come counts as no answer; a unit due for it is deposed,
and released after two calm heartbeats. -/
def Obligations.WitnessLinkPermitsAndDeposes : Prop :=
  (∀ (b : List Byte) (s : State), s.settled →
    (s.answersPolls = false ∨ State.witnessFrameOk b 8 1 = false ∨ field b 2 1 ≠ s.unitId → Does (.poll b) s [] [] [] (fun _ => True)) ∧
    (∀ permit : Bool, s.answersPolls = true → State.witnessFrameOk b 8 1 = true → field b 2 1 = s.unitId →
      permit = (field b 4 1).testBit 0 → Does (.poll b) s [.par, .wire] [(0xC000, 6)] [] (fun t =>
        t.par.alive = (if s.intervalAlive = true then (s.par.alive + 1) % 65536 else s.par.alive) ∧ t.par.pollTick = some s.raw ∧
        t.par.lost = false ∧ t.par.notes = ⟨true, false⟩ ∧ t.par.claim = s.par.claim ∧ (permit = true → t.hasPermit = decide (0 < s.c 0xC000 0x18)) ∧
        (permit = false → t.par.permitTick = s.par.permitTick ∧ t.num 0xC000 6 = s.num 0xC000 6) ∧
        ∃ st l, t.wire = s.wire ++ .witness st :: l ∧ State.witnessFrameOk st 12 2 = true ∧ field st 2 1 = s.unitId % 256 ∧
          field st 3 1 = field b 3 1 ∧ field st 4 1 = s.statusState ∧ field st 6 2 = t.par.alive % 65536 ∧
          (field st 5 1).testBit 0 = s.par.claim ∧ (field st 5 1).testBit 1 = s.par.peer ∧ (field st 5 1).testBit 3 = s.par.depose))) ∧
  (∀ s : State, s.settled →
    (s.flag 0xC000 6 = true → s.hasPermit = false → Does .permitLapse s [] [(0xC000, 6)] [] (fun t => t.flag 0xC000 6 = false)) ∧
    (s.flag 0xC000 6 = false ∨ s.hasPermit = true → Does .permitLapse s [] [] [] (fun _ => True)) ∧
    (s.isPair = true → s.par.lost = false → s.par.pollTick.getD 0 + s.c 0xC000 0x18 * tickMs ≤ s.raw →
      Does .witnessLost s [.par] [] [109] (fun t => t.par = { s.par with lost := true })) ∧
    (s.isPair = false ∨ s.par.lost = true ∨ s.raw < s.par.pollTick.getD 0 + s.c 0xC000 0x18 * tickMs →
      Does .witnessLost s [] [] [] (fun _ => True)) ∧
    (s.witnessOn = false ∨ s.raw < s.wit.pollTick + s.c 0xC100 2 * tickUs → Does .witnessPollPeriod s [] [] [] (fun _ => True)) ∧
    (s.witnessOn = true → s.wit.pollTick + s.c 0xC100 2 * tickUs ≤ s.raw → s.wit.units.length = 2 →
      Does .witnessPollPeriod s [.wit, .wire] [] [] (fun t => t.wit.pollTick = s.raw ∧ t.wit.round = s.wit.round + 1 ∧
        (∀ u, u < 2 → (t.witUnit u).polled = some s.raw ∧ (t.witUnit u).seq = ((s.witUnit u).seq + 1) % 256) ∧
        ∃ a b l, t.wire = s.wire ++ .witness a :: .witness b :: l ∧ State.witnessFrameOk a 8 1 = true ∧
          State.witnessFrameOk b 8 1 = true ∧ field a 2 1 = 0 ∧ field b 2 1 = 1 ∧ field a 3 1 = (t.witUnit 0).seq ∧
          field b 3 1 = (t.witUnit 1).seq ∧ (field a 4 1).testBit 0 = s.permitFor 0 ∧ (field b 4 1).testBit 0 = s.permitFor 1))) ∧
  (∀ (b : List Byte) (s : State), s.settled →
    (s.witnessOn = false → Does (.status b) s [] [] [] (fun _ => True)) ∧
    (∀ u, s.witnessOn = true → State.witnessFrameOk b 12 2 = false → s.awaited = some u → u < s.wit.units.length →
      Does (.status b) s [.wit] [(0xC100, 0x0A), (0xC100, 0x0B)] [] (fun t => (t.witUnit u).polled = none ∧
        t.num 0xC100 0x0A = State.countUp 32 (s.num 0xC100 0x0A) 1 ∧ t.num 0xC100 0x0B = State.countUp 32 (s.num 0xC100 0x0B) 1)) ∧
    (∀ u t0 st beat, s.witnessOn = true → State.witnessFrameOk b 12 2 = true → u = field b 2 1 → u ≤ 1 → s.wit.units.length = 2 →
      (s.witUnit u).polled = some t0 → field b 3 1 = (s.witUnit u).seq → s.raw ≤ t0 + 170 * tickUs → st = field b 4 1 →
      beat = ((s.witUnit u).alive != some (field b 6 2)) →
      Does (.status b) s [.wit] [(0xC100, 4 + u), (0xC100, 6 + u), (0xC100, 8), (0xC100, 0x0C)] [] (fun t => t.num 0xC100 (4 + u) = st ∧
        (t.witUnit u).polled = none ∧ (t.witUnit u).state = st ∧ (t.witUnit u).alive = some (field b 6 2) ∧
        (beat = true → (t.witUnit u).hbTick = some s.raw ∧ t.num 0xC100 (6 + u) = s.et) ∧
        (beat = false → (t.witUnit u).hbTick = (s.witUnit u).hbTick ∧ t.num 0xC100 (6 + u) = s.num 0xC100 (6 + u)) ∧
        (beat = true → st ≤ 1 → (field b 5 1).testBit 0 = false → 1 ≤ (s.witUnit u).calm → s.wdep u = true → t.wdep u = false) ∧
        (beat = false ∨ 2 ≤ st ∨ (field b 5 1).testBit 0 = true → (s.witUnit u).calm < 2 → t.wdep u = s.wdep u)))) ∧
  (∀ (u : Fin 2) (s : State), s.settled → u.val < s.wit.units.length →
    ((s.witUnit u.val).polled = none → Does (.statusTimeout u) s [] [] [] (fun _ => True)) ∧
    (∀ t0, (s.witUnit u.val).polled = some t0 →
      (s.witnessOn = true → t0 + 50 * tickUs ≤ s.raw → Does (.statusTimeout u) s [.wit] [(0xC100, 0x0A)] [] (fun t =>
        (t.witUnit u.val).polled = none ∧ t.num 0xC100 0x0A = State.countUp 32 (s.num 0xC100 0x0A) 1)) ∧
      (s.witnessOn = false ∨ s.raw < t0 + 50 * tickUs → Does (.statusTimeout u) s [] [] [] (fun _ => True))) ∧
    (s.witnessOn = true → s.deposeDue u.val = true → Does (.witnessDepose u) s [.wit] [(0xC100, 8), (0xC100, 9)] [110] (fun t =>
      t.wdep u.val = true ∧ t.wdep (1 - u.val) = s.wdep (1 - u.val) ∧ t.num 0xC100 9 = State.countUp 32 (s.num 0xC100 9) 1)) ∧
    (s.witnessOn = false ∨ s.deposeDue u.val = false → Does (.witnessDepose u) s [] [] [] (fun _ => True)) ∧
    (s.deposeDue u.val = true → 2 ≤ (s.witUnit u.val).state ∧ s.wdep u.val = false))

/-! ## Start, restart, persistent images -/

/-- The start sequence (R440–R442, R445, R463, R473, R495–R504, R510): RESET_N low stops the unit and clears its volatile keys; its release samples
the straps and enters stage PUF; each stage does its work only in its turn, records its entry and enters the next one. A stage-2 or main bank
that fails or is found in TRIAL gives way to the other one, and recovery mode is entered when neither verifies; the stored configuration of
highest generation is restored unless it fails; a lane's lease starts with its microcode; calibration says in CAL_STATUS whether it has an
image and every channel passed (log entry 95); acquisition ends when locked or in time; the
watchdog and DEPOSE restart the unit. -/
def Obligations.StartSequenceRunsItsStages : Prop :=
  (∀ s : State, s.settled →
    (s.boot.inReset = true → Does .resetNAssert s [] [] [] (fun _ => True)) ∧
    (s.boot.inReset = false → Reaches .resetNAssert s (fun t => t.boot.inReset = true ∧ t.stage = 0 ∧ t.raw = 0 ∧ t.keys.root = none ∧
      t.keys.rk = none ∧ t.keys.loaded = [] ∧ t.alm.sessions = [] ∧ t.par.claim = false ∧ t.acting = false ∧ t.dram = s.dram ∧
      t.flash.banks = s.flash.banks ∧ t.flash.configA = s.flash.configA ∧ t.flash.configB = s.flash.configB ∧
      t.num 0xB100 0x0B = s.num 0xB100 0x0B ∧ t.num 0xD000 4 = s.num 0xD000 4 ∧ t.num 0x1401 1 = s.num 0x1401 1 ∧
      (2 ≤ s.power → t.num 0xF140 4 = 5) ∧ t.bosFloat = true ∧ ∀ n, n < 8 → t.toLevel n = 2)) ∧
    (1 < s.power ∨ s.boot.inReset = true ∨ s.stage < 4 ∨ s.stage = 15 → Does .watchdogExpiry s [] [] [] (fun _ => True)) ∧
    (s.power ≤ 1 → s.boot.inReset = false → 4 ≤ s.stage → s.stage ≠ 15 → Reaches .watchdogExpiry s (fun t => t.stage = 1 ∧
      t.boot.inReset = false ∧ t.num 0xD000 3 = 5 ∧ t.num 0xD000 4 = State.countUp 32 (s.num 0xD000 4) 1 ∧ t.keys.root = none ∧
      t.keys.loaded = [] ∧ t.alm.sessions = [] ∧ t.flash.banks = s.flash.banks ∧ t.num 0x1401 1 = s.num 0x1401 1))) ∧
  (∀ (unitId witMode recoverLow aonLost powerOn : Bool) (s : State), s.settled →
    (s.boot.inReset = false → Does (.resetNRelease unitId witMode recoverLow aonLost powerOn) s [] [] [] (fun _ => True)) ∧
    (s.boot.inReset = true → Does (.resetNRelease unitId witMode recoverLow aonLost powerOn) s [.boot, .keys, .par, .dram]
      [(0x1401, 1), (0xB100, 0x0B), (0xC000, 2), (0xC000, 3), (0xD000, 1), (0xD000, 2), (0xD000, 3), (0xD000, 4)]
      (if s.par.deposed = true ∧ aonLost = false then [108] else []) (fun t => t.stage = 1 ∧ t.elem 0xD000 2 1 = etBytes s.et ∧
        t.boot = { s.boot with inReset := false, recoverLow := recoverLow, cause := if powerOn then 0 else 1, stageTick := s.raw } ∧
        t.num 0x1401 1 < 8 ∧ (t.num 0x1401 1).testBit 0 = unitId ∧ (t.num 0x1401 1).testBit 1 = witMode ∧
        (t.num 0x1401 1).testBit 2 = recoverLow ∧ t.flag 0xC000 2 = unitId ∧ t.flag 0xC000 3 = witMode ∧
        t.num 0xD000 3 = (if powerOn then 0 else 1) ∧ t.num 0xD000 4 = State.countUp 32 (s.num 0xD000 4) 1 ∧
        t.num 0xB100 0x0B = (if aonLost then 0 else s.num 0xB100 0x0B) ∧ t.par = { s.par with deposed := false } ∧
        t.keys = (if aonLost then { s.keys with aonLost := true } else s.keys) ∧ t.dram = if powerOn then [] else s.dram))) ∧
  (∀ (attempts : List PufRead) (failed : List (Fin 48)) (s : State), s.settled →
    (∀ c n, (c, n) ∈ [(Instr.stagePuf attempts, 1), (Instr.stageRom, 2), (Instr.stageStage2, 3), (Instr.stageMain, 4),
        (Instr.stageMicrocode, 5), (Instr.stageCalibration failed, 6)] → s.boot.inReset = true ∨ s.stage ≠ n →
      Does c s [] [] [] (fun _ => True)) ∧
    (s.boot.inReset = false → s.stage = 1 →
      (∀ pre a post, s.keys.aonLost = false → attempts = pre ++ a :: post → pre.length ≤ 2 →
        (∀ y ∈ pre, y.copyA = false ∧ y.copyB = false) → a.copyA = true ∨ a.copyB = true →
        Does (.stagePuf attempts) s [.keys, .boot]
          [(0xB100, 5), (0xB100, 6), (0xB100, 7), (0xB100, 8), (0xD000, 1), (0xD000, 2)]
          (if 100000 < a.berPpm then [98] else []) (fun t => t.stage = 2 ∧ t.elem 0xD000 2 2 = etBytes s.et ∧
            t.keys = { s.keys with root := some unitRoot, rk := some (recoveryKey unitRoot) } ∧
            t.num 0xB100 5 = (if pre = [] then 0 else 1) ∧ t.num 0xB100 6 = a.berPpm ∧ t.bytes 0xB100 8 = rkFingerprint (recoveryKey unitRoot) ∧
            t.num 0xB100 7 = if a.copyA = false then 1 else if a.copyB = false then 2 else 0)) ∧
      ((∀ y ∈ attempts.take 3, y.copyA = false ∧ y.copyB = false) → s.keys.root = none →
        (s.keys.aonLost = false → Does (.stagePuf attempts) s [.boot]
          [(0xB100, 1), (0xB100, 5), (0xB100, 6), (0xB100, 7), (0xD000, 1), (0xD000, 2)] [99] (fun t => t.stage = 2 ∧
            t.restricted = true ∧ t.num 0xB100 5 = 2 ∧ t.num 0xB100 7 = 3)) ∧
        (s.keys.aonLost = true → Reaches (.stagePuf attempts) s (fun t => t.stage = 2 ∧ t.keys.aonLost = false ∧
            (t.num 0xB100 0x0B).testBit 8 = true)))) ∧
    (s.boot.inReset = false → s.stage = 2 → s.boot.recoverLow = true → Does .stageRom s [.boot] [(0xD000, 1), (0xD000, 2), (0xD000, 5)] []
      (fun t => t.stage = 15 ∧ t.num 0xD000 5 = 1)) ∧
    (s.boot.inReset = false → s.stage = 2 → s.boot.recoverLow = false → s.flash.enterRecovery = true →
      Does .stageRom s [.boot, .flash] [(0xD000, 1), (0xD000, 2), (0xD000, 5)] [] (fun t => t.stage = 15 ∧ t.num 0xD000 5 = 4 ∧
        t.flash = { s.flash with enterRecovery := false })) ∧
    (∀ c n type a o k, (c, n, type) ∈ [(Instr.stageRom, 2, 0), (Instr.stageStage2, 3, 1)] → s.boot.inReset = false → s.stage = n →
      (n = 2 → s.boot.recoverLow = false ∧ s.flash.enterRecovery = false) → s.flash.tried.length = 3 →
      k = (if n = 2 then s.keys.root.elim s (fun root => s.loadSlot root 1) else s).ks1Point →
      a = s.activeBank type → a < 2 → o = 1 - a →
      (bankCheck k type (s.bank type a) = 0 → (s.bankState type a = 6 → nth s.flash.tried type true = false) → Reaches c s (fun t =>
        t.stage = n + 1 ∧ t.activeBank type = a ∧ (s.bankState type a = 6 → nth t.flash.tried type false = true) ∧
        (n = 2 → t.measurement = extendM (extendM s.measurement Config.romImage) (s.activeImage 0) ∧
          t.elem 0xB100 4 0 = sha384 Config.romImage ∧ t.elem 0xB100 4 1 = sha384 (s.activeImage 0)) ∧
        (n = 3 → t.measurement = extendM s.measurement (s.activeImage 1) ∧ t.elem 0xB100 4 2 = sha384 (s.activeImage 1) ∧
          t.num 0xC000 0x0A = field (s.activeImage 1) 20 1 ∧ t.bankState 0 (s.activeBank 0) ≠ 6 ∧ t.boot.mainTick = s.raw))) ∧
      (bankCheck k type (s.bank type a) ≠ 0 ∨ s.bankState type a = 6 ∧ nth s.flash.tried type true = true →
        (bankCheck k type (s.bank type o) = 0 → Reaches c s (fun t => t.stage = n + 1 ∧ t.activeBank type = o ∧ t.bankState type o = 5 ∧
          t.bankState type a = 4 ∧ t.num (0xD010 + type) 0x0A = State.countUp 32 (s.num (0xD010 + type) 0x0A) 1 ∧
          beNat (t.elem 0xA801 2 123) = countAfter (beNat (s.elem 0xA801 2 123)) 1)) ∧
        (bankCheck k type (s.bank type o) ≠ 0 → Reaches c s (fun t => t.stage = 15 ∧ t.num 0xD000 5 = n ∧ t.activeBank type = a ∧
          t.bankState type a = 4 ∧ beNat (t.elem 0xA801 2 123) = beNat (s.elem 0xA801 2 123))))) ∧
    (s.boot.inReset = false → s.stage = 4 →
      (∀ l x, l = [s.flash.configA, s.flash.configB].filterMap id →
        (l = [] → Reaches .stageMain s (fun t => t.stage = 5 ∧ t.cfg = [] ∧ t.staged = [] ∧ t.num 0xD000 8 = 1 ∧ t.num 0xD000 7 = 0)) ∧
        (l ≠ [] → (∀ y ∈ l, y.intact = false) → Reaches .stageMain s (fun t => t.stage = 5 ∧ t.cfg = [] ∧ t.staged = [] ∧
          t.num 0xD000 8 = 2 ∧ beNat (t.elem 0xA801 2 122) = countAfter (beNat (s.elem 0xA801 2 122)) 1 ∧
          t.flash.configA = s.flash.configA ∧ t.flash.configB = s.flash.configB)) ∧
        (∀ bad, x ∈ l → x.intact = true → (∀ y ∈ l, y.intact = true → y = x ∨ y.generation < x.generation) →
          bad = (s.lockM.loadKeys.setN 0xD000 7 s.configGeneration).validateStored x.entries →
          (bad = [] → Reaches .stageMain s (fun t => t.stage = 5 ∧ t.cfg = x.entries ∧ t.staged = x.entries ∧ t.num 0xD000 8 = 0 ∧
            t.num 0xD000 9 = 1 ∧ t.measurement = extendM s.measurement (measuredSection x.entries))) ∧
          (bad ≠ [] → Reaches .stageMain s (fun t => t.stage = 5 ∧ t.cfg = [] ∧ t.num 0xD000 8 = 2 ∧
            beNat (t.elem 0xA801 2 122) = countAfter (beNat (s.elem 0xA801 2 122)) 1)))) ∧
      Reaches .stageMain s (fun t => t.stage = 5 ∧ t.keys.locked = true ∧ (s.keys.root = none ∨ s.num 0xB100 0x0B ≠ 0 →
        t.restricted = true ∧ t.keys.root = none ∧ t.keys.loaded = []))) ∧
    (s.boot.inReset = false → s.stage = 5 → Does .stageMicrocode s [.fab, .boot] [(0xD000, 1), (0xD000, 2)] [] (fun t => t.stage = 6 ∧
      ∀ p ∈ t.fab.lanes, p.leaseTick = s.raw)) ∧
    (s.boot.inReset = false → s.stage = 6 → s.loc.channels.length = 48 → Reaches (.stageCalibration failed) s (fun t => t.stage = 7 ∧
      t.num 0x3200 0x0B = 1 ∧
      (∀ ch : Fin 48, (t.channel ch).calFailed = (s.cB (0x3000 + ch.val) 1 && (decide (ch ∈ failed) || !(s.chooseBank 2).2))) ∧
      (t.num 0x3200 0x0C = 1 ∨ t.num 0x3200 0x0C = 2) ∧
      (t.num 0x3200 0x0C = 1 ↔ (s.chooseBank 2).2 = true ∧ ∀ ch : Fin 48, (t.channel ch).calFailed = false))) ∧
    (∀ c events, (c = .acquisitionEnd ∧ events = [] ∧ (s.locked = true ∨ (s.c 0x2000 0x16 = 0 ∧ s.c 0x2000 0x17 = 0))) ∨
        (c = .acquisitionTimeout ∧ events = [121] ∧ s.boot.stageTick + s.c 0xD000 6 * tickSec ≤ s.raw) → s.stage = 7 → s.boot.inReset = false →
      Does c s [.boot, .loc] [(0xD000, 1), (0xD000, 2), (0x3200, 0x0B)] events (fun t => t.stage = 8 ∧ t.elem 0xD000 2 8 = etBytes s.et ∧
        (s.num 0x3200 0x0B ≠ 0 → s.loc.waiting = none → t.num 0x3200 0x0B = 1 ∧ ∃ S, t.loc.waiting = some S ∧ S % sec = 0 ∧
          s.et + 100 * ms ≤ S ∧ S < s.et + 100 * ms + sec))) ∧
    (s.stage ≠ 7 ∨ s.boot.inReset = true ∨ (s.locked = false ∧ (s.c 0x2000 0x16 ≠ 0 ∨ s.c 0x2000 0x17 ≠ 0)) →
      Does .acquisitionEnd s [] [] [] (fun _ => True)) ∧
    (s.stage ≠ 7 ∨ s.boot.inReset = true ∨ s.raw < s.boot.stageTick + s.c 0xD000 6 * tickSec →
      Does .acquisitionTimeout s [] [] [] (fun _ => True)))

/-- Persistent images and restarts (R501, R504–R510, R512): PREPARE erases the inactive bank and makes the session its owner, DOWNLOAD fills it
through the window, VERIFY makes it VERIFIED or INVALID, ACTIVATE checks versions, pair generation and the acting unit before it makes the bank
active in TRIAL, at once, through a service pause or through a restart; ABANDON empties it; an image that has passed leaves TRIAL. RESTART and
ENTER_RECOVERY restart the unit. The committed configuration goes, with the next generation, into the copy that is not the newest. -/
def Obligations.FirmwareIsLoadedVerifiedAndActivated : Prop :=
  (∀ (r : Req) (x : Session) (s : State) (type idle st : Nat), s.settled → Heard s r x → (s.restricted = true → s.stage = 15) → State.writeRole 0xD020 1 ≤ x.role →
    16 ≤ x.maxPayload → s.num 0xD021 2 = 0 → type = s.ownNum x.id 0xD020 2 → type < 3 → s.activeBank type < 2 →
    idle = s.idleBank type → st = s.bankState type idle →
    ∀ job : Instr → List (Nat × Nat) → Job → Prop, job = (fun c regs j =>
        Serves c s r x 0x0A (beBytes 4 (s.nextSeq 0xD021)) (fun a => { a with jobs := a.jobs ++ [j] }) [] (regs ++ busyRegisters 0xD021) []
          (fun t => Busy 0xD021 s t ∧ ((regs ≠ []) → t.bankState type idle = 2))) →
    ∀ quick : Instr → Nat → List Byte → Prop, quick = (fun c code data => Serves c s r x 0x0A (beBytes 4 (s.nextSeq 0xD021)) id []
        (outcomeRegisters 0xD021) [] (Outcome 0xD021 (s.nextSeq 0xD021) code data)) →
    job (.prepare r) [] ⟨0xD021, 0, [], .prepare type x.id⟩ ∧
    job (.enterRecovery r) [] ⟨0xD021, 0, [], .enterRecovery⟩ ∧
    (1 ≤ st → st ≤ 4 → job (.abandon r) [] ⟨0xD021, 0, [], .abandon type⟩) ∧
    (st = 0 ∨ 4 < st → quick (.abandon r) 3 []) ∧
    (st = 0 → quick (.fwVerify r) 3 []) ∧
    (∀ code, st ≠ 0 → code = s.fwCheck type → job (.fwVerify r) [(0xD010 + type, 2 + idle)] ⟨0xD021, code,
      if code = 0 then beBytes 4 (imageVersion (s.bankBytes type idle)) else [], .verify type (code == 0)⟩) ∧
    (st ≠ 3 → quick (.activate r) 3 []) ∧
    (st = 3 → s.stage ≠ 15 →
      (∀ p, s.badPeer type = some p → quick (.activate r) 0x41 [byte p.1, byte p.2]) ∧
      (s.badPeer type = none → ∀ mode gen live, mode = s.ownNum x.id 0xD020 3 →
        gen = (s.isPair && s.num 0xC000 9 == 3 && type == 1 && !mode.testBit 1 &&
          field (s.bankBytes 1 (s.idleBank 1)) 20 1 != s.num 0xC000 0x0B) →
        live = (!mode.testBit 0 && type != 0) →
        (gen = true → quick (.activate r) 0x42 []) ∧
        (gen = false → live = true → s.isPair = true → s.acting = true → quick (.activate r) 0x40 []) ∧
        (gen = false → ¬ (live = true ∧ s.isPair = true ∧ s.acting = true) →
          (s.resultState 0x1201 = 1 → quick (.activate r) 3 []) ∧
          (s.resultState 0x1201 ≠ 1 →
            (mode.testBit 0 = true → job (.activate r) [] ⟨0xD021, 0, [], .activate type true false⟩) ∧
            (live = true → Reaches (.activate r) s (fun t => Busy 0xD021 s t ∧ t.boot.paused = true ∧ t.alm.sessions = [] ∧
              t.alm.jobs = s.alm.jobs ++ [⟨0xD021, 0, [], .activate type false (s.changesMicrocode type)⟩] ∧
              (s.changesMicrocode type = true → t.tr.running = false))) ∧
            (mode.testBit 0 = false → type = 0 → 3 ≤ s.flash.tried.length →
              Serves (.activate r) s r x 0x0A (beBytes 4 (s.nextSeq 0xD021)) id [.flash]
                ([(0xD010, 1), (0xD010, 2), (0xD010, 3)] ++ outcomeRegisters 0xD021) [125] (fun t => Outcome 0xD021 (s.nextSeq 0xD021) 0 [] t ∧
                  t.activeBank 0 = idle ∧ t.bankState 0 idle = 6 ∧ t.bankState 0 (1 - idle) = 3 ∧
                  t.flash = { s.flash with tried := s.flash.tried.set 0 false })))))) ∧
    (st = 3 → s.stage = 15 → type < s.flash.banks.length → Serves (.activate r) s r x 0x0A (beBytes 4 (s.nextSeq 0xD021)) id [.flash]
      ([(0xD010 + type, 1), (0xD010 + type, 2), (0xD010 + type, 3)] ++ outcomeRegisters 0xD021) [125] (fun t =>
        Outcome 0xD021 (s.nextSeq 0xD021) 0 [] t ∧ t.activeBank type = 0 ∧ t.bankState type 0 = 5 ∧ t.bankState type 1 = 3 ∧
        ∀ b, b < 2 → t.bank type b = .written (imageCut (s.bankBytes type idle)))) ∧
    (∀ (image : Fin 3) first bytes old off b, b = s.idleBank image.val → x.role ≥ State.writeRole (0xD010 + image.val) 6 →
      8 + bytes.length ≤ x.maxPayload → first + bytes.length ≤ 65536 → off = s.ownNum x.id (0xD010 + image.val) 7 + first →
      (s.num (0xD010 + image.val) 9 ≠ x.id → Aborts (.download r image first bytes) s r x 0x07 0x000A (0xD010 + image.val) 6 first) ∧
      (s.num (0xD010 + image.val) 9 = x.id → s.bankState image.val b = 1 → s.bank image.val b = .written old → b < 2 →
        image.val < s.flash.banks.length → bytes ≠ [] → Serves (.download r image first bytes) s r x 0x07 [] id [.flash] [(0xD010 + image.val, 8)] [] (fun t =>
          t.num (0xD010 + image.val) 8 = max (s.num (0xD010 + image.val) 8) (off + bytes.length) ∧
          ∃ new, t.bank image.val b = .written new ∧ new.length = max old.length (off + bytes.length) ∧
            ∀ i, i < new.length → new[i]? = if i < off ∨ off + bytes.length ≤ i then some (old.getD i 0xFF) else bytes[i - off]?)) ∧
      (s.num (0xD010 + image.val) 9 = x.id → s.bankState image.val b = 1 → bytes = [] →
        Serves (.download r image first bytes) s r x 0x07 [] id [] [] [] (fun _ => True)))) ∧
  (∀ (j : Job) (type idle other : Nat) (s : State), s.settled → s.job 0xD021 = some j → idle = s.idleBank type → type < 3 →
    other = s.activeBank type → other < 2 →
    s.flash.banks.length = 3 → s.flash.tried.length = 3 →
    (∀ sess, j.action = .prepare type sess → Does (.commandComplete 0xD021) s [.alm, .flash]
      ([(0xD010 + type, 2 + idle), (0xD010 + type, 8), (0xD010 + type, 9)] ++ outcomeRegisters 0xD021) [] (fun t =>
        Outcome 0xD021 (s.num 0xD021 6) 0 [] t ∧ t.job 0xD021 = none ∧ t.bank type idle = .written [] ∧ t.bankState type idle = 1 ∧
        t.num (0xD010 + type) 8 = 0 ∧ t.num (0xD010 + type) 9 = (if (s.session sess).isSome then sess else 0) ∧
        t.bank type other = s.bank type other)) ∧
    (∀ valid, j.action = .verify type valid → Does (.commandComplete 0xD021) s [.alm]
      ((0xD010 + type, 2 + idle) :: outcomeRegisters 0xD021) (if valid then [] else [124]) (fun t =>
        Outcome 0xD021 (s.num 0xD021 6) j.code j.data t ∧ t.job 0xD021 = none ∧ t.bankState type idle = if valid then 3 else 4)) ∧
    (j.action = .abandon type → Does (.commandComplete 0xD021) s [.alm, .flash]
      ([(0xD010 + type, 2 + idle), (0xD010 + type, 8), (0xD010 + type, 9)] ++ outcomeRegisters 0xD021) [] (fun t =>
        Outcome 0xD021 (s.num 0xD021 6) 0 [] t ∧ t.bank type idle = .blank ∧ t.bankState type idle = 0 ∧ t.num (0xD010 + type) 9 = 0)) ∧
    (∀ micro, j.action = .activate type false micro → Reaches (.commandComplete 0xD021) s (fun t =>
      Outcome 0xD021 (s.num 0xD021 6) 0 [] t ∧ t.boot.paused = false ∧ t.activeBank type = idle ∧ t.bankState type idle = 6 ∧
      t.bankState type other = 3 ∧ nth t.flash.tried type false = true ∧ t.measurement = s.measurement ∧ t.keys = s.keys ∧
      beNat (t.elem 0xA801 2 125) = countAfter (beNat (s.elem 0xA801 2 125)) 1 ∧
      (micro = true → s.num 0x3200 0x0B ≠ 0 → t.loc.waiting ≠ none))) ∧
    (∀ micro, j.action = .activate type true micro → Reaches (.commandComplete 0xD021) s (fun t => Outcome 0xD021 (s.num 0xD021 6) 0 [] t ∧
      t.stage = 1 ∧ t.num 0xD000 3 = 3 ∧ t.activeBank type = idle ∧ t.bankState type idle = 6 ∧ nth t.flash.tried type true = false ∧
      t.keys.root = none ∧ t.alm.sessions = [] ∧ t.par.claim = false)) ∧
    (j.action = .enterRecovery → Reaches (.commandComplete 0xD021) s (fun t => Outcome 0xD021 (s.num 0xD021 6) 0 [] t ∧ t.stage = 1 ∧
      t.flash.enterRecovery = true ∧ t.alm.sessions = []))) ∧
  (∀ (j : Job) (image : Fin 3) (s : State), s.settled →
    (s.job 0x1F01 = some j → j.action = .restart → Reaches (.commandComplete 0x1F01) s (fun t => Outcome 0x1F01 (s.num 0x1F01 6) 0 [] t ∧
      t.stage = 1 ∧ t.num 0xD000 3 = (if s.stage = 15 then 7 else 2) ∧ t.alm.sessions = [] ∧ t.keys.root = none ∧ t.par.claim = false ∧
      t.num 0xD000 4 = State.countUp 32 (s.num 0xD000 4) 1 ∧
      t.flash.recovered = if s.stage = 15 then some (s.num 0xD000 5) else s.flash.recovered)) ∧
    (s.activeBank image.val < 2 →
      (s.bankState image.val (s.activeBank image.val) = 6 → s.boot.inReset = false → s.stage ≠ 15 → 4 ≤ s.stage → s.boot.paused = false →
        s.boot.mainTick + 10 * tickSec ≤ s.raw → s.chainOn = true → (∀ ch, ch < 48 → (s.channel ch).calFailed = false) →
        Does (.trialEnd image) s [] [(0xD010 + image.val, 2 + s.activeBank image.val)] [] (fun t => t.bankState image.val (s.activeBank image.val) = 5)) ∧
      (s.bankState image.val (s.activeBank image.val) ≠ 6 ∨ s.boot.inReset = true ∨ s.stage = 15 ∨
        (image = 1 ∧ s.raw < s.boot.mainTick + 10 * tickSec) ∨ (image = 2 ∧ s.chainOn = false) → Does (.trialEnd image) s [] [] [] (fun _ => True))) ∧
    (s.boot.saveDue = false ∨ 1 < s.power ∨ s.boot.paused = true → Does .configSave s [] [] [] (fun _ => True)) ∧
    (s.boot.saveDue = true → s.power ≤ 1 → s.boot.paused = false → Does .configSave s [.flash, .boot] [(0xD000, 7), (0xD000, 9)] [] (fun t =>
      t.num 0xD000 7 = s.configGeneration + 1 ∧ t.num 0xD000 9 = 1 ∧ t.boot = { s.boot with saveDue := false } ∧
      t.flash = if (s.flash.configA.map (·.generation)) = some s.configGeneration then
          { s.flash with configB := some ⟨s.configGeneration + 1, s.cfg, true⟩ }
        else { s.flash with configA := some ⟨s.configGeneration + 1, s.cfg, true⟩ })))

/-! ## Health -/

/-- Events and monitors (R520, R526, R528): ACK clears one PENDING bit, or all, and releases the IRQ pins that are still due for 2 µs, until they are
re-armed; a snapshot, by command or after SNAP_PERIOD, captures the 80 counters and its ET; a sample of the monitors writes temperatures,
maxima and rails, raises TEMP_WARNING when a die rises to TEMP_WARN and again only from 2 °C below it, SUPPLY_WARNING when a rail leaves the
tolerance of its reference, and follows the supply and temperature sources of tamper. -/
def Obligations.HostsAcknowledgeAndMonitorsWarn : Prop :=
  (∀ (r : Req) (x : Session) (s : State), s.settled →
    (∀ source, Writes s r x 0xA800 3 → source < 128 ∨ source = 0xFFFF →
      Serves (.eventAck r source) s r x 0x02 [] id [.ev] [] [] (fun t =>
        t.ev.core = ({ s.ev with irqGap := (List.range 4).map (fun n => if t.irqDue n then some s.raw else none) } : Events).core ∧ (∀ n, n < 4 → t.ev.irqLow[n]? = some false) ∧
        ∀ n, n < 128 → ((t.bytes 0xA800 2).getD (n / 8) 0).getLsbD (n % 8) =
          (((s.bytes 0xA800 2).getD (n / 8) 0).getLsbD (n % 8) && decide (source ≠ n ∧ source ≠ 0xFFFF)))) ∧
    (∀ source, Writes s r x 0xA800 3 → 128 ≤ source → source < 0xFFFF → Aborts (.eventAck r source) s r x 0x02 0x0006 0xA800 3 0) ∧
    (Commands s r x 0xE050 1 0xE051 → Serves (.counterSnapshotCmd r) s r x 0x0A (beBytes 4 (s.nextSeq 0xE051)) id []
      ([(0xE050, 3), (0xE050, 4), (0xE050, 6)] ++ outcomeRegisters 0xE051) [] (fun t => Outcome 0xE051 (s.nextSeq 0xE051) 0 (etBytes s.et) t ∧
        t.num 0xE050 3 = s.et ∧ t.num 0xE050 6 = State.countUp 32 (s.num 0xE050 6) 1 ∧
        ∀ c, c < 80 → t.elem 0xE050 4 c = beBytes 8 (s.num (0xE000 + c) 2)))) ∧
  (∀ (pin : Fin 4) (s : State), s.settled →
    (∀ t0, nth s.ev.irqGap pin.val none = some t0 →
      (t0 + 2 * tickUs ≤ s.raw → Does (.irqRearm pin) s [.ev] [] [] (fun t =>
        t.ev.core = ({ s.ev with irqGap := s.ev.irqGap.set pin.val none } : Events).core ∧
        t.ev.irqLow[pin.val]? = some (s.irqDue pin.val))) ∧
      (s.raw < t0 + 2 * tickUs → Does (.irqRearm pin) s [] [] [] (fun _ => True))) ∧
    (nth s.ev.irqGap pin.val none = none → Does (.irqRearm pin) s [] [] [] (fun _ => True)) ∧
    (s.c 0xE050 2 = 0 ∨ s.raw < s.ev.snapDue → Does .snapPeriodExpiry s [] [] [] (fun _ => True)) ∧
    (s.c 0xE050 2 ≠ 0 → s.ev.snapDue ≤ s.raw → Does .snapPeriodExpiry s [.ev] [(0xE050, 3), (0xE050, 4), (0xE050, 6)] [] (fun t =>
      t.ev.core = ({ s.ev with snapDue := s.ev.snapDue + s.c 0xE050 2 * tickMs } : Events).core ∧ t.num 0xE050 3 = s.et ∧
      t.num 0xE050 6 = State.countUp 32 (s.num 0xE050 6) 1 ∧ ∀ c, c < 80 → t.elem 0xE050 4 c = beBytes 8 (s.num (0xE000 + c) 2)))) ∧
  (∀ (temps : List F32) (rails : List Nat) (s : State), s.settled →
    (s.boot.inReset = true → Does (.monitorSample temps rails) s [] [] [] (fun _ => True)) ∧
    (s.boot.inReset = false → s.ev.hot.length = 6 → s.ev.tjFresh.length = 6 → s.ev.railOut.length = 9 →
      ∀ (warms : Nat → F32 → Bool) (leaves : Nat → Nat → Bool),
      warms = (fun d tj => !nth s.ev.hot d false && (F32.ofInt (s.c 0xF010 0x0B)).le tj) →
      leaves = (fun (n mv : Nat) => ((s.railReference n).map (fun (v : Nat) =>
        decide (s.c 0xF010 0x0A * v < 100 * ((mv : Int) - (v : Int)).natAbs))).getD false) →
      Does (.monitorSample temps rails) s [.ev] ((0xB100, 0x0C) :: ((List.range 6).flatMap (fun d =>
          [(0xF000 + d, (State.tjSubs d).1), (0xF000 + d, (State.tjSubs d).2)]) ++ (List.range 9).map (fun n => (0xF010, n + 1))))
        (List.replicate (((temps.take 6).zipIdx.filter (fun y => warms y.2 y.1)).length) 116 ++
          List.replicate (((rails.take 9).zipIdx.filter (fun y => leaves y.2 y.1 && !nth s.ev.railOut y.2 false)).length) 117) (fun t =>
        (∀ d tj old, d < 6 → temps[d]? = some tj → old = s.f32 (0xF000 + d) (State.tjSubs d).2 → t.f32 (0xF000 + d) (State.tjSubs d).1 = tj ∧
          t.f32 (0xF000 + d) (State.tjSubs d).2 = (if nth s.ev.tjFresh d true = true ∨ old.lt tj = true then tj else old) ∧
          nth t.ev.tjFresh d true = false ∧
          nth t.ev.hot d false = (warms d tj || (nth s.ev.hot d false && !tj.le (F32.ofInt ((s.c 0xF010 0x0B : Int) - 2))))) ∧
        (∀ n mv, n < 9 → rails[n]? = some mv → t.num 0xF010 (n + 1) = mv ∧
          nth t.ev.railOut n false = if s.railReference n = none then nth s.ev.railOut n false else leaves n mv) ∧
        (t.num 0xB100 0x0C).testBit 4 = State.supplyActive rails ∧ (t.num 0xB100 0x0C).testBit 6 = State.heatActive temps ∧
        ∀ b, b ≠ 4 → b ≠ 6 → (t.num 0xB100 0x0C).testBit b = (s.num 0xB100 0x0C).testBit b)))

/-- CLEAR of the performance counters (R527): a write of c sets VALUE of counter c to 0, a write of 0xFF those of all 80; another value is out
of range. What is counted at or after the clear counts in the new value, and OVERFLOWS stays as it was. -/
def Obligations.ClearZeroesCounters : Prop :=
  ∀ (r : Req) (x : Session) (s : State), s.settled → Writes s r x 0xE050 5 →
    (∀ c, c < 80 → Serves (.counterClear r 0xE050 5 c) s r x 0x02 [] id [] [(0xE000 + c, 2)] [] (fun t =>
      t.num (0xE000 + c) 2 = 0 ∧ t.num (0xE000 + c) 3 = s.num (0xE000 + c) 3 ∧
      ∀ n, n < 2 ^ 48 → (t.countIn c n).num (0xE000 + c) 2 = n ∧ (t.countIn c n).num (0xE000 + c) 3 = s.num (0xE000 + c) 3)) ∧
    Serves (.counterClear r 0xE050 5 0xFF) s r x 0x02 [] id [] ((List.range 80).map (fun c => (0xE000 + c, 2))) [] (fun t =>
      ∀ c, c < 80 → t.num (0xE000 + c) 2 = 0 ∧ t.num (0xE000 + c) 3 = s.num (0xE000 + c) 3 ∧
        ∀ n, n < 2 ^ 48 → (t.countIn c n).num (0xE000 + c) 2 = n ∧ (t.countIn c n).num (0xE000 + c) 3 = s.num (0xE000 + c) 3) ∧
    (∀ c, 80 ≤ c → c < 0xFF → Aborts (.counterClear r 0xE050 5 c) s r x 0x02 0x0006 0xE050 5 0)
end

