-- ==== Sys2Proof/Laws/Bytes.lean ====
section
/-! SUPPORT. Laws of byte strings: the length of an encoded number, and that it decodes to itself. -/

namespace Sys2Proof.Machine

@[simp] theorem beBytes_length (w n : Nat) : (beBytes w n).length = w := by
  induction w generalizing n with
  | zero => rfl
  | succ w ih => simp [beBytes, ih]

theorem beNat_foldl (b : List Byte) (a : Nat) :
    b.foldl (fun a x => a * 256 + x.toNat) a = a * 256 ^ b.length + beNat b := by
  induction b generalizing a with
  | nil => simp [beNat]
  | cons x rest ih =>
    unfold beNat
    simp only [List.foldl_cons, List.length_cons]
    rw [ih, ih (0 * 256 + x.toNat)]
    simp only [Nat.zero_mul, Nat.zero_add, Nat.pow_succ]
    ring

theorem beNat_cons (x : Byte) (b : List Byte) : beNat (x :: b) = x.toNat * 256 ^ b.length + beNat b := by
  rw [beNat, List.foldl_cons, beNat_foldl]; simp

theorem beNat_append (a b : List Byte) : beNat (a ++ b) = beNat a * 256 ^ b.length + beNat b := by
  rw [beNat, List.foldl_append, beNat_foldl]; rfl

theorem beNat_lt (b : List Byte) : beNat b < 256 ^ b.length := by
  induction b with
  | nil => simp [beNat]
  | cons x rest ih =>
    rw [beNat_cons, List.length_cons, Nat.pow_succ]
    have := x.isLt
    have : x.toNat ≤ 255 := by omega
    nlinarith

/-- A number written in `w` bytes reads back as its low 8·w bits. -/
theorem beNat_beBytes (w n : Nat) : beNat (beBytes w n) = n % 256 ^ w := by
  induction w generalizing n with
  | zero => simp [beBytes, beNat, Nat.mod_one]
  | succ w ih =>
    rw [beBytes, beNat_cons, ih, beBytes_length, byte, BitVec.toNat_ofNat, Nat.shiftRight_eq_div_pow, pow_mul]
    rw [show (2 : Nat) ^ 8 = 256 from rfl, Nat.pow_succ, mul_comm (n / 256 ^ w % 256), add_comm, ← Nat.mod_mul]

theorem beNat_beBytes_of_lt {w n : Nat} (h : n < 256 ^ w) : beNat (beBytes w n) = n := by
  rw [beNat_beBytes, Nat.mod_eq_of_lt h]

theorem byte_toNat_of_lt {n : Nat} (h : n < 256) : (byte n).toNat = n := by
  rw [byte, BitVec.toNat_ofNat]; exact Nat.mod_eq_of_lt h

/-- A byte string of `w` bytes is the encoding of the number it spells. -/
theorem beBytes_beNat (b : List Byte) : beBytes b.length (beNat b) = b := by
  induction b with
  | nil => rfl
  | cons x rest ih =>
    rw [List.length_cons, beBytes, beNat_cons]
    have hl := beNat_lt rest
    have low : ∀ (w k m : Nat), beBytes w (k * 256 ^ w + m) = beBytes w m := by
      intro w
      induction w with
      | zero => intros; rfl
      | succ w ihw =>
        intro k m
        rw [beBytes, beBytes]
        congr 1
        · apply BitVec.eq_of_toNat_eq
          rw [byte, byte, BitVec.toNat_ofNat, BitVec.toNat_ofNat, Nat.shiftRight_eq_div_pow, Nat.shiftRight_eq_div_pow, pow_mul,
            show (2 : Nat) ^ 8 = 256 from rfl, Nat.pow_succ, show k * (256 ^ w * 256) + m = m + 256 ^ w * (k * 256) by ring,
            Nat.add_mul_div_left _ _ (by positivity)]
          omega
        · rw [Nat.pow_succ, show k * (256 ^ w * 256) + m = (k * 256) * 256 ^ w + m by ring, ihw]
    rw [low, ih]
    congr 1
    apply BitVec.eq_of_toNat_eq
    rw [byte, BitVec.toNat_ofNat, Nat.shiftRight_eq_div_pow, pow_mul, show (2 : Nat) ^ 8 = 256 from rfl, add_comm,
      Nat.add_mul_div_right _ _ (by positivity), Nat.div_eq_of_lt hl, Nat.zero_add]
    exact Nat.mod_eq_of_lt x.isLt

end Sys2Proof.Machine
end

