-- ==== Sys2Proof/Laws/State.lean ====
section
/-! SUPPORT. What every update of the state leaves and sets, field by field: one lemma per field and update, true by rfl. -/

namespace Sys2Proof.Machine.State

/-! modAlm -/

@[simp] theorem modAlm_pending (s : State) (f : Alm → Alm) : (s.modAlm f).pending = s.pending := (rfl)
@[simp] theorem modAlm_obj (s : State) (f : Alm → Alm) : (s.modAlm f).obj = s.obj := (rfl)
@[simp] theorem modAlm_cfg (s : State) (f : Alm → Alm) : (s.modAlm f).cfg = s.cfg := (rfl)
@[simp] theorem modAlm_staged (s : State) (f : Alm → Alm) : (s.modAlm f).staged = s.staged := (rfl)
@[simp] theorem modAlm_wire (s : State) (f : Alm → Alm) : (s.modAlm f).wire = s.wire := (rfl)
@[simp] theorem modAlm_dram (s : State) (f : Alm → Alm) : (s.modAlm f).dram = s.dram := (rfl)
@[simp] theorem modAlm_alm (s : State) (f : Alm → Alm) : (s.modAlm f).alm = f s.alm := (rfl)
@[simp] theorem modAlm_ev (s : State) (f : Alm → Alm) : (s.modAlm f).ev = s.ev := (rfl)
@[simp] theorem modAlm_eph (s : State) (f : Alm → Alm) : (s.modAlm f).eph = s.eph := (rfl)
@[simp] theorem modAlm_ptp (s : State) (f : Alm → Alm) : (s.modAlm f).ptp = s.ptp := (rfl)
@[simp] theorem modAlm_flash (s : State) (f : Alm → Alm) : (s.modAlm f).flash = s.flash := (rfl)
@[simp] theorem modAlm_keys (s : State) (f : Alm → Alm) : (s.modAlm f).keys = s.keys := (rfl)
@[simp] theorem modAlm_boot (s : State) (f : Alm → Alm) : (s.modAlm f).boot = s.boot := (rfl)
@[simp] theorem modAlm_loc (s : State) (f : Alm → Alm) : (s.modAlm f).loc = s.loc := (rfl)
@[simp] theorem modAlm_ing (s : State) (f : Alm → Alm) : (s.modAlm f).ing = s.ing := (rfl)
@[simp] theorem modAlm_tr (s : State) (f : Alm → Alm) : (s.modAlm f).tr = s.tr := (rfl)
@[simp] theorem modAlm_spec (s : State) (f : Alm → Alm) : (s.modAlm f).spec = s.spec := (rfl)
@[simp] theorem modAlm_hor (s : State) (f : Alm → Alm) : (s.modAlm f).hor = s.hor := (rfl)
@[simp] theorem modAlm_lom (s : State) (f : Alm → Alm) : (s.modAlm f).lom = s.lom := (rfl)
@[simp] theorem modAlm_alr (s : State) (f : Alm → Alm) : (s.modAlm f).alr = s.alr := (rfl)
@[simp] theorem modAlm_egr (s : State) (f : Alm → Alm) : (s.modAlm f).egr = s.egr := (rfl)
@[simp] theorem modAlm_orr (s : State) (f : Alm → Alm) : (s.modAlm f).orr = s.orr := (rfl)
@[simp] theorem modAlm_bos (s : State) (f : Alm → Alm) : (s.modAlm f).bos = s.bos := (rfl)
@[simp] theorem modAlm_bis (s : State) (f : Alm → Alm) : (s.modAlm f).bis = s.bis := (rfl)
@[simp] theorem modAlm_par (s : State) (f : Alm → Alm) : (s.modAlm f).par = s.par := (rfl)
@[simp] theorem modAlm_wit (s : State) (f : Alm → Alm) : (s.modAlm f).wit = s.wit := (rfl)
@[simp] theorem modAlm_pm (s : State) (f : Alm → Alm) : (s.modAlm f).pm = s.pm := (rfl)
@[simp] theorem modAlm_rec (s : State) (f : Alm → Alm) : (s.modAlm f).rec_ = s.rec_ := (rfl)
@[simp] theorem modAlm_eng (s : State) (f : Alm → Alm) : (s.modAlm f).eng = s.eng := (rfl)
@[simp] theorem modAlm_fab (s : State) (f : Alm → Alm) : (s.modAlm f).fab = s.fab := (rfl)

/-! modEv -/

@[simp] theorem modEv_pending (s : State) (f : Events → Events) : (s.modEv f).pending = s.pending := (rfl)
@[simp] theorem modEv_obj (s : State) (f : Events → Events) : (s.modEv f).obj = s.obj := (rfl)
@[simp] theorem modEv_cfg (s : State) (f : Events → Events) : (s.modEv f).cfg = s.cfg := (rfl)
@[simp] theorem modEv_staged (s : State) (f : Events → Events) : (s.modEv f).staged = s.staged := (rfl)
@[simp] theorem modEv_wire (s : State) (f : Events → Events) : (s.modEv f).wire = s.wire := (rfl)
@[simp] theorem modEv_dram (s : State) (f : Events → Events) : (s.modEv f).dram = s.dram := (rfl)
@[simp] theorem modEv_alm (s : State) (f : Events → Events) : (s.modEv f).alm = s.alm := (rfl)
@[simp] theorem modEv_ev (s : State) (f : Events → Events) : (s.modEv f).ev = f s.ev := (rfl)
@[simp] theorem modEv_eph (s : State) (f : Events → Events) : (s.modEv f).eph = s.eph := (rfl)
@[simp] theorem modEv_ptp (s : State) (f : Events → Events) : (s.modEv f).ptp = s.ptp := (rfl)
@[simp] theorem modEv_flash (s : State) (f : Events → Events) : (s.modEv f).flash = s.flash := (rfl)
@[simp] theorem modEv_keys (s : State) (f : Events → Events) : (s.modEv f).keys = s.keys := (rfl)
@[simp] theorem modEv_boot (s : State) (f : Events → Events) : (s.modEv f).boot = s.boot := (rfl)
@[simp] theorem modEv_loc (s : State) (f : Events → Events) : (s.modEv f).loc = s.loc := (rfl)
@[simp] theorem modEv_ing (s : State) (f : Events → Events) : (s.modEv f).ing = s.ing := (rfl)
@[simp] theorem modEv_tr (s : State) (f : Events → Events) : (s.modEv f).tr = s.tr := (rfl)
@[simp] theorem modEv_spec (s : State) (f : Events → Events) : (s.modEv f).spec = s.spec := (rfl)
@[simp] theorem modEv_hor (s : State) (f : Events → Events) : (s.modEv f).hor = s.hor := (rfl)
@[simp] theorem modEv_lom (s : State) (f : Events → Events) : (s.modEv f).lom = s.lom := (rfl)
@[simp] theorem modEv_alr (s : State) (f : Events → Events) : (s.modEv f).alr = s.alr := (rfl)
@[simp] theorem modEv_egr (s : State) (f : Events → Events) : (s.modEv f).egr = s.egr := (rfl)
@[simp] theorem modEv_orr (s : State) (f : Events → Events) : (s.modEv f).orr = s.orr := (rfl)
@[simp] theorem modEv_bos (s : State) (f : Events → Events) : (s.modEv f).bos = s.bos := (rfl)
@[simp] theorem modEv_bis (s : State) (f : Events → Events) : (s.modEv f).bis = s.bis := (rfl)
@[simp] theorem modEv_par (s : State) (f : Events → Events) : (s.modEv f).par = s.par := (rfl)
@[simp] theorem modEv_wit (s : State) (f : Events → Events) : (s.modEv f).wit = s.wit := (rfl)
@[simp] theorem modEv_pm (s : State) (f : Events → Events) : (s.modEv f).pm = s.pm := (rfl)
@[simp] theorem modEv_rec (s : State) (f : Events → Events) : (s.modEv f).rec_ = s.rec_ := (rfl)
@[simp] theorem modEv_eng (s : State) (f : Events → Events) : (s.modEv f).eng = s.eng := (rfl)
@[simp] theorem modEv_fab (s : State) (f : Events → Events) : (s.modEv f).fab = s.fab := (rfl)

/-! modEph -/

@[simp] theorem modEph_pending (s : State) (f : Eph → Eph) : (s.modEph f).pending = s.pending := (rfl)
@[simp] theorem modEph_obj (s : State) (f : Eph → Eph) : (s.modEph f).obj = s.obj := (rfl)
@[simp] theorem modEph_cfg (s : State) (f : Eph → Eph) : (s.modEph f).cfg = s.cfg := (rfl)
@[simp] theorem modEph_staged (s : State) (f : Eph → Eph) : (s.modEph f).staged = s.staged := (rfl)
@[simp] theorem modEph_wire (s : State) (f : Eph → Eph) : (s.modEph f).wire = s.wire := (rfl)
@[simp] theorem modEph_dram (s : State) (f : Eph → Eph) : (s.modEph f).dram = s.dram := (rfl)
@[simp] theorem modEph_alm (s : State) (f : Eph → Eph) : (s.modEph f).alm = s.alm := (rfl)
@[simp] theorem modEph_ev (s : State) (f : Eph → Eph) : (s.modEph f).ev = s.ev := (rfl)
@[simp] theorem modEph_eph (s : State) (f : Eph → Eph) : (s.modEph f).eph = f s.eph := (rfl)
@[simp] theorem modEph_ptp (s : State) (f : Eph → Eph) : (s.modEph f).ptp = s.ptp := (rfl)
@[simp] theorem modEph_flash (s : State) (f : Eph → Eph) : (s.modEph f).flash = s.flash := (rfl)
@[simp] theorem modEph_keys (s : State) (f : Eph → Eph) : (s.modEph f).keys = s.keys := (rfl)
@[simp] theorem modEph_boot (s : State) (f : Eph → Eph) : (s.modEph f).boot = s.boot := (rfl)
@[simp] theorem modEph_loc (s : State) (f : Eph → Eph) : (s.modEph f).loc = s.loc := (rfl)
@[simp] theorem modEph_ing (s : State) (f : Eph → Eph) : (s.modEph f).ing = s.ing := (rfl)
@[simp] theorem modEph_tr (s : State) (f : Eph → Eph) : (s.modEph f).tr = s.tr := (rfl)
@[simp] theorem modEph_spec (s : State) (f : Eph → Eph) : (s.modEph f).spec = s.spec := (rfl)
@[simp] theorem modEph_hor (s : State) (f : Eph → Eph) : (s.modEph f).hor = s.hor := (rfl)
@[simp] theorem modEph_lom (s : State) (f : Eph → Eph) : (s.modEph f).lom = s.lom := (rfl)
@[simp] theorem modEph_alr (s : State) (f : Eph → Eph) : (s.modEph f).alr = s.alr := (rfl)
@[simp] theorem modEph_egr (s : State) (f : Eph → Eph) : (s.modEph f).egr = s.egr := (rfl)
@[simp] theorem modEph_orr (s : State) (f : Eph → Eph) : (s.modEph f).orr = s.orr := (rfl)
@[simp] theorem modEph_bos (s : State) (f : Eph → Eph) : (s.modEph f).bos = s.bos := (rfl)
@[simp] theorem modEph_bis (s : State) (f : Eph → Eph) : (s.modEph f).bis = s.bis := (rfl)
@[simp] theorem modEph_par (s : State) (f : Eph → Eph) : (s.modEph f).par = s.par := (rfl)
@[simp] theorem modEph_wit (s : State) (f : Eph → Eph) : (s.modEph f).wit = s.wit := (rfl)
@[simp] theorem modEph_pm (s : State) (f : Eph → Eph) : (s.modEph f).pm = s.pm := (rfl)
@[simp] theorem modEph_rec (s : State) (f : Eph → Eph) : (s.modEph f).rec_ = s.rec_ := (rfl)
@[simp] theorem modEph_eng (s : State) (f : Eph → Eph) : (s.modEph f).eng = s.eng := (rfl)
@[simp] theorem modEph_fab (s : State) (f : Eph → Eph) : (s.modEph f).fab = s.fab := (rfl)

/-! modPtp -/

@[simp] theorem modPtp_pending (s : State) (f : Ptp → Ptp) : (s.modPtp f).pending = s.pending := (rfl)
@[simp] theorem modPtp_obj (s : State) (f : Ptp → Ptp) : (s.modPtp f).obj = s.obj := (rfl)
@[simp] theorem modPtp_cfg (s : State) (f : Ptp → Ptp) : (s.modPtp f).cfg = s.cfg := (rfl)
@[simp] theorem modPtp_staged (s : State) (f : Ptp → Ptp) : (s.modPtp f).staged = s.staged := (rfl)
@[simp] theorem modPtp_wire (s : State) (f : Ptp → Ptp) : (s.modPtp f).wire = s.wire := (rfl)
@[simp] theorem modPtp_dram (s : State) (f : Ptp → Ptp) : (s.modPtp f).dram = s.dram := (rfl)
@[simp] theorem modPtp_alm (s : State) (f : Ptp → Ptp) : (s.modPtp f).alm = s.alm := (rfl)
@[simp] theorem modPtp_ev (s : State) (f : Ptp → Ptp) : (s.modPtp f).ev = s.ev := (rfl)
@[simp] theorem modPtp_eph (s : State) (f : Ptp → Ptp) : (s.modPtp f).eph = s.eph := (rfl)
@[simp] theorem modPtp_ptp (s : State) (f : Ptp → Ptp) : (s.modPtp f).ptp = f s.ptp := (rfl)
@[simp] theorem modPtp_flash (s : State) (f : Ptp → Ptp) : (s.modPtp f).flash = s.flash := (rfl)
@[simp] theorem modPtp_keys (s : State) (f : Ptp → Ptp) : (s.modPtp f).keys = s.keys := (rfl)
@[simp] theorem modPtp_boot (s : State) (f : Ptp → Ptp) : (s.modPtp f).boot = s.boot := (rfl)
@[simp] theorem modPtp_loc (s : State) (f : Ptp → Ptp) : (s.modPtp f).loc = s.loc := (rfl)
@[simp] theorem modPtp_ing (s : State) (f : Ptp → Ptp) : (s.modPtp f).ing = s.ing := (rfl)
@[simp] theorem modPtp_tr (s : State) (f : Ptp → Ptp) : (s.modPtp f).tr = s.tr := (rfl)
@[simp] theorem modPtp_spec (s : State) (f : Ptp → Ptp) : (s.modPtp f).spec = s.spec := (rfl)
@[simp] theorem modPtp_hor (s : State) (f : Ptp → Ptp) : (s.modPtp f).hor = s.hor := (rfl)
@[simp] theorem modPtp_lom (s : State) (f : Ptp → Ptp) : (s.modPtp f).lom = s.lom := (rfl)
@[simp] theorem modPtp_alr (s : State) (f : Ptp → Ptp) : (s.modPtp f).alr = s.alr := (rfl)
@[simp] theorem modPtp_egr (s : State) (f : Ptp → Ptp) : (s.modPtp f).egr = s.egr := (rfl)
@[simp] theorem modPtp_orr (s : State) (f : Ptp → Ptp) : (s.modPtp f).orr = s.orr := (rfl)
@[simp] theorem modPtp_bos (s : State) (f : Ptp → Ptp) : (s.modPtp f).bos = s.bos := (rfl)
@[simp] theorem modPtp_bis (s : State) (f : Ptp → Ptp) : (s.modPtp f).bis = s.bis := (rfl)
@[simp] theorem modPtp_par (s : State) (f : Ptp → Ptp) : (s.modPtp f).par = s.par := (rfl)
@[simp] theorem modPtp_wit (s : State) (f : Ptp → Ptp) : (s.modPtp f).wit = s.wit := (rfl)
@[simp] theorem modPtp_pm (s : State) (f : Ptp → Ptp) : (s.modPtp f).pm = s.pm := (rfl)
@[simp] theorem modPtp_rec (s : State) (f : Ptp → Ptp) : (s.modPtp f).rec_ = s.rec_ := (rfl)
@[simp] theorem modPtp_eng (s : State) (f : Ptp → Ptp) : (s.modPtp f).eng = s.eng := (rfl)
@[simp] theorem modPtp_fab (s : State) (f : Ptp → Ptp) : (s.modPtp f).fab = s.fab := (rfl)

/-! modFlash -/

@[simp] theorem modFlash_pending (s : State) (f : Flash → Flash) : (s.modFlash f).pending = s.pending := (rfl)
@[simp] theorem modFlash_obj (s : State) (f : Flash → Flash) : (s.modFlash f).obj = s.obj := (rfl)
@[simp] theorem modFlash_cfg (s : State) (f : Flash → Flash) : (s.modFlash f).cfg = s.cfg := (rfl)
@[simp] theorem modFlash_staged (s : State) (f : Flash → Flash) : (s.modFlash f).staged = s.staged := (rfl)
@[simp] theorem modFlash_wire (s : State) (f : Flash → Flash) : (s.modFlash f).wire = s.wire := (rfl)
@[simp] theorem modFlash_dram (s : State) (f : Flash → Flash) : (s.modFlash f).dram = s.dram := (rfl)
@[simp] theorem modFlash_alm (s : State) (f : Flash → Flash) : (s.modFlash f).alm = s.alm := (rfl)
@[simp] theorem modFlash_ev (s : State) (f : Flash → Flash) : (s.modFlash f).ev = s.ev := (rfl)
@[simp] theorem modFlash_eph (s : State) (f : Flash → Flash) : (s.modFlash f).eph = s.eph := (rfl)
@[simp] theorem modFlash_ptp (s : State) (f : Flash → Flash) : (s.modFlash f).ptp = s.ptp := (rfl)
@[simp] theorem modFlash_flash (s : State) (f : Flash → Flash) : (s.modFlash f).flash = f s.flash := (rfl)
@[simp] theorem modFlash_keys (s : State) (f : Flash → Flash) : (s.modFlash f).keys = s.keys := (rfl)
@[simp] theorem modFlash_boot (s : State) (f : Flash → Flash) : (s.modFlash f).boot = s.boot := (rfl)
@[simp] theorem modFlash_loc (s : State) (f : Flash → Flash) : (s.modFlash f).loc = s.loc := (rfl)
@[simp] theorem modFlash_ing (s : State) (f : Flash → Flash) : (s.modFlash f).ing = s.ing := (rfl)
@[simp] theorem modFlash_tr (s : State) (f : Flash → Flash) : (s.modFlash f).tr = s.tr := (rfl)
@[simp] theorem modFlash_spec (s : State) (f : Flash → Flash) : (s.modFlash f).spec = s.spec := (rfl)
@[simp] theorem modFlash_hor (s : State) (f : Flash → Flash) : (s.modFlash f).hor = s.hor := (rfl)
@[simp] theorem modFlash_lom (s : State) (f : Flash → Flash) : (s.modFlash f).lom = s.lom := (rfl)
@[simp] theorem modFlash_alr (s : State) (f : Flash → Flash) : (s.modFlash f).alr = s.alr := (rfl)
@[simp] theorem modFlash_egr (s : State) (f : Flash → Flash) : (s.modFlash f).egr = s.egr := (rfl)
@[simp] theorem modFlash_orr (s : State) (f : Flash → Flash) : (s.modFlash f).orr = s.orr := (rfl)
@[simp] theorem modFlash_bos (s : State) (f : Flash → Flash) : (s.modFlash f).bos = s.bos := (rfl)
@[simp] theorem modFlash_bis (s : State) (f : Flash → Flash) : (s.modFlash f).bis = s.bis := (rfl)
@[simp] theorem modFlash_par (s : State) (f : Flash → Flash) : (s.modFlash f).par = s.par := (rfl)
@[simp] theorem modFlash_wit (s : State) (f : Flash → Flash) : (s.modFlash f).wit = s.wit := (rfl)
@[simp] theorem modFlash_pm (s : State) (f : Flash → Flash) : (s.modFlash f).pm = s.pm := (rfl)
@[simp] theorem modFlash_rec (s : State) (f : Flash → Flash) : (s.modFlash f).rec_ = s.rec_ := (rfl)
@[simp] theorem modFlash_eng (s : State) (f : Flash → Flash) : (s.modFlash f).eng = s.eng := (rfl)
@[simp] theorem modFlash_fab (s : State) (f : Flash → Flash) : (s.modFlash f).fab = s.fab := (rfl)

/-! modKeys -/

@[simp] theorem modKeys_pending (s : State) (f : Keys → Keys) : (s.modKeys f).pending = s.pending := (rfl)
@[simp] theorem modKeys_obj (s : State) (f : Keys → Keys) : (s.modKeys f).obj = s.obj := (rfl)
@[simp] theorem modKeys_cfg (s : State) (f : Keys → Keys) : (s.modKeys f).cfg = s.cfg := (rfl)
@[simp] theorem modKeys_staged (s : State) (f : Keys → Keys) : (s.modKeys f).staged = s.staged := (rfl)
@[simp] theorem modKeys_wire (s : State) (f : Keys → Keys) : (s.modKeys f).wire = s.wire := (rfl)
@[simp] theorem modKeys_dram (s : State) (f : Keys → Keys) : (s.modKeys f).dram = s.dram := (rfl)
@[simp] theorem modKeys_alm (s : State) (f : Keys → Keys) : (s.modKeys f).alm = s.alm := (rfl)
@[simp] theorem modKeys_ev (s : State) (f : Keys → Keys) : (s.modKeys f).ev = s.ev := (rfl)
@[simp] theorem modKeys_eph (s : State) (f : Keys → Keys) : (s.modKeys f).eph = s.eph := (rfl)
@[simp] theorem modKeys_ptp (s : State) (f : Keys → Keys) : (s.modKeys f).ptp = s.ptp := (rfl)
@[simp] theorem modKeys_flash (s : State) (f : Keys → Keys) : (s.modKeys f).flash = s.flash := (rfl)
@[simp] theorem modKeys_keys (s : State) (f : Keys → Keys) : (s.modKeys f).keys = f s.keys := (rfl)
@[simp] theorem modKeys_boot (s : State) (f : Keys → Keys) : (s.modKeys f).boot = s.boot := (rfl)
@[simp] theorem modKeys_loc (s : State) (f : Keys → Keys) : (s.modKeys f).loc = s.loc := (rfl)
@[simp] theorem modKeys_ing (s : State) (f : Keys → Keys) : (s.modKeys f).ing = s.ing := (rfl)
@[simp] theorem modKeys_tr (s : State) (f : Keys → Keys) : (s.modKeys f).tr = s.tr := (rfl)
@[simp] theorem modKeys_spec (s : State) (f : Keys → Keys) : (s.modKeys f).spec = s.spec := (rfl)
@[simp] theorem modKeys_hor (s : State) (f : Keys → Keys) : (s.modKeys f).hor = s.hor := (rfl)
@[simp] theorem modKeys_lom (s : State) (f : Keys → Keys) : (s.modKeys f).lom = s.lom := (rfl)
@[simp] theorem modKeys_alr (s : State) (f : Keys → Keys) : (s.modKeys f).alr = s.alr := (rfl)
@[simp] theorem modKeys_egr (s : State) (f : Keys → Keys) : (s.modKeys f).egr = s.egr := (rfl)
@[simp] theorem modKeys_orr (s : State) (f : Keys → Keys) : (s.modKeys f).orr = s.orr := (rfl)
@[simp] theorem modKeys_bos (s : State) (f : Keys → Keys) : (s.modKeys f).bos = s.bos := (rfl)
@[simp] theorem modKeys_bis (s : State) (f : Keys → Keys) : (s.modKeys f).bis = s.bis := (rfl)
@[simp] theorem modKeys_par (s : State) (f : Keys → Keys) : (s.modKeys f).par = s.par := (rfl)
@[simp] theorem modKeys_wit (s : State) (f : Keys → Keys) : (s.modKeys f).wit = s.wit := (rfl)
@[simp] theorem modKeys_pm (s : State) (f : Keys → Keys) : (s.modKeys f).pm = s.pm := (rfl)
@[simp] theorem modKeys_rec (s : State) (f : Keys → Keys) : (s.modKeys f).rec_ = s.rec_ := (rfl)
@[simp] theorem modKeys_eng (s : State) (f : Keys → Keys) : (s.modKeys f).eng = s.eng := (rfl)
@[simp] theorem modKeys_fab (s : State) (f : Keys → Keys) : (s.modKeys f).fab = s.fab := (rfl)

/-! modBoot -/

@[simp] theorem modBoot_pending (s : State) (f : Boot → Boot) : (s.modBoot f).pending = s.pending := (rfl)
@[simp] theorem modBoot_obj (s : State) (f : Boot → Boot) : (s.modBoot f).obj = s.obj := (rfl)
@[simp] theorem modBoot_cfg (s : State) (f : Boot → Boot) : (s.modBoot f).cfg = s.cfg := (rfl)
@[simp] theorem modBoot_staged (s : State) (f : Boot → Boot) : (s.modBoot f).staged = s.staged := (rfl)
@[simp] theorem modBoot_wire (s : State) (f : Boot → Boot) : (s.modBoot f).wire = s.wire := (rfl)
@[simp] theorem modBoot_dram (s : State) (f : Boot → Boot) : (s.modBoot f).dram = s.dram := (rfl)
@[simp] theorem modBoot_alm (s : State) (f : Boot → Boot) : (s.modBoot f).alm = s.alm := (rfl)
@[simp] theorem modBoot_ev (s : State) (f : Boot → Boot) : (s.modBoot f).ev = s.ev := (rfl)
@[simp] theorem modBoot_eph (s : State) (f : Boot → Boot) : (s.modBoot f).eph = s.eph := (rfl)
@[simp] theorem modBoot_ptp (s : State) (f : Boot → Boot) : (s.modBoot f).ptp = s.ptp := (rfl)
@[simp] theorem modBoot_flash (s : State) (f : Boot → Boot) : (s.modBoot f).flash = s.flash := (rfl)
@[simp] theorem modBoot_keys (s : State) (f : Boot → Boot) : (s.modBoot f).keys = s.keys := (rfl)
@[simp] theorem modBoot_boot (s : State) (f : Boot → Boot) : (s.modBoot f).boot = f s.boot := (rfl)
@[simp] theorem modBoot_loc (s : State) (f : Boot → Boot) : (s.modBoot f).loc = s.loc := (rfl)
@[simp] theorem modBoot_ing (s : State) (f : Boot → Boot) : (s.modBoot f).ing = s.ing := (rfl)
@[simp] theorem modBoot_tr (s : State) (f : Boot → Boot) : (s.modBoot f).tr = s.tr := (rfl)
@[simp] theorem modBoot_spec (s : State) (f : Boot → Boot) : (s.modBoot f).spec = s.spec := (rfl)
@[simp] theorem modBoot_hor (s : State) (f : Boot → Boot) : (s.modBoot f).hor = s.hor := (rfl)
@[simp] theorem modBoot_lom (s : State) (f : Boot → Boot) : (s.modBoot f).lom = s.lom := (rfl)
@[simp] theorem modBoot_alr (s : State) (f : Boot → Boot) : (s.modBoot f).alr = s.alr := (rfl)
@[simp] theorem modBoot_egr (s : State) (f : Boot → Boot) : (s.modBoot f).egr = s.egr := (rfl)
@[simp] theorem modBoot_orr (s : State) (f : Boot → Boot) : (s.modBoot f).orr = s.orr := (rfl)
@[simp] theorem modBoot_bos (s : State) (f : Boot → Boot) : (s.modBoot f).bos = s.bos := (rfl)
@[simp] theorem modBoot_bis (s : State) (f : Boot → Boot) : (s.modBoot f).bis = s.bis := (rfl)
@[simp] theorem modBoot_par (s : State) (f : Boot → Boot) : (s.modBoot f).par = s.par := (rfl)
@[simp] theorem modBoot_wit (s : State) (f : Boot → Boot) : (s.modBoot f).wit = s.wit := (rfl)
@[simp] theorem modBoot_pm (s : State) (f : Boot → Boot) : (s.modBoot f).pm = s.pm := (rfl)
@[simp] theorem modBoot_rec (s : State) (f : Boot → Boot) : (s.modBoot f).rec_ = s.rec_ := (rfl)
@[simp] theorem modBoot_eng (s : State) (f : Boot → Boot) : (s.modBoot f).eng = s.eng := (rfl)
@[simp] theorem modBoot_fab (s : State) (f : Boot → Boot) : (s.modBoot f).fab = s.fab := (rfl)

/-! modLoc -/

@[simp] theorem modLoc_pending (s : State) (f : Local → Local) : (s.modLoc f).pending = s.pending := (rfl)
@[simp] theorem modLoc_obj (s : State) (f : Local → Local) : (s.modLoc f).obj = s.obj := (rfl)
@[simp] theorem modLoc_cfg (s : State) (f : Local → Local) : (s.modLoc f).cfg = s.cfg := (rfl)
@[simp] theorem modLoc_staged (s : State) (f : Local → Local) : (s.modLoc f).staged = s.staged := (rfl)
@[simp] theorem modLoc_wire (s : State) (f : Local → Local) : (s.modLoc f).wire = s.wire := (rfl)
@[simp] theorem modLoc_dram (s : State) (f : Local → Local) : (s.modLoc f).dram = s.dram := (rfl)
@[simp] theorem modLoc_alm (s : State) (f : Local → Local) : (s.modLoc f).alm = s.alm := (rfl)
@[simp] theorem modLoc_ev (s : State) (f : Local → Local) : (s.modLoc f).ev = s.ev := (rfl)
@[simp] theorem modLoc_eph (s : State) (f : Local → Local) : (s.modLoc f).eph = s.eph := (rfl)
@[simp] theorem modLoc_ptp (s : State) (f : Local → Local) : (s.modLoc f).ptp = s.ptp := (rfl)
@[simp] theorem modLoc_flash (s : State) (f : Local → Local) : (s.modLoc f).flash = s.flash := (rfl)
@[simp] theorem modLoc_keys (s : State) (f : Local → Local) : (s.modLoc f).keys = s.keys := (rfl)
@[simp] theorem modLoc_boot (s : State) (f : Local → Local) : (s.modLoc f).boot = s.boot := (rfl)
@[simp] theorem modLoc_loc (s : State) (f : Local → Local) : (s.modLoc f).loc = f s.loc := (rfl)
@[simp] theorem modLoc_ing (s : State) (f : Local → Local) : (s.modLoc f).ing = s.ing := (rfl)
@[simp] theorem modLoc_tr (s : State) (f : Local → Local) : (s.modLoc f).tr = s.tr := (rfl)
@[simp] theorem modLoc_spec (s : State) (f : Local → Local) : (s.modLoc f).spec = s.spec := (rfl)
@[simp] theorem modLoc_hor (s : State) (f : Local → Local) : (s.modLoc f).hor = s.hor := (rfl)
@[simp] theorem modLoc_lom (s : State) (f : Local → Local) : (s.modLoc f).lom = s.lom := (rfl)
@[simp] theorem modLoc_alr (s : State) (f : Local → Local) : (s.modLoc f).alr = s.alr := (rfl)
@[simp] theorem modLoc_egr (s : State) (f : Local → Local) : (s.modLoc f).egr = s.egr := (rfl)
@[simp] theorem modLoc_orr (s : State) (f : Local → Local) : (s.modLoc f).orr = s.orr := (rfl)
@[simp] theorem modLoc_bos (s : State) (f : Local → Local) : (s.modLoc f).bos = s.bos := (rfl)
@[simp] theorem modLoc_bis (s : State) (f : Local → Local) : (s.modLoc f).bis = s.bis := (rfl)
@[simp] theorem modLoc_par (s : State) (f : Local → Local) : (s.modLoc f).par = s.par := (rfl)
@[simp] theorem modLoc_wit (s : State) (f : Local → Local) : (s.modLoc f).wit = s.wit := (rfl)
@[simp] theorem modLoc_pm (s : State) (f : Local → Local) : (s.modLoc f).pm = s.pm := (rfl)
@[simp] theorem modLoc_rec (s : State) (f : Local → Local) : (s.modLoc f).rec_ = s.rec_ := (rfl)
@[simp] theorem modLoc_eng (s : State) (f : Local → Local) : (s.modLoc f).eng = s.eng := (rfl)
@[simp] theorem modLoc_fab (s : State) (f : Local → Local) : (s.modLoc f).fab = s.fab := (rfl)

/-! modIng -/

@[simp] theorem modIng_pending (s : State) (f : Ingest → Ingest) : (s.modIng f).pending = s.pending := (rfl)
@[simp] theorem modIng_obj (s : State) (f : Ingest → Ingest) : (s.modIng f).obj = s.obj := (rfl)
@[simp] theorem modIng_cfg (s : State) (f : Ingest → Ingest) : (s.modIng f).cfg = s.cfg := (rfl)
@[simp] theorem modIng_staged (s : State) (f : Ingest → Ingest) : (s.modIng f).staged = s.staged := (rfl)
@[simp] theorem modIng_wire (s : State) (f : Ingest → Ingest) : (s.modIng f).wire = s.wire := (rfl)
@[simp] theorem modIng_dram (s : State) (f : Ingest → Ingest) : (s.modIng f).dram = s.dram := (rfl)
@[simp] theorem modIng_alm (s : State) (f : Ingest → Ingest) : (s.modIng f).alm = s.alm := (rfl)
@[simp] theorem modIng_ev (s : State) (f : Ingest → Ingest) : (s.modIng f).ev = s.ev := (rfl)
@[simp] theorem modIng_eph (s : State) (f : Ingest → Ingest) : (s.modIng f).eph = s.eph := (rfl)
@[simp] theorem modIng_ptp (s : State) (f : Ingest → Ingest) : (s.modIng f).ptp = s.ptp := (rfl)
@[simp] theorem modIng_flash (s : State) (f : Ingest → Ingest) : (s.modIng f).flash = s.flash := (rfl)
@[simp] theorem modIng_keys (s : State) (f : Ingest → Ingest) : (s.modIng f).keys = s.keys := (rfl)
@[simp] theorem modIng_boot (s : State) (f : Ingest → Ingest) : (s.modIng f).boot = s.boot := (rfl)
@[simp] theorem modIng_loc (s : State) (f : Ingest → Ingest) : (s.modIng f).loc = s.loc := (rfl)
@[simp] theorem modIng_ing (s : State) (f : Ingest → Ingest) : (s.modIng f).ing = f s.ing := (rfl)
@[simp] theorem modIng_tr (s : State) (f : Ingest → Ingest) : (s.modIng f).tr = s.tr := (rfl)
@[simp] theorem modIng_spec (s : State) (f : Ingest → Ingest) : (s.modIng f).spec = s.spec := (rfl)
@[simp] theorem modIng_hor (s : State) (f : Ingest → Ingest) : (s.modIng f).hor = s.hor := (rfl)
@[simp] theorem modIng_lom (s : State) (f : Ingest → Ingest) : (s.modIng f).lom = s.lom := (rfl)
@[simp] theorem modIng_alr (s : State) (f : Ingest → Ingest) : (s.modIng f).alr = s.alr := (rfl)
@[simp] theorem modIng_egr (s : State) (f : Ingest → Ingest) : (s.modIng f).egr = s.egr := (rfl)
@[simp] theorem modIng_orr (s : State) (f : Ingest → Ingest) : (s.modIng f).orr = s.orr := (rfl)
@[simp] theorem modIng_bos (s : State) (f : Ingest → Ingest) : (s.modIng f).bos = s.bos := (rfl)
@[simp] theorem modIng_bis (s : State) (f : Ingest → Ingest) : (s.modIng f).bis = s.bis := (rfl)
@[simp] theorem modIng_par (s : State) (f : Ingest → Ingest) : (s.modIng f).par = s.par := (rfl)
@[simp] theorem modIng_wit (s : State) (f : Ingest → Ingest) : (s.modIng f).wit = s.wit := (rfl)
@[simp] theorem modIng_pm (s : State) (f : Ingest → Ingest) : (s.modIng f).pm = s.pm := (rfl)
@[simp] theorem modIng_rec (s : State) (f : Ingest → Ingest) : (s.modIng f).rec_ = s.rec_ := (rfl)
@[simp] theorem modIng_eng (s : State) (f : Ingest → Ingest) : (s.modIng f).eng = s.eng := (rfl)
@[simp] theorem modIng_fab (s : State) (f : Ingest → Ingest) : (s.modIng f).fab = s.fab := (rfl)

/-! modTr -/

@[simp] theorem modTr_pending (s : State) (f : Transit → Transit) : (s.modTr f).pending = s.pending := (rfl)
@[simp] theorem modTr_obj (s : State) (f : Transit → Transit) : (s.modTr f).obj = s.obj := (rfl)
@[simp] theorem modTr_cfg (s : State) (f : Transit → Transit) : (s.modTr f).cfg = s.cfg := (rfl)
@[simp] theorem modTr_staged (s : State) (f : Transit → Transit) : (s.modTr f).staged = s.staged := (rfl)
@[simp] theorem modTr_wire (s : State) (f : Transit → Transit) : (s.modTr f).wire = s.wire := (rfl)
@[simp] theorem modTr_dram (s : State) (f : Transit → Transit) : (s.modTr f).dram = s.dram := (rfl)
@[simp] theorem modTr_alm (s : State) (f : Transit → Transit) : (s.modTr f).alm = s.alm := (rfl)
@[simp] theorem modTr_ev (s : State) (f : Transit → Transit) : (s.modTr f).ev = s.ev := (rfl)
@[simp] theorem modTr_eph (s : State) (f : Transit → Transit) : (s.modTr f).eph = s.eph := (rfl)
@[simp] theorem modTr_ptp (s : State) (f : Transit → Transit) : (s.modTr f).ptp = s.ptp := (rfl)
@[simp] theorem modTr_flash (s : State) (f : Transit → Transit) : (s.modTr f).flash = s.flash := (rfl)
@[simp] theorem modTr_keys (s : State) (f : Transit → Transit) : (s.modTr f).keys = s.keys := (rfl)
@[simp] theorem modTr_boot (s : State) (f : Transit → Transit) : (s.modTr f).boot = s.boot := (rfl)
@[simp] theorem modTr_loc (s : State) (f : Transit → Transit) : (s.modTr f).loc = s.loc := (rfl)
@[simp] theorem modTr_ing (s : State) (f : Transit → Transit) : (s.modTr f).ing = s.ing := (rfl)
@[simp] theorem modTr_tr (s : State) (f : Transit → Transit) : (s.modTr f).tr = f s.tr := (rfl)
@[simp] theorem modTr_spec (s : State) (f : Transit → Transit) : (s.modTr f).spec = s.spec := (rfl)
@[simp] theorem modTr_hor (s : State) (f : Transit → Transit) : (s.modTr f).hor = s.hor := (rfl)
@[simp] theorem modTr_lom (s : State) (f : Transit → Transit) : (s.modTr f).lom = s.lom := (rfl)
@[simp] theorem modTr_alr (s : State) (f : Transit → Transit) : (s.modTr f).alr = s.alr := (rfl)
@[simp] theorem modTr_egr (s : State) (f : Transit → Transit) : (s.modTr f).egr = s.egr := (rfl)
@[simp] theorem modTr_orr (s : State) (f : Transit → Transit) : (s.modTr f).orr = s.orr := (rfl)
@[simp] theorem modTr_bos (s : State) (f : Transit → Transit) : (s.modTr f).bos = s.bos := (rfl)
@[simp] theorem modTr_bis (s : State) (f : Transit → Transit) : (s.modTr f).bis = s.bis := (rfl)
@[simp] theorem modTr_par (s : State) (f : Transit → Transit) : (s.modTr f).par = s.par := (rfl)
@[simp] theorem modTr_wit (s : State) (f : Transit → Transit) : (s.modTr f).wit = s.wit := (rfl)
@[simp] theorem modTr_pm (s : State) (f : Transit → Transit) : (s.modTr f).pm = s.pm := (rfl)
@[simp] theorem modTr_rec (s : State) (f : Transit → Transit) : (s.modTr f).rec_ = s.rec_ := (rfl)
@[simp] theorem modTr_eng (s : State) (f : Transit → Transit) : (s.modTr f).eng = s.eng := (rfl)
@[simp] theorem modTr_fab (s : State) (f : Transit → Transit) : (s.modTr f).fab = s.fab := (rfl)

/-! modSpec -/

@[simp] theorem modSpec_pending (s : State) (f : Spec → Spec) : (s.modSpec f).pending = s.pending := (rfl)
@[simp] theorem modSpec_obj (s : State) (f : Spec → Spec) : (s.modSpec f).obj = s.obj := (rfl)
@[simp] theorem modSpec_cfg (s : State) (f : Spec → Spec) : (s.modSpec f).cfg = s.cfg := (rfl)
@[simp] theorem modSpec_staged (s : State) (f : Spec → Spec) : (s.modSpec f).staged = s.staged := (rfl)
@[simp] theorem modSpec_wire (s : State) (f : Spec → Spec) : (s.modSpec f).wire = s.wire := (rfl)
@[simp] theorem modSpec_dram (s : State) (f : Spec → Spec) : (s.modSpec f).dram = s.dram := (rfl)
@[simp] theorem modSpec_alm (s : State) (f : Spec → Spec) : (s.modSpec f).alm = s.alm := (rfl)
@[simp] theorem modSpec_ev (s : State) (f : Spec → Spec) : (s.modSpec f).ev = s.ev := (rfl)
@[simp] theorem modSpec_eph (s : State) (f : Spec → Spec) : (s.modSpec f).eph = s.eph := (rfl)
@[simp] theorem modSpec_ptp (s : State) (f : Spec → Spec) : (s.modSpec f).ptp = s.ptp := (rfl)
@[simp] theorem modSpec_flash (s : State) (f : Spec → Spec) : (s.modSpec f).flash = s.flash := (rfl)
@[simp] theorem modSpec_keys (s : State) (f : Spec → Spec) : (s.modSpec f).keys = s.keys := (rfl)
@[simp] theorem modSpec_boot (s : State) (f : Spec → Spec) : (s.modSpec f).boot = s.boot := (rfl)
@[simp] theorem modSpec_loc (s : State) (f : Spec → Spec) : (s.modSpec f).loc = s.loc := (rfl)
@[simp] theorem modSpec_ing (s : State) (f : Spec → Spec) : (s.modSpec f).ing = s.ing := (rfl)
@[simp] theorem modSpec_tr (s : State) (f : Spec → Spec) : (s.modSpec f).tr = s.tr := (rfl)
@[simp] theorem modSpec_spec (s : State) (f : Spec → Spec) : (s.modSpec f).spec = f s.spec := (rfl)
@[simp] theorem modSpec_hor (s : State) (f : Spec → Spec) : (s.modSpec f).hor = s.hor := (rfl)
@[simp] theorem modSpec_lom (s : State) (f : Spec → Spec) : (s.modSpec f).lom = s.lom := (rfl)
@[simp] theorem modSpec_alr (s : State) (f : Spec → Spec) : (s.modSpec f).alr = s.alr := (rfl)
@[simp] theorem modSpec_egr (s : State) (f : Spec → Spec) : (s.modSpec f).egr = s.egr := (rfl)
@[simp] theorem modSpec_orr (s : State) (f : Spec → Spec) : (s.modSpec f).orr = s.orr := (rfl)
@[simp] theorem modSpec_bos (s : State) (f : Spec → Spec) : (s.modSpec f).bos = s.bos := (rfl)
@[simp] theorem modSpec_bis (s : State) (f : Spec → Spec) : (s.modSpec f).bis = s.bis := (rfl)
@[simp] theorem modSpec_par (s : State) (f : Spec → Spec) : (s.modSpec f).par = s.par := (rfl)
@[simp] theorem modSpec_wit (s : State) (f : Spec → Spec) : (s.modSpec f).wit = s.wit := (rfl)
@[simp] theorem modSpec_pm (s : State) (f : Spec → Spec) : (s.modSpec f).pm = s.pm := (rfl)
@[simp] theorem modSpec_rec (s : State) (f : Spec → Spec) : (s.modSpec f).rec_ = s.rec_ := (rfl)
@[simp] theorem modSpec_eng (s : State) (f : Spec → Spec) : (s.modSpec f).eng = s.eng := (rfl)
@[simp] theorem modSpec_fab (s : State) (f : Spec → Spec) : (s.modSpec f).fab = s.fab := (rfl)

/-! modHor -/

@[simp] theorem modHor_pending (s : State) (f : Horizon → Horizon) : (s.modHor f).pending = s.pending := (rfl)
@[simp] theorem modHor_obj (s : State) (f : Horizon → Horizon) : (s.modHor f).obj = s.obj := (rfl)
@[simp] theorem modHor_cfg (s : State) (f : Horizon → Horizon) : (s.modHor f).cfg = s.cfg := (rfl)
@[simp] theorem modHor_staged (s : State) (f : Horizon → Horizon) : (s.modHor f).staged = s.staged := (rfl)
@[simp] theorem modHor_wire (s : State) (f : Horizon → Horizon) : (s.modHor f).wire = s.wire := (rfl)
@[simp] theorem modHor_dram (s : State) (f : Horizon → Horizon) : (s.modHor f).dram = s.dram := (rfl)
@[simp] theorem modHor_alm (s : State) (f : Horizon → Horizon) : (s.modHor f).alm = s.alm := (rfl)
@[simp] theorem modHor_ev (s : State) (f : Horizon → Horizon) : (s.modHor f).ev = s.ev := (rfl)
@[simp] theorem modHor_eph (s : State) (f : Horizon → Horizon) : (s.modHor f).eph = s.eph := (rfl)
@[simp] theorem modHor_ptp (s : State) (f : Horizon → Horizon) : (s.modHor f).ptp = s.ptp := (rfl)
@[simp] theorem modHor_flash (s : State) (f : Horizon → Horizon) : (s.modHor f).flash = s.flash := (rfl)
@[simp] theorem modHor_keys (s : State) (f : Horizon → Horizon) : (s.modHor f).keys = s.keys := (rfl)
@[simp] theorem modHor_boot (s : State) (f : Horizon → Horizon) : (s.modHor f).boot = s.boot := (rfl)
@[simp] theorem modHor_loc (s : State) (f : Horizon → Horizon) : (s.modHor f).loc = s.loc := (rfl)
@[simp] theorem modHor_ing (s : State) (f : Horizon → Horizon) : (s.modHor f).ing = s.ing := (rfl)
@[simp] theorem modHor_tr (s : State) (f : Horizon → Horizon) : (s.modHor f).tr = s.tr := (rfl)
@[simp] theorem modHor_spec (s : State) (f : Horizon → Horizon) : (s.modHor f).spec = s.spec := (rfl)
@[simp] theorem modHor_hor (s : State) (f : Horizon → Horizon) : (s.modHor f).hor = f s.hor := (rfl)
@[simp] theorem modHor_lom (s : State) (f : Horizon → Horizon) : (s.modHor f).lom = s.lom := (rfl)
@[simp] theorem modHor_alr (s : State) (f : Horizon → Horizon) : (s.modHor f).alr = s.alr := (rfl)
@[simp] theorem modHor_egr (s : State) (f : Horizon → Horizon) : (s.modHor f).egr = s.egr := (rfl)
@[simp] theorem modHor_orr (s : State) (f : Horizon → Horizon) : (s.modHor f).orr = s.orr := (rfl)
@[simp] theorem modHor_bos (s : State) (f : Horizon → Horizon) : (s.modHor f).bos = s.bos := (rfl)
@[simp] theorem modHor_bis (s : State) (f : Horizon → Horizon) : (s.modHor f).bis = s.bis := (rfl)
@[simp] theorem modHor_par (s : State) (f : Horizon → Horizon) : (s.modHor f).par = s.par := (rfl)
@[simp] theorem modHor_wit (s : State) (f : Horizon → Horizon) : (s.modHor f).wit = s.wit := (rfl)
@[simp] theorem modHor_pm (s : State) (f : Horizon → Horizon) : (s.modHor f).pm = s.pm := (rfl)
@[simp] theorem modHor_rec (s : State) (f : Horizon → Horizon) : (s.modHor f).rec_ = s.rec_ := (rfl)
@[simp] theorem modHor_eng (s : State) (f : Horizon → Horizon) : (s.modHor f).eng = s.eng := (rfl)
@[simp] theorem modHor_fab (s : State) (f : Horizon → Horizon) : (s.modHor f).fab = s.fab := (rfl)

/-! modAlr -/

@[simp] theorem modAlr_pending (s : State) (f : Alarms → Alarms) : (s.modAlr f).pending = s.pending := (rfl)
@[simp] theorem modAlr_obj (s : State) (f : Alarms → Alarms) : (s.modAlr f).obj = s.obj := (rfl)
@[simp] theorem modAlr_cfg (s : State) (f : Alarms → Alarms) : (s.modAlr f).cfg = s.cfg := (rfl)
@[simp] theorem modAlr_staged (s : State) (f : Alarms → Alarms) : (s.modAlr f).staged = s.staged := (rfl)
@[simp] theorem modAlr_wire (s : State) (f : Alarms → Alarms) : (s.modAlr f).wire = s.wire := (rfl)
@[simp] theorem modAlr_dram (s : State) (f : Alarms → Alarms) : (s.modAlr f).dram = s.dram := (rfl)
@[simp] theorem modAlr_alm (s : State) (f : Alarms → Alarms) : (s.modAlr f).alm = s.alm := (rfl)
@[simp] theorem modAlr_ev (s : State) (f : Alarms → Alarms) : (s.modAlr f).ev = s.ev := (rfl)
@[simp] theorem modAlr_eph (s : State) (f : Alarms → Alarms) : (s.modAlr f).eph = s.eph := (rfl)
@[simp] theorem modAlr_ptp (s : State) (f : Alarms → Alarms) : (s.modAlr f).ptp = s.ptp := (rfl)
@[simp] theorem modAlr_flash (s : State) (f : Alarms → Alarms) : (s.modAlr f).flash = s.flash := (rfl)
@[simp] theorem modAlr_keys (s : State) (f : Alarms → Alarms) : (s.modAlr f).keys = s.keys := (rfl)
@[simp] theorem modAlr_boot (s : State) (f : Alarms → Alarms) : (s.modAlr f).boot = s.boot := (rfl)
@[simp] theorem modAlr_loc (s : State) (f : Alarms → Alarms) : (s.modAlr f).loc = s.loc := (rfl)
@[simp] theorem modAlr_ing (s : State) (f : Alarms → Alarms) : (s.modAlr f).ing = s.ing := (rfl)
@[simp] theorem modAlr_tr (s : State) (f : Alarms → Alarms) : (s.modAlr f).tr = s.tr := (rfl)
@[simp] theorem modAlr_spec (s : State) (f : Alarms → Alarms) : (s.modAlr f).spec = s.spec := (rfl)
@[simp] theorem modAlr_hor (s : State) (f : Alarms → Alarms) : (s.modAlr f).hor = s.hor := (rfl)
@[simp] theorem modAlr_lom (s : State) (f : Alarms → Alarms) : (s.modAlr f).lom = s.lom := (rfl)
@[simp] theorem modAlr_alr (s : State) (f : Alarms → Alarms) : (s.modAlr f).alr = f s.alr := (rfl)
@[simp] theorem modAlr_egr (s : State) (f : Alarms → Alarms) : (s.modAlr f).egr = s.egr := (rfl)
@[simp] theorem modAlr_orr (s : State) (f : Alarms → Alarms) : (s.modAlr f).orr = s.orr := (rfl)
@[simp] theorem modAlr_bos (s : State) (f : Alarms → Alarms) : (s.modAlr f).bos = s.bos := (rfl)
@[simp] theorem modAlr_bis (s : State) (f : Alarms → Alarms) : (s.modAlr f).bis = s.bis := (rfl)
@[simp] theorem modAlr_par (s : State) (f : Alarms → Alarms) : (s.modAlr f).par = s.par := (rfl)
@[simp] theorem modAlr_wit (s : State) (f : Alarms → Alarms) : (s.modAlr f).wit = s.wit := (rfl)
@[simp] theorem modAlr_pm (s : State) (f : Alarms → Alarms) : (s.modAlr f).pm = s.pm := (rfl)
@[simp] theorem modAlr_rec (s : State) (f : Alarms → Alarms) : (s.modAlr f).rec_ = s.rec_ := (rfl)
@[simp] theorem modAlr_eng (s : State) (f : Alarms → Alarms) : (s.modAlr f).eng = s.eng := (rfl)
@[simp] theorem modAlr_fab (s : State) (f : Alarms → Alarms) : (s.modAlr f).fab = s.fab := (rfl)

/-! modEgr -/

@[simp] theorem modEgr_pending (s : State) (f : Egress → Egress) : (s.modEgr f).pending = s.pending := (rfl)
@[simp] theorem modEgr_obj (s : State) (f : Egress → Egress) : (s.modEgr f).obj = s.obj := (rfl)
@[simp] theorem modEgr_cfg (s : State) (f : Egress → Egress) : (s.modEgr f).cfg = s.cfg := (rfl)
@[simp] theorem modEgr_staged (s : State) (f : Egress → Egress) : (s.modEgr f).staged = s.staged := (rfl)
@[simp] theorem modEgr_wire (s : State) (f : Egress → Egress) : (s.modEgr f).wire = s.wire := (rfl)
@[simp] theorem modEgr_dram (s : State) (f : Egress → Egress) : (s.modEgr f).dram = s.dram := (rfl)
@[simp] theorem modEgr_alm (s : State) (f : Egress → Egress) : (s.modEgr f).alm = s.alm := (rfl)
@[simp] theorem modEgr_ev (s : State) (f : Egress → Egress) : (s.modEgr f).ev = s.ev := (rfl)
@[simp] theorem modEgr_eph (s : State) (f : Egress → Egress) : (s.modEgr f).eph = s.eph := (rfl)
@[simp] theorem modEgr_ptp (s : State) (f : Egress → Egress) : (s.modEgr f).ptp = s.ptp := (rfl)
@[simp] theorem modEgr_flash (s : State) (f : Egress → Egress) : (s.modEgr f).flash = s.flash := (rfl)
@[simp] theorem modEgr_keys (s : State) (f : Egress → Egress) : (s.modEgr f).keys = s.keys := (rfl)
@[simp] theorem modEgr_boot (s : State) (f : Egress → Egress) : (s.modEgr f).boot = s.boot := (rfl)
@[simp] theorem modEgr_loc (s : State) (f : Egress → Egress) : (s.modEgr f).loc = s.loc := (rfl)
@[simp] theorem modEgr_ing (s : State) (f : Egress → Egress) : (s.modEgr f).ing = s.ing := (rfl)
@[simp] theorem modEgr_tr (s : State) (f : Egress → Egress) : (s.modEgr f).tr = s.tr := (rfl)
@[simp] theorem modEgr_spec (s : State) (f : Egress → Egress) : (s.modEgr f).spec = s.spec := (rfl)
@[simp] theorem modEgr_hor (s : State) (f : Egress → Egress) : (s.modEgr f).hor = s.hor := (rfl)
@[simp] theorem modEgr_lom (s : State) (f : Egress → Egress) : (s.modEgr f).lom = s.lom := (rfl)
@[simp] theorem modEgr_alr (s : State) (f : Egress → Egress) : (s.modEgr f).alr = s.alr := (rfl)
@[simp] theorem modEgr_egr (s : State) (f : Egress → Egress) : (s.modEgr f).egr = f s.egr := (rfl)
@[simp] theorem modEgr_orr (s : State) (f : Egress → Egress) : (s.modEgr f).orr = s.orr := (rfl)
@[simp] theorem modEgr_bos (s : State) (f : Egress → Egress) : (s.modEgr f).bos = s.bos := (rfl)
@[simp] theorem modEgr_bis (s : State) (f : Egress → Egress) : (s.modEgr f).bis = s.bis := (rfl)
@[simp] theorem modEgr_par (s : State) (f : Egress → Egress) : (s.modEgr f).par = s.par := (rfl)
@[simp] theorem modEgr_wit (s : State) (f : Egress → Egress) : (s.modEgr f).wit = s.wit := (rfl)
@[simp] theorem modEgr_pm (s : State) (f : Egress → Egress) : (s.modEgr f).pm = s.pm := (rfl)
@[simp] theorem modEgr_rec (s : State) (f : Egress → Egress) : (s.modEgr f).rec_ = s.rec_ := (rfl)
@[simp] theorem modEgr_eng (s : State) (f : Egress → Egress) : (s.modEgr f).eng = s.eng := (rfl)
@[simp] theorem modEgr_fab (s : State) (f : Egress → Egress) : (s.modEgr f).fab = s.fab := (rfl)

/-! modOrr -/

@[simp] theorem modOrr_pending (s : State) (f : Orrery → Orrery) : (s.modOrr f).pending = s.pending := (rfl)
@[simp] theorem modOrr_obj (s : State) (f : Orrery → Orrery) : (s.modOrr f).obj = s.obj := (rfl)
@[simp] theorem modOrr_cfg (s : State) (f : Orrery → Orrery) : (s.modOrr f).cfg = s.cfg := (rfl)
@[simp] theorem modOrr_staged (s : State) (f : Orrery → Orrery) : (s.modOrr f).staged = s.staged := (rfl)
@[simp] theorem modOrr_wire (s : State) (f : Orrery → Orrery) : (s.modOrr f).wire = s.wire := (rfl)
@[simp] theorem modOrr_dram (s : State) (f : Orrery → Orrery) : (s.modOrr f).dram = s.dram := (rfl)
@[simp] theorem modOrr_alm (s : State) (f : Orrery → Orrery) : (s.modOrr f).alm = s.alm := (rfl)
@[simp] theorem modOrr_ev (s : State) (f : Orrery → Orrery) : (s.modOrr f).ev = s.ev := (rfl)
@[simp] theorem modOrr_eph (s : State) (f : Orrery → Orrery) : (s.modOrr f).eph = s.eph := (rfl)
@[simp] theorem modOrr_ptp (s : State) (f : Orrery → Orrery) : (s.modOrr f).ptp = s.ptp := (rfl)
@[simp] theorem modOrr_flash (s : State) (f : Orrery → Orrery) : (s.modOrr f).flash = s.flash := (rfl)
@[simp] theorem modOrr_keys (s : State) (f : Orrery → Orrery) : (s.modOrr f).keys = s.keys := (rfl)
@[simp] theorem modOrr_boot (s : State) (f : Orrery → Orrery) : (s.modOrr f).boot = s.boot := (rfl)
@[simp] theorem modOrr_loc (s : State) (f : Orrery → Orrery) : (s.modOrr f).loc = s.loc := (rfl)
@[simp] theorem modOrr_ing (s : State) (f : Orrery → Orrery) : (s.modOrr f).ing = s.ing := (rfl)
@[simp] theorem modOrr_tr (s : State) (f : Orrery → Orrery) : (s.modOrr f).tr = s.tr := (rfl)
@[simp] theorem modOrr_spec (s : State) (f : Orrery → Orrery) : (s.modOrr f).spec = s.spec := (rfl)
@[simp] theorem modOrr_hor (s : State) (f : Orrery → Orrery) : (s.modOrr f).hor = s.hor := (rfl)
@[simp] theorem modOrr_lom (s : State) (f : Orrery → Orrery) : (s.modOrr f).lom = s.lom := (rfl)
@[simp] theorem modOrr_alr (s : State) (f : Orrery → Orrery) : (s.modOrr f).alr = s.alr := (rfl)
@[simp] theorem modOrr_egr (s : State) (f : Orrery → Orrery) : (s.modOrr f).egr = s.egr := (rfl)
@[simp] theorem modOrr_orr (s : State) (f : Orrery → Orrery) : (s.modOrr f).orr = f s.orr := (rfl)
@[simp] theorem modOrr_bos (s : State) (f : Orrery → Orrery) : (s.modOrr f).bos = s.bos := (rfl)
@[simp] theorem modOrr_bis (s : State) (f : Orrery → Orrery) : (s.modOrr f).bis = s.bis := (rfl)
@[simp] theorem modOrr_par (s : State) (f : Orrery → Orrery) : (s.modOrr f).par = s.par := (rfl)
@[simp] theorem modOrr_wit (s : State) (f : Orrery → Orrery) : (s.modOrr f).wit = s.wit := (rfl)
@[simp] theorem modOrr_pm (s : State) (f : Orrery → Orrery) : (s.modOrr f).pm = s.pm := (rfl)
@[simp] theorem modOrr_rec (s : State) (f : Orrery → Orrery) : (s.modOrr f).rec_ = s.rec_ := (rfl)
@[simp] theorem modOrr_eng (s : State) (f : Orrery → Orrery) : (s.modOrr f).eng = s.eng := (rfl)
@[simp] theorem modOrr_fab (s : State) (f : Orrery → Orrery) : (s.modOrr f).fab = s.fab := (rfl)

/-! modPar -/

@[simp] theorem modPar_pending (s : State) (f : Pair → Pair) : (s.modPar f).pending = s.pending := (rfl)
@[simp] theorem modPar_obj (s : State) (f : Pair → Pair) : (s.modPar f).obj = s.obj := (rfl)
@[simp] theorem modPar_cfg (s : State) (f : Pair → Pair) : (s.modPar f).cfg = s.cfg := (rfl)
@[simp] theorem modPar_staged (s : State) (f : Pair → Pair) : (s.modPar f).staged = s.staged := (rfl)
@[simp] theorem modPar_wire (s : State) (f : Pair → Pair) : (s.modPar f).wire = s.wire := (rfl)
@[simp] theorem modPar_dram (s : State) (f : Pair → Pair) : (s.modPar f).dram = s.dram := (rfl)
@[simp] theorem modPar_alm (s : State) (f : Pair → Pair) : (s.modPar f).alm = s.alm := (rfl)
@[simp] theorem modPar_ev (s : State) (f : Pair → Pair) : (s.modPar f).ev = s.ev := (rfl)
@[simp] theorem modPar_eph (s : State) (f : Pair → Pair) : (s.modPar f).eph = s.eph := (rfl)
@[simp] theorem modPar_ptp (s : State) (f : Pair → Pair) : (s.modPar f).ptp = s.ptp := (rfl)
@[simp] theorem modPar_flash (s : State) (f : Pair → Pair) : (s.modPar f).flash = s.flash := (rfl)
@[simp] theorem modPar_keys (s : State) (f : Pair → Pair) : (s.modPar f).keys = s.keys := (rfl)
@[simp] theorem modPar_boot (s : State) (f : Pair → Pair) : (s.modPar f).boot = s.boot := (rfl)
@[simp] theorem modPar_loc (s : State) (f : Pair → Pair) : (s.modPar f).loc = s.loc := (rfl)
@[simp] theorem modPar_ing (s : State) (f : Pair → Pair) : (s.modPar f).ing = s.ing := (rfl)
@[simp] theorem modPar_tr (s : State) (f : Pair → Pair) : (s.modPar f).tr = s.tr := (rfl)
@[simp] theorem modPar_spec (s : State) (f : Pair → Pair) : (s.modPar f).spec = s.spec := (rfl)
@[simp] theorem modPar_hor (s : State) (f : Pair → Pair) : (s.modPar f).hor = s.hor := (rfl)
@[simp] theorem modPar_lom (s : State) (f : Pair → Pair) : (s.modPar f).lom = s.lom := (rfl)
@[simp] theorem modPar_alr (s : State) (f : Pair → Pair) : (s.modPar f).alr = s.alr := (rfl)
@[simp] theorem modPar_egr (s : State) (f : Pair → Pair) : (s.modPar f).egr = s.egr := (rfl)
@[simp] theorem modPar_orr (s : State) (f : Pair → Pair) : (s.modPar f).orr = s.orr := (rfl)
@[simp] theorem modPar_bos (s : State) (f : Pair → Pair) : (s.modPar f).bos = s.bos := (rfl)
@[simp] theorem modPar_bis (s : State) (f : Pair → Pair) : (s.modPar f).bis = s.bis := (rfl)
@[simp] theorem modPar_par (s : State) (f : Pair → Pair) : (s.modPar f).par = f s.par := (rfl)
@[simp] theorem modPar_wit (s : State) (f : Pair → Pair) : (s.modPar f).wit = s.wit := (rfl)
@[simp] theorem modPar_pm (s : State) (f : Pair → Pair) : (s.modPar f).pm = s.pm := (rfl)
@[simp] theorem modPar_rec (s : State) (f : Pair → Pair) : (s.modPar f).rec_ = s.rec_ := (rfl)
@[simp] theorem modPar_eng (s : State) (f : Pair → Pair) : (s.modPar f).eng = s.eng := (rfl)
@[simp] theorem modPar_fab (s : State) (f : Pair → Pair) : (s.modPar f).fab = s.fab := (rfl)

/-! modWit -/

@[simp] theorem modWit_pending (s : State) (f : Witness → Witness) : (s.modWit f).pending = s.pending := (rfl)
@[simp] theorem modWit_obj (s : State) (f : Witness → Witness) : (s.modWit f).obj = s.obj := (rfl)
@[simp] theorem modWit_cfg (s : State) (f : Witness → Witness) : (s.modWit f).cfg = s.cfg := (rfl)
@[simp] theorem modWit_staged (s : State) (f : Witness → Witness) : (s.modWit f).staged = s.staged := (rfl)
@[simp] theorem modWit_wire (s : State) (f : Witness → Witness) : (s.modWit f).wire = s.wire := (rfl)
@[simp] theorem modWit_dram (s : State) (f : Witness → Witness) : (s.modWit f).dram = s.dram := (rfl)
@[simp] theorem modWit_alm (s : State) (f : Witness → Witness) : (s.modWit f).alm = s.alm := (rfl)
@[simp] theorem modWit_ev (s : State) (f : Witness → Witness) : (s.modWit f).ev = s.ev := (rfl)
@[simp] theorem modWit_eph (s : State) (f : Witness → Witness) : (s.modWit f).eph = s.eph := (rfl)
@[simp] theorem modWit_ptp (s : State) (f : Witness → Witness) : (s.modWit f).ptp = s.ptp := (rfl)
@[simp] theorem modWit_flash (s : State) (f : Witness → Witness) : (s.modWit f).flash = s.flash := (rfl)
@[simp] theorem modWit_keys (s : State) (f : Witness → Witness) : (s.modWit f).keys = s.keys := (rfl)
@[simp] theorem modWit_boot (s : State) (f : Witness → Witness) : (s.modWit f).boot = s.boot := (rfl)
@[simp] theorem modWit_loc (s : State) (f : Witness → Witness) : (s.modWit f).loc = s.loc := (rfl)
@[simp] theorem modWit_ing (s : State) (f : Witness → Witness) : (s.modWit f).ing = s.ing := (rfl)
@[simp] theorem modWit_tr (s : State) (f : Witness → Witness) : (s.modWit f).tr = s.tr := (rfl)
@[simp] theorem modWit_spec (s : State) (f : Witness → Witness) : (s.modWit f).spec = s.spec := (rfl)
@[simp] theorem modWit_hor (s : State) (f : Witness → Witness) : (s.modWit f).hor = s.hor := (rfl)
@[simp] theorem modWit_lom (s : State) (f : Witness → Witness) : (s.modWit f).lom = s.lom := (rfl)
@[simp] theorem modWit_alr (s : State) (f : Witness → Witness) : (s.modWit f).alr = s.alr := (rfl)
@[simp] theorem modWit_egr (s : State) (f : Witness → Witness) : (s.modWit f).egr = s.egr := (rfl)
@[simp] theorem modWit_orr (s : State) (f : Witness → Witness) : (s.modWit f).orr = s.orr := (rfl)
@[simp] theorem modWit_bos (s : State) (f : Witness → Witness) : (s.modWit f).bos = s.bos := (rfl)
@[simp] theorem modWit_bis (s : State) (f : Witness → Witness) : (s.modWit f).bis = s.bis := (rfl)
@[simp] theorem modWit_par (s : State) (f : Witness → Witness) : (s.modWit f).par = s.par := (rfl)
@[simp] theorem modWit_wit (s : State) (f : Witness → Witness) : (s.modWit f).wit = f s.wit := (rfl)
@[simp] theorem modWit_pm (s : State) (f : Witness → Witness) : (s.modWit f).pm = s.pm := (rfl)
@[simp] theorem modWit_rec (s : State) (f : Witness → Witness) : (s.modWit f).rec_ = s.rec_ := (rfl)
@[simp] theorem modWit_eng (s : State) (f : Witness → Witness) : (s.modWit f).eng = s.eng := (rfl)
@[simp] theorem modWit_fab (s : State) (f : Witness → Witness) : (s.modWit f).fab = s.fab := (rfl)

/-! modPm -/

@[simp] theorem modPm_pending (s : State) (f : Pm → Pm) : (s.modPm f).pending = s.pending := (rfl)
@[simp] theorem modPm_obj (s : State) (f : Pm → Pm) : (s.modPm f).obj = s.obj := (rfl)
@[simp] theorem modPm_cfg (s : State) (f : Pm → Pm) : (s.modPm f).cfg = s.cfg := (rfl)
@[simp] theorem modPm_staged (s : State) (f : Pm → Pm) : (s.modPm f).staged = s.staged := (rfl)
@[simp] theorem modPm_wire (s : State) (f : Pm → Pm) : (s.modPm f).wire = s.wire := (rfl)
@[simp] theorem modPm_dram (s : State) (f : Pm → Pm) : (s.modPm f).dram = s.dram := (rfl)
@[simp] theorem modPm_alm (s : State) (f : Pm → Pm) : (s.modPm f).alm = s.alm := (rfl)
@[simp] theorem modPm_ev (s : State) (f : Pm → Pm) : (s.modPm f).ev = s.ev := (rfl)
@[simp] theorem modPm_eph (s : State) (f : Pm → Pm) : (s.modPm f).eph = s.eph := (rfl)
@[simp] theorem modPm_ptp (s : State) (f : Pm → Pm) : (s.modPm f).ptp = s.ptp := (rfl)
@[simp] theorem modPm_flash (s : State) (f : Pm → Pm) : (s.modPm f).flash = s.flash := (rfl)
@[simp] theorem modPm_keys (s : State) (f : Pm → Pm) : (s.modPm f).keys = s.keys := (rfl)
@[simp] theorem modPm_boot (s : State) (f : Pm → Pm) : (s.modPm f).boot = s.boot := (rfl)
@[simp] theorem modPm_loc (s : State) (f : Pm → Pm) : (s.modPm f).loc = s.loc := (rfl)
@[simp] theorem modPm_ing (s : State) (f : Pm → Pm) : (s.modPm f).ing = s.ing := (rfl)
@[simp] theorem modPm_tr (s : State) (f : Pm → Pm) : (s.modPm f).tr = s.tr := (rfl)
@[simp] theorem modPm_spec (s : State) (f : Pm → Pm) : (s.modPm f).spec = s.spec := (rfl)
@[simp] theorem modPm_hor (s : State) (f : Pm → Pm) : (s.modPm f).hor = s.hor := (rfl)
@[simp] theorem modPm_lom (s : State) (f : Pm → Pm) : (s.modPm f).lom = s.lom := (rfl)
@[simp] theorem modPm_alr (s : State) (f : Pm → Pm) : (s.modPm f).alr = s.alr := (rfl)
@[simp] theorem modPm_egr (s : State) (f : Pm → Pm) : (s.modPm f).egr = s.egr := (rfl)
@[simp] theorem modPm_orr (s : State) (f : Pm → Pm) : (s.modPm f).orr = s.orr := (rfl)
@[simp] theorem modPm_bos (s : State) (f : Pm → Pm) : (s.modPm f).bos = s.bos := (rfl)
@[simp] theorem modPm_bis (s : State) (f : Pm → Pm) : (s.modPm f).bis = s.bis := (rfl)
@[simp] theorem modPm_par (s : State) (f : Pm → Pm) : (s.modPm f).par = s.par := (rfl)
@[simp] theorem modPm_wit (s : State) (f : Pm → Pm) : (s.modPm f).wit = s.wit := (rfl)
@[simp] theorem modPm_pm (s : State) (f : Pm → Pm) : (s.modPm f).pm = f s.pm := (rfl)
@[simp] theorem modPm_rec (s : State) (f : Pm → Pm) : (s.modPm f).rec_ = s.rec_ := (rfl)
@[simp] theorem modPm_eng (s : State) (f : Pm → Pm) : (s.modPm f).eng = s.eng := (rfl)
@[simp] theorem modPm_fab (s : State) (f : Pm → Pm) : (s.modPm f).fab = s.fab := (rfl)

/-! modRec -/

@[simp] theorem modRec_pending (s : State) (f : Recorder → Recorder) : (s.modRec f).pending = s.pending := (rfl)
@[simp] theorem modRec_obj (s : State) (f : Recorder → Recorder) : (s.modRec f).obj = s.obj := (rfl)
@[simp] theorem modRec_cfg (s : State) (f : Recorder → Recorder) : (s.modRec f).cfg = s.cfg := (rfl)
@[simp] theorem modRec_staged (s : State) (f : Recorder → Recorder) : (s.modRec f).staged = s.staged := (rfl)
@[simp] theorem modRec_wire (s : State) (f : Recorder → Recorder) : (s.modRec f).wire = s.wire := (rfl)
@[simp] theorem modRec_dram (s : State) (f : Recorder → Recorder) : (s.modRec f).dram = s.dram := (rfl)
@[simp] theorem modRec_alm (s : State) (f : Recorder → Recorder) : (s.modRec f).alm = s.alm := (rfl)
@[simp] theorem modRec_ev (s : State) (f : Recorder → Recorder) : (s.modRec f).ev = s.ev := (rfl)
@[simp] theorem modRec_eph (s : State) (f : Recorder → Recorder) : (s.modRec f).eph = s.eph := (rfl)
@[simp] theorem modRec_ptp (s : State) (f : Recorder → Recorder) : (s.modRec f).ptp = s.ptp := (rfl)
@[simp] theorem modRec_flash (s : State) (f : Recorder → Recorder) : (s.modRec f).flash = s.flash := (rfl)
@[simp] theorem modRec_keys (s : State) (f : Recorder → Recorder) : (s.modRec f).keys = s.keys := (rfl)
@[simp] theorem modRec_boot (s : State) (f : Recorder → Recorder) : (s.modRec f).boot = s.boot := (rfl)
@[simp] theorem modRec_loc (s : State) (f : Recorder → Recorder) : (s.modRec f).loc = s.loc := (rfl)
@[simp] theorem modRec_ing (s : State) (f : Recorder → Recorder) : (s.modRec f).ing = s.ing := (rfl)
@[simp] theorem modRec_tr (s : State) (f : Recorder → Recorder) : (s.modRec f).tr = s.tr := (rfl)
@[simp] theorem modRec_spec (s : State) (f : Recorder → Recorder) : (s.modRec f).spec = s.spec := (rfl)
@[simp] theorem modRec_hor (s : State) (f : Recorder → Recorder) : (s.modRec f).hor = s.hor := (rfl)
@[simp] theorem modRec_lom (s : State) (f : Recorder → Recorder) : (s.modRec f).lom = s.lom := (rfl)
@[simp] theorem modRec_alr (s : State) (f : Recorder → Recorder) : (s.modRec f).alr = s.alr := (rfl)
@[simp] theorem modRec_egr (s : State) (f : Recorder → Recorder) : (s.modRec f).egr = s.egr := (rfl)
@[simp] theorem modRec_orr (s : State) (f : Recorder → Recorder) : (s.modRec f).orr = s.orr := (rfl)
@[simp] theorem modRec_bos (s : State) (f : Recorder → Recorder) : (s.modRec f).bos = s.bos := (rfl)
@[simp] theorem modRec_bis (s : State) (f : Recorder → Recorder) : (s.modRec f).bis = s.bis := (rfl)
@[simp] theorem modRec_par (s : State) (f : Recorder → Recorder) : (s.modRec f).par = s.par := (rfl)
@[simp] theorem modRec_wit (s : State) (f : Recorder → Recorder) : (s.modRec f).wit = s.wit := (rfl)
@[simp] theorem modRec_pm (s : State) (f : Recorder → Recorder) : (s.modRec f).pm = s.pm := (rfl)
@[simp] theorem modRec_rec (s : State) (f : Recorder → Recorder) : (s.modRec f).rec_ = f s.rec_ := (rfl)
@[simp] theorem modRec_eng (s : State) (f : Recorder → Recorder) : (s.modRec f).eng = s.eng := (rfl)
@[simp] theorem modRec_fab (s : State) (f : Recorder → Recorder) : (s.modRec f).fab = s.fab := (rfl)

/-! modEng -/

@[simp] theorem modEng_pending (s : State) (f : Engine → Engine) : (s.modEng f).pending = s.pending := (rfl)
@[simp] theorem modEng_obj (s : State) (f : Engine → Engine) : (s.modEng f).obj = s.obj := (rfl)
@[simp] theorem modEng_cfg (s : State) (f : Engine → Engine) : (s.modEng f).cfg = s.cfg := (rfl)
@[simp] theorem modEng_staged (s : State) (f : Engine → Engine) : (s.modEng f).staged = s.staged := (rfl)
@[simp] theorem modEng_wire (s : State) (f : Engine → Engine) : (s.modEng f).wire = s.wire := (rfl)
@[simp] theorem modEng_dram (s : State) (f : Engine → Engine) : (s.modEng f).dram = s.dram := (rfl)
@[simp] theorem modEng_alm (s : State) (f : Engine → Engine) : (s.modEng f).alm = s.alm := (rfl)
@[simp] theorem modEng_ev (s : State) (f : Engine → Engine) : (s.modEng f).ev = s.ev := (rfl)
@[simp] theorem modEng_eph (s : State) (f : Engine → Engine) : (s.modEng f).eph = s.eph := (rfl)
@[simp] theorem modEng_ptp (s : State) (f : Engine → Engine) : (s.modEng f).ptp = s.ptp := (rfl)
@[simp] theorem modEng_flash (s : State) (f : Engine → Engine) : (s.modEng f).flash = s.flash := (rfl)
@[simp] theorem modEng_keys (s : State) (f : Engine → Engine) : (s.modEng f).keys = s.keys := (rfl)
@[simp] theorem modEng_boot (s : State) (f : Engine → Engine) : (s.modEng f).boot = s.boot := (rfl)
@[simp] theorem modEng_loc (s : State) (f : Engine → Engine) : (s.modEng f).loc = s.loc := (rfl)
@[simp] theorem modEng_ing (s : State) (f : Engine → Engine) : (s.modEng f).ing = s.ing := (rfl)
@[simp] theorem modEng_tr (s : State) (f : Engine → Engine) : (s.modEng f).tr = s.tr := (rfl)
@[simp] theorem modEng_spec (s : State) (f : Engine → Engine) : (s.modEng f).spec = s.spec := (rfl)
@[simp] theorem modEng_hor (s : State) (f : Engine → Engine) : (s.modEng f).hor = s.hor := (rfl)
@[simp] theorem modEng_lom (s : State) (f : Engine → Engine) : (s.modEng f).lom = s.lom := (rfl)
@[simp] theorem modEng_alr (s : State) (f : Engine → Engine) : (s.modEng f).alr = s.alr := (rfl)
@[simp] theorem modEng_egr (s : State) (f : Engine → Engine) : (s.modEng f).egr = s.egr := (rfl)
@[simp] theorem modEng_orr (s : State) (f : Engine → Engine) : (s.modEng f).orr = s.orr := (rfl)
@[simp] theorem modEng_bos (s : State) (f : Engine → Engine) : (s.modEng f).bos = s.bos := (rfl)
@[simp] theorem modEng_bis (s : State) (f : Engine → Engine) : (s.modEng f).bis = s.bis := (rfl)
@[simp] theorem modEng_par (s : State) (f : Engine → Engine) : (s.modEng f).par = s.par := (rfl)
@[simp] theorem modEng_wit (s : State) (f : Engine → Engine) : (s.modEng f).wit = s.wit := (rfl)
@[simp] theorem modEng_pm (s : State) (f : Engine → Engine) : (s.modEng f).pm = s.pm := (rfl)
@[simp] theorem modEng_rec (s : State) (f : Engine → Engine) : (s.modEng f).rec_ = s.rec_ := (rfl)
@[simp] theorem modEng_eng (s : State) (f : Engine → Engine) : (s.modEng f).eng = f s.eng := (rfl)
@[simp] theorem modEng_fab (s : State) (f : Engine → Engine) : (s.modEng f).fab = s.fab := (rfl)

/-! modFab -/

@[simp] theorem modFab_pending (s : State) (f : Fabric → Fabric) : (s.modFab f).pending = s.pending := (rfl)
@[simp] theorem modFab_obj (s : State) (f : Fabric → Fabric) : (s.modFab f).obj = s.obj := (rfl)
@[simp] theorem modFab_cfg (s : State) (f : Fabric → Fabric) : (s.modFab f).cfg = s.cfg := (rfl)
@[simp] theorem modFab_staged (s : State) (f : Fabric → Fabric) : (s.modFab f).staged = s.staged := (rfl)
@[simp] theorem modFab_wire (s : State) (f : Fabric → Fabric) : (s.modFab f).wire = s.wire := (rfl)
@[simp] theorem modFab_dram (s : State) (f : Fabric → Fabric) : (s.modFab f).dram = s.dram := (rfl)
@[simp] theorem modFab_alm (s : State) (f : Fabric → Fabric) : (s.modFab f).alm = s.alm := (rfl)
@[simp] theorem modFab_ev (s : State) (f : Fabric → Fabric) : (s.modFab f).ev = s.ev := (rfl)
@[simp] theorem modFab_eph (s : State) (f : Fabric → Fabric) : (s.modFab f).eph = s.eph := (rfl)
@[simp] theorem modFab_ptp (s : State) (f : Fabric → Fabric) : (s.modFab f).ptp = s.ptp := (rfl)
@[simp] theorem modFab_flash (s : State) (f : Fabric → Fabric) : (s.modFab f).flash = s.flash := (rfl)
@[simp] theorem modFab_keys (s : State) (f : Fabric → Fabric) : (s.modFab f).keys = s.keys := (rfl)
@[simp] theorem modFab_boot (s : State) (f : Fabric → Fabric) : (s.modFab f).boot = s.boot := (rfl)
@[simp] theorem modFab_loc (s : State) (f : Fabric → Fabric) : (s.modFab f).loc = s.loc := (rfl)
@[simp] theorem modFab_ing (s : State) (f : Fabric → Fabric) : (s.modFab f).ing = s.ing := (rfl)
@[simp] theorem modFab_tr (s : State) (f : Fabric → Fabric) : (s.modFab f).tr = s.tr := (rfl)
@[simp] theorem modFab_spec (s : State) (f : Fabric → Fabric) : (s.modFab f).spec = s.spec := (rfl)
@[simp] theorem modFab_hor (s : State) (f : Fabric → Fabric) : (s.modFab f).hor = s.hor := (rfl)
@[simp] theorem modFab_lom (s : State) (f : Fabric → Fabric) : (s.modFab f).lom = s.lom := (rfl)
@[simp] theorem modFab_alr (s : State) (f : Fabric → Fabric) : (s.modFab f).alr = s.alr := (rfl)
@[simp] theorem modFab_egr (s : State) (f : Fabric → Fabric) : (s.modFab f).egr = s.egr := (rfl)
@[simp] theorem modFab_orr (s : State) (f : Fabric → Fabric) : (s.modFab f).orr = s.orr := (rfl)
@[simp] theorem modFab_bos (s : State) (f : Fabric → Fabric) : (s.modFab f).bos = s.bos := (rfl)
@[simp] theorem modFab_bis (s : State) (f : Fabric → Fabric) : (s.modFab f).bis = s.bis := (rfl)
@[simp] theorem modFab_par (s : State) (f : Fabric → Fabric) : (s.modFab f).par = s.par := (rfl)
@[simp] theorem modFab_wit (s : State) (f : Fabric → Fabric) : (s.modFab f).wit = s.wit := (rfl)
@[simp] theorem modFab_pm (s : State) (f : Fabric → Fabric) : (s.modFab f).pm = s.pm := (rfl)
@[simp] theorem modFab_rec (s : State) (f : Fabric → Fabric) : (s.modFab f).rec_ = s.rec_ := (rfl)
@[simp] theorem modFab_eng (s : State) (f : Fabric → Fabric) : (s.modFab f).eng = s.eng := (rfl)
@[simp] theorem modFab_fab (s : State) (f : Fabric → Fabric) : (s.modFab f).fab = f s.fab := (rfl)

/-! modLom -/

@[simp] theorem modLom_pending (s : State) (b : Nat) (f : LomBay → LomBay) : (s.modLom b f).pending = s.pending := (rfl)
@[simp] theorem modLom_obj (s : State) (b : Nat) (f : LomBay → LomBay) : (s.modLom b f).obj = s.obj := (rfl)
@[simp] theorem modLom_cfg (s : State) (b : Nat) (f : LomBay → LomBay) : (s.modLom b f).cfg = s.cfg := (rfl)
@[simp] theorem modLom_staged (s : State) (b : Nat) (f : LomBay → LomBay) : (s.modLom b f).staged = s.staged := (rfl)
@[simp] theorem modLom_wire (s : State) (b : Nat) (f : LomBay → LomBay) : (s.modLom b f).wire = s.wire := (rfl)
@[simp] theorem modLom_dram (s : State) (b : Nat) (f : LomBay → LomBay) : (s.modLom b f).dram = s.dram := (rfl)
@[simp] theorem modLom_alm (s : State) (b : Nat) (f : LomBay → LomBay) : (s.modLom b f).alm = s.alm := (rfl)
@[simp] theorem modLom_ev (s : State) (b : Nat) (f : LomBay → LomBay) : (s.modLom b f).ev = s.ev := (rfl)
@[simp] theorem modLom_eph (s : State) (b : Nat) (f : LomBay → LomBay) : (s.modLom b f).eph = s.eph := (rfl)
@[simp] theorem modLom_ptp (s : State) (b : Nat) (f : LomBay → LomBay) : (s.modLom b f).ptp = s.ptp := (rfl)
@[simp] theorem modLom_flash (s : State) (b : Nat) (f : LomBay → LomBay) : (s.modLom b f).flash = s.flash := (rfl)
@[simp] theorem modLom_keys (s : State) (b : Nat) (f : LomBay → LomBay) : (s.modLom b f).keys = s.keys := (rfl)
@[simp] theorem modLom_boot (s : State) (b : Nat) (f : LomBay → LomBay) : (s.modLom b f).boot = s.boot := (rfl)
@[simp] theorem modLom_loc (s : State) (b : Nat) (f : LomBay → LomBay) : (s.modLom b f).loc = s.loc := (rfl)
@[simp] theorem modLom_ing (s : State) (b : Nat) (f : LomBay → LomBay) : (s.modLom b f).ing = s.ing := (rfl)
@[simp] theorem modLom_tr (s : State) (b : Nat) (f : LomBay → LomBay) : (s.modLom b f).tr = s.tr := (rfl)
@[simp] theorem modLom_spec (s : State) (b : Nat) (f : LomBay → LomBay) : (s.modLom b f).spec = s.spec := (rfl)
@[simp] theorem modLom_hor (s : State) (b : Nat) (f : LomBay → LomBay) : (s.modLom b f).hor = s.hor := (rfl)
@[simp] theorem modLom_lom (s : State) (b : Nat) (f : LomBay → LomBay) : (s.modLom b f).lom = s.lom.modify b f := (rfl)
@[simp] theorem modLom_alr (s : State) (b : Nat) (f : LomBay → LomBay) : (s.modLom b f).alr = s.alr := (rfl)
@[simp] theorem modLom_egr (s : State) (b : Nat) (f : LomBay → LomBay) : (s.modLom b f).egr = s.egr := (rfl)
@[simp] theorem modLom_orr (s : State) (b : Nat) (f : LomBay → LomBay) : (s.modLom b f).orr = s.orr := (rfl)
@[simp] theorem modLom_bos (s : State) (b : Nat) (f : LomBay → LomBay) : (s.modLom b f).bos = s.bos := (rfl)
@[simp] theorem modLom_bis (s : State) (b : Nat) (f : LomBay → LomBay) : (s.modLom b f).bis = s.bis := (rfl)
@[simp] theorem modLom_par (s : State) (b : Nat) (f : LomBay → LomBay) : (s.modLom b f).par = s.par := (rfl)
@[simp] theorem modLom_wit (s : State) (b : Nat) (f : LomBay → LomBay) : (s.modLom b f).wit = s.wit := (rfl)
@[simp] theorem modLom_pm (s : State) (b : Nat) (f : LomBay → LomBay) : (s.modLom b f).pm = s.pm := (rfl)
@[simp] theorem modLom_rec (s : State) (b : Nat) (f : LomBay → LomBay) : (s.modLom b f).rec_ = s.rec_ := (rfl)
@[simp] theorem modLom_eng (s : State) (b : Nat) (f : LomBay → LomBay) : (s.modLom b f).eng = s.eng := (rfl)
@[simp] theorem modLom_fab (s : State) (b : Nat) (f : LomBay → LomBay) : (s.modLom b f).fab = s.fab := (rfl)

/-! modBo -/

@[simp] theorem modBo_pending (s : State) (n : Nat) (f : BoRun → BoRun) : (s.modBo n f).pending = s.pending := (rfl)
@[simp] theorem modBo_obj (s : State) (n : Nat) (f : BoRun → BoRun) : (s.modBo n f).obj = s.obj := (rfl)
@[simp] theorem modBo_cfg (s : State) (n : Nat) (f : BoRun → BoRun) : (s.modBo n f).cfg = s.cfg := (rfl)
@[simp] theorem modBo_staged (s : State) (n : Nat) (f : BoRun → BoRun) : (s.modBo n f).staged = s.staged := (rfl)
@[simp] theorem modBo_wire (s : State) (n : Nat) (f : BoRun → BoRun) : (s.modBo n f).wire = s.wire := (rfl)
@[simp] theorem modBo_dram (s : State) (n : Nat) (f : BoRun → BoRun) : (s.modBo n f).dram = s.dram := (rfl)
@[simp] theorem modBo_alm (s : State) (n : Nat) (f : BoRun → BoRun) : (s.modBo n f).alm = s.alm := (rfl)
@[simp] theorem modBo_ev (s : State) (n : Nat) (f : BoRun → BoRun) : (s.modBo n f).ev = s.ev := (rfl)
@[simp] theorem modBo_eph (s : State) (n : Nat) (f : BoRun → BoRun) : (s.modBo n f).eph = s.eph := (rfl)
@[simp] theorem modBo_ptp (s : State) (n : Nat) (f : BoRun → BoRun) : (s.modBo n f).ptp = s.ptp := (rfl)
@[simp] theorem modBo_flash (s : State) (n : Nat) (f : BoRun → BoRun) : (s.modBo n f).flash = s.flash := (rfl)
@[simp] theorem modBo_keys (s : State) (n : Nat) (f : BoRun → BoRun) : (s.modBo n f).keys = s.keys := (rfl)
@[simp] theorem modBo_boot (s : State) (n : Nat) (f : BoRun → BoRun) : (s.modBo n f).boot = s.boot := (rfl)
@[simp] theorem modBo_loc (s : State) (n : Nat) (f : BoRun → BoRun) : (s.modBo n f).loc = s.loc := (rfl)
@[simp] theorem modBo_ing (s : State) (n : Nat) (f : BoRun → BoRun) : (s.modBo n f).ing = s.ing := (rfl)
@[simp] theorem modBo_tr (s : State) (n : Nat) (f : BoRun → BoRun) : (s.modBo n f).tr = s.tr := (rfl)
@[simp] theorem modBo_spec (s : State) (n : Nat) (f : BoRun → BoRun) : (s.modBo n f).spec = s.spec := (rfl)
@[simp] theorem modBo_hor (s : State) (n : Nat) (f : BoRun → BoRun) : (s.modBo n f).hor = s.hor := (rfl)
@[simp] theorem modBo_lom (s : State) (n : Nat) (f : BoRun → BoRun) : (s.modBo n f).lom = s.lom := (rfl)
@[simp] theorem modBo_alr (s : State) (n : Nat) (f : BoRun → BoRun) : (s.modBo n f).alr = s.alr := (rfl)
@[simp] theorem modBo_egr (s : State) (n : Nat) (f : BoRun → BoRun) : (s.modBo n f).egr = s.egr := (rfl)
@[simp] theorem modBo_orr (s : State) (n : Nat) (f : BoRun → BoRun) : (s.modBo n f).orr = s.orr := (rfl)
@[simp] theorem modBo_bos (s : State) (n : Nat) (f : BoRun → BoRun) : (s.modBo n f).bos = s.bos.modify n f := (rfl)
@[simp] theorem modBo_bis (s : State) (n : Nat) (f : BoRun → BoRun) : (s.modBo n f).bis = s.bis := (rfl)
@[simp] theorem modBo_par (s : State) (n : Nat) (f : BoRun → BoRun) : (s.modBo n f).par = s.par := (rfl)
@[simp] theorem modBo_wit (s : State) (n : Nat) (f : BoRun → BoRun) : (s.modBo n f).wit = s.wit := (rfl)
@[simp] theorem modBo_pm (s : State) (n : Nat) (f : BoRun → BoRun) : (s.modBo n f).pm = s.pm := (rfl)
@[simp] theorem modBo_rec (s : State) (n : Nat) (f : BoRun → BoRun) : (s.modBo n f).rec_ = s.rec_ := (rfl)
@[simp] theorem modBo_eng (s : State) (n : Nat) (f : BoRun → BoRun) : (s.modBo n f).eng = s.eng := (rfl)
@[simp] theorem modBo_fab (s : State) (n : Nat) (f : BoRun → BoRun) : (s.modBo n f).fab = s.fab := (rfl)

/-! modBi -/

@[simp] theorem modBi_pending (s : State) (n : Nat) (f : BiRun → BiRun) : (s.modBi n f).pending = s.pending := (rfl)
@[simp] theorem modBi_obj (s : State) (n : Nat) (f : BiRun → BiRun) : (s.modBi n f).obj = s.obj := (rfl)
@[simp] theorem modBi_cfg (s : State) (n : Nat) (f : BiRun → BiRun) : (s.modBi n f).cfg = s.cfg := (rfl)
@[simp] theorem modBi_staged (s : State) (n : Nat) (f : BiRun → BiRun) : (s.modBi n f).staged = s.staged := (rfl)
@[simp] theorem modBi_wire (s : State) (n : Nat) (f : BiRun → BiRun) : (s.modBi n f).wire = s.wire := (rfl)
@[simp] theorem modBi_dram (s : State) (n : Nat) (f : BiRun → BiRun) : (s.modBi n f).dram = s.dram := (rfl)
@[simp] theorem modBi_alm (s : State) (n : Nat) (f : BiRun → BiRun) : (s.modBi n f).alm = s.alm := (rfl)
@[simp] theorem modBi_ev (s : State) (n : Nat) (f : BiRun → BiRun) : (s.modBi n f).ev = s.ev := (rfl)
@[simp] theorem modBi_eph (s : State) (n : Nat) (f : BiRun → BiRun) : (s.modBi n f).eph = s.eph := (rfl)
@[simp] theorem modBi_ptp (s : State) (n : Nat) (f : BiRun → BiRun) : (s.modBi n f).ptp = s.ptp := (rfl)
@[simp] theorem modBi_flash (s : State) (n : Nat) (f : BiRun → BiRun) : (s.modBi n f).flash = s.flash := (rfl)
@[simp] theorem modBi_keys (s : State) (n : Nat) (f : BiRun → BiRun) : (s.modBi n f).keys = s.keys := (rfl)
@[simp] theorem modBi_boot (s : State) (n : Nat) (f : BiRun → BiRun) : (s.modBi n f).boot = s.boot := (rfl)
@[simp] theorem modBi_loc (s : State) (n : Nat) (f : BiRun → BiRun) : (s.modBi n f).loc = s.loc := (rfl)
@[simp] theorem modBi_ing (s : State) (n : Nat) (f : BiRun → BiRun) : (s.modBi n f).ing = s.ing := (rfl)
@[simp] theorem modBi_tr (s : State) (n : Nat) (f : BiRun → BiRun) : (s.modBi n f).tr = s.tr := (rfl)
@[simp] theorem modBi_spec (s : State) (n : Nat) (f : BiRun → BiRun) : (s.modBi n f).spec = s.spec := (rfl)
@[simp] theorem modBi_hor (s : State) (n : Nat) (f : BiRun → BiRun) : (s.modBi n f).hor = s.hor := (rfl)
@[simp] theorem modBi_lom (s : State) (n : Nat) (f : BiRun → BiRun) : (s.modBi n f).lom = s.lom := (rfl)
@[simp] theorem modBi_alr (s : State) (n : Nat) (f : BiRun → BiRun) : (s.modBi n f).alr = s.alr := (rfl)
@[simp] theorem modBi_egr (s : State) (n : Nat) (f : BiRun → BiRun) : (s.modBi n f).egr = s.egr := (rfl)
@[simp] theorem modBi_orr (s : State) (n : Nat) (f : BiRun → BiRun) : (s.modBi n f).orr = s.orr := (rfl)
@[simp] theorem modBi_bos (s : State) (n : Nat) (f : BiRun → BiRun) : (s.modBi n f).bos = s.bos := (rfl)
@[simp] theorem modBi_bis (s : State) (n : Nat) (f : BiRun → BiRun) : (s.modBi n f).bis = s.bis.modify n f := (rfl)
@[simp] theorem modBi_par (s : State) (n : Nat) (f : BiRun → BiRun) : (s.modBi n f).par = s.par := (rfl)
@[simp] theorem modBi_wit (s : State) (n : Nat) (f : BiRun → BiRun) : (s.modBi n f).wit = s.wit := (rfl)
@[simp] theorem modBi_pm (s : State) (n : Nat) (f : BiRun → BiRun) : (s.modBi n f).pm = s.pm := (rfl)
@[simp] theorem modBi_rec (s : State) (n : Nat) (f : BiRun → BiRun) : (s.modBi n f).rec_ = s.rec_ := (rfl)
@[simp] theorem modBi_eng (s : State) (n : Nat) (f : BiRun → BiRun) : (s.modBi n f).eng = s.eng := (rfl)
@[simp] theorem modBi_fab (s : State) (n : Nat) (f : BiRun → BiRun) : (s.modBi n f).fab = s.fab := (rfl)

/-! modPmBay -/

@[simp] theorem modPmBay_pending (s : State) (b : Nat) (f : PmBay → PmBay) : (s.modPmBay b f).pending = s.pending := (rfl)
@[simp] theorem modPmBay_obj (s : State) (b : Nat) (f : PmBay → PmBay) : (s.modPmBay b f).obj = s.obj := (rfl)
@[simp] theorem modPmBay_cfg (s : State) (b : Nat) (f : PmBay → PmBay) : (s.modPmBay b f).cfg = s.cfg := (rfl)
@[simp] theorem modPmBay_staged (s : State) (b : Nat) (f : PmBay → PmBay) : (s.modPmBay b f).staged = s.staged := (rfl)
@[simp] theorem modPmBay_wire (s : State) (b : Nat) (f : PmBay → PmBay) : (s.modPmBay b f).wire = s.wire := (rfl)
@[simp] theorem modPmBay_dram (s : State) (b : Nat) (f : PmBay → PmBay) : (s.modPmBay b f).dram = s.dram := (rfl)
@[simp] theorem modPmBay_alm (s : State) (b : Nat) (f : PmBay → PmBay) : (s.modPmBay b f).alm = s.alm := (rfl)
@[simp] theorem modPmBay_ev (s : State) (b : Nat) (f : PmBay → PmBay) : (s.modPmBay b f).ev = s.ev := (rfl)
@[simp] theorem modPmBay_eph (s : State) (b : Nat) (f : PmBay → PmBay) : (s.modPmBay b f).eph = s.eph := (rfl)
@[simp] theorem modPmBay_ptp (s : State) (b : Nat) (f : PmBay → PmBay) : (s.modPmBay b f).ptp = s.ptp := (rfl)
@[simp] theorem modPmBay_flash (s : State) (b : Nat) (f : PmBay → PmBay) : (s.modPmBay b f).flash = s.flash := (rfl)
@[simp] theorem modPmBay_keys (s : State) (b : Nat) (f : PmBay → PmBay) : (s.modPmBay b f).keys = s.keys := (rfl)
@[simp] theorem modPmBay_boot (s : State) (b : Nat) (f : PmBay → PmBay) : (s.modPmBay b f).boot = s.boot := (rfl)
@[simp] theorem modPmBay_loc (s : State) (b : Nat) (f : PmBay → PmBay) : (s.modPmBay b f).loc = s.loc := (rfl)
@[simp] theorem modPmBay_ing (s : State) (b : Nat) (f : PmBay → PmBay) : (s.modPmBay b f).ing = s.ing := (rfl)
@[simp] theorem modPmBay_tr (s : State) (b : Nat) (f : PmBay → PmBay) : (s.modPmBay b f).tr = s.tr := (rfl)
@[simp] theorem modPmBay_spec (s : State) (b : Nat) (f : PmBay → PmBay) : (s.modPmBay b f).spec = s.spec := (rfl)
@[simp] theorem modPmBay_hor (s : State) (b : Nat) (f : PmBay → PmBay) : (s.modPmBay b f).hor = s.hor := (rfl)
@[simp] theorem modPmBay_lom (s : State) (b : Nat) (f : PmBay → PmBay) : (s.modPmBay b f).lom = s.lom := (rfl)
@[simp] theorem modPmBay_alr (s : State) (b : Nat) (f : PmBay → PmBay) : (s.modPmBay b f).alr = s.alr := (rfl)
@[simp] theorem modPmBay_egr (s : State) (b : Nat) (f : PmBay → PmBay) : (s.modPmBay b f).egr = s.egr := (rfl)
@[simp] theorem modPmBay_orr (s : State) (b : Nat) (f : PmBay → PmBay) : (s.modPmBay b f).orr = s.orr := (rfl)
@[simp] theorem modPmBay_bos (s : State) (b : Nat) (f : PmBay → PmBay) : (s.modPmBay b f).bos = s.bos := (rfl)
@[simp] theorem modPmBay_bis (s : State) (b : Nat) (f : PmBay → PmBay) : (s.modPmBay b f).bis = s.bis := (rfl)
@[simp] theorem modPmBay_par (s : State) (b : Nat) (f : PmBay → PmBay) : (s.modPmBay b f).par = s.par := (rfl)
@[simp] theorem modPmBay_wit (s : State) (b : Nat) (f : PmBay → PmBay) : (s.modPmBay b f).wit = s.wit := (rfl)
@[simp] theorem modPmBay_pm (s : State) (b : Nat) (f : PmBay → PmBay) : (s.modPmBay b f).pm = { s.pm with bays := s.pm.bays.modify b f } := (rfl)
@[simp] theorem modPmBay_rec (s : State) (b : Nat) (f : PmBay → PmBay) : (s.modPmBay b f).rec_ = s.rec_ := (rfl)
@[simp] theorem modPmBay_eng (s : State) (b : Nat) (f : PmBay → PmBay) : (s.modPmBay b f).eng = s.eng := (rfl)
@[simp] theorem modPmBay_fab (s : State) (b : Nat) (f : PmBay → PmBay) : (s.modPmBay b f).fab = s.fab := (rfl)

/-! set -/

@[simp] theorem set_pending (s : State) (i b e : Nat) (v : Value) : (s.set i b e v).pending = s.pending := (rfl)
@[simp] theorem set_obj (s : State) (i b e : Nat) (v : Value) : (s.set i b e v).obj = Store.set s.obj (okey i b e) v := (rfl)
@[simp] theorem set_cfg (s : State) (i b e : Nat) (v : Value) : (s.set i b e v).cfg = s.cfg := (rfl)
@[simp] theorem set_staged (s : State) (i b e : Nat) (v : Value) : (s.set i b e v).staged = s.staged := (rfl)
@[simp] theorem set_wire (s : State) (i b e : Nat) (v : Value) : (s.set i b e v).wire = s.wire := (rfl)
@[simp] theorem set_dram (s : State) (i b e : Nat) (v : Value) : (s.set i b e v).dram = s.dram := (rfl)
@[simp] theorem set_alm (s : State) (i b e : Nat) (v : Value) : (s.set i b e v).alm = s.alm := (rfl)
@[simp] theorem set_ev (s : State) (i b e : Nat) (v : Value) : (s.set i b e v).ev = s.ev := (rfl)
@[simp] theorem set_eph (s : State) (i b e : Nat) (v : Value) : (s.set i b e v).eph = s.eph := (rfl)
@[simp] theorem set_ptp (s : State) (i b e : Nat) (v : Value) : (s.set i b e v).ptp = s.ptp := (rfl)
@[simp] theorem set_flash (s : State) (i b e : Nat) (v : Value) : (s.set i b e v).flash = s.flash := (rfl)
@[simp] theorem set_keys (s : State) (i b e : Nat) (v : Value) : (s.set i b e v).keys = s.keys := (rfl)
@[simp] theorem set_boot (s : State) (i b e : Nat) (v : Value) : (s.set i b e v).boot = s.boot := (rfl)
@[simp] theorem set_loc (s : State) (i b e : Nat) (v : Value) : (s.set i b e v).loc = s.loc := (rfl)
@[simp] theorem set_ing (s : State) (i b e : Nat) (v : Value) : (s.set i b e v).ing = s.ing := (rfl)
@[simp] theorem set_tr (s : State) (i b e : Nat) (v : Value) : (s.set i b e v).tr = s.tr := (rfl)
@[simp] theorem set_spec (s : State) (i b e : Nat) (v : Value) : (s.set i b e v).spec = s.spec := (rfl)
@[simp] theorem set_hor (s : State) (i b e : Nat) (v : Value) : (s.set i b e v).hor = s.hor := (rfl)
@[simp] theorem set_lom (s : State) (i b e : Nat) (v : Value) : (s.set i b e v).lom = s.lom := (rfl)
@[simp] theorem set_alr (s : State) (i b e : Nat) (v : Value) : (s.set i b e v).alr = s.alr := (rfl)
@[simp] theorem set_egr (s : State) (i b e : Nat) (v : Value) : (s.set i b e v).egr = s.egr := (rfl)
@[simp] theorem set_orr (s : State) (i b e : Nat) (v : Value) : (s.set i b e v).orr = s.orr := (rfl)
@[simp] theorem set_bos (s : State) (i b e : Nat) (v : Value) : (s.set i b e v).bos = s.bos := (rfl)
@[simp] theorem set_bis (s : State) (i b e : Nat) (v : Value) : (s.set i b e v).bis = s.bis := (rfl)
@[simp] theorem set_par (s : State) (i b e : Nat) (v : Value) : (s.set i b e v).par = s.par := (rfl)
@[simp] theorem set_wit (s : State) (i b e : Nat) (v : Value) : (s.set i b e v).wit = s.wit := (rfl)
@[simp] theorem set_pm (s : State) (i b e : Nat) (v : Value) : (s.set i b e v).pm = s.pm := (rfl)
@[simp] theorem set_rec (s : State) (i b e : Nat) (v : Value) : (s.set i b e v).rec_ = s.rec_ := (rfl)
@[simp] theorem set_eng (s : State) (i b e : Nat) (v : Value) : (s.set i b e v).eng = s.eng := (rfl)
@[simp] theorem set_fab (s : State) (i b e : Nat) (v : Value) : (s.set i b e v).fab = s.fab := (rfl)

/-! emit -/

@[simp] theorem emit_pending (s : State) (o : Output) : (s.emit o).pending = s.pending := (rfl)
@[simp] theorem emit_obj (s : State) (o : Output) : (s.emit o).obj = s.obj := (rfl)
@[simp] theorem emit_cfg (s : State) (o : Output) : (s.emit o).cfg = s.cfg := (rfl)
@[simp] theorem emit_staged (s : State) (o : Output) : (s.emit o).staged = s.staged := (rfl)
@[simp] theorem emit_wire (s : State) (o : Output) : (s.emit o).wire = s.wire ++ [o] := (rfl)
@[simp] theorem emit_dram (s : State) (o : Output) : (s.emit o).dram = s.dram := (rfl)
@[simp] theorem emit_alm (s : State) (o : Output) : (s.emit o).alm = s.alm := (rfl)
@[simp] theorem emit_ev (s : State) (o : Output) : (s.emit o).ev = s.ev := (rfl)
@[simp] theorem emit_eph (s : State) (o : Output) : (s.emit o).eph = s.eph := (rfl)
@[simp] theorem emit_ptp (s : State) (o : Output) : (s.emit o).ptp = s.ptp := (rfl)
@[simp] theorem emit_flash (s : State) (o : Output) : (s.emit o).flash = s.flash := (rfl)
@[simp] theorem emit_keys (s : State) (o : Output) : (s.emit o).keys = s.keys := (rfl)
@[simp] theorem emit_boot (s : State) (o : Output) : (s.emit o).boot = s.boot := (rfl)
@[simp] theorem emit_loc (s : State) (o : Output) : (s.emit o).loc = s.loc := (rfl)
@[simp] theorem emit_ing (s : State) (o : Output) : (s.emit o).ing = s.ing := (rfl)
@[simp] theorem emit_tr (s : State) (o : Output) : (s.emit o).tr = s.tr := (rfl)
@[simp] theorem emit_spec (s : State) (o : Output) : (s.emit o).spec = s.spec := (rfl)
@[simp] theorem emit_hor (s : State) (o : Output) : (s.emit o).hor = s.hor := (rfl)
@[simp] theorem emit_lom (s : State) (o : Output) : (s.emit o).lom = s.lom := (rfl)
@[simp] theorem emit_alr (s : State) (o : Output) : (s.emit o).alr = s.alr := (rfl)
@[simp] theorem emit_egr (s : State) (o : Output) : (s.emit o).egr = s.egr := (rfl)
@[simp] theorem emit_orr (s : State) (o : Output) : (s.emit o).orr = s.orr := (rfl)
@[simp] theorem emit_bos (s : State) (o : Output) : (s.emit o).bos = s.bos := (rfl)
@[simp] theorem emit_bis (s : State) (o : Output) : (s.emit o).bis = s.bis := (rfl)
@[simp] theorem emit_par (s : State) (o : Output) : (s.emit o).par = s.par := (rfl)
@[simp] theorem emit_wit (s : State) (o : Output) : (s.emit o).wit = s.wit := (rfl)
@[simp] theorem emit_pm (s : State) (o : Output) : (s.emit o).pm = s.pm := (rfl)
@[simp] theorem emit_rec (s : State) (o : Output) : (s.emit o).rec_ = s.rec_ := (rfl)
@[simp] theorem emit_eng (s : State) (o : Output) : (s.emit o).eng = s.eng := (rfl)
@[simp] theorem emit_fab (s : State) (o : Output) : (s.emit o).fab = s.fab := (rfl)

/-! raiseEvent -/

@[simp] theorem raiseEvent_pending (s : State) (n k : Nat) : (s.raiseEvent n k).pending = s.pending := (rfl)
@[simp] theorem raiseEvent_obj (s : State) (n k : Nat) : (s.raiseEvent n k).obj = s.obj := (rfl)
@[simp] theorem raiseEvent_cfg (s : State) (n k : Nat) : (s.raiseEvent n k).cfg = s.cfg := (rfl)
@[simp] theorem raiseEvent_staged (s : State) (n k : Nat) : (s.raiseEvent n k).staged = s.staged := (rfl)
@[simp] theorem raiseEvent_wire (s : State) (n k : Nat) : (s.raiseEvent n k).wire = s.wire := (rfl)
@[simp] theorem raiseEvent_dram (s : State) (n k : Nat) : (s.raiseEvent n k).dram = s.dram := (rfl)
@[simp] theorem raiseEvent_alm (s : State) (n k : Nat) : (s.raiseEvent n k).alm = s.alm := (rfl)
@[simp] theorem raiseEvent_ev (s : State) (n k : Nat) : (s.raiseEvent n k).ev = { s.ev with raised := s.ev.raised ++ [⟨n, k, s.et, !s.locked⟩] } := (rfl)
@[simp] theorem raiseEvent_eph (s : State) (n k : Nat) : (s.raiseEvent n k).eph = s.eph := (rfl)
@[simp] theorem raiseEvent_ptp (s : State) (n k : Nat) : (s.raiseEvent n k).ptp = s.ptp := (rfl)
@[simp] theorem raiseEvent_flash (s : State) (n k : Nat) : (s.raiseEvent n k).flash = s.flash := (rfl)
@[simp] theorem raiseEvent_keys (s : State) (n k : Nat) : (s.raiseEvent n k).keys = s.keys := (rfl)
@[simp] theorem raiseEvent_boot (s : State) (n k : Nat) : (s.raiseEvent n k).boot = s.boot := (rfl)
@[simp] theorem raiseEvent_loc (s : State) (n k : Nat) : (s.raiseEvent n k).loc = s.loc := (rfl)
@[simp] theorem raiseEvent_ing (s : State) (n k : Nat) : (s.raiseEvent n k).ing = s.ing := (rfl)
@[simp] theorem raiseEvent_tr (s : State) (n k : Nat) : (s.raiseEvent n k).tr = s.tr := (rfl)
@[simp] theorem raiseEvent_spec (s : State) (n k : Nat) : (s.raiseEvent n k).spec = s.spec := (rfl)
@[simp] theorem raiseEvent_hor (s : State) (n k : Nat) : (s.raiseEvent n k).hor = s.hor := (rfl)
@[simp] theorem raiseEvent_lom (s : State) (n k : Nat) : (s.raiseEvent n k).lom = s.lom := (rfl)
@[simp] theorem raiseEvent_alr (s : State) (n k : Nat) : (s.raiseEvent n k).alr = s.alr := (rfl)
@[simp] theorem raiseEvent_egr (s : State) (n k : Nat) : (s.raiseEvent n k).egr = s.egr := (rfl)
@[simp] theorem raiseEvent_orr (s : State) (n k : Nat) : (s.raiseEvent n k).orr = s.orr := (rfl)
@[simp] theorem raiseEvent_bos (s : State) (n k : Nat) : (s.raiseEvent n k).bos = s.bos := (rfl)
@[simp] theorem raiseEvent_bis (s : State) (n k : Nat) : (s.raiseEvent n k).bis = s.bis := (rfl)
@[simp] theorem raiseEvent_par (s : State) (n k : Nat) : (s.raiseEvent n k).par = s.par := (rfl)
@[simp] theorem raiseEvent_wit (s : State) (n k : Nat) : (s.raiseEvent n k).wit = s.wit := (rfl)
@[simp] theorem raiseEvent_pm (s : State) (n k : Nat) : (s.raiseEvent n k).pm = s.pm := (rfl)
@[simp] theorem raiseEvent_rec (s : State) (n k : Nat) : (s.raiseEvent n k).rec_ = s.rec_ := (rfl)
@[simp] theorem raiseEvent_eng (s : State) (n k : Nat) : (s.raiseEvent n k).eng = s.eng := (rfl)
@[simp] theorem raiseEvent_fab (s : State) (n k : Nat) : (s.raiseEvent n k).fab = s.fab := (rfl)

/-! What each update leaves of the registers, the configuration and the time. -/

@[simp] theorem value_modAlm (s : State) (f : Alm → Alm) (i b e : Nat) : (s.modAlm f).value i b e = s.value i b e := (rfl)
@[simp] theorem num_modAlm (s : State) (f : Alm → Alm) (i b : Nat) : (s.modAlm f).num i b = s.num i b := (rfl)
@[simp] theorem int_modAlm (s : State) (f : Alm → Alm) (i b : Nat) : (s.modAlm f).int i b = s.int i b := (rfl)
@[simp] theorem flag_modAlm (s : State) (f : Alm → Alm) (i b : Nat) : (s.modAlm f).flag i b = s.flag i b := (rfl)
@[simp] theorem bytes_modAlm (s : State) (f : Alm → Alm) (i b : Nat) : (s.modAlm f).bytes i b = s.bytes i b := (rfl)
@[simp] theorem elem_modAlm (s : State) (f : Alm → Alm) (i b e : Nat) : (s.modAlm f).elem i b e = s.elem i b e := (rfl)
@[simp] theorem c_modAlm (s : State) (f : Alm → Alm) (i b : Nat) : (s.modAlm f).c i b = s.c i b := (rfl)
@[simp] theorem cI_modAlm (s : State) (f : Alm → Alm) (i b : Nat) : (s.modAlm f).cI i b = s.cI i b := (rfl)
@[simp] theorem cB_modAlm (s : State) (f : Alm → Alm) (i b : Nat) : (s.modAlm f).cB i b = s.cB i b := (rfl)
@[simp] theorem cBytes_modAlm (s : State) (f : Alm → Alm) (i b : Nat) : (s.modAlm f).cBytes i b = s.cBytes i b := (rfl)
@[simp] theorem cElem_modAlm (s : State) (f : Alm → Alm) (i b e : Nat) : (s.modAlm f).cElem i b e = s.cElem i b e := (rfl)
@[simp] theorem cF32_modAlm (s : State) (f : Alm → Alm) (i b : Nat) : (s.modAlm f).cF32 i b = s.cF32 i b := (rfl)
@[simp] theorem et_modAlm (s : State) (f : Alm → Alm) : (s.modAlm f).et = s.et := (rfl)
@[simp] theorem raw_modAlm (s : State) (f : Alm → Alm) : (s.modAlm f).raw = s.raw := (rfl)
@[simp] theorem locked_modAlm (s : State) (f : Alm → Alm) : (s.modAlm f).locked = s.locked := (rfl)

@[simp] theorem value_modEv (s : State) (f : Events → Events) (i b e : Nat) : (s.modEv f).value i b e = s.value i b e := (rfl)
@[simp] theorem num_modEv (s : State) (f : Events → Events) (i b : Nat) : (s.modEv f).num i b = s.num i b := (rfl)
@[simp] theorem int_modEv (s : State) (f : Events → Events) (i b : Nat) : (s.modEv f).int i b = s.int i b := (rfl)
@[simp] theorem flag_modEv (s : State) (f : Events → Events) (i b : Nat) : (s.modEv f).flag i b = s.flag i b := (rfl)
@[simp] theorem bytes_modEv (s : State) (f : Events → Events) (i b : Nat) : (s.modEv f).bytes i b = s.bytes i b := (rfl)
@[simp] theorem elem_modEv (s : State) (f : Events → Events) (i b e : Nat) : (s.modEv f).elem i b e = s.elem i b e := (rfl)
@[simp] theorem c_modEv (s : State) (f : Events → Events) (i b : Nat) : (s.modEv f).c i b = s.c i b := (rfl)
@[simp] theorem cI_modEv (s : State) (f : Events → Events) (i b : Nat) : (s.modEv f).cI i b = s.cI i b := (rfl)
@[simp] theorem cB_modEv (s : State) (f : Events → Events) (i b : Nat) : (s.modEv f).cB i b = s.cB i b := (rfl)
@[simp] theorem cBytes_modEv (s : State) (f : Events → Events) (i b : Nat) : (s.modEv f).cBytes i b = s.cBytes i b := (rfl)
@[simp] theorem cElem_modEv (s : State) (f : Events → Events) (i b e : Nat) : (s.modEv f).cElem i b e = s.cElem i b e := (rfl)
@[simp] theorem cF32_modEv (s : State) (f : Events → Events) (i b : Nat) : (s.modEv f).cF32 i b = s.cF32 i b := (rfl)
@[simp] theorem et_modEv (s : State) (f : Events → Events) : (s.modEv f).et = s.et := (rfl)
@[simp] theorem raw_modEv (s : State) (f : Events → Events) : (s.modEv f).raw = s.raw := (rfl)
@[simp] theorem locked_modEv (s : State) (f : Events → Events) : (s.modEv f).locked = s.locked := (rfl)

@[simp] theorem value_modEph (s : State) (f : Eph → Eph) (i b e : Nat) : (s.modEph f).value i b e = s.value i b e := (rfl)
@[simp] theorem num_modEph (s : State) (f : Eph → Eph) (i b : Nat) : (s.modEph f).num i b = s.num i b := (rfl)
@[simp] theorem int_modEph (s : State) (f : Eph → Eph) (i b : Nat) : (s.modEph f).int i b = s.int i b := (rfl)
@[simp] theorem flag_modEph (s : State) (f : Eph → Eph) (i b : Nat) : (s.modEph f).flag i b = s.flag i b := (rfl)
@[simp] theorem bytes_modEph (s : State) (f : Eph → Eph) (i b : Nat) : (s.modEph f).bytes i b = s.bytes i b := (rfl)
@[simp] theorem elem_modEph (s : State) (f : Eph → Eph) (i b e : Nat) : (s.modEph f).elem i b e = s.elem i b e := (rfl)
@[simp] theorem c_modEph (s : State) (f : Eph → Eph) (i b : Nat) : (s.modEph f).c i b = s.c i b := (rfl)
@[simp] theorem cI_modEph (s : State) (f : Eph → Eph) (i b : Nat) : (s.modEph f).cI i b = s.cI i b := (rfl)
@[simp] theorem cB_modEph (s : State) (f : Eph → Eph) (i b : Nat) : (s.modEph f).cB i b = s.cB i b := (rfl)
@[simp] theorem cBytes_modEph (s : State) (f : Eph → Eph) (i b : Nat) : (s.modEph f).cBytes i b = s.cBytes i b := (rfl)
@[simp] theorem cElem_modEph (s : State) (f : Eph → Eph) (i b e : Nat) : (s.modEph f).cElem i b e = s.cElem i b e := (rfl)
@[simp] theorem cF32_modEph (s : State) (f : Eph → Eph) (i b : Nat) : (s.modEph f).cF32 i b = s.cF32 i b := (rfl)
@[simp] theorem locked_modEph (s : State) (f : Eph → Eph) : (s.modEph f).locked = s.locked := (rfl)

@[simp] theorem value_modPtp (s : State) (f : Ptp → Ptp) (i b e : Nat) : (s.modPtp f).value i b e = s.value i b e := (rfl)
@[simp] theorem num_modPtp (s : State) (f : Ptp → Ptp) (i b : Nat) : (s.modPtp f).num i b = s.num i b := (rfl)
@[simp] theorem int_modPtp (s : State) (f : Ptp → Ptp) (i b : Nat) : (s.modPtp f).int i b = s.int i b := (rfl)
@[simp] theorem flag_modPtp (s : State) (f : Ptp → Ptp) (i b : Nat) : (s.modPtp f).flag i b = s.flag i b := (rfl)
@[simp] theorem bytes_modPtp (s : State) (f : Ptp → Ptp) (i b : Nat) : (s.modPtp f).bytes i b = s.bytes i b := (rfl)
@[simp] theorem elem_modPtp (s : State) (f : Ptp → Ptp) (i b e : Nat) : (s.modPtp f).elem i b e = s.elem i b e := (rfl)
@[simp] theorem c_modPtp (s : State) (f : Ptp → Ptp) (i b : Nat) : (s.modPtp f).c i b = s.c i b := (rfl)
@[simp] theorem cI_modPtp (s : State) (f : Ptp → Ptp) (i b : Nat) : (s.modPtp f).cI i b = s.cI i b := (rfl)
@[simp] theorem cB_modPtp (s : State) (f : Ptp → Ptp) (i b : Nat) : (s.modPtp f).cB i b = s.cB i b := (rfl)
@[simp] theorem cBytes_modPtp (s : State) (f : Ptp → Ptp) (i b : Nat) : (s.modPtp f).cBytes i b = s.cBytes i b := (rfl)
@[simp] theorem cElem_modPtp (s : State) (f : Ptp → Ptp) (i b e : Nat) : (s.modPtp f).cElem i b e = s.cElem i b e := (rfl)
@[simp] theorem cF32_modPtp (s : State) (f : Ptp → Ptp) (i b : Nat) : (s.modPtp f).cF32 i b = s.cF32 i b := (rfl)
@[simp] theorem et_modPtp (s : State) (f : Ptp → Ptp) : (s.modPtp f).et = s.et := (rfl)
@[simp] theorem raw_modPtp (s : State) (f : Ptp → Ptp) : (s.modPtp f).raw = s.raw := (rfl)
@[simp] theorem locked_modPtp (s : State) (f : Ptp → Ptp) : (s.modPtp f).locked = s.locked := (rfl)

@[simp] theorem value_modFlash (s : State) (f : Flash → Flash) (i b e : Nat) : (s.modFlash f).value i b e = s.value i b e := (rfl)
@[simp] theorem num_modFlash (s : State) (f : Flash → Flash) (i b : Nat) : (s.modFlash f).num i b = s.num i b := (rfl)
@[simp] theorem int_modFlash (s : State) (f : Flash → Flash) (i b : Nat) : (s.modFlash f).int i b = s.int i b := (rfl)
@[simp] theorem flag_modFlash (s : State) (f : Flash → Flash) (i b : Nat) : (s.modFlash f).flag i b = s.flag i b := (rfl)
@[simp] theorem bytes_modFlash (s : State) (f : Flash → Flash) (i b : Nat) : (s.modFlash f).bytes i b = s.bytes i b := (rfl)
@[simp] theorem elem_modFlash (s : State) (f : Flash → Flash) (i b e : Nat) : (s.modFlash f).elem i b e = s.elem i b e := (rfl)
@[simp] theorem c_modFlash (s : State) (f : Flash → Flash) (i b : Nat) : (s.modFlash f).c i b = s.c i b := (rfl)
@[simp] theorem cI_modFlash (s : State) (f : Flash → Flash) (i b : Nat) : (s.modFlash f).cI i b = s.cI i b := (rfl)
@[simp] theorem cB_modFlash (s : State) (f : Flash → Flash) (i b : Nat) : (s.modFlash f).cB i b = s.cB i b := (rfl)
@[simp] theorem cBytes_modFlash (s : State) (f : Flash → Flash) (i b : Nat) : (s.modFlash f).cBytes i b = s.cBytes i b := (rfl)
@[simp] theorem cElem_modFlash (s : State) (f : Flash → Flash) (i b e : Nat) : (s.modFlash f).cElem i b e = s.cElem i b e := (rfl)
@[simp] theorem cF32_modFlash (s : State) (f : Flash → Flash) (i b : Nat) : (s.modFlash f).cF32 i b = s.cF32 i b := (rfl)
@[simp] theorem et_modFlash (s : State) (f : Flash → Flash) : (s.modFlash f).et = s.et := (rfl)
@[simp] theorem raw_modFlash (s : State) (f : Flash → Flash) : (s.modFlash f).raw = s.raw := (rfl)
@[simp] theorem locked_modFlash (s : State) (f : Flash → Flash) : (s.modFlash f).locked = s.locked := (rfl)

@[simp] theorem value_modKeys (s : State) (f : Keys → Keys) (i b e : Nat) : (s.modKeys f).value i b e = s.value i b e := (rfl)
@[simp] theorem num_modKeys (s : State) (f : Keys → Keys) (i b : Nat) : (s.modKeys f).num i b = s.num i b := (rfl)
@[simp] theorem int_modKeys (s : State) (f : Keys → Keys) (i b : Nat) : (s.modKeys f).int i b = s.int i b := (rfl)
@[simp] theorem flag_modKeys (s : State) (f : Keys → Keys) (i b : Nat) : (s.modKeys f).flag i b = s.flag i b := (rfl)
@[simp] theorem bytes_modKeys (s : State) (f : Keys → Keys) (i b : Nat) : (s.modKeys f).bytes i b = s.bytes i b := (rfl)
@[simp] theorem elem_modKeys (s : State) (f : Keys → Keys) (i b e : Nat) : (s.modKeys f).elem i b e = s.elem i b e := (rfl)
@[simp] theorem c_modKeys (s : State) (f : Keys → Keys) (i b : Nat) : (s.modKeys f).c i b = s.c i b := (rfl)
@[simp] theorem cI_modKeys (s : State) (f : Keys → Keys) (i b : Nat) : (s.modKeys f).cI i b = s.cI i b := (rfl)
@[simp] theorem cB_modKeys (s : State) (f : Keys → Keys) (i b : Nat) : (s.modKeys f).cB i b = s.cB i b := (rfl)
@[simp] theorem cBytes_modKeys (s : State) (f : Keys → Keys) (i b : Nat) : (s.modKeys f).cBytes i b = s.cBytes i b := (rfl)
@[simp] theorem cElem_modKeys (s : State) (f : Keys → Keys) (i b e : Nat) : (s.modKeys f).cElem i b e = s.cElem i b e := (rfl)
@[simp] theorem cF32_modKeys (s : State) (f : Keys → Keys) (i b : Nat) : (s.modKeys f).cF32 i b = s.cF32 i b := (rfl)
@[simp] theorem et_modKeys (s : State) (f : Keys → Keys) : (s.modKeys f).et = s.et := (rfl)
@[simp] theorem raw_modKeys (s : State) (f : Keys → Keys) : (s.modKeys f).raw = s.raw := (rfl)
@[simp] theorem locked_modKeys (s : State) (f : Keys → Keys) : (s.modKeys f).locked = s.locked := (rfl)

@[simp] theorem value_modBoot (s : State) (f : Boot → Boot) (i b e : Nat) : (s.modBoot f).value i b e = s.value i b e := (rfl)
@[simp] theorem num_modBoot (s : State) (f : Boot → Boot) (i b : Nat) : (s.modBoot f).num i b = s.num i b := (rfl)
@[simp] theorem int_modBoot (s : State) (f : Boot → Boot) (i b : Nat) : (s.modBoot f).int i b = s.int i b := (rfl)
@[simp] theorem flag_modBoot (s : State) (f : Boot → Boot) (i b : Nat) : (s.modBoot f).flag i b = s.flag i b := (rfl)
@[simp] theorem bytes_modBoot (s : State) (f : Boot → Boot) (i b : Nat) : (s.modBoot f).bytes i b = s.bytes i b := (rfl)
@[simp] theorem elem_modBoot (s : State) (f : Boot → Boot) (i b e : Nat) : (s.modBoot f).elem i b e = s.elem i b e := (rfl)
@[simp] theorem c_modBoot (s : State) (f : Boot → Boot) (i b : Nat) : (s.modBoot f).c i b = s.c i b := (rfl)
@[simp] theorem cI_modBoot (s : State) (f : Boot → Boot) (i b : Nat) : (s.modBoot f).cI i b = s.cI i b := (rfl)
@[simp] theorem cB_modBoot (s : State) (f : Boot → Boot) (i b : Nat) : (s.modBoot f).cB i b = s.cB i b := (rfl)
@[simp] theorem cBytes_modBoot (s : State) (f : Boot → Boot) (i b : Nat) : (s.modBoot f).cBytes i b = s.cBytes i b := (rfl)
@[simp] theorem cElem_modBoot (s : State) (f : Boot → Boot) (i b e : Nat) : (s.modBoot f).cElem i b e = s.cElem i b e := (rfl)
@[simp] theorem cF32_modBoot (s : State) (f : Boot → Boot) (i b : Nat) : (s.modBoot f).cF32 i b = s.cF32 i b := (rfl)
@[simp] theorem et_modBoot (s : State) (f : Boot → Boot) : (s.modBoot f).et = s.et := (rfl)
@[simp] theorem raw_modBoot (s : State) (f : Boot → Boot) : (s.modBoot f).raw = s.raw := (rfl)
@[simp] theorem locked_modBoot (s : State) (f : Boot → Boot) : (s.modBoot f).locked = s.locked := (rfl)

@[simp] theorem value_modLoc (s : State) (f : Local → Local) (i b e : Nat) : (s.modLoc f).value i b e = s.value i b e := (rfl)
@[simp] theorem num_modLoc (s : State) (f : Local → Local) (i b : Nat) : (s.modLoc f).num i b = s.num i b := (rfl)
@[simp] theorem int_modLoc (s : State) (f : Local → Local) (i b : Nat) : (s.modLoc f).int i b = s.int i b := (rfl)
@[simp] theorem flag_modLoc (s : State) (f : Local → Local) (i b : Nat) : (s.modLoc f).flag i b = s.flag i b := (rfl)
@[simp] theorem bytes_modLoc (s : State) (f : Local → Local) (i b : Nat) : (s.modLoc f).bytes i b = s.bytes i b := (rfl)
@[simp] theorem elem_modLoc (s : State) (f : Local → Local) (i b e : Nat) : (s.modLoc f).elem i b e = s.elem i b e := (rfl)
@[simp] theorem c_modLoc (s : State) (f : Local → Local) (i b : Nat) : (s.modLoc f).c i b = s.c i b := (rfl)
@[simp] theorem cI_modLoc (s : State) (f : Local → Local) (i b : Nat) : (s.modLoc f).cI i b = s.cI i b := (rfl)
@[simp] theorem cB_modLoc (s : State) (f : Local → Local) (i b : Nat) : (s.modLoc f).cB i b = s.cB i b := (rfl)
@[simp] theorem cBytes_modLoc (s : State) (f : Local → Local) (i b : Nat) : (s.modLoc f).cBytes i b = s.cBytes i b := (rfl)
@[simp] theorem cElem_modLoc (s : State) (f : Local → Local) (i b e : Nat) : (s.modLoc f).cElem i b e = s.cElem i b e := (rfl)
@[simp] theorem cF32_modLoc (s : State) (f : Local → Local) (i b : Nat) : (s.modLoc f).cF32 i b = s.cF32 i b := (rfl)
@[simp] theorem et_modLoc (s : State) (f : Local → Local) : (s.modLoc f).et = s.et := (rfl)
@[simp] theorem raw_modLoc (s : State) (f : Local → Local) : (s.modLoc f).raw = s.raw := (rfl)
@[simp] theorem locked_modLoc (s : State) (f : Local → Local) : (s.modLoc f).locked = s.locked := (rfl)

@[simp] theorem value_modIng (s : State) (f : Ingest → Ingest) (i b e : Nat) : (s.modIng f).value i b e = s.value i b e := (rfl)
@[simp] theorem num_modIng (s : State) (f : Ingest → Ingest) (i b : Nat) : (s.modIng f).num i b = s.num i b := (rfl)
@[simp] theorem int_modIng (s : State) (f : Ingest → Ingest) (i b : Nat) : (s.modIng f).int i b = s.int i b := (rfl)
@[simp] theorem flag_modIng (s : State) (f : Ingest → Ingest) (i b : Nat) : (s.modIng f).flag i b = s.flag i b := (rfl)
@[simp] theorem bytes_modIng (s : State) (f : Ingest → Ingest) (i b : Nat) : (s.modIng f).bytes i b = s.bytes i b := (rfl)
@[simp] theorem elem_modIng (s : State) (f : Ingest → Ingest) (i b e : Nat) : (s.modIng f).elem i b e = s.elem i b e := (rfl)
@[simp] theorem c_modIng (s : State) (f : Ingest → Ingest) (i b : Nat) : (s.modIng f).c i b = s.c i b := (rfl)
@[simp] theorem cI_modIng (s : State) (f : Ingest → Ingest) (i b : Nat) : (s.modIng f).cI i b = s.cI i b := (rfl)
@[simp] theorem cB_modIng (s : State) (f : Ingest → Ingest) (i b : Nat) : (s.modIng f).cB i b = s.cB i b := (rfl)
@[simp] theorem cBytes_modIng (s : State) (f : Ingest → Ingest) (i b : Nat) : (s.modIng f).cBytes i b = s.cBytes i b := (rfl)
@[simp] theorem cElem_modIng (s : State) (f : Ingest → Ingest) (i b e : Nat) : (s.modIng f).cElem i b e = s.cElem i b e := (rfl)
@[simp] theorem cF32_modIng (s : State) (f : Ingest → Ingest) (i b : Nat) : (s.modIng f).cF32 i b = s.cF32 i b := (rfl)
@[simp] theorem et_modIng (s : State) (f : Ingest → Ingest) : (s.modIng f).et = s.et := (rfl)
@[simp] theorem raw_modIng (s : State) (f : Ingest → Ingest) : (s.modIng f).raw = s.raw := (rfl)
@[simp] theorem locked_modIng (s : State) (f : Ingest → Ingest) : (s.modIng f).locked = s.locked := (rfl)

@[simp] theorem value_modTr (s : State) (f : Transit → Transit) (i b e : Nat) : (s.modTr f).value i b e = s.value i b e := (rfl)
@[simp] theorem num_modTr (s : State) (f : Transit → Transit) (i b : Nat) : (s.modTr f).num i b = s.num i b := (rfl)
@[simp] theorem int_modTr (s : State) (f : Transit → Transit) (i b : Nat) : (s.modTr f).int i b = s.int i b := (rfl)
@[simp] theorem flag_modTr (s : State) (f : Transit → Transit) (i b : Nat) : (s.modTr f).flag i b = s.flag i b := (rfl)
@[simp] theorem bytes_modTr (s : State) (f : Transit → Transit) (i b : Nat) : (s.modTr f).bytes i b = s.bytes i b := (rfl)
@[simp] theorem elem_modTr (s : State) (f : Transit → Transit) (i b e : Nat) : (s.modTr f).elem i b e = s.elem i b e := (rfl)
@[simp] theorem c_modTr (s : State) (f : Transit → Transit) (i b : Nat) : (s.modTr f).c i b = s.c i b := (rfl)
@[simp] theorem cI_modTr (s : State) (f : Transit → Transit) (i b : Nat) : (s.modTr f).cI i b = s.cI i b := (rfl)
@[simp] theorem cB_modTr (s : State) (f : Transit → Transit) (i b : Nat) : (s.modTr f).cB i b = s.cB i b := (rfl)
@[simp] theorem cBytes_modTr (s : State) (f : Transit → Transit) (i b : Nat) : (s.modTr f).cBytes i b = s.cBytes i b := (rfl)
@[simp] theorem cElem_modTr (s : State) (f : Transit → Transit) (i b e : Nat) : (s.modTr f).cElem i b e = s.cElem i b e := (rfl)
@[simp] theorem cF32_modTr (s : State) (f : Transit → Transit) (i b : Nat) : (s.modTr f).cF32 i b = s.cF32 i b := (rfl)
@[simp] theorem et_modTr (s : State) (f : Transit → Transit) : (s.modTr f).et = s.et := (rfl)
@[simp] theorem raw_modTr (s : State) (f : Transit → Transit) : (s.modTr f).raw = s.raw := (rfl)
@[simp] theorem locked_modTr (s : State) (f : Transit → Transit) : (s.modTr f).locked = s.locked := (rfl)

@[simp] theorem value_modSpec (s : State) (f : Spec → Spec) (i b e : Nat) : (s.modSpec f).value i b e = s.value i b e := (rfl)
@[simp] theorem num_modSpec (s : State) (f : Spec → Spec) (i b : Nat) : (s.modSpec f).num i b = s.num i b := (rfl)
@[simp] theorem int_modSpec (s : State) (f : Spec → Spec) (i b : Nat) : (s.modSpec f).int i b = s.int i b := (rfl)
@[simp] theorem flag_modSpec (s : State) (f : Spec → Spec) (i b : Nat) : (s.modSpec f).flag i b = s.flag i b := (rfl)
@[simp] theorem bytes_modSpec (s : State) (f : Spec → Spec) (i b : Nat) : (s.modSpec f).bytes i b = s.bytes i b := (rfl)
@[simp] theorem elem_modSpec (s : State) (f : Spec → Spec) (i b e : Nat) : (s.modSpec f).elem i b e = s.elem i b e := (rfl)
@[simp] theorem c_modSpec (s : State) (f : Spec → Spec) (i b : Nat) : (s.modSpec f).c i b = s.c i b := (rfl)
@[simp] theorem cI_modSpec (s : State) (f : Spec → Spec) (i b : Nat) : (s.modSpec f).cI i b = s.cI i b := (rfl)
@[simp] theorem cB_modSpec (s : State) (f : Spec → Spec) (i b : Nat) : (s.modSpec f).cB i b = s.cB i b := (rfl)
@[simp] theorem cBytes_modSpec (s : State) (f : Spec → Spec) (i b : Nat) : (s.modSpec f).cBytes i b = s.cBytes i b := (rfl)
@[simp] theorem cElem_modSpec (s : State) (f : Spec → Spec) (i b e : Nat) : (s.modSpec f).cElem i b e = s.cElem i b e := (rfl)
@[simp] theorem cF32_modSpec (s : State) (f : Spec → Spec) (i b : Nat) : (s.modSpec f).cF32 i b = s.cF32 i b := (rfl)
@[simp] theorem et_modSpec (s : State) (f : Spec → Spec) : (s.modSpec f).et = s.et := (rfl)
@[simp] theorem raw_modSpec (s : State) (f : Spec → Spec) : (s.modSpec f).raw = s.raw := (rfl)
@[simp] theorem locked_modSpec (s : State) (f : Spec → Spec) : (s.modSpec f).locked = s.locked := (rfl)

@[simp] theorem value_modHor (s : State) (f : Horizon → Horizon) (i b e : Nat) : (s.modHor f).value i b e = s.value i b e := (rfl)
@[simp] theorem num_modHor (s : State) (f : Horizon → Horizon) (i b : Nat) : (s.modHor f).num i b = s.num i b := (rfl)
@[simp] theorem int_modHor (s : State) (f : Horizon → Horizon) (i b : Nat) : (s.modHor f).int i b = s.int i b := (rfl)
@[simp] theorem flag_modHor (s : State) (f : Horizon → Horizon) (i b : Nat) : (s.modHor f).flag i b = s.flag i b := (rfl)
@[simp] theorem bytes_modHor (s : State) (f : Horizon → Horizon) (i b : Nat) : (s.modHor f).bytes i b = s.bytes i b := (rfl)
@[simp] theorem elem_modHor (s : State) (f : Horizon → Horizon) (i b e : Nat) : (s.modHor f).elem i b e = s.elem i b e := (rfl)
@[simp] theorem c_modHor (s : State) (f : Horizon → Horizon) (i b : Nat) : (s.modHor f).c i b = s.c i b := (rfl)
@[simp] theorem cI_modHor (s : State) (f : Horizon → Horizon) (i b : Nat) : (s.modHor f).cI i b = s.cI i b := (rfl)
@[simp] theorem cB_modHor (s : State) (f : Horizon → Horizon) (i b : Nat) : (s.modHor f).cB i b = s.cB i b := (rfl)
@[simp] theorem cBytes_modHor (s : State) (f : Horizon → Horizon) (i b : Nat) : (s.modHor f).cBytes i b = s.cBytes i b := (rfl)
@[simp] theorem cElem_modHor (s : State) (f : Horizon → Horizon) (i b e : Nat) : (s.modHor f).cElem i b e = s.cElem i b e := (rfl)
@[simp] theorem cF32_modHor (s : State) (f : Horizon → Horizon) (i b : Nat) : (s.modHor f).cF32 i b = s.cF32 i b := (rfl)
@[simp] theorem et_modHor (s : State) (f : Horizon → Horizon) : (s.modHor f).et = s.et := (rfl)
@[simp] theorem raw_modHor (s : State) (f : Horizon → Horizon) : (s.modHor f).raw = s.raw := (rfl)
@[simp] theorem locked_modHor (s : State) (f : Horizon → Horizon) : (s.modHor f).locked = s.locked := (rfl)

@[simp] theorem value_modAlr (s : State) (f : Alarms → Alarms) (i b e : Nat) : (s.modAlr f).value i b e = s.value i b e := (rfl)
@[simp] theorem num_modAlr (s : State) (f : Alarms → Alarms) (i b : Nat) : (s.modAlr f).num i b = s.num i b := (rfl)
@[simp] theorem int_modAlr (s : State) (f : Alarms → Alarms) (i b : Nat) : (s.modAlr f).int i b = s.int i b := (rfl)
@[simp] theorem flag_modAlr (s : State) (f : Alarms → Alarms) (i b : Nat) : (s.modAlr f).flag i b = s.flag i b := (rfl)
@[simp] theorem bytes_modAlr (s : State) (f : Alarms → Alarms) (i b : Nat) : (s.modAlr f).bytes i b = s.bytes i b := (rfl)
@[simp] theorem elem_modAlr (s : State) (f : Alarms → Alarms) (i b e : Nat) : (s.modAlr f).elem i b e = s.elem i b e := (rfl)
@[simp] theorem c_modAlr (s : State) (f : Alarms → Alarms) (i b : Nat) : (s.modAlr f).c i b = s.c i b := (rfl)
@[simp] theorem cI_modAlr (s : State) (f : Alarms → Alarms) (i b : Nat) : (s.modAlr f).cI i b = s.cI i b := (rfl)
@[simp] theorem cB_modAlr (s : State) (f : Alarms → Alarms) (i b : Nat) : (s.modAlr f).cB i b = s.cB i b := (rfl)
@[simp] theorem cBytes_modAlr (s : State) (f : Alarms → Alarms) (i b : Nat) : (s.modAlr f).cBytes i b = s.cBytes i b := (rfl)
@[simp] theorem cElem_modAlr (s : State) (f : Alarms → Alarms) (i b e : Nat) : (s.modAlr f).cElem i b e = s.cElem i b e := (rfl)
@[simp] theorem cF32_modAlr (s : State) (f : Alarms → Alarms) (i b : Nat) : (s.modAlr f).cF32 i b = s.cF32 i b := (rfl)
@[simp] theorem et_modAlr (s : State) (f : Alarms → Alarms) : (s.modAlr f).et = s.et := (rfl)
@[simp] theorem raw_modAlr (s : State) (f : Alarms → Alarms) : (s.modAlr f).raw = s.raw := (rfl)
@[simp] theorem locked_modAlr (s : State) (f : Alarms → Alarms) : (s.modAlr f).locked = s.locked := (rfl)

@[simp] theorem value_modEgr (s : State) (f : Egress → Egress) (i b e : Nat) : (s.modEgr f).value i b e = s.value i b e := (rfl)
@[simp] theorem num_modEgr (s : State) (f : Egress → Egress) (i b : Nat) : (s.modEgr f).num i b = s.num i b := (rfl)
@[simp] theorem int_modEgr (s : State) (f : Egress → Egress) (i b : Nat) : (s.modEgr f).int i b = s.int i b := (rfl)
@[simp] theorem flag_modEgr (s : State) (f : Egress → Egress) (i b : Nat) : (s.modEgr f).flag i b = s.flag i b := (rfl)
@[simp] theorem bytes_modEgr (s : State) (f : Egress → Egress) (i b : Nat) : (s.modEgr f).bytes i b = s.bytes i b := (rfl)
@[simp] theorem elem_modEgr (s : State) (f : Egress → Egress) (i b e : Nat) : (s.modEgr f).elem i b e = s.elem i b e := (rfl)
@[simp] theorem c_modEgr (s : State) (f : Egress → Egress) (i b : Nat) : (s.modEgr f).c i b = s.c i b := (rfl)
@[simp] theorem cI_modEgr (s : State) (f : Egress → Egress) (i b : Nat) : (s.modEgr f).cI i b = s.cI i b := (rfl)
@[simp] theorem cB_modEgr (s : State) (f : Egress → Egress) (i b : Nat) : (s.modEgr f).cB i b = s.cB i b := (rfl)
@[simp] theorem cBytes_modEgr (s : State) (f : Egress → Egress) (i b : Nat) : (s.modEgr f).cBytes i b = s.cBytes i b := (rfl)
@[simp] theorem cElem_modEgr (s : State) (f : Egress → Egress) (i b e : Nat) : (s.modEgr f).cElem i b e = s.cElem i b e := (rfl)
@[simp] theorem cF32_modEgr (s : State) (f : Egress → Egress) (i b : Nat) : (s.modEgr f).cF32 i b = s.cF32 i b := (rfl)
@[simp] theorem et_modEgr (s : State) (f : Egress → Egress) : (s.modEgr f).et = s.et := (rfl)
@[simp] theorem raw_modEgr (s : State) (f : Egress → Egress) : (s.modEgr f).raw = s.raw := (rfl)
@[simp] theorem locked_modEgr (s : State) (f : Egress → Egress) : (s.modEgr f).locked = s.locked := (rfl)

@[simp] theorem value_modOrr (s : State) (f : Orrery → Orrery) (i b e : Nat) : (s.modOrr f).value i b e = s.value i b e := (rfl)
@[simp] theorem num_modOrr (s : State) (f : Orrery → Orrery) (i b : Nat) : (s.modOrr f).num i b = s.num i b := (rfl)
@[simp] theorem int_modOrr (s : State) (f : Orrery → Orrery) (i b : Nat) : (s.modOrr f).int i b = s.int i b := (rfl)
@[simp] theorem flag_modOrr (s : State) (f : Orrery → Orrery) (i b : Nat) : (s.modOrr f).flag i b = s.flag i b := (rfl)
@[simp] theorem bytes_modOrr (s : State) (f : Orrery → Orrery) (i b : Nat) : (s.modOrr f).bytes i b = s.bytes i b := (rfl)
@[simp] theorem elem_modOrr (s : State) (f : Orrery → Orrery) (i b e : Nat) : (s.modOrr f).elem i b e = s.elem i b e := (rfl)
@[simp] theorem c_modOrr (s : State) (f : Orrery → Orrery) (i b : Nat) : (s.modOrr f).c i b = s.c i b := (rfl)
@[simp] theorem cI_modOrr (s : State) (f : Orrery → Orrery) (i b : Nat) : (s.modOrr f).cI i b = s.cI i b := (rfl)
@[simp] theorem cB_modOrr (s : State) (f : Orrery → Orrery) (i b : Nat) : (s.modOrr f).cB i b = s.cB i b := (rfl)
@[simp] theorem cBytes_modOrr (s : State) (f : Orrery → Orrery) (i b : Nat) : (s.modOrr f).cBytes i b = s.cBytes i b := (rfl)
@[simp] theorem cElem_modOrr (s : State) (f : Orrery → Orrery) (i b e : Nat) : (s.modOrr f).cElem i b e = s.cElem i b e := (rfl)
@[simp] theorem cF32_modOrr (s : State) (f : Orrery → Orrery) (i b : Nat) : (s.modOrr f).cF32 i b = s.cF32 i b := (rfl)
@[simp] theorem et_modOrr (s : State) (f : Orrery → Orrery) : (s.modOrr f).et = s.et := (rfl)
@[simp] theorem raw_modOrr (s : State) (f : Orrery → Orrery) : (s.modOrr f).raw = s.raw := (rfl)
@[simp] theorem locked_modOrr (s : State) (f : Orrery → Orrery) : (s.modOrr f).locked = s.locked := (rfl)

@[simp] theorem value_modPar (s : State) (f : Pair → Pair) (i b e : Nat) : (s.modPar f).value i b e = s.value i b e := (rfl)
@[simp] theorem num_modPar (s : State) (f : Pair → Pair) (i b : Nat) : (s.modPar f).num i b = s.num i b := (rfl)
@[simp] theorem int_modPar (s : State) (f : Pair → Pair) (i b : Nat) : (s.modPar f).int i b = s.int i b := (rfl)
@[simp] theorem flag_modPar (s : State) (f : Pair → Pair) (i b : Nat) : (s.modPar f).flag i b = s.flag i b := (rfl)
@[simp] theorem bytes_modPar (s : State) (f : Pair → Pair) (i b : Nat) : (s.modPar f).bytes i b = s.bytes i b := (rfl)
@[simp] theorem elem_modPar (s : State) (f : Pair → Pair) (i b e : Nat) : (s.modPar f).elem i b e = s.elem i b e := (rfl)
@[simp] theorem c_modPar (s : State) (f : Pair → Pair) (i b : Nat) : (s.modPar f).c i b = s.c i b := (rfl)
@[simp] theorem cI_modPar (s : State) (f : Pair → Pair) (i b : Nat) : (s.modPar f).cI i b = s.cI i b := (rfl)
@[simp] theorem cB_modPar (s : State) (f : Pair → Pair) (i b : Nat) : (s.modPar f).cB i b = s.cB i b := (rfl)
@[simp] theorem cBytes_modPar (s : State) (f : Pair → Pair) (i b : Nat) : (s.modPar f).cBytes i b = s.cBytes i b := (rfl)
@[simp] theorem cElem_modPar (s : State) (f : Pair → Pair) (i b e : Nat) : (s.modPar f).cElem i b e = s.cElem i b e := (rfl)
@[simp] theorem cF32_modPar (s : State) (f : Pair → Pair) (i b : Nat) : (s.modPar f).cF32 i b = s.cF32 i b := (rfl)
@[simp] theorem et_modPar (s : State) (f : Pair → Pair) : (s.modPar f).et = s.et := (rfl)
@[simp] theorem raw_modPar (s : State) (f : Pair → Pair) : (s.modPar f).raw = s.raw := (rfl)
@[simp] theorem locked_modPar (s : State) (f : Pair → Pair) : (s.modPar f).locked = s.locked := (rfl)

@[simp] theorem value_modWit (s : State) (f : Witness → Witness) (i b e : Nat) : (s.modWit f).value i b e = s.value i b e := (rfl)
@[simp] theorem num_modWit (s : State) (f : Witness → Witness) (i b : Nat) : (s.modWit f).num i b = s.num i b := (rfl)
@[simp] theorem int_modWit (s : State) (f : Witness → Witness) (i b : Nat) : (s.modWit f).int i b = s.int i b := (rfl)
@[simp] theorem flag_modWit (s : State) (f : Witness → Witness) (i b : Nat) : (s.modWit f).flag i b = s.flag i b := (rfl)
@[simp] theorem bytes_modWit (s : State) (f : Witness → Witness) (i b : Nat) : (s.modWit f).bytes i b = s.bytes i b := (rfl)
@[simp] theorem elem_modWit (s : State) (f : Witness → Witness) (i b e : Nat) : (s.modWit f).elem i b e = s.elem i b e := (rfl)
@[simp] theorem c_modWit (s : State) (f : Witness → Witness) (i b : Nat) : (s.modWit f).c i b = s.c i b := (rfl)
@[simp] theorem cI_modWit (s : State) (f : Witness → Witness) (i b : Nat) : (s.modWit f).cI i b = s.cI i b := (rfl)
@[simp] theorem cB_modWit (s : State) (f : Witness → Witness) (i b : Nat) : (s.modWit f).cB i b = s.cB i b := (rfl)
@[simp] theorem cBytes_modWit (s : State) (f : Witness → Witness) (i b : Nat) : (s.modWit f).cBytes i b = s.cBytes i b := (rfl)
@[simp] theorem cElem_modWit (s : State) (f : Witness → Witness) (i b e : Nat) : (s.modWit f).cElem i b e = s.cElem i b e := (rfl)
@[simp] theorem cF32_modWit (s : State) (f : Witness → Witness) (i b : Nat) : (s.modWit f).cF32 i b = s.cF32 i b := (rfl)
@[simp] theorem et_modWit (s : State) (f : Witness → Witness) : (s.modWit f).et = s.et := (rfl)
@[simp] theorem raw_modWit (s : State) (f : Witness → Witness) : (s.modWit f).raw = s.raw := (rfl)
@[simp] theorem locked_modWit (s : State) (f : Witness → Witness) : (s.modWit f).locked = s.locked := (rfl)

@[simp] theorem value_modPm (s : State) (f : Pm → Pm) (i b e : Nat) : (s.modPm f).value i b e = s.value i b e := (rfl)
@[simp] theorem num_modPm (s : State) (f : Pm → Pm) (i b : Nat) : (s.modPm f).num i b = s.num i b := (rfl)
@[simp] theorem int_modPm (s : State) (f : Pm → Pm) (i b : Nat) : (s.modPm f).int i b = s.int i b := (rfl)
@[simp] theorem flag_modPm (s : State) (f : Pm → Pm) (i b : Nat) : (s.modPm f).flag i b = s.flag i b := (rfl)
@[simp] theorem bytes_modPm (s : State) (f : Pm → Pm) (i b : Nat) : (s.modPm f).bytes i b = s.bytes i b := (rfl)
@[simp] theorem elem_modPm (s : State) (f : Pm → Pm) (i b e : Nat) : (s.modPm f).elem i b e = s.elem i b e := (rfl)
@[simp] theorem c_modPm (s : State) (f : Pm → Pm) (i b : Nat) : (s.modPm f).c i b = s.c i b := (rfl)
@[simp] theorem cI_modPm (s : State) (f : Pm → Pm) (i b : Nat) : (s.modPm f).cI i b = s.cI i b := (rfl)
@[simp] theorem cB_modPm (s : State) (f : Pm → Pm) (i b : Nat) : (s.modPm f).cB i b = s.cB i b := (rfl)
@[simp] theorem cBytes_modPm (s : State) (f : Pm → Pm) (i b : Nat) : (s.modPm f).cBytes i b = s.cBytes i b := (rfl)
@[simp] theorem cElem_modPm (s : State) (f : Pm → Pm) (i b e : Nat) : (s.modPm f).cElem i b e = s.cElem i b e := (rfl)
@[simp] theorem cF32_modPm (s : State) (f : Pm → Pm) (i b : Nat) : (s.modPm f).cF32 i b = s.cF32 i b := (rfl)
@[simp] theorem et_modPm (s : State) (f : Pm → Pm) : (s.modPm f).et = s.et := (rfl)
@[simp] theorem raw_modPm (s : State) (f : Pm → Pm) : (s.modPm f).raw = s.raw := (rfl)
@[simp] theorem locked_modPm (s : State) (f : Pm → Pm) : (s.modPm f).locked = s.locked := (rfl)

@[simp] theorem value_modRec (s : State) (f : Recorder → Recorder) (i b e : Nat) : (s.modRec f).value i b e = s.value i b e := (rfl)
@[simp] theorem num_modRec (s : State) (f : Recorder → Recorder) (i b : Nat) : (s.modRec f).num i b = s.num i b := (rfl)
@[simp] theorem int_modRec (s : State) (f : Recorder → Recorder) (i b : Nat) : (s.modRec f).int i b = s.int i b := (rfl)
@[simp] theorem flag_modRec (s : State) (f : Recorder → Recorder) (i b : Nat) : (s.modRec f).flag i b = s.flag i b := (rfl)
@[simp] theorem bytes_modRec (s : State) (f : Recorder → Recorder) (i b : Nat) : (s.modRec f).bytes i b = s.bytes i b := (rfl)
@[simp] theorem elem_modRec (s : State) (f : Recorder → Recorder) (i b e : Nat) : (s.modRec f).elem i b e = s.elem i b e := (rfl)
@[simp] theorem c_modRec (s : State) (f : Recorder → Recorder) (i b : Nat) : (s.modRec f).c i b = s.c i b := (rfl)
@[simp] theorem cI_modRec (s : State) (f : Recorder → Recorder) (i b : Nat) : (s.modRec f).cI i b = s.cI i b := (rfl)
@[simp] theorem cB_modRec (s : State) (f : Recorder → Recorder) (i b : Nat) : (s.modRec f).cB i b = s.cB i b := (rfl)
@[simp] theorem cBytes_modRec (s : State) (f : Recorder → Recorder) (i b : Nat) : (s.modRec f).cBytes i b = s.cBytes i b := (rfl)
@[simp] theorem cElem_modRec (s : State) (f : Recorder → Recorder) (i b e : Nat) : (s.modRec f).cElem i b e = s.cElem i b e := (rfl)
@[simp] theorem cF32_modRec (s : State) (f : Recorder → Recorder) (i b : Nat) : (s.modRec f).cF32 i b = s.cF32 i b := (rfl)
@[simp] theorem et_modRec (s : State) (f : Recorder → Recorder) : (s.modRec f).et = s.et := (rfl)
@[simp] theorem raw_modRec (s : State) (f : Recorder → Recorder) : (s.modRec f).raw = s.raw := (rfl)
@[simp] theorem locked_modRec (s : State) (f : Recorder → Recorder) : (s.modRec f).locked = s.locked := (rfl)

@[simp] theorem value_modEng (s : State) (f : Engine → Engine) (i b e : Nat) : (s.modEng f).value i b e = s.value i b e := (rfl)
@[simp] theorem num_modEng (s : State) (f : Engine → Engine) (i b : Nat) : (s.modEng f).num i b = s.num i b := (rfl)
@[simp] theorem int_modEng (s : State) (f : Engine → Engine) (i b : Nat) : (s.modEng f).int i b = s.int i b := (rfl)
@[simp] theorem flag_modEng (s : State) (f : Engine → Engine) (i b : Nat) : (s.modEng f).flag i b = s.flag i b := (rfl)
@[simp] theorem bytes_modEng (s : State) (f : Engine → Engine) (i b : Nat) : (s.modEng f).bytes i b = s.bytes i b := (rfl)
@[simp] theorem elem_modEng (s : State) (f : Engine → Engine) (i b e : Nat) : (s.modEng f).elem i b e = s.elem i b e := (rfl)
@[simp] theorem c_modEng (s : State) (f : Engine → Engine) (i b : Nat) : (s.modEng f).c i b = s.c i b := (rfl)
@[simp] theorem cI_modEng (s : State) (f : Engine → Engine) (i b : Nat) : (s.modEng f).cI i b = s.cI i b := (rfl)
@[simp] theorem cB_modEng (s : State) (f : Engine → Engine) (i b : Nat) : (s.modEng f).cB i b = s.cB i b := (rfl)
@[simp] theorem cBytes_modEng (s : State) (f : Engine → Engine) (i b : Nat) : (s.modEng f).cBytes i b = s.cBytes i b := (rfl)
@[simp] theorem cElem_modEng (s : State) (f : Engine → Engine) (i b e : Nat) : (s.modEng f).cElem i b e = s.cElem i b e := (rfl)
@[simp] theorem cF32_modEng (s : State) (f : Engine → Engine) (i b : Nat) : (s.modEng f).cF32 i b = s.cF32 i b := (rfl)
@[simp] theorem et_modEng (s : State) (f : Engine → Engine) : (s.modEng f).et = s.et := (rfl)
@[simp] theorem raw_modEng (s : State) (f : Engine → Engine) : (s.modEng f).raw = s.raw := (rfl)
@[simp] theorem locked_modEng (s : State) (f : Engine → Engine) : (s.modEng f).locked = s.locked := (rfl)

@[simp] theorem value_modFab (s : State) (f : Fabric → Fabric) (i b e : Nat) : (s.modFab f).value i b e = s.value i b e := (rfl)
@[simp] theorem num_modFab (s : State) (f : Fabric → Fabric) (i b : Nat) : (s.modFab f).num i b = s.num i b := (rfl)
@[simp] theorem int_modFab (s : State) (f : Fabric → Fabric) (i b : Nat) : (s.modFab f).int i b = s.int i b := (rfl)
@[simp] theorem flag_modFab (s : State) (f : Fabric → Fabric) (i b : Nat) : (s.modFab f).flag i b = s.flag i b := (rfl)
@[simp] theorem bytes_modFab (s : State) (f : Fabric → Fabric) (i b : Nat) : (s.modFab f).bytes i b = s.bytes i b := (rfl)
@[simp] theorem elem_modFab (s : State) (f : Fabric → Fabric) (i b e : Nat) : (s.modFab f).elem i b e = s.elem i b e := (rfl)
@[simp] theorem c_modFab (s : State) (f : Fabric → Fabric) (i b : Nat) : (s.modFab f).c i b = s.c i b := (rfl)
@[simp] theorem cI_modFab (s : State) (f : Fabric → Fabric) (i b : Nat) : (s.modFab f).cI i b = s.cI i b := (rfl)
@[simp] theorem cB_modFab (s : State) (f : Fabric → Fabric) (i b : Nat) : (s.modFab f).cB i b = s.cB i b := (rfl)
@[simp] theorem cBytes_modFab (s : State) (f : Fabric → Fabric) (i b : Nat) : (s.modFab f).cBytes i b = s.cBytes i b := (rfl)
@[simp] theorem cElem_modFab (s : State) (f : Fabric → Fabric) (i b e : Nat) : (s.modFab f).cElem i b e = s.cElem i b e := (rfl)
@[simp] theorem cF32_modFab (s : State) (f : Fabric → Fabric) (i b : Nat) : (s.modFab f).cF32 i b = s.cF32 i b := (rfl)
@[simp] theorem et_modFab (s : State) (f : Fabric → Fabric) : (s.modFab f).et = s.et := (rfl)
@[simp] theorem raw_modFab (s : State) (f : Fabric → Fabric) : (s.modFab f).raw = s.raw := (rfl)
@[simp] theorem locked_modFab (s : State) (f : Fabric → Fabric) : (s.modFab f).locked = s.locked := (rfl)

@[simp] theorem value_modLom (s : State) (m : Nat) (f : LomBay → LomBay) (i b e : Nat) : (s.modLom m f).value i b e = s.value i b e := (rfl)
@[simp] theorem num_modLom (s : State) (m : Nat) (f : LomBay → LomBay) (i b : Nat) : (s.modLom m f).num i b = s.num i b := (rfl)
@[simp] theorem int_modLom (s : State) (m : Nat) (f : LomBay → LomBay) (i b : Nat) : (s.modLom m f).int i b = s.int i b := (rfl)
@[simp] theorem flag_modLom (s : State) (m : Nat) (f : LomBay → LomBay) (i b : Nat) : (s.modLom m f).flag i b = s.flag i b := (rfl)
@[simp] theorem bytes_modLom (s : State) (m : Nat) (f : LomBay → LomBay) (i b : Nat) : (s.modLom m f).bytes i b = s.bytes i b := (rfl)
@[simp] theorem elem_modLom (s : State) (m : Nat) (f : LomBay → LomBay) (i b e : Nat) : (s.modLom m f).elem i b e = s.elem i b e := (rfl)
@[simp] theorem c_modLom (s : State) (m : Nat) (f : LomBay → LomBay) (i b : Nat) : (s.modLom m f).c i b = s.c i b := (rfl)
@[simp] theorem cI_modLom (s : State) (m : Nat) (f : LomBay → LomBay) (i b : Nat) : (s.modLom m f).cI i b = s.cI i b := (rfl)
@[simp] theorem cB_modLom (s : State) (m : Nat) (f : LomBay → LomBay) (i b : Nat) : (s.modLom m f).cB i b = s.cB i b := (rfl)
@[simp] theorem cBytes_modLom (s : State) (m : Nat) (f : LomBay → LomBay) (i b : Nat) : (s.modLom m f).cBytes i b = s.cBytes i b := (rfl)
@[simp] theorem cElem_modLom (s : State) (m : Nat) (f : LomBay → LomBay) (i b e : Nat) : (s.modLom m f).cElem i b e = s.cElem i b e := (rfl)
@[simp] theorem cF32_modLom (s : State) (m : Nat) (f : LomBay → LomBay) (i b : Nat) : (s.modLom m f).cF32 i b = s.cF32 i b := (rfl)
@[simp] theorem et_modLom (s : State) (m : Nat) (f : LomBay → LomBay) : (s.modLom m f).et = s.et := (rfl)
@[simp] theorem raw_modLom (s : State) (m : Nat) (f : LomBay → LomBay) : (s.modLom m f).raw = s.raw := (rfl)
@[simp] theorem locked_modLom (s : State) (m : Nat) (f : LomBay → LomBay) : (s.modLom m f).locked = s.locked := (rfl)

@[simp] theorem value_modBo (s : State) (m : Nat) (f : BoRun → BoRun) (i b e : Nat) : (s.modBo m f).value i b e = s.value i b e := (rfl)
@[simp] theorem num_modBo (s : State) (m : Nat) (f : BoRun → BoRun) (i b : Nat) : (s.modBo m f).num i b = s.num i b := (rfl)
@[simp] theorem int_modBo (s : State) (m : Nat) (f : BoRun → BoRun) (i b : Nat) : (s.modBo m f).int i b = s.int i b := (rfl)
@[simp] theorem flag_modBo (s : State) (m : Nat) (f : BoRun → BoRun) (i b : Nat) : (s.modBo m f).flag i b = s.flag i b := (rfl)
@[simp] theorem bytes_modBo (s : State) (m : Nat) (f : BoRun → BoRun) (i b : Nat) : (s.modBo m f).bytes i b = s.bytes i b := (rfl)
@[simp] theorem elem_modBo (s : State) (m : Nat) (f : BoRun → BoRun) (i b e : Nat) : (s.modBo m f).elem i b e = s.elem i b e := (rfl)
@[simp] theorem c_modBo (s : State) (m : Nat) (f : BoRun → BoRun) (i b : Nat) : (s.modBo m f).c i b = s.c i b := (rfl)
@[simp] theorem cI_modBo (s : State) (m : Nat) (f : BoRun → BoRun) (i b : Nat) : (s.modBo m f).cI i b = s.cI i b := (rfl)
@[simp] theorem cB_modBo (s : State) (m : Nat) (f : BoRun → BoRun) (i b : Nat) : (s.modBo m f).cB i b = s.cB i b := (rfl)
@[simp] theorem cBytes_modBo (s : State) (m : Nat) (f : BoRun → BoRun) (i b : Nat) : (s.modBo m f).cBytes i b = s.cBytes i b := (rfl)
@[simp] theorem cElem_modBo (s : State) (m : Nat) (f : BoRun → BoRun) (i b e : Nat) : (s.modBo m f).cElem i b e = s.cElem i b e := (rfl)
@[simp] theorem cF32_modBo (s : State) (m : Nat) (f : BoRun → BoRun) (i b : Nat) : (s.modBo m f).cF32 i b = s.cF32 i b := (rfl)
@[simp] theorem et_modBo (s : State) (m : Nat) (f : BoRun → BoRun) : (s.modBo m f).et = s.et := (rfl)
@[simp] theorem raw_modBo (s : State) (m : Nat) (f : BoRun → BoRun) : (s.modBo m f).raw = s.raw := (rfl)
@[simp] theorem locked_modBo (s : State) (m : Nat) (f : BoRun → BoRun) : (s.modBo m f).locked = s.locked := (rfl)

@[simp] theorem value_modBi (s : State) (m : Nat) (f : BiRun → BiRun) (i b e : Nat) : (s.modBi m f).value i b e = s.value i b e := (rfl)
@[simp] theorem num_modBi (s : State) (m : Nat) (f : BiRun → BiRun) (i b : Nat) : (s.modBi m f).num i b = s.num i b := (rfl)
@[simp] theorem int_modBi (s : State) (m : Nat) (f : BiRun → BiRun) (i b : Nat) : (s.modBi m f).int i b = s.int i b := (rfl)
@[simp] theorem flag_modBi (s : State) (m : Nat) (f : BiRun → BiRun) (i b : Nat) : (s.modBi m f).flag i b = s.flag i b := (rfl)
@[simp] theorem bytes_modBi (s : State) (m : Nat) (f : BiRun → BiRun) (i b : Nat) : (s.modBi m f).bytes i b = s.bytes i b := (rfl)
@[simp] theorem elem_modBi (s : State) (m : Nat) (f : BiRun → BiRun) (i b e : Nat) : (s.modBi m f).elem i b e = s.elem i b e := (rfl)
@[simp] theorem c_modBi (s : State) (m : Nat) (f : BiRun → BiRun) (i b : Nat) : (s.modBi m f).c i b = s.c i b := (rfl)
@[simp] theorem cI_modBi (s : State) (m : Nat) (f : BiRun → BiRun) (i b : Nat) : (s.modBi m f).cI i b = s.cI i b := (rfl)
@[simp] theorem cB_modBi (s : State) (m : Nat) (f : BiRun → BiRun) (i b : Nat) : (s.modBi m f).cB i b = s.cB i b := (rfl)
@[simp] theorem cBytes_modBi (s : State) (m : Nat) (f : BiRun → BiRun) (i b : Nat) : (s.modBi m f).cBytes i b = s.cBytes i b := (rfl)
@[simp] theorem cElem_modBi (s : State) (m : Nat) (f : BiRun → BiRun) (i b e : Nat) : (s.modBi m f).cElem i b e = s.cElem i b e := (rfl)
@[simp] theorem cF32_modBi (s : State) (m : Nat) (f : BiRun → BiRun) (i b : Nat) : (s.modBi m f).cF32 i b = s.cF32 i b := (rfl)
@[simp] theorem et_modBi (s : State) (m : Nat) (f : BiRun → BiRun) : (s.modBi m f).et = s.et := (rfl)
@[simp] theorem raw_modBi (s : State) (m : Nat) (f : BiRun → BiRun) : (s.modBi m f).raw = s.raw := (rfl)
@[simp] theorem locked_modBi (s : State) (m : Nat) (f : BiRun → BiRun) : (s.modBi m f).locked = s.locked := (rfl)

@[simp] theorem value_modPmBay (s : State) (m : Nat) (f : PmBay → PmBay) (i b e : Nat) : (s.modPmBay m f).value i b e = s.value i b e := (rfl)
@[simp] theorem num_modPmBay (s : State) (m : Nat) (f : PmBay → PmBay) (i b : Nat) : (s.modPmBay m f).num i b = s.num i b := (rfl)
@[simp] theorem int_modPmBay (s : State) (m : Nat) (f : PmBay → PmBay) (i b : Nat) : (s.modPmBay m f).int i b = s.int i b := (rfl)
@[simp] theorem flag_modPmBay (s : State) (m : Nat) (f : PmBay → PmBay) (i b : Nat) : (s.modPmBay m f).flag i b = s.flag i b := (rfl)
@[simp] theorem bytes_modPmBay (s : State) (m : Nat) (f : PmBay → PmBay) (i b : Nat) : (s.modPmBay m f).bytes i b = s.bytes i b := (rfl)
@[simp] theorem elem_modPmBay (s : State) (m : Nat) (f : PmBay → PmBay) (i b e : Nat) : (s.modPmBay m f).elem i b e = s.elem i b e := (rfl)
@[simp] theorem c_modPmBay (s : State) (m : Nat) (f : PmBay → PmBay) (i b : Nat) : (s.modPmBay m f).c i b = s.c i b := (rfl)
@[simp] theorem cI_modPmBay (s : State) (m : Nat) (f : PmBay → PmBay) (i b : Nat) : (s.modPmBay m f).cI i b = s.cI i b := (rfl)
@[simp] theorem cB_modPmBay (s : State) (m : Nat) (f : PmBay → PmBay) (i b : Nat) : (s.modPmBay m f).cB i b = s.cB i b := (rfl)
@[simp] theorem cBytes_modPmBay (s : State) (m : Nat) (f : PmBay → PmBay) (i b : Nat) : (s.modPmBay m f).cBytes i b = s.cBytes i b := (rfl)
@[simp] theorem cElem_modPmBay (s : State) (m : Nat) (f : PmBay → PmBay) (i b e : Nat) : (s.modPmBay m f).cElem i b e = s.cElem i b e := (rfl)
@[simp] theorem cF32_modPmBay (s : State) (m : Nat) (f : PmBay → PmBay) (i b : Nat) : (s.modPmBay m f).cF32 i b = s.cF32 i b := (rfl)
@[simp] theorem et_modPmBay (s : State) (m : Nat) (f : PmBay → PmBay) : (s.modPmBay m f).et = s.et := (rfl)
@[simp] theorem raw_modPmBay (s : State) (m : Nat) (f : PmBay → PmBay) : (s.modPmBay m f).raw = s.raw := (rfl)
@[simp] theorem locked_modPmBay (s : State) (m : Nat) (f : PmBay → PmBay) : (s.modPmBay m f).locked = s.locked := (rfl)

@[simp] theorem value_emit (s : State) (o : Output) (i b e : Nat) : (s.emit o).value i b e = s.value i b e := (rfl)
@[simp] theorem num_emit (s : State) (o : Output) (i b : Nat) : (s.emit o).num i b = s.num i b := (rfl)
@[simp] theorem int_emit (s : State) (o : Output) (i b : Nat) : (s.emit o).int i b = s.int i b := (rfl)
@[simp] theorem flag_emit (s : State) (o : Output) (i b : Nat) : (s.emit o).flag i b = s.flag i b := (rfl)
@[simp] theorem bytes_emit (s : State) (o : Output) (i b : Nat) : (s.emit o).bytes i b = s.bytes i b := (rfl)
@[simp] theorem elem_emit (s : State) (o : Output) (i b e : Nat) : (s.emit o).elem i b e = s.elem i b e := (rfl)
@[simp] theorem c_emit (s : State) (o : Output) (i b : Nat) : (s.emit o).c i b = s.c i b := (rfl)
@[simp] theorem cI_emit (s : State) (o : Output) (i b : Nat) : (s.emit o).cI i b = s.cI i b := (rfl)
@[simp] theorem cB_emit (s : State) (o : Output) (i b : Nat) : (s.emit o).cB i b = s.cB i b := (rfl)
@[simp] theorem cBytes_emit (s : State) (o : Output) (i b : Nat) : (s.emit o).cBytes i b = s.cBytes i b := (rfl)
@[simp] theorem cElem_emit (s : State) (o : Output) (i b e : Nat) : (s.emit o).cElem i b e = s.cElem i b e := (rfl)
@[simp] theorem cF32_emit (s : State) (o : Output) (i b : Nat) : (s.emit o).cF32 i b = s.cF32 i b := (rfl)
@[simp] theorem et_emit (s : State) (o : Output) : (s.emit o).et = s.et := (rfl)
@[simp] theorem raw_emit (s : State) (o : Output) : (s.emit o).raw = s.raw := (rfl)
@[simp] theorem locked_emit (s : State) (o : Output) : (s.emit o).locked = s.locked := (rfl)

@[simp] theorem value_raiseEvent (s : State) (m k : Nat) (i b e : Nat) : (s.raiseEvent m k).value i b e = s.value i b e := (rfl)
@[simp] theorem num_raiseEvent (s : State) (m k : Nat) (i b : Nat) : (s.raiseEvent m k).num i b = s.num i b := (rfl)
@[simp] theorem int_raiseEvent (s : State) (m k : Nat) (i b : Nat) : (s.raiseEvent m k).int i b = s.int i b := (rfl)
@[simp] theorem flag_raiseEvent (s : State) (m k : Nat) (i b : Nat) : (s.raiseEvent m k).flag i b = s.flag i b := (rfl)
@[simp] theorem bytes_raiseEvent (s : State) (m k : Nat) (i b : Nat) : (s.raiseEvent m k).bytes i b = s.bytes i b := (rfl)
@[simp] theorem elem_raiseEvent (s : State) (m k : Nat) (i b e : Nat) : (s.raiseEvent m k).elem i b e = s.elem i b e := (rfl)
@[simp] theorem c_raiseEvent (s : State) (m k : Nat) (i b : Nat) : (s.raiseEvent m k).c i b = s.c i b := (rfl)
@[simp] theorem cI_raiseEvent (s : State) (m k : Nat) (i b : Nat) : (s.raiseEvent m k).cI i b = s.cI i b := (rfl)
@[simp] theorem cB_raiseEvent (s : State) (m k : Nat) (i b : Nat) : (s.raiseEvent m k).cB i b = s.cB i b := (rfl)
@[simp] theorem cBytes_raiseEvent (s : State) (m k : Nat) (i b : Nat) : (s.raiseEvent m k).cBytes i b = s.cBytes i b := (rfl)
@[simp] theorem cElem_raiseEvent (s : State) (m k : Nat) (i b e : Nat) : (s.raiseEvent m k).cElem i b e = s.cElem i b e := (rfl)
@[simp] theorem cF32_raiseEvent (s : State) (m k : Nat) (i b : Nat) : (s.raiseEvent m k).cF32 i b = s.cF32 i b := (rfl)
@[simp] theorem et_raiseEvent (s : State) (m k : Nat) : (s.raiseEvent m k).et = s.et := (rfl)
@[simp] theorem raw_raiseEvent (s : State) (m k : Nat) : (s.raiseEvent m k).raw = s.raw := (rfl)
@[simp] theorem locked_raiseEvent (s : State) (m k : Nat) : (s.raiseEvent m k).locked = s.locked := (rfl)

@[simp] theorem c_set (s : State) (x y z : Nat) (v : Value) (i b : Nat) : (s.set x y z v).c i b = s.c i b := (rfl)
@[simp] theorem cI_set (s : State) (x y z : Nat) (v : Value) (i b : Nat) : (s.set x y z v).cI i b = s.cI i b := (rfl)
@[simp] theorem cB_set (s : State) (x y z : Nat) (v : Value) (i b : Nat) : (s.set x y z v).cB i b = s.cB i b := (rfl)
@[simp] theorem cBytes_set (s : State) (x y z : Nat) (v : Value) (i b : Nat) : (s.set x y z v).cBytes i b = s.cBytes i b := (rfl)
@[simp] theorem cElem_set (s : State) (x y z : Nat) (v : Value) (i b e : Nat) : (s.set x y z v).cElem i b e = s.cElem i b e := (rfl)
@[simp] theorem cF32_set (s : State) (x y z : Nat) (v : Value) (i b : Nat) : (s.set x y z v).cF32 i b = s.cF32 i b := (rfl)
@[simp] theorem et_set (s : State) (x y z : Nat) (v : Value) : (s.set x y z v).et = s.et := (rfl)
@[simp] theorem raw_set (s : State) (x y z : Nat) (v : Value) : (s.set x y z v).raw = s.raw := (rfl)

/-! The writes of one register are all `set`. -/

@[simp] theorem setI_eq (s : State) (i b : Nat) (v : Int) : s.setI i b v = s.set i b 0 (.int v) := (rfl)
@[simp] theorem setN_eq (s : State) (i b v : Nat) : s.setN i b v = s.set i b 0 (.int v) := (rfl)
@[simp] theorem setB_eq (s : State) (i b : Nat) (v : Bool) : s.setB i b v = s.set i b 0 (vBool v) := (rfl)
@[simp] theorem setBytes_eq (s : State) (i b : Nat) (v : List Byte) : s.setBytes i b v = s.set i b 0 (.bytes v) := (rfl)
@[simp] theorem setElem_eq (s : State) (i b e : Nat) (v : List Byte) : s.setElem i b e v = s.set i b e (.bytes v) := (rfl)
@[simp] theorem setF32_eq (s : State) (i b : Nat) (v : F32) : s.setF32 i b v = s.set i b 0 (.int v.nat) := (rfl)
@[simp] theorem setF64_eq (s : State) (i b : Nat) (v : F64) : s.setF64 i b v = s.set i b 0 (.int v.nat) := (rfl)
@[simp] theorem add_eq (s : State) (w i b n : Nat) : s.add w i b n = s.set i b 0 (.int (countUp w (s.num i b) n)) := (rfl)
@[simp] theorem inc32_eq (s : State) (i b : Nat) : s.inc32 i b = s.set i b 0 (.int (countUp 32 (s.num i b) 1)) := (rfl)
@[simp] theorem inc64_eq (s : State) (i b : Nat) : s.inc64 i b = s.set i b 0 (.int (countUp 64 (s.num i b) 1)) := (rfl)
@[simp] theorem incWrap_eq (s : State) (w i b : Nat) : s.incWrap w i b = s.set i b 0 (.int ((s.num i b + 1) % 2 ^ w : Nat)) := (rfl)
@[simp] theorem setMax_eq (s : State) (i b v : Nat) : s.setMax i b v = s.set i b 0 (.int (max (s.num i b) v : Nat)) := (rfl)

/-! Reads depend on their store alone. -/

theorem value_congr {s t : State} (h : s.obj = t.obj) (i b e : Nat) : s.value i b e = t.value i b e := by unfold value; rw [h]
theorem num_congr {s t : State} (h : s.obj = t.obj) (i b : Nat) : s.num i b = t.num i b := by unfold num int value; rw [h]
theorem c_congr {s t : State} (h : s.cfg = t.cfg) (i b : Nat) : s.c i b = t.c i b := by unfold c cI cValue; rw [h]
theorem et_congr {s t : State} (h : s.eph = t.eph) : s.et = t.et := by unfold et etAt; rw [h]

end Sys2Proof.Machine.State
end

