-- ==== Sys2Proof/Laws/Store.lean ====
section
/-! SUPPORT. The laws of the two sparse maps: a read after a write, a read beside it, and that every write keeps the canonical form. -/

namespace Sys2Proof.Machine

/-! ## Store -/

theorem Store.find_erase (st : Store) (k j : Nat) : Store.find (Store.erase st k) j = if j = k then none else Store.find st j := by
  induction st with
  | nil => simp [Store.erase, Store.find]
  | cons e rest ih =>
    obtain ⟨a, v⟩ := e
    by_cases h : k = a
    · subst h
      simp only [Store.erase, if_true, ih, Store.find]
      split <;> rfl
    · simp only [Store.erase, if_neg h, Store.find, ih]
      by_cases h2 : j = a
      · subst h2; simp [Ne.symm h]
      · simp [h2]

theorem Store.find_put (st : Store) (k j : Nat) (v : Value) :
    Store.find (Store.put st k v) j = if j = k then some v else Store.find st j := by
  induction st with
  | nil => simp only [Store.put, Store.find]
  | cons e rest ih =>
    obtain ⟨a, w⟩ := e
    unfold Store.put
    split
    · simp only [Store.find]
    · split
      · rename_i h1 h2
        subst h2
        simp only [Store.find]
        split <;> rfl
      · rename_i h1 h2
        simp only [Store.find, ih]
        by_cases h : j = a
        · subst h; simp [Ne.symm h2]
        · simp [h]

/-- A read after a write gives the value written. -/
@[simp] theorem Store.get_set (st : Store) (k : Nat) (v : Value) : Store.get (Store.set st k v) k = v := by
  unfold Store.set Store.get
  split
  · rename_i h; simp [Store.find_erase, h]
  · simp [Store.find_put]

/-- A write leaves every other key alone. -/
theorem Store.get_set_ne (st : Store) {k j : Nat} (v : Value) (h : j ≠ k) :
    Store.get (Store.set st k v) j = Store.get st j := by
  unfold Store.set Store.get
  split <;> simp [Store.find_erase, Store.find_put, h]

theorem Store.get_set_ite (st : Store) (k j : Nat) (v : Value) :
    Store.get (Store.set st k v) j = if j = k then v else Store.get st j := by
  split
  · rename_i h; subst h; simp
  · rename_i h; exact Store.get_set_ne st v h

theorem Store.all_erase (p : Nat × Value → Bool) (st : Store) (k : Nat) (h : st.all p) : (Store.erase st k).all p := by
  induction st with
  | nil => simp [Store.erase]
  | cons e rest ih =>
    obtain ⟨a, w⟩ := e
    simp only [List.all_cons, Bool.and_eq_true] at h
    unfold Store.erase
    split
    · exact ih h.2
    · simp [h.1, ih h.2]

theorem Store.all_put (p : Nat × Value → Bool) (st : Store) (k : Nat) (v : Value) (h : st.all p) (hk : p (k, v)) :
    (Store.put st k v).all p := by
  induction st with
  | nil => simp [Store.put, hk]
  | cons e rest ih =>
    obtain ⟨a, w⟩ := e
    simp only [List.all_cons, Bool.and_eq_true] at h
    unfold Store.put
    split
    · simp [hk, h.1, h.2]
    · split
      · simp [hk, h.2]
      · simp [h.1, ih h.2]

theorem Store.wf_erase (st : Store) (k : Nat) (h : Store.wf st) : Store.wf (Store.erase st k) := by
  induction st with
  | nil => rfl
  | cons e rest ih =>
    obtain ⟨a, w⟩ := e
    simp only [Store.wf, Bool.and_eq_true] at h
    unfold Store.erase
    split
    · exact ih h.2
    · simp only [Store.wf, Bool.and_eq_true]
      exact ⟨⟨h.1.1, Store.all_erase _ rest k h.1.2⟩, ih h.2⟩

theorem Store.wf_put (st : Store) (k : Nat) (v : Value) (hv : v ≠ keyDefault k) (h : Store.wf st) : Store.wf (Store.put st k v) := by
  induction st with
  | nil => simp [Store.put, Store.wf, hv]
  | cons e rest ih =>
    obtain ⟨a, w⟩ := e
    have h' := h
    simp only [Store.wf, Bool.and_eq_true, decide_eq_true_eq] at h
    unfold Store.put
    split
    · rename_i hlt
      unfold Store.wf
      simp only [Bool.and_eq_true, decide_eq_true_eq, List.all_cons]
      refine ⟨⟨hv, hlt, ?_⟩, h'⟩
      rw [List.all_eq_true]
      intro x hx
      have := List.all_eq_true.mp h.1.2 x hx
      simp only [decide_eq_true_eq] at this ⊢
      omega
    · split
      · rename_i _ heq
        subst heq
        simp only [Store.wf, Bool.and_eq_true, decide_eq_true_eq]
        exact ⟨⟨hv, h.1.2⟩, h.2⟩
      · rename_i h1 h2
        simp only [Store.wf, Bool.and_eq_true, decide_eq_true_eq]
        exact ⟨⟨h.1.1, Store.all_put _ rest k v h.1.2 (by simp only [decide_eq_true_eq]; omega)⟩, ih h.2⟩

/-- Every write of a store keeps its canonical form. -/
theorem Store.wf_set (st : Store) (k : Nat) (v : Value) (h : Store.wf st) : Store.wf (Store.set st k v) := by
  unfold Store.set
  split
  · exact Store.wf_erase st k h
  · rename_i hv; exact Store.wf_put st k v hv h

/-! ## Memory -/

theorem Memory.read_erase (m : Memory) (a x : Nat) : Memory.read (Memory.erase m a) x = if x = a then 0 else Memory.read m x := by
  induction m with
  | nil => simp [Memory.erase, Memory.read]
  | cons e rest ih =>
    obtain ⟨b, v⟩ := e
    by_cases h : a = b
    · subst h
      simp only [Memory.erase, if_true, ih, Memory.read]
      split <;> rfl
    · simp only [Memory.erase, if_neg h, Memory.read, ih]
      by_cases h2 : x = b
      · subst h2; simp [Ne.symm h]
      · simp [h2]

theorem Memory.read_put (m : Memory) (a x : Nat) (v : Byte) :
    Memory.read (Memory.put m a v) x = if x = a then v else Memory.read m x := by
  induction m with
  | nil => simp only [Memory.put, Memory.read]
  | cons e rest ih =>
    obtain ⟨b, w⟩ := e
    unfold Memory.put
    split
    · simp only [Memory.read]
    · split
      · rename_i h1 h2
        subst h2
        simp only [Memory.read]
        split <;> rfl
      · rename_i h1 h2
        simp only [Memory.read, ih]
        by_cases h : x = b
        · subst h; simp [Ne.symm h2]
        · simp [h]

/-- A read after a write: the byte written at its address, and what was there at any other. -/
theorem Memory.read_write (m : Memory) (a x : Nat) (v : Byte) :
    Memory.read (Memory.write m a v) x = if x = a then v else Memory.read m x := by
  unfold Memory.write
  split
  · rename_i h; subst h; rw [Memory.read_erase]
  · exact Memory.read_put m a x v

theorem Memory.all_erase (p : Host.Cell → Bool) (m : Memory) (a : Nat) (h : m.all p) : (Memory.erase m a).all p := by
  induction m with
  | nil => simp [Memory.erase]
  | cons e rest ih =>
    obtain ⟨b, w⟩ := e
    simp only [List.all_cons, Bool.and_eq_true] at h
    unfold Memory.erase
    split
    · exact ih h.2
    · simp [h.1, ih h.2]

theorem Memory.all_put (p : Host.Cell → Bool) (m : Memory) (a : Nat) (v : Byte) (h : m.all p) (hk : p (a, v)) :
    (Memory.put m a v).all p := by
  induction m with
  | nil => simp [Memory.put, hk]
  | cons e rest ih =>
    obtain ⟨b, w⟩ := e
    simp only [List.all_cons, Bool.and_eq_true] at h
    unfold Memory.put
    split
    · simp [hk, h.1, h.2]
    · split
      · simp [hk, h.2]
      · simp [h.1, ih h.2]

theorem Memory.wf_erase (m : Memory) (a : Nat) (h : Memory.wf m) : Memory.wf (Memory.erase m a) := by
  induction m with
  | nil => rfl
  | cons e rest ih =>
    obtain ⟨b, w⟩ := e
    simp only [Memory.wf, Bool.and_eq_true] at h
    unfold Memory.erase
    split
    · exact ih h.2
    · simp only [Memory.wf, Bool.and_eq_true]
      exact ⟨⟨h.1.1, Memory.all_erase _ rest a h.1.2⟩, ih h.2⟩

theorem Memory.wf_put (m : Memory) (a : Nat) (v : Byte) (hv : v ≠ 0) (h : Memory.wf m) : Memory.wf (Memory.put m a v) := by
  induction m with
  | nil => simp only [Memory.put, Memory.wf, List.all_nil, Bool.and_true, decide_eq_true_eq]; exact hv
  | cons e rest ih =>
    obtain ⟨b, w⟩ := e
    have h' := h
    simp only [Memory.wf, Bool.and_eq_true, decide_eq_true_eq] at h
    unfold Memory.put
    split
    · rename_i hlt
      unfold Memory.wf
      simp only [Bool.and_eq_true, decide_eq_true_eq, List.all_cons]
      refine ⟨⟨hv, hlt, ?_⟩, h'⟩
      rw [List.all_eq_true]
      intro x hx
      have := List.all_eq_true.mp h.1.2 x hx
      simp only [decide_eq_true_eq] at this ⊢
      omega
    · split
      · rename_i _ heq
        subst heq
        simp only [Memory.wf, Bool.and_eq_true, decide_eq_true_eq]
        exact ⟨⟨hv, h.1.2⟩, h.2⟩
      · rename_i h1 h2
        simp only [Memory.wf, Bool.and_eq_true, decide_eq_true_eq]
        exact ⟨⟨h.1.1, Memory.all_put _ rest a v h.1.2 (by simp only [decide_eq_true_eq]; omega)⟩, ih h.2⟩

/-- Every write of memory keeps its canonical form. -/
theorem Memory.wf_write (m : Memory) (a : Nat) (v : Byte) (h : Memory.wf m) : Memory.wf (Memory.write m a v) := by
  unfold Memory.write
  split
  · exact Memory.wf_erase m a h
  · rename_i hv; exact Memory.wf_put m a v hv h

theorem Memory.wf_writeBytes (l : List Byte) (m : Memory) (a : Nat) (h : Memory.wf m) : Memory.wf (Memory.writeBytes m a l) := by
  induction l generalizing m a with
  | nil => exact h
  | cons b rest ih => exact ih _ _ (Memory.wf_write m a b h)

/-- Bytes written are read back in place, and every other address reads as before. -/
theorem Memory.read_writeBytes (l : List Byte) (m : Memory) (a x : Nat) :
    Memory.read (Memory.writeBytes m a l) x =
      if a ≤ x ∧ x < a + l.length then l.getD (x - a) 0 else Memory.read m x := by
  induction l generalizing m a with
  | nil => simp only [Memory.writeBytes, List.length_nil, Nat.add_zero]; rw [if_neg (by omega)]
  | cons b rest ih =>
    simp only [Memory.writeBytes, ih, Memory.read_write, List.length_cons]
    by_cases h1 : x = a
    · subst h1; simp
    · by_cases h2 : a + 1 ≤ x ∧ x < a + 1 + rest.length
      · rw [if_pos h2, if_pos (by omega)]
        obtain ⟨d, hd⟩ : ∃ d, x - a = d + 1 := ⟨x - a - 1, by omega⟩
        rw [hd, show x - (a + 1) = d by omega]
        simp
      · rw [if_neg h2, if_neg h1, if_neg (by omega)]

end Sys2Proof.Machine
end

