-- ==== Sys2Proof/Laws/Frame.lean ====
section
/-! SUPPORT. Registers read after writes of registers, and the laws of `Frame` and `Raised`: what they say of one update, and how they
compose. -/

namespace Sys2Proof.Machine

/-! ## Registers -/

theorem okey_inj {i b e i' b' e' : Nat} (hb : b < 256) (he : e < 65536) (hb' : b' < 256) (he' : e' < 65536)
    (h : okey i b e = okey i' b' e') : i = i' ∧ b = b' ∧ e = e' := by
  unfold okey at h; omega

theorem okey_ne {i b e i' b' e' : Nat} (hb : b < 256) (he : e < 65536) (hb' : b' < 256) (he' : e' < 65536)
    (h : ¬ (i = i' ∧ b = b' ∧ e = e')) : okey i b e ≠ okey i' b' e' := fun hk => h (okey_inj hb he hb' he' hk)

@[simp] theorem toInt_int (v : Int) : (Value.int v).toInt = v := rfl

@[simp] theorem toBytes_bytes (b : List Byte) : (Value.bytes b).toBytes = b := rfl

@[simp] theorem State.value_set (s : State) (i b e : Nat) (v : Value) : (s.set i b e v).value i b e = v := by
  simp [State.value, State.set]

/-- A register keeps its value under a write of another one. -/
theorem State.value_set_ne (s : State) {i b e i' b' e' : Nat} (v : Value) (hb : b < 256) (he : e < 65536) (hb' : b' < 256)
    (he' : e' < 65536) (h : ¬ (i' = i ∧ b' = b ∧ e' = e)) : (s.set i b e v).value i' b' e' = s.value i' b' e' := by
  unfold State.value State.set
  exact Store.get_set_ne _ _ (okey_ne hb' he' hb he h)

/-- A register after a write of some register. -/
theorem State.value_set_ite (s : State) {i b e i' b' e' : Nat} (v : Value) (hb : b < 256) (he : e < 65536) (hb' : b' < 256)
    (he' : e' < 65536) : (s.set i b e v).value i' b' e' = if i' = i ∧ b' = b ∧ e' = e then v else s.value i' b' e' := by
  split
  · rename_i h; rw [h.1, h.2.1, h.2.2]; simp
  · rename_i h; exact State.value_set_ne s v hb he hb' he' h

theorem State.num_set_ne (s : State) {i b e i' b' : Nat} (v : Value) (hb : b < 256) (he : e < 65536) (hb' : b' < 256)
    (h : ¬ (i' = i ∧ b' = b ∧ 0 = e)) : (s.set i b e v).num i' b' = s.num i' b' := by
  unfold State.num State.int
  rw [State.value_set_ne s v hb he hb' (by omega) h]

theorem State.bytes_set_ne (s : State) {i b e i' b' : Nat} (v : Value) (hb : b < 256) (he : e < 65536) (hb' : b' < 256)
    (h : ¬ (i' = i ∧ b' = b ∧ 0 = e)) : (s.set i b e v).bytes i' b' = s.bytes i' b' := by
  unfold State.bytes
  rw [State.value_set_ne s v hb he hb' (by omega) h]

@[simp] theorem State.num_set (s : State) (i b : Nat) (n : Nat) : (s.set i b 0 (.int n)).num i b = n := by
  simp [State.num, State.int]

@[simp] theorem State.int_set (s : State) (i b : Nat) (n : Int) : (s.set i b 0 (.int n)).int i b = n := by
  simp [State.int]

@[simp] theorem State.bytes_set (s : State) (i b : Nat) (l : List Byte) : (s.set i b 0 (.bytes l)).bytes i b = l := by
  simp [State.bytes]

@[simp] theorem State.elem_set (s : State) (i b e : Nat) (l : List Byte) : (s.set i b e (.bytes l)).elem i b e = l := by
  simp [State.elem]

/-! ## Parts -/

theorem OnlyNotified.of_eq {a b : Alm} (h : b.hspiTx = a.hspiTx) (k : b.udpTx = a.udpTx) : OnlyNotified a b :=
  ⟨⟨[], by simp [h], rfl⟩, ⟨[], by simp [k], rfl⟩⟩

@[simp] theorem OnlyNotified.refl (a : Alm) : OnlyNotified a a := OnlyNotified.of_eq rfl rfl

theorem OnlyNotified.trans {a b c : Alm} (h : OnlyNotified a b) (k : OnlyNotified b c) : OnlyNotified a c := by
  obtain ⟨⟨l, hl, hn⟩, ⟨m, hm, hv⟩⟩ := h; obtain ⟨⟨l', hl', hn'⟩, ⟨m', hm', hv'⟩⟩ := k
  refine ⟨⟨l ++ l', by rw [hl', hl, List.append_assoc], ?_⟩, ⟨m ++ m', by rw [hm', hm, List.append_assoc], ?_⟩⟩
  · rw [List.all_append, hn, hn']; rfl
  · rw [List.all_append, hv, hv']; rfl

theorem Part.same_refl (p : Part) (s : State) : p.same s s := by
  cases p <;> simp [Part.same]

theorem Part.same_trans {p : Part} {s t u : State} (h : p.same s t) (k : p.same t u) : p.same s u := by
  cases p
  case alm => exact ⟨k.1.trans h.1, h.2.trans k.2⟩
  all_goals exact k.trans h

/-- A part is the same when the state's own component is. -/
theorem Part.same_of_eq {s t : State} (p : Part)
    (h : t.cfg = s.cfg ∧ t.staged = s.staged ∧ t.wire = s.wire ∧ t.dram = s.dram ∧ t.alm = s.alm ∧ t.ev = s.ev ∧ t.eph = s.eph ∧
      t.ptp = s.ptp ∧ t.flash = s.flash ∧ t.keys = s.keys ∧ t.boot = s.boot ∧ t.loc = s.loc ∧ t.ing = s.ing ∧ t.tr = s.tr ∧
      t.spec = s.spec ∧ t.hor = s.hor ∧ t.lom = s.lom ∧ t.alr = s.alr ∧ t.egr = s.egr ∧ t.orr = s.orr ∧ t.bos = s.bos ∧
      t.bis = s.bis ∧ t.par = s.par ∧ t.wit = s.wit ∧ t.pm = s.pm ∧ t.rec_ = s.rec_ ∧ t.eng = s.eng ∧ t.fab = s.fab) : p.same s t := by
  obtain ⟨h1, h2, h3, h4, h5, h6, h7, h8, h9, h10, h11, h12, h13, h14, h15, h16, h17, h18, h19, h20, h21, h22, h23, h24, h25, h26,
    h27, h28⟩ := h
  cases p <;> simp [Part.same, *]

/-! ## Frames -/

theorem Frame.refl (s : State) : Frame [] [] s s := ⟨fun p _ => p.same_refl s, fun _ _ _ _ _ _ _ => rfl, rfl⟩

theorem Frame.mono {P Q : List Part} {R U : List (Nat × Nat)} {s t : State} (h : Frame P R s t) (hp : ∀ p ∈ P, p ∈ Q)
    (hr : ∀ r ∈ R, r ∈ U) : Frame Q U s t :=
  ⟨fun p k => h.parts p (fun m => k (hp p m)), fun i b e hb he k => h.regs i b e hb he (fun m => k (hr _ m)), h.pending⟩

theorem Frame.trans {P Q : List Part} {R U : List (Nat × Nat)} {s t u : State} (h : Frame P R s t) (k : Frame Q U t u) :
    Frame (P ++ Q) (R ++ U) s u :=
  ⟨fun p m => Part.same_trans (h.parts p (fun x => m (List.mem_append_left _ x))) (k.parts p (fun x => m (List.mem_append_right _ x))),
   fun i b e hb he m n => (k.regs i b e hb he (fun x => m (List.mem_append_right _ x)) n).trans
     (h.regs i b e hb he (fun x => m (List.mem_append_left _ x)) n),
   k.pending.trans h.pending⟩

/-- Two changes that the end of a command may make, one after the other. -/
theorem Frame.then {s t u : State} (h : Frame [] [] s t) (k : Frame [] [] t u) : Frame [] [] s u := by
  simpa using h.trans k

theorem Frame.ite {P : List Part} {R : List (Nat × Nat)} {s a b : State} {q : Prop} [Decidable q] (h : Frame P R s a)
    (k : Frame P R s b) : Frame P R s (if q then a else b) := by
  split
  · exact h
  · exact k

/-- A write of one register. -/
theorem Frame.set (s : State) (i b e : Nat) (v : Value) (hb : b < 256) (he : e < 65536) : Frame [] [(i, b)] s (s.set i b e v) := by
  refine ⟨fun p _ => p.same_of_eq (by simp), fun i' b' e' hb' he' hm _ => ?_, rfl⟩
  refine State.value_set_ne s v hb he hb' he' (fun h => hm ?_)
  simp [h.1, h.2.1]

/-- A write of a register that the end of any command may change. -/
theorem Frame.setEnd (s : State) (i b e : Nat) (v : Value) (hb : b < 256) (he : e < 65536) (h : endRegister i b = true) :
    Frame [] [] s (s.set i b e v) := by
  refine ⟨fun p _ => p.same_of_eq (by simp), fun i' b' e' hb' he' _ hn => ?_, rfl⟩
  refine State.value_set_ne s v hb he hb' he' (fun k => ?_)
  rw [k.1, k.2.1, h] at hn; cases hn

/-- A change in the event controller's own bookkeeping. -/
theorem Frame.modEv (s : State) (f : Events → Events) (h : (f s.ev).core = s.ev.core) : Frame [] [] s (s.modEv f) := by
  refine ⟨fun p _ => ?_, fun _ _ _ _ _ _ _ => rfl, rfl⟩
  cases p
  case ev => exact h
  all_goals simp [Part.same]

/-- A change of the Almanac server that only adds notifications. -/
theorem Frame.modAlm (s : State) (f : Alm → Alm) (h : (f s.alm).core = s.alm.core)
    (k : OnlyNotified s.alm (f s.alm)) : Frame [] [] s (s.modAlm f) := by
  refine ⟨fun p _ => ?_, fun _ _ _ _ _ _ _ => rfl, rfl⟩
  cases p
  case alm => exact ⟨h, k⟩
  all_goals simp [Part.same]

/-- A change of the Ephemeris that only moves pins. -/
theorem Frame.modEph (s : State) (f : Eph → Eph) (h : (f s.eph).core = s.eph.core) : Frame [] [] s (s.modEph f) := by
  refine ⟨fun p _ => ?_, fun _ _ _ _ _ _ _ => rfl, rfl⟩
  cases p
  case eph => exact h
  all_goals simp [Part.same]

/-- What sending a PDU does: it joins those that wait, over its transport. -/
theorem State.sendPdu_eq (s : State) (w : Transport) (k : Option (List Byte)) (p : Pdu) :
    s.sendPdu w k p = s.modAlm (fun a => a.withPdu w k p) := by
  cases w <;> rfl

/-- What a fold of such changes leaves. -/
theorem Frame.foldl {α : Type} (f : State → α → State) (hf : ∀ s x, Frame [] [] s (f s x)) (l : List α) (s : State) :
    Frame [] [] s (l.foldl f s) := by
  induction l generalizing s with
  | nil => exact Frame.refl s
  | cons x rest ih => exact (hf s x).then (ih (f s x))

/-! ## One more update: a listed register, a register of the end of a command, or a listed part -/

variable {P : List Part} {R : List (Nat × Nat)} {s u : State}

theorem Frame.start : Frame P R s s := (Frame.refl s).mono (by simp) (by simp)

theorem Frame.andEnd {t : State} (h : Frame P R s u) (k : Frame [] [] u t) : Frame P R s t := by
  simpa using h.trans k

theorem Frame.andSet (h : Frame P R s u) (i b e : Nat) (v : Value) (hb : b < 256) (he : e < 65536)
    (m : (i, b) ∈ R ∨ endRegister i b = true) : Frame P R s (u.set i b e v) := by
  rcases m with m | m
  · exact (h.trans (Frame.set u i b e v hb he)).mono (by simp)
      (fun r k => (List.mem_append.mp k).elim id (fun k => by rw [List.mem_singleton.mp k]; exact m))
  · exact h.andEnd (Frame.setEnd u i b e v hb he m)

theorem Frame.andPart (p : Part) {t : State} (h : Frame P R s u) (m : p ∈ P) (hq : ∀ q : Part, q ≠ p → q.same u t)
    (ho : t.obj = u.obj) (hp : t.pending = u.pending) : Frame P R s t := by
  refine ⟨fun q k => Part.same_trans (h.parts q k) (hq q (fun e => k (e ▸ m))), fun i b e hb he k n => ?_, hp.trans h.pending⟩
  rw [← h.regs i b e hb he k n]
  exact State.value_congr ho i b e

end Sys2Proof.Machine
end

