-- ==== Sys2Proof/Laws/Settle.lean ====
section
/-! SUPPORT. The end of every command: what `settle` may change, that the outputs agree after it, and that it hands on every raise. -/

namespace Sys2Proof.Machine

/-! ## Notifications -/

theorem Frame.modSession (s : State) (id : Nat) (f : Session → Session)
    (h : ∀ x, ({ f x with notifySeq := 0, loss := false } : Session) = { x with notifySeq := 0, loss := false }) :
    Frame [] [] s (s.modSession id f) := by
  refine Frame.modAlm s _ ?_ (OnlyNotified.of_eq rfl rfl)
  simp only [Alm.core, List.map_map]
  congr 1
  apply List.map_congr_left
  intro x _
  simp only [Function.comp]
  split
  · exact h x
  · rfl

theorem Frame.modSub (s : State) (id : Nat) (f : Subscription → Subscription)
    (h : ∀ x, ({ f x with lastSent := none, waiting := false } : Subscription) = { x with lastSent := none, waiting := false }) :
    Frame [] [] s (s.modSub id f) := by
  refine Frame.modAlm s _ ?_ (OnlyNotified.of_eq rfl rfl)
  simp only [Alm.core, List.map_map]
  congr 1
  apply List.map_congr_left
  intro x _
  simp only [Function.comp]
  split
  · exact h x
  · rfl

theorem Frame.sendNotify (s : State) (t : Transport) (k : Option (List Byte)) (p : Pdu) (h : p.opcode = 0x09) :
    Frame [] [] s (s.sendPdu t k p) := by
  rw [State.sendPdu_eq]
  refine Frame.modAlm s _ (by cases t <;> rfl) ?_
  cases t
  · exact ⟨⟨[(p, k)], rfl, by simp [h]⟩, ⟨[], by simp [Alm.withPdu], rfl⟩⟩
  · exact ⟨⟨[], by simp [Alm.withPdu], rfl⟩, ⟨[(_, p, k)], rfl, by simp [h]⟩⟩

theorem Frame.notify (s : State) (sb : Subscription) : Frame [] [] s (s.notify sb) := by
  unfold State.notify
  split
  · exact Frame.refl s
  · split
    · exact Frame.modSession s _ _ (fun _ => rfl)
    · split
      · exact Frame.refl s
      · dsimp only
        refine Frame.then ?_ (Frame.sendNotify _ _ _ _ rfl)
        exact Frame.modSession s _ _ (fun _ => rfl)

theorem Frame.notifyNow (s : State) (sb : Subscription) : Frame [] [] s (s.notifyNow sb) := by
  have sent := (Frame.notify s sb).then (Frame.modSub (s.notify sb) sb.id
    (fun x => { x with lastSent := some s.raw, waiting := false }) (fun _ => rfl))
  have kept := Frame.modSub s sb.id (fun x => { x with waiting := true }) (fun _ => rfl)
  unfold State.notifyNow
  split <;> dsimp only <;> split <;> assumption

theorem Frame.notifyChange (old s : State) (sb : Subscription) : Frame [] [] s (State.notifyChange old s sb) := by
  unfold State.notifyChange
  split
  · exact Frame.notifyNow s sb
  · exact Frame.refl s

theorem Frame.notifyEvents (before s : State) : Frame [] [] s (State.notifyEvents before s) := by
  unfold State.notifyEvents
  split
  · exact Frame.refl s
  · refine Frame.foldl _ (fun u sb => ?_) _ s
    split
    · exact Frame.notifyNow u sb
    · exact Frame.refl u

/-! ## Raises -/

theorem Frame.ev {s t : State} (f : Events → Events) (h : Frame [] [] s t) (k : ∀ e, (f e).core = e.core) : Frame [] [] s (t.modEv f) :=
  h.then (Frame.modEv t f (k t.ev))

/-- What handing a raise to the Logbook and to EVENT_NOTIFY leaves alone: the raises, the time of the last LOG_DROPPED, the time base
and COUNTS. -/
structure Calm (s t : State) : Prop where
  raised : t.ev.raised = s.ev.raised
  dropped : t.ev.lastDropped = s.ev.lastDropped
  time : t.eph = s.eph
  counts : ∀ n, n < 128 → t.elem 0xA801 0x02 n = s.elem 0xA801 0x02 n

theorem Calm.refl (s : State) : Calm s s := ⟨rfl, rfl, rfl, fun _ _ => rfl⟩

theorem Calm.then {s t u : State} (h : Calm s t) (k : Calm t u) : Calm s u :=
  ⟨k.raised.trans h.raised, k.dropped.trans h.dropped, k.time.trans h.time, fun n hn => (k.counts n hn).trans (h.counts n hn)⟩

theorem Calm.ite {s a b : State} {q : Prop} [Decidable q] (h : Calm s a) (k : Calm s b) : Calm s (if q then a else b) := by
  split
  · exact h
  · exact k

/-- A write of a register other than COUNTS. -/
theorem Calm.set (s : State) (i b e : Nat) (v : Value) (hb : b < 256) (he : e < 65536) (h : i ≠ 0xA801) : Calm s (s.set i b e v) := by
  refine ⟨rfl, rfl, rfl, fun n hn => ?_⟩
  unfold State.elem
  rw [State.value_set_ne s v hb he (by omega) (by omega) (fun k => h k.1.symm)]

theorem Calm.modEv (s : State) (f : Events → Events) (h : (f s.ev).raised = s.ev.raised) (k : (f s.ev).lastDropped = s.ev.lastDropped) :
    Calm s (s.modEv f) := ⟨h, k, rfl, fun _ _ => rfl⟩

theorem Calm.foldl {α : Type} (f : State → α → State) (hf : ∀ s x, Calm s (f s x)) (l : List α) (s : State) :
    Calm s (l.foldl f s) := by
  induction l generalizing s with
  | nil => exact Calm.refl s
  | cons x rest ih => exact (hf s x).then (ih (f s x))

theorem Calm.modAlm (s : State) (f : Alm → Alm) : Calm s (s.modAlm f) := ⟨rfl, rfl, rfl, fun _ _ => rfl⟩

theorem Frame.mirror (s : State) (r : LogRecord) : Frame [] [] s (s.mirror r).1 := by
  unfold State.mirror
  split
  · exact Frame.refl s
  · split
    · exact Frame.modEv s (fun e => { e with flashQueue := _ }) rfl
    · rw [State.inc32_eq]; exact Frame.setEnd s _ _ _ _ (by omega) (by omega) (by decide)

theorem Frame.placeRecord (s : State) (r : LogRecord) (g : Option Nat) : Frame [] [] s (s.placeRecord r g) := by
  unfold State.placeRecord
  dsimp only
  rw [State.setN_eq]
  refine Frame.then ?_ (Frame.setEnd _ _ _ _ _ (by omega) (by omega) (by decide))
  exact (Frame.mirror s r).then (Frame.modEv _ _ rfl)

theorem Frame.overwrite (s : State) (rc : LogRecord) (g : Option Nat) : Frame [] [] s ((s.placeRecord rc g).inc64 0xA000 0x06) := by
  rw [State.inc64_eq]
  exact (Frame.placeRecord s rc g).then (Frame.setEnd _ 0xA000 0x06 0 _ (by omega) (by omega) (by decide))

theorem Frame.dropRecord (s : State) (v : Nat) (h : v < 65536) : Frame [] [] s (s.dropRecord v) := by
  rw [State.dropRecord, State.setElem_eq]
  exact (Frame.setEnd s 0xA000 0x05 v _ (by omega) h (by decide)).then (Frame.modEv _ _ rfl)

theorem buildRecord_severity (s : State) (r : Raise) (q f : Nat) : (buildRecord s r q f).severity < 8 := by
  unfold buildRecord
  exact Nat.mod_lt _ (by omega)

theorem Frame.logRaise (s : State) (r : Raise) : Frame [] [] s (s.logRaise r).1 := by
  rw [State.logRaise]
  generalize hq : (if r.unlocked then 2 else 0) + (if s.ev.dropped then 4 else 0) = q
  have sev : (buildRecord s r (s.num 0xA000 0x03) q).severity < 65536 := by
    have := buildRecord_severity s r (s.num 0xA000 0x03) q
    omega
  generalize buildRecord s r (s.num 0xA000 0x03) q = rc at sev ⊢
  split
  · exact Frame.placeRecord s rc none
  · split
    · exact Frame.overwrite s rc _
    · exact Frame.dropRecord s rc.severity sev

theorem severityOf_lt (s : State) (source : Nat) : s.severityOf source < 65536 := by
  rw [State.severityOf]; omega

theorem Frame.takeRaise (s : State) (r : Raise) : Frame [] [] s (s.takeRaise r).1 := by
  rw [State.takeRaise]
  split
  · exact (Frame.modEv s (fun e => { e with intake := e.intake + 1 }) rfl).then (Frame.logRaise _ r)
  · exact Frame.dropRecord s _ (severityOf_lt s _)

theorem Frame.eventNotify (s : State) (r : Raise) (w : Option LogRecord) : Frame [] [] s (s.eventNotify r w) := by
  unfold State.eventNotify
  dsimp only
  rw [State.setBytes_eq]
  exact (Frame.setEnd s _ _ _ _ (by omega) (by omega) (by decide)).then (Frame.modEv _ _ rfl)

theorem Calm.mirror (s : State) (r : LogRecord) : Calm s (s.mirror r).1 := by
  unfold State.mirror
  split
  · exact Calm.refl s
  · split
    · exact Calm.modEv s (fun e => { e with flashQueue := _ }) rfl rfl
    · rw [State.inc32_eq]; exact Calm.set s _ _ _ _ (by omega) (by omega) (by decide)

theorem Calm.placeRecord (s : State) (r : LogRecord) (g : Option Nat) : Calm s (s.placeRecord r g) := by
  unfold State.placeRecord
  dsimp only
  rw [State.setN_eq]
  refine Calm.then ?_ (Calm.set _ _ _ _ _ (by omega) (by omega) (by decide))
  exact (Calm.mirror s r).then (Calm.modEv _ _ rfl rfl)

theorem Calm.overwrite (s : State) (rc : LogRecord) (g : Option Nat) : Calm s ((s.placeRecord rc g).inc64 0xA000 0x06) := by
  rw [State.inc64_eq]
  exact (Calm.placeRecord s rc g).then (Calm.set _ 0xA000 0x06 0 _ (by omega) (by omega) (by decide))

theorem Calm.dropRecord (s : State) (v : Nat) (h : v < 65536) : Calm s (s.dropRecord v) := by
  rw [State.dropRecord, State.setElem_eq]
  exact (Calm.set s 0xA000 0x05 v _ (by omega) h (by decide)).then (Calm.modEv _ _ rfl rfl)

theorem Calm.logRaise (s : State) (r : Raise) : Calm s (s.logRaise r).1 := by
  rw [State.logRaise]
  generalize hq : (if r.unlocked then 2 else 0) + (if s.ev.dropped then 4 else 0) = q
  have sev : (buildRecord s r (s.num 0xA000 0x03) q).severity < 65536 := by
    have := buildRecord_severity s r (s.num 0xA000 0x03) q
    omega
  generalize buildRecord s r (s.num 0xA000 0x03) q = rc at sev ⊢
  split
  · exact Calm.placeRecord s rc none
  · split
    · exact Calm.overwrite s rc _
    · exact Calm.dropRecord s rc.severity sev

theorem Calm.takeRaise (s : State) (r : Raise) : Calm s (s.takeRaise r).1 := by
  rw [State.takeRaise]
  split
  · exact (Calm.modEv s (fun e => { e with intake := e.intake + 1 }) rfl rfl).then (Calm.logRaise _ r)
  · exact Calm.dropRecord s _ (severityOf_lt s _)

theorem Calm.eventNotify (s : State) (r : Raise) (w : Option LogRecord) : Calm s (s.eventNotify r w) := by
  unfold State.eventNotify
  dsimp only
  rw [State.setBytes_eq]
  exact (Calm.set s _ _ _ _ (by omega) (by omega) (by decide)).then (Calm.modEv _ _ rfl rfl)

theorem Frame.raiseEvent (s : State) (n c : Nat) : Frame [] [] s (s.raiseEvent n c) := Frame.modEv s _ rfl

theorem Frame.deliverRaise (s : State) (r : Raise) : Frame [] [] s (s.deliverRaise r) := by
  unfold State.deliverRaise
  dsimp only
  have e : Frame [] [] s (if (s.routing r.source).1.testBit 1 = true then s.takeRaise r else (s, none)).1 := by
    split
    · exact Frame.takeRaise s r
    · exact Frame.refl s
  generalize (if (s.routing r.source).1.testBit 1 = true then s.takeRaise r else (s, none)) = res at e ⊢
  have n : Frame [] [] s (if (s.routing r.source).1.testBit 2 = true then res.1.eventNotify r res.2 else res.1) :=
    Frame.ite (e.then (Frame.eventNotify _ _ _)) e
  generalize (if (s.routing r.source).1.testBit 2 = true then res.1.eventNotify r res.2 else res.1) = u at n ⊢
  refine Frame.ite ?_ n
  exact (n.then (Frame.modEv _ _ rfl)).then (Frame.raiseEvent _ _ _)

theorem Frame.handleRaise (s : State) (r : Raise) (h : r.source < 65536) : Frame [] [] s (s.handleRaise r) := by
  have c : Frame [] [] s (s.countRaise r.source) := by
    unfold State.countRaise
    dsimp only
    rw [State.setElem_eq, State.inc64_eq]
    exact (Frame.setEnd s _ _ _ _ (by omega) h (by decide)).then (Frame.setEnd _ _ _ _ _ (by omega) (by omega) (by decide))
  have p : ∀ t : State, Frame [] [] t (t.setPending r.source) := by
    intro t
    unfold State.setPending
    rw [State.setBytes_eq]
    exact Frame.setEnd t _ _ _ _ (by omega) (by omega) (by decide)
  unfold State.handleRaise
  dsimp only
  refine Frame.ite c ?_
  have q : Frame [] [] s (if ((s.countRaise r.source).routing r.source).2 = 0 then s.countRaise r.source
      else (s.countRaise r.source).setPending r.source) := Frame.ite c (c.then (p _))
  generalize (if ((s.countRaise r.source).routing r.source).2 = 0 then s.countRaise r.source
    else (s.countRaise r.source).setPending r.source) = u at q ⊢
  refine Frame.ite (q.then (Frame.deliverRaise _ _)) (Frame.ite (q.then (Frame.modEv _ _ rfl)) ?_)
  rw [State.inc32_eq]
  exact q.then (Frame.setEnd _ 0xA000 0x08 0 _ (by omega) (by omega) (by decide))

theorem Calm.notify (s : State) (sb : Subscription) : Calm s (s.notify sb) := by
  have send : ∀ (u : State) (t : Transport) (k : Option (List Byte)) (p : Pdu), Calm u (u.sendPdu t k p) := by
    intro u t k p
    rw [State.sendPdu_eq]
    exact Calm.modAlm u _
  unfold State.notify
  split
  · exact Calm.refl s
  · split
    · exact Calm.modAlm s _
    · split
      · exact Calm.refl s
      · dsimp only
        exact Calm.then (Calm.modAlm s _) (send _ _ _ _)

theorem Calm.notifyNow (s : State) (sb : Subscription) : Calm s (s.notifyNow sb) := by
  have sent : ∀ f, Calm s ((s.notify sb).modSub sb.id f) := fun f => (Calm.notify s sb).then (Calm.modAlm _ _)
  have kept : ∀ f, Calm s (s.modSub sb.id f) := fun f => Calm.modAlm _ _
  unfold State.notifyNow
  split <;> dsimp only <;> split <;> first | exact sent _ | exact kept _

theorem Calm.notifyEvents (before s : State) : Calm s (State.notifyEvents before s) := by
  unfold State.notifyEvents
  split
  · exact Calm.refl s
  · refine Calm.foldl _ (fun u sb => ?_) _ s
    split
    · exact Calm.notifyNow u sb
    · exact Calm.refl u

/-- What delivering a raise does to the raises: none, or one LOG_DROPPED, after which no other may come at this time (R421). -/
theorem deliverRaise_raised (s : State) (r : Raise) :
    Calm s (s.deliverRaise r) ∨
    (s.mayReportDrop = true ∧ (s.deliverRaise r).mayReportDrop = false ∧ (s.deliverRaise r).eph = s.eph ∧
      (∃ x : Raise, x.source = 93 ∧ (s.deliverRaise r).ev.raised = s.ev.raised ++ [x]) ∧
      ∀ n, n < 128 → (s.deliverRaise r).elem 0xA801 0x02 n = s.elem 0xA801 0x02 n) := by
  unfold State.deliverRaise
  dsimp only
  have e : Calm s (if (s.routing r.source).1.testBit 1 = true then s.takeRaise r else (s, none)).1 := by
    split
    · exact Calm.takeRaise s r
    · exact Calm.refl s
  generalize (if (s.routing r.source).1.testBit 1 = true then s.takeRaise r else (s, none)) = res at e ⊢
  have n : Calm s (if (s.routing r.source).1.testBit 2 = true then res.1.eventNotify r res.2 else res.1) :=
    Calm.ite (e.then (Calm.eventNotify _ _ _)) e
  generalize (if (s.routing r.source).1.testBit 2 = true then res.1.eventNotify r res.2 else res.1) = u at n ⊢
  split
  · rename_i h
    refine Or.inr ⟨?_, ?_, n.time, ⟨_, rfl, by rw [← n.raised]; rfl⟩, n.counts⟩
    · have := h.2.2.2
      unfold State.mayReportDrop State.raw at this ⊢
      rw [n.dropped, n.time] at this
      exact this
    · unfold State.mayReportDrop State.raw
      simp [State.raiseEvent, tickSec]
  · exact Or.inl n

/-- What handling a raise does to the raises. -/
theorem handleRaise_raised (s : State) (r : Raise) :
    ((s.handleRaise r).ev.raised = s.ev.raised ∧ (s.handleRaise r).mayReportDrop = s.mayReportDrop) ∨
    (s.mayReportDrop = true ∧ (s.handleRaise r).mayReportDrop = false ∧
      ∃ x : Raise, x.source = 93 ∧ (s.handleRaise r).ev.raised = s.ev.raised ++ [x]) := by
  unfold State.handleRaise
  dsimp only
  have c : (s.countRaise r.source).ev = s.ev ∧ (s.countRaise r.source).eph = s.eph := ⟨rfl, rfl⟩
  split
  · exact Or.inl ⟨rfl, rfl⟩
  · have q : (if ((s.countRaise r.source).routing r.source).2 = 0 then s.countRaise r.source
        else (s.countRaise r.source).setPending r.source).ev = s.ev ∧
        (if ((s.countRaise r.source).routing r.source).2 = 0 then s.countRaise r.source
        else (s.countRaise r.source).setPending r.source).eph = s.eph := by
      split <;> exact ⟨rfl, rfl⟩
    generalize (if ((s.countRaise r.source).routing r.source).2 = 0 then s.countRaise r.source
      else (s.countRaise r.source).setPending r.source) = u at q ⊢
    have m : ∀ v : State, v.ev.lastDropped = s.ev.lastDropped → v.eph = s.eph → v.mayReportDrop = s.mayReportDrop := by
      intro v h1 h2; unfold State.mayReportDrop State.raw; rw [h1, h2]
    split
    · rcases deliverRaise_raised u r with h | ⟨h1, h2, _, ⟨x, hx, hr⟩, _⟩
      · exact Or.inl ⟨by rw [h.raised, q.1], m _ (by rw [h.dropped, q.1]) (by rw [h.time, q.2])⟩
      · exact Or.inr ⟨by rw [← m u (by rw [q.1]) q.2]; exact h1, h2, x, hx, by rw [hr, q.1]⟩
    · split
      · exact Or.inl ⟨by rw [← q.1]; rfl, m _ (by rw [← q.1]; rfl) (by rw [← q.2]; rfl)⟩
      · exact Or.inl ⟨by rw [← q.1]; rfl, m _ (by rw [← q.1]; rfl) (by rw [← q.2]; rfl)⟩

/-- COUNTS after a raise is handled (R518). -/
theorem handleRaise_counts (s : State) (r : Raise) (h : r.source < 128) {n : Nat} (hn : n < 128) :
    beNat ((s.handleRaise r).elem 0xA801 0x02 n) =
      if n = r.source then min 4294967295 (beNat (s.elem 0xA801 0x02 n) + 1) else beNat (s.elem 0xA801 0x02 n) := by
  have c : beNat ((s.countRaise r.source).elem 0xA801 0x02 n) =
      if n = r.source then min 4294967295 (beNat (s.elem 0xA801 0x02 n) + 1) else beNat (s.elem 0xA801 0x02 n) := by
    unfold State.countRaise
    dsimp only
    rw [State.inc64_eq, (Calm.set _ 0xA800 0x01 0 _ (by omega) (by omega) (by decide)).counts n hn, State.setElem_eq]
    split
    · rename_i e
      subst e
      rw [State.elem_set, beNat_beBytes_of_lt (by omega)]
    · rename_i e
      unfold State.elem
      rw [State.value_set_ne _ _ (by omega) (by omega) (by omega) (by omega) (fun k => e k.2.2)]
  rw [← c]
  have after : ∀ u, Calm (s.countRaise r.source) u → beNat (u.elem 0xA801 0x02 n) = beNat ((s.countRaise r.source).elem 0xA801 0x02 n) :=
    fun u k => by rw [k.counts n hn]
  have p : Calm (s.countRaise r.source) ((s.countRaise r.source).setPending r.source) := by
    unfold State.setPending
    dsimp only
    rw [State.setBytes_eq]
    exact Calm.set _ _ _ _ _ (by omega) (by omega) (by decide)
  unfold State.handleRaise
  dsimp only
  split
  · rfl
  · have q : Calm (s.countRaise r.source) (if ((s.countRaise r.source).routing r.source).2 = 0 then s.countRaise r.source
        else (s.countRaise r.source).setPending r.source) := Calm.ite (Calm.refl _) p
    generalize (if ((s.countRaise r.source).routing r.source).2 = 0 then s.countRaise r.source
      else (s.countRaise r.source).setPending r.source) = u at q ⊢
    split
    · rcases deliverRaise_raised u r with k | ⟨_, _, _, _, k⟩
      · exact after _ (q.then k)
      · rw [k n hn, q.counts n hn]
    · split
      · exact after _ (q.then (Calm.modEv _ _ rfl rfl))
      · rw [State.inc32_eq]
        exact after _ (q.then (Calm.set _ _ _ _ _ (by omega) (by omega) (by decide)))

theorem raiseOrder_perm (l : List Raise) : (State.raiseOrder l).Perm l := List.perm_insertionSort _ l

theorem countAfter_step (c k : Nat) (b : Bool) :
    countAfter (if b = true then min 4294967295 (c + 1) else c) k = countAfter c (k + if b = true then 1 else 0) := by
  unfold countAfter
  cases b
  · simp
  · simp only [if_true]
    split
    · rename_i h; subst h; simp
    · rw [if_neg (by omega)]; omega

/-- The end of a command hands on every raise: none is left, each is counted, and only what the end of a command may change has
changed. -/
theorem handleRaises_spec (fuel : Nat) (s : State) (l : List Raise) (hl : l.length + (if s.mayReportDrop then 1 else 0) ≤ fuel)
    (hs : ∀ r ∈ l, r.source < 128) (he : s.ev.raised = []) :
    Frame [] [] s (State.handleRaises fuel s l) ∧ (State.handleRaises fuel s l).ev.raised = [] ∧
      ∀ n, n < 128 → n ≠ 93 → beNat ((State.handleRaises fuel s l).elem 0xA801 0x02 n) =
        countAfter (beNat (s.elem 0xA801 0x02 n)) ((l.map (·.source)).count n) := by
  induction fuel generalizing s l with
  | zero =>
    have : l = [] := List.eq_nil_of_length_eq_zero (by omega)
    subst this
    exact ⟨Frame.refl s, he, fun n _ _ => by simp [State.handleRaises, countAfter]⟩
  | succ fuel ih =>
    cases l with
    | nil => exact ⟨Frame.refl s, he, fun n _ _ => by simp [State.handleRaises, countAfter]⟩
    | cons r rest =>
      simp only [State.handleRaises]
      have hr : r.source < 128 := hs r (by simp)
      have fr := Frame.handleRaise s r (by omega)
      have cr := fun n (hn : n < 128) => handleRaise_counts s r hr hn
      have rr := handleRaise_raised s r
      generalize s.handleRaise r = t at fr cr rr ⊢
      have calm := Calm.notifyEvents s (t.modEv (fun e => { e with raised := [] }))
      have fu := (fr.then (Frame.modEv t (fun e => { e with raised := [] }) rfl)).then
        (Frame.notifyEvents s (t.modEv (fun e => { e with raised := [] })))
      generalize State.notifyEvents s (t.modEv (fun e => { e with raised := [] })) = u at calm fu ⊢
      have may : u.mayReportDrop = t.mayReportDrop := by
        unfold State.mayReportDrop State.raw
        rw [calm.dropped, calm.time]
        rfl
      have perm := raiseOrder_perm (rest ++ t.ev.raised)
      have src : ∀ x ∈ t.ev.raised, x.source = 93 := by
        intro x hx
        rcases rr with ⟨h, _⟩ | ⟨_, _, y, hy, h⟩
        · rw [h, he] at hx; cases hx
        · rw [h, he] at hx; simp at hx; rw [hx, hy]
      have len : (rest ++ t.ev.raised).length + (if u.mayReportDrop then 1 else 0) ≤ fuel := by
        rw [may]
        simp only [List.length_cons] at hl
        rcases rr with ⟨h, k⟩ | ⟨h1, h2, y, _, h⟩
        · rw [h, he, k]; simp only [List.append_nil]; omega
        · rw [h, he, h2]; rw [h1] at hl
          simp only [List.nil_append, List.length_append, List.length_singleton, if_true, Bool.false_eq_true, if_false] at hl ⊢
          omega
      obtain ⟨f, e, c⟩ := ih u (State.raiseOrder (rest ++ t.ev.raised)) (by rw [perm.length_eq]; exact len)
        (by
          intro x hx
          rcases List.mem_append.mp (perm.mem_iff.mp hx) with k | k
          · exact hs x (by simp [k])
          · rw [src x k]; omega)
        (by rw [calm.raised]; rfl)
      refine ⟨fu.then f, e, fun n hn h93 => ?_⟩
      have cu : beNat (u.elem 0xA801 0x02 n) = beNat (t.elem 0xA801 0x02 n) := by rw [calm.counts n hn]; rfl
      have none93 : (t.ev.raised.map (·.source)).count n = 0 := by
        rw [List.count_eq_zero]
        intro k
        obtain ⟨x, hx, hxn⟩ := List.mem_map.mp k
        exact h93 (by rw [← hxn, src x hx])
      rw [c n hn h93, cu, cr n hn, (perm.map _).count_eq, List.map_append, List.count_append, none93, List.map_cons, List.count_cons]
      have := countAfter_step (beNat (s.elem 0xA801 0x02 n)) ((rest.map (·.source)).count n) (decide (n = r.source))
      simp only [decide_eq_true_eq] at this
      refine Eq.trans ?_ (this.trans ?_)
      · simp only [Nat.add_zero]
      · by_cases hq : r.source = n
        · simp [hq]
        · simp [hq, Ne.symm hq]

theorem flushRaises_spec (s : State) (hs : ∀ r ∈ s.ev.raised, r.source < 128) :
    Frame [] [] s s.flushRaises ∧ s.flushRaises.ev.raised = [] ∧
      ∀ n, n < 128 → n ≠ 93 → beNat (s.flushRaises.elem 0xA801 0x02 n) =
        countAfter (beNat (s.elem 0xA801 0x02 n)) ((s.ev.raised.map (·.source)).count n) := by
  rw [State.flushRaises]
  split
  · rename_i h
    exact ⟨Frame.refl s, h, fun n _ _ => by simp [h, countAfter]⟩
  have perm := raiseOrder_perm s.ev.raised
  obtain ⟨f, e, c⟩ := handleRaises_spec (s.ev.raised.length + 1) (s.modEv (fun e => { e with raised := [] })) (State.raiseOrder s.ev.raised)
    (by rw [perm.length_eq]; split <;> omega) (fun r hr => hs r (perm.mem_iff.mp hr)) rfl
  refine ⟨((Frame.modEv s _ rfl).then f).then (Frame.modEv _ (fun e => { e with intake := 0 }) rfl), e, fun n hn h93 => ?_⟩
  refine Eq.trans (c n hn h93) ?_
  rw [(perm.map _).count_eq]
  rfl

/-- Whatever a state holds, no raise is left after its raises are handled. -/
theorem handleRaises_empty (fuel : Nat) (s : State) (l : List Raise) (he : s.ev.raised = []) :
    (State.handleRaises fuel s l).ev.raised = [] := by
  induction fuel generalizing s l with
  | zero => exact he
  | succ fuel ih =>
    cases l with
    | nil => exact he
    | cons r rest =>
      simp only [State.handleRaises]
      exact ih _ _ (by rw [(Calm.notifyEvents _ _).raised]; rfl)

theorem flushRaises_empty (s : State) : s.flushRaises.ev.raised = [] := by
  rw [State.flushRaises]
  split
  · assumption
  · exact handleRaises_empty _ _ _ rfl

/-! ## Pins -/

theorem Frame.driveAlm (s : State) (n : Nat) (h : n < 4) : Frame [] [] s (s.driveAlm n) := by
  have own : ∀ b, b = 5 ∨ b = 6 ∨ b = 7 → endRegister (0x6201 + n) b = true := by
    intro b hb
    have : n = 0 ∨ n = 1 ∨ n = 2 ∨ n = 3 := by omega
    rcases this with rfl | rfl | rfl | rfl <;> rcases hb with rfl | rfl | rfl <;> decide
  have one : ∀ (t : State) (b : Nat) (v : Value), b = 5 ∨ b = 6 ∨ b = 7 → Frame [] [] t (t.set (0x6201 + n) b 0 v) :=
    fun t b v hb => Frame.setEnd t _ b 0 v (by omega) (by omega) (own b hb)
  rw [State.driveAlm]
  dsimp only
  refine Frame.ite (Frame.refl s) (Frame.ite ?_ (one s 5 _ (by omega)))
  rw [State.inc32_eq, State.setN_eq, State.setN_eq]
  exact ((one s 5 _ (by omega)).then (one _ 6 _ (by omega))).then (one _ 7 _ (by omega))

theorem Frame.driveBo (s : State) (n : Nat) (h : n < 16) : Frame [] [] s (s.driveBo n) := by
  have own : ∀ b, b = 6 ∨ b = 10 ∨ b = 11 → endRegister (0x7100 + n) b = true := by
    intro b hb
    unfold endRegister
    have h1 : decide (0x7100 ≤ 0x7100 + n) = true := by simp
    have h2 : decide (0x7100 + n ≤ 0x710F) = true := by simp; omega
    rw [h1, h2]
    rcases hb with rfl | rfl | rfl <;> simp
  have one : ∀ (t : State) (b : Nat) (v : Value), b = 6 ∨ b = 10 ∨ b = 11 → Frame [] [] t (t.set (0x7100 + n) b 0 v) :=
    fun t b v hb => Frame.setEnd t _ b 0 v (by omega) (by omega) (own b hb)
  rw [State.driveBo]
  rw [State.inc32_eq, State.setN_eq, State.setN_eq]
  exact Frame.ite (one s 6 _ (by omega)) (((one s 6 _ (by omega)).then (one _ 10 _ (by omega))).then (one _ 11 _ (by omega)))

theorem Frame.driveTo (s : State) (n : Nat) : Frame [] [] s (s.driveTo n) := by
  refine Frame.modEph s _ ?_
  unfold Eph.core
  congr 1
  apply List.ext_getElem?
  intro m
  simp only [List.getElem?_map, List.getElem?_modify]
  split
  · cases s.eph.outs[m]? <;> rfl
  · cases s.eph.outs[m]? <;> rfl

theorem Frame.foldRange (f : State → Nat → State) (k : Nat) (hf : ∀ s n, n < k → Frame [] [] s (f s n)) (s : State) :
    Frame [] [] s ((List.range k).foldl f s) := by
  have : ∀ (l : List Nat), (∀ n ∈ l, n < k) → ∀ s, Frame [] [] s (l.foldl f s) := by
    intro l
    induction l with
    | nil => intro _ s; exact Frame.refl s
    | cons x rest ih => intro h s; exact (hf s x (h x (by simp))).then (ih (fun n hn => h n (by simp [hn])) _)
  exact this _ (fun n hn => List.mem_range.mp hn) s

theorem Frame.driveOutputs (s : State) : Frame [] [] s s.driveOutputs :=
  ((Frame.foldRange _ 4 (fun t n h => Frame.driveAlm t n h) s).then
    (Frame.foldRange _ 16 (fun t n h => Frame.driveBo t n h) _)).then (Frame.foldl _ (fun t n => Frame.driveTo t n) _ _)

theorem Frame.noteDigital (s : State) : Frame [] [] s s.noteDigital := by
  rw [State.noteDigital]
  have d : ∀ f : Recorder → Recorder, (f s.rec_).core = s.rec_.core → Frame [] [] s (s.modRec f) := by
    intro f hf
    refine ⟨fun p _ => ?_, fun _ _ _ _ _ _ _ => rfl, rfl⟩
    cases p
    case rec_ => exact hf
    all_goals simp [Part.same]
  dsimp only
  generalize s.digitalNow = now
  exact Frame.ite (Frame.refl s) (Frame.ite (Frame.refl s) (d (fun r => { r with digital := (now :: r.digital).take 256 }) rfl))

theorem Frame.noteUtc (old s : State) : Frame [] [] s (State.noteUtc old s) := by
  rw [State.noteUtc]
  refine Frame.ite (Frame.refl s) ⟨fun p _ => ?_, fun _ _ _ _ _ _ _ => rfl, rfl⟩
  cases p
  case ing => exact rfl
  all_goals simp [Part.same]

theorem Frame.drivePins (s : State) : Frame [] [] s s.drivePins := by
  rw [State.drivePins]
  generalize ((List.range 4).map (fun n => s.irqDue n && (nth s.ev.irqGap n none).isNone)) = irq
  exact (Frame.modAlm s (fun a => { a with hspiIntLow := !a.hspiTx.isEmpty && a.hspiGap.isNone }) rfl (OnlyNotified.of_eq rfl rfl)).then
    (Frame.modEv _ (fun e => { e with irqLow := irq }) rfl)

theorem noteUtc_raised (old s : State) : (State.noteUtc old s).ev = s.ev := by
  rw [State.noteUtc]; split <;> rfl

/-- The end of a command changes only what the end of any command may change (R77, R80, R84, R305, R366, R520). -/
theorem settle_frame (old new : State) (hs : ∀ r ∈ new.ev.raised, r.source < 128) (hp : new.pending = old.pending) :
    Frame [] [] new (State.settle old new) := by
  have a := Frame.noteUtc old new
  have b := (flushRaises_spec (State.noteUtc old new) (by rw [noteUtc_raised]; exact hs)).1
  have f : Frame [] [] new (State.followed old new) :=
    ((a.then b).then (Frame.driveOutputs _)).then (Frame.noteDigital _)
  have g := (f.then (Frame.foldl _ (fun t sb => Frame.notifyChange old t sb) (State.followed old new).alm.subs _)).then
    (Frame.drivePins _)
  rw [State.settle]
  generalize State.drivePins _ = u at g ⊢
  refine ⟨fun p hn => ?_, g.regs, hp.symm⟩
  have k := g.parts p hn
  cases p <;> exact k

/-! ## The outputs agree after every command -/

/-- What driving an ALM pin can leave. -/
theorem driveAlm_cases (P : State → Prop) (s : State) (n : Nat) (same : P s) (level : ∀ v, P (s.set (0x6201 + n) 0x05 0 v))
    (counted : ∀ u v w, P (((s.set (0x6201 + n) 0x05 0 u).set (0x6201 + n) 0x06 0 v).set (0x6201 + n) 0x07 0 w)) :
    P (s.driveAlm n) := by
  rw [State.driveAlm]
  dsimp only
  split
  · exact same
  · split
    · rw [State.inc32_eq, State.setN_eq, State.setN_eq]; exact counted _ _ _
    · exact level _

/-- What driving a binary output can leave. -/
theorem driveBo_cases (P : State → Prop) (s : State) (n : Nat) (level : ∀ v, P (s.set (0x7100 + n) 0x06 0 v))
    (counted : ∀ u v w, P (((s.set (0x7100 + n) 0x06 0 u).set (0x7100 + n) 0x0A 0 v).set (0x7100 + n) 0x0B 0 w)) :
    P (s.driveBo n) := by
  rw [State.driveBo]
  split
  · exact level _
  · rw [State.inc32_eq, State.setN_eq, State.setN_eq]; exact counted _ _ _

theorem driveAlm_ev (s : State) (n : Nat) : (s.driveAlm n).ev = s.ev :=
  driveAlm_cases (fun t => t.ev = s.ev) s n rfl (fun _ => rfl) (fun _ _ _ => rfl)

theorem driveBo_ev (s : State) (n : Nat) : (s.driveBo n).ev = s.ev :=
  driveBo_cases (fun t => t.ev = s.ev) s n (fun _ => rfl) (fun _ _ _ => rfl)

/-- The registers that the outputs' levels depend on are none that driving the outputs writes. -/
structure SamePins (s t : State) : Prop where
  cfg : t.cfg = s.cfg
  boot : t.boot = s.boot
  orr : t.orr = s.orr
  alr : t.alr = s.alr
  bos : t.bos = s.bos
  par : t.par = s.par
  active : t.eph.outs.map TimedOut.active = s.eph.outs.map TimedOut.active
  stage : t.num 0xD000 0x01 = s.num 0xD000 0x01
  power : t.num 0xF140 0x01 = s.num 0xF140 0x01
  acting : t.num 0xC000 0x05 = s.num 0xC000 0x05
  owner : t.num 0x7000 0x02 = s.num 0x7000 0x02
  force : ∀ n, n < 4 → t.num (0x6201 + n) 0x04 = s.num (0x6201 + n) 0x04

theorem SamePins.then {s t u : State} (h : SamePins s t) (k : SamePins t u) : SamePins s u :=
  ⟨k.cfg.trans h.cfg, k.boot.trans h.boot, k.orr.trans h.orr, k.alr.trans h.alr, k.bos.trans h.bos, k.par.trans h.par,
   k.active.trans h.active, k.stage.trans h.stage, k.power.trans h.power, k.acting.trans h.acting, k.owner.trans h.owner,
   fun n hn => (k.force n hn).trans (h.force n hn)⟩

theorem SamePins.refl (s : State) : SamePins s s :=
  ⟨rfl, rfl, rfl, rfl, rfl, rfl, rfl, rfl, rfl, rfl, rfl, fun _ _ => rfl⟩

theorem SamePins.almLevel {s t : State} (h : SamePins s t) (n : Nat) (hn : n < 4) : t.almLevel n = s.almLevel n := by
  have e : t.cElem = s.cElem := by funext i b k; unfold State.cElem State.cValue; rw [h.cfg]
  have c : t.c = s.c := by funext i b; exact State.c_congr h.cfg i b
  have cb : t.cB = s.cB := by funext i b; unfold State.cB; rw [c]
  unfold State.almLevel State.acting State.flag State.pinsReleased State.inRunning State.stage State.orreryOn State.almRouted
  rw [c, cb, e, h.acting, h.boot, h.stage, h.orr, h.force n hn, h.alr]

theorem SamePins.boState {s t : State} (h : SamePins s t) (n : Nat) : t.boState n = s.boState n := by
  have c : t.c = s.c := by funext i b; exact State.c_congr h.cfg i b
  have cb : t.cB = s.cB := by funext i b; unfold State.cB; rw [c]
  have bo : t.bo = s.bo := by funext k; unfold State.bo; rw [h.bos]
  unfold State.boState State.bosFloat State.shortOff State.allSafe State.stage State.power State.isPair State.acting State.flag
    State.orreryOn
  rw [c, cb, bo, h.boot, h.stage, h.power, h.par, h.acting, h.owner, h.orr]

theorem SamePins.toLevel {s t : State} (h : SamePins s t) (n : Nat) : t.toLevel n = s.toLevel n := by
  have c : t.c = s.c := by funext i b; exact State.c_congr h.cfg i b
  have a : (nth t.eph.outs n ⟨false, 0, false, none, 2⟩).active = (nth s.eph.outs n ⟨false, 0, false, none, 2⟩).active := by
    have k := congrArg (fun l : List Bool => l[n]?) h.active
    simp only [List.getElem?_map] at k
    unfold nth
    rw [List.getD_eq_getElem?_getD, List.getD_eq_getElem?_getD]
    cases ht : t.eph.outs[n]? <;> cases hs : s.eph.outs[n]? <;> rw [ht, hs] at k <;> simp at k ⊢
    exact k
  unfold State.toLevel State.stage State.power
  rw [c, a, h.boot, h.stage, h.power, h.par]

theorem SamePins.write (s : State) (i b e : Nat) (v : Value) (hb : b < 256) (he : e < 65536)
    (h : (0x6201 ≤ i ∧ i ≤ 0x6204 ∧ b ≠ 4) ∨ (0x7100 ≤ i ∧ i ≤ 0x710F)) : SamePins s (s.set i b e v) := by
  refine ⟨rfl, rfl, rfl, rfl, rfl, rfl, rfl, ?_, ?_, ?_, ?_, fun n hn => ?_⟩ <;>
    exact State.num_set_ne s v hb he (by omega) (by omega)

/-- A drive writes registers of its own output only: nothing that any output's level depends on. -/
theorem driveAlm_samePins (s : State) (n : Nat) (h : n < 4) : SamePins s (s.driveAlm n) := by
  have w : ∀ (t : State) (b : Nat) (v : Value), b < 256 → b ≠ 4 → SamePins t (t.set (0x6201 + n) b 0 v) :=
    fun t b v hb h4 => SamePins.write t _ b 0 v hb (by omega) (by omega)
  rw [State.driveAlm]
  dsimp only
  split
  · exact SamePins.refl s
  · split
    · rw [State.inc32_eq, State.setN_eq, State.setN_eq]
      exact ((w s 5 _ (by omega) (by omega)).then (w _ 6 _ (by omega) (by omega))).then (w _ 7 _ (by omega) (by omega))
    · exact w s 5 _ (by omega) (by omega)

theorem driveBo_samePins (s : State) (n : Nat) (h : n < 16) : SamePins s (s.driveBo n) := by
  have w : ∀ (t : State) (b : Nat) (v : Value), b < 256 → SamePins t (t.set (0x7100 + n) b 0 v) :=
    fun t b v hb => SamePins.write t _ b 0 v hb (by omega) (by omega)
  rw [State.driveBo]
  split
  · exact w s 6 _ (by omega)
  · rw [State.inc32_eq, State.setN_eq, State.setN_eq]
    exact ((w s 6 _ (by omega)).then (w _ 10 _ (by omega))).then (w _ 11 _ (by omega))

theorem driveTo_samePins (s : State) (n : Nat) : SamePins s (s.driveTo n) := by
  refine ⟨rfl, rfl, rfl, rfl, rfl, rfl, ?_, rfl, rfl, rfl, rfl, fun _ _ => rfl⟩
  show (s.eph.outs.modify n _).map TimedOut.active = s.eph.outs.map TimedOut.active
  apply List.ext_getElem?
  intro m
  simp only [List.getElem?_map, List.getElem?_modify]
  split <;> cases s.eph.outs[m]? <;> rfl

/-- PIN_STATE of an ALM pin after it is driven (R305). -/
theorem driveAlm_level (s : State) (n : Nat) : (s.driveAlm n).num (0x6201 + n) 0x05 = s.almLevel n := by
  rw [State.driveAlm]
  dsimp only
  split
  · assumption
  · split
    · rw [State.inc32_eq, State.setN_eq, State.setN_eq, State.num_set_ne _ _ (by omega) (by omega) (by omega) (by omega),
        State.num_set_ne _ _ (by omega) (by omega) (by omega) (by omega), State.num_set]
    · rw [State.setN_eq, State.num_set]

/-- STATE of a binary output after it is driven (R366). -/
theorem driveBo_state (s : State) (n : Nat) : (s.driveBo n).num (0x7100 + n) 0x06 = s.boState n := by
  rw [State.driveBo]
  split
  · rw [State.setN_eq, State.num_set]
  · rw [State.inc32_eq, State.setN_eq, State.setN_eq, State.num_set_ne _ _ (by omega) (by omega) (by omega) (by omega),
      State.num_set_ne _ _ (by omega) (by omega) (by omega) (by omega), State.num_set]

theorem driveAlm_keeps (s : State) (n i b : Nat) (hb : b < 256) (h : i ≠ 0x6201 + n) :
    (s.driveAlm n).num i b = s.num i b := by
  rw [State.driveAlm]
  dsimp only
  split
  · rfl
  · split
    · rw [State.inc32_eq, State.setN_eq, State.setN_eq, State.num_set_ne _ _ (by omega) (by omega) hb (fun k => h k.1),
        State.num_set_ne _ _ (by omega) (by omega) hb (fun k => h k.1), State.num_set_ne _ _ (by omega) (by omega) hb (fun k => h k.1)]
    · rw [State.setN_eq, State.num_set_ne _ _ (by omega) (by omega) hb (fun k => h k.1)]

theorem driveBo_keeps (s : State) (n i b : Nat) (hb : b < 256) (h : i ≠ 0x7100 + n) : (s.driveBo n).num i b = s.num i b := by
  rw [State.driveBo]
  split
  · rw [State.setN_eq, State.num_set_ne _ _ (by omega) (by omega) hb (fun k => h k.1)]
  · rw [State.inc32_eq, State.setN_eq, State.setN_eq, State.num_set_ne _ _ (by omega) (by omega) hb (fun k => h k.1),
      State.num_set_ne _ _ (by omega) (by omega) hb (fun k => h k.1), State.num_set_ne _ _ (by omega) (by omega) hb (fun k => h k.1)]

theorem driveAlms_level (k : Nat) (hk : k ≤ 4) (s : State) :
    SamePins s ((List.range k).foldl State.driveAlm s) ∧
      ∀ n, n < k → ((List.range k).foldl State.driveAlm s).num (0x6201 + n) 0x05 = s.almLevel n := by
  induction k with
  | zero => exact ⟨SamePins.refl s, fun n hn => absurd hn (by omega)⟩
  | succ k ih =>
    obtain ⟨p, l⟩ := ih (by omega)
    rw [List.range_succ, List.foldl_append]
    simp only [List.foldl_cons, List.foldl_nil]
    generalize (List.range k).foldl State.driveAlm s = t at p l ⊢
    refine ⟨p.then (driveAlm_samePins t k (by omega)), fun n hn => ?_⟩
    by_cases e : n = k
    · subst e; rw [driveAlm_level, p.almLevel n (by omega)]
    · rw [driveAlm_keeps t k _ _ (by omega) (by omega), l n (by omega)]

theorem driveBos_state (k : Nat) (hk : k ≤ 16) (s : State) :
    SamePins s ((List.range k).foldl State.driveBo s) ∧
      (∀ n, n < k → ((List.range k).foldl State.driveBo s).num (0x7100 + n) 0x06 = s.boState n) ∧
      ∀ i b, b < 256 → i < 0x7100 → ((List.range k).foldl State.driveBo s).num i b = s.num i b := by
  induction k with
  | zero => exact ⟨SamePins.refl s, fun n hn => absurd hn (by omega), fun _ _ _ _ => rfl⟩
  | succ k ih =>
    obtain ⟨p, l, m⟩ := ih (by omega)
    rw [List.range_succ, List.foldl_append]
    simp only [List.foldl_cons, List.foldl_nil]
    generalize (List.range k).foldl State.driveBo s = t at p l m ⊢
    refine ⟨p.then (driveBo_samePins t k (by omega)), fun n hn => ?_, fun i b hb hi => ?_⟩
    · by_cases e : n = k
      · subst e; rw [driveBo_state, p.boState n]
      · rw [driveBo_keeps t k _ _ (by omega) (by omega), l n (by omega)]
    · rw [driveBo_keeps t k _ _ hb (by omega), m i b hb hi]

theorem driveTos_level (k : Nat) (s : State) :
    SamePins s ((List.range k).foldl State.driveTo s) ∧ ((List.range k).foldl State.driveTo s).obj = s.obj ∧
      ∀ n, n < k → ∀ o, ((List.range k).foldl State.driveTo s).eph.outs[n]? = some o → o.level = s.toLevel n := by
  induction k with
  | zero => exact ⟨SamePins.refl s, rfl, fun n hn => absurd hn (by omega)⟩
  | succ k ih =>
    obtain ⟨p, q, l⟩ := ih
    rw [List.range_succ, List.foldl_append]
    simp only [List.foldl_cons, List.foldl_nil]
    generalize (List.range k).foldl State.driveTo s = t at p q l ⊢
    refine ⟨p.then (driveTo_samePins t k), q, fun n hn o ho => ?_⟩
    have ho' : (t.eph.outs.modify k (fun (x : TimedOut) => { x with level := t.toLevel k }))[n]? = some o := ho
    rw [List.getElem?_modify] at ho'
    by_cases e : k = n
    · subst e
      cases hx : t.eph.outs[k]? with
      | none => rw [hx] at ho'; simp at ho'
      | some x =>
        rw [hx] at ho'
        simp at ho'
        rw [← ho', p.toLevel k]
    · simp only [if_neg e] at ho'
      exact l n (by omega) o (by simpa using ho')

/-- What the notifications and the recorder's digital states leave alone: all that the outputs depend on, and the raises. -/
structure Still (s t : State) : Prop where
  obj : t.obj = s.obj
  cfg : t.cfg = s.cfg
  boot : t.boot = s.boot
  orr : t.orr = s.orr
  alr : t.alr = s.alr
  bos : t.bos = s.bos
  par : t.par = s.par
  eph : t.eph = s.eph
  ev : t.ev = s.ev

theorem Still.refl (s : State) : Still s s := ⟨rfl, rfl, rfl, rfl, rfl, rfl, rfl, rfl, rfl⟩

theorem Still.then {s t u : State} (h : Still s t) (k : Still t u) : Still s u :=
  ⟨k.obj.trans h.obj, k.cfg.trans h.cfg, k.boot.trans h.boot, k.orr.trans h.orr, k.alr.trans h.alr, k.bos.trans h.bos,
   k.par.trans h.par, k.eph.trans h.eph, k.ev.trans h.ev⟩

theorem Still.modAlm (s : State) (f : Alm → Alm) : Still s (s.modAlm f) := ⟨rfl, rfl, rfl, rfl, rfl, rfl, rfl, rfl, rfl⟩

theorem Still.sendPdu (s : State) (t : Transport) (k : Option (List Byte)) (p : Pdu) : Still s (s.sendPdu t k p) := by
  rw [State.sendPdu_eq]
  exact Still.modAlm s _

theorem Still.notify (s : State) (sb : Subscription) : Still s (s.notify sb) := by
  unfold State.notify
  split
  · exact Still.refl s
  · split
    · exact Still.modAlm s _
    · split
      · exact Still.refl s
      · dsimp only
        exact Still.then (Still.modAlm s _) (Still.sendPdu _ _ _ _)

theorem Still.notifyNow (s : State) (sb : Subscription) : Still s (s.notifyNow sb) := by
  have sent : ∀ f, Still s ((s.notify sb).modSub sb.id f) := fun f => (Still.notify s sb).then (Still.modAlm _ _)
  have kept : ∀ f, Still s (s.modSub sb.id f) := fun f => Still.modAlm _ _
  unfold State.notifyNow
  split <;> dsimp only <;> split <;> first | exact sent _ | exact kept _

theorem Still.notifyChange (old s : State) (sb : Subscription) : Still s (State.notifyChange old s sb) := by
  unfold State.notifyChange
  split
  · exact Still.notifyNow s sb
  · exact Still.refl s

theorem Still.notifyAll (old : State) (l : List Subscription) (s : State) : Still s (l.foldl (State.notifyChange old) s) := by
  induction l generalizing s with
  | nil => exact Still.refl s
  | cons x rest ih => exact (Still.notifyChange old s x).then (ih _)

theorem Still.ite {s a b : State} {q : Prop} [Decidable q] (h : Still s a) (k : Still s b) : Still s (if q then a else b) := by
  split
  · exact h
  · exact k

theorem Still.noteDigital (s : State) : Still s s.noteDigital := by
  rw [State.noteDigital]
  dsimp only
  generalize s.digitalNow = now
  exact Still.ite (Still.refl s) (Still.ite (Still.refl s) ⟨rfl, rfl, rfl, rfl, rfl, rfl, rfl, rfl, rfl⟩)

theorem Still.samePins {s t : State} (h : Still s t) : SamePins s t :=
  ⟨h.cfg, h.boot, h.orr, h.alr, h.bos, h.par, by rw [h.eph], State.num_congr h.obj _ _, State.num_congr h.obj _ _,
   State.num_congr h.obj _ _, State.num_congr h.obj _ _, fun _ _ => State.num_congr h.obj _ _⟩

/-- The levels of the output pins of a state whose outputs have just been driven. -/
theorem driveOutputs_agree (s : State) :
    (∀ n, n < 4 → s.driveOutputs.num (0x6201 + n) 0x05 = s.driveOutputs.almLevel n) ∧
    (∀ n, n < 16 → s.driveOutputs.num (0x7100 + n) 0x06 = s.driveOutputs.boState n) ∧
    (∀ n, n < 8 → ∀ o, s.driveOutputs.eph.outs[n]? = some o → o.level = s.driveOutputs.toLevel n) ∧
    s.driveOutputs.ev.raised = s.ev.raised := by
  rw [State.driveOutputs]
  obtain ⟨p1, l1⟩ := driveAlms_level 4 (by omega) s
  have e1 : ((List.range 4).foldl State.driveAlm s).ev = s.ev := by
    have : ∀ (l : List Nat) (s : State), (l.foldl State.driveAlm s).ev = s.ev := by
      intro l
      induction l with
      | nil => intro s; rfl
      | cons x rest ih => intro s; exact (ih _).trans (driveAlm_ev s x)
    exact this _ s
  generalize (List.range 4).foldl State.driveAlm s = t at p1 l1 e1 ⊢
  obtain ⟨p2, l2, m2⟩ := driveBos_state 16 (by omega) t
  have e2 : ((List.range 16).foldl State.driveBo t).ev = t.ev := by
    have : ∀ (l : List Nat) (s : State), (l.foldl State.driveBo s).ev = s.ev := by
      intro l
      induction l with
      | nil => intro s; rfl
      | cons x rest ih => intro s; exact (ih _).trans (driveBo_ev s x)
    exact this _ t
  generalize (List.range 16).foldl State.driveBo t = u at p2 l2 m2 e2 ⊢
  obtain ⟨p3, q3, l3⟩ := driveTos_level 8 u
  have e3 : ((List.range 8).foldl State.driveTo u).ev = u.ev := by
    have : ∀ (l : List Nat) (s : State), (l.foldl State.driveTo s).ev = s.ev := by
      intro l
      induction l with
      | nil => intro s; rfl
      | cons x rest ih => intro s; exact (ih _).trans rfl
    exact this _ u
  generalize (List.range 8).foldl State.driveTo u = v at p3 q3 l3 e3 ⊢
  refine ⟨fun n hn => ?_, fun n hn => ?_, fun n hn o ho => ?_, by rw [e3, e2, e1]⟩
  · rw [State.num_congr q3, m2 _ _ (by omega) (by omega), l1 n hn, p3.almLevel n hn, p2.almLevel n hn, p1.almLevel n hn]
  · rw [State.num_congr q3, l2 n hn, p3.boState n, p2.boState n]
  · rw [l3 n hn o ho, p3.toLevel n]

/-- Every command leaves a settled state: every output agrees with what it follows, and every raise has been handed on. -/
theorem settle_settled (old new : State) : (State.settle old new).settled := by
  rw [State.settle]
  have d := driveOutputs_agree (State.noteUtc old new).flushRaises
  have e := flushRaises_empty (State.noteUtc old new)
  have st := (Still.noteDigital (State.noteUtc old new).flushRaises.driveOutputs).then
    (Still.notifyAll old (State.followed old new).alm.subs (State.followed old new))
  have k : SamePins _ _ := st.samePins
  generalize (State.followed old new).alm.subs.foldl (State.notifyChange old) (State.followed old new) = t at st k ⊢
  generalize (State.noteUtc old new).flushRaises.driveOutputs = u at d st k ⊢
  obtain ⟨d1, d2, d3, d4⟩ := d
  have r : SamePins t ({ t.drivePins with pending := old.pending } : State) :=
    ⟨rfl, rfl, rfl, rfl, rfl, rfl, rfl, rfl, rfl, rfl, rfl, fun _ _ => rfl⟩
  refine ⟨⟨fun n hn => ?_, fun n hn => ?_, fun n hn o ho => ?_, rfl, fun n hn => ?_⟩, ?_⟩
  · rw [r.almLevel n hn, k.almLevel n hn, ← d1 n hn]; exact State.num_congr st.obj _ _
  · rw [r.boState n, k.boState n, ← d2 n hn]; exact State.num_congr st.obj _ _
  · have ho' : t.eph.outs[n]? = some o := ho
    rw [st.eph] at ho'
    rw [r.toLevel n, k.toLevel n, ← d3 n hn o ho']
  · have q : ({ t.drivePins with pending := old.pending } : State).irqDue = t.irqDue := by
      funext m; unfold State.irqDue State.routing State.cElem State.cValue; rfl
    have g : ({ t.drivePins with pending := old.pending } : State).ev =
        { t.ev with irqLow := (List.range 4).map (fun n => t.irqDue n && (nth t.ev.irqGap n none).isNone) } := rfl
    rw [q, g]
    simp [hn]
  · have : t.ev.raised = [] := by rw [st.ev, d4, e]
    exact this

/-- COUNTS after a command: each source by the raises of the command (R518). -/
theorem settle_raised (old new : State) (hs : ∀ r ∈ new.ev.raised, r.source < 128) (l : List Nat)
    (hl : new.ev.raised.map (·.source) = l) : Raised l new (State.settle old new) := by
  intro n hn h93
  have c := (flushRaises_spec (State.noteUtc old new) (by rw [noteUtc_raised]; exact hs)).2.2 n hn h93
  rw [noteUtc_raised, hl] at c
  have o : (State.noteUtc old new).elem 0xA801 0x02 n = new.elem 0xA801 0x02 n := by
    rw [State.noteUtc]; split <;> rfl
  rw [o] at c
  rw [← c]
  have st := (Still.noteDigital (State.noteUtc old new).flushRaises.driveOutputs).then
    (Still.notifyAll old (State.followed old new).alm.subs (State.followed old new))
  rw [State.settle]
  generalize (State.followed old new).alm.subs.foldl (State.notifyChange old) (State.followed old new) = t at st ⊢
  have v : ({ t.drivePins with pending := old.pending } : State).elem 0xA801 0x02 n = t.elem 0xA801 0x02 n := rfl
  have w : t.elem 0xA801 0x02 n = (State.noteUtc old new).flushRaises.driveOutputs.elem 0xA801 0x02 n := by
    unfold State.elem State.value; rw [st.obj]
  rw [v, w]
  generalize (State.noteUtc old new).flushRaises = u
  have alm : ∀ (l : List Nat) (s : State), (∀ m ∈ l, m < 4) → (l.foldl State.driveAlm s).elem 0xA801 0x02 n = s.elem 0xA801 0x02 n := by
    intro l
    induction l with
    | nil => intro s _; rfl
    | cons x rest ih =>
      intro s h
      rw [List.foldl_cons, ih _ (fun m hm => h m (by simp [hm]))]
      have one : ∀ (t : State) (b : Nat) (v : Value), b < 256 → (t.set (0x6201 + x) b 0 v).elem 0xA801 0x02 n = t.elem 0xA801 0x02 n :=
        fun t b v hb => (Calm.set t (0x6201 + x) b 0 v hb (by omega) (by have := h x (by simp); omega)).counts n hn
      rw [State.driveAlm]
      dsimp only
      split
      · rfl
      · split
        · rw [State.inc32_eq, State.setN_eq, State.setN_eq, one _ _ _ (by omega), one _ _ _ (by omega), one _ _ _ (by omega)]
        · rw [State.setN_eq, one _ _ _ (by omega)]
  have bo : ∀ (l : List Nat) (s : State), (∀ m ∈ l, m < 16) → (l.foldl State.driveBo s).elem 0xA801 0x02 n = s.elem 0xA801 0x02 n := by
    intro l
    induction l with
    | nil => intro s _; rfl
    | cons x rest ih =>
      intro s h
      rw [List.foldl_cons, ih _ (fun m hm => h m (by simp [hm]))]
      have one : ∀ (t : State) (b : Nat) (v : Value), b < 256 → (t.set (0x7100 + x) b 0 v).elem 0xA801 0x02 n = t.elem 0xA801 0x02 n :=
        fun t b v hb => (Calm.set t (0x7100 + x) b 0 v hb (by omega) (by have := h x (by simp); omega)).counts n hn
      rw [State.driveBo]
      split
      · rw [State.setN_eq, one _ _ _ (by omega)]
      · rw [State.inc32_eq, State.setN_eq, State.setN_eq, one _ _ _ (by omega), one _ _ _ (by omega), one _ _ _ (by omega)]
  rw [State.driveOutputs]
  have tos := (driveTos_level 8 ((List.range 16).foldl State.driveBo ((List.range 4).foldl State.driveAlm u))).2.1
  unfold State.elem State.value
  rw [tos]
  have a := alm (List.range 4) u (fun m hm => List.mem_range.mp hm)
  have b := bo (List.range 16) ((List.range 4).foldl State.driveAlm u) (fun m hm => List.mem_range.mp hm)
  exact congrArg beNat (b.trans a)

end Sys2Proof.Machine
end

