-- ==== Sys2Proof/Laws/Quiet.lean ====
section
/-! SUPPORT. The end of a command that has raised nothing: the Logbook, the event controller and every register but those of the output
pins are as the command has left them. -/

namespace Sys2Proof.Machine

/-- A state is as another but for what follows from it: the output pins, the notifications and the recorder's digital states. -/
structure Quiet (s t : State) : Prop where
  settled : t.settled
  ev : t.ev = { s.ev with irqLow := t.ev.irqLow }
  value : ∀ i b e, (i < 0x6201 ∨ 0x6204 < i) → (i < 0x7100 ∨ 0x710F < i) → b < 256 → e < 65536 → t.value i b e = s.value i b e

theorem driveAlm_value (s : State) (n i b e : Nat) (hb : b < 256) (he : e < 65536) (h : i ≠ 0x6201 + n) :
    (s.driveAlm n).value i b e = s.value i b e := by
  refine driveAlm_cases (fun t => t.value i b e = s.value i b e) s n rfl ?_ ?_
  · intro v; exact State.value_set_ne s v (by omega) (by omega) hb he (by rintro ⟨k, -⟩; exact h k)
  · intro v w x
    rw [State.value_set_ite _ _ (by omega) (by omega) hb he, State.value_set_ite _ _ (by omega) (by omega) hb he,
      State.value_set_ite _ _ (by omega) (by omega) hb he, if_neg (by tauto), if_neg (by tauto), if_neg (by tauto)]

theorem driveBo_value (s : State) (n i b e : Nat) (hb : b < 256) (he : e < 65536) (h : i ≠ 0x7100 + n) :
    (s.driveBo n).value i b e = s.value i b e := by
  refine driveBo_cases (fun t => t.value i b e = s.value i b e) s n ?_ ?_
  · intro v; exact State.value_set_ne s v (by omega) (by omega) hb he (by rintro ⟨k, -⟩; exact h k)
  · intro v w x
    rw [State.value_set_ite _ _ (by omega) (by omega) hb he, State.value_set_ite _ _ (by omega) (by omega) hb he,
      State.value_set_ite _ _ (by omega) (by omega) hb he, if_neg (by tauto), if_neg (by tauto), if_neg (by tauto)]

theorem foldl_value (f : State → Nat → State) (l : List Nat) (s : State) (i b e : Nat)
    (hf : ∀ s, ∀ n ∈ l, (f s n).value i b e = s.value i b e) : (l.foldl f s).value i b e = s.value i b e := by
  induction l generalizing s with
  | nil => rfl
  | cons x rest ih => rw [List.foldl_cons, ih _ (fun t n hn => hf t n (by simp [hn])), hf _ _ (by simp)]

theorem foldl_ev (f : State → Nat → State) (l : List Nat) (s : State) (hf : ∀ s, ∀ n ∈ l, (f s n).ev = s.ev) : (l.foldl f s).ev = s.ev := by
  induction l generalizing s with
  | nil => rfl
  | cons x rest ih => rw [List.foldl_cons, ih _ (fun t n hn => hf t n (by simp [hn])), hf _ _ (by simp)]

theorem driveOutputs_quiet (s : State) : s.driveOutputs.ev = s.ev ∧ ∀ i b e, (i < 0x6201 ∨ 0x6204 < i) → (i < 0x7100 ∨ 0x710F < i) →
    b < 256 → e < 65536 → s.driveOutputs.value i b e = s.value i b e := by
  rw [State.driveOutputs]
  refine ⟨?_, fun i b e h1 h2 hb he => ?_⟩
  · rw [foldl_ev State.driveTo _ _ (fun s n _ => rfl), foldl_ev _ _ _ (fun s n _ => driveBo_ev s n), foldl_ev _ _ _ (fun s n _ => driveAlm_ev s n)]
  · rw [foldl_value State.driveTo _ _ _ _ _ (fun s n _ => rfl),
      foldl_value _ _ _ _ _ _ (fun s n hn => driveBo_value s n i b e hb he (by rw [List.mem_range] at hn; omega)),
      foldl_value _ _ _ _ _ _ (fun s n hn => driveAlm_value s n i b e hb he (by rw [List.mem_range] at hn; omega))]

theorem flushRaises_none (s : State) (h : s.ev.raised = []) : s.flushRaises = s := by
  rw [State.flushRaises, if_pos h]

/-- The end of a command that has raised nothing leaves the Logbook and the event controller as they are. -/
theorem settle_quiet (old new : State) (h : new.ev.raised = []) : Quiet new (State.settle old new) := by
  have settled := settle_settled old new
  rw [State.settle] at settled ⊢
  have st := (Still.noteDigital (State.noteUtc old new).flushRaises.driveOutputs).then
    (Still.notifyAll old (State.followed old new).alm.subs (State.followed old new))
  generalize (State.followed old new).alm.subs.foldl (State.notifyChange old) (State.followed old new) = t at st settled ⊢
  have hn : (State.noteUtc old new).ev = new.ev := noteUtc_raised old new
  have hv : ∀ i b e, (State.noteUtc old new).value i b e = new.value i b e := by
    intro i b e; rw [State.noteUtc]; split <;> rfl
  rw [flushRaises_none _ (by rw [hn]; exact h)] at st
  obtain ⟨d1, d2⟩ := driveOutputs_quiet (State.noteUtc old new)
  refine ⟨settled, ?_, ?_⟩
  · have : t.ev = new.ev := by rw [st.ev, d1, hn]
    rw [← this]; rfl
  · intro i b e h1 h2 hb he
    have v : ∀ q, ({ t.drivePins with pending := q } : State).value i b e = t.value i b e := fun q => rfl
    rw [v, ← hv, ← d2 i b e h1 h2 hb he]
    unfold State.value; rw [st.obj]

end Sys2Proof.Machine
end

