-- ==== Sys2Proof/Laws/Does.lean ====
section
/-! SUPPORT. The effect of a command as a chain of updates: its frame, that COUNTS are untouched, and which events it raises, one update
at a time; and from an effect to what the command does, said once. -/

namespace Sys2Proof.Machine

/-- `u` is `s` but for the listed parts and registers, COUNTS are untouched, and the listed sources have been raised. -/
structure Effect (P : List Part) (R : List (Nat × Nat)) (L : List Nat) (s u : State) : Prop where
  frame : Frame P R s u
  counts : ∀ n, n < 128 → u.elem 0xA801 0x02 n = s.elem 0xA801 0x02 n
  raised : u.ev.raised.map (·.source) = s.ev.raised.map (·.source) ++ L

variable {P : List Part} {R : List (Nat × Nat)} {L : List Nat} {s u : State}

theorem Effect.start : Effect P R [] s s := ⟨Frame.start, fun _ _ => rfl, by simp⟩

theorem Effect.ite {a b : State} {q : Prop} [Decidable q] (h : Effect P R L s a) (k : Effect P R L s b) :
    Effect P R L s (if q then a else b) := by
  split
  · exact h
  · exact k

theorem Effect.trans {M : List Nat} {t : State} (h : Effect P R L s u) (k : Effect P R M u t) : Effect P R (L ++ M) s t :=
  ⟨(h.frame.trans k.frame).mono (by simp) (by simp), fun n hn => (k.counts n hn).trans (h.counts n hn),
   by rw [k.raised, h.raised, List.append_assoc]⟩

theorem Effect.mono {Q : List Part} {U : List (Nat × Nat)} (h : Effect P R L s u) (hp : ∀ p ∈ P, p ∈ Q) (hr : ∀ r ∈ R, r ∈ U) :
    Effect Q U L s u := ⟨h.frame.mono hp hr, h.counts, h.raised⟩

/-- Steps of one kind, one after the other, that raise nothing. -/
theorem Effect.foldl {α : Type} (f : State → α → State) (l : List α) (hf : ∀ s, ∀ x ∈ l, Effect P R [] s (f s x)) (s : State) :
    Effect P R [] s (l.foldl f s) := by
  induction l generalizing s with
  | nil => exact Effect.start
  | cons x rest ih => simpa using (hf s x (by simp)).trans (ih (fun t y hy => hf t y (by simp [hy])) (f s x))

theorem Effect.set (h : Effect P R L s u) (i b e : Nat) (v : Value) (hb : b < 256) (he : e < 65536)
    (m : (i, b) ∈ R ∨ endRegister i b = true) (hc : i ≠ 0xA801) : Effect P R L s (u.set i b e v) :=
  ⟨h.frame.andSet i b e v hb he m, fun n hn => ((Calm.set u i b e v hb he hc).counts n hn).trans (h.counts n hn), h.raised⟩

theorem Effect.emit (h : Effect P R L s u) (o : Output) (m : Part.wire ∈ P) : Effect P R L s (u.emit o) :=
  ⟨h.frame.andPart .wire m (fun q n => by cases q <;> first | exact absurd rfl n | simp [Part.same]) rfl rfl,
   h.counts, h.raised⟩

theorem Effect.raise (h : Effect P R L s u) (n c : Nat) : Effect P R (L ++ [n]) s (u.raiseEvent n c) :=
  ⟨h.frame.andEnd (Frame.raiseEvent u n c), h.counts, by simp [h.raised]⟩

/-- A raise that is the last of the listed sources. -/
theorem Effect.raiseLast (h : Effect P R L.dropLast s u) (n c : Nat) (e : L.dropLast ++ [n] = L) : Effect P R L s (u.raiseEvent n c) := by
  have k := h.raise n c
  rwa [e] at k

theorem Effect.modEv (h : Effect P R L s u) (f : Events → Events) (m : Part.ev ∈ P) (k : (f u.ev).raised = u.ev.raised) :
    Effect P R L s (u.modEv f) :=
  ⟨h.frame.andPart .ev m (fun q n => by cases q <;> first | exact absurd rfl n | simp [Part.same]) rfl rfl,
   h.counts, by simp [k, h.raised]⟩

theorem Effect.modAlm (h : Effect P R L s u) (f : Alm → Alm) (m : Part.alm ∈ P) : Effect P R L s (u.modAlm f) :=
  ⟨h.frame.andPart .alm m (fun q n => by cases q <;> first | exact absurd rfl n | simp [Part.same]) rfl rfl, h.counts, h.raised⟩

theorem Effect.modEph (h : Effect P R L s u) (f : Eph → Eph) (m : Part.eph ∈ P) : Effect P R L s (u.modEph f) :=
  ⟨h.frame.andPart .eph m (fun q n => by cases q <;> first | exact absurd rfl n | simp [Part.same]) rfl rfl, h.counts, h.raised⟩

theorem Effect.modPtp (h : Effect P R L s u) (f : Ptp → Ptp) (m : Part.ptp ∈ P) : Effect P R L s (u.modPtp f) :=
  ⟨h.frame.andPart .ptp m (fun q n => by cases q <;> first | exact absurd rfl n | simp [Part.same]) rfl rfl, h.counts, h.raised⟩

theorem Effect.modFlash (h : Effect P R L s u) (f : Flash → Flash) (m : Part.flash ∈ P) : Effect P R L s (u.modFlash f) :=
  ⟨h.frame.andPart .flash m (fun q n => by cases q <;> first | exact absurd rfl n | simp [Part.same]) rfl rfl, h.counts, h.raised⟩

theorem Effect.modKeys (h : Effect P R L s u) (f : Keys → Keys) (m : Part.keys ∈ P) : Effect P R L s (u.modKeys f) :=
  ⟨h.frame.andPart .keys m (fun q n => by cases q <;> first | exact absurd rfl n | simp [Part.same]) rfl rfl, h.counts, h.raised⟩

theorem Effect.modBoot (h : Effect P R L s u) (f : Boot → Boot) (m : Part.boot ∈ P) : Effect P R L s (u.modBoot f) :=
  ⟨h.frame.andPart .boot m (fun q n => by cases q <;> first | exact absurd rfl n | simp [Part.same]) rfl rfl, h.counts, h.raised⟩

theorem Effect.modLoc (h : Effect P R L s u) (f : Local → Local) (m : Part.loc ∈ P) : Effect P R L s (u.modLoc f) :=
  ⟨h.frame.andPart .loc m (fun q n => by cases q <;> first | exact absurd rfl n | simp [Part.same]) rfl rfl, h.counts, h.raised⟩

theorem Effect.modIng (h : Effect P R L s u) (f : Ingest → Ingest) (m : Part.ing ∈ P) : Effect P R L s (u.modIng f) :=
  ⟨h.frame.andPart .ing m (fun q n => by cases q <;> first | exact absurd rfl n | simp [Part.same]) rfl rfl, h.counts, h.raised⟩

theorem Effect.modTr (h : Effect P R L s u) (f : Transit → Transit) (m : Part.tr ∈ P) : Effect P R L s (u.modTr f) :=
  ⟨h.frame.andPart .tr m (fun q n => by cases q <;> first | exact absurd rfl n | simp [Part.same]) rfl rfl, h.counts, h.raised⟩

theorem Effect.modSpec (h : Effect P R L s u) (f : Spec → Spec) (m : Part.spec ∈ P) : Effect P R L s (u.modSpec f) :=
  ⟨h.frame.andPart .spec m (fun q n => by cases q <;> first | exact absurd rfl n | simp [Part.same]) rfl rfl, h.counts, h.raised⟩

theorem Effect.modHor (h : Effect P R L s u) (f : Horizon → Horizon) (m : Part.hor ∈ P) : Effect P R L s (u.modHor f) :=
  ⟨h.frame.andPart .hor m (fun q n => by cases q <;> first | exact absurd rfl n | simp [Part.same]) rfl rfl, h.counts, h.raised⟩

theorem Effect.modAlr (h : Effect P R L s u) (f : Alarms → Alarms) (m : Part.alr ∈ P) : Effect P R L s (u.modAlr f) :=
  ⟨h.frame.andPart .alr m (fun q n => by cases q <;> first | exact absurd rfl n | simp [Part.same]) rfl rfl, h.counts, h.raised⟩

theorem Effect.modEgr (h : Effect P R L s u) (f : Egress → Egress) (m : Part.egr ∈ P) : Effect P R L s (u.modEgr f) :=
  ⟨h.frame.andPart .egr m (fun q n => by cases q <;> first | exact absurd rfl n | simp [Part.same]) rfl rfl, h.counts, h.raised⟩

theorem Effect.modOrr (h : Effect P R L s u) (f : Orrery → Orrery) (m : Part.orr ∈ P) : Effect P R L s (u.modOrr f) :=
  ⟨h.frame.andPart .orr m (fun q n => by cases q <;> first | exact absurd rfl n | simp [Part.same]) rfl rfl, h.counts, h.raised⟩

theorem Effect.modPar (h : Effect P R L s u) (f : Pair → Pair) (m : Part.par ∈ P) : Effect P R L s (u.modPar f) :=
  ⟨h.frame.andPart .par m (fun q n => by cases q <;> first | exact absurd rfl n | simp [Part.same]) rfl rfl, h.counts, h.raised⟩

theorem Effect.modWit (h : Effect P R L s u) (f : Witness → Witness) (m : Part.wit ∈ P) : Effect P R L s (u.modWit f) :=
  ⟨h.frame.andPart .wit m (fun q n => by cases q <;> first | exact absurd rfl n | simp [Part.same]) rfl rfl, h.counts, h.raised⟩

theorem Effect.modPm (h : Effect P R L s u) (f : Pm → Pm) (m : Part.pm ∈ P) : Effect P R L s (u.modPm f) :=
  ⟨h.frame.andPart .pm m (fun q n => by cases q <;> first | exact absurd rfl n | simp [Part.same]) rfl rfl, h.counts, h.raised⟩

theorem Effect.modRec (h : Effect P R L s u) (f : Recorder → Recorder) (m : Part.rec_ ∈ P) : Effect P R L s (u.modRec f) :=
  ⟨h.frame.andPart .rec_ m (fun q n => by cases q <;> first | exact absurd rfl n | simp [Part.same]) rfl rfl, h.counts, h.raised⟩

theorem Effect.modEng (h : Effect P R L s u) (f : Engine → Engine) (m : Part.eng ∈ P) : Effect P R L s (u.modEng f) :=
  ⟨h.frame.andPart .eng m (fun q n => by cases q <;> first | exact absurd rfl n | simp [Part.same]) rfl rfl, h.counts, h.raised⟩

theorem Effect.modFab (h : Effect P R L s u) (f : Fabric → Fabric) (m : Part.fab ∈ P) : Effect P R L s (u.modFab f) :=
  ⟨h.frame.andPart .fab m (fun q n => by cases q <;> first | exact absurd rfl n | simp [Part.same]) rfl rfl, h.counts, h.raised⟩

theorem Effect.modLom (h : Effect P R L s u) (n : Nat) (f : LomBay → LomBay) (m : Part.lom ∈ P) : Effect P R L s (u.modLom n f) :=
  ⟨h.frame.andPart .lom m (fun q n => by cases q <;> first | exact absurd rfl n | simp [Part.same]) rfl rfl, h.counts, h.raised⟩

theorem Effect.modBo (h : Effect P R L s u) (n : Nat) (f : BoRun → BoRun) (m : Part.bos ∈ P) : Effect P R L s (u.modBo n f) :=
  ⟨h.frame.andPart .bos m (fun q n => by cases q <;> first | exact absurd rfl n | simp [Part.same]) rfl rfl, h.counts, h.raised⟩

theorem Effect.modBi (h : Effect P R L s u) (n : Nat) (f : BiRun → BiRun) (m : Part.bis ∈ P) : Effect P R L s (u.modBi n f) :=
  ⟨h.frame.andPart .bis m (fun q n => by cases q <;> first | exact absurd rfl n | simp [Part.same]) rfl rfl, h.counts, h.raised⟩

theorem Effect.modPmBay (h : Effect P R L s u) (n : Nat) (f : PmBay → PmBay) (m : Part.pm ∈ P) : Effect P R L s (u.modPmBay n f) :=
  ⟨h.frame.andPart .pm m (fun q n => by cases q <;> first | exact absurd rfl n | simp [Part.same]) rfl rfl, h.counts, h.raised⟩

/-! ## From the effect of a command to what it does -/

/-- What `complete` adds to an effect: what the end of any command may change, and a settled state. -/
theorem complete_effect (s : State) (f : State → State) (hs : ∀ r ∈ (f s).ev.raised, r.source < 128)
    (hp : (f s).pending = s.pending) :
    ∃ t, complete s f = .next t ∧ Frame [] [] (f s) t ∧ Raised ((f s).ev.raised.map (·.source)) (f s) t ∧ t.settled :=
  ⟨s.settle (f s), rfl, settle_frame s (f s) hs hp, settle_raised s (f s) hs _ rfl, settle_settled s (f s)⟩

/-- What a command does follows from its effect, and from what any state satisfies that is the effect but for the end of the command. -/
theorem Does.of_effect {c : Instr} {f : State → State} {after : State → Prop}
    (he : Sys2Proof.Machine.exec c s = complete s f) (h0 : s.ev.raised = []) (hf : Effect P R L s (f s))
    (small : ∀ n ∈ L, n < 128) (hafter : ∀ t, Frame [] [] (f s) t → t.settled → after t) : Does c s P R L after := by
  have hl : (f s).ev.raised.map (·.source) = L := by rw [hf.raised, h0]; rfl
  have hs : ∀ r ∈ (f s).ev.raised, r.source < 128 := fun r hr => small _ (hl ▸ List.mem_map_of_mem hr)
  obtain ⟨t, ht, hft, hr, hset⟩ := complete_effect s f hs hf.frame.pending
  refine ⟨t, by rw [he, ht], hf.frame.andEnd hft, fun n hn h93 => ?_, hafter t hft hset⟩
  rw [hr n hn h93, hl, hf.counts n hn]

/-- The same, with what the end of a command that has raised nothing leaves alone. -/
theorem Does.of_quiet {c : Instr} {f : State → State} {after : State → Prop}
    (he : Sys2Proof.Machine.exec c s = complete s f) (h0 : s.ev.raised = []) (hf : Effect P R [] s (f s))
    (hafter : ∀ t, Frame [] [] (f s) t → t.settled → Quiet (f s) t → after t) : Does c s P R [] after := by
  have hl : (f s).ev.raised = [] := by
    have := hf.raised
    rw [h0] at this
    exact List.map_eq_nil_iff.mp this
  have hs : ∀ r ∈ (f s).ev.raised, r.source < 128 := by rw [hl]; simp
  refine ⟨s.settle (f s), by rw [he]; rfl, hf.frame.andEnd (settle_frame s (f s) hs hf.frame.pending), fun n hn h93 => ?_,
    hafter _ (settle_frame s (f s) hs hf.frame.pending) (settle_settled s (f s)) (settle_quiet s (f s) hl)⟩
  rw [settle_raised s (f s) hs [] (by rw [hl]; rfl) n hn h93, hf.counts n hn]

theorem Leaves.of_effect {c : Instr} {f : State → State} {after : State → Prop}
    (he : Sys2Proof.Machine.exec c s = complete s f) (h0 : s.ev.raised = []) (hf : Effect P R L s (f s))
    (small : ∀ n ∈ L, n < 128) (hafter : ∀ t, Frame [] [] (f s) t → t.settled → after t) : Leaves c s P R after := by
  obtain ⟨t, ht, frame, _, ha⟩ := Does.of_effect he h0 hf small hafter
  exact ⟨t, ht, frame, ha⟩

theorem Reaches.of_effect {c : Instr} {f : State → State} {after : State → Prop}
    (he : Sys2Proof.Machine.exec c s = complete s f) (hs : ∀ r ∈ (f s).ev.raised, r.source < 128) (hp : (f s).pending = s.pending)
    (hafter : ∀ t, Frame [] [] (f s) t → t.settled → after t) : Reaches c s after := by
  obtain ⟨t, ht, frame, _, hset⟩ := complete_effect s f hs hp
  exact ⟨t, by rw [he, ht], hafter t frame hset⟩

/-- A register that is none of the end of a command holds after it what the effect left. -/
theorem Frame.value {s t : State} (h : Frame [] [] s t) (i b e : Nat) (hb : b < 256 := by omega) (he : e < 65536 := by omega)
    (hn : endRegister i b = false := by decide) : t.value i b e = s.value i b e := h.regs i b e hb he (by simp) hn

theorem Frame.num {s t : State} (h : Frame [] [] s t) (i b : Nat) (hb : b < 256 := by omega)
    (hn : endRegister i b = false := by decide) : t.num i b = s.num i b := by
  unfold State.num State.int
  rw [h.regs i b 0 hb (by omega) (by simp) hn]

theorem Frame.int {s t : State} (h : Frame [] [] s t) (i b : Nat) (hb : b < 256 := by omega)
    (hn : endRegister i b = false := by decide) : t.int i b = s.int i b := by
  unfold State.int
  rw [h.regs i b 0 hb (by omega) (by simp) hn]

theorem Frame.bytes {s t : State} (h : Frame [] [] s t) (i b : Nat) (hb : b < 256 := by omega)
    (hn : endRegister i b = false := by decide) : t.bytes i b = s.bytes i b := by
  unfold State.bytes
  rw [h.regs i b 0 hb (by omega) (by simp) hn]

theorem Frame.elem {s t : State} (h : Frame [] [] s t) (i b e : Nat) (hb : b < 256 := by omega) (he : e < 65536 := by omega)
    (hn : endRegister i b = false := by decide) : t.elem i b e = s.elem i b e := by
  unfold State.elem
  rw [h.regs i b e hb he (by simp) hn]

/-- A part after the end of a command. -/
theorem Frame.part {s t : State} (h : Frame [] [] s t) (p : Part) : p.same s t := h.parts p (by simp)

/-- ET after the end of a command. -/
theorem Frame.et {s t : State} (h : Frame [] [] s t) : t.et = s.et := by
  have k : t.eph.core = s.eph.core := h.part .eph
  have h1 := congrArg Eph.baseEt k
  have h2 := congrArg Eph.baseRaw k
  have h3 := congrArg Eph.increment k
  have h4 := congrArg Eph.raw k
  simp only [Eph.core] at h1 h2 h3 h4
  simp only [State.et, State.etAt, h1, h2, h3, h4]

end Sys2Proof.Machine
end

