-- ==== Sys2Proof/Laws/Request.lean ====
section
/-! SUPPORT. Requests of sessions: what a request that is performed comes to, what a write that no abort stops does, and that the session
is answered. -/

namespace Sys2Proof.Machine

theorem State.accepted_alm (s : State) (x : Session) (seq : Nat) : (s.accepted x seq).alm = taken s x seq := rfl

/-- A request that is ready is performed in its session, and its answer is sent. -/
theorem request_performed {s : State} {r : Req} {x : Session} (h : Heard s r x) (a : Ask) (hc : a ≠ .close) :
    s.request r a = ((s.accepted x r.seq).perform x a).1.sendPdu x.transport (some x.keyOut)
      ⟨a.opcode, ((s.accepted x r.seq).perform x a).2.flags, x.id, r.seq, ((s.accepted x r.seq).perform x a).2.payload⟩ := by
  have room : (s.accepted x r.seq).tooMany x a = false := by
    have : (s.accepted x r.seq).outstanding x.id = s.outstanding x.id := rfl
    simp only [State.tooMany, this, Bool.and_eq_false_iff, decide_eq_false_iff_not]
    exact Or.inr (by have := h.room; omega)
  rw [State.request, h.server]
  simp only [Bool.not_true, Bool.false_eq_true, if_false, h.session, h.transport, if_true]
  rw [State.serve, h.fresh]
  simp only [Bool.not_true, Bool.false_eq_true, if_false]
  rw [if_neg (fun k => k.elim h.last (fun k => hc k.1))]
  have e : (s.modSession x.id (fun y => y.take r.seq s.raw)).answerTo x a = (s.accepted x r.seq).perform x a := by
    rw [State.answerTo]
    exact if_neg (by rw [show (s.modSession x.id (fun y => y.take r.seq s.raw)).tooMany x a = false from room]; decide)
  rw [e]

theorem fieldsAt_of_objAt {index sub : Nat} {f : Field} (h : objAt index sub = some f) : (fieldsAt index).isEmpty = false := by
  unfold objAt at h
  cases hf : fieldsAt index with
  | nil => rw [hf] at h; simp [fieldIn] at h
  | cons a l => rfl

theorem lookupObject_ok {s : State} {index sub : Nat} {f : Field} (h : objAt index sub = some f) (h15 : s.stage ≠ 15) :
    s.lookupObject index sub = .ok f := by
  rw [State.lookupObject, if_neg (by simp [h15, fieldsAt_of_objAt h]), h]
  simp [h15]

/-- None of a list of aborts applies. -/
theorem firstAbort_none {l : List (Bool × Abort)} (h : ∀ y ∈ l, y.1 = false) : firstAbort l = none := by
  rw [firstAbort, List.find?_eq_none.mpr (fun y hy => by rw [h y hy]; decide)]
  rfl

/-- The payload of the answer to a write: a COMMAND's is the sequence it takes (R64, R77). -/
def State.writeAnswer (s : State) (command : Bool) (index sub : Nat) : List Byte :=
  match command, resultOf index sub with
  | true, some r => beBytes 4 (s.nextSeq r)
  | _, _ => []

/-- A WRITE or COMMAND that no abort stops has the object's effect (R55, R64, R559). -/
theorem writeReply_ok {s : State} {x : Session} {command : Bool} {index sub typeCode : Nat} {bytes : List Byte} {f : Field} {v : Value}
    (hobj : objAt index sub = some f) (h15 : s.stage ≠ 15)
    (hform : (State.wrongForm f false || f.acc == .ro || f.acc == .st) = false)
    (hcmd : command = true → (resultOf index sub).isSome = true) (hrole : State.writeRole index sub ≤ x.role)
    (hty : typeCode = f.ty.code) (hdec : decodeValue f.ty bytes = some v) (hlen : 4 + bytes.length ≤ x.maxPayload)
    (hchk : ∀ y ∈ s.commandChecks x.id index sub, y.1 = false) (hst : s.writeBarred index sub = false)
    (hrng : s.valueInRange index sub f v = true) :
    s.writeReply x command index sub typeCode bytes =
      (s.writeEffect x.id index sub v, .answer (s.writeAnswer command index sub)) := by
  have h1 : (s.stage == 15 && index == 0xB100) = false := by simp [h15]
  have h2 : (command && (resultOf index sub).isNone) = false := by
    cases command
    · rfl
    · have := hcmd rfl
      cases hr : resultOf index sub
      · rw [hr] at this; cases this
      · rfl
  have hc : s.checkObject index sub (fun f =>
      [(State.wrongForm f false || f.acc == .ro || f.acc == .st || (s.stage == 15 && index == 0xB100) ||
        (command && (resultOf index sub).isNone), .access),
       (decide (x.role < State.writeRole index sub), .role),
       (typeCode != f.ty.code || (decodeValue f.ty bytes).isNone, .type),
       (decide (x.maxPayload < 4 + bytes.length), .length)] ++ s.commandChecks x.id index sub ++
      [(s.writeBarred index sub, .state),
       (!(((decodeValue f.ty bytes).map (s.valueInRange index sub f)).getD false), .range)]) = .ok f := by
    rw [State.checkObject, lookupObject_ok hobj h15]
    dsimp only
    rw [firstAbort_none]
    intro y hy
    simp only [List.mem_append, List.mem_cons, List.not_mem_nil, or_false] at hy
    rcases hy with ((rfl | rfl | rfl | rfl) | hy) | rfl | rfl
    · rw [hform, h1, h2]; rfl
    · simp; omega
    · simp [hty, hdec]
    · simp; omega
    · exact hchk y hy
    · exact hst
    · simp [hdec, hrng]
  rw [State.writeReply.eq_def, hc]
  simp only [hdec, Option.getD_some, State.writeAnswer]

variable {P : List Part} {R : List (Nat × Nat)} {L : List Nat} {s u : State}

/-- A PDU after the end of the command that sent it. -/
theorem sent_settled {t : State} {w : Transport} {key : Option (List Byte)} {p : Pdu} (hq : u.alm.hspiTx = s.alm.hspiTx)
    (hu : u.alm.udpTx = s.alm.udpTx) (h : Frame [] [] (u.sendPdu w key p) t) : Sent s t w key p := by
  have k : OnlyNotified (u.alm.withPdu w key p) t.alm := by
    have := (h.parts .alm (by simp)).2
    rwa [State.sendPdu_eq] at this
  refine OnlyNotified.trans (OnlyNotified.of_eq ?_ ?_) k <;> cases w <;> simp [Alm.withPdu, hq, hu]

/-- A response after the end of the command that sent it. -/
theorem responded_settled {t : State} {x : Session} {p : Pdu} (hq : u.alm.hspiTx = s.alm.hspiTx) (hu : u.alm.udpTx = s.alm.udpTx)
    (h : Frame [] [] (u.sendPdu x.transport (some x.keyOut) p) t) : Responded s t x p := sent_settled hq hu h

theorem Effect.sendPdu (h : Effect P R L s u) (t : Transport) (k : Option (List Byte)) (p : Pdu) (ma : Part.alm ∈ P) :
    Effect P R L s (u.sendPdu t k p) := by
  rw [State.sendPdu_eq]
  exact h.modAlm _ ma

/-- A request that is performed, from its effect: the session is answered, and the rest is the effect. -/
theorem Serves.of_effect {c : Instr} {r : Req} {x : Session} {a : Ask} {payload : List Byte} {f : Alm → Alm} {after : State → Prop}
    (he : Sys2Proof.Machine.exec c s = complete s (fun s => s.request r a)) (h0 : s.ev.raised = []) (hR : Heard s r x)
    (hc : a ≠ .close) (hp : (s.accepted x r.seq).perform x a = (u, .answer payload))
    (hf : Effect (.alm :: P) R L (s.accepted x r.seq) u) (small : ∀ n ∈ L, n < 128)
    (hq : u.alm.hspiTx = s.alm.hspiTx) (hu : u.alm.udpTx = s.alm.udpTx) (ha : u.alm.core = (f (taken s x r.seq)).core)
    (hafter : ∀ t, Frame [.alm] [] u t → after t) : Serves c s r x a.opcode payload f P R L after := by
  have hreq : s.request r a = u.sendPdu x.transport (some x.keyOut) ⟨a.opcode, 1, x.id, r.seq, payload⟩ := by
    rw [request_performed hR a hc, hp]
    rfl
  have base : Effect (.alm :: P) R [] s (s.accepted x r.seq) := by
    unfold State.accepted State.modSession
    exact Effect.modAlm Effect.start _ List.mem_cons_self
  have all := (base.trans hf).sendPdu x.transport (some x.keyOut) ⟨a.opcode, 1, x.id, r.seq, payload⟩ (by simp)
  refine Does.of_effect he h0 (by rw [hreq]; exact all) small (fun t ht _ => ?_)
  rw [hreq] at ht
  refine ⟨⟨responded_settled hq hu ht, ?_⟩, hafter t ?_⟩
  · have k : t.alm.core = _ := (ht.parts .alm (by simp)).1
    rw [k, ← ha]
    rw [State.sendPdu_eq]
    cases x.transport <;> rfl
  · have sent : Effect [.alm] [] [] u (u.sendPdu x.transport (some x.keyOut) ⟨a.opcode, 1, x.id, r.seq, payload⟩) :=
      Effect.start.sendPdu _ _ _ (by simp)
    exact sent.frame.andEnd ht

theorem Quiet.sendPdu {t : State} {w : Transport} {k : Option (List Byte)} {p : Pdu} (h : Quiet (u.sendPdu w k p) t) : Quiet u t := by
  cases w <;> exact ⟨h.settled, h.ev, h.value⟩

/-- The same for a request that raises nothing. -/
theorem Serves.of_quiet {c : Instr} {r : Req} {x : Session} {a : Ask} {payload : List Byte} {f : Alm → Alm} {after : State → Prop}
    (he : Sys2Proof.Machine.exec c s = complete s (fun s => s.request r a)) (h0 : s.ev.raised = []) (hR : Heard s r x)
    (hc : a ≠ .close) (hp : (s.accepted x r.seq).perform x a = (u, .answer payload))
    (hf : Effect (.alm :: P) R [] (s.accepted x r.seq) u)
    (hq : u.alm.hspiTx = s.alm.hspiTx) (hu : u.alm.udpTx = s.alm.udpTx) (ha : u.alm.core = (f (taken s x r.seq)).core)
    (hafter : ∀ t, Frame [.alm] [] u t → Quiet u t → after t) : Serves c s r x a.opcode payload f P R [] after := by
  have hreq : s.request r a = u.sendPdu x.transport (some x.keyOut) ⟨a.opcode, 1, x.id, r.seq, payload⟩ := by
    rw [request_performed hR a hc, hp]
    rfl
  have base : Effect (.alm :: P) R [] s (s.accepted x r.seq) := by
    unfold State.accepted State.modSession
    exact Effect.modAlm Effect.start _ List.mem_cons_self
  have all := (base.trans hf).sendPdu x.transport (some x.keyOut) ⟨a.opcode, 1, x.id, r.seq, payload⟩ (by simp)
  refine Does.of_quiet he h0 (by rw [hreq]; exact all) (fun t ht _ hqu => ?_)
  rw [hreq] at ht hqu
  refine ⟨⟨responded_settled hq hu ht, ?_⟩, hafter t ?_ hqu.sendPdu⟩
  · have k : t.alm.core = _ := (ht.parts .alm (by simp)).1
    rw [k, ← ha]
    rw [State.sendPdu_eq]
    cases x.transport <;> rfl
  · have sent : Effect [.alm] [] [] u (u.sendPdu x.transport (some x.keyOut) ⟨a.opcode, 1, x.id, r.seq, payload⟩) :=
      Effect.start.sendPdu _ _ _ (by simp)
    exact sent.frame.andEnd ht

/-- A request that is turned away: the session is answered with the abort, and nothing else has changed. -/
theorem Aborts.of_perform {c : Instr} {r : Req} {x : Session} {a : Ask} {b : Abort} {index sub elem : Nat}
    (he : Sys2Proof.Machine.exec c s = complete s (fun s => s.request r a)) (h0 : s.ev.raised = []) (hR : Heard s r x)
    (hc : a ≠ .close) (hp : ((s.accepted x r.seq).perform x a) = (s.accepted x r.seq, .abort b index sub elem)) :
    Aborts c s r x a.opcode b.code index sub elem := by
  have hreq : s.request r a = (s.accepted x r.seq).sendPdu x.transport (some x.keyOut)
      ⟨a.opcode, 3, x.id, r.seq, (Reply.abort b index sub elem).payload⟩ := by
    rw [request_performed hR a hc, hp]
    rfl
  have base : Effect [.alm] [] [] s (s.accepted x r.seq) := by
    unfold State.accepted State.modSession
    exact Effect.modAlm Effect.start _ List.mem_cons_self
  have all := base.sendPdu x.transport (some x.keyOut) ⟨a.opcode, 3, x.id, r.seq, (Reply.abort b index sub elem).payload⟩ (by simp)
  refine Does.of_effect he h0 (by rw [hreq]; exact all) (by simp) (fun t ht _ => ?_)
  rw [hreq] at ht
  refine ⟨responded_settled (u := s.accepted x r.seq) rfl rfl ht, ?_⟩
  have k : t.alm.core = _ := (ht.parts .alm (by simp)).1
  rw [k]
  cases x.transport <;> simp [State.sendPdu, Alm.core, State.accepted_alm]

/-! ## Rows that write one number to one object -/

theorem own_eq {index sub : Nat} {f : Field} {v : Int} (hobj : objAt index sub = some f)
    (hrt : decodeValue f.ty (encodeValue f.ty (.int v)) = some (.int v)) :
    Ask.own index sub v = .write (resultOf index sub).isSome index sub f.ty.code (encodeValue f.ty (.int v)) := by
  rw [Ask.own, hobj]
  exact if_pos hrt

/-- A host's row that writes a number to an object, when no abort stops it: the object's own effect, and its answer. -/
theorem Serves.of_row {c : Instr} {r : Req} {x : Session} {index sub : Nat} {v : Int} {f : Field} {g : Alm → Alm}
    {after : State → Prop} (he : Sys2Proof.Machine.exec c s = State.ownWrite s r index sub v) (h0 : s.ev.raised = [])
    (hR : Ready s r x) (hobj : objAt index sub = some f) (hrt : decodeValue f.ty (encodeValue f.ty (.int v)) = some (.int v))
    (hform : (State.wrongForm f false || f.acc == .ro || f.acc == .st) = false) (hrole : State.writeRole index sub ≤ x.role)
    (hlen : 16 ≤ x.maxPayload) (hsize : (encodeValue f.ty (.int v)).length ≤ 12)
    (hchk : ∀ y ∈ s.commandChecks x.id index sub, y.1 = false) (hst : s.writeBarred index sub = false)
    (hrng : s.valueInRange index sub f (.int v) = true) (he' : (s.accepted x r.seq).writeEffect x.id index sub (.int v) = u)
    (hf : Effect (.alm :: P) R L (s.accepted x r.seq) u) (small : ∀ n ∈ L, n < 128)
    (hq : u.alm.hspiTx = s.alm.hspiTx) (hu : u.alm.udpTx = s.alm.udpTx) (ha : u.alm.core = (g (taken s x r.seq)).core)
    (hafter : ∀ t, Frame [.alm] [] u t → after t) :
    Serves c s r x (if (resultOf index sub).isSome then 0x0A else 0x02) (s.writeAnswer (resultOf index sub).isSome index sub) g P R L
      after := by
  have hp : (s.accepted x r.seq).perform x (.write (resultOf index sub).isSome index sub f.ty.code (encodeValue f.ty (.int v))) =
      (u, .answer (s.writeAnswer (resultOf index sub).isSome index sub)) := by
    rw [← he']
    exact writeReply_ok hobj hR.normal hform (fun k => k) hrole rfl hrt (by omega) hchk hst hrng
  refine Serves.of_effect (a := .write (resultOf index sub).isSome index sub f.ty.code (encodeValue f.ty (.int v))) ?_ h0 hR.toHeard
    (by simp) hp hf small hq hu ha hafter
  rw [he, State.ownWrite, own_eq hobj hrt]

/-- A command object's checks pass when its result RECORD is IDLE; staging and commit commands have more (R79). -/
theorem commandChecks_ok {x : Session} {index sub result : Nat} (hc : commandOf index = none) (hr : resultOf index sub = some result)
    (h0 : s.num result 0x02 = 0) (h1 : index ≠ 0x1200) (h2 : index ≠ 0x1F02) :
    ∀ y ∈ s.commandChecks x.id index sub, y.1 = false := by
  intro y hy
  have e : s.resultState result = 0 := h0
  rw [State.commandChecks.eq_def, hc, hr] at hy
  simp only [List.mem_cons, List.not_mem_nil, or_false] at hy
  rcases hy with rfl | rfl | rfl <;> simp [e, h1, h2]

/-- An object that is no command has no checks of commands. -/
theorem commandChecks_none {x : Session} {index sub : Nat} (hc : commandOf index = none) (hr : resultOf index sub = none) :
    ∀ y ∈ s.commandChecks x.id index sub, y.1 = false := by
  intro y hy
  rw [State.commandChecks.eq_def, hc, hr] at hy
  cases hy

end Sys2Proof.Machine
end

