-- ==== Sys2Proof/WellFormed.lean ====
section
/-! DEFINITION. Well-formed commands: the operands are ones that the bits of the spec's encodings, or the number of the device's parts,
can carry. A command's meaning does not depend on it. -/

namespace Sys2Proof

/-- A number that a field of n bits holds. -/
def fits (bits n : Nat) : Bool := decide (n < 2 ^ bits)

/-- A request's envelope fits the header of R62. -/
def Req.wf (r : Req) : Bool := fits 32 r.session && fits 32 r.seq

/-- A command whose operands fit their fields: indices, subindices, type codes and element numbers of R53, R54 and R64, the openings of
R69, TDC fractions of R108 (25 of 0.1 ns or 128 of 19.5 ps in a tick), the number of parts that a sample covers. -/
def Instr.wellFormed : Instr → Bool
  | .registerWrite r index sub _ => r.wf && fits 16 index && fits 8 sub
  | .read r index sub _ => r.wf && fits 16 index && fits 8 sub
  | .write r index sub typeCode _ => r.wf && fits 16 index && fits 8 sub && fits 8 typeCode
  | .stage r index sub typeCode _ => r.wf && fits 16 index && fits 8 sub && fits 8 typeCode
  | .commit r => r.wf
  | .discard r => r.wf
  | .blockRead r index sub first count _ => r.wf && fits 16 index && fits 8 sub && fits 16 first && fits 16 count
  | .blockWrite r index sub first count _ _ => r.wf && fits 16 index && fits 8 sub && fits 16 first && fits 16 count
  | .subscribe r index sub mode minInterval period => r.wf && fits 16 index && fits 8 sub && fits 8 mode && fits 16 minInterval && fits 16 period
  | .command r index sub typeCode _ => r.wf && fits 16 index && fits 8 sub && fits 8 typeCode
  | .openSession _ role maxPayload qh nh hash => fits 8 role && fits 16 maxPayload && qh.length == 97 && nh.length == 32 && hash.length == 48
  | .close r => r.wf
  | .opcodeUnknown r opcode => r.wf && fits 8 opcode
  | .resultAck r result => r.wf && fits 16 result
  | .commandComplete result => fits 16 result
  | .restartCmd r => r.wf
  | .stageDefaultsCmd r => r.wf
  | .paceWindow completions => completions.length == 5
  | .avsLoopPeriod replies => replies.length == 5
  | .reloadCmd r _ => r.wf
  | .quietCmd r => r.wf
  | .incrementWrite r _ => r.wf
  | .stepNow r => r.wf
  | .stepNextSecond r => r.wf
  | .offsetReport r _ => r.wf
  | .refPresentWrite r _ => r.wf
  | .ptpMessageReceive _ _ tdc => decide (tdc < 25)
  | .ptpMessageTransmit _ msgType seqId tdc => fits 4 msgType && fits 16 seqId && decide (tdc < 25)
  | .tcForwardSync _ _ _ rx tdc => decide (rx.tdc < 25) && decide (tdc < 25)
  | .txtsClear r _ => r.wf
  | .armAtWrite r _ _ => r.wf
  | .irigFrame pulses => fits 7 pulses.tdc
  | .txDescriptorPost _ cls frame => frame.isSome || cls == 0
  | .gooseFrameReceive _ msg => decide (msg.tdc < 25)
  | .dramScrubPass _ words => words.all (fun w => fits 29 w.2)
  | .tiEdge _ _ tdc => fits 7 tdc
  | .ppsEdge tdc _ => fits 7 tdc
  | .fixedRateSample codes => codes.length == 48
  | .syncResetCmd r => r.wf
  | .supClear r index => r.wf && fits 16 index
  | .counterClear r index sub _ => r.wf && fits 16 index && fits 8 sub
  | .frameReceive _ _ _ tdc => decide (tdc < 25)
  | .prpEntryForget _ source => source.length == 6
  | .pauseFrameReceive _ quanta => fits 16 quanta
  | .cfgFrameReceive stream _ => decide (1 ≤ stream ∧ stream ≤ 4095)
  | .tcpConnectAttempt stream _ => decide (1 ≤ stream ∧ stream ≤ 4095)
  | .tcpRetryExpiry stream => decide (1 ≤ stream ∧ stream ≤ 4095)
  | .tcpCfgWaitTimeout stream => decide (1 ≤ stream ∧ stream ≤ 4095)
  | .tcpStreamFrame stream segment => decide (1 ≤ stream ∧ stream ≤ 4095) && decide (segment.tdc < 25)
  | .streamSilentTimeout stream => decide (1 ≤ stream ∧ stream ≤ 4095)
  | .lateClear r stream => r.wf && fits 16 stream
  | .spectroResetCmd r _ => r.wf
  | .alarmAck r _ => r.wf
  | .almForce r _ _ => r.wf
  | .badCommand _ cmd => fits 16 cmd
  | .gooseTalExpired sub => fits 8 sub
  | .reenableCmd r => r.wf
  | .countSet r _ _ => r.wf
  | .pmResetCmd r _ => r.wf
  | .pmSnapshotCmd r => r.wf
  | .stationTriggerEdge tdc => fits 7 tdc
  | .triggerCmd r _ => r.wf
  | .resumeCmd r => r.wf
  | .releaseCmd r _ => r.wf
  | .exportCmd r _ => r.wf
  | .exportSeek r _ => r.wf
  | .logSelect r _ => r.wf
  | .logClear r => r.wf
  | .flashClear r => r.wf
  | .selftestCmd r => r.wf
  | .generate r => r.wf
  | .deriveSlot r => r.wf
  | .importKey r => r.wf
  | .destroy r => r.wf
  | .sign r => r.wf
  | .verify r => r.wf
  | .encrypt r => r.wf
  | .decrypt r => r.wf
  | .mac r => r.wf
  | .derive r => r.wf
  | .wrap r => r.wf
  | .attest r => r.wf
  | .tamperLoopSample millivolts => millivolts.length == 4
  | .tamperClearCmd r => r.wf
  | .poll frame => frame.length == 16
  | .handoverCmd r => r.wf
  | .prepare r => r.wf
  | .download r _ first _ => r.wf && fits 16 first
  | .fwVerify r => r.wf
  | .activate r => r.wf
  | .abandon r => r.wf
  | .enterRecovery r => r.wf
  | .eventAck r source => r.wf && fits 16 source
  | .counterSnapshotCmd r => r.wf
  | .monitorSample temperatures rails => temperatures.length == 6 && rails.length == 9
  | .commitValidationEnd | .commitActivate | .sessionIdleTimeout .. | .subscriptionPeriod .. | .onChangeIntervalExpiry ..
  | .readStatus | .writePdu .. | .readPdu .. | .hspiIntRearm | .zonovMessageReceive .. | .zonovLinkDown .. | .avsAtLimit ..
  | .lanePaceReport .. | .spillLeaseExpiry .. | .laneReloadComplete .. | .quietEntryComplete | .wakeAtExpiry
  | .incrementApply | .stepApply | .refTimeout | .holdoverLimitExpiry | .servoMeasurement .. | .leapSecond
  | .ptpAnnounceTimeout .. | .tcForwardFollowUp .. | .tcResidenceExpiry .. | .toOneShotEdge .. | .toPeriodicEdge ..
  | .toPulseEnd .. | .irigReferenceTimeout | .ppsReferenceTimeout | .trackedSample | .trackedCycleBoundary
  | .syncResetSampleZero | .bayReport .. | .openWireSample .. | .shortEvaluation .. | .prpSupervisionTransmit ..
  | .pauseRepeat .. | .pauseExpiry .. | .pauseLimit .. | .pauseLimitEnd .. | .portLinkChange ..
  | .ingestQueueWrite .. | .frameMatch .. | .wMinStrobe .. | .partialReceive .. | .noticeReceive .. | .deadlineNotice ..
  | .mergeClose .. | .transitRelease | .transitRateChanged | .taskDispatch .. | .interAreaUpdate .. | .localBlockReceive ..
  | .bandContribution .. | .bandMergeClose | .shapeAnswer | .horizonEvaluation | .lomHalfCycle .. | .lomHoldExpiry ..
  | .alarmDelivery | .minOnExpiry .. | .almPulseEnd .. | .egressTcpConnect .. | .cmdDataOff .. | .cmdDataOn ..
  | .cmdSendHeader .. | .cmdSendCfg1 .. | .cmdSendCfg2 .. | .cmdSendCfg3 .. | .gooseStateChange .. | .gooseRetransmit ..
  | .orrerySnapshot | .orreryEvaluationEnd | .orreryOutputWrite | .orreryStart | .boShortDetect ..
  | .boShortRetry .. | .boLoadSense .. | .biSample .. | .pmCycleEnd .. | .pmSave | .pmSnapshotComplete | .demandBoundary ..
  | .plateComplete | .rearmExpiry | .autoTrigger | .xtrigRelease | .exportChunkReady .. | .flashMirrorWrite ..
  | .logBlockReady .. | .compress .. | .decompress .. | .compressJobStop .. | .compressJobResume .. | .tamperLatch ..
  | .pairClaim | .actingStart | .peerClaimChange .. | .deposeAssert | .deposeRestart | .pairLinkChanged ..
  | .outputImageReceive .. | .blockStateReceive .. | .tieStateReceive .. | .pmRegisterMirror .. | .bandSummaryMirror ..
  | .gooseCountMirror .. | .pairHoldExpiry | .witnessPollPeriod | .status .. | .statusTimeout .. | .witnessDepose ..
  | .permitLapse | .witnessLost | .resetNRelease .. | .stagePuf .. | .stageRom | .stageStage2 | .stageMain | .stageMicrocode
  | .stageCalibration .. | .acquisitionEnd | .acquisitionTimeout | .watchdogExpiry | .configSave | .trialEnd .. | .irqRearm ..
  | .snapPeriodExpiry | .resetNAssert | .wakeComplete .. | .boShortRetryHold .. | .deposeRelease => true

end Sys2Proof
end

