-- ==== Sys2Proof/Tests/Slice0.lean ====
section
/-! SUPPORT. Tests: ill-formed commands that the well-formedness check refuses, states that meet the hypotheses of the statements, and
single steps checked against values taken from the manual. -/

namespace Sys2Proof.Tests

open Sys2Proof Sys2Proof.Machine

set_option Elab.async false

/-! ## States for tests -/

/-- A settled state from any other: the end of a command that does nothing. -/
def rest (s : State) : State := s.settle s

theorem rest_settled (s : State) : (rest s).settled := settle_settled s s

/-- A unit in stage RUNNING, ACTIVE, as a SINGLE unit that acts. -/
def up : State :=
  ((State.reset.modBoot (fun b => { b with inReset := false })).setN 0xD000 1 9).setN 0xC000 5 1

/-- A CUSTODIAN session over host SPI. -/
def sess : Session := ⟨1, .hostSpi, 3, 1024, [], [], 0, 0, 0, false, 0, []⟩

/-- The unit with that session open. -/
def host : State := up.modAlm (fun a => { a with sessions := [sess], nextSession := 2 })

/-- The session's first request. -/
def req : Req := ⟨1, 1⟩


/-- The unit as it stands between commands, with that session open. -/
def base : State := rest host

/-- A number in the committed configuration. -/
def cfgN (s : State) (i b : Nat) (v : Int) : State := { s with cfg := s.cfg.set (okey i b 0) (.int v) }

/-- An element in the committed configuration. -/
def cfgE (s : State) (i b e : Nat) (v : List Byte) : State := { s with cfg := s.cfg.set (okey i b e) (.bytes v) }

/-- The raw counter at a tick. -/
def at_ (s : State) (n : Nat) : State := s.modEph (fun e => { e with raw := n })

/-- The first request of session 1 is heard. -/
def heardB (s : State) (x : Session := sess) : Bool :=
  s.serverOn && decide (s.session 1 = some x) && s.transportOn x.transport && x.accepts 1 && decide (s.outstanding x.id < 8)

theorem heard_of {s : State} {x : Session} (h : heardB s x = true) : Heard s req x := by
  simp only [heardB, Bool.and_eq_true, decide_eq_true_eq] at h
  exact ⟨h.1.1.1.1, h.1.1.1.2, h.1.1.2, h.1.2, by decide, h.2⟩

def readyB (s : State) (x : Session := sess) : Bool := heardB s x && decide (s.stage ≠ 15) && !s.restricted

theorem ready_of {s : State} {x : Session} (h : readyB s x = true) : Ready s req x := by
  simp only [readyB, Bool.and_eq_true, decide_eq_true_eq, Bool.not_eq_true'] at h
  exact ⟨heard_of h.1.1, h.1.2, h.2⟩

def writesB (s : State) (index sub : Nat) : Bool := readyB s && decide (State.writeRole index sub ≤ 3)

theorem writes_of {s : State} {index sub : Nat} (h : writesB s index sub = true) : Writes s req sess index sub := by
  simp only [writesB, Bool.and_eq_true, decide_eq_true_eq] at h
  exact ⟨ready_of h.1, h.2, by decide⟩

def commandsB (s : State) (index sub result : Nat) : Bool := writesB s index sub && decide (s.num result 2 = 0)

theorem commands_of {s : State} {index sub result : Nat} (h : commandsB s index sub result = true) :
    Commands s req sess index sub result := by
  simp only [commandsB, writesB, Bool.and_eq_true, decide_eq_true_eq] at h
  exact ⟨ready_of h.1.1, h.1.2, by decide, h.2⟩

/-- The next state that a command answers. -/
def after (c : Instr) (s : State) : Option State :=
  match Sys2Proof.Machine.exec c s with
  | .next t => some t
  | _ => none

/-! In a witness, `heardB`, `readyB`, `writesB` and `commandsB` stand for `Heard`, `Ready`, `Writes` and `Commands` of `req` in `sess`, which
they imply (`heard_of`, `ready_of`, `writes_of`, `commands_of`). -/

/-- The unit one second after its start, with HOST as the owner of the servo (0x2000:0B). -/
def second : State := rest (cfgN (at_ host 400000000) 0x2000 0xB 1)
/-! ## Well-formed commands -/

/-- A request whose session does not fit 32 bits is refused, whatever it asks; at the largest value it is accepted. -/
theorem test_wf_request :
    ([Instr.commit ⟨2 ^ 32, 1⟩, .discard ⟨1, 2 ^ 32⟩, .close ⟨2 ^ 32, 1⟩, .stageDefaultsCmd ⟨1, 2 ^ 32⟩, .restartCmd ⟨2 ^ 32, 1⟩,
      .reloadCmd ⟨2 ^ 32, 1⟩ 0, .quietCmd ⟨2 ^ 32, 1⟩, .incrementWrite ⟨2 ^ 32, 1⟩ 0, .stepNow ⟨2 ^ 32, 1⟩, .stepNextSecond ⟨2 ^ 32, 1⟩,
      .offsetReport ⟨2 ^ 32, 1⟩ 0, .refPresentWrite ⟨2 ^ 32, 1⟩ 0, .txtsClear ⟨2 ^ 32, 1⟩ 0, .armAtWrite ⟨2 ^ 32, 1⟩ 0 0,
      .syncResetCmd ⟨2 ^ 32, 1⟩, .spectroResetCmd ⟨2 ^ 32, 1⟩ 0, .alarmAck ⟨2 ^ 32, 1⟩ 0, .almForce ⟨2 ^ 32, 1⟩ 0 0,
      .reenableCmd ⟨2 ^ 32, 1⟩, .countSet ⟨2 ^ 32, 1⟩ 0 0, .pmResetCmd ⟨2 ^ 32, 1⟩ 0, .pmSnapshotCmd ⟨2 ^ 32, 1⟩,
      .triggerCmd ⟨2 ^ 32, 1⟩ 0, .resumeCmd ⟨2 ^ 32, 1⟩, .releaseCmd ⟨2 ^ 32, 1⟩ 0, .exportCmd ⟨2 ^ 32, 1⟩ 0, .exportSeek ⟨2 ^ 32, 1⟩ 0,
      .logSelect ⟨2 ^ 32, 1⟩ 0, .logClear ⟨2 ^ 32, 1⟩, .flashClear ⟨2 ^ 32, 1⟩, .selftestCmd ⟨2 ^ 32, 1⟩, .generate ⟨2 ^ 32, 1⟩,
      .deriveSlot ⟨2 ^ 32, 1⟩, .importKey ⟨2 ^ 32, 1⟩, .destroy ⟨2 ^ 32, 1⟩, .sign ⟨2 ^ 32, 1⟩, .verify ⟨2 ^ 32, 1⟩,
      .encrypt ⟨2 ^ 32, 1⟩, .decrypt ⟨2 ^ 32, 1⟩, .mac ⟨2 ^ 32, 1⟩, .derive ⟨2 ^ 32, 1⟩, .wrap ⟨2 ^ 32, 1⟩, .attest ⟨2 ^ 32, 1⟩,
      .tamperClearCmd ⟨2 ^ 32, 1⟩, .handoverCmd ⟨2 ^ 32, 1⟩, .prepare ⟨2 ^ 32, 1⟩, .fwVerify ⟨2 ^ 32, 1⟩, .activate ⟨2 ^ 32, 1⟩,
      .abandon ⟨2 ^ 32, 1⟩, .enterRecovery ⟨2 ^ 32, 1⟩, .counterSnapshotCmd ⟨2 ^ 32, 1⟩].all (fun c => !c.wellFormed)) = true ∧
    (Instr.commit ⟨2 ^ 32 - 1, 2 ^ 32 - 1⟩).wellFormed = true := by decide

/-- Indices of 16 bits, subindices and type codes of 8, elements and counts of 16 (R53, R54, R64). -/
theorem test_wf_objects :
    ([Instr.registerWrite req 65536 0 [], .registerWrite req 0 256 [], .read req 65536 0 false, .read req 0 256 false,
      .write req 65536 0 0 [], .write req 0 256 0 [], .write req 0 0 256 [], .stage req 65536 0 0 [], .stage req 0 256 0 [],
      .stage req 0 0 256 [], .command req 65536 0 0 [], .command req 0 256 0 [], .command req 0 0 256 [],
      .blockRead req 65536 0 0 0 false, .blockRead req 0 256 0 0 false, .blockRead req 0 0 65536 0 false, .blockRead req 0 0 0 65536 false,
      .blockWrite req 65536 0 0 0 [] false, .blockWrite req 0 256 0 0 [] false, .blockWrite req 0 0 65536 0 [] false,
      .blockWrite req 0 0 0 65536 [] false, .subscribe req 65536 0 0 0 0, .subscribe req 0 256 0 0 0, .subscribe req 0 0 256 0 0,
      .subscribe req 0 0 0 65536 0, .subscribe req 0 0 0 0 65536, .opcodeUnknown req 256, .resultAck req 65536, .commandComplete 65536,
      .supClear req 65536, .counterClear req 65536 0 0, .counterClear req 0 256 0, .lateClear req 65536, .download req 0 65536 [],
      .eventAck req 65536].all (fun c => !c.wellFormed)) = true ∧
    (Instr.blockWrite req 65535 255 65535 65535 [] true).wellFormed = true ∧ (Instr.write req 65535 255 255 []).wellFormed = true ∧
    (Instr.eventAck req 65535).wellFormed = true := by decide

/-- The openings of R69, and the lists whose length is a number of parts of the device. -/
theorem test_wf_lengths :
    ([Instr.openSession .hostSpi 256 0 (List.replicate 97 0) (List.replicate 32 0) (List.replicate 48 0),
      .openSession .hostSpi 0 65536 (List.replicate 97 0) (List.replicate 32 0) (List.replicate 48 0),
      .openSession .hostSpi 0 0 (List.replicate 96 0) (List.replicate 32 0) (List.replicate 48 0),
      .openSession .hostSpi 0 0 (List.replicate 97 0) (List.replicate 33 0) (List.replicate 48 0),
      .openSession .hostSpi 0 0 (List.replicate 97 0) (List.replicate 32 0) (List.replicate 47 0),
      .paceWindow [1, 2, 3, 4], .avsLoopPeriod [], .fixedRateSample (List.replicate 47 0), .prpEntryForget 0 [1, 2, 3, 4, 5],
      .tamperLoopSample [500, 500, 500], .poll (List.replicate 15 0), .monitorSample [] (List.replicate 9 0),
      .monitorSample (List.replicate 6 ⟨0⟩) []].all (fun c => !c.wellFormed)) = true ∧
    (Instr.openSession .hostSpi 255 65535 (List.replicate 97 0) (List.replicate 32 0) (List.replicate 48 0)).wellFormed = true ∧
    (Instr.fixedRateSample (List.replicate 48 0)).wellFormed = true ∧
    (Instr.monitorSample (List.replicate 6 ⟨0⟩) (List.replicate 9 0)).wellFormed = true := by decide

/-- TDC fractions of 7 bits (R108), PTP fields, pause quanta, stream numbers 1 to 4,095 and the codes of C37.118.2 and GOOSE. -/
theorem test_wf_fields :
    ([Instr.ptpMessageTransmit 0 16 0 0, .ptpMessageTransmit 0 0 65536 0, .ptpMessageTransmit 0 0 0 128, .tiEdge 0 true 128,
      .stationTriggerEdge 128, .frameReceive 0 [] true 128, .pauseFrameReceive 0 65536, .tcpRetryExpiry 0, .tcpRetryExpiry 4096,
      .irigFrame ⟨[], 128⟩, .tcpCfgWaitTimeout 4096, .txDescriptorPost 0 1 none, .tcpStreamFrame 0 ⟨0, 0, []⟩,
      .tcpStreamFrame 5 ⟨0, 25, []⟩, .streamSilentTimeout 4096, .tcpConnectAttempt 0 true,
      .badCommand 0 65536].all (fun c => !c.wellFormed)) = true ∧
    (Instr.tiEdge 0 true 127).wellFormed = true ∧ (Instr.tcpRetryExpiry 4095).wellFormed = true ∧
    (Instr.tcpRetryExpiry 1).wellFormed = true := by decide

/-- No row of the table has bits, so no word spells a command. -/
theorem test_no_word (nbits w : Nat) : decodeTableWord nbits w = none := rfl

/-! ## Witnesses: the machine as a whole -/

theorem witness_StepExecutesFrontCommand : ({ base with pending := [Instr.commit req] } : State).pending = Instr.commit req :: [] := rfl

theorem witness_StepConsumesQueueInOrder : ∃ t, step State.reset = .next t := ⟨_, rfl⟩

theorem witness_EveryStepLeavesOutputsSettled : ∃ t, step { State.reset with pending := [Instr.stageRom] } = .next t := ⟨_, rfl⟩

theorem witness_IdleStepIsOneTick : base.pending = [] ∧ base.boot.inReset = false ∧ base.settled ∧ base.eph.baseRaw ≤ base.raw := by
  have h : base.pending = [] ∧ base.boot.inReset = false ∧ base.eph.baseRaw ≤ base.raw := by decide +kernel
  exact ⟨h.1, h.2.1, rest_settled _, h.2.2⟩

/-! ## Witnesses: links, lanes, power and DRAM -/

/-- The unit at tick 5,000,000, with every lane's lease run out. -/
def late : State := rest (at_ host 5000000)

theorem witness_ZonovMessageTakesCreditAndIsDelivered :
    base.settled ∧ base.lanesOn = true ∧ base.linkState 11 ≠ 1 ∧ base.linkState 11 ≠ 2 ∧ 11 < base.fab.links.length ∧
    creditFor ((nth base.fab.links 11 ⟨[], false⟩).held.drop 0) .alarm = some false ∧
    creditFor (List.replicate 60 (.watch, false)) .release = some true := by
  exact ⟨rest_settled _, by decide +kernel⟩

theorem witness_SpillLeaseExpiryFencesLane :
    late.settled ∧ late.laneLive 3 = true ∧ late.lanesOn = true ∧ (late.lanePower 3).leaseTick + 4000000 ≤ late.raw := by
  exact ⟨rest_settled _, by decide +kernel⟩

/-- AUTO_RELOAD is off. -/
def manual : State := rest (cfgN host 0xF134 1 0)

theorem witness_LinkDownFencesLaneOrBypassesHop :
    manual.settled ∧ manual.linkDown 11 = false ∧ manual.linkDown 7 = false ∧ 11 < manual.fab.links.length ∧ manual.laneLive 3 = true ∧
    manual.cB 0xF134 1 = false := by
  exact ⟨rest_settled _, by decide +kernel⟩

/-- Lane L1 reloading, L2 FENCED, L3 FAILED. -/
def lanes : State := rest (((host.setN 0xF131 1 2).setN 0xF132 1 1).setN 0xF133 1 3)

theorem witness_LeaseRenewalAndLaneReload :
    (base.settled ∧ base.laneLive 0 = true ∧ base.lanesOn = true ∧ base.raw < (base.lanePower 0).leaseTick + 4000000) ∧
    (late.laneLive 0 = true ∧ late.lanesOn = true ∧ (late.lanePower 0).leaseTick + 4000000 ≤ late.raw) ∧
    lanes.settled ∧ lanes.laneState 1 = 2 ∧ lanes.power = 0 ∧ Commands lanes req sess 0xF134 3 0xF135 ∧ lanes.laneState 2 = 1 ∧
    lanes.laneState 3 = 3 ∧ lanes.laneState 0 = 0 := by
  have h : (base.laneLive 0 = true ∧ base.lanesOn = true ∧ base.raw < (base.lanePower 0).leaseTick + 4000000) ∧
    (late.laneLive 0 = true ∧ late.lanesOn = true ∧ (late.lanePower 0).leaseTick + 4000000 ≤ late.raw) ∧
    lanes.laneState 1 = 2 ∧ lanes.power = 0 ∧ commandsB lanes 0xF134 3 0xF135 = true ∧ lanes.laneState 2 = 1 ∧ lanes.laneState 3 = 3 ∧
    lanes.laneState 0 = 0 := by decide +kernel
  exact ⟨⟨rest_settled _, h.1⟩, h.2.1, rest_settled _, h.2.2.1, h.2.2.2.1, commands_of h.2.2.2.2.1, h.2.2.2.2.2⟩

/-- The unit entering QUIET, in QUIET with WAKE_AT passed, and waking; a pair unit that holds its claim. -/
def toQuiet : State := rest (host.setN 0xF140 1 1)
def quiet : State := rest (((host.setN 0xF140 1 2).setN 0xF140 3 5).modEph (fun e => { e with baseEt := 10 }))
def waking : State := rest (host.setN 0xF140 1 3)
def claiming : State := rest ((cfgN host 0xC000 1 1).modPar (fun p => { p with claim := true }))

theorem witness_QuietEntryAndWake :
    (base.settled ∧ Commands base req sess 0xF140 2 0xF141 ∧ base.power = 0 ∧ base.inRunning = true ∧
      (base.isPair && base.par.claim) = false) ∧
    (Commands toQuiet req sess 0xF140 2 0xF141 ∧ toQuiet.power ≠ 0) ∧
    (Commands claiming req sess 0xF140 2 0xF141 ∧ claiming.power = 0 ∧ claiming.inRunning = true ∧
      (claiming.isPair && claiming.par.claim) = true) ∧
    (toQuiet.settled ∧ toQuiet.power = 1 ∧ toQuiet.num 0xF140 3 = 0) ∧
    (quiet.settled ∧ quiet.power = 2 ∧ quiet.num 0xF140 3 ≠ 0 ∧ quiet.num 0xF140 3 ≤ quiet.et) ∧ waking.settled ∧ waking.power = 3 := by
  have h1 : commandsB base 0xF140 2 0xF141 = true ∧ base.power = 0 ∧ base.inRunning = true ∧ (base.isPair && base.par.claim) = false := by
    decide +kernel
  have h2 : commandsB toQuiet 0xF140 2 0xF141 = true ∧ toQuiet.power ≠ 0 ∧ toQuiet.power = 1 ∧ toQuiet.num 0xF140 3 = 0 := by
    decide +kernel
  have h3 : commandsB claiming 0xF140 2 0xF141 = true ∧ claiming.power = 0 ∧ claiming.inRunning = true ∧
      (claiming.isPair && claiming.par.claim) = true := by decide +kernel
  have h4 : (quiet.power = 2 ∧ quiet.num 0xF140 3 ≠ 0 ∧ quiet.num 0xF140 3 ≤ quiet.et) ∧ waking.power = 3 := by decide +kernel
  exact ⟨⟨rest_settled _, commands_of h1.1, h1.2⟩, ⟨commands_of h2.1, h2.2.1⟩, ⟨commands_of h3.1, h3.2⟩,
    ⟨rest_settled _, h2.2.2⟩, ⟨rest_settled _, h4.1⟩, rest_settled _, h4.2⟩

/-- A rail that has stood at its limit since tick 3, at a tick at which every periodic pass is due. -/
def limited : State := rest ((at_ host (24 * 3600 * tickSec)).modFab (fun f => { f with
  rails := f.rails.modify 4 (fun x => { x with limitSince := some 3 }) }))

theorem witness_PaceSupplyLoopAndScrub :
    limited.settled ∧ limited.boot.inReset = false ∧ limited.power < 2 ∧ limited.fab.paceTick + tickMs ≤ limited.raw ∧
    limited.cB 0xF100 2 = true ∧ 5 ≤ limited.stage ∧ limited.stage ≠ 15 ∧
    limited.fab.loopTick + limited.c 0xF100 7 * tickMs ≤ limited.raw ∧ (limited.rail 4).limitSince = some 3 ∧
    (limited.rail 4).limited = false ∧ 3 + tickSec ≤ limited.raw ∧
    limited.fab.scrubTick + limited.c 0xF120 0x0A * 3600 * tickSec ≤ limited.raw := by
  exact ⟨rest_settled _, by decide +kernel⟩

/-! ## Steps: links and lanes -/

/-- R51: a lane whose lease has run out is fenced, and its reload starts. -/
theorem test_lease_expiry : (after (.spillLeaseExpiry 2) late).map (fun t => (t.laneState 2, t.num 0xF132 3)) = some (2, 1) := by
  decide +kernel

/-! ## Witnesses: the Almanac -/

theorem witness_ReadReturnsValueAndChangesNothing :
    base.settled ∧ Ready base req sess ∧ req.session ≠ 0 ∧
    (∃ f, objAt 0x1018 2 = some f ∧ f.acc ≠ .wo ∧ State.rangeRole true 0x1018 ≤ sess.role ∧ State.wrongForm f false = false) ∧
    (base.accepted sess 1).barred false 0x1018 2 = false ∧ (base.accepted sess 1).notHeld 1 0x1018 2 = false ∧
    (∃ f, objAt 0x1100 2 = some f ∧ f.acc = .st ∧ State.wrongForm f false = false) ∧
    ∃ f, objAt 0xA801 2 = some f ∧ f.ty = .arr 128 4 ∧ f.acc ≠ .wo := by
  have h : readyB base = true ∧ (base.accepted sess 1).barred false 0x1018 2 = false ∧
      (base.accepted sess 1).notHeld 1 0x1018 2 = false := by decide +kernel
  exact ⟨rest_settled _, ready_of h.1, by decide, ⟨_, by rfl, by decide, by decide, by decide⟩, h.2.1, h.2.2,
    ⟨_, by rfl, by decide, by decide⟩, _, by rfl, by decide, by decide⟩

theorem witness_WriteTakesEffectAtOnce :
    Ready base req sess ∧ ∃ f, Admitted (base.accepted sess 1) sess 0xF140 2 f (.int 1) ∧ decodeValue f.ty [1] = some (.int 1) ∧
      resultOf 0xF140 2 = some 0xF141 := by
  have h : readyB base = true ∧ (∀ y ∈ (base.accepted sess 1).commandChecks 1 0xF140 2, y.1 = false) ∧
      (base.accepted sess 1).writeBarred 0xF140 2 = false ∧ State.writeRole 0xF140 2 ≤ 3 := by decide +kernel
  exact ⟨ready_of h.1, _, ⟨by rfl, by decide, by decide, h.2.2.2, h.2.1, h.2.2.1, by decide⟩, by decide, by decide⟩

/-- A session of the lowest role. -/
def observer : Session := { sess with role := 0 }

theorem witness_AbortsComeInOrder :
    base.settled ∧ Ready base req sess ∧ fieldsAt 0xFFFF = [] ∧ fieldsAt 0xF140 ≠ [] ∧ objAt 0xF140 0x7F = none ∧
    (∃ f, objAt 0xF140 1 = some f ∧ f.acc = .ro) ∧
    (∃ f, objAt 0xF140 2 = some f ∧ f.acc = .wo ∧ State.wrongForm f false = false ∧ observer.role < State.writeRole 0xF140 2 ∧
      State.writeRole 0xF140 2 ≤ sess.role ∧ decodeValue f.ty [1, 2] = none ∧ decodeValue f.ty [7] = some (.int 7) ∧
      (base.accepted sess 1).valueInRange 0xF140 2 f (.int 7) = false) ∧
    (∀ y ∈ (base.accepted sess 1).commandChecks 1 0xF140 2, y.1 = false) ∧ (base.accepted sess 1).writeBarred 0xF140 2 = false := by
  have h : readyB base = true ∧ (∀ y ∈ (base.accepted sess 1).commandChecks 1 0xF140 2, y.1 = false) ∧
      (base.accepted sess 1).writeBarred 0xF140 2 = false := by decide +kernel
  exact ⟨rest_settled _, ready_of h.1, by decide +kernel, by decide +kernel, by decide +kernel, ⟨_, by rfl, by decide⟩,
    ⟨_, by rfl, by decide, by decide, by decide, by decide, by decide, by decide, by decide⟩, h.2.1, h.2.2⟩

/-- Staging is owned by the session, and by another one. -/
def owner : State := rest (host.setN 0x1200 2 1)
def locked : State := rest (host.setN 0x1200 2 5)

theorem witness_StagingBelongsToOneSession :
    (base.settled ∧ Ready base req sess ∧ 2 ≤ sess.role ∧ base.stagingBusy = false ∧ base.stagingLocked 1 = false ∧ base.stageOwner = 0 ∧
      Commands base req sess 0x1F02 1 0x1F03) ∧
    (∃ f, objAt 0x1100 2 = some f ∧ f.acc = .st ∧ State.wrongForm f false = false ∧ State.stageRole 0x1100 2 ≤ 3 ∧
      decodeValue f.ty [0, 20] = some (.int 20) ∧ inRange f (.int 20) = true ∧ base.barred true 0x1100 2 = false) ∧
    (∃ f, objAt 0xA801 1 = some f ∧ f.acc = .st ∧ f.ty = .arr 128 4 ∧ State.downloadType 0xA801 1 = none) ∧
    (owner.settled ∧ Ready owner req sess ∧ owner.stagingLocked 1 = false ∧ owner.stageOwner = 1) ∧
    locked.settled ∧ Ready locked req sess ∧ locked.stagingBusy = false ∧ locked.stagingLocked 1 = true := by
  have h : (readyB base = true ∧ base.stagingBusy = false ∧ base.stagingLocked 1 = false ∧ base.stageOwner = 0 ∧
      commandsB base 0x1F02 1 0x1F03 = true ∧ base.barred true 0x1100 2 = false) ∧
      (readyB owner = true ∧ owner.stagingLocked 1 = false ∧ owner.stageOwner = 1) ∧
      readyB locked = true ∧ locked.stagingBusy = false ∧ locked.stagingLocked 1 = true := by decide +kernel
  exact ⟨⟨rest_settled _, ready_of h.1.1, by decide, h.1.2.1, h.1.2.2.1, h.1.2.2.2.1, commands_of h.1.2.2.2.2.1⟩,
    ⟨_, by rfl, by decide, by decide, by decide, by decide, by decide, h.1.2.2.2.2.2⟩, ⟨_, by rfl, by decide, by decide, by decide⟩,
    ⟨rest_settled _, ready_of h.2.1.1, h.2.1.2⟩, rest_settled _, ready_of h.2.2.1, h.2.2.2⟩

/-- A commit under validation of the defaults. -/
def validating : State := rest ((host.setN 0x1200 2 1).modAlm (fun a => { a with commit := .validating }))

theorem witness_CommitValidatesTheStagedSet :
    (owner.settled ∧ Ready owner req sess ∧ owner.num 0x1201 2 = 0 ∧ owner.stagingBusy = false ∧ owner.stageOwner = 1 ∧
      4 ≤ sess.maxPayload) ∧
    validating.settled ∧ validating.alm.commit = .validating ∧ validating.transitsRun = false ∧
    (validating.session validating.stageOwner).isSome = true := by
  have h : (readyB owner = true ∧ owner.num 0x1201 2 = 0 ∧ owner.stagingBusy = false ∧ owner.stageOwner = 1 ∧ 4 ≤ sess.maxPayload) ∧
    validating.alm.commit = .validating ∧ validating.transitsRun = false ∧ (validating.session validating.stageOwner).isSome = true := by
    decide +kernel
  exact ⟨⟨rest_settled _, ready_of h.1.1, h.1.2⟩, rest_settled _, h.2⟩

/-- A set that passes validation, and one that does not: an IDLE_TIMEOUT of 5 s is below its range. -/
theorem witness_CommitValidatesTheStagedSet_sets :
    base.validate base.staged = [] ∧ (base.validate (base.staged.set (okey 0x1100 2 0) (.int 5))).isEmpty = false := by decide +kernel

/-- A commit that has passed validation. -/
def quiescing : State := rest ((host.setN 0x1200 2 1).modAlm (fun a => { a with commit := .quiescing }))

theorem witness_CommitActivatesTheStagedSet :
    quiescing.settled ∧ quiescing.alm.commit = .quiescing ∧ quiescing.transitsRun = false := by
  exact ⟨rest_settled _, by decide +kernel⟩

/-- A PERIODIC subscription that is due, and an ON_CHANGE one whose change has waited. -/
def subscribed : State := rest ((at_ host 4000000000).modAlm (fun a => { a with
  subs := [⟨1, 1, 0x1018, 2, false, 0, 10, 0, none, false⟩, ⟨2, 1, 0x1018, 2, true, 1, 0, 0, some 5, true⟩] }))

/-- A session that was granted 4 bytes. -/
def tiny : State := rest (up.modAlm (fun a => { a with sessions := [{ sess with maxPayload := 4 }] }))

theorem witness_SubscriptionsNotify_short :
    tiny.settled ∧ Ready tiny req { sess with maxPayload := 4 } ∧ 8 ≤ sess.maxPayload := by
  have h : readyB tiny { sess with maxPayload := 4 } = true ∧ 8 ≤ sess.maxPayload := by decide +kernel
  exact ⟨rest_settled _, ready_of h.1, h.2⟩

theorem witness_SubscriptionsNotify :
    subscribed.settled ∧ Ready subscribed req sess ∧ (subscribed.alm.subs.filter (fun y => y.session = 1)).length < 64 ∧
    subscribed.alm.subs.length < 256 ∧ (∃ f, objAt 0x1018 2 = some f ∧ State.wrongForm f false = false ∧ f.acc ≠ .wo) ∧
    State.rangeRole false 0x1018 ≤ sess.role ∧ subscribed.barred false 0x1018 2 = false ∧
    (∃ y ∈ subscribed.alm.subs, y.id = 1 ∧ y.session = 1) ∧ subscribed.session 1 = some sess ∧ subscribed.notifyDepth 1 < 128 ∧
    (∃ y, subscribed.alm.subs.find? (fun z => z.id = 1) = some y ∧ y.session = 1 ∧ y.onChange = false ∧ y.due ≤ subscribed.raw) ∧
    ∃ y, subscribed.alm.subs.find? (fun z => z.id = 2) = some y ∧ y.session = 1 ∧ y.onChange = true ∧ y.waiting = true ∧
      y.lastSent = some 5 ∧ 5 + y.minInterval * tickMs ≤ subscribed.raw := by
  have h : readyB subscribed = true ∧ subscribed.alm.subs = [⟨1, 1, 0x1018, 2, false, 0, 10, 0, none, false⟩,
      ⟨2, 1, 0x1018, 2, true, 1, 0, 0, some 5, true⟩] ∧ subscribed.barred false 0x1018 2 = false ∧
      subscribed.session 1 = some sess ∧ subscribed.notifyDepth 1 < 128 ∧ 5 + 1 * tickMs ≤ subscribed.raw := by decide +kernel
  obtain ⟨h1, h2, h3, h4, h5, h6⟩ := h
  refine ⟨rest_settled _, ready_of h1, ?_, ?_, ⟨_, by rfl, by decide, by decide⟩, by decide, h3, ?_, h4, h5, ?_, ?_⟩
  all_goals rw [h2]
  · decide
  · decide
  · decide
  · exact ⟨_, by rfl, by decide, by decide, Nat.zero_le subscribed.raw⟩
  · exact ⟨⟨2, 1, 0x1018, 2, true, 1, 0, 0, some 5, true⟩, by rfl, by decide, by decide, by decide, by rfl, h6⟩

/-- Eight sessions, and the key of the role CUSTODIAN in KS11. -/
def keyed : State := rest (host.modKeys (fun k => { k with loaded := [⟨11, 0, List.replicate 48 7, []⟩] }))
def full : State := rest (up.modAlm (fun a => { a with sessions := List.replicate 8 sess }))

theorem witness_SessionsOpenAndClose :
    (full.settled ∧ full.serverOn = true ∧ full.transportOn .hostSpi = true ∧ full.sessionLimit ≤ full.alm.sessions.length) ∧
    (keyed.settled ∧ keyed.serverOn = true ∧ keyed.transportOn .hostSpi = true ∧ keyed.alm.sessions.length < keyed.sessionLimit ∧
      keyed.roleKey 3 = some (List.replicate 48 7)) ∧
    (keyed.settled ∧ Heard keyed req sess) ∧ keyed.session 1 = some sess ∧
    keyed.raw < sess.lastValid + keyed.c 0x1100 2 * tickSec ∧
    sess.lastValid + subscribed.c 0x1100 2 * tickSec ≤ (at_ subscribed (2 ^ 60)).raw := by
  have h : (full.serverOn = true ∧ full.transportOn .hostSpi = true ∧ full.sessionLimit ≤ full.alm.sessions.length) ∧
    (keyed.serverOn = true ∧ keyed.transportOn .hostSpi = true ∧ keyed.alm.sessions.length < keyed.sessionLimit ∧
      keyed.roleKey 3 = some (List.replicate 48 7)) ∧ heardB keyed = true ∧ keyed.session 1 = some sess ∧
    keyed.raw < sess.lastValid + keyed.c 0x1100 2 * tickSec ∧
    sess.lastValid + subscribed.c 0x1100 2 * tickSec ≤ (at_ subscribed (2 ^ 60)).raw := by decide +kernel
  exact ⟨⟨rest_settled _, h.1⟩, ⟨rest_settled _, h.2.1⟩, ⟨rest_settled _, heard_of h.2.2.1⟩, h.2.2.2⟩

/-- A command in progress whose outcome is settled, and results that are DONE and BUSY. -/
def working : State := rest (((host.setN 0x1F01 2 1).modAlm (fun a => { a with jobs := [⟨0x9801, 0, [1, 2], .none⟩] })).setN 0x9801 2 2)

theorem witness_CommandResultsFollowThePattern :
    (working.settled ∧ (commandOf 0x9801).isSome = true ∧ working.job 0x9801 = some ⟨0x9801, 0, [1, 2], .none⟩) ∧
    (Writes working req sess 0x9801 5 ∧ working.num 0x9801 2 = 2) ∧ (Writes working req sess 0x1F01 5 ∧ working.num 0x1F01 2 = 1) ∧
    Writes base req sess 0x1F01 5 ∧ base.num 0x1F01 2 = 0 ∧ Commands base req sess 0x1F00 1 0x1F01 := by
  have h : ((commandOf 0x9801).isSome = true ∧ working.job 0x9801 = some ⟨0x9801, 0, [1, 2], .none⟩) ∧
    (writesB working 0x9801 5 = true ∧ working.num 0x9801 2 = 2) ∧ (writesB working 0x1F01 5 = true ∧ working.num 0x1F01 2 = 1) ∧
    writesB base 0x1F01 5 = true ∧ base.num 0x1F01 2 = 0 ∧ commandsB base 0x1F00 1 0x1F01 = true := by decide +kernel
  exact ⟨⟨rest_settled _, h.1⟩, ⟨writes_of h.2.1.1, h.2.1.2⟩, ⟨writes_of h.2.2.1.1, h.2.2.1.2⟩, writes_of h.2.2.2.1, h.2.2.2.2.1,
    commands_of h.2.2.2.2.2⟩

/-- A PDU waits for the host. -/
def sending : State := rest (host.modAlm (fun a => { a with hspiTx := [(⟨1, 1, 1, 1, [5]⟩, none)] }))

/-- HSPI_INT_N is held since tick 0, at the last tick of its 2 µs and at the first after them. -/
def held799 : State := rest ((at_ host 799).modAlm (fun a => { a with hspiGap := some 0 }))
def held800 : State := rest ((at_ host 800).modAlm (fun a => { a with hspiGap := some 0 }))

theorem witness_HostSpiCarriesPdus_gap :
    (held799.settled ∧ held799.alm.hspiGap = some 0 ∧ held799.raw < 0 + 2 * tickUs) ∧
    held800.settled ∧ held800.alm.hspiGap = some 0 ∧ 0 + 2 * tickUs ≤ held800.raw := by
  have h : (held799.alm.hspiGap = some 0 ∧ held799.raw < 0 + 2 * tickUs) ∧ held800.alm.hspiGap = some 0 ∧
      0 + 2 * tickUs ≤ held800.raw := by decide +kernel
  exact ⟨⟨rest_settled _, h.1⟩, rest_settled _, h.2⟩

theorem witness_HostSpiCarriesPdus :
    (base.settled ∧ base.boot.inReset = false ∧ base.power ≠ 2 ∧ base.serverOn = true ∧ field [0, 1, 2] 0 2 ≠ 0x5A57 ∧
      base.alm.hspiTx = []) ∧
    sending.settled ∧ sending.boot.inReset = false ∧ sending.power ≠ 2 ∧ sending.alm.hspiTx = (⟨1, 1, 1, 1, [5]⟩, none) :: [] := by
  have h : (base.boot.inReset = false ∧ base.power ≠ 2 ∧ base.serverOn = true ∧ field [0, 1, 2] 0 2 ≠ 0x5A57 ∧ base.alm.hspiTx = []) ∧
    sending.boot.inReset = false ∧ sending.power ≠ 2 ∧ sending.alm.hspiTx = (⟨1, 1, 1, 1, [5]⟩, none) :: [] := by decide +kernel
  exact ⟨⟨rest_settled _, h.1⟩, rest_settled _, h.2⟩

/-- R62, R68: an unknown opcode is answered with abort OPCODE. -/
theorem test_unknown_opcode :
    (after (.opcodeUnknown req 0x77) base).map (fun t => t.alm.hspiTx.map (fun p => (p.1.opcode, p.1.flags, p.1.payload))) =
      some [(0x77, 3, [0, 12, 0, 0, 0, 0, 0, 0])] := by decide +kernel

/-- A READ of 0x1018:02 as a sealed PDU of session 1, under its key (R62, R63, R70). -/
def pduHead : List Byte := [0x5A, 0x57, 1, 1, 0, 0, 0, 4, 0, 0, 0, 1, 0, 0, 0, 1]
def pduSealed : List Byte × List Byte :=
  gcmSeal sess.keyIn (beBytes 4 1 ++ beBytes 4 0 ++ beBytes 4 1) pduHead [0x10, 0x18, 2, 0]
def pduBytes : List Byte := pduHead ++ pduSealed.1 ++ pduSealed.2

theorem witness_HostSpiCarriesPdus_pdu :
    pduBytes.length = field pduBytes 6 2 + 32 ∧ field pduBytes 0 2 = 0x5A57 ∧ field pduBytes 2 1 = 1 ∧
    (field pduBytes 4 2).testBit 0 = false ∧ field pduBytes 8 4 ≠ 0 ∧ base.session (field pduBytes 8 4) = some sess ∧
    gcmOpen sess.keyIn (beBytes 4 (field pduBytes 8 4) ++ beBytes 4 0 ++ beBytes 4 (field pduBytes 12 4)) (pduBytes.take 16)
        (slice pduBytes 16 (field pduBytes 6 2)) (slice pduBytes (16 + field pduBytes 6 2) 16) = some [0x10, 0x18, 2, 0] := by
  decide +kernel

/-! ## Witnesses: the Ephemeris, PTP and timed input and output -/

/-- A step that is due, one that would make ET negative, one that waits; an increment that has been written. -/
def stepping (p : PendingStep) : State := rest (second.modEph (fun e => { e with step := some p, newIncrement := some 0x0280000001 }))
def stepsOn : State := stepping ⟨5, none, true⟩
def stepsBack : State := stepping ⟨-1000000000000000000000, none, true⟩
def stepWaits : State := stepping ⟨5, some 1000000000000000000000000, true⟩

theorem witness_IncrementsAndStepsMoveTheSegment :
    (second.settled ∧ base.settled ∧ stepsOn.settled ∧ stepsBack.settled ∧ stepWaits.settled) ∧
    (writesB second 0x2000 3 = true ∧ second.c 0x2000 0x0B ≠ 0 ∧ commandsB second 0x2000 8 0x2001 = true) ∧
    (writesB base 0x2000 3 = true ∧ base.c 0x2000 0x0B = 0 ∧ commandsB base 0x2000 8 0x2001 = true) ∧
    stepsOn.eph.newIncrement = some 0x0280000001 ∧ stepsOn.eph.step = some ⟨5, none, true⟩ ∧ 0 ≤ (stepsOn.et : Int) + 5 ∧
    stepsBack.eph.step = some ⟨-1000000000000000000000, none, true⟩ ∧ (stepsBack.et : Int) + -1000000000000000000000 < 0 ∧
    stepWaits.eph.step = some ⟨5, some 1000000000000000000000000, true⟩ ∧ stepWaits.et < 1000000000000000000000000 := by
  exact ⟨⟨rest_settled _, rest_settled _, rest_settled _, rest_settled _, rest_settled _⟩, by decide +kernel⟩

/-- A reference held and lost: in ACQUIRING, LOCKED and HOLDOVER, long after its last report. -/
def quality (q : Nat) : State := rest ((at_ (second.setN 0x2000 9 q) 2000000000000).modEph (fun e => { e with refHeld := true }))

/-- The firmware servo with IRIG-B selected; a leap that is due. -/
def servo : State := rest (cfgN (host.modEph (fun e => { e with irigRun := 2 })) 0x2000 0x17 2)
def leaping : State := rest (second.modEph (fun e => { e with leapAt := some 5 }))

theorem witness_TimeQualityFollowsReports :
    (second.settled ∧ (quality 1).settled ∧ (quality 2).settled ∧ (quality 3).settled ∧ servo.settled ∧ leaping.settled) ∧
    (writesB second 0x2000 0x0C = true ∧ second.c 0x2000 0x0B ≠ 0 ∧ second.num 0x2000 9 = 0 ∧ writesB second 0x2000 0x0D = true) ∧
    (writesB (quality 1) 0x2000 0x0D = true ∧ (quality 1).c 0x2000 0x0B ≠ 0 ∧ (quality 1).eph.refHeld = true ∧ (quality 1).num 0x2000 9 = 1) ∧
    ((quality 2).num 0x2000 9 = 2 ∧ (quality 2).eph.refHeld = true ∧
      (quality 2).eph.lastReport + (quality 2).c 0x2000 0x11 * tickMs ≤ (quality 2).raw) ∧
    ((quality 3).num 0x2000 9 = 3 ∧ (quality 3).eph.qualitySince + (quality 3).c 0x2000 0x12 * tickSec ≤ (quality 3).raw) ∧
    (servo.c 0x2000 0x0B = 0 ∧ servo.started = true ∧ servo.stage ≠ 15 ∧ servo.quiet = false ∧ servo.boot.paused = false ∧
      State.refNumber .irigB ≠ 0 ∧ State.refNumber .irigB = servo.selectedRef ∧ (1000 : Int).natAbs ≤ servo.c 0x2000 0x18 * 1000 ∧
      servo.c 0x2000 0x18 * 1000 < (-10000000000000 : Int).natAbs) ∧ leaping.eph.leapAt = some 5 ∧ 5 ≤ leaping.et := by
  exact ⟨⟨rest_settled _, rest_settled _, rest_settled _, rest_settled _, rest_settled _, rest_settled _⟩, by decide +kernel⟩

/-- PTP on P0, as an ordinary clock whose port is SLAVE of nobody, and MASTER; and a transparent clock on P0 and P1. -/
def ptpUnit : State := rest ((cfgN (cfgN (cfgN (at_ second 10000000000) 0x1300 1 1) 0x2100 1 2) 0x2100 6 1).setN 0x1300 0x10 1)
def ptpListens : State := rest (ptpUnit.setN 0x2110 1 4)
def clear : State := rest ((cfgN (cfgN (cfgN (cfgN second 0x1300 1 1) 0x1310 1 1) 0x2100 1 3) 0x2100 6 3).setN 0x1310 0x10 1)
def oneStep : State := rest (cfgN clear 0x2100 7 1)

/-- A message of another clock. -/
def ptpMsg (type : Nat) : PtpMsg := { second.ptpOwn 0 type 5 7 with sourceId := List.replicate 8 1 }

/-- The port's parent is the sender of that message; a full queue of transmit timestamps; a residence that waits for its Follow_Up. -/
def ptpSlave : State := rest ((ptpUnit.setN 0x2110 1 9).modPtp (fun y => { y with
  ports := y.ports.modify 0 (fun q => { q with txts := List.replicate 32 ([], false) }) }))
def resident : State := rest (clear.modPtp (fun y => { y with
  ports := y.ports.modify 1 (fun q => { q with residence := [⟨0, (ptpMsg 8).sourceId, (ptpMsg 8).sourcePort, (ptpMsg 8).seqId, 5, 0⟩] }) }))

theorem witness_PtpEngineHandlesItsMessages :
    (base.settled ∧ ptpUnit.settled ∧ ptpListens.settled ∧ ptpSlave.settled ∧ clear.settled ∧ oneStep.settled ∧ resident.settled) ∧
    base.ptpOn 0 = false ∧ ptpUnit.ptpOn 0 = true ∧ ptpUnit.ptpSupported { ptpMsg 2 with layer2 := false } = false ∧
    ptpUnit.ptpSupported (ptpMsg 2) = true ∧ ptpUnit.ptpSupported (ptpMsg 0) = true ∧
    (0 < ptpListens.ptp.ports.length ∧ ptpListens.ptpOn 0 = true ∧ ptpListens.ptpState 0 = 4 ∧
      (ptpListens.ptpPort 0).announceTick + ptpListens.c 0x2100 0x0B * ptpListens.announceTicks ≤ ptpListens.raw) ∧
    (ptpUnit.mayTransmit 0 2 9 = true ∧ (ptpUnit.ptpPort 0).txts.length < 32) ∧
    (ptpSlave.ptpState 0 = 9 ∧ 32 ≤ (ptpSlave.ptpPort 0).txts.length) ∧ writesB base 0x2110 9 = true ∧
    (1 < clear.ptp.ports.length ∧ clear.tcPorts 0 1 = true ∧ clear.portUp 1 = true ∧ clear.pausing 1 = false ∧ clear.cB 0x2100 7 = false ∧ (clear.ptpPort 1).residence.length < 16 ∧
      (clear.ptpPort 1).residence.find? (State.tcMatches 0 (ptpMsg 8)) = none) ∧
    (oneStep.tcPorts 0 1 = true ∧ oneStep.portUp 1 = true ∧ oneStep.pausing 1 = false ∧ oneStep.cB 0x2100 7 = true) ∧
    ((resident.ptpPort 1).residence.find? (State.tcMatches 0 (ptpMsg 8))).isSome = true := by
  exact ⟨⟨rest_settled _, rest_settled _, rest_settled _, rest_settled _, rest_settled _, rest_settled _, rest_settled _⟩,
    by decide +kernel⟩

/-- TO7 in ONE_SHOT: armed, with a pulse that ends, and with one that ends while another is armed. -/
def oneShot : State := rest (cfgN second 0x2207 1 1)
def armed (at_ : Nat) : State := rest ((oneShot.setN 0x2207 8 1).setN 0x2207 7 at_)
def pulsing (rearm : Bool) : State := rest (((oneShot.setN 0x2207 8 2).setN 0x2207 7 (2 ^ 80)).modOut 7 (fun o => { o with
  active := true, rearm := rearm }))
def periodic : State := rest (((cfgN second 0x2207 1 2).setN 0x2207 8 4).modOut 7 (fun o => { o with active := true }))

theorem witness_TimedOutputsPulse :
    (second.settled ∧ oneShot.settled ∧ (armed 5).settled ∧ (armed (2 ^ 80)).settled ∧ (pulsing false).settled ∧ (pulsing true).settled ∧
      periodic.settled) ∧
    (writesB second 0x2207 7 = true ∧ second.c 0x2207 1 ≠ 1) ∧
    (writesB oneShot 0x2207 7 = true ∧ oneShot.c 0x2207 1 = 1 ∧ oneShot.num 0x2207 8 ≠ 2 ∧ oneShot.et ≤ oneShot.et ∧ 5 < oneShot.et) ∧
    (writesB (pulsing false) 0x2207 7 = true ∧ (pulsing false).num 0x2207 8 = 2) ∧
    (7 < (armed 5).eph.outs.length ∧ (armed 5).c 0x2207 1 = 1 ∧ (armed 5).num 0x2207 8 = 1 ∧ (armed 5).num 0x2207 7 ≤ (armed 5).et) ∧
    ((armed (2 ^ 80)).num 0x2207 8 = 1 ∧ (armed (2 ^ 80)).et < (armed (2 ^ 80)).num 0x2207 7) ∧
    (periodic.c 0x2207 1 = 2 ∧ periodic.num 0x2207 8 = 4 ∧ (periodic.timedOut 7).lastPeriodic = none) ∧
    ((pulsing false).timedOut 7).active = true ∧ ((pulsing false).timedOut 7).endTick ≤ (pulsing false).raw ∧
    ((pulsing false).timedOut 7).rearm = false ∧ ((pulsing true).timedOut 7).rearm = true ∧
    (pulsing true).et ≤ (pulsing true).num 0x2207 7 ∧ (periodic.timedOut 7).active = true := by
  exact ⟨⟨rest_settled _, rest_settled _, rest_settled _, rest_settled _, rest_settled _, rest_settled _, rest_settled _⟩,
    by decide +kernel⟩

/-- TI0 for IRIG-B, TI1 for PPS, TI3 for events; the same after an edge one tick ago, with valid IRIG-B, and 3 s later. -/
def inputs : State := rest (cfgN (cfgN (cfgN second 0x2213 1 1) 0x2210 1 2) 0x2211 1 3)
def edged : State := rest (inputs.modEph (fun e => { e with lastEdge := e.lastEdge.set 3 (some (400000000 * 128 - 128)) }))
def coded : State := rest (inputs.modEph (fun e => { e with irigValid := true, irigSecond := 946684799 }))
/-- 100 pulses of an IRIG-B frame of the start of 2000-01-01, whose parity bit makes the sum of the others odd or even; an edge one tick
ago on TI0 and TI1. -/
def irigPulses (parity : Nat) : List Nat :=
  (List.range 100).map (fun i => if i == 0 || i % 10 == 9 then 8000 else if i == 30 then 5000 else if i == 75 then parity else 2000)
def edgedBoth : State := rest (inputs.modEph (fun e => { e with
  lastEdge := (e.lastEdge.set 0 (some (400000000 * 128 - 128))).set 1 (some (400000000 * 128 - 128)) }))
def silent : State := rest ((at_ inputs 3000000000).modEph (fun e => { e with ppsRun := 2, irigRun := 2 }))

theorem witness_TimedInputsCapture :
    (inputs.settled ∧ edged.settled ∧ coded.settled ∧ silent.settled ∧ edgedBoth.settled) ∧
    (inputs.c 0x2213 1 = 1 ∧ inputs.edgeSelected 3 true = true ∧ nth inputs.eph.lastEdge 3 none = none ∧ inputs.recorderState = 0) ∧
    (edged.c 0x2213 1 = 1 ∧ edged.edgeSelected 3 true = true ∧ nth edged.eph.lastEdge 3 none = some (400000000 * 128 - 128) ∧
      edged.raw * 128 + 127 < (400000000 * 128 - 128) + 512) ∧
    (inputs.c 0x2210 1 = 2 ∧ inputs.eph.irigValid = false ∧ nth inputs.eph.lastEdge 0 none = none ∧ nth inputs.eph.lastEdge 1 none = none ∧
      (irigDecode (irigPulses 5000)).markersOk = true ∧ (irigDecode (irigPulses 5000)).parityOk = true ∧
      (irigDecode (irigPulses 5000)).timeQuality ≤ inputs.c 0x2210 0x0B ∧ (irigDecode (irigPulses 2000)).parityOk = false) ∧
    (edgedBoth.c 0x2210 1 = 2 ∧ edgedBoth.c 0x2211 1 = 3 ∧ nth edgedBoth.eph.lastEdge 0 none = some (400000000 * 128 - 128) ∧
      nth edgedBoth.eph.lastEdge 1 none = some (400000000 * 128 - 128) ∧ edgedBoth.raw * 128 + 127 < (400000000 * 128 - 128) + 512) ∧
    (coded.c 0x2210 1 = 2 ∧ coded.eph.irigValid = true ∧ coded.raw ≤ coded.eph.irigTick + 440000000 ∧ (irigDecode (irigPulses 5000)).codedSeconds = coded.eph.irigSecond + 1) ∧
    (inputs.c 0x2211 1 = 3) ∧ 2 ≤ silent.eph.irigRun ∧ silent.eph.irigAccepted + 3 * tickSec ≤ silent.raw ∧ 2 ≤ silent.eph.ppsRun ∧
    silent.eph.ppsAccepted + 3 * tickSec ≤ silent.raw := by
  exact ⟨⟨rest_settled _, rest_settled _, rest_settled _, rest_settled _, rest_settled _⟩, by decide +kernel⟩

/-- R114: an ARM_AT in the past is missed. -/
theorem test_arm_missed : (after (.armAtWrite req 7 5) oneShot).map (fun t => (t.num 0x2207 8, t.num 0x2207 0x0A)) = some (3, 1) := by
  decide +kernel

/-! ## Witnesses: local channels -/

/-- The sampling chain in RUNNING; with its filters filled; at a cycle boundary in TRACKING; with a synchronising reset that is due, and one
that is not. -/
def chain : State := rest (host.setN 0x3200 0x0B 3)
def filled : State := rest (chain.modLoc (fun l => { l with nextFixed := 1000 }))
def boundary : State := rest ((chain.setN 0x3200 5 1).modLoc (fun l => { l with boundaryDue := true }))
def resetDue (at_ : Nat) : State := rest (chain.modLoc (fun l => { l with waiting := some at_ }))

/-- Bay 7 at its first reporting instant, and at a late one. -/
def reporting (k : Nat) : State := rest (chain.modLoc (fun l => { l with advance := 2 ^ 32, bays := l.bays.modify 7 (fun b => { b with nextK := k }) }))

theorem witness_SamplingChainAdvances :
    (base.settled ∧ chain.settled ∧ filled.settled ∧ boundary.settled ∧ (resetDue 0).settled ∧ (resetDue 5).settled ∧
      (reporting 0).settled ∧ (reporting 1000).settled) ∧
    base.chainOn = false ∧ chain.chainOn = true ∧ 47 < chain.loc.channels.length ∧
    (filled.chainOn = true ∧ filled.loc.boundaryDue = false ∧ filled.windowReady = true) ∧ chain.windowReady = false ∧
    (boundary.loc.boundaryDue = true ∧ boundary.num 0x3200 5 = 1) ∧
    ((resetDue 0).loc.waiting = some 0 ∧ 0 ≤ (resetDue 0).et) ∧ ((resetDue 5).loc.waiting = some 5 ∧ (resetDue 5).et < 5) ∧
    (commandsB base 0x3200 7 0x3201 = true ∧ base.num 0x3200 0x0B = 0) ∧
    (commandsB chain 0x3200 7 0x3201 = true ∧ chain.num 0x3200 0x0B ≠ 0 ∧ chain.loc.waiting = none) ∧
    (7 < (reporting 0).loc.bays.length ∧ (reporting 0).chainOn = true ∧
      (reporting 0).reportSuppressed 7 0 ((reporting 0).c 0x3107 3) = true) ∧
    (nth (reporting 1000).loc.bays 7 ⟨0, 0⟩).nextK = 1000 ∧
    (reporting 1000).reportSuppressed 7 1000 ((reporting 1000).c 0x3107 3) = false := by
  exact ⟨⟨rest_settled _, rest_settled _, rest_settled _, rest_settled _, rest_settled _, rest_settled _, rest_settled _, rest_settled _⟩,
    by decide +kernel⟩

/-- Channel 47 supervised for all three conditions, with K and W of its qualifier at their defaults, or with K = 1; after one sample
outside, with the qualifier LASTING too; with the condition present, after one sample inside. -/
def supervised : State := rest (cfgN (cfgN (cfgN (cfgN chain 0x302F 1 1) 0x302F 5 1) 0x302F 6 7) 0x302F 8 2)
def outside : State := rest (supervised.modChannel 47 (fun c => { c with outRun := 1 }))
def atLimit : State := rest (cfgN (supervised.modChannel 47 (fun c => { c with outRun := 1 })) 0x302F 8 1)
def lasts : State := rest (outside.setQualifier (qkey 1 47 0) ⟨true, []⟩)
def inside : State := rest ((supervised.setN 0x302F 9 1).modChannel 47 (fun c => { c with inRun := 1 }))
def sampled : State := rest (supervised.modChannel 47 (fun c => { c with fixed := [⟨0, F32.ofInt 1, 0⟩] }))

theorem witness_SupervisionQualifiesAndClears :
    (supervised.settled ∧ outside.settled ∧ atLimit.settled ∧ inside.settled ∧ sampled.settled) ∧
    (47 < supervised.loc.channels.length ∧ supervised.num 0x3200 0x0B ≠ 0 ∧ supervised.cB 0x302F 5 = true ∧
      supervised.supEnabled 47 0 = true ∧ (supervised.channel 47).outRun = 0 ∧ (supervised.num 0x302F 9).testBit 0 = false) ∧
    (1 ≤ (outside.channel 47).outRun ∧ (outside.num 0x302F 9).testBit 0 = false ∧ outside.lasting (qkey 1 47 0) = false ∧
      (outside.qualifier (qkey 1 47 0)).history = [] ∧ 1 < outside.c 0x302F 8) ∧
    (1 ≤ (lasts.channel 47).outRun ∧ (lasts.num 0x302F 9).testBit 0 = false ∧ lasts.lasting (qkey 1 47 0) = true ∧
      lasts.supEnabled 47 0 = true) ∧
    ((atLimit.channel 47).outRun = 1 ∧ atLimit.supEnabled 47 0 = true ∧ atLimit.c 0x302F 8 ≤ 1) ∧
    (1 ≤ (inside.channel 47).inRun ∧ (inside.num 0x302F 9).testBit 0 = true ∧ inside.supEnabled 47 0 = true) ∧
    (sampled.chainOn = true ∧ sampled.cB 0x302F 1 = true ∧ (sampled.channel 47).fixed.isEmpty = false ∧ sampled.supEnabled 47 1 = true) ∧
    writesB supervised 0x302F 0x0B = true ∧ writesB supervised 0x1350 0x13 = true ∧ writesB supervised 0xE050 5 = true := by
  exact ⟨⟨rest_settled _, rest_settled _, rest_settled _, rest_settled _, rest_settled _⟩, by decide +kernel⟩

/-! ## Witnesses: network ports and stream ingest -/

/-- P5 enabled and up at 1,000 Mb/s; P0 and P1 as PRP pair 0; a frame to all stations, and one with a redundancy trailer. -/
def port5 : State := rest (((cfgN second 0x1350 1 1).setN 0x1350 0x10 1).setN 0x1350 0x11 1000)
def fullBuffer : State := rest (port5.setN 0x1350 0x12 10)
def toAll : List Byte := List.replicate 6 0xFF ++ [9, 9, 9, 9, 9, 9] ++ List.replicate 60 7
def twin : List Byte := toAll ++ rct 0xB 5 64
def prp : State := rest (((cfgN (cfgN (cfgN (cfgN second 0x1300 1 1) 0x1310 1 1) 0x1303 1 1) 0x1303 3 1).setN 0x1300 0x10 1).setN 0x1310 0x10 1)
def prpSeen : State := rest (prp.modPair 0 (fun x => { x with nodes := [⟨[9, 9, 9, 9, 9, 9], 5, 1, 0⟩] }))
def asleep : State := rest (cfgN (cfgN (cfgN (cfgN ((second.setN 0x1300 0x10 1).setN 0xF140 1 2) 0x1300 1 1) 0x130C 1 1) 0x130C 2 0) 0x130C 4 (crc16 []))
def port5Off : State := rest (cfgN second 0x1350 1 0)

/-- An entry waits in P5's receive buffer for lane L3, whose queue has room, has an entry under way, or has pointer copies that
differ. -/
def entry : IngestEntry := ⟨3, 5, 0, 0, 0, [], 0, []⟩
def queued : State := rest ((cfgN port5 0x4003 1 1).modPort 5 (fun x => { x with fifo := [(100, .fast entry)] }))
def held : State := rest (queued.modIng (fun i => { i with queues := i.queues.modify (laneOf 3) (fun q => { q with part := [⟨[], 0x80, 0⟩] }) }))
def torn : State := rest (queued.modIng (fun i => { i with queues := i.queues.modify (laneOf 3) (fun q => { q with writeA := q.writeB + 1 }) }))

theorem toAll_accepted (s : State) (p : Nat) : s.macAccepts p toAll = true := by
  have h : toAll.take 6 = List.replicate 6 0xFF := by decide
  simp [State.macAccepts, h]

theorem witness_ReceivedFramesReachTheirLane :
    (port5.macAccepts 5 toAll = true ∧ fullBuffer.macAccepts 5 toAll = true) ∧
    (port5Off.settled ∧ port5.settled ∧ fullBuffer.settled ∧ prpSeen.settled ∧ asleep.settled ∧ queued.settled ∧ held.settled ∧ torn.settled) ∧
    ((port5Off.port 5).rx = [] ∧ port5Off.portOn 5 = false) ∧
    ((port5.port 5).rx = [] ∧ port5.portOn 5 = true ∧ port5.serdesOn 5 = true ∧ port5.macCheck 5 toAll true = none ∧
      port5.quiet = false ∧ port5.occupancy 5 + toAll.length + 4 ≤ port5.rxBuffer 5) ∧
    (fullBuffer.rxBuffer 5 < fullBuffer.occupancy 5 + toAll.length + 4 ∧ 5 < fullBuffer.ing.ports.length) ∧
    (prpSeen.prpPairOf 0 = some 0 ∧ findRct twin = some (5, 0xB) ∧
      (prpSeen.pair 0).nodes.find? (fun y => y.source = slice twin 6 6) = some ⟨[9, 9, 9, 9, 9, 9], 5, 1, 0⟩ ∧
      PrpNode.accept ⟨[9, 9, 9, 9, 9, 9], 5, 1, 0⟩ 5 prpSeen.raw = none) ∧
    (asleep.power = 2 ∧ (asleep.wakeMatches 0 toAll).isEmpty = false ∧ asleep.portOn 0 = true ∧ asleep.serdesOn 0 = true ∧
      asleep.macCheck 0 toAll true = none) ∧
    ((queued.port 5).fifo = [(100, .fast entry)] ∧ laneOf 3 < 4 ∧ laneOf 3 < queued.ing.queues.length ∧ queued.queueHasRoom (laneOf 3) = true ∧ entry.port ≠ 7 ∧
      queued.ctxEnabled 3 = true ∧ queued.laneLive (laneOf 3) = true ∧ (queued.queue (laneOf 3)).writeA = (queued.queue (laneOf 3)).writeB ∧
      (queued.queue (laneOf 3)).readA = (queued.queue (laneOf 3)).readB) ∧
    (torn.queue (laneOf 3)).writeA ≠ (torn.queue (laneOf 3)).writeB ∧ torn.queueHasRoom (laneOf 3) = true ∧ (torn.queue (laneOf 3)).waiting = [] ∧
    held.queueHasRoom (laneOf 3) = false ∧ (held.port 5).fifo = [(100, .fast entry)] := by
  exact ⟨⟨toAll_accepted _ _, toAll_accepted _ _⟩, ⟨rest_settled _, rest_settled _, rest_settled _, rest_settled _, rest_settled _, rest_settled _,
    rest_settled _, rest_settled _⟩,
    by decide +kernel⟩

/-- P5 honouring pause: with frames that wait, past PAUSE_MAX, and with pause not honoured until a tick; and sending its own pause. -/
def pausable : State := cfgN port5 0x1350 0xC 1
def paused : State := rest (pausable.modPort 5 (fun x => { x with
  pausedUntil := 1000000000, honourSince := some 1, txq := [⟨0, .frame 5 [1], []⟩, ⟨3, .frame 5 [3], []⟩] }))
def pauseOver : State := rest (at_ paused 1000000000)
def ignoring : State := rest (pausable.modPort 5 (fun x => { x with ignoreUntil := some 5 }))
def posting : State := rest (port5.modAlm (fun a => { a with
  udpTx := [(⟨5, [1, 2, 3, 4, 5, 6], List.replicate 16 7, 4000⟩, ⟨1, 1, 1, 1, []⟩, none)] }))
def pressing : State := rest ((cfgN pausable 0x1350 0xA 1).modPort 5 (fun x => { x with
  pauseOn := true, fifo := [(pausable.rxBuffer 5, .slow ⟨5, [], 0, false, false, false, 0, false⟩)] }))

theorem witness_PortsPauseAndTransmit :
    (base.settled ∧ port5.settled ∧ posting.settled ∧ paused.settled ∧ pauseOver.settled ∧ ignoring.settled ∧ pressing.settled ∧ prp.settled) ∧
    (5 < port5.ing.ports.length ∧ 14 ≤ toAll.length ∧ toAll.length < 64000 ∧ asleep.serdesOn 5 = false ∧ base.portUp 5 = false ∧
      base.txRingRoom 5 (base.mgmtTagged 5 toAll).length = true ∧ base.prpPairOf 5 = none ∧ base.started = true ∧ base.quiet = false ∧
      base.boot.paused = false ∧ asleep.quiet = true) ∧
    (port5.portOn 5 = true ∧ port5.serdesOn 5 = true ∧ port5.portUp 5 = true ∧ port5.pausing 5 = false ∧ port5.prpPairOf 5 = none ∧
      port5.txRingRoom 5 (port5.mgmtTagged 5 toAll).length = true ∧ port5.contextGroups 5 = [] ∧ port5.ing.streams = []) ∧
    (prp.prpPairOf 0 = some 0 ∧ prp.txRingRoom 0 (prp.mgmtTagged 0 toAll).length = true) ∧
    (base.alm.udpTx = [] ∧ posting.portUp 5 = true ∧ posting.pausing 5 = false ∧ posting.prpPairOf 5 = none ∧
      (posting.alm.udpTx.find? (fun z => z.1.port.val = 5)).map (fun y =>
        posting.txRingRoom 5 (posting.mgmtTagged 5 (posting.pduFrame y)).length) = some true) ∧
    (paused.pausing 5 = true ∧ paused.portUp 5 = true ∧ paused.txRingRoom 5 (paused.mgmtTagged 5 toAll).length = true ∧ paused.cB 0x1350 0x0C = true ∧ (paused.port 5).honourSince = some 1 ∧
      1 + paused.c 0x1350 0x0D * tickUs ≤ paused.raw) ∧
    ((pauseOver.port 5).honourSince.isSome = true ∧ (pauseOver.port 5).pausedUntil ≤ pauseOver.raw ∧ pauseOver.portUp 5 = true) ∧
    ((ignoring.port 5).ignoreUntil = some 5 ∧ 5 ≤ ignoring.raw) ∧
    ((pressing.port 5).pauseOn = true ∧ pressing.atLow 5 = false ∧ pressing.portUp 5 = true ∧ pressing.cB 0x1350 0x0A = true ∧
      (pressing.port 5).pauseTick + pressing.quantaTicks 5 (pressing.c 0x1350 0x0B) / 2 ≤ pressing.raw) ∧
    (0 < prp.ing.pairs.length ∧ prp.started = true ∧ prp.cB 0x1303 1 = true ∧
      (prp.pair 0).supervised + prp.c 0x1303 3 * tickMs ≤ prp.raw ∧
      ∀ k, k < 2 → prp.portUp (2 * 0 + k) = true ∧ prp.pausing (2 * 0 + k) = false) := by
  exact ⟨⟨rest_settled _, rest_settled _, rest_settled _, rest_settled _, rest_settled _, rest_settled _, rest_settled _, rest_settled _⟩,
    by decide +kernel⟩

/-- Context 5 over TCP: as configured, with a port to its PDC, in CFG_WAIT, streaming, silent; a UDP context that fills itself. -/
def tcp : State := cfgN (cfgN (cfgN (cfgN (cfgN (cfgN second 0x4005 1 1) 0x4005 3 1) 0x4005 8 1) 0x4005 0xB 1000) 0x4005 2 77) 0x4005 0x19 1
def tcpReach : State := rest (cfgE (cfgN (((cfgN tcp 0x1300 1 1).setN 0x1300 0x10 1)) 0x4005 8 1) 0x4005 4 0 ([0xFE, 0x80] ++ List.replicate 14 0))
def tcpIn (n tick : Nat) : State := rest ((at_ tcpReach tick).setN 0x4005 0x1B n)
def autofill : State := rest (cfgN (cfgN tcp 0x4005 3 0) 0x4005 0x18 1)
def autofillLater : State := rest (autofill.modTr (fun t => { t with running := true }))
def heard5 : State := rest (((tcpIn 3 10000000000).setN 0x4005 0x1A 2).modStream 5 (fun x => { x with accepted := some 1 }))
def dataBytes (n : Nat) : List Byte :=
  let b := [0xAA, 1] ++ beBytes 2 n ++ beBytes 2 77 ++ List.replicate (n - 8) 0
  b ++ beBytes 2 (crc16 b)

theorem witness_StreamContextsFollowTheirSources :
    (autofill.settled ∧ autofillLater.settled ∧ (tcpIn 1 10000000000).settled ∧ (tcpIn 0 10000000000).settled ∧ (tcpIn 2 10000000000).settled ∧ (tcpIn 3 10000000000).settled ∧
      heard5.settled) ∧
    (autofill.transitsRun = false ∧ autofill.ing.autofills = [] ∧ autofillLater.transitsRun = true) ∧
    (autofill.ctxEnabled 5 = true ∧ autofill.cB 0x4005 0x18 = true ∧ autofill.c 0x4005 3 ≠ 1 ∧
      CfgFrame.usable ⟨false, 50, 1000000, 2, [(2, 1, 1)], [false, true], [], [], [], [], 50⟩ = true) ∧
    ((tcpIn 1 10000000000).isTcp 5 = true ∧ (tcpIn 1 10000000000).tcpState 5 = 1 ∧ (tcpIn 1 10000000000).sourcePort 5 = some 0 ∧
      (tcpIn 1 10000000000).prpPairOf 0 = none ∧ (tcpIn 1 10000000000).pausing 0 = false ∧ (tcpIn 1 10000000000).cB 0x4005 0x19 = true) ∧
    ((tcpIn 0 10000000000).isTcp 5 = true ∧ (tcpIn 0 10000000000).tcpState 5 = 0 ∧
      ((tcpIn 0 10000000000).stream 5).tcpTick + 5 * tickSec ≤ (tcpIn 0 10000000000).raw) ∧
    ((tcpIn 2 10000000000).tcpState 5 = 2 ∧ ((tcpIn 2 10000000000).stream 5).tcpTick + 5 * tickSec ≤ (tcpIn 2 10000000000).raw ∧
      (tcpIn 2 10000000000).sourcePort 5 = some 0) ∧
    (heard5.tcpState 5 = 3 ∧ heard5.streamState 5 ≠ 6 ∧ heard5.streamState 5 ≠ 3 ∧ (dataBytes 40).length = 40 ∧ field (dataBytes 40) 1 1 = 1 ∧
      field (dataBytes 40) 4 2 = heard5.c 0x4005 2 ∧ 40 ≠ dataFrameSize (heard5.c 0x4005 0x0C) (heard5.ctxBlocks 5)) ∧
    (∀ n, n = dataFrameSize (heard5.c 0x4005 0x0C) (heard5.ctxBlocks 5) → 16 ≤ n ∧ (dataBytes n).length = n ∧ field (dataBytes n) 2 2 = n ∧
      crc16 ((dataBytes n).take (n - 2)) = field (dataBytes n) (n - 2) 2 ∧ field (dataBytes n) 11 3 < heard5.c 0x4005 0x0B) ∧
    heard5.queueHasRoom (laneOf 5) = true ∧
    (heard5.queue (laneOf 5)).waiting = [] ∧ heard5.laneLive (laneOf 5) = true ∧ laneOf 5 < heard5.ing.queues.length ∧
    (heard5.queue (laneOf 5)).writeA = (heard5.queue (laneOf 5)).writeB ∧ (heard5.queue (laneOf 5)).readA = (heard5.queue (laneOf 5)).readB ∧
    ((heard5.stream 5).accepted = some 1 ∧ heard5.ctxEnabled 5 = true ∧ heard5.streamState 5 = 2 ∧ 1 + 2 * tickSec ≤ heard5.raw) := by
  refine ⟨⟨rest_settled _, rest_settled _, rest_settled _, rest_settled _, rest_settled _, rest_settled _, rest_settled _⟩,
    by decide +kernel, by decide +kernel, by decide +kernel, by decide +kernel, by decide +kernel, by decide +kernel, fun n hn => ?_, by decide +kernel⟩
  have h : dataFrameSize (heard5.c 0x4005 0x0C) (heard5.ctxBlocks 5) = 34 := by decide +kernel
  rw [hn, h]
  decide +kernel

/-! ## Witnesses: the transit engine -/

/-- Transits run at 50 per second from 1970; context 5 is enabled with IDCODE 7; a frame stamped 1,000 s UTC (1,037 s ET) that arrived 5 ms
later, for ordinal 51,850. -/
def transits : State := rest (cfgN (cfgN (second.startTransits 0) 0x4005 1 1) 0x4005 2 7)
def frame5 : IngestEntry :=
  ⟨5, 0, 0, 1037 * sec + 5 * ms, 0, [0xAA, 1, 0, 34, 0, 7] ++ beBytes 4 1000 ++ beBytes 4 0 ++ List.replicate 20 0, 0, []⟩
def record5 : List Entry := [⟨F32.ofInt 3, 0, 0⟩]
def ord5 : Nat := 50 * 1037

/-- Lane L0 with the converted frame at the front: the instant beyond its slots, in them, already sent; of a stream with FORWARD_LATE. -/
def matching (b : Nat) : State := (cfgN transits 0x4005 0x15 1).modLane 0 (fun l => { l with
  tasks := [⟨3, .assemble frame5 record5⟩], nextFrame := 4, base := b })
def beyond : State := rest (matching 0)
def within : State := rest (matching (ord5 - 511))
def sent : State := rest (matching (ord5 + 1))
def needed : State := rest (cfgN ((matching (ord5 - 3)).modSlot 0 ord5 (fun x => { x with strobe := true })) 0x4005 0x13 1)
def early : State := rest (transits.modLane 0 (fun l => { l with 
  tasks := [⟨3, .assemble { frame5 with arrival := 0 } record5⟩], nextFrame := 4, base := 0 }))
def offGrid : State := rest (transits.modLane 0 (fun l => { l with
  tasks := [⟨3, .assemble { frame5 with frame := [0xAA, 1, 0, 34, 0, 7] ++ beBytes 4 1000 ++ beBytes 4 10 ++ List.replicate 20 0 } record5⟩], nextFrame := 4 }))
def twice : State := rest ((matching (ord5 - 3)).modSlot 0 ord5 (fun x => { x with frames := [(5, record5)] }))
def inQueue : State := rest ((transits.modLane 0 (fun l => { l with base := ord5 - 3 })).modQueue 0 (fun q => { q with
  head := frame5.qwords, writeA := 2, writeB := 2 }))

/-- The present instant of a frame, by the grid of the state. -/
def gridOf (s : State) (e : IngestEntry) : Nat × Nat :=
  let t := s.entryTime e
  let g := s.segAt t.toNat
  let k := ((2 * t * g.rate + sec) / ((2 * sec : Nat) : Int)).toNat
  (k, ((k : Int) + g.off).toNat)

theorem witness_LanesMatchFramesToInstants :
    (beyond.settled ∧ within.settled ∧ sent.settled ∧ needed.settled ∧ early.settled ∧ offGrid.settled ∧ twice.settled ∧ inQueue.settled) ∧
    (0 < beyond.tr.lanes.length ∧ beyond.laneRuns 0 = true ∧ (beyond.lane 0).tasks = [⟨3, .assemble frame5 record5⟩] ∧
      (beyond.lane 0).work = [] ∧ nth beyond.tr.toSpectro 0 [] = [] ∧ nth beyond.spec.blocks 0 [] = [] ∧ 3 < (beyond.lane 0).nextFrame ∧
      (beyond.queue 0).frames = 0 ∧ beyond.ctxEnabled 5 = true ∧ gridOf beyond frame5 = (ord5, ord5) ∧
      beyond.entryTime frame5 ≤ (frame5.arrival : Int) + sec ∧ beyond.beforeChange (beyond.entryTime frame5) frame5.arrival = false ∧
      (beyond.entryTime frame5 - (instantEt ord5 (beyond.segAt (beyond.entryTime frame5).toNat).rate : Int)).natAbs ≤ beyond.c 0x5000 4 * us ∧
      beyond.tr.running = true ∧ beyond.tr.first ≤ ord5 ∧ beyond.partialSent 0 ord5 = false ∧ (beyond.lane 0).base + 512 ≤ ord5) ∧
    (within.partialSent 0 ord5 = false ∧ ord5 < (within.lane 0).base + 512 ∧ within.laneSlot 0 ord5 = none ∧ within.cB 0x4005 0x13 = false) ∧
    (sent.partialSent 0 ord5 = true ∧ sent.c 0x4005 0x15 = 1 ∧ sent.hasCredit 4 .mgmt = true ∧ sent.lasting (qkey 2 5 0) = false) ∧
    ((needed.laneSlot 0 ord5).map (·.strobe) = some true ∧ (needed.laneSlot 0 ord5).map (fun y => lookup 5 y.frames) = some none ∧
      needed.cB 0x4005 0x13 = true ∧ needed.expectedAt 5 ord5 = true ∧ needed.laneRequired 0 ord5 = true ∧
      needed.laneMissing 0 ord5 [(5, record5)] = 0 ∧ needed.hasCredit 4 .release = true) ∧
    ((0 : Int) + sec < early.entryTime { frame5 with arrival := 0 }) ∧
    (twice.laneSlot 0 ord5).map (fun y => (lookup 5 y.frames).isSome) = some true ∧
    (0 < inQueue.ing.queues.length ∧ inQueue.laneRuns 0 = true ∧ (inQueue.lane 0).tasks = [] ∧ (inQueue.lane 0).work = [] ∧
      nth inQueue.tr.toSpectro 0 [] = [] ∧ nth inQueue.spec.blocks 0 [] = [] ∧ (inQueue.queue 0).head.isEmpty = false ∧
      (inQueue.queue 0).frames = 1 ∧ entryOfWords (inQueue.queue 0).head 0 = frame5 ∧
      (inQueue.queue 0).waiting = [] ∧ (inQueue.queue 0).writeA = (inQueue.queue 0).writeB ∧
      (inQueue.queue 0).readA = (inQueue.queue 0).readB ∧ inQueue.partialSent 0 ord5 = false ∧ inQueue.laneSlot 0 ord5 = none) ∧
    writesB transits 0x5000 0x1B = true ∧ transits.streamState 5 ≠ 3 := by
  exact ⟨⟨rest_settled _, rest_settled _, rest_settled _, rest_settled _, rest_settled _, rest_settled _, rest_settled _, rest_settled _⟩,
    by decide +kernel⟩

/-- The hub 60 ms after the instant's T_k; with a notice given; with a partial in L0's outbox; with the instant due for release. -/
def hub : State := rest ((transits.modTr (fun t => { t with nextOrd := ord5 })).modEph (fun e => { e with
  baseEt := 1037 * sec + 60 * ms, baseRaw := e.raw }))
def partial5 : Partial := ⟨ord5, [], 0, 0⟩
def instant5 : HubInstant := ⟨ord5, ord5, 1037 * sec, 0, false, true, some .deadline, 0, false, false, []⟩
def noticed : State := rest (hub.modLane 0 (fun l => { l with notices := [ord5], base := ord5 - 3 }))
def answered : State := rest (hub.modLane 0 (fun l => { l with outbox := [partial5] }))
def closing : State := rest (hub.modTr (fun t => { t with insts := [instant5] }))
def waits : State := rest (hub.modTr (fun t => { t with insts := [instant5], nextOrd := ord5 - 1 }))
def changing (at_ : Nat) : State := rest (hub.modTr (fun t => { t with pendingRate := some (at_, 25) }))

theorem witness_TransitsAreMergedAndReleasedInOrder :
    (hub.settled ∧ transits.settled ∧ noticed.settled ∧ answered.settled ∧ closing.settled ∧ waits.settled ∧
      (changing (1000 * sec)).settled ∧ (changing (2000 * sec)).settled) ∧
    (hub.ordOfK ord5 = some ord5 ∧ hub.tr.lanes.length = 4 ∧ hub.tr.running = true ∧ hub.tkOf ord5 + hub.c 0x5000 3 * ms ≤ hub.et ∧
      hub.inst ord5 = none ∧ hub.isSkipped ord5 = false ∧ hub.lanesOn = true ∧ (∀ n, n < 4 → (hub.lane n).tasks = [] ∧
        (hub.lane n).work = [] ∧ hub.hasCredit (4 + n) .release = true) ∧ hub.tkOf ord5 + hub.wEt ≤ hub.et ∧ hub.inst hub.tr.nextOrd = none) ∧
    (transits.ordOfK ord5 = some ord5 ∧ transits.et < transits.tkOf ord5) ∧
    ((noticed.lane 0).notices = [ord5] ∧ noticed.laneRuns 0 = true ∧ (noticed.lane 0).tasks = [] ∧ (noticed.lane 0).work = [] ∧
      noticed.hasCredit 4 .release = true ∧ noticed.partialSent 0 ord5 = false) ∧
    ((answered.lane 0).outbox = [partial5] ∧ answered.laneLive 0 = true ∧ answered.tr.nextOrd ≤ ord5 ∧ answered.isSkipped ord5 = false ∧ answered.inst ord5 = none) ∧
    (closing.inst ord5 = some instant5 ∧ instant5.notice.isSome = true ∧ instant5.closeTick ≤ closing.raw ∧ instant5.skip = false ∧
      closing.tr.nextOrd = ord5 ∧ closing.tr.running = true ∧ closing.instReady instant5 = true) ∧
    (waits.inst ord5 = some instant5 ∧ waits.tr.nextOrd ≠ ord5) ∧
    ((changing (1000 * sec)).tr.pendingRate = some (1000 * sec, 25) ∧ 1000 * sec ≤ (changing (1000 * sec)).et) ∧
    (changing (2000 * sec)).et < 2000 * sec := by
  exact ⟨⟨rest_settled _, rest_settled _, rest_settled _, rest_settled _, rest_settled _, rest_settled _, rest_settled _, rest_settled _⟩,
    by decide +kernel⟩

/-! ## Witnesses: the Spectroscope -/

/-- The Spectroscope with one inter-area signal (0) in band 0 and one local signal (4,096), both in lane L0; a released transit with the signal's
entry, and one without; a block that was dropped; a reset that waits. -/
def bandBytes : List Byte := [1, 0] ++ beBytes 2 8 ++ beBytes 4 (F32.ofRat (1 / 4)).nat ++ beBytes 4 (F32.ofRat (1 / 10)).nat ++ List.replicate 20 0
def signalBytes : List Byte :=
  [1, 0, 0, 0] ++ beBytes 2 0 ++ List.replicate 6 0xFF ++ beBytes 4 1 ++ List.replicate 8 0 ++ beBytes 2 10 ++ List.replicate 6 0
def localBytes : List Byte := [1, 0, 0, 0] ++ beBytes 8 1 ++ List.replicate 8 0 ++ beBytes 2 10 ++ List.replicate 10 0
def spectro : State :=
  (cfgE (cfgE (cfgE (cfgE (cfgE second 0x6003 1 0 bandBytes) 0x6001 1 0 signalBytes) 0x5100 1 0 [0, 5, 3, 0, 0, 0, 0, 0]) 0x6004 1 0 bandBytes)
    0x6002 1 0 localBytes).setN 0x6000 2 1
def released (v : List (Nat × Entry)) : Released := ⟨0, 5, 0, 50, 1, some v, true⟩
def updating (v : List (Nat × Entry)) (r : List Nat) : State := rest (((spectro.modTr (fun t => { t with
  toSpectro := [[released v], [], [], []] })).modSpec (fun x => { x with resets := [r, [], [], []], blocks := [[⟨7, none⟩], [], [], []] })).setN
  0x6005 2 1)
def usableIn : State := updating [(0, ⟨F32.ofInt 3, qMake true 0#16, 0⟩)] []
def staleIn : State := updating [] []
def resetIn : State := updating [] [0]
def stopped : State := rest (usableIn.setN 0x6000 2 0)

theorem witness_ResonatorsFollowTheirSignals :
    (base.settled ∧ usableIn.settled ∧ staleIn.settled ∧ resetIn.settled ∧ stopped.settled) ∧
    nth base.tr.toSpectro 3 [] = [] ∧ nth base.spec.blocks 3 [] = [] ∧
    (nth usableIn.tr.toSpectro 0 [] = [released [(0, ⟨F32.ofInt 3, qMake true 0#16, 0⟩)]] ∧ usableIn.flag 0x6000 2 = true ∧
      usableIn.laneRuns 0 = true ∧ usableIn.ringIn 0 = true ∧ (usableIn.lane 0).tasks = [] ∧ (usableIn.lane 0).work = [] ∧
      usableIn.hasCredit 4 .alarm = true ∧ 0 < usableIn.tr.lanes.length ∧ (nth usableIn.spec.resets 0 []).all (fun y => decide (0x8000 ≤ y)) = true ∧
      (usedSignals usableIn false).Nodup ∧ 0 ∈ usedSignals usableIn false ∧ 0 ∈ signalBands usableIn 0 ∧
      0 < field (bandRecord usableIn false 0) 2 2 ∧ 0 < usableIn.spec.sent.length) ∧
    (nth staleIn.tr.toSpectro 0 [] = [released []] ∧ 0 ∈ usedSignals staleIn false) ∧
    (nth resetIn.spec.resets 0 [] = [0] ∧ resetIn.spec.resets.length = 4 ∧ resetIn.num 0x6005 2 = 1 ∧ resetIn.flag 0x6000 2 = true) ∧
    (stopped.flag 0x6000 2 = false ∧ stopped.laneRuns 0 = true ∧ stopped.ringIn 0 = true) ∧
    (nth staleIn.spec.blocks 0 [] = [⟨7, none⟩] ∧ (usedSignals staleIn true).Nodup ∧ 4096 ∈ usedSignals staleIn true ∧
      signalLane 4096 = 0 ∧ 0 ∈ signalBands staleIn 4096 ∧ (nth staleIn.spec.resets 0 []).all (fun y => decide (y < 0x8000)) = true ∧
      (staleIn.resonator (4096 * 64)).staleRun + 8 < 2 * field (bandRecord staleIn true 0) 2 2) ∧
    commandsB base 0x6000 0x0D 0x6005 = true ∧ base.flag 0x6000 2 = false := by
  exact ⟨⟨rest_settled _, rest_settled _, rest_settled _, rest_settled _, rest_settled _⟩, by decide +kernel⟩

/-- A contribution on its way, an open merge that lacks it, and the same merge complete; a capture. -/
def share5 : Contribution := ⟨false, 5, [(0, ⟨1, 0, none, [(3, 0, true)]⟩)]⟩
def merge5 (l : List (Nat × Contribution)) : BandMerge := ⟨false, 5, 77, spectro.raw + 100, l⟩
def merging : State := rest (spectro.modSpec (fun x => { x with
  sent := [[share5], [], [], []], merges := [merge5 [(1, share5), (2, share5), (3, share5)]] }))
def merged : State := rest (spectro.modSpec (fun x => { x with merges := [merge5 [(0, share5), (1, share5), (2, share5), (3, share5)]] }))
def missed : State := rest (at_ merging 500000000)
def capture5 : Capture := ⟨false, 0, 5, 77, false, 0, 1⟩
def captured : State := rest (spectro.modSpec (fun x => { x with captures := [capture5] }))
def fenced : State := rest (merging.setN 0xF130 1 1)

theorem witness_BandsMergeAndCaptureShapes :
    (base.settled ∧ merging.settled ∧ merged.settled ∧ missed.settled ∧ captured.settled ∧ fenced.settled) ∧
    nth base.spec.sent 3 [] = [] ∧ base.spec.captures = [] ∧
    (nth merging.spec.sent 0 [] = [share5] ∧ merging.laneLive 0 = true ∧
      merging.mergeOver (merge5 [(1, share5), (2, share5), (3, share5)]) = false) ∧
    fenced.laneLive 0 = false ∧
    (merged.spec.merges = [merge5 [(0, share5), (1, share5), (2, share5), (3, share5)]] ∧
      merged.mergeOver (merge5 [(0, share5), (1, share5), (2, share5), (3, share5)]) = true ∧
      merged.liveLanes.all (fun k => (lookup k [(0, share5), (1, share5), (2, share5), (3, share5)]).isSome) = true) ∧
    (missed.mergeOver (merge5 [(1, share5), (2, share5), (3, share5)]) = true ∧
      missed.liveLanes.filter (fun k => (lookup k [(1, share5), (2, share5), (3, share5)]).isNone) = [0]) ∧
    captured.spec.captures = [capture5] := by
  exact ⟨⟨rest_settled _, rest_settled _, rest_settled _, rest_settled _, rest_settled _, rest_settled _⟩, by decide +kernel⟩

/-! ## Witnesses: Horizon and the alarm router -/

/-- Two buses and a tie between them, Horizon running, with a transit that has values, one that has none and one that holds. -/
def busBytes (f a : Nat) : List Byte := beBytes 2 f ++ beBytes 2 a ++ [1, 0] ++ beBytes 2 5 ++ List.replicate 8 0
def tieBytes (i j : Nat) : List Byte :=
  [0xF, 0] ++ beBytes 2 i ++ beBytes 2 j ++ [2, 2] ++ beBytes 4 (F32.ofRat (1 / 20)).nat ++ beBytes 4 (F32.ofRat (1 / 2)).nat ++ beBytes 2 60 ++
    List.replicate 14 0
def good (v : Rat) : Entry := ⟨F32.ofRat v, qMake true 0#16, 0⟩
def angles : List (Nat × Entry) := [(0, good 50), (1, good 0), (2, good 50), (3, good (1 / 10))]
def horizon (v : Option (List (Nat × Entry))) : State :=
  rest (((cfgE (cfgE (cfgE second 0x6101 1 0 (busBytes 0 1)) 0x6101 1 1 (busBytes 2 3)) 0x6102 1 0 (tieBytes 0 1)).setN 0x6100 2 1).modTr
    (fun t => { t with toHorizon := [⟨0, 5, 77, 50, 1, v, true⟩] }))
def horizonOff : State := rest ((horizon none).setN 0x6100 2 0)

/-- Bay 7 with loss of mains enabled: before its half cycle, at it, and active past HOLD. -/
def lomOff : State := rest (second.modLom 7 (fun x => x))
def lomDue : State := rest ((cfgN (cfgN (host.setN 0x3200 0x0B 3) 0x6117 1 1) 0x3107 6 1).modLoc (fun l => { l with
  nextTracked := 1024
  channels := l.channels.map (fun c => { c with tracked := List.replicate 1024 ⟨F64.ofInt 0, 0⟩ }) }) |>.modLom 7 (fun x => { x with
  nextH := 8, psis := [F64.ofInt 0, F64.ofInt 0], freqs := [F64.ofInt 50, F64.ofInt 50] }))
def lomActive : State := rest ((at_ second 400000000000).modLom 7 (fun x => { x with active := true }))

theorem witness_HorizonFollowsTiesAndIslands :
    (base.settled ∧ (horizon (some angles)).settled ∧ (horizon none).settled ∧ horizonOff.settled ∧ lomOff.settled ∧ lomDue.settled ∧
      lomActive.settled) ∧
    base.tr.toHorizon = [] ∧
    ((horizon (some angles)).tr.toHorizon = [⟨0, 5, 77, 50, 1, some angles, true⟩] ∧ (horizon (some angles)).flag 0x6100 2 = true ∧
      (horizon (some angles)).hor.mirrored = none ∧ (horizon (some angles)).enabledTies = [0] ∧
      (horizon (some angles)).enabledBuses = [0, 1] ∧ (horizon (some angles)).busUsable angles 0 = true ∧
      (horizon (some angles)).busUsable angles 1 = true ∧ (horizon (some angles)).busUsable [] 0 = false ∧
      (horizon (some angles)).uRun 0 = 0) ∧
    ((horizon none).tr.toHorizon = [⟨0, 5, 77, 50, 1, none, true⟩] ∧ (horizon none).flag 0x6100 2 = true) ∧
    horizonOff.flag 0x6100 2 = false ∧
    (7 < lomOff.lom.length ∧ lomOff.cB 0x6117 1 = false) ∧
    ((lomActive.lomBay 7).active = true ∧ (lomActive.lomBay 7).lastMet + lomActive.c 0x6117 6 * tickMs ≤ lomActive.raw) ∧
    (lomOff.lomBay 7).active = false := by
  exact ⟨⟨rest_settled _, rest_settled _, rest_settled _, rest_settled _, rest_settled _, rest_settled _, rest_settled _⟩,
    by decide +kernel⟩

theorem witness_HorizonFollowsTiesAndIslands_lom :
    lomDue.cB 0x6117 1 = true ∧ lomDue.chainOn = true ∧ (lomDue.lomBay 7).nextH = 8 ∧ 128 * 8 ≤ lomDue.loc.nextTracked ∧
    (lomDue.subPhasor 7 false ((128 * 8 : Nat) - 256)).isSome = true ∧
    ∀ p : F64, (State.lomFreq lomDue.loc.fEst ((p :: (lomDue.lomBay 7).psis).take 3)).isSome = true ∧
      (State.lomVs ((p :: (lomDue.lomBay 7).psis).take 3)).isSome = true ∧
      (State.lomRocof lomDue.loc.fEst ((p :: (lomDue.lomBay 7).freqs).take 3)).isSome = true := by
  have h : (lomDue.lomBay 7).psis = [F64.ofInt 0, F64.ofInt 0] ∧ (lomDue.lomBay 7).freqs = [F64.ofInt 50, F64.ofInt 50] := by decide +kernel
  refine ⟨by decide +kernel, by decide +kernel, by decide +kernel, by decide +kernel, by decide +kernel, fun p => ?_⟩
  rw [h.1, h.2]
  exact ⟨rfl, rfl, rfl⟩

/-- Alarm 192 latched and with MIN_ON, routed to ALM1 as a PULSE: rising, falling, past its MIN_ON, latched with state 0. -/
def alarms : State := cfgE (cfgN second 0x6202 1 2) 0x6200 1 192 ([3, 2, 0, 0, 0, 0, 0, 0] ++ beBytes 2 5 ++ List.replicate 6 0)
def rising : State := rest (alarms.modAlr (fun x => { x with batches := [[(192, true)]] }))
def falling : State := rest (alarms.modAlr (fun x => { x with batches := [[(192, false)]], state := 2 ^ 192, routed := 2 ^ 192 }))
def minOver : State := rest (alarms.modAlr (fun x => { x with
  minOn := [(192, 5)], latched := 2 ^ 192, routed := 2 ^ 192, pins := x.pins.set 3 ⟨true, 5⟩ }))

theorem witness_AlarmRouterRoutesAndDrives :
    (base.settled ∧ rising.settled ∧ falling.settled ∧ minOver.settled) ∧
    base.alr.batches = [] ∧
    (rising.alr.batches = [[(192, true)]] ∧ State.alarmExists 192 = true ∧ rising.alr.state.testBit 192 = false ∧
      rising.alr.routed.testBit 192 = false ∧ (field (rising.cElem 0x6200 1 192) 1 1).testBit 1 = true ∧ rising.c 0x6202 1 = 2) ∧
    (falling.alr.batches = [[(192, false)]] ∧ falling.alr.state.testBit 192 = true) ∧
    (lookup 192 minOver.alr.minOn = some 5 ∧ 5 ≤ minOver.raw ∧ lookup 255 minOver.alr.minOn = none) ∧
    (writesB minOver 0x6200 4 = true ∧ minOver.alr.state.testBit 192 = false ∧ minOver.alr.latched.testBit 192 = true) ∧
    (writesB falling 0x6200 4 = true ∧ falling.alr.state.testBit 192 = true) ∧
    (3 < minOver.alr.pins.length ∧ (nth minOver.alr.pins 3 ⟨false, 0⟩).pulsing = true ∧ (nth minOver.alr.pins 3 ⟨false, 0⟩).endTick ≤ minOver.raw) ∧
    (nth base.alr.pins 3 ⟨false, 0⟩).pulsing = false ∧ writesB minOver 0x6204 4 = true := by
  exact ⟨⟨rest_settled _, rest_settled _, rest_settled _, rest_settled _⟩, by decide +kernel⟩

/-- R303, R304: the rise of an alarm routed to a PULSE pin starts its pulse. -/
theorem test_alarm_pulse : (after .alarmDelivery rising).map (fun t => (t.alr.routed.testBit 192, (nth t.alr.pins 1 ⟨false, 0⟩).pulsing)) =
    some (true, true) := by decide +kernel

/-! ## Witnesses: output streams and GOOSE -/

/-- Output stream 15 with one destination on P0, COMMANDED; with a connection. -/
def streamOut : State := cfgN (cfgE (cfgN second 0x580F 1 1) 0x580F 0xB 0
  ([1, 0, 0, 0, 4, 0, 0, 0] ++ beBytes 2 5000 ++ beBytes 2 5001 ++ [0, 0, 0, 0] ++ List.replicate 10 0 ++ [0xFF, 0xFF, 0xE0, 1, 2, 3])) 0x580F 0xC 1
def offered : State := rest streamOut
def connected : State := rest ((streamOut.setN 0x1300 0x10 1).modEgr (fun e => { e with conns := [(15, 0)] }))
def crowded : State := rest (streamOut.modEgr (fun e => { e with conns := List.replicate 16 (15, 0) }))

theorem witness_OutputStreamsAnswerCommands :
    (base.settled ∧ offered.settled ∧ connected.settled ∧ crowded.settled) ∧
    (offered.coreRuns = true ∧ offered.cB 0x580F 1 = true ∧ (offered.egressPorts 15).contains 0 = true ∧ offered.egr.conns.length < 16) ∧
    base.cB 0x580F 1 = false ∧ 16 ≤ crowded.egr.conns.length ∧
    (connected.egressListens 15 = true ∧ connected.c 0x580F 0x0C = 1 ∧ 15 < connected.egr.outs.length ∧
      (connected.egr.conns.find? (fun c => c.1 = 15)).map (·.2) = some 0 ∧ connected.prpPairOf 0 = none ∧ connected.portUp 0 = true ∧
      connected.pausing 0 = false) ∧ offered.egressListens 15 = false := by
  exact ⟨⟨rest_settled _, rest_settled _, rest_settled _, rest_settled _⟩, by decide +kernel⟩

/-- Publication 0 on P0, changed, and waiting to retransmit; subscription 0 before a message, after one, and past its expiry. -/
def pubBytes : List Byte :=
  [1, 0] ++ beBytes 2 3 ++ [1, 0xC, 0xCD, 1, 0, 0, 0, 0, 4, 1, 0, 0] ++ beBytes 4 1 ++ beBytes 2 10 ++ beBytes 2 1000 ++ List.replicate 40 0 ++
    [1, 0] ++ beBytes 2 192 ++ List.replicate 188 0
def subBytes : List Byte :=
  [5, 1] ++ beBytes 2 3 ++ [1, 0xC, 0xCD, 1, 0, 0] ++ List.replicate 6 0 ++ beBytes 4 1 ++ [1, 1] ++ List.replicate 10 0
def gooseUnit : State := cfgE (cfgE ((cfgN second 0x1300 1 1).setN 0x1300 0x10 1) 0x5901 1 0 pubBytes) 0x5903 1 0 subBytes
def changed : State := rest (gooseUnit.modPub 0 (fun x => { x with changed := true, sampled := true, stNum := 4 }))
/-- The publication has sampled members that differ from what it now has. -/
def sampledOld : State := rest (gooseUnit.modPub 0 (fun x => { x with sampled := true, bools := [true], quals := [0] }))
def again : State := rest (gooseUnit.modPub 0 (fun x => { x with next := some 5, interval := 10, sampled := true, sqNum := 4294967295 }))
def message : GooseMsg :=
  ⟨[1, 0xC, 0xCD, 1, 0, 0], [9, 9, 9, 9, 9, 9], 3, [], [], [], 100, 5, 0, false, 1, false, [(true, 0#13)], [(F32.ofInt 3, 0#13)], true⟩
def listening : State := rest (gooseUnit.startSub 0)
def received : State := rest (((gooseUnit.startSub 0).setElem 0x5905 1 0 ([2, 0, 0, 0] ++ beBytes 4 5 ++ beBytes 4 0 ++ List.replicate 16 0 ++
  beBytes 4 1)).modEgr (fun e => { e with expiry := [(0, 5)] }))

theorem witness_GooseIsPublishedAndSubscribed :
    (base.settled ∧ sampledOld.settled ∧ changed.settled ∧ again.settled ∧ listening.settled ∧ received.settled) ∧
    (0 < changed.egr.pubs.length ∧ changed.gooseOn 0 = true ∧ (changed.goosePub 0).changed = true ∧
      (changed.goosePub 0).sampled = true ∧ changed.prpPairOf 0 = none ∧
      changed.portUp 0 = true ∧ changed.pausing 0 = false) ∧
    (0 < sampledOld.egr.pubs.length ∧ sampledOld.pubOn 0 = true ∧ (sampledOld.goosePub 0).sampled = true ∧ sampledOld.acting = true ∧
      (sampledOld.goosePub 0).bools ≠ ((sampledOld.samplePub 0).goosePub 0).bools) ∧
    base.gooseOn 15 = false ∧
    (again.gooseOn 0 = true ∧ (again.goosePub 0).next = some 5 ∧ 5 ≤ again.raw ∧ (again.goosePub 0).changed = false) ∧
    (listening.portOn 0 = true ∧ listening.inRunning = true ∧ listening.power = 0 ∧
      (List.range 64).find? (listening.subMatches 0 message) = some 0 ∧ (field (listening.subRecord 0) 0 1).testBit 1 = false ∧
      field (listening.subState 0) 28 4 = 0) ∧
    (decide (trimName (listening.cElem 0x5904 1 (3 * 0 + 1)) ≠ message.datSet) || decide (trimName (listening.cElem 0x5904 1 (3 * 0 + 2)) ≠
      message.goId) || decide (field (listening.subRecord 0) 16 4 ≠ message.confRev) || decide (message.bools.length ≠
      field (listening.subRecord 0) 20 1) || decide (message.floats.length ≠ field (listening.subRecord 0) 21 1) || !message.wellTyped ||
      message.ndsCom) = false ∧
    (field (received.subState 0) 28 4 ≠ 0 ∧ field (received.subState 0) 4 4 = 5 ∧ State.sqNewer (field (received.subState 0) 8 4) 0 = false ∧
      (List.range 64).find? (received.subMatches 0 message) = some 0) ∧
    (lookup 0 received.egr.expiry = some 5 ∧ 5 + 20 * us ≤ received.et ∧ 5 ≤ received.rxStamp 0 0 ∧ decide (field (received.subState 0) 4 4 ≠ 6) ∧ received.subOn 0 = true) ∧ lookup 63 received.egr.expiry = none := by
  exact ⟨⟨rest_settled _, rest_settled _, rest_settled _, rest_settled _, rest_settled _, rest_settled _⟩, by decide +kernel⟩

/-! ## Witnesses: the Orrery and binary I/O -/

/-- An Orrery image of period 1 ms and output offset 200 µs: a CONST block, and an OUTPUT block to BO3 that reads it. -/
def imageBytes : List Byte :=
  [0x4F, 0x52, 0x52, 0x59] ++ beBytes 2 1 ++ beBytes 2 2 ++ beBytes 2 1 ++ beBytes 2 8 ++ beBytes 4 200 ++ beBytes 4 77 ++ List.replicate 44 0 ++
    ([4, 0, 0, 1] ++ beBytes 2 0xC000 ++ beBytes 2 0x1000 ++ beBytes 2 0x1000 ++ beBytes 2 0 ++ beBytes 4 0) ++
    ([0x19, 0, 0, 2] ++ beBytes 2 0 ++ beBytes 2 0x1000 ++ beBytes 2 0x1000 ++ beBytes 2 0 ++ beBytes 4 (F32.ofInt 3).nat) ++ beBytes 4 0 ++ beBytes 4 0

/-- The Orrery enabled with that image: waiting to start; RUNNING before c_m, at it, evaluating and evaluated after it; STOPPED. -/
def orrery : State :=
  ((cfgN (cfgN (second.modOrr (fun o => { o with banks := [imageBytes, imageBytes] })) 0x7000 1 1) 0x7103 1 1).setN 0x7000 5 1000).setN 0x7000 6 200
def orrStarts : State := rest ((orrery.setN 0x7000 2 1).modOrr (fun o => { o with starting := true }))
def orrWaits : State := rest ((orrery.setN 0x7000 2 2).modOrr (fun o => { o with base := 2 ^ 62 }))
def orrIdle : State := rest (orrery.setN 0x7000 2 2)
def orrSwitches : State := rest ((orrery.setN 0x7000 2 2).modOrr (fun o => { o with switchDue := true }))
def orrEvaluates : State := rest ((orrery.setN 0x7000 2 2).modOrr (fun o => { o with phase := .evaluating }))
def orrEvaluated : State := rest ((orrery.setN 0x7000 2 2).modOrr (fun o => { o with phase := .evaluated }))
def orrStopped : State := rest (orrery.setN 0x7000 2 3)

theorem witness_OrreryRunsItsCycle :
    (base.settled ∧ orrStarts.settled ∧ orrWaits.settled ∧ orrIdle.settled ∧ orrSwitches.settled ∧ orrEvaluates.settled ∧
      orrEvaluated.settled ∧ orrStopped.settled) ∧
    (orrStarts.num 0x7000 2 = 1 ∧ orrStarts.orr.starting = true ∧ orrStarts.inRunning = true ∧ orrStarts.power = 0) ∧
    (orrStopped.num 0x7000 2 ≠ 1 ∧ orrStopped.num 0x7000 2 ≠ 2) ∧
    (orrIdle.num 0x7000 2 = 2 ∧ orrIdle.orr.phase = .idle ∧ orrIdle.cycleStart ≤ orrIdle.et ∧ orrIdle.isPair = false ∧
      orrIdle.orr.switchDue = false ∧ orrIdle.orr.safeUntil = none) ∧
    (orrSwitches.num 0x7000 2 = 2 ∧ orrSwitches.orr.phase = .idle ∧ orrSwitches.cycleStart ≤ orrSwitches.et ∧
      orrSwitches.isPair = false ∧ orrSwitches.orr.switchDue = true) ∧
    orrWaits.et < orrWaits.cycleStart ∧
    (orrEvaluates.num 0x7000 2 = 2 ∧ orrEvaluates.orr.phase = .evaluating ∧
      orrEvaluates.cycleStart + orrEvaluates.num 0x7000 6 * us ≤ orrEvaluates.et ∧ orrEvaluates.bosFloat = false ∧
      orrEvaluates.cB 0x7103 1 = true ∧ orrEvaluates.shortOff 3 = false) ∧
    (orrEvaluated.num 0x7000 2 = 2 ∧ orrEvaluated.orr.phase = .evaluated ∧
      orrEvaluated.cycleStart + orrEvaluated.num 0x7000 6 * us ≤ orrEvaluated.et ∧ orrEvaluated.isPair = false ∧
      orrEvaluated.orr.safeUntil = none ∧ orrEvaluated.orr.realign = false ∧ 3 < orrEvaluated.bos.length) ∧
    (commandsB orrStopped 0x7000 0x12 0x7002 = true ∧ orrStopped.num 0x7000 2 = 3) ∧
    (commandsB orrIdle 0x7000 0x12 0x7002 = true ∧ orrIdle.num 0x7000 2 ≠ 3) := by
  exact ⟨⟨rest_settled _, rest_settled _, rest_settled _, rest_settled _, rest_settled _, rest_settled _, rest_settled _,
    rest_settled _⟩, by decide +kernel⟩

/-- R356: an evaluation that has not ended by its output write stops the Orrery. -/
theorem test_orrery_overrun : (after .orreryOutputWrite orrEvaluates).map (fun t => (t.num 0x7000 2, t.num 0x7000 0x0C)) = some (3, 1) := by
  decide +kernel

/-- BO3 commanded on, with QUAL_COUNT 3 and both kinds of supervision; on with its short condition, off after a short, off and due to retry, in
its retry, LASTING; with its first sample without load, and in the open condition. -/
def outputOn : State :=
  (cfgN (cfgN (cfgN (cfgN (cfgN (second.setN 0x7000 2 2) 0x7000 1 1) 0x7103 1 1) 0x7103 3 3) 0x7103 4 1000) 0x7103 5 3).modOrr (fun o => { o with written := true })
def boRun (s : State) (b : BoRun) : State := { s with bos := s.bos.set 3 b }
def boOn : State := rest (boRun outputOn ⟨true, false, none, none, 0, 1⟩)
def boOnce : State := rest (cfgN (boRun outputOn ⟨true, false, none, none, 0, 1⟩) 0x7103 5 1)
def boShorted : State := rest ((boRun outputOn ⟨true, false, none, none, 0, 0⟩).setN 0x7103 7 1)
def boOff : State := rest ((boRun outputOn ⟨true, false, some 5, none, 0, 0⟩).setN 0x7103 7 1)
def boRetries : State := rest (((boRun outputOn ⟨true, false, some 5, none, 0, 0⟩).setN 0x7103 7 1).modOrr (fun o => { o with writeTick := 400000000 }))
def boHolds : State := rest ((boRun outputOn ⟨true, false, some 5, some 6, 0, 0⟩).setN 0x7103 7 1)
def boHoldsNew : State := rest ((boRun outputOn ⟨true, false, some 5, some 399999999, 0, 0⟩).setN 0x7103 7 1)
def boNoLoad : State := rest (boRun outputOn ⟨true, false, none, none, 1, 0⟩)
def boOpen : State := rest ((boRun outputOn ⟨true, false, none, none, 0, 1⟩).setN 0x7103 7 2)

/-- BI5 enabled: in no band yet; with a first sample of band 2 a while ago; in contact; with a first sample of a short. -/
def inputOn (b : BiRun) (band : Nat) : State := { (cfgN (cfgN second 0x7125 1 1) 0x7125 2 1).setN 0x7125 7 band with bis := second.bis.set 5 b }
def biNew : State := rest (inputOn ⟨0xFF, 0, 0, 0⟩ 0xFF)
def biOnce : State := rest (inputOn ⟨2, 5, 5, 1⟩ 0xFF)
def biSame : State := rest (inputOn ⟨0xFF, 0, 0, 0⟩ 2)
def biFault : State := rest (inputOn ⟨State.bandOfSample true 3000 0xFF, 5, 5, 1⟩ 0xFF)

/-- The occurrences of a qualifier within its window. -/
def recentOf (s : State) (k : Nat) : List Nat := (s.qualifier (qkey 3 3 k)).history.filter (fun y => s.raw < y + s.c 0x7103 4 * tickMs)

theorem witness_BinaryOutputsAndInputsAreSupervised :
    ((base.settled ∧ boOn.settled ∧ boOnce.settled ∧ boShorted.settled ∧ boOff.settled ∧ boRetries.settled) ∧
      (boHolds.settled ∧ boHoldsNew.settled ∧ boNoLoad.settled ∧ boOpen.settled ∧ biNew.settled ∧ biOnce.settled) ∧
      (biSame.settled ∧ biFault.settled)) ∧
    (((0x7103 = 0x7100 + (3 : Fin 16).val ∧ 3 < boOn.bos.length) ∧ base.boCommand 3 = false ∧ base.cB 0x7103 1 = false) ∧
    (boOn.bosFloat = false ∧ boOn.boCommand 3 = true ∧ boOn.shortOff 3 = false ∧ (boOn.num 0x7103 7).testBit 0 = false ∧
      (boOn.c 0x7103 3).testBit 0 = true ∧ boOn.lasting (qkey 3 3 0) = false ∧ (recentOf boOn 0).length + 1 < boOn.c 0x7103 5) ∧
    (boOnce.bosFloat = false ∧ boOnce.boCommand 3 = true ∧ boOnce.shortOff 3 = false ∧ (boOnce.num 0x7103 7).testBit 0 = false ∧
      (boOnce.c 0x7103 3).testBit 0 = true ∧ boOnce.lasting (qkey 3 3 0) = false ∧ boOnce.c 0x7103 5 ≤ (recentOf boOnce 0).length + 1) ∧
    (boShorted.bosFloat = false ∧ boShorted.boCommand 3 = true ∧ boShorted.shortOff 3 = false ∧
      (boShorted.num 0x7103 7).testBit 0 = true) ∧
    ((boOff.bo 3).offTick = some 5 ∧ (boOff.bo 3).retryTick = none ∧ boOff.orr.writeTick < 5 + 100 * tickMs) ∧
    ((boRetries.bo 3).offTick = some 5 ∧ (boRetries.bo 3).retryTick = none ∧ 5 + 100 * tickMs ≤ boRetries.orr.writeTick ∧
      boRetries.boCommand 3 = true ∧ (boRetries.num 0x7103 7).testBit 4 = false ∧ boRetries.bosFloat = false) ∧
    ((boHolds.bo 3).retryTick = some 6 ∧ 6 + 100 * tickMs ≤ boHolds.raw ∧ boHolds.boCommand 3 = true) ∧
    ((boHoldsNew.bo 3).retryTick = some 399999999 ∧ boHoldsNew.raw < 399999999 + 100 * tickMs) ∧
    (boOn.cB 0x7103 1 = true ∧ boOn.isPair = false ∧ (boOn.bo 3).noLoad = 0) ∧
    (boNoLoad.cB 0x7103 1 = true ∧ boNoLoad.bosFloat = false ∧ boNoLoad.isPair = false ∧ 1 ≤ (boNoLoad.bo 3).noLoad ∧
      (boNoLoad.num 0x7103 7).testBit 1 = false ∧ (boNoLoad.c 0x7103 3).testBit 1 = true ∧ boNoLoad.lasting (qkey 3 3 1) = false ∧
      (recentOf boNoLoad 1).length + 1 < boNoLoad.c 0x7103 5) ∧
    (boOpen.cB 0x7103 1 = true ∧ boOpen.bosFloat = false ∧ boOpen.isPair = false ∧ 1 ≤ (boOpen.bo 3).load ∧
      (boOpen.num 0x7103 7).testBit 1 = true ∧ writesB boOpen 0x7103 9 = true)) ∧
    ((0x7125 = 0x7120 + (5 : Fin 24).val ∧ 5 < biNew.bis.length) ∧ base.cB 0x7125 1 = false) ∧
    (biNew.cB 0x7125 1 = true ∧ biNew.power = 0 ∧ biNew.boot.inReset = false ∧ 5 ≤ biNew.stage ∧ biNew.stage ≠ 15 ∧
      (biNew.bi 5).samples = 0 ∧ State.bandOfSample (biNew.cB 0x7125 2) 1000 (biNew.num 0x7125 7) ≠ biNew.num 0x7125 7) ∧
    (biOnce.cB 0x7125 1 = true ∧ biOnce.power = 0 ∧ biOnce.boot.inReset = false ∧ 5 ≤ biOnce.stage ∧ biOnce.stage ≠ 15 ∧
      1 ≤ (biOnce.bi 5).samples ∧ (biOnce.bi 5).band = State.bandOfSample (biOnce.cB 0x7125 2) 1000 (biOnce.bi 5).band ∧
      (biOnce.bi 5).band ≠ biOnce.num 0x7125 7 ∧ (biOnce.bi 5).firstTick + biOnce.c 0x7125 4 * tickMs ≤ biOnce.raw) ∧
    (biSame.cB 0x7125 1 = true ∧ (biSame.bi 5).samples = 0 ∧
      State.bandOfSample (biSame.cB 0x7125 2) 1000 (biSame.num 0x7125 7) = biSame.num 0x7125 7) ∧
    (1 ≤ (biFault.bi 5).samples ∧ (biFault.bi 5).band = State.bandOfSample (biFault.cB 0x7125 2) 3000 (biFault.bi 5).band ∧
      (biFault.bi 5).band ≠ biFault.num 0x7125 7 ∧ (State.wiringKind (biFault.bi 5).band).isSome = true ∧
      (biFault.bi 5).firstTick + biFault.c 0x7125 4 * tickMs ≤ biFault.raw) ∧
    writesB biFault 0x7125 0x0E = true := by
  exact ⟨⟨⟨rest_settled _, rest_settled _, rest_settled _, rest_settled _, rest_settled _, rest_settled _⟩,
    ⟨rest_settled _, rest_settled _, rest_settled _, rest_settled _, rest_settled _, rest_settled _⟩,
    ⟨rest_settled _, rest_settled _⟩⟩, by decide +kernel, by decide +kernel⟩

/-- R359: a short turns BO3 off. -/
theorem test_bo_short : (after (.boShortDetect 3) boOn).map (fun t => (t.num 0x7103 6, t.num 0x7103 7)) = some (4, 1) := by decide +kernel

/-! ## Witnesses: the Photometer -/

/-- The conditioned chain running, with 300 samples; bay 2 not resumed; disabled; mirroring nothing; with its RESET_CMD due. -/
def metered : State :=
  (cfgN (second.setN 0x3200 0xB 3) 0x8002 1 1).modPm (fun p => { p with bays := p.bays.map (fun b => { b with resumed := false }) }) |>.modLoc
    (fun l => { l with nextTracked := 300 })
def meterOn : State := rest metered
def meterOff : State := rest (cfgN metered 0x8002 1 0)
def meterResets : State := rest (metered.modPmBay 2 (fun b => { b with resetDue := true }))
def meterFaults : State :=
  rest ((cfgN (cfgN (cfgN metered 0x8002 4 3) 0x8002 5 3) 0x8002 8 2).modPmBay 2 (fun b => { b with present := [2, 2] }))
def meterFaultsOnce : State := rest (cfgN ((cfgN (cfgN metered 0x8002 4 3) 0x8002 5 3).modPmBay 2 (fun b => { b with present := [2, 2] })) 0x8002 8 1)

theorem witness_PhotometerBooksCycles :
    (base.settled ∧ meterOn.settled ∧ meterOff.settled ∧ meterResets.settled ∧ meterFaults.settled) ∧
    (0x8002 = 0x8000 + (2 : Fin 8).val ∧ 2 < base.pm.bays.length ∧ base.cycleReady 2 = false) ∧
    (meterOn.cycleReady 2 = true ∧ (meterOn.pmBay 2).resumed = false ∧ (meterOn.pmBay 2).resetDue = false ∧ meterOn.pm.snap = none ∧
      meterOn.cB 0x8002 1 = true ∧ (meterOn.pmBay 2).mirrored = none ∧ 2 < meterOn.pm.bays.length) ∧
    (meterOff.cycleReady 2 = true ∧ (meterOff.pmBay 2).resumed = false ∧ (meterOff.pmBay 2).resetDue = false ∧ meterOff.pm.snap = none ∧
      meterOff.cB 0x8002 1 = false) ∧
    (meterResets.cycleReady 2 = true ∧ (meterResets.pmBay 2).resetDue = true ∧
      ∀ b, b < meterResets.pm.bays.length → b ≠ 2 → (meterResets.pmBay b).resetDue = false) ∧
    writesB meterOn 0x8002 0x0F = true ∧
    ((meterFaults.c 0x8002 4).testBit 1 = true ∧ meterFaults.c 0x8002 5 ≤ nth (meterFaults.pmBay 2).present 1 0 + 1 ∧
      (meterFaults.num 0x8002 0x0D).testBit 1 = false ∧ meterFaults.lasting (qkey 5 2 1) = false ∧
      (meterFaults.qualifier (qkey 5 2 1)).history.length + 1 < meterFaults.c 0x8002 8) ∧
    ((meterFaultsOnce.c 0x8002 4).testBit 1 = true ∧ meterFaultsOnce.c 0x8002 5 ≤ nth (meterFaultsOnce.pmBay 2).present 1 0 + 1 ∧
      (meterFaultsOnce.num 0x8002 0x0D).testBit 1 = false ∧ meterFaultsOnce.lasting (qkey 5 2 1) = false ∧
      meterFaultsOnce.c 0x8002 8 ≤ 0 + 1) := by
  exact ⟨⟨rest_settled _, rest_settled _, rest_settled _, rest_settled _, rest_settled _⟩, by decide +kernel⟩

/-- A snapshot in progress whose t_s has passed; a t_s too near; the save due; a demand interval open, not over, and over. -/
def snapTaken : PmSnap := ⟨5, [(1, [⟨77, ⟨0⟩⟩])], [(3, 9)]⟩
def snapDone : State := rest (second.modPm (fun p => { p with snap := some snapTaken }))
def snapWaits : State := rest (second.modPm (fun p => { p with snap := some ⟨2 ^ 70, [], []⟩ }))
def snapNear : State := rest (second.setN 0x8010 1 5)
def saveDue : State := rest (at_ second 60000000000)
def demandOpen : State := rest (second.modPmBay 2 (fun b => { b with demandStart := some 0, sums := [1, 2, 3, 4, 5] }))
def demandOver : State := rest (at_ (second.modPmBay 2 (fun b => { b with demandStart := some 0, sums := [1, 2, 3, 4, 5] })) 400000000000)

theorem witness_PhotometerSavesSnapshotsAndDemand :
    (base.settled ∧ snapDone.settled ∧ snapWaits.settled ∧ snapNear.settled ∧ saveDue.settled ∧ demandOpen.settled ∧ demandOver.settled) ∧
    (commandsB snapNear 0x8010 2 0x8011 = true ∧ snapNear.num 0x8010 1 = 5 ∧ 5 < snapNear.et + 10 * ms) ∧
    (commandsB base 0x8010 2 0x8011 = true ∧ base.num 0x8010 1 = 0 ∧ base.et + 10 * ms ≤ (base.et / sec + 1) * sec ∧
      (base.et / sec + 1) * sec ≤ base.et + 3600 * sec) ∧
    base.pm.snap = none ∧ (snapWaits.pm.snap = some ⟨2 ^ 70, [], []⟩ ∧ snapWaits.snapReady ⟨2 ^ 70, [], []⟩ = false) ∧
    (snapDone.pm.snap = some snapTaken ∧ snapDone.snapReady snapTaken = true ∧ lookup 1 snapTaken.bays = some [⟨77, ⟨0⟩⟩] ∧
      lookup 2 snapTaken.bays = none) ∧
    (commandsB base 0x8010 9 0x8012 = true ∧ 7 < base.pm.bays.length) ∧
    saveDue.pmSaveDue = true ∧ second.pmSaveDue = false ∧
    (base.pmBay 2).demandStart = none ∧
    ((demandOpen.pmBay 2).demandStart = some 0 ∧ (demandOpen.pmBay 2).sums = [1, 2, 3, 4, 5] ∧
      demandOpen.demandReach 2 < demandOpen.demandEnd 2 0) ∧
    ((demandOver.pmBay 2).demandStart = some 0 ∧ (demandOver.pmBay 2).sums = [1, 2, 3, 4, 5] ∧
      demandOver.demandEnd 2 0 ≤ demandOver.demandReach 2) ∧
    (writesB snapDone (0x8100 + (5 : Fin 24).val) 9 = true ∧ snapDone.pm.snap = some snapTaken ∧ snapTaken.ts ≤ snapDone.et) := by
  exact ⟨⟨rest_settled _, rest_settled _, rest_settled _, rest_settled _, rest_settled _, rest_settled _, rest_settled _⟩, by decide +kernel⟩

/-- R381: the interval's record carries its start. -/
theorem test_demand_record : (after (.demandBoundary 2) demandOver).map (fun t => (t.num 0x8002 0x0B, (t.elem 0x8002 0x0C 0).take 16)) =
    some (1, etBytes 0 ++ beBytes 4 900000) := by decide +kernel

/-! ## Witnesses: the Plate recorder -/

/-- The recorder ARMED with AUTO_PERIOD 60 s past; a plate; every slot HELD; recording; after its plate; stopped; with triggers. -/
def armedPlates : State :=
  cfgE (at_ (cfgN ((second.setN 0x9000 2 1).modRec (fun r => { r with epoch := 1 })) 0x9000 7 60) 60000000000) 0x9010 1 4 [7, 1, 0, 0, 5]
def plateOf (n st : Nat) : Plate :=
  { number := n, state := st, flags := 0, severity := 3, firstTrigger := 1, firstSegment := 0, startEt := 0, trigEt := 0, trigIndex := 0,
    trigFrac := 0, pre := 0, epoch := 1, first := 0, trig := 0, stop := 10, markers := [] }
def recArmed : State := rest armedPlates
def recFull : State := rest (armedPlates.modRec (fun r => { r with plates := (List.range 64).map (fun n => (n, plateOf n 2)) }))
def recProtect : State := rest (cfgN (armedPlates.modRec (fun r => { r with plates := (List.range 64).map (fun n => (n, plateOf n 2)) })) 0x9000 8 1)
def recRuns : State := (armedPlates.setN 0x9000 2 2).modRec (fun r => { r with plates := [(3, plateOf 9 1)] })
def recRecords : State := rest recRuns
def recCrowded : State := rest (recRuns.modRec (fun r => { r with plates := [(3, { plateOf 9 1 with markers := List.replicate 32 ⟨0, 0, 1⟩ })] }))
def recExtends : State := rest (cfgN recRuns 0x9000 5 1)
def recComplete : State := rest (recRuns.modLoc (fun l => { l with nextFixed := 10000000 }))
def recRearms : State := rest (armedPlates.setN 0x9000 2 3)
def recRearmsYet : State := rest ((armedPlates.setN 0x9000 2 3).modRec (fun r => { r with lastEnd := 2 ^ 70 }))
def recStopped : State := rest (armedPlates.setN 0x9000 2 4)
def recStation : State := rest (cfgN (armedPlates.modRec (fun r => { r with origins := [⟨4, 2, 0⟩] })) 0x9000 9 1)
def recEdge : State := rest (cfgN (armedPlates.modRec (fun r => { r with edgeTick := some 59999999999 })) 0x9000 9 1)
def recMaster : State := rest (cfgN armedPlates 0x9000 9 2)
def recPulls : State := rest (armedPlates.modRec (fun r => { r with pulled := true, pullEnd := 5 }))
def recPullsYet : State := rest (armedPlates.modRec (fun r => { r with pulled := true, pullEnd := 2 ^ 50 }))

theorem witness_PlatesFollowTriggers :
    ((base.settled ∧ recArmed.settled ∧ recFull.settled ∧ recProtect.settled ∧ recRecords.settled ∧ recCrowded.settled) ∧
      (recExtends.settled ∧ recComplete.settled ∧ recRearms.settled ∧ recRearmsYet.settled ∧ recStopped.settled ∧ recStation.settled) ∧
      (recEdge.settled ∧ recMaster.settled ∧ recPulls.settled ∧ recPullsYet.settled)) ∧
    ((second.recorderState = 0 ∧ base.c 0x9000 9 = 0 ∧ base.recording = none) ∧
    (recArmed.c 0x9000 7 ≠ 0 ∧ recArmed.rec_.autoFrom + recArmed.c 0x9000 7 * tickSec ≤ recArmed.raw ∧ recArmed.recorderState = 1 ∧
      recArmed.freeSlot = some 0) ∧
    (recProtect.rec_.autoFrom + recProtect.c 0x9000 7 * tickSec ≤ recProtect.raw ∧ recProtect.recorderState = 1 ∧ recProtect.freeSlot = none ∧
      recProtect.c 0x9000 8 = 1) ∧
    (recFull.rec_.autoFrom + recFull.c 0x9000 7 * tickSec ≤ recFull.raw ∧ recFull.recorderState = 1 ∧ recFull.freeSlot = none ∧
      recFull.c 0x9000 8 = 0 ∧ recFull.victimPlate = some (0, plateOf 0 2) ∧ lookup 0 recFull.rec_.plates = some (plateOf 0 2)) ∧
    (recRecords.rec_.autoFrom + recRecords.c 0x9000 7 * tickSec ≤ recRecords.raw ∧ recRecords.recorderState = 2 ∧
      recRecords.recording = some (3, plateOf 9 1) ∧ recRecords.cB 0x9000 5 = false ∧ (plateOf 9 1).epoch = recRecords.rec_.epoch ∧
      recRecords.loc.nextFixed < (plateOf 9 1).stop) ∧
    (recCrowded.recorderState = 2 ∧ (recCrowded.recording.map (fun x => decide (32 ≤ x.2.markers.length))) = some true ∧
      recCrowded.cB 0x9000 5 = false) ∧
    (recExtends.recorderState = 2 ∧ recExtends.recording = some (3, plateOf 9 1) ∧ (recExtends.rec_.plates.map (·.1)).Nodup ∧
      recExtends.cB 0x9000 5 = true)) ∧
    (((recRearms.recorderState = 3 ∧ recRearms.rec_.lastEnd + recRearms.c 0x9000 6 * ms ≤ recRearms.et) ∧ recStopped.recorderState = 4 ∧
      recRearmsYet.et < recRearmsYet.rec_.lastEnd + recRearmsYet.c 0x9000 6 * ms) ∧
    (recEdge.c 0x9000 9 ≠ 0 ∧ recEdge.power = 0 ∧ recEdge.rec_.edgeTick = some 59999999999 ∧
      recEdge.raw < 59999999999 + 2 * recEdge.c 0x9000 0x0A * tickUs) ∧
    (recStation.c 0x9000 9 ≠ 0 ∧ recStation.power = 0 ∧ recStation.rec_.edgeTick = none ∧ recStation.recorderState = 1 ∧
      recStation.freeSlot = some 0 ∧ recStation.recording = none ∧ recStation.rec_.origins = [⟨4, 2, 0⟩]) ∧
    (recComplete.recording = some (3, plateOf 9 1) ∧ (plateOf 9 1).epoch = recComplete.rec_.epoch ∧ (plateOf 9 1).stop ≤ recComplete.loc.nextFixed) ∧
    ((recPulls.rec_.pulled = true ∧ recPulls.rec_.pullEnd ≤ recPulls.raw) ∧ base.rec_.pulled = false ∧ recPullsYet.raw < recPullsYet.rec_.pullEnd) ∧
    (commandsB recStopped 0x9000 0x15 0x9001 = true ∧ (recStopped.trigger 4).kind = 7 ∧ recStopped.recorderState ≠ 1 ∧
      recStopped.recorderState ≠ 2) ∧
    (commandsB recArmed 0x9000 0x15 0x9001 = true ∧ (recArmed.trigger 4).kind = 7 ∧ recArmed.xarmLow = false) ∧
    (commandsB recMaster 0x9000 0x15 0x9001 = true ∧ (recMaster.trigger 4).kind = 7 ∧ recMaster.recorderState = 1 ∧
      (recMaster.trigger 4).stationOut = true ∧ recMaster.xarmLow = true ∧ recMaster.drivesStation = true ∧ recMaster.rec_.pulled = false) ∧
    (commandsB recArmed 0x9000 0x16 0x9002 = true ∧ recArmed.recorderState ≠ 4) ∧ commandsB recStopped 0x9000 0x16 0x9002 = true) := by
  exact ⟨⟨⟨rest_settled _, rest_settled _, rest_settled _, rest_settled _, rest_settled _, rest_settled _⟩,
    ⟨rest_settled _, rest_settled _, rest_settled _, rest_settled _, rest_settled _, rest_settled _⟩,
    ⟨rest_settled _, rest_settled _, rest_settled _, rest_settled _⟩⟩,
    by decide +kernel, by decide +kernel⟩

/-- R404: the first automatic plate opens slot 0. -/
theorem test_auto_plate : (after .autoTrigger recArmed).map (fun t => (t.num 0x9000 2, (lookup 0 t.rec_.plates).map (·.firstTrigger))) =
    some (2, some 32) := by decide +kernel

/-- Plate 7 held; the job of its export; exported, its block 0 sought, ready, and to be compressed. -/
def heldOne : State := armedPlates.modRec (fun r => { r with plates := [(3, plateOf 7 2)] })
def plateHeld : State := rest heldOne
def plateJob : State := rest (heldOne.modAlm (fun a => { a with jobs := [⟨0x9013, 0, [], .exportPlate 7⟩] }))
def plateOut : State := (heldOne.modRec (fun r => { r with exported := some 7 })).setN 0x9012 4 1
def plateExported : State := rest plateOut
def chunkOf (s : State) (ready : Bool) : State := s.modRec (fun r => { r with chunks := [⟨1, 0, ready, [], false⟩] })
def chunkSought : State := rest (chunkOf plateOut false)
def chunkReady : State := rest (chunkOf plateOut true)
def chunkPacked : State := rest ((chunkOf plateOut false).setN 0x9012 2 1)

theorem witness_HeldPlatesAreExported :
    (base.settled ∧ plateHeld.settled ∧ plateJob.settled ∧ plateExported.settled ∧ chunkSought.settled ∧ chunkReady.settled ∧
      chunkPacked.settled) ∧
    (commandsB plateHeld 0x9000 0x17 0x9003 = true ∧ plateHeld.heldPlate 8 = none ∧ plateHeld.heldPlate 7 = some (3, plateOf 7 2)) ∧
    commandsB plateHeld 0x9012 1 0x9013 = true ∧
    (plateJob.job 0x9013 = some ⟨0x9013, 0, [], .exportPlate 7⟩ ∧ plateJob.heldPlate 7 = some (3, plateOf 7 2)) ∧
    (writesB plateExported 0x9012 5 = true ∧ 0 < plateExported.num 0x9012 4) ∧
    base.chunk 1 = none ∧ plateHeld.exportedPlate = none ∧
    (chunkReady.chunk 1 = some ⟨1, 0, true, [], false⟩ ∧ chunkReady.exportedPlate = some (plateOf 7 2)) ∧
    (chunkSought.chunk 1 = some ⟨1, 0, false, [], false⟩ ∧ chunkSought.exportedPlate = some (plateOf 7 2) ∧ chunkSought.num 0x9012 2 = 0) ∧
    (chunkPacked.chunk 1 = some ⟨1, 0, false, [], false⟩ ∧ chunkPacked.exportedPlate = some (plateOf 7 2) ∧ chunkPacked.num 0x9012 2 = 1 ∧
      chunkPacked.datBlock (plateOf 7 2) 0 ≠ []) ∧ 65536 * 0 < 206 * ((plateOf 7 2).stop - (plateOf 7 2).first) := by
  exact ⟨⟨rest_settled _, rest_settled _, rest_settled _, rest_settled _, rest_settled _, rest_settled _, rest_settled _⟩, by decide +kernel⟩

/-! ## Witnesses: the Logbook and the compression engine -/

/-- A record; the unit with two records queued for the flash ring and three in the ring, one damaged; with flash sectors full or not. -/
def logRec (n : Nat) (ok : Bool) : LogRecord := ⟨n, 5, 3, 4, 0, 1, 7, List.replicate 8 0, ok⟩
def logUnit : State := second.modEv (fun e => { e with flashQueue := [logRec 3 true, logRec 4 true], ring := [logRec 9 true, logRec 8 false, logRec 7 true] })
def logQueued : State := rest logUnit
def logSector : State := rest (logUnit.modFlash (fun f => { f with log := [[logRec 1 true]] }))
def logNewSector : State := rest (logUnit.modFlash (fun f => { f with log := [List.replicate 1024 (logRec 1 true)] }))
def logErases : State := rest (logUnit.modFlash (fun f => { f with log := List.replicate 128 (List.replicate 1024 (logRec 1 true)) }))

theorem witness_LogbookKeepsRecords :
    (base.settled ∧ logQueued.settled ∧ logSector.settled ∧ logNewSector.settled ∧ logErases.settled) ∧
    (logRec 3 true).values.length = 8 ∧ (victim [logRec 9 true, logRec 8 false, logRec 7 true] 4 = some 7 ∧ victim [logRec 9 true] 3 = none) ∧
    (logQueued.ev.ring.filter (·.intact)).length < logQueued.logCapacity ∧
    (base.ev.flashQueue = [] ∧ logQueued.ev.flashQueue = [logRec 3 true, logRec 4 true] ∧ logQueued.flash.log = []) ∧
    (logSector.ev.flashQueue = [logRec 3 true, logRec 4 true] ∧ logSector.flash.log = [] ++ [[logRec 1 true]]) ∧
    (logNewSector.ev.flashQueue = [logRec 3 true, logRec 4 true] ∧
      logNewSector.flash.log.map (fun x => decide (1024 ≤ x.length)) = [true]) ∧
    (logErases.ev.flashQueue = [logRec 3 true, logRec 4 true] ∧ logErases.flash.log.length = 127 + 1 ∧
      (logErases.flash.log.getLast?.map (·.length)) = some 1024) ∧
    writesB logQueued 0xA000 0x0D = true ∧ writesB logQueued 0xA000 0x0E = true := by
  exact ⟨⟨rest_settled _, rest_settled _, rest_settled _, rest_settled _, rest_settled _⟩, by decide +kernel⟩

theorem witness_LogbookIsReadInBlocks : logQueued.settled ∧ writesB logQueued 0xA002 2 = true ∧ logQueued.ownNum 1 0xA002 3 ≠ 1 :=
  ⟨rest_settled _, by decide +kernel⟩

/-- R424, R426: one record is damaged, one is below the SEQUENCE chosen. -/
theorem test_log_select : (after (.logSelect req 8) logQueued).map (fun t => (t.ev.blocks.map (fun b => (b.records, b.next, b.ready)), t.num 0xA000 7)) =
    some ([(1, 10, false)], 1) := by decide +kernel

/-- A job of 8 input bytes, one 200-byte output buffer: a descriptor, the buffer, and a stored block of "ABC" (R428–R430). -/
def jobBytes (op : Nat) : List Byte :=
  [byte op, 1, 0, 0] ++ beBytes 4 8 ++ beBytes 8 3000 ++ beBytes 8 5000 ++ beBytes 8 100 ++ beBytes 4 0 ++ beBytes 2 4 ++ beBytes 2 0 ++
    beBytes 8 0 ++ beBytes 8 7000 ++ beBytes 8 100000
def jobBuffer : List Byte := beBytes 8 6000 ++ beBytes 4 200 ++ beBytes 4 0 ++ beBytes 8 0 ++ beBytes 8 0
def storedAbc : List Byte := [1, 3, 0, 0xFC, 0xFF, 0x41, 0x42, 0x43]
def jobUnit (op : Nat) : State := { second with
  dram := Memory.writeBytes (Memory.writeBytes (Memory.writeBytes second.dram 1000 (jobBytes op)) 5000 jobBuffer) 3000 storedAbc }
def jobQueue (s : State) (q : List Nat) : State := { s with eng := { s.eng with queue := q } }
def jobNew : State := rest (jobUnit 2)
def jobFull : State := rest (jobQueue (jobUnit 2) (List.replicate 16 1000))
def jobBad : State := rest (jobQueue (jobUnit 9) [1000])
def jobDecodes : State := rest (jobQueue (jobUnit 2) [1000])
def jobEncodes : State := rest (jobQueue (jobUnit 1) [1000])
def jobSelftest : State := rest (second.modAlm (fun a => { a with jobs := [⟨0x9801, 0, [], .selftest⟩] }))

theorem witness_CompressedRunsDecodeAlone : storedAbc.length ≤ 65536 ∧ ∃ run raw, compressRun true storedAbc = (run, raw) :=
  ⟨by decide, _, _, rfl⟩

theorem compressRun_length (final : Bool) (b : List Byte) : (compressRun final b).1.length ≤ (storedRun final b).length := by
  simp only [compressRun]
  split
  · rename_i h
    exact Nat.le_of_lt h.1
  · exact Nat.le_refl _

/-- The run of that input is its stored form or shorter, so it fits the buffer. -/
theorem witness_JobOutputFits : (((compressRuns true storedAbc).map (·.1)).flatten).length ≤ 200 := by
  have h : ((compressRuns true storedAbc).map (·.1)).flatten = (compressRun true storedAbc).1 ++ [] := rfl
  rw [h, List.append_nil]
  exact Nat.le_trans (compressRun_length _ _) (by decide +kernel)

theorem witness_CompressionEngineRunsJobs :
    (jobNew.settled ∧ jobFull.settled ∧ jobBad.settled ∧ jobDecodes.settled ∧ jobEncodes.settled ∧ jobSelftest.settled) ∧
    (4294967296 < 4294967290 + 64 ∧ 1000 + 64 ≤ 4294967296) ∧ 16 ≤ jobFull.eng.queue.length ∧ jobNew.eng.queue = [] ∧
    (jobBad.eng.queue = [1000] ∧ (readDescriptor jobBad.dram 1000).ok = false) ∧
    (jobDecodes.eng.queue = [1000] ∧ (readDescriptor jobDecodes.dram 1000).ok = true ∧ (readDescriptor jobDecodes.dram 1000).flags = 1 ∧
      (readDescriptor jobDecodes.dram 1000).outChain = 5000 ∧ (readDescriptor jobDecodes.dram 1000).op = 2 ∧
      bufferOk jobDecodes.dram 5000 = true ∧ dramNat jobDecodes.dram 5000 8 = 6000 ∧ dramNat jobDecodes.dram (5000 + 8) 4 = 200 ∧
      Memory.readBytes jobDecodes.dram (readDescriptor jobDecodes.dram 1000).inAddr (readDescriptor jobDecodes.dram 1000).inLen = storedAbc ∧
      (inflate storedAbc 100 4294967297).1 = .done ∧ (inflate storedAbc 100 4294967297).2.bytesOut = [0x41, 0x42, 0x43] ∧
      (inflate storedAbc 100 4294967297).2.count = 3 ∧ (readDescriptor jobDecodes.dram 1000).outLimit = 100) ∧
    (jobEncodes.eng.queue = [1000] ∧ (readDescriptor jobEncodes.dram 1000).ok = true ∧ (readDescriptor jobEncodes.dram 1000).flags = 1 ∧
      (readDescriptor jobEncodes.dram 1000).outChain = 5000 ∧ (readDescriptor jobEncodes.dram 1000).op = 1 ∧
      bufferOk jobEncodes.dram 5000 = true ∧ (readDescriptor jobEncodes.dram 1000).mapAddr = 7000 ∧
      (readDescriptor jobEncodes.dram 1000).mapCapacity = 4 ∧
      Memory.readBytes jobEncodes.dram (readDescriptor jobEncodes.dram 1000).inAddr (readDescriptor jobEncodes.dram 1000).inLen = storedAbc ∧
      dramNat jobEncodes.dram (5000 + 8) 4 = 200) ∧
    commandsB jobNew 0x9800 0x0A 0x9801 = true ∧ jobSelftest.job 0x9801 = some ⟨0x9801, 0, [], .selftest⟩ := by
  exact ⟨⟨rest_settled _, rest_settled _, rest_settled _, rest_settled _, rest_settled _, rest_settled _⟩, by decide +kernel⟩

/-- R428: a submission to an idle engine is RUNNING at once. -/
theorem test_compress_runs : (after (.compress 1000) jobNew).map (fun t => (t.eng.queue, Memory.read t.dram 1002)) = some ([1000], 1) := by
  decide +kernel

theorem witness_EveryStepKeepsDramCanonical : Memory.wf jobNew.dram = true ∧
    (match Sys2Proof.Machine.step { jobNew with pending := [.compress 1000] } with | .next _ => true | _ => false) = true := by
  decide +kernel

/-! ## Witnesses: the key store and tamper -/

/-- A unit with its root and keys in slots 0 (KS0), 12 (MAC), 13 (AES) and 14 (ECDSA), slot 14 to sign and verify; a key job on a slot. -/
def keyUnit : State := second.modKeys (fun k => { k with
  root := some (List.replicate 32 7)
  loaded := [⟨0, 0x10011, List.replicate 48 5, List.replicate 97 6⟩, ⟨12, 0x40407, List.replicate 48 1, []⟩, ⟨13, 0x302C1, List.replicate 32 3, []⟩,
    ⟨14, 0x10031, List.replicate 48 2, List.replicate 97 4⟩] })
def keyed3 : State := rest keyUnit
def keyJob (s : State) (op slot : Nat) (input : List Byte) : State :=
  rest (s.modAlm (fun a => { a with jobs := [⟨0xB102, 0, [], .key op slot 0 input⟩] }))
def keyAction (s : State) : Option (Nat × Nat × List Byte) :=
  match s.job 0xB102 with
  | some ⟨_, _, _, .key op slot _ input⟩ => some (op, slot, input)
  | _ => none
def attestInput : List Byte := List.replicate 32 9 ++ [2]
def sealedInput (more : List Byte) : List Byte := List.replicate 12 1 ++ beBytes 2 0 ++ [] ++ more
def keyRestricted : State := keyJob (keyUnit.setN 0xB100 1 1) 9 12 [1, 2, 3]
def keyAttests : State := keyJob keyUnit 0x0C 0 attestInput
def keyMacs : State := keyJob keyUnit 9 12 [1, 2, 3]
def keyNone : State := keyJob keyUnit 9 13 [1, 2, 3]
def keyBarred : State := keyJob keyUnit 9 3 [1, 2, 3]
def keySigns : State := keyJob keyUnit 5 14 (List.replicate 48 1)
def keyVerifies : State := keyJob keyUnit 6 14 (List.replicate 144 1)
def keySeals : State := keyJob keyUnit 7 13 (sealedInput [1, 2, 3])
def keyOpens : State := keyJob keyUnit 8 13 (sealedInput ([1, 2] ++ List.replicate 16 0))

theorem witness_KeyCommandsRunOnSlots :
    ((keyed3.settled ∧ keyRestricted.settled ∧ keyAttests.settled ∧ keyMacs.settled ∧ keyNone.settled ∧ keyBarred.settled) ∧
      (keySigns.settled ∧ keyVerifies.settled ∧ keySeals.settled ∧ keyOpens.settled)) ∧
    (commandsB keyed3 0xB101 1 0xB102 = true ∧
    (keyAction keyRestricted = some (9, 12, [1, 2, 3]) ∧ keyRestricted.restricted = true ∧ State.attestsTamper 9 [1, 2, 3] = false) ∧
    (keyAction keyAttests = some (0x0C, 0, attestInput) ∧ attestInput.length = 33 ∧ field attestInput 32 1 = 2 ∧ (keyAttests.key 0).isSome = true)) ∧
    ((keyAction keyMacs = some (9, 12, [1, 2, 3]) ∧ keyMacs.restricted = false ∧ keyMacs.stage ≠ 15 ∧ keyMacs.keys.root ≠ none ∧
      keyMacs.slotBar 12 = 0 ∧ (keyMacs.usable 12 (State.usageOf 9).1 (State.usageOf 9).2).isSome = true) ∧
    (keyAction keyNone = some (9, 13, [1, 2, 3]) ∧ keyNone.slotBar 13 = 0 ∧ keyNone.usable 13 (State.usageOf 9).1 (State.usageOf 9).2 = none) ∧
    (keyAction keyBarred = some (9, 3, [1, 2, 3]) ∧ keyBarred.restricted = false ∧ keyBarred.slotBar 3 ≠ 0)) ∧
    ((keyAction keySigns = some (5, 14, List.replicate 48 1) ∧
      ((keySigns.usable 14 (State.usageOf 5).1 (State.usageOf 5).2).map (fun k => decide (k.secret ≠ []))) = some true) ∧
    (keyAction keyVerifies = some (6, 14, List.replicate 144 1) ∧ (keyVerifies.usable 14 (State.usageOf 6).1 (State.usageOf 6).2).isSome = true) ∧
    (keyAction keySeals = some (7, 13, sealedInput [1, 2, 3]) ∧ (keySeals.usable 13 (State.usageOf 7).1 (State.usageOf 7).2).isSome = true) ∧
    (keyAction keyOpens = some (8, 13, sealedInput ([1, 2] ++ List.replicate 16 0)) ∧
      (keyOpens.usable 13 (State.usageOf 8).1 (State.usageOf 8).2).isSome = true) ∧
    (20 < keyed3.flash.slots.length ∧ keyOrigin 0x40401 ≠ 0 ∧ keyed3.slotBar 20 = 0)) := by
  exact ⟨⟨⟨rest_settled _, rest_settled _, rest_settled _, rest_settled _, rest_settled _, rest_settled _⟩,
    ⟨rest_settled _, rest_settled _, rest_settled _, rest_settled _⟩⟩, by decide +kernel, by decide +kernel, by decide +kernel⟩

/-- A record whose tag is wrong opens to nothing. -/
theorem witness_KeyRecordRefused : gcmOpen (List.replicate 32 3) (List.replicate 12 1) [] [1, 2] (List.replicate 16 0) = none := by decide +kernel

/-- R453, R460: a RESTRICTED unit ends a MAC with STATE. -/
theorem test_restricted_mac : (after (.commandComplete 0xB102) keyRestricted).map (fun t => (t.num 0xB102 2, t.num 0xB102 3)) = some (3, 3) := by
  decide +kernel

/-- The copies of a slot: none in factory flash, so a new key starts at GENERATION 1. -/
theorem witness_KeyCopies : ((winnerOf (keyed3.copies (List.replicate 32 7) 20).1 (keyed3.copies (List.replicate 32 7) 20).2).map
    (fun y => y.1.generation + 1)).getD 1 = 1 := by decide +kernel

/-- Loop 0 bad once, in a start before the slots are loaded and in operation; RESTRICTED, with and without an active source; QUIET. -/
def loopStarts : State := rest ((keyUnit.setN 0xD000 1 3).modKeys (fun k => { k with loopRuns := [1, 0, 0, 0] }))
def tamperQuiet : State := rest (keyUnit.setN 0xF140 1 2)
def tamperHeldQuiet : State := rest ((keyUnit.setN 0xB100 1 1).setN 0xF140 1 2)
def tamperHeld : State := rest (keyUnit.setN 0xB100 1 1)
def tamperHeldActive : State := rest ((keyUnit.setN 0xB100 1 1).setN 0xB100 0xC 1)
def tamperLatched : State := rest (keyUnit.setN 0xB100 0xB 32)

theorem witness_TamperRestrictsTheUnit :
    (keyed3.settled ∧ loopStarts.settled ∧ tamperQuiet.settled ∧ tamperHeld.settled ∧ tamperHeldActive.settled ∧ tamperLatched.settled ∧
      keyMacs.settled ∧ tamperHeldQuiet.settled) ∧
    keyed3.keys.loopRuns = [0, 0, 0, 0] ∧
    (loopStarts.keys.loopRuns = [1, 0, 0, 0] ∧ loopIntact 0 = false ∧ loopIntact 500 = true ∧ loopStarts.tamperEnabled 0 = true ∧
      (loopStarts.num 0xB100 0x0B).testBit 0 = false ∧ loopStarts.restricted = false ∧ loopStarts.slotsLoaded = false ∧ loopStarts.power < 2) ∧
    (tamperLatched.num 0xB100 0x0B).testBit 5 = true ∧
    (keyed3.tamperEnabled 5 = true ∧ (keyed3.num 0xB100 0x0B).testBit 5 = false) ∧
    (tamperHeld.tamperEnabled 5 = true ∧ (tamperHeld.num 0xB100 0x0B).testBit 5 = false ∧ tamperHeld.restricted = true ∧ tamperHeld.power < 2) ∧
    (tamperHeldQuiet.tamperEnabled 5 = true ∧ (tamperHeldQuiet.num 0xB100 0x0B).testBit 5 = false ∧ tamperHeldQuiet.restricted = true ∧
      2 ≤ tamperHeldQuiet.power) ∧
    (loopStarts.tamperEnabled 5 = true ∧ (loopStarts.num 0xB100 0x0B).testBit 5 = false) ∧
    (keyMacs.restricted = false ∧ keyMacs.power < 2 ∧ keyMacs.slotsLoaded = true ∧ keyMacs.tamperEnabled 5 = true ∧
      keyMacs.num 0xB100 0x0B = 0) ∧
    (tamperQuiet.tamperEnabled 5 = true ∧ (tamperQuiet.num 0xB100 0x0B).testBit 5 = false ∧ tamperQuiet.restricted = false ∧
      2 ≤ tamperQuiet.power) ∧
    (heardB keyed3 = true ∧ keyed3.stage ≠ 15 ∧ State.writeRole 0xB100 0x0F ≤ 3 ∧ keyed3.num 0xB103 2 = 0 ∧ keyed3.restricted = false) ∧
    (heardB tamperHeld = true ∧ tamperHeld.restricted = true ∧ tamperHeld.num 0xB100 0x0C &&& tamperHeld.keys.pd0Enable = 0) ∧
    (heardB tamperHeldActive = true ∧ tamperHeldActive.restricted = true ∧
      tamperHeldActive.num 0xB100 0x0C &&& tamperHeldActive.keys.pd0Enable ≠ 0) := by
  exact ⟨⟨rest_settled _, rest_settled _, rest_settled _, rest_settled _, rest_settled _, rest_settled _, rest_settled _, rest_settled _⟩,
    by decide +kernel⟩

/-- R463: a latch in operation makes the unit RESTRICTED. -/
theorem test_tamper_latch : (after (.tamperLatch 5) keyed3).map (fun t => (t.num 0xB100 1, t.num 0xB100 0x0B, t.alm.sessions)) = some (1, 32, []) := by
  decide +kernel

/-! ## Witnesses: redundant pairs and the witness -/

/-- A pair unit with a permit and its transits running: ready, mirrored before, claiming, ACTING, deposed, its link UP; handing over. -/
def mirrorImage : OutputImage := ⟨List.replicate 16 false, [], 5, 0, 0, false, false⟩
def pairUnit : State := (((cfgN second 0xC000 1 1).setN 0xC000 5 0).setN 0xC000 6 1).modPar (fun p => { p with permitTick := some 400000000 }) |>.modTr
  (fun t => { t with running := true })
def pairWaits : State := rest pairUnit
def pairHeld : State := rest (pairUnit.modOrr (fun o => { o with imageIn := some mirrorImage, imageTick := some 400000000 }))
def pairClaims : State := rest (pairUnit.modPar (fun p => { p with claim := true, claimTick := 5 }))
def pairActs : State := rest ((pairUnit.modPar (fun p => { p with claim := true, claimTick := 5 })).setN 0xC000 5 1)
def pairHands : State := rest ((pairUnit.modPar (fun p => { p with handover := true, handedOver := true })).setN 0xC001 2 1)
def pairDeposed : State := rest (pairUnit.modPar (fun p => { p with depose := true, deposed := true, deposeTick := 5 }))
def pairPeer : State := rest (pairUnit.modPar (fun p => { p with peer := true }))
def pairLinked : State := rest (((pairUnit.modPar (fun p => { p with claim := true, claimTick := 5 })).setN 0xC000 5 1).setN 0xC000 9 3)
def pairLinkedRuns : State :=
  rest ((((pairUnit.modPar (fun p => { p with claim := true, claimTick := 5 })).setN 0xC000 5 1).setN 0xC000 9 3).setN 0x7000 2 2)

theorem witness_PairUnitsClaimAndRelease :
    ((base.settled ∧ pairWaits.settled ∧ pairHeld.settled ∧ pairClaims.settled ∧ pairActs.settled ∧ pairHands.settled) ∧
      (pairDeposed.settled ∧ pairPeer.settled ∧ pairLinked.settled ∧ pairLinkedRuns.settled)) ∧
    (base.isPair = false ∧ base.par.depose = false) ∧
    ((pairWaits.isPair = true ∧ pairWaits.par.claim = false ∧ pairWaits.par.peer = false ∧ pairWaits.pairReady = true ∧
      pairWaits.hasPermit = true ∧ pairWaits.heldCase = false) ∧
    (pairHeld.isPair = true ∧ pairHeld.par.claim = false ∧ pairHeld.par.peer = false ∧ pairHeld.pairReady = true ∧
      pairHeld.hasPermit = true ∧ pairHeld.heldCase = true) ∧
    (pairClaims.isPair = true ∧ pairClaims.acting = false ∧ pairClaims.par.claim = true ∧ pairClaims.par.peer = false ∧
      pairClaims.par.depose = false ∧ pairClaims.par.claimTick + 400 ≤ pairClaims.raw)) ∧
    ((pairActs.isPair = true ∧ pairActs.par.peer = false ∧ pairActs.par.claim = true ∧ pairActs.acting = true) ∧
    pairPeer.par.peer = true ∧
    (pairHands.isPair = true ∧ pairHands.par.peer = false ∧ pairHands.par.claim = false ∧ pairHands.par.handedOver = true ∧
      pairHands.num 0xC001 2 = 1) ∧
    (pairDeposed.isPair = true ∧ pairDeposed.cB 0xC000 0x16 = true ∧ pairDeposed.inRunning = true ∧ pairDeposed.power = 0 ∧
      pairDeposed.par.depose = true ∧ pairDeposed.par.deposeTick + 100 * tickMs ≤ pairDeposed.raw)) ∧
    (commandsB base 0xC000 0x15 0xC001 = true ∧ commandsB pairActs 0xC000 0x15 0xC001 = true ∧ pairActs.num 0xC000 9 ≠ 3) ∧
    (commandsB pairLinked 0xC000 0x15 0xC001 = true ∧ pairLinked.isPair = true ∧ pairLinked.acting = true ∧ pairLinked.num 0xC000 9 = 3 ∧
      pairLinked.num 0x7000 2 ≠ 2) ∧
    (commandsB pairLinkedRuns 0xC000 0x15 0xC001 = true ∧ pairLinkedRuns.num 0xC000 9 = 3 ∧ pairLinkedRuns.acting = true ∧
      pairLinkedRuns.num 0x7000 2 = 2) := by
  exact ⟨⟨⟨rest_settled _, rest_settled _, rest_settled _, rest_settled _, rest_settled _, rest_settled _⟩,
    ⟨rest_settled _, rest_settled _, rest_settled _, rest_settled _⟩⟩, by decide +kernel⟩

/-- R471: 1 µs after its claim the unit acts. -/
theorem test_acting_start : (after .actingStart pairClaims).map (fun t => (t.acting, t.num 0xC000 0x11)) = some (true, 1) := by decide +kernel

/-- A standby whose link is UP, its Orrery running at cycle 9 or not; on another base; after PAIR_HOLD while the peer claims. -/
def standby : State := rest (pairUnit.setN 0xC000 9 3)
def standbyRuns : State := rest (((pairUnit.setN 0xC000 9 3).setN 0x7000 2 2).modOrr (fun o => { o with m := 9 }))
def standbyMoves : State := rest (((pairUnit.setN 0xC000 9 3).setN 0x7000 2 2).modOrr (fun o => { o with base := 7 }))

theorem witness_StandbyTakesTheMirror :
    (base.settled ∧ standby.settled ∧ standbyRuns.settled ∧ standbyMoves.settled ∧ pairPeer.settled) ∧
    (base.isPair = false ∧ base.takesMirror = false) ∧ (standby.isPair = true ∧ standby.par.handover = false) ∧
    (standby.takesMirror = true ∧ standby.num 0x7000 2 ≠ 2 ∧ standby.num 0x6100 0x0A < 1 ∧ 0 = standby.num 0x6100 0x0A ∧
      [4].Nodup ∧ 3 < standby.pm.bays.length ∧ standby.num 0x5000 9 < 1 ∧ 0 ≤ standby.num 0x5000 9 ∧
      (3 : Fin 16).val < standby.egr.pubs.length) ∧
    (standbyRuns.takesMirror = true ∧ standbyRuns.num 0x7000 2 = 2 ∧ standbyRuns.orr.base = mirrorImage.base ∧
      mirrorImage.cycle < standbyRuns.orr.m) ∧
    (standbyMoves.takesMirror = true ∧ standbyMoves.num 0x7000 2 = 2 ∧ standbyMoves.orr.base ≠ mirrorImage.base) ∧
    (pairPeer.isPair = true ∧ pairPeer.acting = false ∧ pairPeer.par.peer = true ∧
      pairPeer.orr.imageTick.getD 0 + pairPeer.c 0xC000 7 * tickMs ≤ pairPeer.raw) := by
  exact ⟨⟨rest_settled _, rest_settled _, rest_settled _, rest_settled _, rest_settled _⟩, by decide +kernel⟩

/-- A POLL to unit 0 with PERMIT and SEQ 9, its CRC from R480's polynomial; a permit that has lapsed; the witness, its polls out, and unit 0's STATUS. -/
def framed (b : List Byte) : List Byte := b ++ beBytes 2 (crc16 b)
def pollBytes : List Byte := framed [0xA5, 1, 0, 9, 1, 0]
def statusBytes (st al : Nat) : List Byte := framed ([0xA5, 2, 0, 1, byte st, 0] ++ beBytes 2 al ++ [1, 0])
def permitOver : State := rest (at_ pairUnit 900000000)
def witnessUnit : State := cfgN (second.setN 0xC000 3 1) 0xC100 1 1
def witPolls : State := rest witnessUnit
def witAwaits : State := rest (witnessUnit.modWit (fun w => { w with
  pollTick := 400000000, units := w.units.map (fun u => { u with seq := 1, polled := some 400000000 }) }))
def witBeats : State := rest (witnessUnit.modWit (fun w => { w with
  pollTick := 400000000, units := w.units.map (fun u => { u with seq := 1, polled := some 400000000, alive := some 7, calm := 1 }) }))
def witLate : State := rest (witnessUnit.modWit (fun w => { w with units := w.units.map (fun u => { u with polled := some 5 }) }))
def witDeposes : State := rest (witnessUnit.modWit (fun w => { w with units := w.units.map (fun u => { u with state := 3, hbTick := some 5 }) }))

theorem witness_WitnessLinkPermitsAndDeposes :
    (base.settled ∧ standby.settled ∧ permitOver.settled ∧ witPolls.settled ∧ witAwaits.settled ∧ witBeats.settled ∧ witLate.settled ∧
      witDeposes.settled) ∧
    (base.answersPolls = false ∧ base.witnessOn = false ∧ base.flag 0xC000 6 = false ∧ base.isPair = false) ∧
    (standby.answersPolls = true ∧ State.witnessFrameOk pollBytes 8 1 = true ∧ field pollBytes 2 1 = standby.unitId ∧
      (field pollBytes 4 1).testBit 0 = true) ∧
    (permitOver.flag 0xC000 6 = true ∧ permitOver.hasPermit = false ∧ permitOver.isPair = true ∧ permitOver.par.lost = false ∧
      permitOver.par.pollTick.getD 0 + permitOver.c 0xC000 0x18 * tickMs ≤ permitOver.raw) ∧
    (witPolls.witnessOn = true ∧ witPolls.wit.pollTick + witPolls.c 0xC100 2 * tickUs ≤ witPolls.raw ∧ witPolls.wit.units.length = 2) ∧
    (witAwaits.witnessOn = true ∧ witAwaits.raw < witAwaits.wit.pollTick + witAwaits.c 0xC100 2 * tickUs ∧
      State.witnessFrameOk [1, 2] 12 2 = false ∧ witAwaits.awaited = some 0 ∧ State.witnessFrameOk (statusBytes 2 7) 12 2 = true ∧
      field (statusBytes 2 7) 2 1 = 0 ∧ (witAwaits.witUnit 0).polled = some 400000000 ∧
      field (statusBytes 2 7) 3 1 = (witAwaits.witUnit 0).seq ∧ witAwaits.raw ≤ 400000000 + 170 * tickUs ∧
      (witAwaits.witUnit 0).alive ≠ some (field (statusBytes 2 7) 6 2)) ∧
    (witBeats.witnessOn = true ∧ (witBeats.witUnit 0).alive = some (field (statusBytes 2 7) 6 2) ∧
      (witBeats.witUnit 0).alive ≠ some (field (statusBytes 1 8) 6 2) ∧ (field (statusBytes 1 8) 5 1).testBit 0 = false ∧
      1 ≤ (witBeats.witUnit 0).calm) ∧
    (witLate.witnessOn = true ∧ (witLate.witUnit 1).polled = some 5 ∧ 5 + 50 * tickUs ≤ witLate.raw) ∧
    (witAwaits.raw < 400000000 + 50 * tickUs ∧ (witPolls.witUnit 1).polled = none) ∧
    (witDeposes.witnessOn = true ∧ witDeposes.deposeDue 0 = true ∧ witPolls.deposeDue 0 = false) := by
  exact ⟨⟨rest_settled _, rest_settled _, rest_settled _, rest_settled _, rest_settled _, rest_settled _, rest_settled _, rest_settled _⟩,
    by decide +kernel⟩

/-- R484: a unit whose heartbeats have ceased is deposed. -/
theorem test_witness_depose : (after (.witnessDepose 0) witDeposes).map (fun t => (t.num 0xC100 8, t.num 0xC100 9)) = some (1, 1) := by decide +kernel

/-! ## Witnesses: start, restart, persistent images -/

/-- The unit in reset; at a stage n of its start with its root read; with blank banks of a type, with its active bank in TRIAL and tried. -/
def inResetUnit : State := rest State.reset
def atStage (n : Nat) : State :=
  ((State.reset.modBoot (fun b => { b with inReset := false })).setN 0xD000 1 n).modKeys (fun k => { k with root := some (List.replicate 32 7) })
def stagePufUnit : State := rest ((atStage 1).modKeys (fun k => { k with root := none }))
def stagePufLost : State := rest ((atStage 1).modKeys (fun k => { k with root := none, aonLost := true }))
def stageRomUnit : State := rest (atStage 2)
def stageRomLow : State := rest ((atStage 2).modBoot (fun b => { b with recoverLow := true }))
def stageRomOrdered : State := rest ((atStage 2).modFlash (fun f => { f with enterRecovery := true }))
def stageRomBlank : State := rest ((atStage 2).modFlash (fun f => { f with banks := [(.blank, .blank), (.blank, .blank), (.blank, .blank)] }))
def stageRomOther : State := rest ((atStage 2).modFlash (fun f => { f with banks := [(.blank, .factory), (.blank, .blank), (.blank, .blank)] }))
def stageTrial : State := rest (((atStage 3).setN 0xD011 2 6).modFlash (fun f => { f with tried := [false, false, false] }))
def stageTried : State := rest (((atStage 3).setN 0xD011 2 6).modFlash (fun f => { f with tried := [true, true, true] }))
def stored : ConfigCopy := ⟨7, Store.set [] (okey 0xD000 6 0) (.int 5), true⟩
def stageMainUnit : State := rest (atStage 4)
def stageMainCopies : State := rest ((atStage 4).modFlash (fun f => { f with configA := some { stored with intact := false }, configB := some stored }))
def stageMainBroken : State := rest ((atStage 4).modFlash (fun f => { f with configA := some { stored with intact := false } }))
def stageMicroUnit : State := rest (atStage 5)
def stageCalUnit : State := rest (atStage 6)
def acquiring : State := rest (at_ (atStage 7) 80000000000)
def acquired : State := rest (cfgN (cfgN (atStage 7) 0x2000 0x16 0) 0x2000 0x17 0)

theorem witness_StartSequenceRunsItsStages :
    ((base.settled ∧ inResetUnit.settled ∧ stagePufUnit.settled ∧ stagePufLost.settled ∧ stageRomUnit.settled ∧ stageRomLow.settled) ∧
      (stageRomOrdered.settled ∧ stageRomBlank.settled ∧ stageRomOther.settled ∧ stageTrial.settled ∧ stageTried.settled ∧ stageMainUnit.settled) ∧
      (stageMainCopies.settled ∧ stageMainBroken.settled ∧ stageMicroUnit.settled ∧ stageCalUnit.settled ∧ acquiring.settled ∧ acquired.settled)) ∧
    (inResetUnit.boot.inReset = true ∧ base.boot.inReset = false ∧ base.power ≤ 1 ∧ 4 ≤ base.stage ∧ base.stage ≠ 15 ∧ base.stage ≠ 7) ∧
    (stagePufUnit.boot.inReset = false ∧ stagePufUnit.stage = 1 ∧ stagePufUnit.keys.aonLost = false ∧ stagePufUnit.keys.root = none ∧
      stagePufLost.stage = 1 ∧ stagePufLost.keys.root = none ∧ stagePufLost.keys.aonLost = true) ∧
    (stageRomLow.stage = 2 ∧ stageRomLow.boot.recoverLow = true ∧ stageRomOrdered.stage = 2 ∧ stageRomOrdered.boot.recoverLow = false ∧
      stageRomOrdered.flash.enterRecovery = true) ∧
    (stageRomUnit.boot.inReset = false ∧ stageRomUnit.stage = 2 ∧ stageRomUnit.boot.recoverLow = false ∧ stageRomUnit.flash.enterRecovery = false ∧
      stageRomUnit.flash.tried.length = 3 ∧ stageRomUnit.activeBank 0 < 2 ∧ stageRomUnit.bankState 0 (stageRomUnit.activeBank 0) ≠ 6) ∧
    (stageTrial.stage = 3 ∧ stageTrial.activeBank 1 = 0 ∧ stageTrial.bankState 1 0 = 6 ∧ nth stageTrial.flash.tried 1 true = false) ∧
    (stageTried.stage = 3 ∧ stageTried.activeBank 1 = 0 ∧ stageTried.bankState 1 0 = 6 ∧ nth stageTried.flash.tried 1 true = true) ∧
    (stageMainUnit.boot.inReset = false ∧ stageMainUnit.stage = 4 ∧ stageMainUnit.flash.configA = none ∧ stageMainUnit.flash.configB = none) ∧
    (stageMainCopies.stage = 4 ∧ [stageMainCopies.flash.configA, stageMainCopies.flash.configB].filterMap id = [{ stored with intact := false }, stored]) ∧
    (stageMainBroken.stage = 4 ∧ [stageMainBroken.flash.configA, stageMainBroken.flash.configB].filterMap id = [{ stored with intact := false }]) ∧
    (stageMicroUnit.boot.inReset = false ∧ stageMicroUnit.stage = 5 ∧ stageCalUnit.boot.inReset = false ∧ stageCalUnit.stage = 6 ∧
      stageCalUnit.loc.channels.length = 48) ∧
    (acquired.stage = 7 ∧ acquired.boot.inReset = false ∧ acquired.c 0x2000 0x16 = 0 ∧ acquired.c 0x2000 0x17 = 0) ∧
    (acquiring.stage = 7 ∧ acquiring.boot.inReset = false ∧ acquiring.boot.stageTick + acquiring.c 0xD000 6 * tickSec ≤ acquiring.raw) := by
  exact ⟨⟨⟨rest_settled _, rest_settled _, rest_settled _, rest_settled _, rest_settled _, rest_settled _⟩,
    ⟨rest_settled _, rest_settled _, rest_settled _, rest_settled _, rest_settled _, rest_settled _⟩,
    ⟨rest_settled _, rest_settled _, rest_settled _, rest_settled _, rest_settled _, rest_settled _⟩⟩, by decide +kernel⟩

/-- R496: RESET_N low lets the BOs float and ends every session. -/
theorem test_reset_assert : (after .resetNAssert base).map (fun t => (t.stage, t.bosFloat, t.alm.sessions)) = some (0, true, []) := by decide +kernel

/-- R499: RECOVER_N low enters recovery mode with cause 1. -/
theorem test_rom_recovery : (after .stageRom stageRomLow).map (fun t => (t.stage, t.num 0xD000 5)) = some (15, 1) := by decide +kernel

/-- The factory stage-2 image verifies, a blank bank does not (log entry 6): the witnesses of the bank checks. -/
theorem witness_BankChecks (k : List Byte) : bankCheck k 0 .blank ≠ 0 ∧ bankCheck k 0 .factory = 0 := by
  exact ⟨by simp [bankCheck], by simp [bankCheck]⟩

/-- A session that selects image type 1, or type 1 and a restart; the idle bank EMPTY, FILLING for the session, VERIFIED; in recovery mode. -/
def fwSession (s : State) (type mode : Int) : State :=
  s.modAlm (fun a => { a with sessions := [{ sess with own := Store.set (Store.set [] (okey 0xD020 2 0) (.int type)) (okey 0xD020 3 0) (.int mode) }] })
def fwSess (type mode : Int) : Session := { sess with own := Store.set (Store.set [] (okey 0xD020 2 0) (.int type)) (okey 0xD020 3 0) (.int mode) }
def fwHeard (s : State) (type mode : Int) : Bool :=
  s.serverOn && decide (s.session 1 = some (fwSess type mode)) && s.transportOn .hostSpi && decide (s.outstanding 1 < 8)
def filledBank : BankContent := .written [1, 2, 3]
def fwEmpty : State := rest second
def fwFilling : State := rest (((second.setN 0xD010 3 1).setN 0xD010 9 1).modFlash (fun f => { f with banks := f.banks.set 0 (.factory, filledBank) }))
def fwVerified : State := rest ((second.setN 0xD010 3 3).modFlash (fun f => { f with banks := f.banks.set 0 (.factory, filledBank) }))
def fwLive : State := rest (fwSession (second.setN 0xD011 3 3) 1 0)
def fwRestarts : State := rest (fwSession (second.setN 0xD011 3 3) 1 1)
def fwRecovery : State := rest (((second.setN 0xD000 1 15).setN 0xD010 3 3).modFlash (fun f => { f with banks := f.banks.set 0 (.factory, filledBank) }))
def fwJob (a : JobAction) : State := rest (second.modAlm (fun x => { x with jobs := [⟨0xD021, 0, [], a⟩] }))
def fwRestart : State := rest (second.modAlm (fun x => { x with jobs := [⟨0x1F01, 0, [], .restart⟩] }))
def fwTrial : State := rest (at_ ((second.setN 0xD012 2 6).setN 0x3200 0xB 3) 8000000000)
def fwSave : State := rest (second.modBoot (fun b => { b with saveDue := true }))

theorem witness_FirmwareIsLoadedVerifiedAndActivated :
    (fwEmpty.settled ∧ fwFilling.settled ∧ fwVerified.settled ∧ fwLive.settled ∧ fwRestarts.settled ∧ fwRecovery.settled ∧
      (fwJob (.prepare 0 1)).settled ∧ fwRestart.settled ∧ fwTrial.settled ∧ fwSave.settled) ∧
    (heardB fwEmpty = true ∧ fwEmpty.restricted = false ∧ State.writeRole 0xD020 1 ≤ 3 ∧ fwEmpty.num 0xD021 2 = 0 ∧
      fwEmpty.ownNum 1 0xD020 2 = 0 ∧ fwEmpty.activeBank 0 = 0 ∧ fwEmpty.idleBank 0 = 1 ∧ fwEmpty.bankState 0 1 = 0) ∧
    (heardB fwFilling = true ∧ fwFilling.bankState 0 (fwFilling.idleBank 0) = 1 ∧ fwFilling.num 0xD010 9 = 1 ∧
      fwFilling.bank 0 (fwFilling.idleBank 0) = .written [1, 2, 3] ∧ State.writeRole 0xD010 6 ≤ 3 ∧ fwFilling.num 0xD011 9 ≠ 1 ∧
      fwFilling.flash.banks.length = 3) ∧
    (heardB fwVerified = true ∧ fwVerified.bankState 0 (fwVerified.idleBank 0) = 3 ∧ fwVerified.stage ≠ 15 ∧
      fwVerified.resultState 0x1201 ≠ 1 ∧ 3 ≤ fwVerified.flash.tried.length ∧ fwVerified.ownNum 1 0xD020 3 = 0) ∧
    (fwHeard fwLive 1 0 = true ∧ fwLive.bankState 1 (fwLive.idleBank 1) = 3 ∧ fwLive.ownNum 1 0xD020 2 = 1 ∧ fwLive.isPair = false ∧
      fwLive.stage ≠ 15 ∧ fwLive.resultState 0x1201 ≠ 1) ∧
    (fwHeard fwRestarts 1 1 = true ∧ fwRestarts.bankState 1 (fwRestarts.idleBank 1) = 3 ∧ fwRestarts.ownNum 1 0xD020 3 = 1) ∧
    (heardB fwRecovery = true ∧ fwRecovery.bankState 0 (fwRecovery.idleBank 0) = 3 ∧ fwRecovery.stage = 15) ∧
    (∀ a ∈ [JobAction.prepare 0 1, .verify 0 true, .abandon 0, .activate 0 false false, .activate 0 true false, .enterRecovery],
      (fwJob a).job 0xD021 = some ⟨0xD021, 0, [], a⟩ ∧ (fwJob a).flash.tried.length = 3) ∧
    fwRestart.job 0x1F01 = some ⟨0x1F01, 0, [], .restart⟩ ∧
    (fwTrial.bankState 2 (fwTrial.activeBank 2) = 6 ∧ fwTrial.boot.inReset = false ∧ fwTrial.stage ≠ 15 ∧ 4 ≤ fwTrial.stage ∧
      fwTrial.boot.paused = false ∧ fwTrial.boot.mainTick + 10 * tickSec ≤ fwTrial.raw ∧ fwTrial.chainOn = true ∧
      ∀ ch, ch < 48 → (fwTrial.channel ch).calFailed = false) ∧
    (fwSave.boot.saveDue = true ∧ fwSave.power ≤ 1 ∧ fwSave.boot.paused = false ∧ base.boot.saveDue = false) := by
  exact ⟨⟨rest_settled _, rest_settled _, rest_settled _, rest_settled _, rest_settled _, rest_settled _, rest_settled _, rest_settled _,
    rest_settled _, rest_settled _⟩, by decide +kernel⟩

/-- R507: a download into the window writes its bytes at their place. -/
theorem test_download : (after (.download req 0 4 [9]) fwFilling).map (fun t => (t.bank 0 1, t.num 0xD010 8)) =
    some (.written [1, 2, 3, 0xFF, 9], 5) := by decide +kernel

/-! ## Witnesses: health -/

/-- Event source 3 routed to IRQ pin 0 and PENDING; the counters snapshot due; in reset. -/
def pendingEvent : State := rest ((cfgE second 0xA801 1 3 [3, 1, 0, 0]).raiseEvent 3 7)
def snapshotDue : State := rest (cfgN second 0xE050 2 10)
/-- After an ACK that leaves source 3 due: pin 0 is released, for 2 µs and longer. -/
def irqReleased (t : Nat) : State := rest (pendingEvent.modEv (fun e => { e with irqGap := [some t, none, none, none] }))
def heldInReset : State := rest State.reset

theorem witness_HostsAcknowledgeAndMonitorsWarn :
    (pendingEvent.settled ∧ (irqReleased 399999999).settled ∧ (irqReleased 5).settled ∧ snapshotDue.settled ∧ heldInReset.settled ∧ base.settled) ∧
    (writesB pendingEvent 0xA800 3 = true ∧ commandsB base 0xE050 1 0xE051 = true ∧ base.c 0xE050 2 = 0) ∧
    (nth (irqReleased 5).ev.irqGap 0 none = some 5 ∧ 5 + 2 * tickUs ≤ (irqReleased 5).raw ∧
      nth (irqReleased 399999999).ev.irqGap 0 none = some 399999999 ∧ (irqReleased 399999999).raw < 399999999 + 2 * tickUs ∧
      nth base.ev.irqGap 0 none = none) ∧
    (snapshotDue.c 0xE050 2 ≠ 0 ∧ snapshotDue.ev.snapDue ≤ snapshotDue.raw) ∧ heldInReset.boot.inReset = true ∧
    (base.boot.inReset = false ∧ base.ev.hot.length = 6 ∧ base.ev.tjFresh.length = 6 ∧ base.ev.railOut.length = 9) := by
  exact ⟨⟨rest_settled _, rest_settled _, rest_settled _, rest_settled _, rest_settled _, rest_settled _⟩, by decide +kernel⟩

/-- R520: acknowledging source 3 clears its PENDING bit, 3 of byte 0. -/
theorem test_event_ack : (after (.eventAck req 3) pendingEvent).map (fun t => (pendingEvent.bytes 0xA800 2, t.bytes 0xA800 2)) =
    some ([8] ++ List.replicate 15 0, List.replicate 16 0) := by decide +kernel

theorem witness_ClearZeroesCounters : base.settled ∧ writesB base 0xE050 5 = true := ⟨rest_settled _, by decide +kernel⟩

/-- R527: a value past the counters is out of range, and nothing is cleared. -/
theorem test_counter_clear : (after (.counterClear req 0xE050 5 4) (rest (second.setN 0xE004 2 9))).map (fun t => t.num 0xE004 2) = some 0 := by
  decide +kernel

end Sys2Proof.Tests
end

section
/-! What leaves DRAM alone: every function of the model that answers a state but the five of the compression engine and of power-on that
write it; those keep its canonical form (log entry 3). So every step keeps it. -/

namespace Sys2Proof.Machine.State

/-! ### Branches, folds and pairs -/

@[simp] theorem ite_dram (c : Prop) [Decidable c] (a b : State) : (if c then a else b).dram = if c then a.dram else b.dram := apply_ite ..

@[simp] theorem ite_fst_dram {β : Type} (c : Prop) [Decidable c] (a b : State × β) :
    (if c then a else b).1.dram = if c then a.1.dram else b.1.dram := apply_ite (fun x : State × β => x.1.dram) ..

/-- What every step of a fold keeps, the fold keeps. -/
theorem foldl_keeps {α β γ : Type} (g : β → γ) (f : β → α → β) (h : ∀ a x, g (f a x) = g a) (l : List α) (a : β) :
    g (l.foldl f a) = g a := by
  induction l generalizing a with
  | nil => rfl
  | cons x rest ih => rw [List.foldl_cons, ih, h]

@[simp] theorem foldl_dram {α : Type} (f : State → α → State) (h : ∀ s x, (f s x).dram = s.dram) (l : List α) (s : State) :
    (l.foldl f s).dram = s.dram := foldl_keeps State.dram f h l s

@[simp] theorem foldl_fst_dram {α β : Type} (f : State × β → α → State × β) (h : ∀ a x, (f a x).1.dram = a.1.dram) (l : List α)
    (a : State × β) : (l.foldl f a).1.dram = a.1.dram := foldl_keeps (fun a => a.1.dram) f h l a

/-- The state in a pair that a step answers. -/
theorem fst_dram {β : Type} {x : State × β} {u s : State} {y : β} (e : x = (u, y)) (h : x.1.dram = s.dram) : u.dram = s.dram := by
  rw [← h, e]

/-- An optional effect answers no state, or one with the same DRAM. -/
def KeepsDram (s : State) (o : Option State) : Prop := ∀ t, o = some t → t.dram = s.dram

@[simp] theorem keepsDram_none (s : State) : KeepsDram s none := fun _ h => nomatch h

@[simp] theorem keepsDram_some (s t : State) : KeepsDram s (some t) ↔ t.dram = s.dram := by simp [KeepsDram]

theorem KeepsDram.ite {s : State} {c : Prop} [Decidable c] {a b : Option State} (h : KeepsDram s a) (k : KeepsDram s b) :
    KeepsDram s (if c then a else b) := by
  split <;> assumption

/-! ### Pins -/

@[simp] theorem driveAlm_dram (s : State) (n : Nat) : (s.driveAlm n).dram = s.dram := by simp [driveAlm]
@[simp] theorem driveBo_dram (s : State) (n : Nat) : (s.driveBo n).dram = s.dram := by simp [driveBo]
@[simp] theorem driveTo_dram (s : State) (n : Nat) : (s.driveTo n).dram = s.dram := by simp [driveTo]
@[simp] theorem driveOutputs_dram (s : State) : s.driveOutputs.dram = s.dram := by simp [driveOutputs]
@[simp] theorem noteDigital_dram (s : State) : s.noteDigital.dram = s.dram := by simp [noteDigital]

/-! ### Ops -/

@[simp] theorem draw_dram (s : State) (n : Nat) : (s.draw n).2.dram = s.dram := by simp [draw]

@[simp] theorem sendPdu_dram (s : State) (t : Transport) (k : Option (List Byte)) (p : Pdu) : (s.sendPdu t k p).dram = s.dram := by
  cases t <;> rfl

@[simp] theorem modSession_dram (s : State) (id : Nat) (f : Session → Session) : (s.modSession id f).dram = s.dram := by simp [modSession]

@[simp] theorem notify_dram (s : State) (sb : Subscription) : (s.notify sb).dram = s.dram := by
  rw [notify]
  repeat' split
  all_goals simp

@[simp] theorem mirror_dram (s : State) (r : LogRecord) : (s.mirror r).1.dram = s.dram := by simp [mirror]

@[simp] theorem placeRecord_dram (s : State) (r : LogRecord) (gone : Option Nat) :
    (s.placeRecord r gone).dram = s.dram := by simp [placeRecord]

@[simp] theorem dropRecord_dram (s : State) (v : Nat) : (s.dropRecord v).dram = s.dram := by simp [dropRecord]

@[simp] theorem logRaise_dram (s : State) (r : Raise) : (s.logRaise r).1.dram = s.dram := by
  rw [logRaise]
  repeat' split
  all_goals simp

@[simp] theorem eventNotify_dram (s : State) (r : Raise) (written : Option LogRecord) :
    (s.eventNotify r written).dram = s.dram := by simp [eventNotify]

@[simp] theorem setPending_dram (s : State) (source : Nat) : (s.setPending source).dram = s.dram := by simp [setPending]
@[simp] theorem countRaise_dram (s : State) (source : Nat) : (s.countRaise source).dram = s.dram := by simp [countRaise]
@[simp] theorem takeRaise_dram (s : State) (r : Raise) : (s.takeRaise r).1.dram = s.dram := by simp [takeRaise]
@[simp] theorem deliverRaise_dram (s : State) (r : Raise) : (s.deliverRaise r).dram = s.dram := by simp [deliverRaise]
@[simp] theorem handleRaise_dram (s : State) (r : Raise) : (s.handleRaise r).dram = s.dram := by simp [handleRaise]
@[simp] theorem intakeEmptied_dram (s : State) : s.intakeEmptied.dram = s.dram := by simp [intakeEmptied]
@[simp] theorem logReady_dram (s : State) : s.logReady.dram = s.dram := by simp [logReady]
@[simp] theorem setQualifier_dram (s : State) (key : Nat) (q : Qualifier) : (s.setQualifier key q).dram = s.dram := by simp [setQualifier]
@[simp] theorem occurs_dram (s : State) (key window threshold : Nat) : (s.occurs key window threshold).1.dram = s.dram := by simp [occurs]
@[simp] theorem clearQualifier_dram (s : State) (key : Nat) : (s.clearQualifier key).dram = s.dram := by simp [clearQualifier]
@[simp] theorem countIn_dram (s : State) (c n : Nat) : (s.countIn c n).dram = s.dram := by simp [countIn]
@[simp] theorem perf_dram (s : State) (die code n : Nat) : (s.perf die code n).dram = s.dram := by simp [perf]
@[simp] theorem startCmd_dram (s : State) (result : Nat) : (s.startCmd result).dram = s.dram := by simp [startCmd]

@[simp] theorem finishCmd_dram (s : State) (result code : Nat) (data : List Byte) :
    (s.finishCmd result code data).dram = s.dram := by simp [finishCmd]

@[simp] theorem quickCmd_dram (s : State) (result code : Nat) (data : List Byte) :
    (s.quickCmd result code data).dram = s.dram := by simp [quickCmd]

@[simp] theorem addJob_dram (s : State) (j : Job) : (s.addJob j).dram = s.dram := by simp [addJob]
@[simp] theorem dropJob_dram (s : State) (result : Nat) : (s.dropJob result).dram = s.dram := by simp [dropJob]
@[simp] theorem mirrorOut_dram (s : State) (o : Output) : (s.mirrorOut o).dram = s.dram := by simp [mirrorOut]
@[simp] theorem modSub_dram (s : State) (id : Nat) (f : Subscription → Subscription) : (s.modSub id f).dram = s.dram := by simp [modSub]
@[simp] theorem notifyNow_dram (s : State) (sb : Subscription) : (s.notifyNow sb).dram = s.dram := by simp [notifyNow]
@[simp] theorem notifyChange_dram (old s : State) (sb : Subscription) : (old.notifyChange s sb).dram = s.dram := by simp [notifyChange]
@[simp] theorem notifyEvents_dram (before s : State) : (before.notifyEvents s).dram = s.dram := by simp [notifyEvents]

@[simp] theorem handleRaises_dram (fuel : Nat) (s : State) (l : List Raise) : (handleRaises fuel s l).dram = s.dram := by
  induction fuel generalizing s l with
  | zero => rfl
  | succ fuel ih =>
    cases l with
    | nil => rfl
    | cons r rest => simp [handleRaises, ih]

@[simp] theorem flushRaises_dram (s : State) : s.flushRaises.dram = s.dram := by simp [flushRaises]
@[simp] theorem drivePins_dram (s : State) : s.drivePins.dram = s.dram := by simp [drivePins]
@[simp] theorem noteUtc_dram (old s : State) : (old.noteUtc s).dram = s.dram := by simp [noteUtc]
@[simp] theorem followed_dram (old new : State) : (old.followed new).dram = new.dram := by simp [followed]
@[simp] theorem settle_dram (old new : State) : (old.settle new).dram = new.dram := by simp [settle]

/-! ### Keys -/

@[simp] theorem unloadKey_dram (s : State) (slot : Nat) : (s.unloadKey slot).dram = s.dram := by simp [unloadKey]

@[simp] theorem enforceSlot_dram (s : State) (root : List Byte) (slot : Nat) : (s.enforceSlot root slot).dram = s.dram := by
  rw [enforceSlot]
  split <;> simp

@[simp] theorem loadSlot_dram (s : State) (root : List Byte) (slot : Nat) : (s.loadSlot root slot).dram = s.dram := by simp [loadSlot]

@[simp] theorem loadSlots_dram (s : State) : s.loadSlots.dram = s.dram := by
  unfold loadSlots
  split <;> simp

@[simp] theorem unloadSlots_dram (s : State) : s.unloadSlots.dram = s.dram := by simp [unloadSlots]

@[simp] theorem writeSlot_dram (s : State) (root : List Byte) (slot a : Nat) (secret pub : List Byte) :
    (s.writeSlot root slot a secret pub).1.dram = s.dram := by simp [writeSlot]

@[simp] theorem eraseOther_dram (s : State) (root : List Byte) (slot : Nat) : (s.eraseOther root slot).dram = s.dram := by
  rw [eraseOther]
  split <;> simp

@[simp] theorem keyFail_dram (s : State) (code : Nat) : (s.keyFail code).1.dram = s.dram := by simp [keyFail]

@[simp] theorem createKey_dram (s : State) (root : List Byte) (slot a : Nat) (secret pub : List Byte) :
    (s.createKey root slot a secret pub).1.dram = s.dram := by simp [createKey]

@[simp] theorem keyGenerate_dram (s : State) (root : List Byte) (slot : Nat) (input : List Byte) :
    (s.keyGenerate root slot input).1.dram = s.dram := by simp [keyGenerate]

@[simp] theorem keyDeriveSlot_dram (s : State) (root : List Byte) (slot : Nat) (input : List Byte) :
    (s.keyDeriveSlot root slot input).1.dram = s.dram := by simp [keyDeriveSlot]

@[simp] theorem keyImport_dram (s : State) (root : List Byte) (slot : Nat) (input : List Byte) :
    (s.keyImport root slot input).1.dram = s.dram := by
  rw [keyImport]
  repeat' split
  all_goals simp

@[simp] theorem keyDestroy_dram (s : State) (root : List Byte) (slot : Nat) :
    (s.keyDestroy root slot).1.dram = s.dram := by simp [keyDestroy]

@[simp] theorem keyUse_dram (s : State) (opcode : Nat) (k : LoadedKey) (input : List Byte) :
    (s.keyUse opcode k input).1.dram = s.dram := by
  unfold keyUse
  dsimp only
  repeat' split
  all_goals simp

@[simp] theorem keyDerive_dram (s : State) (root : List Byte) (slot target : Nat) (input : List Byte) :
    (s.keyDerive root slot target input).1.dram = s.dram := by
  rw [keyDerive]
  repeat' split
  all_goals simp

@[simp] theorem keyWrapCmd_dram (s : State) (slot target : Nat) : (s.keyWrapCmd slot target).1.dram = s.dram := by
  rw [keyWrapCmd]
  repeat' split
  all_goals simp

@[simp] theorem statement_dram (s : State) (slot kind : Nat) (nonce : List Byte) (a generation : Nat) (pub : List Byte) :
    (s.statement slot kind nonce a generation pub).1.dram = s.dram := by
  rw [statement]
  repeat' split
  all_goals simp

@[simp] theorem keyAttest_dram (s : State) (slot : Nat) (input : List Byte) : (s.keyAttest slot input).1.dram = s.dram := by
  rw [keyAttest]
  repeat' split
  all_goals simp

@[simp] theorem keyCommand_dram (s : State) (opcode slot target : Nat) (input : List Byte) :
    (s.keyCommand opcode slot target input).1.dram = s.dram := by
  rw [keyCommand]
  repeat' split
  all_goals simp

@[simp] theorem completeKey_dram (s : State) (opcode slot target : Nat) (input : List Byte) :
    (s.completeKey opcode slot target input).dram = s.dram := by
  rw [completeKey]
  split <;> simp only [finishCmd_dram, inc32_eq, setN_eq, setBytes_eq, set_dram, keyCommand_dram]

@[simp] theorem abortKey_dram (s : State) : s.abortKey.dram = s.dram := by simp [abortKey]

@[simp] theorem cutKeyWrite_dram (s : State) : s.cutKeyWrite.dram = s.dram := by
  rw [cutKeyWrite]
  repeat' split
  all_goals simp

/-! ### Ephemeris -/

@[simp] theorem fold_dram (s : State) : s.fold.dram = s.dram := by simp [fold]
@[simp] theorem sendIncrement_dram (s : State) (v : Nat) : (s.sendIncrement v).dram = s.dram := by simp [sendIncrement]

@[simp] theorem applyIncrement_dram (s : State) : s.applyIncrement.dram = s.dram := by
  unfold applyIncrement
  split <;> simp

@[simp] theorem addStep_dram (s : State) (amount : Int) : (s.addStep amount).dram = s.dram := by simp [addStep]
@[simp] theorem setQuality_dram (s : State) (q : Nat) : (s.setQuality q).dram = s.dram := by simp [setQuality]
@[simp] theorem countGood_dram (s : State) (good : Bool) : (s.countGood good).dram = s.dram := by simp [countGood]
@[simp] theorem holdReference_dram (s : State) : s.holdReference.dram = s.dram := by simp [holdReference]

@[simp] theorem judgeReport_dram (s : State) (o : Int) : (s.judgeReport o).dram = s.dram := by
  unfold judgeReport
  split <;> simp

@[simp] theorem report_dram (s : State) (o : Int) : (s.report o).dram = s.dram := by simp [report]

@[simp] theorem loseReference_dram (s : State) : s.loseReference.dram = s.dram := by
  rw [loseReference]
  split <;> simp

@[simp] theorem writeRefPresent_dram (s : State) (present : Bool) : (s.writeRefPresent present).dram = s.dram := by simp [writeRefPresent]
@[simp] theorem qualityAfterStep_dram (s : State) (amount : Int) : (s.qualityAfterStep amount).dram = s.dram := by simp [qualityAfterStep]
@[simp] theorem placeLeap_dram (s : State) : s.placeLeap.dram = s.dram := by simp [placeLeap]
@[simp] theorem refreshUtc_dram (s : State) : s.refreshUtc.dram = s.dram := by simp [refreshUtc]
@[simp] theorem setLeap_dram (s : State) (pending : Nat) : (s.setLeap pending).dram = s.dram := by simp [setLeap]

@[simp] theorem leap_dram (s : State) : s.leap.dram = s.dram := by
  unfold leap
  split <;> simp

@[simp] theorem modOut_dram (s : State) (n : Nat) (f : TimedOut → TimedOut) : (s.modOut n f).dram = s.dram := by simp [modOut]
@[simp] theorem missOut_dram (s : State) (n : Nat) : (s.missOut n).dram = s.dram := by simp [missOut]
@[simp] theorem armOut_dram (s : State) (n : Nat) : (s.armOut n).dram = s.dram := by simp [armOut]
@[simp] theorem writeArmAt_dram (s : State) (n at_ : Nat) : (s.writeArmAt n at_).dram = s.dram := by simp [writeArmAt]
@[simp] theorem driveOut_dram (s : State) (n : Nat) : (s.driveOut n).dram = s.dram := by simp [driveOut]
@[simp] theorem oneShotEdge_dram (s : State) (n : Nat) : (s.oneShotEdge n).dram = s.dram := by simp [oneShotEdge]
@[simp] theorem skipPeriodic_dram (s : State) (n : Nat) : (s.skipPeriodic n).dram = s.dram := by simp [skipPeriodic]
@[simp] theorem periodicOutEdge_dram (s : State) (n : Nat) : (s.periodicOutEdge n).dram = s.dram := by simp [periodicOutEdge]
@[simp] theorem outPulseEnd_dram (s : State) (n : Nat) : (s.outPulseEnd n).dram = s.dram := by simp [outPulseEnd]
@[simp] theorem initOut_dram (s : State) (n : Nat) : (s.initOut n).dram = s.dram := by simp [initOut]
@[simp] theorem stepOut_dram (s : State) (n : Nat) : (s.stepOut n).dram = s.dram := by simp [stepOut]

@[simp] theorem capture_dram (s : State) (input : Nat) (t : Et) (rising error : Bool) :
    (s.capture input t rising error).dram = s.dram := by simp [capture]

@[simp] theorem takeEdge_dram (s : State) (input tdc : Nat) (wanted : Bool) :
    (s.takeEdge input tdc wanted).1.dram = s.dram := by simp [takeEdge]

@[simp] theorem timedEdge_dram (s : State) (input : Nat) (rising : Bool) (tdc : Nat) :
    (s.timedEdge input rising tdc).1.dram = s.dram := by simp [timedEdge]

@[simp] theorem irig_dram (s : State) (pulses : List Nat) (tdc : Nat) : (s.irig pulses tdc).dram = s.dram := by simp [irig]
@[simp] theorem irigTimeout_dram (s : State) : s.irigTimeout.dram = s.dram := by simp [irigTimeout]
@[simp] theorem pps_dram (s : State) (tdc highTimeNs : Nat) : (s.pps tdc highTimeNs).dram = s.dram := by simp [pps]
@[simp] theorem initInput_dram (s : State) (input : Nat) : (s.initInput input).dram = s.dram := by simp [initInput]
@[simp] theorem ppsTimeout_dram (s : State) : s.ppsTimeout.dram = s.dram := by simp [ppsTimeout]

/-! ### Local -/

@[simp] theorem modChannel_dram (s : State) (ch : Nat) (f : Channel → Channel) : (s.modChannel ch f).dram = s.dram := by simp [modChannel]
@[simp] theorem setGrid_dram (s : State) (g : Int) : (s.setGrid g).dram = s.dram := by simp [setGrid]

@[simp] theorem setCondition_dram (s : State) (ch kind : Nat) (present : Bool) : (s.setCondition ch kind present).dram = s.dram := by
  unfold setCondition
  dsimp only
  split
  · rfl
  · split
    · simp
    · split
      all_goals next e => simpa using fst_dram e (occurs_dram ..)

@[simp] theorem openSample_dram (s : State) (ch : Nat) (outside : Bool) : (s.openSample ch outside).dram = s.dram := by simp [openSample]
@[simp] theorem updateShort_dram (s : State) (ch : Nat) : (s.updateShort ch).dram = s.dram := by simp [updateShort]
@[simp] theorem shortEvaluation_dram (s : State) (ch : Nat) : (s.shortEvaluation ch).dram = s.dram := by simp [shortEvaluation]
@[simp] theorem dropConditions_dram (s : State) (ch : Nat) : (s.dropConditions ch).dram = s.dram := by simp [dropConditions]
@[simp] theorem clearSupervision_dram (s : State) (ch : Nat) : (s.clearSupervision ch).dram = s.dram := by simp [clearSupervision]

@[simp] theorem channelSample_dram (s : State) (ch : Nat) (code : Int) :
    (s.channelSample ch code).dram = s.dram := by simp [channelSample]

@[simp] theorem slewGrid_dram (s : State) : s.slewGrid.dram = s.dram := by simp [slewGrid]
@[simp] theorem fixedSample_dram (s : State) (codes : List Int) : (s.fixedSample codes).dram = s.dram := by simp [fixedSample]
@[simp] theorem trackedSample_dram (s : State) : s.trackedSample.dram = s.dram := by simp [trackedSample]
@[simp] theorem setFEst_dram (s : State) (f : F64) : (s.setFEst f).dram = s.dram := by simp [setFEst]

@[simp] theorem cycleBoundary_dram (s : State) : s.cycleBoundary.dram = s.dram := by
  rw [cycleBoundary]
  repeat' split
  all_goals simp

@[simp] theorem syncCause_dram (s : State) : s.syncCause.dram = s.dram := by simp [syncCause]
@[simp] theorem sampleZero_dram (s : State) (epoch : Et) : (s.sampleZero epoch).dram = s.dram := by simp [sampleZero]
@[simp] theorem stepGrid_dram (s : State) (amount : Int) : (s.stepGrid amount).dram = s.dram := by simp [stepGrid]

@[simp] theorem reversal_dram (s : State) (bay : Nat) (p : List F64) (blocked : Bool) :
    (s.reversal bay p blocked).dram = s.dram := by simp [reversal]

@[simp] theorem bayReport_dram (s : State) (bay : Nat) : (s.bayReport bay).1.dram = s.dram := by
  rw [bayReport]
  repeat' split
  all_goals simp

/-! ### Configuration -/

@[simp] theorem refreshCrc_dram (s : State) : s.refreshCrc.dram = s.dram := by simp [refreshCrc]

@[simp] theorem setConfig_dram (s : State) (index sub : Nat) (l : List (Nat × Value)) :
    (s.setConfig index sub l).dram = s.dram := by simp [setConfig]

/-! ### Ports -/

@[simp] theorem modPort_dram (s : State) (p : Nat) (f : Port → Port) : (s.modPort p f).dram = s.dram := by simp [modPort]
@[simp] theorem releaseTx_dram (s : State) (p : Nat) (descs : List Nat) : (s.releaseTx p descs).dram = s.dram := by simp [releaseTx]
@[simp] theorem putOnWire_dram (s : State) (p : Nat) (o : Output) : (s.putOnWire p o).dram = s.dram := by simp [putOnWire]
@[simp] theorem sendItem_dram (s : State) (p : Nat) (x : TxItem) : (s.sendItem p x).dram = s.dram := by simp [sendItem]
@[simp] theorem send_dram (s : State) (p cls : Nat) (o : Output) : (s.send p cls o).dram = s.dram := by simp [send]
@[simp] theorem drainTx_dram (s : State) (p : Nat) : (s.drainTx p).dram = s.dram := by simp [drainTx]
@[simp] theorem takeRctSeq_dram (s : State) (pair : Nat) : (s.takeRctSeq pair).dram = s.dram := by simp [takeRctSeq]

@[simp] theorem originateFrom_dram (s : State) (p cls : Nat) (descs : List Nat) (frame : List Byte) :
    (s.originateFrom p cls descs frame).dram = s.dram := by
  unfold originateFrom
  split <;> simp

@[simp] theorem originate_dram (s : State) (p cls : Nat) (frame : List Byte) :
    (s.originate p cls frame).dram = s.dram := by simp [originate]

@[simp] theorem originateDecoded_dram (s : State) (p cls : Nat) (o : Nat → Option (Nat × Nat) → Output) :
    (s.originateDecoded p cls o).dram = s.dram := by
  unfold originateDecoded
  split <;> simp

@[simp] theorem slowSend_dram (s : State) (p : Nat) (frame : List Byte) : (s.slowSend p frame).dram = s.dram := by simp [slowSend]
@[simp] theorem putNeighbour_dram (s : State) (x : Neighbour) : (s.putNeighbour x).dram = s.dram := by simp [putNeighbour]
@[simp] theorem askNeighbour_dram (s : State) (p : Nat) (a : List Byte) : (s.askNeighbour p a).dram = s.dram := by simp [askNeighbour]

@[simp] theorem sendPacket_dram (s : State) (p : Nat) (a : List Byte) (k : Nat × List Byte) : (s.sendPacket p a k).dram = s.dram := by
  unfold sendPacket
  dsimp only
  repeat' split
  all_goals simp

@[simp] theorem resolve_dram (s : State) (p : Nat) (a mac : List Byte) : (s.resolve p a mac).dram = s.dram := by simp [resolve]

@[simp] theorem learnNeighbour_dram (s : State) (p : Nat) (f : List Byte) :
    (s.learnNeighbour p f).dram = s.dram := by simp [learnNeighbour]

@[simp] theorem reportGroups_dram (s : State) (p : Nat) (groups : List (List Byte)) :
    (s.reportGroups p groups).dram = s.dram := by simp [reportGroups]

@[simp] theorem answerQuery_dram (s : State) (p : Nat) (f : List Byte) : (s.answerQuery p f).dram = s.dram := by simp [answerQuery]
@[simp] theorem sendPause_dram (s : State) (p quanta : Nat) : (s.sendPause p quanta).dram = s.dram := by simp [sendPause]
@[simp] theorem watermarks_dram (s : State) (p : Nat) : (s.watermarks p).dram = s.dram := by simp [watermarks]
@[simp] theorem pauseRepeat_dram (s : State) (p : Nat) : (s.pauseRepeat p).dram = s.dram := by simp [pauseRepeat]
@[simp] theorem pauseReceive_dram (s : State) (p quanta : Nat) : (s.pauseReceive p quanta).dram = s.dram := by simp [pauseReceive]
@[simp] theorem pauseEnd_dram (s : State) (p : Nat) : (s.pauseEnd p).dram = s.dram := by simp [pauseEnd]

@[simp] theorem pauseLimit_dram (s : State) (p : Nat) : (s.pauseLimit p).dram = s.dram := by
  unfold pauseLimit
  split <;> simp

@[simp] theorem pauseLimitEnd_dram (s : State) (p : Nat) : (s.pauseLimitEnd p).dram = s.dram := by
  unfold pauseLimitEnd
  split <;> simp

@[simp] theorem modPair_dram (s : State) (n : Nat) (f : PrpPair → PrpPair) : (s.modPair n f).dram = s.dram := by simp [modPair]
@[simp] theorem countNodes_dram (s : State) (n : Nat) : (s.countNodes n).dram = s.dram := by simp [countNodes]

@[simp] theorem prpAccept_dram (s : State) (n : Nat) (source : List Byte) (q : Nat) : (s.prpAccept n source q).1.dram = s.dram := by
  rw [prpAccept]
  repeat' split
  all_goals simp

@[simp] theorem prpForget_dram (s : State) (n : Nat) (source : List Byte) : (s.prpForget n source).dram = s.dram := by simp [prpForget]
@[simp] theorem prpSupervise_dram (s : State) (n : Nat) : (s.prpSupervise n).dram = s.dram := by simp [prpSupervise]

@[simp] theorem unknownSource_dram (s : State) (p idcode : Nat) (src : List Byte) : (s.unknownSource p idcode src).dram = s.dram := by
  rw [unknownSource]
  split <;> simp

@[simp] theorem modStream_dram (s : State) (id : Nat) (f : Stream → Stream) : (s.modStream id f).dram = s.dram := by simp [modStream]

@[simp] theorem sendStreamCommand_dram (s : State) (id cmd : Nat) : (s.sendStreamCommand id cmd).dram = s.dram := by
  unfold sendStreamCommand
  split <;> simp

@[simp] theorem askConfig_dram (s : State) (id : Nat) : (s.askConfig id).dram = s.dram := by simp [askConfig]
@[simp] theorem askWanted_dram (s : State) : s.askWanted.dram = s.dram := by simp [askWanted]
@[simp] theorem dropHeld_dram (s : State) (id : Nat) : (s.dropHeld id).dram = s.dram := by simp [dropHeld]
@[simp] theorem setStreamState_dram (s : State) (id st : Nat) : (s.setStreamState id st).dram = s.dram := by simp [setStreamState]
@[simp] theorem mismatch_dram (s : State) (id : Nat) : (s.mismatch id).dram = s.dram := by simp [mismatch]

@[simp] theorem linkChange_dram (s : State) (p : Nat) (up : Bool) (speed : Nat) :
    (s.linkChange p up speed).dram = s.dram := by simp [linkChange]

@[simp] theorem lineOff_dram (s : State) (p : Nat) : (s.lineOff p).dram = s.dram := by simp [lineOff]
@[simp] theorem discardFast_dram (s : State) (p sub id : Nat) : (s.discardFast p sub id).dram = s.dram := by simp [discardFast]

@[simp] theorem fastPath_dram (s : State) (p tci : Nat) (src dst : List Byte) (headerOk v6 : Bool) (dgram : List Byte) (stamp : Et) :
    (s.fastPath p tci src dst headerOk v6 dgram stamp).1.dram = s.dram := by
  unfold fastPath
  dsimp only
  repeat' split
  all_goals simp

@[simp] theorem deliverSlow_dram (s : State) (f : SlowFrame) : (s.deliverSlow f).dram = s.dram := by
  rw [deliverSlow]
  repeat' split
  all_goals simp only [raiseEvent_dram, inc32_eq, inc64_eq, set_dram, perf_dram, modPort_dram]

@[simp] theorem postFrame_dram (s : State) (p cls : Nat) (frame : List Byte) :
    (s.postFrame p cls frame).dram = s.dram := by simp [postFrame]

@[simp] theorem txPost_dram (s : State) (p cls : Nat) (frame : Option (List Byte)) : (s.txPost p cls frame).dram = s.dram := by
  unfold txPost
  split
  · rfl
  · split
    · split <;> simp
    · split
      · rfl
      · split <;> simp

@[simp] theorem passSlow_dram (fuel : Nat) (s : State) (p : Nat) : (passSlow fuel s p).dram = s.dram := by
  induction fuel generalizing s with
  | zero => rfl
  | succ fuel ih =>
    unfold passSlow
    split <;> simp [ih]

@[simp] theorem bufferFrame_dram (s : State) (p size : Nat) (item : RxItem) :
    (s.bufferFrame p size item).dram = s.dram := by simp [bufferFrame]

@[simp] theorem classified_dram (s : State) (p size : Nat) (frame : List Byte) (lanB : Bool) (stamp : Et) :
    (s.classified p size frame lanB stamp).dram = s.dram := by
  rw [classified]
  split
  · simp
  · split
    case h_7 =>
      split
      · next u e => exact fst_dram e (fastPath_dram ..)
      · next u _ e => rw [bufferFrame_dram, fst_dram e (fastPath_dram ..)]
    all_goals simp

@[simp] theorem prpStep_dram (s : State) (p : Nat) (frame : List Byte) : (s.prpStep p frame).1.dram = s.dram := by
  have h : ∀ t : State, t.dram = s.dram → ∀ n source q, (t.prpAccept n source q).1.dram = s.dram :=
    fun t h n source q => (prpAccept_dram ..).trans h
  unfold prpStep
  split
  · dsimp only
    split
    · next u e => exact fst_dram e (h _ (by simp) _ _ _)
    · next u e => exact fst_dram e (h _ (by simp) _ _ _)
  · rfl

@[simp] theorem receive_dram (s : State) (p : Nat) (frame : List Byte) (fcsOk : Bool) (tdc : Nat) :
    (s.receive p frame fcsOk tdc).1.dram = s.dram := by
  rw [receive]
  split
  · rfl
  · split
    · simp
    · split
      · simp
      · split
        · rfl
        · split
          · simp
          · split
            all_goals next e => simpa using fst_dram e (prpStep_dram ..)

/-! ### Ingest -/

@[simp] theorem modQueue_dram (s : State) (n : Nat) (f : LaneQueue → LaneQueue) : (s.modQueue n f).dram = s.dram := by simp [modQueue]

@[simp] theorem putQueue_dram (s : State) (n : Nat) (q : LaneQueue) : (s.putQueue n q).dram = s.dram := by
  rw [putQueue]
  split <;> simp only [inc32_eq, set_dram, perf_dram, setMax_eq, modQueue_dram]

@[simp] theorem acceptFrame_dram (s : State) (e : IngestEntry) : (s.acceptFrame e).dram = s.dram := by simp [acceptFrame]
@[simp] theorem enterQueue_dram (s : State) (x : IngestEntry) : (s.enterQueue x).dram = s.dram := by simp [enterQueue]

@[simp] theorem admitWaiting_dram (fuel : Nat) (s : State) (n : Nat) : (admitWaiting fuel s n).dram = s.dram := by
  induction fuel generalizing s with
  | zero => rfl
  | succ fuel ih =>
    unfold admitWaiting
    split
    · split <;> simp [ih]
    · rfl

@[simp] theorem emptyQueue_dram (s : State) (n : Nat) : (s.emptyQueue n).dram = s.dram := by simp [emptyQueue]
@[simp] theorem checkPointers_dram (s : State) (n : Nat) : (s.checkPointers n).dram = s.dram := by simp [checkPointers]
@[simp] theorem writeQueue_dram (s : State) (e : IngestEntry) : (s.writeQueue e).dram = s.dram := by simp [writeQueue]
@[simp] theorem offerEntry_dram (s : State) (e : IngestEntry) : (s.offerEntry e).dram = s.dram := by simp [offerEntry]
@[simp] theorem readQueue_dram (s : State) (n : Nat) : (s.readQueue n).1.dram = s.dram := by simp [readQueue]

@[simp] theorem ingestWrite_dram (s : State) (p : Nat) : (s.ingestWrite p).dram = s.dram := by
  unfold ingestWrite
  split <;> simp

@[simp] theorem showTcpRate_dram (s : State) : s.showTcpRate.dram = s.dram := by simp [showTcpRate]
@[simp] theorem autofill_dram (s : State) (id : Nat) (f : CfgFrame) : (s.autofill id f).dram = s.dram := by simp [autofill]
@[simp] theorem autofillNow_dram (s : State) : s.autofillNow.dram = s.dram := by simp [autofillNow]
@[simp] theorem tcpStart_dram (s : State) (id : Nat) : (s.tcpStart id).dram = s.dram := by simp [tcpStart]
@[simp] theorem cfgReceive_dram (s : State) (id : Nat) (f : CfgFrame) : (s.cfgReceive id f).dram = s.dram := by simp [cfgReceive]
@[simp] theorem tcpClosed_dram (s : State) (id : Nat) : (s.tcpClosed id).dram = s.dram := by simp [tcpClosed]

@[simp] theorem tcpConnect_dram (s : State) (id : Nat) (connected : Bool) :
    (s.tcpConnect id connected).dram = s.dram := by simp [tcpConnect]

@[simp] theorem tcpRetry_dram (s : State) (id : Nat) : (s.tcpRetry id).dram = s.dram := by simp [tcpRetry]
@[simp] theorem tcpCfgTimeout_dram (s : State) (id : Nat) : (s.tcpCfgTimeout id).dram = s.dram := by simp [tcpCfgTimeout]

@[simp] theorem tcpFrame_dram (s : State) (id p tdc : Nat) (frame : List Byte) :
    (s.tcpFrame id p tdc frame).dram = s.dram := by simp [tcpFrame]

@[simp] theorem silent_dram (s : State) (id : Nat) : (s.silent id).dram = s.dram := by
  unfold silent
  split <;> simp

@[simp] theorem afterLate_dram (s : State) (id : Nat) : (s.afterLate id).dram = s.dram := by simp [afterLate]
@[simp] theorem localFrame_dram (s : State) (bay : Nat) (r : State.Report) : (s.localFrame bay r).dram = s.dram := by simp [localFrame]

/-! ### Transit -/

@[simp] theorem modLane_dram (s : State) (n : Nat) (f : Lane → Lane) : (s.modLane n f).dram = s.dram := by simp [modLane]
@[simp] theorem modSlot_dram (s : State) (n ord : Nat) (f : LaneSlot → LaneSlot) : (s.modSlot n ord f).dram = s.dram := by simp [modSlot]
@[simp] theorem advanceBase_dram (s : State) (n least : Nat) : (s.advanceBase n least).dram = s.dram := by simp [advanceBase]
@[simp] theorem sendPartial_dram (s : State) (n ord : Nat) : (s.sendPartial n ord).dram = s.dram := by simp [sendPartial]
@[simp] theorem admitTask_dram (s : State) (n : Nat) : (s.admitTask n).dram = s.dram := by simp [admitTask]
@[simp] theorem finishTask_dram (s : State) (n : Nat) (t : Task) : (s.finishTask n t).dram = s.dram := by simp [finishTask]

@[simp] theorem offerWork_dram (s : State) (n : Nat) (w : TaskWork) (run : State → State) (h : ∀ t, (run t).dram = t.dram) :
    (s.offerWork n w run).dram = s.dram := by
  rw [offerWork]
  repeat' split
  all_goals simp [h]

@[simp] theorem runPartial_dram (s : State) (n ord : Nat) : (s.runPartial n ord).dram = s.dram := by simp [runPartial]
@[simp] theorem duePartial_dram (s : State) (n ord : Nat) : (s.duePartial n ord).dram = s.dram := by simp [duePartial]

@[simp] theorem checkComplete_dram (s : State) (n ord : Nat) : (s.checkComplete n ord).dram = s.dram := by
  rw [checkComplete]
  repeat' split
  all_goals simp

@[simp] theorem runStrobe_dram (s : State) (n ord : Nat) : (s.runStrobe n ord).dram = s.dram := by simp [runStrobe]
@[simp] theorem runAnswer_dram (s : State) (n ord : Nat) : (s.runAnswer n ord).dram = s.dram := by simp [runAnswer]
@[simp] theorem recheckLane_dram (s : State) (n : Nat) : (s.recheckLane n).dram = s.dram := by simp [recheckLane]
@[simp] theorem recheck_dram (s : State) : s.recheck.dram = s.dram := by simp [recheck]
@[simp] theorem modInst_dram (s : State) (ord : Nat) (f : HubInstant → HubInstant) : (s.modInst ord f).dram = s.dram := by simp [modInst]

@[simp] theorem wMinStrobe_dram (s : State) (k : Nat) : (s.wMinStrobe k).dram = s.dram := by
  unfold wMinStrobe
  split <;> simp

@[simp] theorem sendNotices_dram (s : State) (ord : Nat) : (s.sendNotices ord).dram = s.dram := by simp [sendNotices]

@[simp] theorem notice_dram (s : State) (ord : Nat) (kind : NoticeKind) (close : Nat) :
    (s.notice ord kind close).dram = s.dram := by simp [notice]

@[simp] theorem markWait_dram (s : State) (ord : Nat) : (s.markWait ord).dram = s.dram := by
  unfold markWait
  split <;> simp

@[simp] theorem partialReceive_dram (s : State) (n : Nat) : (s.partialReceive n).dram = s.dram := by
  unfold partialReceive
  dsimp only
  repeat' split
  all_goals simp

@[simp] theorem noticeReceive_dram (s : State) (n : Nat) : (s.noticeReceive n).dram = s.dram := by
  unfold noticeReceive
  split <;> simp

@[simp] theorem deadlineNotice_dram (s : State) (k : Nat) : (s.deadlineNotice k).dram = s.dram := by
  unfold deadlineNotice
  split <;> simp

@[simp] theorem feed_dram (s : State) (r : Released) : (s.feed r).dram = s.dram := by simp [feed]
@[simp] theorem passInstant_dram (s : State) (ord : Nat) : (s.passInstant ord).dram = s.dram := by simp [passInstant]
@[simp] theorem keepHistory_dram (s : State) (h : HistoryEntry) : (s.keepHistory h).dram = s.dram := by simp [keepHistory]
@[simp] theorem ringExchange_dram (s : State) (ord : Nat) : (s.ringExchange ord).dram = s.dram := by simp [ringExchange]
@[simp] theorem publish_dram (s : State) (i : HubInstant) : (s.publish i).1.dram = s.dram := by simp [publish]

@[simp] theorem passSkips_dram (fuel : Nat) (s : State) : (passSkips fuel s).dram = s.dram := by
  induction fuel generalizing s with
  | zero => rfl
  | succ fuel ih =>
    unfold passSkips
    split
    · split <;> simp [ih]
    · rfl

@[simp] theorem releaseNext_dram (s : State) : s.releaseNext.1.dram = s.dram := by
  unfold releaseNext
  split <;> simp

@[simp] theorem closeMerge_dram (s : State) (k : Nat) : (s.closeMerge k).dram = s.dram := by
  rw [closeMerge]
  repeat' split
  all_goals simp

@[simp] theorem startTransits_dram (s : State) (start : Et) : (s.startTransits start).dram = s.dram := by simp [startTransits]

@[simp] theorem forgetRate_dram (s : State) : s.forgetRate.dram = s.dram := by
  unfold forgetRate
  split <;> simp

@[simp] theorem stopTransits_dram (s : State) : s.stopTransits.dram = s.dram := by simp [stopTransits]
@[simp] theorem planRate_dram (s : State) (sc : Et) (f : Nat) : (s.planRate sc f).dram = s.dram := by simp [planRate]

@[simp] theorem rateChanged_dram (s : State) : s.rateChanged.dram = s.dram := by
  unfold rateChanged
  split <;> simp

@[simp] theorem queueLate_dram (s : State) (r : List Byte) : (s.queueLate r).dram = s.dram := by simp [queueLate]

@[simp] theorem onLasting_dram (r : State × Occurrence) (f : State → State) (h : ∀ t, (f t).dram = t.dram) :
    (onLasting r f).dram = r.1.dram := by
  simp [onLasting, h]

@[simp] theorem lateFrame_dram (s : State) (n : Nat) (e : IngestEntry) (ord : Nat) (record : List Entry) :
    (s.lateFrame n e ord record).dram = s.dram := by
  simp [lateFrame]

@[simp] theorem timeAhead_dram (s : State) (id : Nat) : (s.timeAhead id).dram = s.dram := by simp [timeAhead]

@[simp] theorem matchFrame_dram (s : State) (n : Nat) (e : IngestEntry) (record : List Entry) :
    (s.matchFrame n e record).dram = s.dram := by simp [matchFrame]

@[simp] theorem nextStage_dram (s : State) (n : Nat) (t : Task) (w : TaskWork) : (s.nextStage n t w).dram = s.dram := by simp [nextStage]

@[simp] theorem runFrameTask_dram (s : State) (n : Nat) (t : Task) : (s.runFrameTask n t).dram = s.dram := by
  have h := (readQueue_dram (s.finishTask n t) n).trans (finishTask_dram ..)
  rw [runFrameTask]
  split
  · split
    · next u e => exact fst_dram e h
    · next u _ e => simpa using fst_dram e h
  all_goals simp

@[simp] theorem runFrame_dram (fuel : Nat) (s : State) (n frame : Nat) : (runFrame fuel s n frame).dram = s.dram := by
  induction fuel generalizing s with
  | zero => rfl
  | succ fuel ih =>
    unfold runFrame
    split <;> simp [ih]

@[simp] theorem frameMatch_dram (s : State) (n : Nat) : (s.frameMatch n).dram = s.dram := by
  unfold frameMatch
  dsimp only
  repeat' split
  all_goals simp

@[simp] theorem lateClear_dram (s : State) (id : Nat) : (s.lateClear id).dram = s.dram := by simp [lateClear]

@[simp] theorem skipRun_dram (a : State × Nat) (lo hi : Nat) : (skipRun a lo hi).1.dram = a.1.dram := by
  unfold skipRun
  split <;> simp

@[simp] theorem stepNotice_dram (s : State) (o : Nat) : (s.stepNotice o).dram = s.dram := by simp [stepNotice]

@[simp] theorem stepTransits_dram (s : State) : s.stepTransits.dram = s.dram := by
  unfold stepTransits
  split
  · rfl
  · have h := foldl_keeps (fun a : (State × Nat) × Nat => a.1.1.dram)
      (fun a (x : Nat × Nat × Bool) => (if x.2.2 then ((skipRun a.1 a.2 x.1).1.stepNotice x.1, (skipRun a.1 a.2 x.1).2)
        else skipRun a.1 a.2 x.1, x.2.1)) (fun a x => by dsimp only; split <;> simp)
    dsimp only at h ⊢
    split <;> simp only [raiseEvent_dram, passSkips_dram, add_eq, set_dram, skipRun_dram, h]

/-! ### Spectro -/

@[simp] theorem putResonator_dram (s : State) (key : Nat) (r : Resonator) : (s.putResonator key r).dram = s.dram := by simp [putResonator]
@[simp] theorem resetResonator_dram (s : State) (key : Nat) : (s.resetResonator key).dram = s.dram := by simp [resetResonator]
@[simp] theorem resetSignal_dram (s : State) (key : Nat) : (s.resetSignal key).dram = s.dram := by simp [resetSignal]
@[simp] theorem resetAllSignals_dram (s : State) (loc : Bool) : (s.resetAllSignals loc).dram = s.dram := by simp [resetAllSignals]
@[simp] theorem resetLaneResonators_dram (s : State) (n : Nat) : (s.resetLaneResonators n).dram = s.dram := by simp [resetLaneResonators]

@[simp] theorem resonatorUpdate_dram (s : State) (key : Nat) (r : Resonator) (n : Nat) (windowed present : Bool) (q : Quality)
    (fw fs : Nat) :
    (s.resonatorUpdate key r n windowed present q fw fs).dram = s.dram := by simp [resonatorUpdate]

@[simp] theorem signalUpdate_dram (s : State) (key n : Nat) (usable windowed present : Bool) (x : F32) (q : Quality) (tau fw fs : Nat) :
    (s.signalUpdate key n usable windowed present x q tau fw fs).dram = s.dram := by simp [signalUpdate]

@[simp] theorem staleUpdate_dram (s : State) (key n fw fs : Nat) : (s.staleUpdate key n fw fs).dram = s.dram := by simp [staleUpdate]
@[simp] theorem staleBulk_dram (s : State) (key n run fw fs : Nat) : (s.staleBulk key n run fw fs).dram = s.dram := by simp [staleBulk]

@[simp] theorem staleRunUpdate_dram (s : State) (key first run fw fs : Nat) :
    (s.staleRunUpdate key first run fw fs).dram = s.dram := by simp [staleRunUpdate]

@[simp] theorem interSignal_dram (s : State) (key : Nat) (r : Released) : (s.interSignal key r).dram = s.dram := by
  unfold interSignal
  split <;> simp

@[simp] theorem sendContribution_dram (s : State) (n : Nat) (c : Contribution) :
    (s.sendContribution n c).dram = s.dram := by simp [sendContribution]

@[simp] theorem contribute_dram (s : State) (n : Nat) (loc : Bool) (update : Nat) :
    (s.contribute n loc update).dram = s.dram := by simp [contribute]

@[simp] theorem analyticsDone_dram (s : State) (n : Nat) (loc : Bool) : (s.analyticsDone n loc).dram = s.dram := by
  unfold analyticsDone
  split <;> simp

@[simp] theorem applyResets_dram (s : State) (n : Nat) (loc : Bool) : (s.applyResets n loc).dram = s.dram := by simp [applyResets]

@[simp] theorem interAreaUpdate_dram (s : State) (n : Nat) : (s.interAreaUpdate n).dram = s.dram := by
  unfold interAreaUpdate
  split <;> simp

@[simp] theorem formLocal_dram (s : State) (j : Nat) : (s.formLocal j).dram = s.dram := by simp [formLocal]
@[simp] theorem sendBlock_dram (s : State) (lastJ : Nat) : (s.sendBlock lastJ).dram = s.dram := by simp [sendBlock]
@[simp] theorem localSamples_dram (s : State) : s.localSamples.dram = s.dram := by simp [localSamples]

@[simp] theorem localRow_dram (s : State) (key j : Nat) (row : Option Entry) (windowed present : Bool) :
    (s.localRow key j row windowed present).dram = s.dram := by
  cases row <;> exact signalUpdate_dram ..

@[simp] theorem localSignal_dram (s : State) (key : Nat) (b : LocalBlock) : (s.localSignal key b).dram = s.dram := by simp [localSignal]

@[simp] theorem localBlockReceive_dram (s : State) (n : Nat) : (s.localBlockReceive n).dram = s.dram := by
  unfold localBlockReceive
  split <;> simp

@[simp] theorem bandContribution_dram (s : State) (n : Nat) : (s.bandContribution n).dram = s.dram := by
  unfold bandContribution
  split <;> simp

@[simp] theorem deliverAlarms_dram (s : State) (l : List (Nat × Bool)) : (s.deliverAlarms l).dram = s.dram := by simp [deliverAlarms]

@[simp] theorem spectroAlarm_dram (s : State) (loc : Bool) (b alarm : Nat) (on : Bool) (signal : Nat) :
    (s.spectroAlarm loc b alarm on signal).dram = s.dram := by simp [spectroAlarm]

@[simp] theorem mergeBand_dram (s : State) (m : BandMerge) (b : Nat) (x : BandShare) : (s.mergeBand m b x).1.dram = s.dram := by
  rw [mergeBand]
  repeat' split
  all_goals simp

@[simp] theorem finishMerge_dram (s : State) (m : BandMerge) : (s.finishMerge m).dram = s.dram := by simp [finishMerge]

@[simp] theorem bandMergeClose_dram (s : State) : s.bandMergeClose.dram = s.dram := by
  rw [bandMergeClose]
  repeat' split
  all_goals simp

@[simp] theorem shapeAnswer_dram (s : State) : s.shapeAnswer.dram = s.dram := by
  unfold shapeAnswer
  split <;> simp

@[simp] theorem resetIsolated_dram (s : State) (all : Bool) : (s.resetIsolated all).dram = s.dram := by simp [resetIsolated]
@[simp] theorem spectroReset_dram (s : State) (target : Nat) : (s.spectroReset target).dram = s.dram := by simp [spectroReset]
@[simp] theorem resetLocalSignals_dram (s : State) : s.resetLocalSignals.dram = s.dram := by simp [resetLocalSignals]

@[simp] theorem runTask_dram (s : State) (n : Nat) (t : Task) : (s.runTask n t).dram = s.dram := by
  unfold runTask
  split <;> simp

@[simp] theorem taskDispatch_dram (s : State) (n : Nat) : (s.taskDispatch n).dram = s.dram := by
  unfold taskDispatch
  dsimp only
  repeat' split
  all_goals simp

/-! ### Horizon -/

@[simp] theorem putTie_dram (s : State) (t : Nat) (x : TieState) : (s.putTie t x).dram = s.dram := by simp [putTie]

@[simp] theorem stepTie_dram (s : State) (vec : List (Nat × Entry)) (rate : Nat) (returned : List Nat) (t : Nat) :
    (s.stepTie vec rate returned t).1.dram = s.dram := by simp [stepTie]

@[simp] theorem islandEvent_dram (s : State) (r : Released) (formed : Bool) (isl other name comps : Nat) (islands : List (Nat × Nat))
    (changed : List Nat) :
    (s.islandEvent r formed isl other name comps islands changed).dram = s.dram := by simp [islandEvent]

@[simp] theorem evaluateTransit_dram (s : State) (r : Released) (vec : List (Nat × Entry)) :
    (s.evaluateTransit r vec).dram = s.dram := by simp [evaluateTransit]

@[simp] theorem adoptTies_dram (s : State) (k : Nat) : (s.adoptTies k).dram = s.dram := by
  unfold adoptTies
  split <;> simp

@[simp] theorem horizonEvaluation_dram (s : State) : s.horizonEvaluation.dram = s.dram := by
  rw [horizonEvaluation]
  repeat' split
  all_goals simp

@[simp] theorem horizonOff_dram (s : State) : s.horizonOff.dram = s.dram := by simp [horizonOff]
@[simp] theorem closeTies_dram (s : State) (ties buses : List Nat) : (s.closeTies ties buses).dram = s.dram := by simp [closeTies]
@[simp] theorem freshIslands_dram (s : State) : s.freshIslands.dram = s.dram := by simp [freshIslands]
@[simp] theorem lomState_dram (s : State) (b : Nat) : (s.lomState b).dram = s.dram := by simp [lomState]
@[simp] theorem lomMet_dram (s : State) (b h cause : Nat) : (s.lomMet b h cause).dram = s.dram := by simp [lomMet]

@[simp] theorem lomHalfCycle_dram (s : State) (b : Nat) : (s.lomHalfCycle b).dram = s.dram := by
  unfold lomHalfCycle
  dsimp only
  repeat' split
  all_goals simp

@[simp] theorem lomRelease_dram (s : State) (b : Nat) : (s.lomRelease b).dram = s.dram := by simp [lomRelease]
@[simp] theorem lomHoldExpiry_dram (s : State) (b : Nat) : (s.lomHoldExpiry b).dram = s.dram := by simp [lomHoldExpiry]
@[simp] theorem resetLom_dram (s : State) : s.resetLom.dram = s.dram := by simp [resetLom]
@[simp] theorem pulsePins_dram (s : State) (a : Nat) : (s.pulsePins a).dram = s.dram := by simp [pulsePins]
@[simp] theorem reroute_dram (s : State) (alarms : List Nat) : (s.reroute alarms).1.dram = s.dram := by simp [reroute]
@[simp] theorem deliverAlarm_dram (s : State) (e : Nat × Bool) : (s.deliverAlarm e).dram = s.dram := by simp [deliverAlarm]

@[simp] theorem routeDelivery_dram (s : State) : s.routeDelivery.1.dram = s.dram := by
  unfold routeDelivery
  split <;> simp

@[simp] theorem minOnExpiry_dram (s : State) (a : Nat) : (s.minOnExpiry a).dram = s.dram := by
  unfold minOnExpiry
  split <;> simp

@[simp] theorem alarmAck_dram (s : State) (a : Nat) : (s.alarmAck a).dram = s.dram := by simp [alarmAck]
@[simp] theorem almPulseEnd_dram (s : State) (n : Nat) : (s.almPulseEnd n).dram = s.dram := by simp [almPulseEnd]
@[simp] theorem rerouteAll_dram (s : State) : s.rerouteAll.1.dram = s.dram := by simp [rerouteAll]

/-! ### Egress -/

@[simp] theorem sendCopy_dram (s : State) (n d : Nat) (tc : Et) (frame : List Byte) : (s.sendCopy n d tc frame).dram = s.dram := by
  rw [sendCopy]
  repeat' split
  all_goals simp

@[simp] theorem egressStream_dram (s : State) (n : Nat) : (s.egressStream n).dram = s.dram := by
  rw [egressStream]
  repeat' split
  all_goals simp

@[simp] theorem egressTake_dram (s : State) (n : Nat) (r : Released) : (s.egressTake n r).dram = s.dram := by simp [egressTake]

@[simp] theorem buildRound_dram (fuel : Nat) (s : State) (ready : List Nat) : (buildRound fuel s ready).dram = s.dram := by
  induction fuel generalizing s with
  | zero => rfl
  | succ fuel ih =>
    rw [buildRound]
    split
    · rfl
    · rw [ih, foldl_dram]
      intro t n
      split <;> simp

@[simp] theorem egressRelease_dram (s : State) : s.egressRelease.dram = s.dram := by simp [egressRelease]
@[simp] theorem egressConnect_dram (s : State) (n p : Nat) : (s.egressConnect n p).dram = s.dram := by simp [egressConnect]
@[simp] theorem egressData_dram (s : State) (n : Nat) (on : Bool) : (s.egressData n on).dram = s.dram := by simp [egressData]

@[simp] theorem egressAnswer_dram (s : State) (n : Nat) (frame : List Byte) : (s.egressAnswer n frame).dram = s.dram := by
  unfold egressAnswer
  split <;> simp

@[simp] theorem badCommand_dram (s : State) (n cmd : Nat) : (s.badCommand n cmd).dram = s.dram := by simp [badCommand]
@[simp] theorem modPub_dram (s : State) (p : Nat) (f : GoosePub → GoosePub) : (s.modPub p f).dram = s.dram := by simp [modPub]
@[simp] theorem samplePub_dram (s : State) (p : Nat) : (s.samplePub p).dram = s.dram := by simp [samplePub]
@[simp] theorem gooseSample_dram (s : State) : s.gooseSample.dram = s.dram := by simp [gooseSample]
@[simp] theorem sendGoose_dram (s : State) (p next : Nat) : (s.sendGoose p next).dram = s.dram := by simp [sendGoose]
@[simp] theorem gooseStateChange_dram (s : State) (p : Nat) : (s.gooseStateChange p).dram = s.dram := by simp [gooseStateChange]
@[simp] theorem gooseRetransmit_dram (s : State) (p : Nat) : (s.gooseRetransmit p).dram = s.dram := by simp [gooseRetransmit]
@[simp] theorem startPub_dram (s : State) (p : Nat) : (s.startPub p).dram = s.dram := by simp [startPub]
@[simp] theorem pubsAfterClaim_dram (s : State) : s.pubsAfterClaim.dram = s.dram := by simp [pubsAfterClaim]
@[simp] theorem flagMembers_dram (s : State) (q flag : Nat) : (s.flagMembers q flag).dram = s.dram := by simp [flagMembers]
@[simp] theorem expireGoose_dram (s : State) (q : Nat) : (s.expireGoose q).dram = s.dram := by simp [expireGoose]

@[simp] theorem acceptGoose_dram (s : State) (q : Nat) (m : GooseMsg) (arrival : Et) :
    (s.acceptGoose q m arrival).dram = s.dram := by simp [acceptGoose]

@[simp] theorem gooseFor_dram (s : State) (q : Nat) (m : GooseMsg) (arrival : Et) :
    (s.gooseFor q m arrival).dram = s.dram := by simp [gooseFor]

@[simp] theorem gooseReceive_dram (s : State) (p : Nat) (m : GooseMsg) (tdc : Nat) : (s.gooseReceive p m tdc).dram = s.dram := by
  rw [gooseReceive]
  repeat' split
  all_goals simp

@[simp] theorem gooseExpire_dram (s : State) (q : Nat) : (s.gooseExpire q).dram = s.dram := by
  unfold gooseExpire
  split <;> simp

@[simp] theorem startSub_dram (s : State) (q : Nat) : (s.startSub q).dram = s.dram := by simp [startSub]

/-! ### Orrery -/

@[simp] theorem showImage_dram (s : State) : s.showImage.dram = s.dram := by simp [showImage]
@[simp] theorem loadIdle_dram (s : State) (img : List Byte) : (s.loadIdle img).dram = s.dram := by simp [loadIdle]
@[simp] theorem switchImage_dram (s : State) : s.switchImage.dram = s.dram := by simp [switchImage]

@[simp] theorem adoptBlocks_dram (s : State) : s.adoptBlocks.dram = s.dram := by
  rw [adoptBlocks]
  repeat' split
  all_goals simp

@[simp] theorem safeReset_dram (s : State) : s.safeReset.dram = s.dram := by
  unfold safeReset
  split <;> simp

@[simp] theorem orrerySnapshot_dram (s : State) : s.orrerySnapshot.dram = s.dram := by simp [orrerySnapshot]
@[simp] theorem orreryEvaluated_dram (s : State) : s.orreryEvaluated.dram = s.dram := by simp [orreryEvaluated]
@[simp] theorem writeOutputs_dram (s : State) : s.writeOutputs.dram = s.dram := by simp [writeOutputs]
@[simp] theorem absentPublished_dram (s : State) : s.absentPublished.dram = s.dram := by simp [absentPublished]

@[simp] theorem overrun_dram (s : State) : s.overrun.dram = s.dram := by
  rw [overrun]
  simp only [raiseEvent_dram, modOrr_dram, inc32_eq, setN_eq, set_dram, absentPublished_dram]

@[simp] theorem writeBo_dram (s : State) (safeAll : Bool) (outs : List (Nat × Block)) (n : Nat) :
    (s.writeBo safeAll outs n).dram = s.dram := by simp [writeBo]

@[simp] theorem standbyBos_dram (s : State) : s.standbyBos.dram = s.dram := by simp [standbyBos]
@[simp] theorem realignCycle_dram (s : State) : s.realignCycle.dram = s.dram := by simp [realignCycle]
@[simp] theorem orreryWrite_dram (s : State) : s.orreryWrite.dram = s.dram := by simp [orreryWrite]
@[simp] theorem stepOrrery_dram (s : State) (amount : Int) : (s.stepOrrery amount).dram = s.dram := by simp [stepOrrery]
@[simp] theorem safeBos_dram (s : State) : s.safeBos.dram = s.dram := by simp [safeBos]
@[simp] theorem orreryWait_dram (s : State) : s.orreryWait.dram = s.dram := by simp [orreryWait]
@[simp] theorem orreryOff_dram (s : State) : s.orreryOff.dram = s.dram := by simp [orreryOff]
@[simp] theorem orreryStart_dram (s : State) : s.orreryStart.dram = s.dram := by simp [orreryStart]
@[simp] theorem reenable_dram (s : State) : s.reenable.dram = s.dram := by simp [reenable]
@[simp] theorem boFault_dram (s : State) (n bit : Nat) (b : Bool) : (s.boFault n bit b).dram = s.dram := by simp [boFault]

@[simp] theorem boRise_dram (s : State) (n kind : Nat) : (s.boRise n kind).dram = s.dram := by
  rw [boRise]
  repeat' split
  · rfl
  all_goals next u e => simpa using fst_dram e (occurs_dram ..)

@[simp] theorem boShort_dram (s : State) (n : Nat) : (s.boShort n).dram = s.dram := by simp [boShort]

@[simp] theorem boRetry_dram (s : State) (n : Nat) : (s.boRetry n).dram = s.dram := by
  unfold boRetry
  split <;> simp

@[simp] theorem boHold_dram (s : State) (n : Nat) : (s.boHold n).dram = s.dram := by
  unfold boHold
  split <;> simp

@[simp] theorem boSense_dram (s : State) (n : Nat) (load : Bool) : (s.boSense n load).dram = s.dram := by simp [boSense]
@[simp] theorem clearBo_dram (s : State) (n : Nat) : (s.clearBo n).dram = s.dram := by simp [clearBo]
@[simp] theorem biQuality_dram (s : State) (n : Nat) : (s.biQuality n).dram = s.dram := by simp [biQuality]

@[simp] theorem biWiring_dram (s : State) (n kind : Nat) : (s.biWiring n kind).dram = s.dram := by
  rw [biWiring]
  split
  all_goals next u e => simpa using fst_dram e (occurs_dram ..)

@[simp] theorem acceptBand_dram (s : State) (n band : Nat) (since : Et) : (s.acceptBand n band since).dram = s.dram := by
  unfold acceptBand
  split <;> simp

@[simp] theorem biSample_dram (s : State) (n : Nat) (mv : Int) : (s.biSample n mv).1.dram = s.dram := by simp [biSample]
@[simp] theorem freshBi_dram (s : State) (n : Nat) : (s.freshBi n).dram = s.dram := by simp [freshBi]
@[simp] theorem clearBi_dram (s : State) (n : Nat) : (s.clearBi n).dram = s.dram := by simp [clearBi]

/-! ### Restart -/

@[simp] theorem unstage_dram (s : State) : s.unstage.dram = s.dram := by simp [unstage]
@[simp] theorem closeSession_dram (s : State) (id : Nat) : (s.closeSession id).dram = s.dram := by simp [closeSession]
@[simp] theorem closeSessions_dram (s : State) : s.closeSessions.dram = s.dram := by simp [closeSessions]
@[simp] theorem zeroise_dram (s : State) : s.zeroise.dram = s.dram := by simp [zeroise]
@[simp] theorem stopActing_dram (s : State) : s.stopActing.dram = s.dram := by simp [stopActing]
@[simp] theorem releaseClaim_dram (s : State) : s.releaseClaim.dram = s.dram := by simp [releaseClaim]
@[simp] theorem enterStage_dram (s : State) (n : Nat) : (s.enterStage n).dram = s.dram := by simp [enterStage]

@[simp] theorem enterRecoveryMode_dram (s : State) (cause : Nat) :
    (s.enterRecoveryMode cause).dram = s.dram := by simp [enterRecoveryMode]

@[simp] theorem inResetWith_dram (s : State) (keys : List Nat) : (s.inResetWith keys).dram = s.dram := by simp [inResetWith]
@[simp] theorem startUp_dram (s : State) (cause : Nat) : (s.startUp cause).dram = s.dram := by simp [startUp]
@[simp] theorem restart_dram (s : State) (cause : Nat) : (s.restart cause).dram = s.dram := by simp [restart]
@[simp] theorem wake_dram (s : State) (cause : Nat) : (s.wake cause).dram = s.dram := by simp [wake]

/-! ### Tamper -/

@[simp] theorem restrict_dram (s : State) : s.restrict.dram = s.dram := by simp [restrict]
@[simp] theorem tamperWake_dram (s : State) : s.tamperWake.dram = s.dram := by simp [tamperWake]
@[simp] theorem latchTamper_dram (s : State) (bit : Nat) : (s.latchTamper bit).dram = s.dram := by simp [latchTamper]
@[simp] theorem tamperSource_dram (s : State) (bit : Nat) : (s.tamperSource bit).dram = s.dram := by simp [tamperSource]
@[simp] theorem tamperLoops_dram (s : State) (millivolts : List Nat) : (s.tamperLoops millivolts).dram = s.dram := by simp [tamperLoops]
@[simp] theorem tamperClear_dram (s : State) : s.tamperClear.dram = s.dram := by simp [tamperClear]

/-! ### Health -/

@[simp] theorem eventAck_dram (s : State) (source : Nat) : (s.eventAck source).dram = s.dram := by simp [eventAck]

@[simp] theorem irqRearm_dram (s : State) (pin : Nat) : (s.irqRearm pin).dram = s.dram := by
  unfold irqRearm
  split <;> simp

@[simp] theorem counterSnapshot_dram (s : State) : s.counterSnapshot.dram = s.dram := by simp [counterSnapshot]
@[simp] theorem snapshotCmd_dram (s : State) : s.snapshotCmd.dram = s.dram := by simp [snapshotCmd]
@[simp] theorem snapPeriod_dram (s : State) : s.snapPeriod.dram = s.dram := by simp [snapPeriod]
@[simp] theorem sampleTj_dram (s : State) (die : Nat) (tj : F32) : (s.sampleTj die tj).dram = s.dram := by simp [sampleTj]

@[simp] theorem sampleRail_dram (s : State) (r mv : Nat) : (s.sampleRail r mv).dram = s.dram := by
  unfold sampleRail
  split <;> simp

@[simp] theorem monitorSample_dram (s : State) (temperatures : List F32) (rails : List Nat) :
    (s.monitorSample temperatures rails).dram = s.dram := by simp [monitorSample]

/-! ### Photometer -/

@[simp] theorem raiseRollovers_dram (s : State) (bay : Nat) (old new : List PmRegister) :
    (s.raiseRollovers bay old new).dram = s.dram := by simp [raiseRollovers]

@[simp] theorem book_dram (s : State) (bay : Nat) (l : List (Nat × F64)) (own : Bool) : (s.book bay l own).dram = s.dram := by simp [book]

@[simp] theorem closeDemand_dram (s : State) (bay : Nat) (start end_ : Et) :
    (s.closeDemand bay start end_).dram = s.dram := by simp [closeDemand]

@[simp] theorem closeDemandUpTo_dram (s : State) (bay : Nat) (t : Et) : (s.closeDemandUpTo bay t).dram = s.dram := by
  unfold closeDemandUpTo
  split <;> simp

@[simp] theorem setPmCondition_dram (s : State) (bay kind : Nat) (present : Bool) :
    (s.setPmCondition bay kind present).dram = s.dram := by
  unfold setPmCondition
  dsimp only
  split
  · rfl
  · split
    · simp
    · split
      all_goals next e => simpa using fst_dram e (occurs_dram ..)

@[simp] theorem dropCondition_dram (s : State) (bay kind : Nat) : (s.dropCondition bay kind).dram = s.dram := by simp [dropCondition]

@[simp] theorem judgeCondition_dram (s : State) (bay kind : Nat) (holds : Bool) :
    (s.judgeCondition bay kind holds).dram = s.dram := by simp [judgeCondition]

@[simp] theorem judgeCycle_dram (s : State) (bay : Nat) (v : Cplx × Cplx × Cplx) :
    (s.judgeCycle bay v).dram = s.dram := by simp [judgeCycle]

@[simp] theorem clearPm_dram (s : State) (bay : Nat) : (s.clearPm bay).dram = s.dram := by simp [clearPm]

@[simp] theorem publishPm_dram (s : State) (bay : Nat) (sp : Span) (v : Cplx × Cplx × Cplx) :
    (s.publishPm bay sp v).dram = s.dram := by simp [publishPm]

@[simp] theorem bookGap_dram (s : State) (bay : Nat) : (s.bookGap bay).dram = s.dram := by
  rw [bookGap]
  repeat' split
  all_goals simp

@[simp] theorem resetAtEnd_dram (s : State) (bay : Nat) : (s.resetAtEnd bay).dram = s.dram := by simp [resetAtEnd]

@[simp] theorem captureBay_dram (s : State) (bay : Nat) : (s.captureBay bay).dram = s.dram := by
  unfold captureBay
  split <;> simp

@[simp] theorem bookCycle_dram (s : State) (bay : Nat) : (s.bookCycle bay).dram = s.dram := by simp [bookCycle]

@[simp] theorem pmCycleEnd_dram (s : State) (bay : Nat) (vn : List Int) : (s.pmCycleEnd bay vn).dram = s.dram := by
  unfold pmCycleEnd
  dsimp only
  repeat' split
  all_goals simp

@[simp] theorem pmResume_dram (s : State) : s.pmResume.dram = s.dram := by simp [pmResume]
@[simp] theorem demandBoundary_dram (s : State) (bay : Nat) : (s.demandBoundary bay).dram = s.dram := by simp [demandBoundary]
@[simp] theorem pmReset_dram (s : State) (bay : Nat) : (s.pmReset bay).dram = s.dram := by simp [pmReset]
@[simp] theorem pmSnapshot_dram (s : State) : s.pmSnapshot.dram = s.dram := by simp [pmSnapshot]

@[simp] theorem pmSnapshotComplete_dram (s : State) : s.pmSnapshotComplete.dram = s.dram := by
  unfold pmSnapshotComplete
  split <;> simp

@[simp] theorem freezeCount_dram (s : State) (n : Nat) (at_ : Et) : (s.freezeCount n at_).dram = s.dram := by
  unfold freezeCount
  split <;> simp

@[simp] theorem setCount_dram (s : State) (n count : Nat) : (s.setCount n count).dram = s.dram := by simp [setCount]
@[simp] theorem pulse_dram (s : State) (n before : Nat) : (s.pulse n before).dram = s.dram := by simp [pulse]
@[simp] theorem pmSave_dram (s : State) : s.pmSave.dram = s.dram := by simp [pmSave]

@[simp] theorem pmRestore_dram (s : State) : s.pmRestore.dram = s.dram := by
  unfold pmRestore
  split <;> simp

@[simp] theorem takePmMirror_dram (s : State) (registers : List (List PmRegister)) (lastCycles : List Et) :
    (s.takePmMirror registers lastCycles).dram = s.dram := by
  rw [takePmMirror, foldl_dram]
  intro t b
  split <;> simp

@[simp] theorem keepOwnBookings_dram (s : State) : s.keepOwnBookings.dram = s.dram := by simp [keepOwnBookings]

/-! ### Deflate -/

@[simp] theorem setQueue_dram (s : State) (q : List Nat) : (s.setQueue q).dram = s.dram := by simp [setQueue]

@[simp] theorem countJob_dram (s : State) (status consumed produced raw : Nat) :
    (s.countJob status consumed produced raw).dram = s.dram := by
  unfold countJob
  split <;> simp only [inc64_eq, inc32_eq, add_eq, raiseEvent_dram, set_dram, perf_dram]

@[simp] theorem compressBlock_dram (s : State) (b : List Byte) : (s.compressBlock b).1.dram = s.dram := by simp [compressBlock]

/-! ### Plate -/

@[simp] theorem setCond_dram (s : State) (t : Nat) (b : Bool) : (s.setCond t b).dram = s.dram := by simp [setCond]
@[simp] theorem setPlate_dram (s : State) (slot : Nat) (p : Plate) : (s.setPlate slot p).dram = s.dram := by simp [setPlate]

@[simp] theorem cutPlate_dram (s : State) : s.cutPlate.dram = s.dram := by
  unfold cutPlate
  split <;> simp

@[simp] theorem stopRecorder_dram (s : State) : s.stopRecorder.dram = s.dram := by simp [stopRecorder]

@[simp] theorem losePlate_dram (s : State) : s.losePlate.1.dram = s.dram := by
  unfold losePlate
  split <;> simp

@[simp] theorem loseUntil_dram (need : State → Bool) (fuel : Nat) (s : State) : (loseUntil need fuel s).dram = s.dram := by
  induction fuel generalizing s with
  | zero => rfl
  | succ fuel ih => simp [loseUntil, ih]

@[simp] theorem missTrigger_dram (s : State) (f : Firing) : (s.missTrigger f).dram = s.dram := by simp [missTrigger]
@[simp] theorem openPlate_dram (s : State) (slot : Nat) (f : Firing) : (s.openPlate slot f).dram = s.dram := by simp [openPlate]

@[simp] theorem startPlate_dram (s : State) (f : Firing) : (s.startPlate f).dram = s.dram := by
  unfold startPlate
  dsimp only
  repeat' split
  all_goals simp

@[simp] theorem addMarker_dram (s : State) (f : Firing) : (s.addMarker f).dram = s.dram := by
  unfold addMarker
  split <;> simp

@[simp] theorem extendPlate_dram (s : State) (f : Firing) : (s.extendPlate f).dram = s.dram := by
  unfold extendPlate
  split <;> simp

@[simp] theorem takeTrigger_dram (s : State) (f : Firing) : (s.takeTrigger f).dram = s.dram := by
  unfold takeTrigger
  split <;> simp

@[simp] theorem pullStation_dram (s : State) : s.pullStation.dram = s.dram := by simp [pullStation]
@[simp] theorem fire_dram (s : State) (stationOut : Bool) (f : Firing) : (s.fire stationOut f).dram = s.dram := by simp [fire]
@[simp] theorem fireAll_dram (s : State) (l : List (Firing × Bool)) : (s.fireAll l).dram = s.dram := by simp [fireAll]

@[simp] theorem fireKind_dram (s : State) (kind : Nat) (hit : Trigger → Bool) (at_ : Et) :
    (s.fireKind kind hit at_).dram = s.dram := by simp [fireKind]

@[simp] theorem biTrigger_dram (s : State) (n before : Nat) : (s.biTrigger n before).dram = s.dram := by simp [biTrigger]
@[simp] theorem tiTrigger_dram (s : State) (n : Nat) (rising : Bool) : (s.tiTrigger n rising).dram = s.dram := by simp [tiTrigger]
@[simp] theorem alarmTrigger_dram (s : State) (alarms : List Nat) : (s.alarmTrigger alarms).dram = s.dram := by simp [alarmTrigger]
@[simp] theorem orreryTrigger_dram (s : State) : s.orreryTrigger.dram = s.dram := by simp [orreryTrigger]
@[simp] theorem judgeLevel_dram (s : State) (n : Nat) (t : Trigger) (v : ℚ) : (s.judgeLevel n t v).1.dram = s.dram := by simp [judgeLevel]

@[simp] theorem sampleTriggers_dram (s : State) : s.sampleTriggers.dram = s.dram := by
  rw [sampleTriggers]
  split
  · rfl
  · rw [fireAll_dram, foldl_fst_dram]
    intro a i
    dsimp only
    repeat' split
    all_goals simp only [judgeLevel_dram]

@[simp] theorem rmsTriggers_dram (s : State) : s.rmsTriggers.dram = s.dram := by simp [rmsTriggers]

@[simp] theorem appendSample_dram (s : State) (pos n : Nat) : (s.appendSample pos n).dram = s.dram := by
  unfold appendSample
  split <;> simp

@[simp] theorem openSegment_dram (s : State) (pos n : Nat) : (s.openSegment pos n).dram = s.dram := by simp [openSegment]

@[simp] theorem writeSample_dram (s : State) : s.writeSample.dram = s.dram := by
  rw [writeSample]
  cases s.segmentOpen with
  | some c => simp
  | none =>
    cases s.nextFree with
    | some p => simp
    | none =>
      dsimp only
      generalize hu : loseUntil (fun u => u.nextFree.isSome) 64 s = u
      have h : u.dram = s.dram := by rw [← hu, loseUntil_dram]
      cases u.nextFree <;> simp [h]

@[simp] theorem armRecorder_dram (s : State) : s.armRecorder.dram = s.dram := by simp [armRecorder]
@[simp] theorem recordSample_dram (s : State) : s.recordSample.dram = s.dram := by simp [recordSample]

@[simp] theorem completePlate_dram (s : State) : s.completePlate.dram = s.dram := by
  unfold completePlate
  split <;> simp

@[simp] theorem plateComplete_dram (s : State) : s.plateComplete.dram = s.dram := by
  unfold plateComplete
  split <;> simp

@[simp] theorem endEpoch_dram (s : State) : s.endEpoch.dram = s.dram := by simp [endEpoch]
@[simp] theorem newEpoch_dram (s : State) : s.newEpoch.dram = s.dram := by simp [newEpoch]
@[simp] theorem recorderOff_dram (s : State) : s.recorderOff.dram = s.dram := by simp [recorderOff]
@[simp] theorem emptyRing_dram (s : State) : s.emptyRing.dram = s.dram := by simp [emptyRing]
@[simp] theorem rearm_dram (s : State) : s.rearm.dram = s.dram := by simp [rearm]
@[simp] theorem autoFire_dram (s : State) : s.autoFire.dram = s.dram := by simp [autoFire]
@[simp] theorem stationEdge_dram (s : State) (tdc : Nat) : (s.stationEdge tdc).dram = s.dram := by simp [stationEdge]
@[simp] theorem releaseStation_dram (s : State) : s.releaseStation.dram = s.dram := by simp [releaseStation]
@[simp] theorem triggerCmd_dram (s : State) (n : Nat) : (s.triggerCmd n).dram = s.dram := by simp [triggerCmd]
@[simp] theorem resumeRecorder_dram (s : State) : s.resumeRecorder.dram = s.dram := by simp [resumeRecorder]

@[simp] theorem releasePlate_dram (s : State) (number : Nat) : (s.releasePlate number).dram = s.dram := by
  unfold releasePlate
  split <;> simp

@[simp] theorem exportPlate_dram (s : State) (number : Nat) : (s.exportPlate number).dram = s.dram := by
  unfold exportPlate
  split <;> simp

@[simp] theorem finishExport_dram (s : State) (number : Nat) : (s.finishExport number).dram = s.dram := by
  rw [finishExport]
  split <;> simp only [finishCmd_dram, setN_eq, set_dram, modRec_dram]

@[simp] theorem seekExport_dram (s : State) (sess block : Nat) : (s.seekExport sess block).dram = s.dram := by simp [seekExport]

@[simp] theorem chunkReady_dram (s : State) (sess : Nat) : (s.chunkReady sess).dram = s.dram := by
  unfold chunkReady
  split <;> simp

/-! ### Ptp -/

@[simp] theorem modPtpPort_dram (s : State) (p : Nat) (f : PtpPort → PtpPort) : (s.modPtpPort p f).dram = s.dram := by simp [modPtpPort]
@[simp] theorem expireForeign_dram (s : State) (p : Nat) : (s.expireForeign p).dram = s.dram := by simp [expireForeign]

@[simp] theorem enterPortState_dram (s : State) (p st steps : Nat) :
    (s.enterPortState p st steps).dram = s.dram := by simp [enterPortState]

@[simp] theorem takeUtc_dram (s : State) : s.takeUtc.dram = s.dram := by
  unfold takeUtc
  split <;> simp

@[simp] theorem followParent_dram (s : State) : s.followParent.dram = s.dram := by simp [followParent]
@[simp] theorem bmca_dram (s : State) (forced : Option Nat) : (s.bmca forced).dram = s.dram := by simp [bmca]
@[simp] theorem initPtp_dram (s : State) : s.initPtp.dram = s.dram := by simp [initPtp]

@[simp] theorem ptpOffset_dram (s : State) (p : Nat) (rx origin : Et) (correction : Int) :
    (s.ptpOffset p rx origin correction).dram = s.dram := by simp [ptpOffset]

@[simp] theorem ptpSync_dram (s : State) (p : Nat) (m : PtpMsg) (rx : Et) : (s.ptpSync p m rx).dram = s.dram := by simp [ptpSync]

@[simp] theorem ptpFollowUp_dram (s : State) (p : Nat) (m : PtpMsg) : (s.ptpFollowUp p m).dram = s.dram := by
  unfold ptpFollowUp
  split <;> simp

@[simp] theorem peerDelay_dram (s : State) (p : Nat) : (s.peerDelay p).dram = s.dram := by
  rw [peerDelay]
  repeat' split
  all_goals simp

@[simp] theorem ptpPdelayResp_dram (s : State) (p : Nat) (m : PtpMsg) (rx : Et) :
    (s.ptpPdelayResp p m rx).dram = s.dram := by simp [ptpPdelayResp]

@[simp] theorem ptpPdelayFollowUp_dram (s : State) (p : Nat) (m : PtpMsg) :
    (s.ptpPdelayFollowUp p m).dram = s.dram := by simp [ptpPdelayFollowUp]

@[simp] theorem ptpAnnounce_dram (s : State) (p : Nat) (m : PtpMsg) : (s.ptpAnnounce p m).dram = s.dram := by
  rw [ptpAnnounce]
  repeat' split
  all_goals simp

@[simp] theorem ptpReceive_dram (s : State) (p : Nat) (m : PtpMsg) (tdc : Nat) : (s.ptpReceive p m tdc).dram = s.dram := by
  rw [ptpReceive]
  repeat' split
  all_goals simp

@[simp] theorem announceTimeout_dram (s : State) (p : Nat) : (s.announceTimeout p).dram = s.dram := by simp [announceTimeout]

@[simp] theorem pushTxts_dram (s : State) (p type seq : Nat) (stamp : Et) :
    (s.pushTxts p type seq stamp).dram = s.dram := by simp [pushTxts]

@[simp] theorem ptpTransmit_dram (s : State) (p type seq tdc : Nat) :
    (s.ptpTransmit p type seq tdc).dram = s.dram := by simp [ptpTransmit]

@[simp] theorem readTxts_dram (s : State) (p : Nat) : (s.readTxts p).dram = s.dram := by
  unfold readTxts
  dsimp only
  repeat' split
  all_goals simp

@[simp] theorem ptpTick_dram (s : State) (p : Nat) : (s.ptpTick p).dram = s.dram := by simp [ptpTick]
@[simp] theorem txtsClear_dram (s : State) (p : Nat) : (s.txtsClear p).dram = s.dram := by simp [txtsClear]

@[simp] theorem tcSync_dram (s : State) (ingress egress : Nat) (m : PtpMsg) (rxAgo rxTdc tdc : Nat) :
    (s.tcSync ingress egress m rxAgo rxTdc tdc).dram = s.dram := by simp [tcSync]

@[simp] theorem tcFollowUp_dram (s : State) (ingress egress : Nat) (m : PtpMsg) : (s.tcFollowUp ingress egress m).dram = s.dram := by
  rw [tcFollowUp]
  repeat' split
  all_goals simp

@[simp] theorem tcExpire_dram (s : State) (egress : Nat) : (s.tcExpire egress).dram = s.dram := by simp [tcExpire]
@[simp] theorem servo_dram (s : State) (ref : RefKind) (o : Int) : (s.servo ref o).dram = s.dram := by simp [servo]

/-! ### Fabric -/

@[simp] theorem modLanePower_dram (s : State) (n : Nat) (f : LanePower → LanePower) :
    (s.modLanePower n f).dram = s.dram := by simp [modLanePower]

@[simp] theorem laneFailed_dram (s : State) (n : Nat) : (s.laneFailed n).dram = s.dram := by simp [laneFailed]
@[simp] theorem autoReload_dram (s : State) (n : Nat) : (s.autoReload n).dram = s.dram := by simp [autoReload]
@[simp] theorem dropLane_dram (s : State) (n : Nat) : (s.dropLane n).dram = s.dram := by simp [dropLane]
@[simp] theorem isolateLane_dram (s : State) (n : Nat) : (s.isolateLane n).dram = s.dram := by simp [isolateLane]
@[simp] theorem fenceLane_dram (s : State) (n : Nat) : (s.fenceLane n).dram = s.dram := by simp [fenceLane]
@[simp] theorem paceReport_dram (s : State) (n : Nat) : (s.paceReport n).dram = s.dram := by simp [paceReport]
@[simp] theorem leaseExpiry_dram (s : State) (n : Nat) : (s.leaseExpiry n).dram = s.dram := by simp [leaseExpiry]
@[simp] theorem laneUp_dram (s : State) (n : Nat) : (s.laneUp n).dram = s.dram := by simp [laneUp]
@[simp] theorem reloadEnds_dram (s : State) (n : Nat) (ok : Bool) : (s.reloadEnds n ok).dram = s.dram := by simp [reloadEnds]
@[simp] theorem reloadComplete_dram (s : State) (n : Nat) (ok : Bool) : (s.reloadComplete n ok).dram = s.dram := by simp [reloadComplete]
@[simp] theorem wakeLane_dram (s : State) (n : Nat) (ok : Bool) : (s.wakeLane n ok).dram = s.dram := by simp [wakeLane]
@[simp] theorem reloadCmd_dram (s : State) (n : Nat) : (s.reloadCmd n).dram = s.dram := by simp [reloadCmd]
@[simp] theorem linkFails_dram (s : State) (n : Nat) : (s.linkFails n).dram = s.dram := by simp [linkFails]

@[simp] theorem countReplays_dram (s : State) (n replays : Nat) : (s.countReplays n replays).dram = s.dram := by
  unfold countReplays
  split <;> simp

@[simp] theorem linkDownRow_dram (s : State) (n : Nat) : (s.linkDownRow n).dram = s.dram := by simp [linkDownRow]

@[simp] theorem zonovMessage_dram (s : State) (n : Nat) (cls : MsgClass) (drained latency failedChecks : Nat) :
    (s.zonovMessage n cls drained latency failedChecks).dram = s.dram := by
  unfold zonovMessage
  simp only [ite_dram]
  split
  · rfl
  · split
    · simp only [modFab_dram]
    · simp only [ite_dram, linkFails_dram, inc32_eq, inc64_eq, setMax_eq, set_dram, perf_dram, countReplays_dram, modFab_dram,
        ite_self]

@[simp] theorem paceDie_dram (s : State) (d completions : Nat) : (s.paceDie d completions).dram = s.dram := by
  unfold paceDie
  simp only [ite_dram, raiseEvent_dram, modEv_dram, inc64_eq, set_dram, perf_dram, setF32_eq, ite_self]

@[simp] theorem modRail_dram (s : State) (r : Nat) (f : Rail → Rail) : (s.modRail r f).dram = s.dram := by simp [modRail]
@[simp] theorem noteLimit_dram (s : State) (r : Nat) : (s.noteLimit r).dram = s.dram := by simp [noteLimit]
@[simp] theorem requestRail_dram (s : State) (r v : Nat) : (s.requestRail r v).dram = s.dram := by simp [requestRail]
@[simp] theorem loopRail_dram (s : State) (r : Nat) (reply : AvsReply) : (s.loopRail r reply).dram = s.dram := by simp [loopRail]
@[simp] theorem avsLoop_dram (s : State) (replies : List AvsReply) : (s.avsLoop replies).dram = s.dram := by simp [avsLoop]

@[simp] theorem avsAtLimit_dram (s : State) (r : Nat) : (s.avsAtLimit r).dram = s.dram := by
  unfold avsAtLimit
  split <;> simp

@[simp] theorem avsFixed_dram (s : State) : s.avsFixed.dram = s.dram := by simp [avsFixed]
@[simp] theorem paceWindow_dram (s : State) (completions : List Nat) : (s.paceWindow completions).dram = s.dram := by simp [paceWindow]
@[simp] theorem spoilSpill_dram (s : State) (off : Nat) : (s.spoilSpill off).dram = s.dram := by simp [spoilSpill]
@[simp] theorem spoilSegment_dram (s : State) (off : Nat) : (s.spoilSegment off).dram = s.dram := by simp [spoilSegment]

@[simp] theorem spoilWord_dram (s : State) (a : Nat) : (s.spoilWord a).dram = s.dram := by
  rw [spoilWord]
  repeat' split
  all_goals simp

@[simp] theorem dramUncorrected_dram (s : State) (die word : Nat) :
    (s.dramUncorrected die word).dram = s.dram := by simp [dramUncorrected]

@[simp] theorem scrubPass_dram (s : State) (corrected : Nat) (uncorrected : List (Fin 2 × Nat)) :
    (s.scrubPass corrected uncorrected).dram = s.dram := by simp [scrubPass]

/-! ### Pair -/

@[simp] theorem safeCase_dram (s : State) : s.safeCase.dram = s.dram := by simp [safeCase]
@[simp] theorem claimNow_dram (s : State) : s.claimNow.dram = s.dram := by simp [claimNow]
@[simp] theorem actingStart_dram (s : State) : s.actingStart.dram = s.dram := by simp [actingStart]
@[simp] theorem peerClaim_dram (s : State) (held : Bool) : (s.peerClaim held).dram = s.dram := by simp [peerClaim]
@[simp] theorem deposeAssert_dram (s : State) : s.deposeAssert.dram = s.dram := by simp [deposeAssert]
@[simp] theorem deposeRelease_dram (s : State) : s.deposeRelease.dram = s.dram := by simp [deposeRelease]
@[simp] theorem deposeRestart_dram (s : State) : s.deposeRestart.dram = s.dram := by simp [deposeRestart]
@[simp] theorem pairLinkChange_dram (s : State) (h : PairHello) : (s.pairLinkChange h).dram = s.dram := by simp [pairLinkChange]
@[simp] theorem alignCycles_dram (s : State) (im : OutputImage) : (s.alignCycles im).dram = s.dram := by simp [alignCycles]
@[simp] theorem receiveImage_dram (s : State) (im : OutputImage) : (s.receiveImage im).dram = s.dram := by simp [receiveImage]

@[simp] theorem receiveBlocks_dram (s : State) (cycle : Nat) (blocks : List (Nat × Nat × BlockState)) :
    (s.receiveBlocks cycle blocks).dram = s.dram := by simp [receiveBlocks]

@[simp] theorem receiveTies_dram (s : State) (k : Nat) (ties : List (Nat × TieState)) :
    (s.receiveTies k ties).dram = s.dram := by simp [receiveTies]

@[simp] theorem receiveBands_dram (s : State) (k : Nat) (summaries : List BandSummary) :
    (s.receiveBands k summaries).dram = s.dram := by simp [receiveBands]

@[simp] theorem receiveGooseCount_dram (s : State) (pub stNum sqNum : Nat) :
    (s.receiveGooseCount pub stNum sqNum).dram = s.dram := by simp [receiveGooseCount]

@[simp] theorem holdExpiry_dram (s : State) : s.holdExpiry.dram = s.dram := by simp [holdExpiry]
@[simp] theorem poll_dram (s : State) (b : List Byte) : (s.poll b).dram = s.dram := by simp [poll]
@[simp] theorem permitLapse_dram (s : State) : s.permitLapse.dram = s.dram := by simp [permitLapse]
@[simp] theorem witnessLost_dram (s : State) : s.witnessLost.dram = s.dram := by simp [witnessLost]
@[simp] theorem modUnit_dram (s : State) (u : Nat) (f : WitUnit → WitUnit) : (s.modUnit u f).dram = s.dram := by simp [modUnit]
@[simp] theorem sendPoll_dram (s : State) (u : Nat) : (s.sendPoll u).dram = s.dram := by simp [sendPoll]
@[simp] theorem pollPeriod_dram (s : State) : s.pollPeriod.dram = s.dram := by simp [pollPeriod]
@[simp] theorem noAnswer_dram (s : State) (u : Nat) : (s.noAnswer u).dram = s.dram := by simp [noAnswer]

@[simp] theorem statusTimeout_dram (s : State) (u : Nat) : (s.statusTimeout u).dram = s.dram := by
  unfold statusTimeout
  split <;> simp

@[simp] theorem takeStatus_dram (s : State) (u : Nat) (b : List Byte) : (s.takeStatus u b).dram = s.dram := by simp [takeStatus]

@[simp] theorem status_dram (s : State) (b : List Byte) : (s.status b).dram = s.dram := by
  unfold status
  dsimp only
  repeat' split
  all_goals simp

@[simp] theorem witnessDepose_dram (s : State) (u : Nat) : (s.witnessDepose u).dram = s.dram := by simp [witnessDepose]
@[simp] theorem handover_dram (s : State) : s.handover.dram = s.dram := by simp [handover]
@[simp] theorem handOver_dram (s : State) : s.handOver.dram = s.dram := by simp [handOver]

/-! ### Validate -/

@[simp] theorem writeReport_dram (s : State) (cfg : Store) (l : List Conflict) : (s.writeReport cfg l).dram = s.dram := by
  rw [writeReport]
  repeat' split
  all_goals simp

/-! ### Commit -/

@[simp] theorem under_dram (s : State) (cfg : Store) : (s.under cfg).dram = s.dram := by simp [under]
@[simp] theorem awaitRate_dram (s : State) : s.awaitRate.dram = s.dram := by simp [awaitRate]
@[simp] theorem failCommit_dram (s : State) (l : List Conflict) (code : Nat) : (s.failCommit l code).dram = s.dram := by simp [failCommit]

@[simp] theorem commitValidated_dram (s : State) : s.commitValidated.dram = s.dram := by
  unfold commitValidated
  dsimp only
  repeat' split
  all_goals simp

@[simp] theorem showConfig_dram (s : State) : s.showConfig.dram = s.dram := by simp [showConfig]

@[simp] theorem loseStep_dram (s : State) (ch : List Nat) : (s.loseStep ch).dram = s.dram := by
  unfold loseStep
  split <;> simp

@[simp] theorem applyTime_dram (s : State) (ch : List Nat) : (s.applyTime ch).dram = s.dram := by simp [applyTime]
@[simp] theorem applyLocal_dram (s : State) (ch : List Nat) : (s.applyLocal ch).dram = s.dram := by simp [applyLocal]
@[simp] theorem freshRings_dram (s : State) (p : Nat) : (s.freshRings p).dram = s.dram := by simp [freshRings]
@[simp] theorem applyPorts_dram (s : State) (ch : List Nat) : (s.applyPorts ch).dram = s.dram := by simp [applyPorts]

@[simp] theorem applyContext_dram (old : Store) (ch : List Nat) (s : State) (id : Nat) :
    (applyContext old ch s id).dram = s.dram := by simp [applyContext]

@[simp] theorem applyContexts_dram (s : State) (old : Store) (ch : List Nat) :
    (s.applyContexts old ch).dram = s.dram := by simp [applyContexts]

@[simp] theorem applyTransit_dram (s : State) (ch : List Nat) : (s.applyTransit ch).dram = s.dram := by simp [applyTransit]
@[simp] theorem resetChanged_dram (s : State) (ch : List Nat) : (s.resetChanged ch).dram = s.dram := by simp [resetChanged]

@[simp] theorem applySpectro_dram (s : State) (old : Store) (ch : List Nat) :
    (s.applySpectro old ch).dram = s.dram := by simp [applySpectro]

@[simp] theorem applyHorizon_dram (s : State) (old : Store) (ch : List Nat) :
    (s.applyHorizon old ch).dram = s.dram := by simp [applyHorizon]

@[simp] theorem applyEgress_dram (s : State) (old : Store) (ch : List Nat) : (s.applyEgress old ch).dram = s.dram := by simp [applyEgress]
@[simp] theorem applyOrrery_dram (s : State) (ch : List Nat) : (s.applyOrrery ch).dram = s.dram := by simp [applyOrrery]
@[simp] theorem applyMeters_dram (s : State) (ch : List Nat) : (s.applyMeters ch).dram = s.dram := by simp [applyMeters]
@[simp] theorem applyRecorder_dram (s0 : State) (ch : List Nat) : (s0.applyRecorder ch).dram = s0.dram := by simp [applyRecorder]
@[simp] theorem applyHealth_dram (s : State) (ch : List Nat) : (s.applyHealth ch).dram = s.dram := by simp [applyHealth]
@[simp] theorem applyTamper_dram (s : State) (ch : List Nat) : (s.applyTamper ch).dram = s.dram := by simp [applyTamper]
@[simp] theorem applyPair_dram (s : State) (ch : List Nat) : (s.applyPair ch).dram = s.dram := by simp [applyPair]

@[simp] theorem losePartition_dram (s : State) (sub : Nat) : (s.losePartition sub).dram = s.dram := by
  unfold losePartition
  split <;> simp

@[simp] theorem applyPartitions_dram (s : State) (ch : List Nat) : (s.applyPartitions ch).dram = s.dram := by simp [applyPartitions]
@[simp] theorem applyLanes_dram (s : State) (ch : List Nat) : (s.applyLanes ch).dram = s.dram := by simp [applyLanes]
@[simp] theorem applySupply_dram (s : State) : s.applySupply.dram = s.dram := by simp [applySupply]
@[simp] theorem applyConfig_dram (s : State) (old : Store) (ch : List Nat) : (s.applyConfig old ch).dram = s.dram := by simp [applyConfig]
@[simp] theorem activate_dram (s : State) : s.activate.dram = s.dram := by simp [activate]
@[simp] theorem commitActivate_dram (s : State) : s.commitActivate.dram = s.dram := by simp [commitActivate]

/-! ### Logbook -/

@[simp] theorem appendFlash_dram (s : State) (r : LogRecord) : (s.appendFlash r).dram = s.dram := by
  rw [appendFlash]
  split <;> simp

@[simp] theorem flashMirrorWrite_dram (s : State) (cut : Bool) : (s.flashMirrorWrite cut).dram = s.dram := by
  unfold flashMirrorWrite
  split <;> simp

@[simp] theorem countDamaged_dram (s : State) (ring n : Nat) : (s.countDamaged ring n).dram = s.dram := by simp [countDamaged]
@[simp] theorem logSelect_dram (s : State) (sess select : Nat) : (s.logSelect sess select).dram = s.dram := by simp [logSelect]
@[simp] theorem logBlockReady_dram (s : State) (sess : Nat) : (s.logBlockReady sess).dram = s.dram := by simp [logBlockReady]
@[simp] theorem clearLog_dram (s : State) : s.clearLog.dram = s.dram := by simp [clearLog]
@[simp] theorem clearFlashLog_dram (s : State) : s.clearFlashLog.dram = s.dram := by simp [clearFlashLog]
@[simp] theorem restoreSequence_dram (s : State) : s.restoreSequence.dram = s.dram := by simp [restoreSequence]

/-! ### Startup -/

@[simp] theorem setBank_dram (s : State) (type b : Nat) (x : BankContent) : (s.setBank type b x).dram = s.dram := by simp [setBank]
@[simp] theorem setBankState_dram (s : State) (type b st : Nat) : (s.setBankState type b st).dram = s.dram := by simp [setBankState]
@[simp] theorem setTried_dram (s : State) (type : Nat) (b : Bool) : (s.setTried type b).dram = s.dram := by simp [setTried]
@[simp] theorem chooseBank_dram (s : State) (type : Nat) : (s.chooseBank type).1.dram = s.dram := by simp [chooseBank]
@[simp] theorem endTrial_dram (s : State) (type : Nat) : (s.endTrial type).dram = s.dram := by simp [endTrial]
@[simp] theorem readPuf_dram (s : State) (attempts : List PufRead) : (s.readPuf attempts).dram = s.dram := by simp [readPuf]
@[simp] theorem decideAonLoss_dram (s : State) : s.decideAonLoss.dram = s.dram := by simp [decideAonLoss]

@[simp] theorem stagePuf_dram (s : State) (attempts : List PufRead) : (s.stagePuf attempts).dram = s.dram := by
  unfold stagePuf
  dsimp only
  repeat' split
  all_goals simp

@[simp] theorem measure_dram (s : State) (n : Nat) (item : List Byte) : (s.measure n item).dram = s.dram := by simp [measure]

@[simp] theorem stageRom_dram (s : State) : s.stageRom.dram = s.dram := by
  rw [stageRom]
  repeat' split
  all_goals simp

@[simp] theorem stageStage2_dram (s : State) : s.stageStage2.dram = s.dram := by simp [stageStage2]

@[simp] theorem restoreConfig_dram (s : State) : s.restoreConfig.dram = s.dram := by
  rw [restoreConfig]
  repeat' split
  all_goals simp

@[simp] theorem lockM_dram (s : State) : s.lockM.dram = s.dram := by simp [lockM]
@[simp] theorem loadKeys_dram (s : State) : s.loadKeys.dram = s.dram := by simp [loadKeys]
@[simp] theorem rewriteHelper_dram (s : State) : s.rewriteHelper.dram = s.dram := by simp [rewriteHelper]
@[simp] theorem beginPorts_dram (s : State) : s.beginPorts.dram = s.dram := by simp [beginPorts]
@[simp] theorem beginConfig_dram (s : State) : s.beginConfig.dram = s.dram := by simp [beginConfig]
@[simp] theorem stageMain_dram (s : State) : s.stageMain.dram = s.dram := by simp [stageMain]
@[simp] theorem stageMicrocode_dram (s : State) : s.stageMicrocode.dram = s.dram := by simp [stageMicrocode]
@[simp] theorem failChannels_dram (s : State) (failed : List (Fin 48)) : (s.failChannels failed).dram = s.dram := by simp [failChannels]
@[simp] theorem calibrate_dram (s : State) (failed : List (Fin 48)) : (s.calibrate failed).dram = s.dram := by simp [calibrate]

@[simp] theorem stageCalibration_dram (s : State) (failed : List (Fin 48)) :
    (s.stageCalibration failed).dram = s.dram := by simp [stageCalibration]

@[simp] theorem endAcquisition_dram (s : State) : s.endAcquisition.dram = s.dram := by simp [endAcquisition]
@[simp] theorem acquisitionEnd_dram (s : State) : s.acquisitionEnd.dram = s.dram := by simp [acquisitionEnd]
@[simp] theorem acquisitionTimeout_dram (s : State) : s.acquisitionTimeout.dram = s.dram := by simp [acquisitionTimeout]
@[simp] theorem watchdog_dram (s : State) : s.watchdog.dram = s.dram := by simp [watchdog]
@[simp] theorem configSave_dram (s : State) : s.configSave.dram = s.dram := by simp [configSave]
@[simp] theorem trialEnd_dram (s : State) (type : Nat) : (s.trialEnd type).dram = s.dram := by simp [trialEnd]
@[simp] theorem resetAssert_dram (s : State) : s.resetAssert.dram = s.dram := by simp [resetAssert]
@[simp] theorem leaveActing_dram (s : State) : s.leaveActing.dram = s.dram := by simp [leaveActing]
@[simp] theorem restartNow_dram (s : State) : s.restartNow.dram = s.dram := by simp [restartNow]
@[simp] theorem recoverNow_dram (s : State) : s.recoverNow.dram = s.dram := by simp [recoverNow]
@[simp] theorem fwQuick_dram (s : State) (code : Nat) (data : List Byte) : (s.fwQuick code data).dram = s.dram := by simp [fwQuick]
@[simp] theorem fwStart_dram (s : State) (j : Job) : (s.fwStart j).dram = s.dram := by simp [fwStart]

@[simp] theorem switchBank_dram (s : State) (type : Nat) (running : Bool) :
    (s.switchBank type running).dram = s.dram := by simp [switchBank]

@[simp] theorem activateRecovery_dram (s : State) (type : Nat) : (s.activateRecovery type).dram = s.dram := by simp [activateRecovery]

@[simp] theorem fwActivate_dram (s : State) (type mode : Nat) : (s.fwActivate type mode).dram = s.dram := by
  rw [fwActivate]
  repeat' split
  all_goals simp

@[simp] theorem fwActivated_dram (s : State) (type : Nat) (restarts micro : Bool) :
    (s.fwActivated type restarts micro).dram = s.dram := by simp [fwActivated]

@[simp] theorem fwCommand_dram (s : State) (x opcode : Nat) : (s.fwCommand x opcode).dram = s.dram := by
  unfold fwCommand
  split <;> simp

@[simp] theorem fwPrepared_dram (s : State) (type sess : Nat) : (s.fwPrepared type sess).dram = s.dram := by simp [fwPrepared]

@[simp] theorem fwVerified_dram (s : State) (type : Nat) (valid : Bool) (code : Nat) (data : List Byte) :
    (s.fwVerified type valid code data).dram = s.dram := by simp [fwVerified]

@[simp] theorem fwAbandoned_dram (s : State) (type : Nat) : (s.fwAbandoned type).dram = s.dram := by simp [fwAbandoned]

@[simp] theorem fwWrite_dram (s : State) (type offset : Nat) (bytes : List Byte) : (s.fwWrite type offset bytes).dram = s.dram := by
  rw [fwWrite]
  repeat' split
  all_goals simp

@[simp] theorem quietCmd_dram (s : State) : s.quietCmd.dram = s.dram := by simp [quietCmd]
@[simp] theorem dropSync_dram (s : State) : s.dropSync.dram = s.dram := by simp [dropSync]
@[simp] theorem powerDown_dram (s : State) : s.powerDown.dram = s.dram := by simp [powerDown]
@[simp] theorem quietEntry_dram (s : State) : s.quietEntry.dram = s.dram := by simp [quietEntry]
@[simp] theorem wakeAt_dram (s : State) : s.wakeAt.dram = s.dram := by simp [wakeAt]
@[simp] theorem wakeKeys_dram (s : State) (attempts : List PufRead) : (s.wakeKeys attempts).dram = s.dram := by simp [wakeKeys]

@[simp] theorem wakeComplete_dram (s : State) (laneOk : List Bool) (attempts : List PufRead) (failed : List (Fin 48)) :
    (s.wakeComplete laneOk attempts failed).dram = s.dram := by simp [wakeComplete]

/-! ### Steps -/

@[simp] theorem afterStep_dram (s : State) (amount : Int) : (s.afterStep amount).dram = s.dram := by simp [afterStep]

@[simp] theorem stepApply_dram (s : State) : s.stepApply.dram = s.dram := by
  unfold stepApply
  split <;> simp

@[simp] theorem tiEdge_dram (s : State) (input : Nat) (rising : Bool) (tdc : Nat) :
    (s.tiEdge input rising tdc).dram = s.dram := by simp [tiEdge]

@[simp] theorem biStep_dram (s : State) (n : Nat) (mv : Int) : (s.biStep n mv).dram = s.dram := by
  rw [biStep]
  split
  · next u b e => simpa using fst_dram e (biSample_dram ..)
  · next u e => simpa using fst_dram e (biSample_dram ..)

@[simp] theorem takeFixed_dram (s : State) (codes : List Int) : (s.takeFixed codes).dram = s.dram := by simp [takeFixed]
@[simp] theorem endCycle_dram (s : State) : s.endCycle.dram = s.dram := by simp [endCycle]

@[simp] theorem enterRunning_dram (s : State) : s.enterRunning.dram = s.dram := by
  rw [enterRunning]
  split <;> simp

@[simp] theorem syncZero_dram (s : State) : s.syncZero.dram = s.dram := by
  unfold syncZero
  split <;> simp

@[simp] theorem afterRelease_dram (s : State) (r : Released) : (s.afterRelease r).dram = s.dram := by simp [afterRelease]

@[simp] theorem release_dram (s : State) : s.release.dram = s.dram := by
  rw [release]
  split
  · next u r e => rw [afterRelease_dram, fst_dram e (releaseNext_dram s)]
  · next u e => exact fst_dram e (releaseNext_dram s)

@[simp] theorem mergeEnd_dram (s : State) (k : Nat) : (s.mergeEnd k).dram = s.dram := by
  unfold mergeEnd
  split <;> simp

@[simp] theorem alarmDelivery_dram (s : State) : s.alarmDelivery.dram = s.dram := by
  unfold alarmDelivery
  split <;> simp

@[simp] theorem outputWrite_dram (s : State) : s.outputWrite.dram = s.dram := by simp [outputWrite]

/-! ### Almanac -/

@[simp] theorem setOwn_dram (s : State) (sess index sub : Nat) (v : Value) : (s.setOwn sess index sub v).dram = s.dram := by simp [setOwn]
@[simp] theorem clearSubs_dram (s : State) (index : Nat) (subs : List Nat) : (s.clearSubs index subs).dram = s.dram := by simp [clearSubs]
@[simp] theorem clearMore_dram (s : State) (index sub : Nat) : (s.clearMore index sub).dram = s.dram := by simp [clearMore]

@[simp] theorem clearCounters_dram (s : State) (index sub : Nat) : (s.clearCounters index sub).dram = s.dram := by
  unfold clearCounters
  split <;> simp

@[simp] theorem clearPerf_dram (s : State) (n : Nat) : (s.clearPerf n).dram = s.dram := by simp [clearPerf]
@[simp] theorem stepCmd_dram (s : State) (mode : Nat) : (s.stepCmd mode).dram = s.dram := by simp [stepCmd]
@[simp] theorem syncResetCmd_dram (s : State) : s.syncResetCmd.dram = s.dram := by simp [syncResetCmd]
@[simp] theorem commitStart_dram (s : State) : s.commitStart.dram = s.dram := by simp [commitStart]
@[simp] theorem stageDefaults_dram (s : State) (sess : Nat) : (s.stageDefaults sess).dram = s.dram := by simp [stageDefaults]
@[simp] theorem keyCmd_dram (s : State) (sess opcode : Nat) : (s.keyCmd sess opcode).dram = s.dram := by simp [keyCmd]

theorem writeTime_dram (s : State) (i b : Nat) (v : Value) : KeepsDram s (s.writeTime i b v) := by
  unfold writeTime
  repeat' refine KeepsDram.ite ?_ ?_
  · split <;> simp
  all_goals simp

theorem writePlant_dram (s : State) (x i b : Nat) (v : Value) : KeepsDram s (s.writePlant x i b v) := by
  unfold writePlant
  repeat' refine KeepsDram.ite ?_ ?_
  all_goals simp

theorem writeManagement_dram (s : State) (x i b : Nat) (v : Value) : KeepsDram s (s.writeManagement x i b v) := by
  unfold writeManagement
  split <;> simp

@[simp] theorem writeEffect_dram (s : State) (x i b : Nat) (v : Value) : (s.writeEffect x i b v).dram = s.dram := by
  unfold writeEffect
  split
  · exact writeTime_dram s i b v _ ‹_›
  · split
    · exact writePlant_dram s x i b v _ ‹_›
    · split
      · exact writeManagement_dram s x i b v _ ‹_›
      · simp

@[simp] theorem writeReply_dram (s : State) (x : Session) (command : Bool) (i b ty : Nat) (v : List Byte) :
    (s.writeReply x command i b ty v).1.dram = s.dram := by
  unfold writeReply
  split <;> simp

@[simp] theorem putStaged_dram (s : State) (sess index sub first : Nat) (vs : List Value) :
    (s.putStaged sess index sub first vs).dram = s.dram := by simp [putStaged]

@[simp] theorem stageReply_dram (s : State) (x : Session) (index sub typeCode : Nat) (bytes : List Byte) :
    (s.stageReply x index sub typeCode bytes).1.dram = s.dram := by
  unfold stageReply
  split <;> simp

@[simp] theorem commitReply_dram (s : State) (x : Session) : (s.commitReply x).1.dram = s.dram := by
  unfold commitReply
  split <;> simp

@[simp] theorem discardReply_dram (s : State) (x : Session) : (s.discardReply x).1.dram = s.dram := by
  unfold discardReply
  split <;> simp

@[simp] theorem blockWriteReply_dram (s : State) (x : Session) (index sub first count : Nat) (bytes : List Byte) (staged : Bool) :
    (s.blockWriteReply x index sub first count bytes staged).1.dram = s.dram := by
  rw [blockWriteReply]
  repeat' split
  all_goals simp

@[simp] theorem subscribeReply_dram (s : State) (x : Session) (index sub mode minInterval period : Nat) (staged : Bool) :
    (s.subscribeReply x index sub mode minInterval period staged).1.dram = s.dram := by
  rw [subscribeReply]
  repeat' split
  all_goals simp

@[simp] theorem subscriptionPeriod_dram (s : State) (id : Nat) : (s.subscriptionPeriod id).dram = s.dram := by
  unfold subscriptionPeriod
  split <;> simp

@[simp] theorem intervalExpiry_dram (s : State) (id : Nat) : (s.intervalExpiry id).dram = s.dram := by
  unfold intervalExpiry
  split <;> simp

@[simp] theorem idleTimeout_dram (s : State) (id : Nat) : (s.idleTimeout id).dram = s.dram := by
  unfold idleTimeout
  split <;> simp

@[simp] theorem openAccepted_dram (s : State) (t : Transport) (role maxPayload : Nat) (qh nh roleKey : List Byte) :
    (s.openAccepted t role maxPayload qh nh roleKey).1.dram = s.dram := by
  rw [openAccepted]
  split <;> simp

@[simp] theorem openReply_dram (s : State) (t : Transport) (header : List Byte) (role maxPayload : Nat) (qh nh mac : List Byte) :
    (s.openReply t header role maxPayload qh nh mac).1.dram = s.dram := by
  rw [openReply]
  repeat' split
  all_goals simp

@[simp] theorem openSession_dram (s : State) (t : Transport) (header : List Byte) (role maxPayload : Nat) (qh nh mac : List Byte) :
    (s.openSession t header role maxPayload qh nh mac).dram = s.dram := by
  rw [openSession]
  repeat' split
  · rfl
  · next u _ e => rw [sendPdu_dram, fst_dram e (openReply_dram ..)]
  · next u e => exact fst_dram e (openReply_dram ..)

@[simp] theorem commandComplete_dram (s : State) (result : Nat) : (s.commandComplete result).dram = s.dram := by
  rw [commandComplete]
  repeat' split
  all_goals simp

/-! ### Requests -/

@[simp] theorem perform_dram (s : State) (x : Session) (a : Ask) : (s.perform x a).1.dram = s.dram := by
  cases a <;> simp [perform]

@[simp] theorem discardPdu_dram (s : State) : s.discardPdu.dram = s.dram := by simp [discardPdu]
@[simp] theorem answerTo_dram (s : State) (x : Session) (a : Ask) : (s.answerTo x a).1.dram = s.dram := by simp [answerTo]

@[simp] theorem serve_dram (s : State) (x : Session) (t : Transport) (seq : Nat) (a : Ask) :
    (s.serve x t seq a).dram = s.dram := by simp [serve]

@[simp] theorem request_dram (s : State) (r : Req) (a : Ask) : (s.request r a).dram = s.dram := by
  rw [request]
  repeat' split
  all_goals simp

@[simp] theorem plainRead_dram (s : State) (t : Transport) (seq index sub : Nat) (staged : Bool) :
    (s.plainRead t seq index sub staged).dram = s.dram := by simp [plainRead]

@[simp] theorem readRequest_dram (s : State) (r : Req) (index sub : Nat) (staged : Bool) :
    (s.readRequest r index sub staged).dram = s.dram := by simp [readRequest]

@[simp] theorem takePlain_dram (s : State) (t : Transport) (header : List Byte) (opcode seq : Nat) (staged : Bool) (p : List Byte) :
    (s.takePlain t header opcode seq staged p).dram = s.dram := by simp [takePlain]

@[simp] theorem takePdu_dram (s : State) (t : Transport) (b : List Byte) : (s.takePdu t b).dram = s.dram := by
  rw [takePdu]
  repeat' split
  all_goals simp

@[simp] theorem hspiTransfer_dram (s : State) (f : State → State) (h : (f s).dram = s.dram) : (s.hspiTransfer f).dram = s.dram := by
  unfold hspiTransfer
  split <;> simp [h]

@[simp] theorem hspiRearm_dram (s : State) : s.hspiRearm.dram = s.dram := by
  unfold hspiRearm
  split <;> simp

@[simp] theorem readStatus_dram (s : State) : s.readStatus.dram = s.dram := by simp [readStatus]
@[simp] theorem writePdu_dram (s : State) (b : List Byte) : (s.writePdu b).dram = s.dram := by simp [writePdu]

@[simp] theorem readPdu_dram (s : State) (clocked : Nat) : (s.readPdu clocked).dram = s.dram := by
  unfold readPdu
  split <;> simp

@[simp] theorem slowFrame_dram (p : Fin 6) (s : State) (f : SlowFrame) : (slowFrame p s f).dram = s.dram := by
  rw [slowFrame]
  split <;> simp

@[simp] theorem serveRing_dram (s : State) (p : Fin 6) : (s.serveRing p).dram = s.dram := by simp [serveRing]

@[simp] theorem frameReceive_dram (s : State) (p : Fin 6) (frame : List Byte) (fcsOk : Bool) (tdc : Nat) :
    (s.frameReceive p frame fcsOk tdc).dram = s.dram := by
  rw [frameReceive]
  split <;> simp

/-! ### Tick -/

@[simp] theorem laneMicrosecond_dram (s : State) (n : Nat) : (s.laneMicrosecond n).dram = s.dram := by simp [laneMicrosecond]
@[simp] theorem laneTick_dram (s : State) : s.laneTick.dram = s.dram := by simp [laneTick]
@[simp] theorem hubTick_dram (s : State) (before : Et) : (s.hubTick before).dram = s.dram := by simp [hubTick]
@[simp] theorem hubCounts_dram (s : State) : s.hubCounts.dram = s.dram := by simp [hubCounts]
@[simp] theorem tick_dram (s : State) : s.tick.dram = s.dram := by simp [tick]

/-! ## The functions that write DRAM -/

theorem setStatus_wf (s : State) (a st : Nat) (h : Memory.wf s.dram) : Memory.wf (s.setStatus a st).dram :=
  Memory.wf_writeBytes _ _ _ h

theorem submit_wf (s : State) (a : Nat) (h : Memory.wf s.dram) : Memory.wf (s.submit a).dram := by
  unfold submit
  split
  · exact h
  · rw [setQueue_dram]
    exact setStatus_wf _ _ _ h

theorem resume_wf (s : State) (a : Nat) (h : Memory.wf s.dram) : Memory.wf (s.resume a).dram :=
  submit_wf _ _ (Memory.wf_writeBytes _ _ _ h)

theorem endJob_wf (s : State) (a : Nat) (d : JobDescriptor) (old : Option Suspended) (e : JobEnd) (h : Memory.wf e.place.mem) :
    Memory.wf (s.endJob a d old e).dram := by
  have h2 := Memory.wf_writeBytes (beBytes 4 e.consumed) _ (a + 32) (Memory.wf_writeBytes [byte e.status] _ (a + 2) h)
  have h3 : Memory.wf (if d.op = 1 then Memory.writeBytes (Memory.writeBytes (Memory.writeBytes e.place.mem (a + 2) [byte e.status])
      (a + 32) (beBytes 4 e.consumed)) (a + 38) (beBytes 2 e.mapUsed)
      else Memory.writeBytes (Memory.writeBytes e.place.mem (a + 2) [byte e.status]) (a + 32) (beBytes 4 e.consumed)) := by
    split
    · exact Memory.wf_writeBytes _ _ _ h2
    · exact h2
  have h4 := Memory.wf_writeBytes (beBytes 8 e.produced) _ (a + 40) h3
  unfold endJob
  dsimp only
  split
  · refine setStatus_wf _ _ _ ?_
    rw [setQueue_dram, countJob_dram]
    exact h4
  · rw [setQueue_dram, countJob_dram]
    exact h4

/-- An output chain writes DRAM by its bytes alone (R429). -/
theorem writeChain_wf (fuel : Nat) (p : OutPlace) (l : List Byte) (h : Memory.wf p.mem) : Memory.wf (writeChain fuel p l).1.mem := by
  induction fuel generalizing p l with
  | zero => exact h
  | succ fuel ih =>
    have now := Memory.wf_writeBytes (l.take (dramNat p.mem (p.buffer + 8) 4 - p.used)) _ (dramNat p.mem p.buffer 8 + p.used) h
    have marked := fun (m : Memory) (hm : Memory.wf m) a b => Memory.wf_writeBytes b m a hm
    unfold writeChain
    dsimp only
    split
    · exact h
    · split
      · exact h
      · split
        · exact now
        · split
          · exact marked _ now _ _
          · exact ih _ _ (marked _ now _ _)

theorem mark_wf (p : OutPlace) (h : Memory.wf p.mem) : Memory.wf p.mark.mem := Memory.wf_writeBytes _ _ _ h

theorem startPlace_mem (m : Memory) (d : JobDescriptor) (old : Option Suspended) : (startPlace m d old).mem = m := by
  unfold startPlace
  dsimp only
  repeat' split
  all_goals rfl

theorem writeMap_wf (m : Memory) (addr : Nat) (runs : List (List Byte × Bool)) (first upTo : Nat) (h : Memory.wf m) :
    Memory.wf (writeMap m addr runs first upTo).1 := by
  unfold writeMap
  refine List.foldlRecOn (motive := fun a : Memory × Nat × Nat => Memory.wf a.1 = true) _ _ h (fun a ha x _ => ?_)
  dsimp only
  split
  · dsimp only
    split
    · exact Memory.wf_writeBytes _ _ _ ha
    · exact ha
  · exact ha

/-- At a job's stop USED of its present buffer is written, when that is in range. -/
theorem closedPlace_wf (p : OutPlace) (h : Memory.wf p.mem) :
    Memory.wf (if p.bad then p else if bufferOk p.mem p.buffer then p.mark else p).mem := by
  split
  · exact h
  · split
    · exact mark_wf p h
    · exact h

theorem jobOutput_wf (n : Nat) (m : Memory) (d : JobDescriptor) (old : Option Suspended) (l : List Byte) (h : Memory.wf m) :
    Memory.wf (writeChain n (startPlace m d old) l).1.mem := writeChain_wf _ _ _ (by rwa [startPlace_mem])

theorem runCompress_wf (m : Memory) (d : JobDescriptor) (old : Option Suspended) (bad : Option Nat) (h : Memory.wf m) :
    Memory.wf (runCompress m d old bad).place.mem :=
  writeMap_wf _ _ _ _ _ (closedPlace_wf _ (jobOutput_wf _ _ _ _ _ h))

theorem runDecompress_wf (m : Memory) (d : JobDescriptor) (old : Option Suspended) (bad : Option Nat) (h : Memory.wf m) :
    Memory.wf (runDecompress m d old bad).place.mem := by
  unfold runDecompress
  extract_lets fresh cut before done input r w produced final place consumed
  have hp : Memory.wf place.mem := closedPlace_wf _ (jobOutput_wf _ _ _ _ _ h)
  clear_value place
  repeat' split
  all_goals exact hp

theorem stopJob_wf (s : State) (bad : Option (Fin 2 × Nat)) (h : Memory.wf s.dram) : Memory.wf (s.stopJob bad).dram := by
  unfold stopJob
  split
  · exact h
  · have counted : ∀ u : State, u.dram = s.dram → ∀ a d old off,
        Memory.wf (if (!d.ok) = true ∨ d.flags.testBit 1 = true ∧ old.isNone = true
          then u.endJob a d none ⟨8, 0, 0, ⟨u.dram, 0, 0, true⟩, [], 0, 0⟩
          else u.endJob a d old (if d.op = 1 then runCompress u.dram d old off else runDecompress u.dram d old off)).dram := by
      intro u hu a d old off
      have hw : Memory.wf u.dram := by rw [hu]; exact h
      split
      · exact endJob_wf _ _ _ _ _ hw
      · refine endJob_wf _ _ _ _ _ ?_
        split
        · exact runCompress_wf _ _ _ _ hw
        · exact runDecompress_wf _ _ _ _ hw
    refine counted _ ?_ _ _ _ _
    split <;> simp

theorem resetRelease_wf (s : State) (unitId witMode recoverLow aonLost powerOn : Bool) (h : Memory.wf s.dram) :
    Memory.wf (s.resetRelease unitId witMode recoverLow aonLost powerOn).dram := by
  unfold resetRelease
  split
  · exact h
  · rw [startUp_dram]
    cases powerOn
    · simpa using h
    · rfl

end Sys2Proof.Machine.State

namespace Sys2Proof.Machine
/-- A command that completes keeps DRAM's canonical form when its effect does. -/
theorem settled_wf {s u t : State} (hu : Memory.wf u.dram) (e : (.next (s.settle u) : Host.Outcome State Fault Refusal) = .next t) :
    Memory.wf t.dram := by
  cases e
  rwa [State.settle_dram]
theorem settled_same {s u t : State} (hu : u.dram = s.dram) (h : Memory.wf s.dram)
    (e : (.next (s.settle u) : Host.Outcome State Fault Refusal) = .next t) : Memory.wf t.dram :=
  settled_wf (by rwa [hu]) e

/-- A command on a job's descriptor, which faults where no DRAM is (R38). -/
theorem descriptor_wf {s u t : State} {a : Nat} (hu : Memory.wf u.dram)
    (e : (if descriptorInDram a then .next (s.settle u) else .fault .noSuchDramAddress : Host.Outcome State Fault Refusal) = .next t) :
    Memory.wf t.dram := by
  split at e
  · exact settled_wf hu e
  · cases e

theorem bayReportRow_dram (s : State) (bay : Nat) :
    (match s.bayReport bay with
      | (t, some r) => t.localFrame bay r
      | (t, none) => t).dram = s.dram := by
  split
  all_goals next e => simpa using State.fst_dram e (State.bayReport_dram ..)

open State in
/-- Every command keeps DRAM's canonical form: its effect leaves DRAM alone, or writes bytes of it. -/
theorem exec_wf (c : Instr) (s t : State) (h : Memory.wf s.dram) (e : exec c s = .next t) : Memory.wf t.dram := by
  cases c with
  | registerWrite r index sub value =>
      exact settled_same (request_dram s r
        (.write false index sub (((objAt index sub).map (fun (f : Field) => f.ty.code)).getD 0) value)) h e
  | read r index sub staged => exact settled_same (readRequest_dram s r index sub staged) h e
  | write r index sub typeCode value => exact settled_same (request_dram s r (.write false index sub typeCode value)) h e
  | stage r index sub typeCode value => exact settled_same (request_dram s r (.stage index sub typeCode value)) h e
  | commit r => exact settled_same (request_dram s r .commit) h e
  | commitValidationEnd => exact settled_same (commitValidated_dram s) h e
  | commitActivate => exact settled_same (commitActivate_dram s) h e
  | discard r => exact settled_same (request_dram s r .discard) h e
  | blockRead r index sub first count staged => exact settled_same (request_dram s r (.blockRead index sub first count staged)) h e
  | blockWrite r index sub first count elements staged =>
      exact settled_same (request_dram s r (.blockWrite index sub first count elements staged)) h e
  | subscribe r index sub mode minInterval period =>
      exact settled_same (request_dram s r (.subscribe index sub mode minInterval period false)) h e
  | command r index sub typeCode value => exact settled_same (request_dram s r (.write true index sub typeCode value)) h e
  | openSession t role maxPayload qh nh mac =>
      exact settled_same (openSession_dram s t (State.openHeader 0 180) role maxPayload qh nh mac) h e
  | close r => exact settled_same (request_dram s r .close) h e
  | opcodeUnknown r opcode => exact settled_same (request_dram s r (.unknown opcode)) h e
  | sessionIdleTimeout session => exact settled_same (idleTimeout_dram s session) h e
  | subscriptionPeriod subscription => exact settled_same (subscriptionPeriod_dram s subscription) h e
  | onChangeIntervalExpiry subscription => exact settled_same (intervalExpiry_dram s subscription) h e
  | resultAck r result => exact settled_same (request_dram s r (.own result 0x05 1)) h e
  | commandComplete result => exact settled_same (commandComplete_dram s result) h e
  | restartCmd r => exact settled_same (request_dram s r (.own 0x1F00 0x01 1)) h e
  | stageDefaultsCmd r => exact settled_same (request_dram s r (.own 0x1F02 0x01 1)) h e
  | readStatus => exact settled_same (hspiTransfer_dram s readStatus (readStatus_dram s)) h e
  | writePdu pdu => exact settled_same (hspiTransfer_dram s (fun s => s.writePdu pdu) (writePdu_dram s pdu)) h e
  | readPdu clocked => exact settled_same (hspiTransfer_dram s (fun s => s.readPdu clocked) (readPdu_dram s clocked)) h e
  | hspiIntRearm => exact settled_same (hspiRearm_dram s) h e
  | zonovMessageReceive link cls drained latency failedChecks =>
      exact settled_same (zonovMessage_dram s link.val cls drained latency failedChecks) h e
  | zonovLinkDown link => exact settled_same (linkDownRow_dram s link.val) h e
  | paceWindow completions => exact settled_same (paceWindow_dram s completions) h e
  | avsLoopPeriod replies => exact settled_same (avsLoop_dram s replies) h e
  | avsAtLimit rail => exact settled_same (avsAtLimit_dram s rail.val) h e
  | lanePaceReport lane => exact settled_same (paceReport_dram s lane.val) h e
  | spillLeaseExpiry lane => exact settled_same (leaseExpiry_dram s lane.val) h e
  | laneReloadComplete lane ok => exact settled_same (reloadComplete_dram s lane.val ok) h e
  | reloadCmd r lane => exact settled_same (request_dram s r (.own 0xF134 0x03 lane)) h e
  | quietCmd r => exact settled_same (request_dram s r (.own 0xF140 0x02 1)) h e
  | quietEntryComplete => exact settled_same (quietEntry_dram s) h e
  | wakeAtExpiry => exact settled_same (wakeAt_dram s) h e
  | dramScrubPass corrected uncorrected => exact settled_same (scrubPass_dram s corrected uncorrected) h e
  | incrementWrite r increment => exact settled_same (request_dram s r (.own 0x2000 0x03 increment)) h e
  | incrementApply => exact settled_same (applyIncrement_dram s) h e
  | stepNow r => exact settled_same (request_dram s r (.own 0x2000 0x08 1)) h e
  | stepNextSecond r => exact settled_same (request_dram s r (.own 0x2000 0x08 2)) h e
  | stepApply => exact settled_same (stepApply_dram s) h e
  | offsetReport r offset => exact settled_same (request_dram s r (.own 0x2000 0x0C offset)) h e
  | refPresentWrite r present => exact settled_same (request_dram s r (.own 0x2000 0x0D present)) h e
  | refTimeout => exact settled_same (u := if s.refTimeoutDue then s.loseReference else s) (by simp) h e
  | holdoverLimitExpiry => exact settled_same (u := if s.holdoverDue then s.setQuality 0 else s) (by simp) h e
  | servoMeasurement ref offset => exact settled_same (servo_dram s ref offset) h e
  | leapSecond => exact settled_same (leap_dram s) h e
  | ptpMessageReceive port msg tdc => exact settled_same (ptpReceive_dram s port.val msg tdc) h e
  | ptpAnnounceTimeout port => exact settled_same (announceTimeout_dram s port.val) h e
  | ptpMessageTransmit port msgType seqId tdc => exact settled_same (ptpTransmit_dram s port.val msgType seqId tdc) h e
  | tcForwardSync ingress egress msg rx tdc => exact settled_same (tcSync_dram s ingress.val egress.val msg rx.ago rx.tdc tdc) h e
  | tcForwardFollowUp ingress egress msg => exact settled_same (tcFollowUp_dram s ingress.val egress.val msg) h e
  | tcResidenceExpiry egress => exact settled_same (tcExpire_dram s egress.val) h e
  | txtsClear r port => exact settled_same (request_dram s r (.own (0x2110 + port.val) 0x09 1)) h e
  | armAtWrite r out at_ => exact settled_same (request_dram s r (.own (0x2200 + out.val) 0x07 at_)) h e
  | toOneShotEdge out => exact settled_same (oneShotEdge_dram s out.val) h e
  | toPeriodicEdge out => exact settled_same (periodicOutEdge_dram s out.val) h e
  | toPulseEnd out => exact settled_same (outPulseEnd_dram s out.val) h e
  | tiEdge input rising tdc => exact settled_same (tiEdge_dram s input.val rising tdc) h e
  | irigFrame pulses => exact settled_same (irig_dram s pulses.item pulses.tdc) h e
  | irigReferenceTimeout => exact settled_same (irigTimeout_dram s) h e
  | ppsEdge tdc highTimeNs => exact settled_same (pps_dram s tdc highTimeNs) h e
  | ppsReferenceTimeout => exact settled_same (ppsTimeout_dram s) h e
  | fixedRateSample codes => exact settled_same (takeFixed_dram s codes) h e
  | trackedSample => exact settled_same (trackedSample_dram s) h e
  | trackedCycleBoundary => exact settled_same (endCycle_dram s) h e
  | syncResetCmd r => exact settled_same (request_dram s r (.own 0x3200 0x07 1)) h e
  | syncResetSampleZero => exact settled_same (syncZero_dram s) h e
  | bayReport bay => exact settled_same (bayReportRow_dram s bay.val) h e
  | openWireSample ch outside => exact settled_same (openSample_dram s ch.val outside) h e
  | shortEvaluation ch => exact settled_same (shortEvaluation_dram s ch.val) h e
  | supClear r index => exact settled_same (request_dram s r (.own index (State.supClearSub index) 1)) h e
  | counterClear r index sub value => exact settled_same (request_dram s r (.own index sub value)) h e
  | frameReceive port frame fcsOk tdc => exact settled_same (frameReceive_dram s port frame fcsOk tdc) h e
  | prpEntryForget pair source => exact settled_same (prpForget_dram s pair.val source) h e
  | prpSupervisionTransmit pair => exact settled_same (prpSupervise_dram s pair.val) h e
  | pauseRepeat port => exact settled_same (pauseRepeat_dram s port.val) h e
  | pauseFrameReceive port quanta => exact settled_same (pauseReceive_dram s port.val quanta) h e
  | pauseExpiry port => exact settled_same (pauseEnd_dram s port.val) h e
  | pauseLimit port => exact settled_same (pauseLimit_dram s port.val) h e
  | pauseLimitEnd port => exact settled_same (pauseLimitEnd_dram s port.val) h e
  | portLinkChange port up speed => exact settled_same (linkChange_dram s port.val up speed) h e
  | txDescriptorPost port cls frame => exact settled_same (txPost_dram s port.val cls.val frame) h e
  | ingestQueueWrite port => exact settled_same (ingestWrite_dram s port.val) h e
  | cfgFrameReceive stream cfg => exact settled_same (cfgReceive_dram s stream cfg) h e
  | tcpConnectAttempt stream connected => exact settled_same (tcpConnect_dram s stream connected) h e
  | tcpRetryExpiry stream => exact settled_same (tcpRetry_dram s stream) h e
  | tcpCfgWaitTimeout stream => exact settled_same (tcpCfgTimeout_dram s stream) h e
  | tcpStreamFrame stream segment =>
      exact settled_same (u := (s.tcpFrame stream segment.port.val segment.tdc segment.frame).recheck) (by simp) h e
  | streamSilentTimeout stream => exact settled_same (u := (s.silent stream).recheck) (by simp) h e
  | frameMatch lane => exact settled_same (frameMatch_dram s lane.val) h e
  | lateClear r stream => exact settled_same (request_dram s r (.own 0x5000 0x1B stream)) h e
  | wMinStrobe k => exact settled_same (wMinStrobe_dram s k) h e
  | partialReceive lane => exact settled_same (partialReceive_dram s lane.val) h e
  | noticeReceive lane => exact settled_same (noticeReceive_dram s lane.val) h e
  | deadlineNotice k => exact settled_same (deadlineNotice_dram s k) h e
  | mergeClose k => exact settled_same (mergeEnd_dram s k) h e
  | transitRelease => exact settled_same (release_dram s) h e
  | transitRateChanged => exact settled_same (rateChanged_dram s) h e
  | taskDispatch lane => exact settled_same (taskDispatch_dram s lane.val) h e
  | interAreaUpdate lane => exact settled_same (interAreaUpdate_dram s lane.val) h e
  | localBlockReceive lane => exact settled_same (localBlockReceive_dram s lane.val) h e
  | bandContribution lane => exact settled_same (bandContribution_dram s lane.val) h e
  | bandMergeClose => exact settled_same (bandMergeClose_dram s) h e
  | shapeAnswer => exact settled_same (shapeAnswer_dram s) h e
  | spectroResetCmd r target => exact settled_same (request_dram s r (.own 0x6000 0x0D target)) h e
  | horizonEvaluation => exact settled_same (horizonEvaluation_dram s) h e
  | lomHalfCycle bay => exact settled_same (lomHalfCycle_dram s bay.val) h e
  | lomHoldExpiry bay => exact settled_same (lomHoldExpiry_dram s bay.val) h e
  | alarmDelivery => exact settled_same (alarmDelivery_dram s) h e
  | minOnExpiry alarm => exact settled_same (minOnExpiry_dram s alarm.val) h e
  | alarmAck r alarm => exact settled_same (request_dram s r (.own 0x6200 0x04 alarm)) h e
  | almPulseEnd pin => exact settled_same (almPulseEnd_dram s pin.val) h e
  | almForce r pin force => exact settled_same (request_dram s r (.own (0x6201 + pin.val) 0x04 force)) h e
  | egressTcpConnect out port => exact settled_same (egressConnect_dram s out.val port.val) h e
  | cmdDataOff out => exact settled_same (egressData_dram s out.val false) h e
  | cmdDataOn out => exact settled_same (egressData_dram s out.val true) h e
  | cmdSendHeader out => exact settled_same (egressAnswer_dram s out.val (s.headerFrame out.val)) h e
  | cmdSendCfg1 out => exact settled_same (egressAnswer_dram s out.val (s.cfg2Frame out.val 0xAA22)) h e
  | cmdSendCfg2 out => exact settled_same (egressAnswer_dram s out.val (s.cfg2Frame out.val 0xAA32)) h e
  | cmdSendCfg3 out => exact settled_same (u := (s.cfg3Frames out.val).foldl (fun t f => t.egressAnswer out.val f) s) (by simp) h e
  | badCommand out cmd => exact settled_same (badCommand_dram s out.val cmd) h e
  | gooseStateChange pub => exact settled_same (gooseStateChange_dram s pub.val) h e
  | gooseRetransmit pub => exact settled_same (gooseRetransmit_dram s pub.val) h e
  | gooseFrameReceive port msg => exact settled_same (gooseReceive_dram s port.val msg.item msg.tdc) h e
  | gooseTalExpired sub => exact settled_same (gooseExpire_dram s sub.val) h e
  | orrerySnapshot => exact settled_same (orrerySnapshot_dram s) h e
  | orreryEvaluationEnd => exact settled_same (orreryEvaluated_dram s) h e
  | orreryOutputWrite => exact settled_same (outputWrite_dram s) h e
  | orreryStart => exact settled_same (orreryStart_dram s) h e
  | reenableCmd r => exact settled_same (request_dram s r (.own 0x7000 0x12 1)) h e
  | boShortDetect out => exact settled_same (boShort_dram s out.val) h e
  | boShortRetry out => exact settled_same (boRetry_dram s out.val) h e
  | boLoadSense out load => exact settled_same (boSense_dram s out.val load) h e
  | biSample input millivolts => exact settled_same (biStep_dram s input.val millivolts) h e
  | countSet r counter count => exact settled_same (request_dram s r (.own (0x8100 + counter.val) 0x09 count)) h e
  | pmCycleEnd bay vn => exact settled_same (pmCycleEnd_dram s bay.val vn) h e
  | pmSave => exact settled_same (u := if s.pmSaveDue then s.pmSave else s) (by simp) h e
  | pmResetCmd r bay => exact settled_same (request_dram s r (.own 0x8010 0x09 bay)) h e
  | pmSnapshotCmd r => exact settled_same (request_dram s r (.own 0x8010 0x02 1)) h e
  | pmSnapshotComplete => exact settled_same (pmSnapshotComplete_dram s) h e
  | demandBoundary bay => exact settled_same (demandBoundary_dram s bay.val) h e
  | plateComplete => exact settled_same (plateComplete_dram s) h e
  | rearmExpiry => exact settled_same (rearm_dram s) h e
  | autoTrigger => exact settled_same (autoFire_dram s) h e
  | stationTriggerEdge tdc => exact settled_same (stationEdge_dram s tdc) h e
  | xtrigRelease => exact settled_same (releaseStation_dram s) h e
  | triggerCmd r trigger => exact settled_same (request_dram s r (.own 0x9000 0x15 trigger)) h e
  | resumeCmd r => exact settled_same (request_dram s r (.own 0x9000 0x16 1)) h e
  | releaseCmd r plate => exact settled_same (request_dram s r (.own 0x9000 0x17 plate)) h e
  | exportCmd r plate => exact settled_same (request_dram s r (.own 0x9012 0x01 plate)) h e
  | exportSeek r block => exact settled_same (request_dram s r (.own 0x9012 0x05 block)) h e
  | exportChunkReady session => exact settled_same (chunkReady_dram s session) h e
  | flashMirrorWrite cut => exact settled_same (flashMirrorWrite_dram s cut) h e
  | logSelect r sequence => exact settled_same (request_dram s r (.own 0xA002 0x02 sequence)) h e
  | logBlockReady session => exact settled_same (logBlockReady_dram s session) h e
  | logClear r => exact settled_same (request_dram s r (.own 0xA000 0x0D 1)) h e
  | flashClear r => exact settled_same (request_dram s r (.own 0xA000 0x0E 1)) h e
  | compress descriptor => exact descriptor_wf (submit_wf s descriptor h) e
  | decompress descriptor => exact descriptor_wf (submit_wf s descriptor h) e
  | compressJobStop badRead => exact settled_wf (stopJob_wf s badRead h) e
  | compressJobResume descriptor => exact descriptor_wf (resume_wf s descriptor h) e
  | selftestCmd r => exact settled_same (request_dram s r (.own 0x9800 0x0A 1)) h e
  | generate r => exact settled_same (request_dram s r (.own 0xB101 0x01 1)) h e
  | deriveSlot r => exact settled_same (request_dram s r (.own 0xB101 0x01 2)) h e
  | importKey r => exact settled_same (request_dram s r (.own 0xB101 0x01 3)) h e
  | destroy r => exact settled_same (request_dram s r (.own 0xB101 0x01 4)) h e
  | sign r => exact settled_same (request_dram s r (.own 0xB101 0x01 5)) h e
  | verify r => exact settled_same (request_dram s r (.own 0xB101 0x01 6)) h e
  | encrypt r => exact settled_same (request_dram s r (.own 0xB101 0x01 7)) h e
  | decrypt r => exact settled_same (request_dram s r (.own 0xB101 0x01 8)) h e
  | mac r => exact settled_same (request_dram s r (.own 0xB101 0x01 9)) h e
  | derive r => exact settled_same (request_dram s r (.own 0xB101 0x01 10)) h e
  | wrap r => exact settled_same (request_dram s r (.own 0xB101 0x01 11)) h e
  | attest r => exact settled_same (request_dram s r (.own 0xB101 0x01 12)) h e
  | tamperLoopSample millivolts => exact settled_same (tamperLoops_dram s millivolts) h e
  | tamperLatch source => exact settled_same (tamperSource_dram s source.val) h e
  | tamperClearCmd r => exact settled_same (request_dram s r (.own 0xB100 0x0F 1)) h e
  | pairClaim => exact settled_same (claimNow_dram s) h e
  | actingStart => exact settled_same (actingStart_dram s) h e
  | peerClaimChange held => exact settled_same (peerClaim_dram s held) h e
  | deposeAssert => exact settled_same (deposeAssert_dram s) h e
  | deposeRestart => exact settled_same (deposeRestart_dram s) h e
  | pairLinkChanged hello => exact settled_same (pairLinkChange_dram s hello) h e
  | outputImageReceive image => exact settled_same (receiveImage_dram s image) h e
  | blockStateReceive cycle blocks => exact settled_same (receiveBlocks_dram s cycle blocks) h e
  | tieStateReceive k ties => exact settled_same (receiveTies_dram s k ties) h e
  | pmRegisterMirror registers lastCycles =>
      exact settled_same (u := if s.takesMirror then s.takePmMirror registers lastCycles else s) (by simp) h e
  | bandSummaryMirror k summaries => exact settled_same (receiveBands_dram s k summaries) h e
  | gooseCountMirror pub stNum sqNum => exact settled_same (receiveGooseCount_dram s pub.val stNum sqNum) h e
  | pairHoldExpiry => exact settled_same (holdExpiry_dram s) h e
  | poll frame => exact settled_same (poll_dram s frame) h e
  | witnessPollPeriod => exact settled_same (pollPeriod_dram s) h e
  | status frame => exact settled_same (status_dram s frame) h e
  | statusTimeout unit => exact settled_same (statusTimeout_dram s unit.val) h e
  | witnessDepose unit => exact settled_same (witnessDepose_dram s unit.val) h e
  | permitLapse => exact settled_same (permitLapse_dram s) h e
  | witnessLost => exact settled_same (witnessLost_dram s) h e
  | handoverCmd r => exact settled_same (request_dram s r (.own 0xC000 0x15 1)) h e
  | resetNRelease unitId witMode recoverLow aonLost powerOn =>
      exact settled_wf (resetRelease_wf s unitId witMode recoverLow aonLost powerOn h) e
  | stagePuf attempts => exact settled_same (stagePuf_dram s attempts) h e
  | stageRom => exact settled_same (stageRom_dram s) h e
  | stageStage2 => exact settled_same (stageStage2_dram s) h e
  | stageMain => exact settled_same (stageMain_dram s) h e
  | stageMicrocode => exact settled_same (stageMicrocode_dram s) h e
  | stageCalibration failed => exact settled_same (stageCalibration_dram s failed) h e
  | acquisitionEnd => exact settled_same (acquisitionEnd_dram s) h e
  | acquisitionTimeout => exact settled_same (acquisitionTimeout_dram s) h e
  | watchdogExpiry => exact settled_same (watchdog_dram s) h e
  | configSave => exact settled_same (configSave_dram s) h e
  | trialEnd image => exact settled_same (trialEnd_dram s image.val) h e
  | prepare r => exact settled_same (request_dram s r (.own 0xD020 0x01 1)) h e
  | download r image first bytes =>
      exact settled_same (request_dram s r (.blockWrite (0xD010 + image.val) 0x06 first bytes.length bytes false)) h e
  | fwVerify r => exact settled_same (request_dram s r (.own 0xD020 0x01 2)) h e
  | activate r => exact settled_same (request_dram s r (.own 0xD020 0x01 3)) h e
  | abandon r => exact settled_same (request_dram s r (.own 0xD020 0x01 4)) h e
  | enterRecovery r => exact settled_same (request_dram s r (.own 0xD020 0x01 5)) h e
  | eventAck r source => exact settled_same (request_dram s r (.own 0xA800 0x03 source)) h e
  | irqRearm pin => exact settled_same (irqRearm_dram s pin.val) h e
  | counterSnapshotCmd r => exact settled_same (request_dram s r (.own 0xE050 0x01 1)) h e
  | snapPeriodExpiry => exact settled_same (snapPeriod_dram s) h e
  | monitorSample temperatures rails => exact settled_same (monitorSample_dram s temperatures rails) h e
  | resetNAssert => exact settled_same (resetAssert_dram s) h e
  | wakeComplete laneOk found => exact settled_same (wakeComplete_dram s laneOk found.attempts found.failed) h e
  | boShortRetryHold out => exact settled_same (boHold_dram s out.val) h e
  | deposeRelease => exact settled_same (deposeRelease_dram s) h e

/-- Settles O51: every command keeps the form (`exec_wf`), and a tick writes no DRAM. -/
theorem everyStepKeepsDramCanonical : Obligations.EveryStepKeepsDramCanonical := by
  unfold Obligations.EveryStepKeepsDramCanonical
  intro s t h e
  unfold step at e
  split at e
  · exact settled_same (State.tick_dram s) h e
  · refine exec_wf _ _ t ?_ e
    exact h

end Sys2Proof.Machine
end

section
/-! Proofs about Zonov credits (R18). -/

namespace Sys2Proof.Machine

/-- The pool credits that a link holds. -/
def poolHeld (held : List (MsgClass × Bool)) : Nat := held.countP (fun h => !h.2)

/-- The pool credits that BULK holds on a link. -/
def bulkHeld (held : List (MsgClass × Bool)) : Nat := held.countP (fun h => !h.2 && h.1 == .bulk)

theorem length_filter_pool (held : List (MsgClass × Bool)) : (held.filter (fun h => !h.2)).length = poolHeld held :=
  List.countP_eq_length_filter.symm

theorem length_filter_bulk (held : List (MsgClass × Bool)) :
    ((held.filter (fun h => !h.2)).filter (fun h => h.1 == .bulk)).length = bulkHeld held := by
  rw [List.filter_filter, bulkHeld, List.countP_eq_length_filter]
  congr 1
  exact List.filter_congr (fun h _ => Bool.and_comm _ _)

/-- A class's escape credit is taken exactly when the link holds a message with it. -/
theorem any_escape_iff (held : List (MsgClass × Bool)) (cls : MsgClass) :
    held.any (fun h => h.2 && h.1 == cls) = true ↔ (cls, true) ∈ held := by
  rw [List.any_eq_true]
  constructor
  · rintro ⟨⟨c, e⟩, hm, he⟩
    obtain ⟨rfl, he⟩ := Bool.and_eq_true_iff.mp he
    exact (beq_iff_eq.mp he) ▸ hm
  · exact fun hm => ⟨_, hm, by simp⟩

/-- BULK takes a pool credit or none. -/
theorem creditFor_bulk (held : List (MsgClass × Bool)) :
    creditFor held .bulk = if poolHeld held < 60 ∧ bulkHeld held < 48 then some false else none := by
  simp only [creditFor, length_filter_pool, length_filter_bulk, Bool.and_eq_true, decide_eq_true_eq]

/-- WATCH and MGMT take a pool credit or none. -/
theorem creditFor_ordinary (held : List (MsgClass × Bool)) {cls : MsgClass} (h : cls = .watch ∨ cls = .mgmt) :
    creditFor held cls = if poolHeld held < 60 then some false else none := by
  rcases h with rfl | rfl <;> simp only [creditFor, length_filter_pool, decide_eq_true_eq]

/-- RELEASE and ALARM take their own escape credit when the pool is empty. -/
theorem creditFor_urgent (held : List (MsgClass × Bool)) {cls : MsgClass} (h : cls = .release ∨ cls = .alarm) :
    creditFor held cls = if poolHeld held < 60 then some false else if (cls, true) ∈ held then none else some true := by
  rcases h with rfl | rfl <;> simp only [creditFor, length_filter_pool, decide_eq_true_eq, any_escape_iff]

/-- Settles O6, class by class. -/
theorem zonovCreditsByClass : Obligations.ZonovCreditsByClass := by
  intro held cls
  change (_ ↔ poolHeld held < 60 ∧ (_ → bulkHeld held < 48)) ∧ (_ ↔ 60 ≤ poolHeld held ∧ _)
  have urgent : cls = .release ∨ cls = .alarm → (creditFor held cls = some false ↔ poolHeld held < 60) ∧
      (creditFor held cls = some true ↔ 60 ≤ poolHeld held ∧ (cls, true) ∉ held) := by
    intro h
    rw [creditFor_urgent held h]
    by_cases empty : poolHeld held < 60
    · simp [empty]
    · by_cases used : (cls, true) ∈ held
      · simp [empty, used]
      · simpa [empty, used] using Nat.le_of_not_lt empty
  have ordinary : cls = .watch ∨ cls = .mgmt → (creditFor held cls = some false ↔ poolHeld held < 60) ∧
      creditFor held cls ≠ some true := by
    intro h
    rw [creditFor_ordinary held h]
    split_ifs with room <;> simp [room]
  cases cls with
  | bulk =>
    rw [creditFor_bulk]
    split_ifs <;> simp <;> omega
  | watch => simpa using ordinary (.inl rfl)
  | mgmt => simpa using ordinary (.inr rfl)
  | release => simpa using urgent (.inl rfl)
  | alarm => simpa using urgent (.inr rfl)

end Sys2Proof.Machine
end

section
/-! Effects that count in performance counters (R524, R525), whose overflows may raise COUNTER_OVERFLOW (119) on the way. -/

namespace Sys2Proof.Machine

variable {P : List Part} {R : List (Nat × Nat)} {L : List Nat} {s u : State}

/-! ### Registers of one object -/

/-- A number of an object after a write of a number of the same object. -/
theorem State.num_set_ite (s : State) (i v : Nat) {b b' : Nat} (hb : b < 256) (hb' : b' < 256) :
    (s.set i b 0 (.int v)).num i b' = if b' = b then v else s.num i b' := by
  split
  · rename_i h; rw [h, State.num_set]
  · rename_i h; exact State.num_set_ne s _ hb (by omega) hb' (by tauto)

@[simp] theorem State.modFab_num (s : State) (f : Fabric → Fabric) (i b : Nat) : (s.modFab f).num i b = s.num i b := (rfl)

/-! ### What a frame says of one register or one part -/

/-- The registers of index 0xA803 and above are none of the end of a command. -/
theorem endRegister_high {i b : Nat} (h : 0xA803 ≤ i) : endRegister i b = false := by
  simp [endRegister]
  omega

theorem Frame.num_keep (h : Frame P R s u) {i b : Nat} (hm : (i, b) ∉ R) (hn : endRegister i b = false) (hb : b < 256 := by omega) :
    u.num i b = s.num i b := by
  unfold State.num State.int
  rw [h.regs i b 0 hb (by omega) hm hn]

theorem Frame.fab_keep (h : Frame P R s u) (hm : Part.fab ∉ P) : u.fab = s.fab := h.parts .fab hm

theorem Frame.cfg_keep (h : Frame P R s u) (hm : Part.cfg ∉ P) : u.cfg = s.cfg := h.parts .cfg hm

theorem Frame.tr_keep (h : Frame P R s u) (hm : Part.tr ∉ P) : u.tr = s.tr := h.parts .tr hm

theorem Frame.raw_keep (h : Frame P R s u) (hm : Part.eph ∉ P) : u.raw = s.raw := by
  have k : u.eph.core = s.eph.core := h.parts .eph hm
  exact (congrArg Eph.raw k :)

theorem Frame.queue_keep (h : Frame P R s u) (hm : Part.ing ∉ P) (n : Nat) : u.queue n = s.queue n := by
  have k : u.ing.core = s.ing.core := h.parts .ing hm
  have e : u.ing.queues = s.ing.queues := (congrArg Ingest.queues k :)
  unfold State.queue
  rw [e]

/-! ### Effects up to COUNTER_OVERFLOW -/

/-- `u` is `s` but for the listed parts and registers, and the listed sources have been raised, with any number of COUNTER_OVERFLOW
between them. -/
def Counting (P : List Part) (R : List (Nat × Nat)) (L : List Nat) (s u : State) : Prop :=
  ∃ M : List Nat, M.filter (· ≠ 119) = L ∧ Effect P R M s u

theorem Effect.counting (h : Effect P R L s u) (hl : L.filter (· ≠ 119) = L) : Counting P R L s u := ⟨L, hl, h⟩

theorem Effect.counting_nil (h : Effect P R [] s u) : Counting P R [] s u := h.counting rfl

theorem Counting.frame (h : Counting P R L s u) : Frame P R s u := by
  obtain ⟨_, -, e⟩ := h
  exact e.frame

theorem Counting.trans {M : List Nat} {t : State} (h : Counting P R L s u) (k : Counting P R M u t) : Counting P R (L ++ M) s t := by
  obtain ⟨l, rfl, e⟩ := h
  obtain ⟨m, rfl, f⟩ := k
  exact ⟨l ++ m, List.filter_append .., e.trans f⟩

theorem Counting.mono {Q : List Part} {U : List (Nat × Nat)} (h : Counting P R L s u) (hp : ∀ p ∈ P, p ∈ Q) (hr : ∀ r ∈ R, r ∈ U) :
    Counting Q U L s u := by
  obtain ⟨l, hl, e⟩ := h
  exact ⟨l, hl, e.mono hp hr⟩

/-- One more step that raises nothing. -/
theorem Counting.andQuiet {t : State} (h : Counting P R L s u) (k : Effect P R [] u t) : Counting P R L s t := by
  simpa using h.trans k.counting_nil

/-- Steps of one kind, one after the other. -/
theorem Counting.foldl {α : Type} (f : State → α → State) (l : List α) (hf : ∀ s, ∀ x ∈ l, Counting P R [] s (f s x)) (s : State) :
    Counting P R [] s (l.foldl f s) := by
  induction l generalizing s with
  | nil => exact Effect.start.counting_nil
  | cons x rest ih => simpa using (hf s x (by simp)).trans (ih (fun t y hy => hf t y (by simp [hy])) (f s x))

/-- What a command leaves follows from its effect up to COUNTER_OVERFLOW; a source that is listed once is counted once. -/
theorem Leaves.of_counting {c : Instr} {f : State → State} {after : State → Prop}
    (he : Sys2Proof.Machine.exec c s = complete s f) (h0 : s.ev.raised = []) (hf : Counting P R L s (f s))
    (small : ∀ n ∈ L, n < 128)
    (hafter : ∀ t, Frame [] [] (f s) t → (∀ n, n < 128 → n ≠ 93 → n ≠ 119 → L.count n = 1 → CountedOnce n s t) → after t) :
    Leaves c s P R after := by
  obtain ⟨M, rfl, e⟩ := hf
  have hl : (f s).ev.raised.map (·.source) = M := by rw [e.raised, h0]; rfl
  have smallAll : ∀ n ∈ M, n < 128 := by
    intro n hn
    by_cases h : n = 119
    · omega
    · exact small n (List.mem_filter.mpr ⟨hn, by simpa using h⟩)
  have hs : ∀ r ∈ (f s).ev.raised, r.source < 128 := fun r hr => smallAll _ (hl ▸ List.mem_map_of_mem hr)
  obtain ⟨t, ht, hft, hr, -⟩ := complete_effect s f hs e.frame.pending
  refine ⟨t, by rw [he, ht], e.frame.andEnd hft, hafter t hft (fun n hn h93 h119 once => ?_)⟩
  have all : M.count n = 1 := by rw [← once, List.count_filter (by simpa using h119)]
  unfold CountedOnce
  rw [hr n hn h93, hl, all, e.counts n hn]

/-! ### Performance counters -/

theorem mem_counterRegisters_value {die k : Nat} (h : k < 16) : (0xE000 + (16 * die + k), 2) ∈ counterRegisters die :=
  List.mem_flatMap.mpr ⟨k, List.mem_range.mpr h, by simp⟩

theorem mem_counterRegisters_overflows {die k : Nat} (h : k < 16) : (0xE000 + (16 * die + k), 3) ∈ counterRegisters die :=
  List.mem_flatMap.mpr ⟨k, List.mem_range.mpr h, by simp⟩

/-- The registers of all performance counters. -/
def allCounters : List (Nat × Nat) := (List.range 5).flatMap counterRegisters

theorem mem_allCounters {die : Nat} (h : die < 5) {r : Nat × Nat} (hr : r ∈ counterRegisters die) : r ∈ allCounters :=
  List.mem_flatMap.mpr ⟨die, List.mem_range.mpr h, hr⟩

theorem index_of_mem_allCounters {r : Nat × Nat} (h : r ∈ allCounters) : 0xE000 ≤ r.1 ∧ r.1 < 0xE050 := by
  obtain ⟨die, hd, hr⟩ := List.mem_flatMap.mp h
  obtain ⟨k, hk, hr⟩ := List.mem_flatMap.mp hr
  rw [List.mem_range] at hd hk
  simp only [List.mem_cons, List.not_mem_nil, or_false] at hr
  rcases hr with rfl | rfl <;> dsimp only <;> omega

/-- One counter counts: it writes its VALUE and, at a wrap, its OVERFLOWS. -/
theorem countIn_counting (s : State) (c n : Nat) : Counting [] [(0xE000 + c, 2), (0xE000 + c, 3)] [] s (s.countIn c n) := by
  have write : ∀ (t : State) (b v : Nat), b = 2 ∨ b = 3 →
      Effect [] [(0xE000 + c, 2), (0xE000 + c, 3)] [] t (t.set (0xE000 + c) b 0 (.int v)) := by
    intro t b v hb
    exact Effect.start.set _ _ _ _ (by omega) (by omega) (.inl (by rcases hb with rfl | rfl <;> simp)) (by omega)
  unfold State.countIn
  simp only [State.setN_eq, State.inc32_eq]
  split
  · exact (write _ _ _ (.inl rfl)).counting_nil
  · split
    · exact ⟨[119], rfl, ((write _ _ _ (.inl rfl)).trans (write _ _ _ (.inr rfl))).raise _ _⟩
    · exact ((write _ _ _ (.inl rfl)).trans (write _ _ _ (.inr rfl))).counting_nil

/-- Counting on a die writes that die's counters alone. -/
theorem perf_counting_die (s : State) (die code n : Nat) : Counting [] (counterRegisters die) [] s (s.perf die code n) := by
  refine Counting.foldl _ _ (fun t c hc => ?_) s
  obtain ⟨k, hk, rfl⟩ := List.mem_map.mp hc
  rw [List.mem_range] at hk
  split
  · refine (countIn_counting t _ n).mono (by simp) (fun r hr => ?_)
    simp only [List.mem_cons, List.not_mem_nil, or_false] at hr
    rcases hr with rfl | rfl
    · exact mem_counterRegisters_value hk
    · exact mem_counterRegisters_overflows hk
  · exact Effect.start.counting_nil

/-- A step that changes nothing but performance counters. -/
def Counters (s u : State) : Prop := Counting [] allCounters [] s u

theorem Counters.refl (s : State) : Counters s s := Effect.start.counting_nil

theorem perf_counters (s : State) {die : Nat} (h : die < 5) (code n : Nat) : Counters s (s.perf die code n) :=
  (perf_counting_die s die code n).mono (by simp) (fun _ hr => mem_allCounters h hr)

theorem Counters.num (h : Counters s u) {i b : Nat} (hi : 0xE050 ≤ i) (hb : b < 256 := by omega) : u.num i b = s.num i b :=
  h.frame.num_keep (fun hm => by have := index_of_mem_allCounters hm; omega) (endRegister_high (by omega)) hb

theorem Counters.fab (h : Counters s u) : u.fab = s.fab := h.frame.fab_keep (by simp)

end Sys2Proof.Machine
end

section
/-! Proofs about messages and failures of the Zonov links (R18–R20, R52). -/

namespace Sys2Proof.Machine

/-! ### A message that is delivered -/

/-- The messages on a link that hold their credits. -/
def State.heldOn (s : State) (n : Nat) : List (MsgClass × Bool) := (nth s.fab.links n ⟨[], false⟩).held

/-- A message joins those that hold a credit on a link, of which the oldest have been drained. -/
def State.takeCredit (s : State) (n drained : Nat) (x : MsgClass × Bool) : State :=
  (s.modFab (fun f => { f with links := f.links.modify n (fun l => { l with held := l.held.drop drained }) })).modFab
    (fun f => { f with links := f.links.modify n (fun l => { l with held := l.held ++ [x] }) })

/-- A message that took an escape credit is counted: in ESCAPE_USED and in the sending lane's performance counters. -/
def State.countEscape (s : State) (n : Nat) (escape : Bool) : State :=
  if escape then (if n < 4 then s else s.perf (State.linkLane n + 1) 0x08 1).inc32 (0xF110 + n) 0x04 else s

/-- A message that is delivered is counted, with its latency. -/
def State.countArrival (s : State) (n latency : Nat) : State :=
  let t := (s.inc64 (0xF110 + n) 0x02).setMax (0xF110 + n) 0x05 (min latency 65535)
  if 4 ≤ n ∧ n < 8 then t.perf (State.linkLane n + 1) 0x07 1 else t

theorem nth_modify {α : Type} (l : List α) (n : Nat) (f : α → α) (d : α) (h : n < l.length) :
    nth (l.modify n f) n d = f (nth l n d) := by
  simp [nth, h]

theorem takeCredit_held (s : State) (n drained : Nat) (x : MsgClass × Bool) (h : n < s.fab.links.length) :
    (s.takeCredit n drained x).heldOn n = (s.heldOn n).drop drained ++ [x] := by
  simp only [State.takeCredit, State.heldOn, State.modFab_fab]
  rw [nth_modify _ _ _ _ (by simpa using h), nth_modify _ _ _ _ h]

@[simp] theorem takeCredit_num (s : State) (n drained : Nat) (x : MsgClass × Bool) (i b : Nat) :
    (s.takeCredit n drained x).num i b = s.num i b := (rfl)

/-- What a message does on a link that carries it, when it has a credit and needs at most 16 replays. -/
theorem zonovMessage_delivered {s : State} {n : Nat} {cls : MsgClass} {drained failedChecks : Nat} {escape : Bool} (latency : Nat)
    (hon : s.lanesOn = true) (h1 : s.linkState n ≠ 1) (h2 : s.linkState n ≠ 2) (hfew : failedChecks ≤ 16)
    (hn : n < s.fab.links.length) (hc : creditFor ((s.heldOn n).drop drained) cls = some escape) :
    s.zonovMessage n cls drained latency failedChecks =
      (((s.takeCredit n drained (cls, escape)).countReplays n failedChecks).countEscape n escape).countArrival n latency := by
  have held : (nth (s.modFab (fun x => { x with links := x.links.modify n (fun l => { l with held := l.held.drop drained }) })).fab.links n
      ⟨[], false⟩).held = (s.heldOn n).drop drained := by
    rw [State.modFab_fab, nth_modify _ _ _ _ hn, State.heldOn]
  unfold State.zonovMessage
  dsimp only
  rw [if_neg (by simp [h1, h2, hon]), held, hc]
  dsimp only
  rw [if_neg (by omega), Nat.min_eq_right hfew]
  rfl

theorem receiverDie_lt {n d : Nat} (h : n < 12) (hd : State.receiverDie n = some d) : d < 5 := by
  unfold State.receiverDie at hd
  split_ifs at hd <;> cases hd <;> omega

theorem linkLane_lt (n : Nat) : State.linkLane n < 4 := Nat.mod_lt _ (by omega)

/-- Beside REPLAYS, replays are counted in performance counters alone. -/
theorem countReplays_counters (s : State) {n : Nat} (h : n < 12) (replays : Nat) :
    Counters (s.add 32 (0xF110 + n) 0x03 replays) (s.countReplays n replays) := by
  unfold State.countReplays
  dsimp only
  split
  · rename_i d hd; exact perf_counters _ (receiverDie_lt h hd) _ _
  · exact Counters.refl _

theorem countReplays_num (s : State) {n : Nat} (h : n < 12) (replays : Nat) {b : Nat} (hb : b < 256 := by omega) :
    (s.countReplays n replays).num (0xF110 + n) b =
      if b = 3 then State.countUp 32 (s.num (0xF110 + n) 3) replays else s.num (0xF110 + n) b := by
  rw [(countReplays_counters s h replays).num (by omega), State.add_eq, State.num_set_ite _ _ _ (by omega) hb]

theorem countEscape_num (s : State) (n : Nat) (escape : Bool) {b : Nat} (hb : b < 256 := by omega) :
    (s.countEscape n escape).num (0xF110 + n) b =
      if b = 4 ∧ escape = true then State.countUp 32 (s.num (0xF110 + n) 4) 1 else s.num (0xF110 + n) b := by
  cases escape with
  | false => simp [State.countEscape]
  | true =>
    have keep : ∀ b, b < 256 → (if n < 4 then s else s.perf (State.linkLane n + 1) 0x08 1).num (0xF110 + n) b = s.num (0xF110 + n) b := by
      intro b hb
      split
      · rfl
      · exact (perf_counters s (by have := linkLane_lt n; omega) _ _).num (by omega)
    rw [State.countEscape, if_pos rfl, State.inc32_eq, State.num_set_ite _ _ _ (by omega) hb, keep b hb, keep 4 (by omega)]
    simp

theorem countArrival_counters (s : State) (n latency : Nat) :
    Counters ((s.inc64 (0xF110 + n) 0x02).setMax (0xF110 + n) 0x05 (min latency 65535)) (s.countArrival n latency) := by
  unfold State.countArrival
  dsimp only
  split
  · exact perf_counters _ (by have := linkLane_lt n; omega) _ _
  · exact Counters.refl _

theorem countArrival_num (s : State) (n latency : Nat) {b : Nat} (hb : b < 256 := by omega) :
    (s.countArrival n latency).num (0xF110 + n) b =
      if b = 5 then max (s.num (0xF110 + n) 5) (min latency 65535)
      else if b = 2 then State.countUp 64 (s.num (0xF110 + n) 2) 1 else s.num (0xF110 + n) b := by
  rw [(countArrival_counters s n latency).num (by omega)]
  simp (disch := omega) only [State.setMax_eq, State.inc64_eq, State.num_set_ite, Nat.reduceEqDiff, if_false]

/-- The counters of a link and of all dies: what a message may count in. -/
def linkCounters (n : Nat) : List (Nat × Nat) :=
  [(0xF110 + n, 2), (0xF110 + n, 3), (0xF110 + n, 4), (0xF110 + n, 5)] ++ allCounters

theorem mem_linkCounters {n b : Nat} (h : b = 2 ∨ b = 3 ∨ b = 4 ∨ b = 5) : (0xF110 + n, b) ∈ linkCounters n := by
  rcases h with rfl | rfl | rfl | rfl <;> simp [linkCounters]

theorem Counters.onLink {s u : State} (h : Counters s u) (n : Nat) : Counting [.fab] (linkCounters n) [] s u :=
  h.mono (by simp) (fun _ hr => List.mem_append_right _ hr)

/-- A write of a counter of a link. -/
theorem set_onLink (s : State) {n b : Nat} (v : Nat) (h : b = 2 ∨ b = 3 ∨ b = 4 ∨ b = 5) :
    Effect [.fab] (linkCounters n) [] s (s.set (0xF110 + n) b 0 (.int v)) :=
  Effect.start.set _ _ _ _ (by omega) (by omega) (.inl (mem_linkCounters h)) (by omega)

theorem takeCredit_effect (s : State) (n drained : Nat) (x : MsgClass × Bool) (R : List (Nat × Nat)) :
    Effect [.fab] R [] s (s.takeCredit n drained x) :=
  (Effect.start.modFab _ (by simp)).modFab _ (by simp)

/-- What the count of replays may write: REPLAYS of the link, and performance counters. -/
def replayCounters (n : Nat) : List (Nat × Nat) := (0xF110 + n, 3) :: allCounters

theorem countReplays_counting (s : State) {n : Nat} (h : n < 12) (replays : Nat) :
    Counting [] (replayCounters n) [] s (s.countReplays n replays) := by
  have k := (countReplays_counters s h replays).mono (Q := []) (U := replayCounters n) (by simp) (fun _ hr => List.mem_cons_of_mem _ hr)
  rw [State.add_eq] at k
  have replay : Effect [] (replayCounters n) [] s (s.set (0xF110 + n) 3 0 (.int (State.countUp 32 (s.num (0xF110 + n) 3) replays))) :=
    Effect.start.set _ _ _ _ (by omega) (by omega) (.inl List.mem_cons_self) (by omega)
  exact replay.counting_nil.trans k

theorem countReplays_onLink (s : State) {n : Nat} (h : n < 12) (replays : Nat) :
    Counting [.fab] (linkCounters n) [] s (s.countReplays n replays) := by
  refine (countReplays_counting s h replays).mono (by simp) (fun r hr => ?_)
  rcases List.mem_cons.mp hr with rfl | hr
  · exact mem_linkCounters (by simp)
  · exact List.mem_append_right _ hr

theorem countEscape_counting (s : State) (n : Nat) (escape : Bool) :
    Counting [.fab] (linkCounters n) [] s (s.countEscape n escape) := by
  unfold State.countEscape
  split
  · rw [State.inc32_eq]
    refine Counting.andQuiet ?_ (set_onLink _ _ (by simp))
    split
    · exact Effect.start.counting_nil
    · exact (perf_counters s (by have := linkLane_lt n; omega) _ _).onLink n
  · exact Effect.start.counting_nil

theorem countArrival_counting (s : State) (n latency : Nat) :
    Counting [.fab] (linkCounters n) [] s (s.countArrival n latency) := by
  have k := (countArrival_counters s n latency).onLink n
  rw [State.setMax_eq, State.inc64_eq] at k
  exact ((set_onLink s _ (by simp)).trans (set_onLink _ _ (by simp))).counting_nil.trans k

theorem countReplays_fab (s : State) {n : Nat} (h : n < 12) (replays : Nat) : (s.countReplays n replays).fab = s.fab :=
  (countReplays_counters s h replays).fab.trans (by simp)

theorem countEscape_fab (s : State) (n : Nat) (escape : Bool) : (s.countEscape n escape).fab = s.fab := by
  unfold State.countEscape
  split
  · rw [State.inc32_eq, State.set_fab]
    split
    · rfl
    · exact (perf_counters s (by have := linkLane_lt n; omega) _ _).fab
  · rfl

theorem countArrival_fab (s : State) (n latency : Nat) : (s.countArrival n latency).fab = s.fab :=
  (countArrival_counters s n latency).fab.trans (by simp)

/-- Settles O7: the credit is taken, then replays, the escape credit and the arrival are counted, one after the other. -/
theorem zonovMessageTakesCreditAndIsDelivered : Obligations.ZonovMessageTakesCreditAndIsDelivered := by
  intro n cls drained latency failedChecks escape s hset hon h1 h2 hfew hn hc
  have hlink : n.val < 12 := n.isLt
  have eq := zonovMessage_delivered latency hon h1 h2 hfew hn hc
  have effect : Counting [.fab] (linkCounters n) [] s (s.zonovMessage n cls drained latency failedChecks) := by
    rw [eq]
    exact (((takeCredit_effect s n drained (cls, escape) _).counting_nil.trans (countReplays_onLink _ hlink _)).trans
      (countEscape_counting _ _ _)).trans (countArrival_counting _ _ _)
  refine Leaves.of_counting (f := fun s => s.zonovMessage n cls drained latency failedChecks) rfl hset.raises effect (by simp)
    (fun t ht _ => ?_)
  rw [eq] at ht
  have fab : t.fab = (s.takeCredit n drained (cls, escape)).fab := by
    rw [ht.fab_keep (by simp), countArrival_fab, countEscape_fab, countReplays_fab _ hlink]
  have num : ∀ b, b < 256 → t.num (0xF110 + n) b =
      if b = 5 then max (s.num (0xF110 + n) 5) (min latency 65535)
      else if b = 2 then State.countUp 64 (s.num (0xF110 + n) 2) 1
      else if b = 4 ∧ escape = true then State.countUp 32 (s.num (0xF110 + n) 4) 1
      else if b = 3 then State.countUp 32 (s.num (0xF110 + n) 3) failedChecks else s.num (0xF110 + n) b := by
    intro b hb
    rw [ht.num_keep (by simp) (endRegister_high (by omega)) hb, countArrival_num _ _ _ hb]
    simp (disch := omega) [countEscape_num, countReplays_num]
  refine ⟨?_, num 2 (by omega), num 3 (by omega), ?_, num 5 (by omega)⟩
  · rw [fab]
    exact takeCredit_held s n drained (cls, escape) hn
  · rw [num 4 (by omega)]
    simp

end Sys2Proof.Machine
end

section
/-! Proofs about lanes that are fenced (R48–R51). -/

namespace Sys2Proof.Machine

variable {P : List Part} {R : List (Nat × Nat)} {L : List Nat} {s u : State}

/-! ### A lane's streams -/

/-- The streams of a lane depend on the committed configuration alone. -/
theorem laneStreams_congr {t : State} (h : t.cfg = s.cfg) (n : Nat) : t.laneStreams n = s.laneStreams n := by
  have remote : t.enabledRemote = s.enabledRemote := by unfold State.enabledRemote; rw [h]
  have locals : t.ctxEnabled = s.ctxEnabled := by
    funext i; unfold State.ctxEnabled State.cB; rw [State.c_congr h, State.c_congr h]
  unfold State.laneStreams State.enabledStreams
  rw [remote, locals]

theorem laneStreams_lt {n i : Nat} (h : i ∈ s.laneStreams n) : laneOf i = n :=
  of_decide_eq_true (List.mem_filter.mp h).2

/-- The registers of the states of a lane's streams. -/
def streamRegisters (s : State) (n : Nat) : List (Nat × Nat) := (s.laneStreams n).map (fun i => (0x4000 + i, 0x1A))

theorem index_of_mem_streamRegisters {n : Nat} (hn : n < 4) {r : Nat × Nat} (h : r ∈ streamRegisters s n) :
    r.1 < 0x5000 := by
  obtain ⟨i, hi, rfl⟩ := List.mem_map.mp h
  have := laneStreams_lt hi
  unfold laneOf at this
  dsimp only
  omega

/-- Entry to FENCED: the state is written, and no held value is left. -/
theorem setStreamState_fenced (s : State) (i : Nat) :
    s.setStreamState i 6 = if s.streamState i = 6 then s else (s.setN (0x4000 + i) 0x1A 6).dropHeld i := by
  unfold State.setStreamState
  simp

@[simp] theorem dropHeld_num (s : State) (i j b : Nat) : (s.dropHeld i).num j b = s.num j b := by
  unfold State.dropHeld
  exact State.num_congr (by simp only [State.modTr_obj]) _ _

@[simp] theorem dropHeld_ing (s : State) (i : Nat) : (s.dropHeld i).ing = s.ing := by
  unfold State.dropHeld
  simp only [State.modTr_ing]

theorem dropHeld_effect (s : State) (i : Nat) (m : Part.tr ∈ P) : Effect P R [] s (s.dropHeld i) := Effect.start.modTr _ m

theorem setStreamState_fenced_effect (s : State) {i : Nat} (hi : i < 4096) (m : Part.tr ∈ P) (r : (0x4000 + i, 0x1A) ∈ R) :
    Effect P R [] s (s.setStreamState i 6) := by
  rw [setStreamState_fenced, State.setN_eq]
  refine Effect.ite Effect.start (Effect.modTr ?_ _ m)
  exact Effect.start.set _ _ _ _ (by omega) (by omega) (.inl r) (by omega)

theorem streamState_fenced (s : State) (i j : Nat) :
    (s.setStreamState i 6).streamState j = if j = i then 6 else s.streamState j := by
  rw [setStreamState_fenced]
  by_cases h : s.streamState i = 6
  · rw [if_pos h]
    split
    · rename_i e; rw [e, h]
    · rfl
  · rw [if_neg h, State.setN_eq, State.streamState, dropHeld_num]
    split
    · rename_i e; rw [e, State.num_set]
    · exact State.num_set_ne _ _ (by omega) (by omega) (by omega) (by omega)

/-- The streams of a list become FENCED, the others stay. -/
theorem foldl_streamState_fenced (l : List Nat) (s : State) (j : Nat) :
    (l.foldl (fun (u : State) i => u.setStreamState i 6) s).streamState j = if j ∈ l then 6 else s.streamState j := by
  induction l generalizing s with
  | nil => simp
  | cons i rest ih =>
    rw [List.foldl_cons, ih, streamState_fenced]
    by_cases h : j = i <;> simp [h]

/-! ### Resets of resonators -/

/-- What resets of resonators may change. -/
theorem resetResonator_effect (s : State) (key : Nat) : Effect [.spec] spectroRegisters [] s (s.resetResonator key) := by
  unfold State.resetResonator State.putResonator
  rw [State.inc64_eq]
  exact (Effect.start.modSpec _ (by simp)).set _ _ _ _ (by omega) (by omega) (.inl (by simp [spectroRegisters])) (by omega)

theorem resetSignal_effect (s : State) (key : Nat) : Effect [.spec] spectroRegisters [] s (s.resetSignal key) :=
  (Effect.start.modSpec _ (by simp)).trans (Effect.foldl _ _ (fun t b _ => resetResonator_effect t _) _)

/-- The end of a command writes its result RECORD. -/
theorem finishCmd_effect (s : State) {result code : Nat} {data : List Byte} (hr : result ≠ 0xA801)
    (h : ∀ r ∈ outcomeRegisters result, r ∈ R) : Effect P R [] s (s.finishCmd result code data) := by
  have m : ∀ b, b = 1 ∨ b = 2 ∨ b = 3 ∨ b = 4 ∨ b = 6 → (result, b) ∈ R := by
    intro b hb
    exact h _ (by rcases hb with rfl | rfl | rfl | rfl | rfl <;> simp [outcomeRegisters])
  unfold State.finishCmd
  simp only [State.setN_eq, State.setBytes_eq]
  refine ((((Effect.start.set _ _ _ _ ?_ ?_ (.inl (m 1 (by simp))) hr).set _ _ _ _ ?_ ?_ (.inl (m 3 (by simp))) hr).set _ _ _ _ ?_ ?_
    (.inl (m 4 (by simp))) hr).set _ _ _ _ ?_ ?_ (.inl (m 2 (by simp))) hr).set _ _ _ _ ?_ ?_ (.inl (m 6 (by simp))) hr <;> omega

theorem applyResets_effect (s : State) (n : Nat) (loc : Bool) : Effect [.spec] spectroRegisters [] s (s.applyResets n loc) := by
  unfold State.applyResets
  dsimp only
  generalize List.filter _ (usedSignals s loc) = keys
  have reset : Effect [.spec] spectroRegisters [] s (keys.foldl State.resetSignal (s.modSpec (fun x => { x with
      resets := modNth x.resets n (fun l => l.filter (fun t => decide (0x8000 ≤ t) != loc)) }))) :=
    (Effect.start.modSpec _ (by simp)).trans (Effect.foldl _ _ (fun t k _ => resetSignal_effect t k) _)
  exact Effect.ite (reset.trans (finishCmd_effect _ (by decide) (fun _ hr => List.mem_cons_of_mem _ hr))) reset

/-! ### A lane that is isolated -/

theorem index_of_mem_spectroRegisters {r : Nat × Nat} (h : r ∈ spectroRegisters) : 0x6000 ≤ r.1 ∧ r.1 < 0x6006 := by
  simp only [spectroRegisters, outcomeRegisters, List.mem_cons, List.not_mem_nil, or_false] at h
  rcases h with rfl | rfl | rfl | rfl | rfl | rfl <;> decide

/-- The state in which a lane's streams become FENCED: its resets are carried out, and what it held is gone. -/
def State.emptiedLane (s : State) (n : Nat) : State := ((s.applyResets n false).applyResets n true).dropLane n

theorem dropLane_effect (s : State) (n : Nat) : Effect [.ing, .tr, .spec] R [] s (s.dropLane n) :=
  (((Effect.start.modIng _ (by simp)).modTr _ (by simp)).modTr _ (by simp)).modSpec _ (by simp)

theorem emptiedLane_effect (s : State) (n : Nat) : Effect [.ing, .tr, .spec] spectroRegisters [] s (s.emptiedLane n) :=
  (((applyResets_effect s n false).trans (applyResets_effect _ n true)).mono (by simp) (fun _ h => h)).trans (dropLane_effect _ n)

theorem emptiedLane_streams (s : State) (n m : Nat) : (s.emptiedLane n).laneStreams m = s.laneStreams m :=
  laneStreams_congr ((emptiedLane_effect s n).frame.parts .cfg (by simp)) m

/-- What the isolation of a lane may write beside the parts of the state. -/
def isolateRegisters (s : State) (n : Nat) : List (Nat × Nat) := spectroRegisters ++ streamRegisters s n

theorem isolateLane_eq (s : State) (n : Nat) :
    s.isolateLane n = (s.laneStreams n).foldl (fun (u : State) i => u.setStreamState i 6) (s.emptiedLane n) := by
  rw [← emptiedLane_streams]
  rfl

theorem isolateLane_effect (s : State) {n : Nat} (hn : n < 4) :
    Effect [.ing, .tr, .spec] (isolateRegisters s n) [] s (s.isolateLane n) := by
  rw [isolateLane_eq]
  refine ((emptiedLane_effect s n).mono (fun _ h => h) (fun _ h => List.mem_append_left _ h)).trans (Effect.foldl _ _ (fun t i hi => ?_) _)
  have := laneStreams_lt hi
  unfold laneOf at this
  exact setStreamState_fenced_effect t (by omega) (by simp) (List.mem_append_right _ (List.mem_map_of_mem hi))

theorem isolateLane_num (s : State) {n : Nat} (hn : n < 4) {i b : Nat} (hi : 0xA803 ≤ i) (hb : b < 256 := by omega) :
    (s.isolateLane n).num i b = s.num i b := by
  refine (isolateLane_effect s hn).frame.num_keep (fun hm => ?_) (endRegister_high hi) hb
  rcases List.mem_append.mp hm with h | h
  · have := index_of_mem_spectroRegisters h; omega
  · have := index_of_mem_streamRegisters hn h; dsimp only at this; omega

theorem isolateLane_streamState (s : State) {n i : Nat} (hi : i ∈ s.laneStreams n) : (s.isolateLane n).streamState i = 6 := by
  rw [isolateLane_eq, foldl_streamState_fenced, if_pos hi]

/-- Neither the lane nor the hub holds anything that the lane has taken or sent. -/
structure LaneGone (n : Nat) (t : Transit) : Prop where
  slots : (nth t.lanes n ⟨0, [], [], [], [], 0, [], [], false, none⟩).slots = []
  partials : ∀ i ∈ t.insts, ∀ p ∈ i.partials, p.1 ≠ n

/-- A property of an element, or of the value beyond a list's end, after a change of the list's elements. -/
theorem nth_map_of {α : Type} (f : α → α) (l : List α) (n : Nat) (d : α) (q : α → Prop) (hd : q d) (h : q (f (nth l n d))) :
    q (nth (l.map f) n d) := by
  unfold nth at h ⊢
  rw [List.getD_eq_getElem?_getD, List.getElem?_map] at *
  cases e : l[n]? with
  | none => exact hd
  | some x => simpa [e] using h

theorem nth_modify_of {α : Type} (f : α → α) (l : List α) (n : Nat) (d : α) (q : α → Prop) (hd : q d) (h : ∀ x, q (f x)) :
    q (nth (l.modify n f) n d) := by
  unfold nth
  rw [List.getD_eq_getElem?_getD, List.getElem?_modify_eq]
  cases l[n]? with
  | none => exact hd
  | some x => exact h x

theorem emptiedLane_gone (s : State) (n : Nat) : LaneGone n (s.emptiedLane n).tr := by
  unfold State.emptiedLane State.dropLane
  simp only [State.modSpec_tr, State.modTr_tr]
  refine ⟨?_, fun i hi p hp => ?_⟩
  · unfold State.modLane
    exact nth_modify_of Lane.emptied _ _ _ (fun l : Lane => l.slots = []) rfl (fun _ => rfl)
  · obtain ⟨j, -, rfl⟩ := List.mem_map.mp hi
    simpa using (List.mem_filter.mp hp).2

theorem setStreamState_fenced_gone {n : Nat} (s : State) (i : Nat) (h : LaneGone n s.tr) : LaneGone n (s.setStreamState i 6).tr := by
  rw [setStreamState_fenced]
  split
  · exact h
  · unfold State.dropHeld
    rw [State.modTr_tr, State.setN_eq, State.set_tr]
    refine ⟨nth_map_of _ _ _ _ (fun l : Lane => l.slots = []) rfl ?_, h.partials⟩
    simp only [h.slots, List.map_nil]

theorem foldl_gone {α : Type} {n : Nat} (f : State → α → State) (hf : ∀ s x, LaneGone n s.tr → LaneGone n (f s x).tr)
    (l : List α) (s : State) (h : LaneGone n s.tr) : LaneGone n (l.foldl f s).tr := by
  induction l generalizing s with
  | nil => exact h
  | cons x rest ih => exact ih _ (hf s x h)

theorem isolateLane_gone (s : State) (n : Nat) : LaneGone n (s.isolateLane n).tr := by
  rw [isolateLane_eq]
  exact foldl_gone _ (fun t i => setStreamState_fenced_gone t i) _ _ (emptiedLane_gone s n)

theorem foldl_setStreamState_ing (l : List Nat) (s : State) : (l.foldl (fun (u : State) i => u.setStreamState i 6) s).ing = s.ing := by
  induction l generalizing s with
  | nil => rfl
  | cons i rest ih =>
    rw [List.foldl_cons, ih, setStreamState_fenced]
    split
    · rfl
    · rw [dropHeld_ing, State.setN_eq, State.set_ing]

/-- A lane's queue that holds nothing. -/
structure QueueEmpty (q : LaneQueue) : Prop where
  depth : q.depth = 0
  frames : q.frames = 0
  waiting : q.waiting = []

theorem isolateLane_queue (s : State) (n : Nat) : QueueEmpty ((s.isolateLane n).queue n) := by
  unfold State.queue
  rw [isolateLane_eq, foldl_setStreamState_ing]
  exact nth_modify_of _ _ _ _ QueueEmpty ⟨rfl, rfl, rfl⟩ (fun _ => ⟨rfl, rfl, rfl⟩)

end Sys2Proof.Machine
end

section
/-! Proofs about fences: spill leases that expire and hub–lane links that go down (R48, R49, R51). -/

namespace Sys2Proof.Machine

variable {P : List Part} {R : List (Nat × Nat)} {L : List Nat} {s u : State}

/-! ### The automatic reload of a fenced lane -/

/-- The automatic reloads of a lane that began in the last 3,600 s. -/
def State.recentReloads (s : State) (n : Nat) : List Nat := (s.lanePower n).reloads.filter (fun t => s.raw < t + 3600 * tickSec)

/-- What R51 decides about a fenced lane: its LANE_STATE and the events. -/
def State.reloadVerdict (s : State) (n : Nat) : Nat × List Nat :=
  if s.cB 0xF134 1 = false then (1, []) else if (s.recentReloads n).length < s.c 0xF134 2 then (2, []) else (3, [118])

/-- The start of a lane's automatic reload. -/
def State.beginReload (s : State) (n : Nat) : State :=
  (s.setN (0xF130 + n) 0x01 2).modLanePower n (fun p => { p with reloads := s.recentReloads n ++ [s.raw], commanded := false })

theorem autoReload_cases (s : State) (n : Nat) :
    (s.reloadVerdict n = (1, []) ∧ s.autoReload n = s) ∨ (s.reloadVerdict n = (2, []) ∧ s.autoReload n = s.beginReload n) ∨
    (s.reloadVerdict n = (3, [118]) ∧ s.autoReload n = s.laneFailed n) := by
  unfold State.reloadVerdict State.autoReload
  cases s.cB 0xF134 1 with
  | false => exact .inl ⟨rfl, rfl⟩
  | true =>
    by_cases h : (s.recentReloads n).length < s.c 0xF134 2
    · exact .inr (.inl ⟨by rw [if_neg (by decide), if_pos h], by rw [if_neg (by decide)]; exact if_pos h⟩)
    · exact .inr (.inr ⟨by rw [if_neg (by decide), if_neg h], by rw [if_neg (by decide)]; exact if_neg h⟩)

theorem autoReload_effect (s : State) {n : Nat} (mf : Part.fab ∈ P) (mr : (0xF130 + n, 1) ∈ R) :
    Effect P R (s.reloadVerdict n).2 s (s.autoReload n) := by
  have write : ∀ v : Nat, Effect P R [] s (s.setN (0xF130 + n) 1 v) := by
    intro v
    rw [State.setN_eq]
    exact Effect.start.set _ _ _ _ (by omega) (by omega) (.inl mr) (by omega)
  rcases autoReload_cases s n with ⟨hv, e⟩ | ⟨hv, e⟩ | ⟨hv, e⟩ <;> rw [hv, e]
  · exact Effect.start
  · unfold State.beginReload State.modLanePower
    exact (write 2).modFab _ mf
  · exact (write 3).raise 118 n

theorem autoReload_state (s : State) (n : Nat) (h : s.laneState n = 1) : (s.autoReload n).laneState n = (s.reloadVerdict n).1 := by
  unfold State.laneState at h ⊢
  rcases autoReload_cases s n with ⟨hv, e⟩ | ⟨hv, e⟩ | ⟨hv, e⟩ <;> rw [hv, e]
  · exact h
  · rw [State.beginReload, State.modLanePower, State.modFab_num, State.setN_eq, State.num_set]
  · rw [State.laneFailed, State.num_congr (State.raiseEvent_obj _ _ _), State.setN_eq, State.num_set]

theorem autoReload_frame (s : State) (n : Nat) : Frame [.fab] [(0xF130 + n, 1)] s (s.autoReload n) :=
  (autoReload_effect s (by simp) (by simp)).frame

/-! ### Instants that can be released without the lane -/

/-- What is noted of an instant's wait: nothing, or that it waits. -/
theorem markWait_cases (s : State) (ord : Nat) :
    s.markWait ord = s ∨ s.markWait ord = s.modTr (fun t => { t with
      insts := t.insts.map (fun i => if i.ord = ord then { i with waited := true } else i) }) := by
  unfold State.markWait
  cases h : s.inst ord with
  | none => exact .inl rfl
  | some i =>
    dsimp only
    split
    · refine .inr ?_
      have known : s.tr.insts.any (fun i => i.ord = ord) = true := by
        rw [List.any_eq_true]
        exact ⟨i, List.mem_of_find?_eq_some h, by simpa using List.find?_some h⟩
      unfold State.modInst
      simp only [State.modTr, known, if_true]
    · exact .inl rfl

theorem markWait_effect (s : State) (ord : Nat) (m : Part.tr ∈ P) : Effect P R [] s (s.markWait ord) := by
  rcases markWait_cases s ord with e | e <;> rw [e]
  · exact Effect.start
  · exact Effect.start.modTr _ m

theorem markWait_gone {n : Nat} (s : State) (ord : Nat) (h : LaneGone n s.tr) : LaneGone n (s.markWait ord).tr := by
  rcases markWait_cases s ord with e | e <;> rw [e]
  · exact h
  · rw [State.modTr_tr]
    refine ⟨h.slots, fun i hi p hp => ?_⟩
    obtain ⟨j, hj, rfl⟩ := List.mem_map.mp hi
    refine h.partials j hj p ?_
    split at hp <;> exact hp

/-- The waits of several instants are noted. -/
def State.markWaits (s : State) (l : List Nat) : State := l.foldl State.markWait s

theorem markWaits_effect (s : State) (l : List Nat) (m : Part.tr ∈ P) : Effect P R [] s (s.markWaits l) :=
  Effect.foldl _ _ (fun t o _ => markWait_effect t o m) s

/-! ### A lane that is fenced -/

/-- A lane is FENCED, the fence is counted, and what the queue held is counted as lost. -/
def State.countFence (s : State) (n : Nat) : State :=
  ((s.setN (0xF130 + n) 0x01 1).inc32 (0xF130 + n) 0x03).add 64 (0xF130 + n) 0x04 (s.queue n).frames

/-- A lane that is fenced and isolated, before R51 decides about its reload. -/
def State.fencedLane (s : State) (n : Nat) : State := ((s.countFence n).isolateLane n).raiseEvent (32 + 4 * n + 2) n

theorem fenceLane_eq (s : State) (n : Nat) (h : s.laneLive n = true) :
    s.fenceLane n = ((s.fencedLane n).autoReload n).markWaits (((s.fencedLane n).autoReload n).tr.insts.map (·.ord)) := by
  unfold State.fenceLane
  rw [if_neg (by simp [h])]
  rfl

/-- What a fence may write beside the parts of the state. -/
def fenceRegisters (s : State) (n : Nat) : List (Nat × Nat) :=
  [(0xF130 + n, 1), (0xF130 + n, 3), (0xF130 + n, 4)] ++ spectroRegisters ++ streamRegisters s n

theorem countFence_effect (s : State) (n : Nat) (h1 : (0xF130 + n, 1) ∈ R) (h3 : (0xF130 + n, 3) ∈ R) (h4 : (0xF130 + n, 4) ∈ R) :
    Effect P R [] s (s.countFence n) := by
  unfold State.countFence
  rw [State.add_eq, State.inc32_eq, State.setN_eq]
  refine ((Effect.start.set _ _ _ _ ?_ ?_ (.inl h1) ?_).set _ _ _ _ ?_ ?_ (.inl h3) ?_).set _ _ _ _ ?_ ?_ (.inl h4) ?_ <;> omega

theorem countFence_num (s : State) (n : Nat) {b : Nat} (hb : b < 256 := by omega) :
    (s.countFence n).num (0xF130 + n) b = if b = 4 then State.countUp 64 (s.num (0xF130 + n) 4) (s.queue n).frames
      else if b = 3 then State.countUp 32 (s.num (0xF130 + n) 3) 1 else if b = 1 then 1 else s.num (0xF130 + n) b := by
  unfold State.countFence
  simp (disch := omega) only [State.add_eq, State.inc32_eq, State.setN_eq, State.num_set_ite, Nat.reduceEqDiff, if_false]

theorem countFence_streams (s : State) (n m : Nat) : (s.countFence n).laneStreams m = s.laneStreams m := by
  refine laneStreams_congr ?_ m
  unfold State.countFence
  simp only [State.add_eq, State.inc32_eq, State.setN_eq, State.set_cfg]

theorem fencedLane_effect (s : State) {n : Nat} (hn : n < 4) :
    Effect [.ing, .tr, .spec] (fenceRegisters s n) [32 + 4 * n + 2] s (s.fencedLane n) := by
  have isolate := (isolateLane_effect (s.countFence n) hn).mono (Q := [.ing, .tr, .spec]) (U := fenceRegisters s n) (fun _ h => h) (by
    intro r hr
    unfold isolateRegisters streamRegisters at hr
    rw [countFence_streams] at hr
    unfold fenceRegisters
    rw [List.append_assoc]
    exact List.mem_append_right _ hr)
  exact ((countFence_effect s n (by simp [fenceRegisters]) (by simp [fenceRegisters]) (by simp [fenceRegisters])).trans isolate).raise _ n

theorem fencedLane_num (s : State) {n : Nat} (hn : n < 4) {b : Nat} (hb : b < 256 := by omega) :
    (s.fencedLane n).num (0xF130 + n) b = (s.countFence n).num (0xF130 + n) b := by
  unfold State.fencedLane
  rw [State.num_congr (State.raiseEvent_obj _ _ _), isolateLane_num _ hn (by omega) hb]

/-- R51 decides about a fenced lane's reload by what stood before the fence. -/
theorem fencedLane_verdict (s : State) {n : Nat} (hn : n < 4) : (s.fencedLane n).reloadVerdict n = s.reloadVerdict n := by
  have frame := (fencedLane_effect s hn).frame
  have cfg : (s.fencedLane n).cfg = s.cfg := frame.cfg_keep (by simp)
  have fab : (s.fencedLane n).fab = s.fab := frame.fab_keep (by simp)
  have raw : (s.fencedLane n).raw = s.raw := frame.raw_keep (by simp)
  unfold State.reloadVerdict State.recentReloads State.cB State.lanePower
  rw [State.c_congr cfg, State.c_congr cfg, fab, raw]

/-- What a fence may change, and the events it raises. -/
theorem fenceLane_effect (s : State) {n : Nat} (hn : n < 4) (h : s.laneLive n = true) :
    Effect [.fab, .ing, .tr, .spec] (fenceRegisters s n) ((32 + 4 * n + 2) :: (s.reloadVerdict n).2) s (s.fenceLane n) := by
  rw [fenceLane_eq s n h]
  have reload : Effect [.fab, .ing, .tr, .spec] (fenceRegisters s n) (s.reloadVerdict n).2 (s.fencedLane n)
      ((s.fencedLane n).autoReload n) := by
    rw [← fencedLane_verdict s hn]
    exact autoReload_effect _ (by simp) (by simp [fenceRegisters])
  have k := (((fencedLane_effect s hn).mono (by simp) (fun _ h => h)).trans reload).trans
    (markWaits_effect _ (((s.fencedLane n).autoReload n).tr.insts.map (·.ord)) (by simp))
  rwa [List.append_nil] at k

/-- What a lane is after its fence (R49, R51). -/
structure Fenced (n : Nat) (s t : State) : Prop where
  state : t.laneState n = (s.reloadVerdict n).1
  fences : t.num (0xF130 + n) 3 = State.countUp 32 (s.num (0xF130 + n) 3) 1
  lost : t.num (0xF130 + n) 4 = State.countUp 64 (s.num (0xF130 + n) 4) (s.queue n).frames
  queue : QueueEmpty (t.queue n)
  gone : LaneGone n t.tr
  streams : ∀ i ∈ s.laneStreams n, t.streamState i = 6

/-- What the end of a command leaves of a fenced lane. -/
theorem Fenced.frame {n : Nat} {s u t : State} (h : Fenced n s u) (hn : n < 4) (k : Frame [] [] u t) : Fenced n s t := by
  have num : ∀ i b, 0xA803 ≤ i → b < 256 → t.num i b = u.num i b := fun i b hi hb => k.num_keep (by simp) (endRegister_high hi) hb
  refine ⟨(num _ _ (by omega) (by omega)).trans h.state, (num _ _ (by omega) (by omega)).trans h.fences,
    (num _ _ (by omega) (by omega)).trans h.lost, by rw [k.queue_keep (by simp)]; exact h.queue,
    by rw [k.tr_keep (by simp)]; exact h.gone, fun i hi => ?_⟩
  have := laneStreams_lt hi
  unfold laneOf at this
  refine (k.num_keep (by simp) ?_ (by omega)).trans (h.streams i hi)
  simp [endRegister]

theorem fencedLane_streamState (s : State) {n i : Nat} (hi : i ∈ s.laneStreams n) : (s.fencedLane n).streamState i = 6 := by
  unfold State.fencedLane State.streamState
  rw [State.num_congr (State.raiseEvent_obj _ _ _)]
  exact isolateLane_streamState (s.countFence n) (by rwa [countFence_streams])

/-- The register of a stream's state is none of a lane's power and reload. -/
theorem streamState_keep {n i : Nat} (hi : i ∈ s.laneStreams n) (h : Frame P [(0xF130 + n, 1)] s u) :
    u.streamState i = s.streamState i := by
  have := laneStreams_lt hi
  unfold laneOf at this
  refine h.num_keep ?_ ?_ (by omega)
  · simp
  · simp [endRegister]

theorem fencedLane_queue (s : State) (n : Nat) : QueueEmpty ((s.fencedLane n).queue n) := by
  unfold State.fencedLane
  rw [((Effect.start (P := []) (R := [])).raise _ n).frame.queue_keep (by simp)]
  exact isolateLane_queue _ n

theorem fencedLane_gone (s : State) (n : Nat) : LaneGone n (s.fencedLane n).tr := by
  unfold State.fencedLane
  rw [State.raiseEvent_tr]
  exact isolateLane_gone _ n

theorem fenceLane_fenced (s : State) {n : Nat} (hn : n < 4) (h : s.laneLive n = true) : Fenced n s (s.fenceLane n) := by
  rw [fenceLane_eq s n h]
  generalize (((s.fencedLane n).autoReload n).tr.insts.map (·.ord)) = ords
  have reload := autoReload_frame (s.fencedLane n) n
  have waits := (markWaits_effect (P := [.tr]) (R := []) ((s.fencedLane n).autoReload n) ords (by simp)).frame
  have num : ∀ {b}, b ≠ 1 → b < 256 →
      (((s.fencedLane n).autoReload n).markWaits ords).num (0xF130 + n) b = (s.countFence n).num (0xF130 + n) b := by
    intro b h1 hb
    rw [waits.num_keep (by simp) (endRegister_high (by omega)) hb, reload.num_keep (by simpa using h1) (endRegister_high (by omega)) hb,
      fencedLane_num s hn hb]
  refine ⟨?_, ?_, ?_, ?_, ?_, fun i hi => ?_⟩
  · have one : (s.fencedLane n).laneState n = 1 := by
      unfold State.laneState
      rw [fencedLane_num s hn, countFence_num]
      rfl
    unfold State.laneState
    rw [waits.num_keep (by simp) (endRegister_high (by omega)), ← fencedLane_verdict s hn]
    exact autoReload_state _ n one
  · rw [num (by omega) (by omega), countFence_num]
    rfl
  · rw [num (by omega) (by omega), countFence_num]
    rfl
  · rw [waits.queue_keep (by simp), reload.queue_keep (by simp)]
    exact fencedLane_queue s n
  · refine foldl_gone State.markWait (fun t o => markWait_gone t o) ords _ ?_
    rw [reload.tr_keep (by simp)]
    exact fencedLane_gone s n
  · have hi' : i ∈ (s.fencedLane n).laneStreams n := by rwa [laneStreams_congr ((fencedLane_effect s hn).frame.cfg_keep (by simp))]
    have := laneStreams_lt hi
    unfold laneOf at this
    rw [← fencedLane_streamState s hi, ← streamState_keep hi' reload]
    refine waits.num_keep (by simp) ?_ (by omega)
    simp [endRegister]

/-- Settles O8: the lease has run out, so the row is the fence of the lane. -/
theorem spillLeaseExpiryFencesLane : Obligations.SpillLeaseExpiryFencesLane := by
  intro n s hset live on expired recent hrecent next events hverdict
  have verdict : s.reloadVerdict n.val = (next, events) := by rw [hverdict, hrecent]; rfl
  have row : s.leaseExpiry n.val = s.fenceLane n.val := if_pos ⟨live, on, expired⟩
  have effect := fenceLane_effect s n.isLt live
  have fenced := fenceLane_fenced s n.isLt live
  rw [verdict] at effect
  refine Does.of_effect (f := fun s => s.leaseExpiry n.val) rfl hset.raises (by rw [row]; exact effect) ?_ (fun t ht _ => ?_)
  · intro m hm
    have small : events = [] ∨ events = [118] := by
      split_ifs at hverdict <;> cases hverdict <;> simp
    rcases small with rfl | rfl <;> simp at hm <;> omega
  · rw [row] at ht
    obtain ⟨state, fences, lost, ⟨depth, frames, waiting⟩, ⟨slots, partials⟩, streams⟩ := fenced.frame n.isLt ht
    rw [verdict] at state
    exact ⟨state, fences, lost, depth, frames, waiting, slots, partials, streams⟩

/-! ### A link that goes down -/

/-- A link is DOWN, and holds nothing. -/
def State.dropLink (s : State) (n : Nat) : State :=
  (s.modFab (fun x => { x with links := x.links.modify n (fun _ => ⟨[], true⟩) })).raiseEvent (32 + 4 * State.linkLane n) (State.linkLane n)

theorem dropLink_effect (s : State) (n : Nat) (m : Part.fab ∈ P) : Effect P R [32 + 4 * State.linkLane n] s (s.dropLink n) :=
  (Effect.start.modFab _ m).raise _ _

theorem dropLink_down (s : State) {n : Nat} (h : n < s.fab.links.length) : (s.dropLink n).linkDown n = true := by
  unfold State.linkDown State.dropLink
  rw [State.raiseEvent_fab, State.modFab_fab, nth_modify _ _ _ _ h]

theorem linkFails_eq (s : State) (n : Nat) (h : s.linkDown n = false) :
    s.linkFails n = if n < 8 then (s.dropLink n).fenceLane (State.linkLane n) else s.dropLink n := by
  unfold State.linkFails
  rw [if_neg (by simp [h])]
  rfl

theorem linkDownRow_eq (s : State) (n : Nat) (hd : s.linkDown n = false) (on : s.lanesOn = true) :
    s.linkDownRow n = (s.countReplays n 16).linkFails n := by
  unfold State.linkDownRow
  rw [if_neg (by simp [hd, on])]

/-- A link that is DOWN, with its 16 failed replays counted. -/
def State.countedDown (s : State) (n : Nat) : State := (s.countReplays n 16).dropLink n

theorem countedDown_counting (s : State) {n : Nat} (h : n < 12) :
    Counting [.fab] (replayCounters n) [32 + 4 * State.linkLane n] s (s.countedDown n) := by
  have small := linkLane_lt n
  have drop : Counting [.fab] (replayCounters n) [32 + 4 * State.linkLane n] (s.countReplays n 16) (s.countedDown n) :=
    (dropLink_effect _ n (by simp)).counting (List.filter_eq_self.mpr (by simp; omega))
  exact ((countReplays_counting s h 16).mono (by simp) (fun _ hr => hr)).trans drop

theorem countedDown_num (s : State) {n : Nat} (h : n < 12) :
    (s.countedDown n).num (0xF110 + n) 3 = State.countUp 32 (s.num (0xF110 + n) 3) 16 := by
  unfold State.countedDown State.dropLink
  rw [State.num_congr (State.raiseEvent_obj _ _ _), State.modFab_num, countReplays_num s h 16, if_pos rfl]

theorem countedDown_down (s : State) {n : Nat} (h : n < 12) (hn : n < s.fab.links.length) : (s.countedDown n).linkDown n = true :=
  dropLink_down _ (by rwa [countReplays_fab s h])

/-- The registers that the count of failed replays writes are none of a lane. -/
theorem countedDown_num_lane (s : State) {n : Nat} (h : n < 12) (lane b : Nat) (hb : b < 256) :
    (s.countedDown n).num (0xF130 + lane) b = s.num (0xF130 + lane) b := by
  refine (countedDown_counting s h).frame.num_keep (fun hm => ?_) (endRegister_high (by omega)) hb
  rcases List.mem_cons.mp hm with e | hm
  · have := congrArg Prod.fst e
    dsimp only at this
    omega
  · have := index_of_mem_allCounters hm
    omega

/-- The registers of a fence that are no counters of the lane. -/
theorem fenceLane_num (s : State) {n : Nat} (hn : n < 4) (live : s.laneLive n = true) {i b : Nat} (hi : 0xA803 ≤ i) (hne : i ≠ 0xF130 + n)
    (hb : b < 256 := by omega) : (s.fenceLane n).num i b = s.num i b := by
  refine (fenceLane_effect s hn live).frame.num_keep (fun hm => ?_) (endRegister_high hi) hb
  unfold fenceRegisters at hm
  rcases List.mem_append.mp hm with hm | hm
  · rcases List.mem_append.mp hm with hm | hm
    · simp [hne] at hm
    · have := index_of_mem_spectroRegisters hm; dsimp only at this; omega
  · have := index_of_mem_streamRegisters hn hm; dsimp only at this; omega

/-- Without AUTO_RELOAD a fence starts no reload: the fabric's bookkeeping stays. -/
theorem fenceLane_fab_manual (s : State) {n : Nat} (hn : n < 4) (live : s.laneLive n = true) (manual : s.cB 0xF134 1 = false) :
    (s.fenceLane n).fab = s.fab := by
  have cfg : (s.fencedLane n).cfg = s.cfg := (fencedLane_effect s hn).frame.cfg_keep (by simp)
  have none_ : (s.fencedLane n).autoReload n = s.fencedLane n := by
    unfold State.autoReload
    refine if_pos ?_
    unfold State.cB at manual ⊢
    rw [State.c_congr cfg, manual]
    rfl
  rw [fenceLane_eq s n live, (markWaits_effect (P := [.tr]) (R := []) _ _ (by simp)).frame.fab_keep (by simp), none_,
    (fencedLane_effect s hn).frame.fab_keep (by simp)]

theorem linkDownRow_countedDown (s : State) {n : Nat} (h : n < 12) (hd : s.linkDown n = false) (on : s.lanesOn = true) :
    s.linkDownRow n = if n < 8 then (s.countedDown n).fenceLane (State.linkLane n) else s.countedDown n := by
  rw [linkDownRow_eq s n hd on, linkFails_eq _ _ (by rw [State.linkDown, countReplays_fab s h]; exact hd)]
  rfl

/-- What stands of the link after the row, when nothing that followed its failure has touched the link. -/
theorem countedDown_settled {s u t : State} {n : Nat} (h : n < 12) (hn : n < s.fab.links.length) (ht : Frame [] [] u t)
    (hfab : u.fab = (s.countedDown n).fab) (hnum : u.num (0xF110 + n) 3 = (s.countedDown n).num (0xF110 + n) 3) :
    t.linkDown n = true ∧ t.num (0xF110 + n) 3 = State.countUp 32 (s.num (0xF110 + n) 3) 16 := by
  constructor
  · rw [State.linkDown, ht.fab_keep (by simp), hfab]
    exact countedDown_down s h hn
  · rw [ht.num_keep (by simp) (endRegister_high (by omega)), hnum, countedDown_num s h]

section HubLane

variable {s : State} {n : Nat} (h : n < 12) (live : s.laneLive (State.linkLane n) = true) (manual : s.cB 0xF134 1 = false)

theorem countedDown_cfg {s : State} {n : Nat} (h : n < 12) : (s.countedDown n).cfg = s.cfg :=
  (countedDown_counting s h).frame.cfg_keep (by simp)

include h live in
theorem countedDown_live : (s.countedDown n).laneLive (State.linkLane n) = true := by
  unfold State.laneLive State.laneState
  rw [countedDown_num_lane s h _ _ (by omega)]
  exact live

include h manual in
theorem countedDown_manual : (s.countedDown n).cB 0xF134 1 = false := by
  unfold State.cB at manual ⊢
  rw [State.c_congr (countedDown_cfg h), manual]

include h manual in
theorem countedDown_verdict : (s.countedDown n).reloadVerdict (State.linkLane n) = (1, []) := if_pos (countedDown_manual h manual)

include h live manual in
/-- What the failure of a hub–lane link may change, and the events it raises. -/
theorem countedDown_fence_counting :
    Counting [.fab, .ing, .tr, .spec] (replayCounters n ++ fenceRegisters s (State.linkLane n))
      [32 + 4 * State.linkLane n, 32 + 4 * State.linkLane n + 2] s ((s.countedDown n).fenceLane (State.linkLane n)) := by
  have small := linkLane_lt n
  have fence := fenceLane_effect _ small (countedDown_live h live)
  rw [countedDown_verdict h manual] at fence
  have down := (countedDown_counting s h).mono (Q := [.fab, .ing, .tr, .spec])
    (U := replayCounters n ++ fenceRegisters s (State.linkLane n)) (by simp) (fun _ hr => List.mem_append_left _ hr)
  refine down.trans ((fence.counting (List.filter_eq_self.mpr (by simp; omega))).mono (fun _ h => h)
    (fun r hr => List.mem_append_right _ ?_))
  unfold fenceRegisters streamRegisters at hr ⊢
  rwa [laneStreams_congr (countedDown_cfg h)] at hr

end HubLane

/-- Settles O9: a ring hop only goes DOWN; a hub–lane link of a running lane goes DOWN and then fences the lane. -/
theorem linkDownFencesLaneOrBypassesHop : Obligations.LinkDownFencesLaneOrBypassesHop := by
  intro n s hset hd on hn
  have h12 : n.val < 12 := n.isLt
  have hlane := linkLane_lt n.val
  have row := linkDownRow_countedDown s h12 hd on
  constructor
  · intro ring
    rw [if_neg (by omega)] at row
    refine Leaves.of_counting (f := fun s => s.linkDownRow n.val) rfl hset.raises (by rw [row]; exact countedDown_counting s h12)
      (by simp; omega) (fun t ht once => ?_)
    obtain ⟨down, replays⟩ := countedDown_settled h12 hn ht (by rw [row]) (by rw [row])
    exact ⟨down, replays, once _ (by omega) (by omega) (by omega) (by simp [State.linkLane])⟩
  · intro hub live manual
    rw [if_pos hub] at row
    have live' := countedDown_live h12 live
    have effect := (countedDown_fence_counting h12 live manual).mono (Q := [.fab, .ing, .tr, .spec])
      (U := [(0xF110 + n.val, 3), (0xF130 + n.val % 4, 1), (0xF130 + n.val % 4, 3), (0xF130 + n.val % 4, 4)] ++ spectroRegisters ++
        allCounters ++ streamRegisters s (n.val % 4)) (fun _ h => h) (fun r hr => by
      simp only [replayCounters, fenceRegisters, State.linkLane, List.mem_append, List.mem_cons] at hr ⊢
      tauto)
    refine Leaves.of_counting (f := fun s => s.linkDownRow n.val) rfl hset.raises (by rw [row]; exact effect) (by simp; omega)
      (fun t ht once => ?_)
    obtain ⟨down, replays⟩ := countedDown_settled h12 hn ht
      (by rw [row, fenceLane_fab_manual _ hlane live' (countedDown_manual h12 manual)])
      (by rw [row, fenceLane_num _ hlane live' (by omega) (by omega)])
    rw [row] at ht
    obtain ⟨state, -, -, ⟨-, frames, -⟩, -, streams⟩ := (fenceLane_fenced _ hlane live').frame hlane ht
    rw [countedDown_verdict h12 manual] at state
    rw [laneStreams_congr (countedDown_cfg h12)] at streams
    exact ⟨down, replays, once _ (by omega) (by omega) (by omega) (by simp [State.linkLane]),
      once _ (by omega) (by omega) (by omega) (by simp [State.linkLane]), state, frames, streams⟩

end Sys2Proof.Machine
end

section
/-! Proofs about leases, reloads and RELOAD_CMD (R48, R51, R561). -/

namespace Sys2Proof.Machine

variable {P : List Part} {R : List (Nat × Nat)} {L : List Nat} {s u : State}

/-- One more step that raises nothing. -/
theorem Effect.andQuiet {t : State} (h : Effect P R L s u) (k : Effect P R [] u t) : Effect P R L s t := by
  simpa using h.trans k

/-! ### Frames that the unit sends -/

/-- The parts of the state that sending a frame may change. -/
def sendParts : List Part := [.wire, .ing, .egr]

/-- The registers that sending a frame may write: a port's count of the frames it has sent. -/
def sendRegisters : List (Nat × Nat) := (List.range 6).map (fun p => (pCnt p, 0x16))

theorem index_of_mem_sendRegisters {r : Nat × Nat} (h : r ∈ sendRegisters) : r.1 < 0x1400 := by
  obtain ⟨p, hp, rfl⟩ := List.mem_map.mp h
  rw [List.mem_range] at hp
  unfold pCnt
  dsimp only
  omega

/-- A state after frames have been sent. -/
def Sends (s u : State) : Prop := Effect sendParts sendRegisters [] s u

theorem Sends.refl (s : State) : Sends s s := Effect.start

theorem Sends.trans {t : State} (h : Sends s u) (k : Sends u t) : Sends s t := Effect.trans h k

theorem Sends.modPort (h : Sends s u) (p : Nat) (f : Port → Port) : Sends s (u.modPort p f) := Effect.modIng h _ (by simp [sendParts])

theorem Sends.putNeighbour (h : Sends s u) (x : Neighbour) : Sends s (u.putNeighbour x) := Effect.modEgr h _ (by simp [sendParts])

theorem Sends.modStream (h : Sends s u) (id : Nat) (f : Stream → Stream) : Sends s (u.modStream id f) :=
  Effect.modIng h _ (by simp [sendParts])

theorem Sends.takeRctSeq (h : Sends s u) (pair : Nat) : Sends s (u.takeRctSeq pair) := Effect.modIng h _ (by simp [sendParts])

theorem Sends.sendItem (h : Sends s u) {p : Nat} (hp : p < 6) (x : TxItem) : Sends s (u.sendItem p x) := by
  unfold State.sendItem
  split
  · exact h.modPort p _
  · split
    · exact h.modPort p _
    · unfold State.putOnWire
      rw [State.inc64_eq]
      have emitted : Sends s (u.emit x.out) := Effect.emit h _ (by simp [sendParts])
      have counted : Sends s ((u.emit x.out).set (pCnt p) 0x16 0 (.int (State.countUp 64 ((u.emit x.out).num (pCnt p) 0x16) 1))) :=
        Effect.set emitted _ _ _ _ (by omega) (by omega) (.inl (List.mem_map_of_mem (List.mem_range.mpr hp))) (by unfold pCnt; omega)
      exact counted.modPort p _

theorem Sends.foldl {α : Type} (f : State → α → State) (l : List α) (hf : ∀ t, ∀ x ∈ l, Sends t (f t x)) (h : Sends s u) :
    Sends s (l.foldl f u) := h.trans (Effect.foldl f l hf u)

/-- The two ports of a pair that works as a doubly attached node. -/
theorem prpPairOf_lt {p pair : Nat} (h : s.prpPairOf p = some pair) : pair < 2 := by
  unfold State.prpPairOf at h
  split at h
  · rename_i hp
    cases h
    omega
  · cases h

theorem homePort_lt (s : State) {p : Nat} (hp : p < 6) : s.homePort p < 6 := by
  unfold State.homePort
  split
  · rename_i pair h
    have := prpPairOf_lt h
    omega
  · exact hp

theorem Sends.originateFrom (h : Sends s u) {p : Nat} (hp : p < 6) (cls : Nat) (descs : List Nat) (frame : List Byte) :
    Sends s (u.originateFrom p cls descs frame) := by
  unfold State.originateFrom
  split
  · exact h.sendItem hp _
  · rename_i pair hpair
    have := prpPairOf_lt hpair
    refine Sends.foldl _ _ (fun t q hq => (Sends.refl t).sendItem ?_ _) (h.takeRctSeq pair)
    simp only [List.mem_cons, List.not_mem_nil, or_false] at hq
    omega

theorem Sends.originateDecoded (h : Sends s u) {p : Nat} (hp : p < 6) (cls : Nat) (o : Nat → Option (Nat × Nat) → Output) :
    Sends s (u.originateDecoded p cls o) := by
  unfold State.originateDecoded
  split
  · exact h.sendItem hp _
  · rename_i pair hpair
    have := prpPairOf_lt hpair
    refine Sends.foldl _ _ (fun t q hq => (Sends.refl t).sendItem ?_ _) (h.takeRctSeq pair)
    simp only [List.mem_cons, List.not_mem_nil, or_false] at hq
    omega

theorem Sends.slowSend (h : Sends s u) {p : Nat} (hp : p < 6) (frame : List Byte) : Sends s (u.slowSend p frame) :=
  h.originateFrom hp 0 [] _

theorem Sends.askNeighbour (h : Sends s u) {p : Nat} (hp : p < 6) (a : List Byte) : Sends s (u.askNeighbour p a) := by
  unfold State.askNeighbour
  exact Effect.ite h ((h.putNeighbour _).slowSend (homePort_lt u hp) _)

theorem Sends.sendPacket (h : Sends s u) {p : Nat} (hp : p < 6) (a : List Byte) (k : Nat × List Byte) : Sends s (u.sendPacket p a k) := by
  have asked := fun hop => h.askNeighbour (homePort_lt u hp) hop
  unfold State.sendPacket
  dsimp only
  split
  · exact h.slowSend (homePort_lt u hp) _
  · split
    · exact (asked _).putNeighbour _
    · exact asked _

theorem sourcePort_lt {id p : Nat} (h : s.sourcePort id = some p) : p < 6 :=
  List.mem_range.mp (List.mem_of_find?_eq_some h)

theorem Sends.sendStreamCommand (h : Sends s u) (id cmd : Nat) : Sends s (u.sendStreamCommand id cmd) := by
  unfold State.sendStreamCommand
  dsimp only
  split
  · exact h
  · rename_i p hp
    split
    · exact h.originateDecoded (sourcePort_lt hp) _ _
    · exact h.sendPacket (sourcePort_lt hp) _ _

/-- A configuration frame is asked for, or waits for a link. -/
theorem askConfig_sends (s : State) (id : Nat) : Sends s (s.askConfig id) := by
  have start := Sends.refl s
  unfold State.askConfig
  exact Effect.ite (Effect.ite ((start.sendStreamCommand id _).modStream id _) (start.modStream id _)) start

theorem Sends.num (h : Sends s u) {i b : Nat} (hi : 0x1400 ≤ i) (hn : endRegister i b = false) (hb : b < 256 := by omega) :
    u.num i b = s.num i b :=
  h.frame.num_keep (fun hm => by have := index_of_mem_sendRegisters hm; dsimp only at this; omega) hn hb

/-! ### A lane that comes up -/

theorem streamEndRegister (i : Nat) : endRegister (0x4000 + i) 0x1A = false := by simp [endRegister]

/-- A stream that waits for its first frame: its state is written, no held value is left, and its configuration is asked for. -/
theorem setStreamState_waiting (s : State) (i : Nat) :
    s.setStreamState i 1 = if s.streamState i = 1 then s else ((s.setN (0x4000 + i) 0x1A 1).dropHeld i).askConfig i := by
  unfold State.setStreamState
  simp

/-- A FENCED stream goes to WAITING. -/
def State.resumeStream (s : State) (i : Nat) : State := if s.streamState i = 6 then s.setStreamState i 1 else s

theorem streamState_resumed (s : State) (i j : Nat) :
    (s.resumeStream i).streamState j = if j = i ∧ s.streamState i = 6 then 1 else s.streamState j := by
  unfold State.resumeStream
  by_cases h : s.streamState i = 6
  · rw [if_pos h, setStreamState_waiting, if_neg (by omega), State.streamState,
      (askConfig_sends _ i).num (by omega) (streamEndRegister j), dropHeld_num, State.setN_eq]
    by_cases e : j = i
    · rw [if_pos ⟨e, h⟩, e, State.num_set]
    · rw [if_neg (by tauto), State.num_set_ne _ _ (by omega) (by omega) (by omega) (by omega)]
      rfl
  · rw [if_neg h, if_neg (by tauto)]

/-- The FENCED streams of a list go to WAITING, the others stay. -/
theorem foldl_streamState_resumed (l : List Nat) (s : State) (j : Nat) :
    (l.foldl State.resumeStream s).streamState j = if j ∈ l ∧ s.streamState j = 6 then 1 else s.streamState j := by
  induction l generalizing s with
  | nil => simp
  | cons i rest ih =>
    rw [List.foldl_cons, ih, streamState_resumed]
    by_cases e : j = i
    · subst e
      by_cases h : s.streamState j = 6 <;> simp [h]
    · simp [e]

/-- What a lane that comes up may change of its streams. -/
theorem resumeStream_effect (s : State) {i : Nat} (hi : i < 4096) (hp : ∀ p ∈ Part.tr :: sendParts, p ∈ P)
    (hr : ∀ r ∈ (0x4000 + i, 0x1A) :: sendRegisters, r ∈ R) : Effect P R [] s (s.resumeStream i) := by
  unfold State.resumeStream
  refine Effect.ite ?_ Effect.start
  rw [setStreamState_waiting, State.setN_eq]
  have asked : ∀ t : State, Effect P R [] t (t.askConfig i) := fun t =>
    Effect.mono (askConfig_sends t i) (fun p h => hp p (List.mem_cons_of_mem _ h)) (fun r h => hr r (List.mem_cons_of_mem _ h))
  have written : Effect P R [] s (s.set (0x4000 + i) 0x1A 0 (.int (1 : Nat))) :=
    Effect.start.set _ _ _ _ (by omega) (by omega) (.inl (hr _ (by simp))) (by omega)
  exact Effect.ite Effect.start ((written.andQuiet (dropHeld_effect _ i (hp _ (by simp)))).andQuiet (asked _))

theorem resetLaneResonators_effect (s : State) (n : Nat) : Effect [.spec] spectroRegisters [] s (s.resetLaneResonators n) := by
  refine Effect.foldl _ _ (fun t k _ => Effect.ite ?_ Effect.start) s
  exact Effect.foldl _ _ (fun u b _ => resetResonator_effect u _) t

/-- A lane RUNNING with a new lease and trained links, before its streams follow. -/
def State.freshLane (s : State) (n : Nat) : State :=
  (s.setN (0xF130 + n) 0x01 0).modFab (fun x => { x with
    lanes := x.lanes.modify n (fun p => { p with leaseTick := s.raw })
    links := (x.links.modify n (fun _ => ⟨[], false⟩)).modify (4 + n) (fun _ => ⟨[], false⟩) })

/-- What follows a lane's start: its streams, its slots and its resonators. -/
def State.startLane (s : State) (n : Nat) (streams : List Nat) : State :=
  let t := streams.foldl State.resumeStream s
  (t.modLane n (fun l => { l.emptied with base := t.tr.nextOrd })).resetLaneResonators n

theorem laneUp_eq (s : State) (n : Nat) : s.laneUp n = (s.freshLane n).startLane n (s.laneStreams n) := by
  rw [← laneStreams_congr (s := s) (t := s.freshLane n) (by simp only [State.freshLane, State.modFab_cfg, State.setN_eq, State.set_cfg])]
  rfl

/-- The parts of the state that a lane's start may change, beside the fabric. -/
def startParts : List Part := .tr :: .spec :: sendParts

/-- The registers that a lane's start may write, beside LANE_STATE. -/
def startRegisters (s : State) (n : Nat) : List (Nat × Nat) := streamRegisters s n ++ sendRegisters ++ spectroRegisters

theorem index_of_mem_startRegisters {n : Nat} (hn : n < 4) {r : Nat × Nat} (h : r ∈ startRegisters s n) : r.1 < 0x6006 := by
  rcases List.mem_append.mp h with h | h
  · rcases List.mem_append.mp h with h | h
    · have := index_of_mem_streamRegisters hn h; omega
    · have := index_of_mem_sendRegisters h; omega
  · exact (index_of_mem_spectroRegisters h).2

theorem startLane_effect (s t : State) {n : Nat} (hn : n < 4) :
    Effect startParts (startRegisters s n) [] t (t.startLane n (s.laneStreams n)) := by
  unfold State.startLane
  have streams : Effect startParts (startRegisters s n) [] t ((s.laneStreams n).foldl State.resumeStream t) := by
    refine Effect.foldl _ _ (fun u i hi => ?_) t
    have := laneStreams_lt hi
    unfold laneOf at this
    refine resumeStream_effect u (by omega) (by simp +contextual [startParts]) (fun r hr => List.mem_append_left _ ?_)
    rcases List.mem_cons.mp hr with rfl | hr
    · exact List.mem_append_left _ (List.mem_map_of_mem hi)
    · exact List.mem_append_right _ hr
  have slots := Effect.modTr streams (fun x => { x with lanes := modNth x.lanes n (fun l =>
    { l.emptied with base := ((s.laneStreams n).foldl State.resumeStream t).tr.nextOrd }) }) (by simp [startParts])
  exact slots.andQuiet ((resetLaneResonators_effect _ n).mono (by simp [startParts]) (fun r hr => List.mem_append_right _ hr))

/-- The start of a lane leaves the registers of the fabric and of power alone. -/
theorem startLane_num (s t : State) {n : Nat} (hn : n < 4) {i b : Nat} (hi : 0xA803 ≤ i) (hb : b < 256 := by omega) :
    (t.startLane n (s.laneStreams n)).num i b = t.num i b :=
  (startLane_effect s t hn).frame.num_keep (fun hm => by have := index_of_mem_startRegisters hn hm; dsimp only at this; omega)
    (endRegister_high hi) hb

theorem startLane_fab (s t : State) {n : Nat} (hn : n < 4) : (t.startLane n (s.laneStreams n)).fab = t.fab :=
  (startLane_effect s t hn).frame.fab_keep (by simp [startParts, sendParts])

theorem freshLane_effect (s : State) (n : Nat) (mf : Part.fab ∈ P) (mr : (0xF130 + n, 1) ∈ R) : Effect P R [] s (s.freshLane n) := by
  unfold State.freshLane
  rw [State.setN_eq]
  exact (Effect.start.set _ _ _ _ (by omega) (by omega) (.inl mr) (by omega)).modFab _ mf

/-- What a lane that comes up may change. -/
theorem laneUp_effect (s : State) {n : Nat} (hn : n < 4) :
    Effect (.fab :: startParts) ((0xF130 + n, 1) :: startRegisters s n) [] s (s.laneUp n) := by
  rw [laneUp_eq]
  exact (freshLane_effect s n (by simp) (by simp)).andQuiet ((startLane_effect s _ hn).mono (fun _ h => List.mem_cons_of_mem _ h)
    (fun _ h => List.mem_cons_of_mem _ h))

theorem laneUp_num (s : State) {n : Nat} (hn : n < 4) {i b : Nat} (hi : 0xA803 ≤ i) (hb : b < 256 := by omega) :
    (s.laneUp n).num i b = if i = 0xF130 + n ∧ b = 1 then 0 else s.num i b := by
  rw [laneUp_eq, startLane_num s _ hn hi, State.freshLane, State.modFab_num, State.setN_eq]
  split
  · rename_i h
    rw [h.1, h.2, State.num_set]
  · exact State.num_set_ne _ _ (by omega) (by omega) hb (by tauto)

/-- A function of an element that a change of the element keeps. -/
theorem nth_modify_keep {α β : Type} (g : α → β) (f : α → α) (l : List α) (m n : Nat) (d : α) (h : ∀ x, g (f x) = g x) :
    g (nth (l.modify m f) n d) = g (nth l n d) := by
  unfold nth
  rw [List.getD_eq_getElem?_getD, List.getD_eq_getElem?_getD, List.getElem?_modify]
  cases l[n]? with
  | none => rfl
  | some x =>
    by_cases e : m = n
    · simp [e, h]
    · simp [e]

theorem laneUp_commanded (s : State) {n : Nat} (hn : n < 4) : ((s.laneUp n).lanePower n).commanded = (s.lanePower n).commanded := by
  unfold State.lanePower
  rw [laneUp_eq, startLane_fab s _ hn, State.freshLane, State.modFab_fab, State.setN_eq, State.set_fab]
  dsimp only
  exact nth_modify_keep LanePower.commanded _ _ _ _ _ (fun _ => rfl)

theorem nth_modify_ne {α : Type} (f : α → α) (l : List α) (d : α) {m n : Nat} (h : m ≠ n) : nth (l.modify m f) n d = nth l n d := by
  unfold nth
  rw [List.getD_eq_getElem?_getD, List.getElem?_modify_ne _ _ h, List.getD_eq_getElem?_getD]

/-- Both links between a lane that comes up and the hub are trained. -/
theorem laneUp_links (s : State) {n : Nat} (hn : n < 4) : (s.laneUp n).linkDown n = false ∧ (s.laneUp n).linkDown (4 + n) = false := by
  unfold State.linkDown
  rw [laneUp_eq, startLane_fab s _ hn, State.freshLane, State.modFab_fab]
  have trained : ∀ (l : List Link) (m : Nat), (nth (l.modify m (fun _ => ⟨[], false⟩)) m ⟨[], false⟩).down = false := fun l m =>
    nth_modify_of _ l m _ (fun x : Link => x.down = false) rfl (fun _ => rfl)
  refine ⟨?_, trained _ (4 + n)⟩
  dsimp only
  rw [nth_modify_ne _ _ _ (by omega)]
  exact trained _ n

theorem laneUp_streamState (s : State) {n i : Nat} (hn : n < 4) (hi : i ∈ s.laneStreams n) (h : s.streamState i = 6) :
    (s.laneUp n).streamState i = 1 := by
  have := laneStreams_lt hi
  unfold laneOf at this
  have fresh : (s.freshLane n).streamState i = 6 := by
    rw [← h, State.freshLane, State.streamState, State.modFab_num, State.setN_eq]
    exact State.num_set_ne _ _ (by omega) (by omega) (by omega) (by omega)
  have resumed := foldl_streamState_resumed (s.laneStreams n) (s.freshLane n) i
  rw [if_pos ⟨hi, fresh⟩] at resumed
  rw [laneUp_eq, State.startLane, ← resumed, State.streamState]
  rw [(resetLaneResonators_effect _ n).frame.num_keep (fun hm => by have := index_of_mem_spectroRegisters hm; dsimp only at this; omega)
    (streamEndRegister i)]
  rfl

/-! ### The end of a reload -/

/-- What the end of a command leaves in its result RECORD. -/
theorem finishCmd_outcome (s : State) (result code : Nat) (data : List Byte) :
    Outcome result (s.num result 6) code data (s.finishCmd result code data) := by
  unfold State.finishCmd
  simp only [State.setN_eq, State.setBytes_eq]
  refine ⟨?_, ?_, ?_, ?_⟩
  · rw [State.num_set_ne, State.num_set_ne, State.num_set_ne, State.num_set_ne, State.num_set] <;> omega
  · rw [State.num_set_ne, State.num_set] <;> omega
  · rw [State.num_set_ne, State.num_set_ne, State.num_set_ne, State.num_set] <;> omega
  · rw [State.bytes_set_ne, State.bytes_set_ne, State.bytes_set] <;> omega

theorem Frame.bytes_keep (h : Frame P R s u) {i b : Nat} (hm : (i, b) ∉ R) (hn : endRegister i b = false) (hb : b < 256 := by omega) :
    u.bytes i b = s.bytes i b := by
  unfold State.bytes
  rw [h.regs i b 0 hb (by omega) hm hn]

/-- An outcome stands while its result RECORD is left alone. -/
theorem Outcome.keep {result seq code : Nat} {data : List Byte} (h : Outcome result seq code data s) (k : Frame P R s u)
    (hi : 0xA803 ≤ result) (hr : ∀ b, (result, b) ∉ R) : Outcome result seq code data u :=
  ⟨(k.num_keep (hr 1) (endRegister_high hi)).trans h.sequence, (k.num_keep (hr 2) (endRegister_high hi)).trans h.state,
    (k.num_keep (hr 3) (endRegister_high hi)).trans h.code, (k.bytes_keep (hr 4) (endRegister_high hi)).trans h.data⟩

/-- A lane's reload that no command waits for any more. -/
def State.uncommand (s : State) (n : Nat) : State := s.modLanePower n (fun p => { p with commanded := false })

theorem reloadEnds_eq (s : State) (n : Nat) (ok : Bool) :
    s.reloadEnds n ok = if (s.lanePower n).commanded = true ∧ s.num 0xF135 2 = 1
      then (s.uncommand n).finishCmd 0xF135 (if ok then 0 else 0x0050) [] else s.uncommand n := rfl

theorem uncommand_effect (s : State) (n : Nat) (m : Part.fab ∈ P) : Effect P R [] s (s.uncommand n) := by
  unfold State.uncommand State.modLanePower
  exact Effect.start.modFab _ m

@[simp] theorem uncommand_num (s : State) (n i b : Nat) : (s.uncommand n).num i b = s.num i b := by
  unfold State.uncommand State.modLanePower
  rw [State.modFab_num]

theorem reloadEnds_effect (s : State) (n : Nat) (ok : Bool) : Effect [.fab] (outcomeRegisters 0xF135) [] s (s.reloadEnds n ok) := by
  rw [reloadEnds_eq]
  have start := uncommand_effect (P := [.fab]) (R := outcomeRegisters 0xF135) s n (by simp)
  exact Effect.ite (start.andQuiet (finishCmd_effect _ (by decide) (fun _ h => h))) start

theorem reloadEnds_outcome (s : State) (n : Nat) (ok : Bool) (hc : (s.lanePower n).commanded = true) (hb : s.num 0xF135 2 = 1) :
    Outcome 0xF135 (s.num 0xF135 6) (if ok then 0 else 0x0050) [] (s.reloadEnds n ok) := by
  rw [(reloadEnds_eq s n ok).trans (if_pos ⟨hc, hb⟩), ← uncommand_num s n]
  exact finishCmd_outcome _ _ _ _

theorem reloadEnds_num (s : State) (n : Nat) (ok : Bool) {i b : Nat} (hi : 0xA803 ≤ i) (hne : i ≠ 0xF135) (hb : b < 256 := by omega) :
    (s.reloadEnds n ok).num i b = s.num i b :=
  (reloadEnds_effect s n ok).frame.num_keep (by simp [outcomeRegisters, hne]) (endRegister_high hi) hb

theorem reloadEnds_streamState (s : State) (n : Nat) (ok : Bool) (i : Nat) :
    (s.reloadEnds n ok).streamState i = s.streamState i := by
  refine (reloadEnds_effect s n ok).frame.num_keep ?_ (streamEndRegister i)
  simp [outcomeRegisters]

/-- The end of a reload leaves the links alone. -/
theorem reloadEnds_linkDown (s : State) (n : Nat) (ok : Bool) (m : Nat) : (s.reloadEnds n ok).linkDown m = s.linkDown m := by
  have links : (s.reloadEnds n ok).fab.links = s.fab.links := by
    rw [reloadEnds_eq]
    split
    · rw [(finishCmd_effect (P := []) (R := outcomeRegisters 0xF135) (s.uncommand n) (by decide) (fun _ h => h)).frame.fab_keep (by simp)]
      rfl
    · rfl
  unfold State.linkDown
  rw [links]

/-- The pace report of O10: the lease is renewed before its 4,000,000th tick, and not at it or after it. -/
theorem lanePaceReport_renews (n : Fin 4) (s : State) (hset : s.settled) (live : s.laneLive n.val = true) (on : s.lanesOn = true) :
    (s.raw < (s.lanePower n.val).leaseTick + 4000000 →
      Does (.lanePaceReport n) s [.fab] [(0xF130 + n.val, 2)] [] (fun t =>
        t.fab.lanes = s.fab.lanes.modify n.val (fun p => { p with leaseTick := s.raw }) ∧ t.num (0xF130 + n.val) 2 = s.et)) ∧
    ((s.lanePower n.val).leaseTick + 4000000 ≤ s.raw → Does (.lanePaceReport n) s [] [] [] (fun _ => True)) := by
  constructor
  · intro valid
    have row : s.paceReport n.val =
        (s.modLanePower n.val (fun p => { p with leaseTick := s.raw })).set (0xF130 + n.val) 0x02 0 (.int s.et) := by
      unfold State.paceReport
      rw [if_neg (by simp [live, on]; omega), State.setN_eq]
    have effect : Effect [.fab] [(0xF130 + n.val, 2)] [] s (s.paceReport n.val) := by
      rw [row]
      exact (Effect.start.modFab _ (by simp)).set _ _ _ _ (by omega) (by omega) (.inl (by simp)) (by omega)
    refine Does.of_effect (f := fun s => s.paceReport n.val) rfl hset.raises effect (by simp) (fun t ht _ => ?_)
    constructor
    · rw [ht.fab_keep (by simp), row, State.set_fab, State.modLanePower, State.modFab_fab]
    · rw [ht.num_keep (by simp) (endRegister_high (by omega)), row, State.num_set]
  · intro expired
    have row : s.paceReport n.val = s := if_pos (.inr (.inr expired))
    exact Does.of_effect (f := fun s => s.paceReport n.val) rfl hset.raises (by rw [row]; exact Effect.start) (by simp)
      (fun _ _ _ => trivial)

theorem raiseEvent_lanePower (s : State) (source context n : Nat) : (s.raiseEvent source context).lanePower n = s.lanePower n := by
  unfold State.lanePower
  rw [State.raiseEvent_fab]

theorem raiseEvent_linkDown (s : State) (source context n : Nat) : (s.raiseEvent source context).linkDown n = s.linkDown n := by
  unfold State.linkDown
  rw [State.raiseEvent_fab]

/-- The end of a reload that succeeds, as O10 states it. -/
theorem laneReloadComplete_up (n : Fin 4) (s : State) (hset : s.settled) (reloading : s.laneState n.val = 2) (active : s.power = 0) :
    Reaches (.laneReloadComplete n true) s (fun t => t.laneState n.val = 0 ∧ t.linkDown n.val = false ∧ t.linkDown (4 + n.val) = false ∧
      (∀ i ∈ s.laneStreams n.val, s.streamState i = 6 → t.streamState i = 1) ∧
      ((s.lanePower n.val).commanded = true → s.num 0xF135 2 = 1 → Outcome 0xF135 (s.num 0xF135 6) 0 [] t)) := by
  have hn := n.isLt
  have row : s.reloadComplete n.val true = ((s.laneUp n.val).raiseEvent (32 + 4 * n.val + 3) n.val).reloadEnds n.val true := by
    unfold State.reloadComplete
    rw [if_neg (by simp [reloading, active]), if_pos rfl]
  have effect : Effect (.fab :: startParts) ((0xF130 + n.val, 1) :: startRegisters s n.val ++ outcomeRegisters 0xF135)
      [32 + 4 * n.val + 3] s (s.reloadComplete n.val true) := by
    rw [row]
    refine Effect.andQuiet (Effect.raise (Effect.mono (laneUp_effect s hn) (fun _ h => h) ?_) _ _)
      (Effect.mono (reloadEnds_effect _ _ _) ?_ ?_)
    · exact fun r hr => List.mem_append_left _ hr
    · simp
    · exact fun r hr => List.mem_append_right _ hr
  obtain ⟨t, ht, -, -, after⟩ := Does.of_effect (c := .laneReloadComplete n true) (f := fun s => s.reloadComplete n.val true)
    (after := fun t => Frame [] [] (s.reloadComplete n.val true) t) rfl hset.raises effect (by simp; omega) (fun t ht _ => ht)
  refine ⟨t, ht, ?_⟩
  rw [row] at after
  have up : ∀ i b, 0xA803 ≤ i → b < 256 → ((s.laneUp n.val).raiseEvent (32 + 4 * n.val + 3) n.val).num i b =
      if i = 0xF130 + n.val ∧ b = 1 then 0 else s.num i b := by
    intro i b hi hb
    rw [State.num_congr (State.raiseEvent_obj _ _ _), laneUp_num s hn hi hb]
  have links : ∀ m, t.linkDown m = (s.laneUp n.val).linkDown m := by
    intro m
    rw [State.linkDown, after.fab_keep (by simp), ← State.linkDown, reloadEnds_linkDown, raiseEvent_linkDown]
  obtain ⟨first, second⟩ := laneUp_links s hn
  refine ⟨?_, (links _).trans first, (links _).trans second, fun i hi fenced => ?_, fun commanded busy => ?_⟩
  · unfold State.laneState
    rw [after.num_keep (by simp) (endRegister_high (by omega)), reloadEnds_num _ _ _ (by omega) (by omega), up _ _ (by omega) (by omega),
      if_pos ⟨rfl, rfl⟩]
  · rw [State.streamState, after.num_keep (by simp) (streamEndRegister i), ← State.streamState, reloadEnds_streamState, State.streamState,
      State.num_congr (State.raiseEvent_obj _ _ _)]
    exact laneUp_streamState s hn hi fenced
  · have result : ∀ b, b < 256 → ((s.laneUp n.val).raiseEvent (32 + 4 * n.val + 3) n.val).num 0xF135 b = s.num 0xF135 b := by
      intro b hb
      rw [up _ _ (by omega) hb, if_neg (by omega)]
    have ends := reloadEnds_outcome ((s.laneUp n.val).raiseEvent (32 + 4 * n.val + 3) n.val) n.val true
      (by rw [raiseEvent_lanePower, laneUp_commanded s hn, commanded]) (by rw [result 2 (by omega), busy])
    rw [result 6 (by omega)] at ends
    exact ends.keep after (by omega) (by simp)

theorem laneFailed_num (s : State) (n : Nat) {i b : Nat} (hb : b < 256 := by omega) :
    (s.laneFailed n).num i b = if i = 0xF130 + n ∧ b = 1 then 3 else s.num i b := by
  rw [State.laneFailed, State.num_congr (State.raiseEvent_obj _ _ _), State.setN_eq]
  split
  · rename_i h
    rw [h.1, h.2, State.num_set]
  · exact State.num_set_ne _ _ (by omega) (by omega) hb (by tauto)

theorem laneFailed_lanePower (s : State) (n m : Nat) : (s.laneFailed n).lanePower m = s.lanePower m := by
  rw [State.laneFailed, raiseEvent_lanePower]
  unfold State.lanePower
  rw [State.setN_eq, State.set_fab]

/-- The end of a reload that fails, as O10 states it. -/
theorem laneReloadComplete_failed (n : Fin 4) (s : State) (hset : s.settled) (reloading : s.laneState n.val = 2) (active : s.power = 0) :
    Does (.laneReloadComplete n false) s [.fab] ((0xF130 + n.val, 1) :: outcomeRegisters 0xF135) [118] (fun t =>
      t.laneState n.val = 3 ∧
      ((s.lanePower n.val).commanded = true → s.num 0xF135 2 = 1 → Outcome 0xF135 (s.num 0xF135 6) 0x0050 [] t)) := by
  have hn := n.isLt
  have row : s.reloadComplete n.val false = (s.laneFailed n.val).reloadEnds n.val false := by
    unfold State.reloadComplete
    rw [if_neg (by simp [reloading, active]), if_neg (by decide)]
  have effect : Effect [.fab] ((0xF130 + n.val, 1) :: outcomeRegisters 0xF135) [118] s (s.reloadComplete n.val false) := by
    rw [row, State.laneFailed, State.setN_eq]
    have state : Effect [.fab] ((0xF130 + n.val, 1) :: outcomeRegisters 0xF135) [] s (s.set (0xF130 + n.val) 1 0 (.int (3 : Nat))) :=
      Effect.start.set _ _ _ _ (by omega) (by omega) (.inl (by simp)) (by omega)
    exact (state.raise 118 n.val).andQuiet ((reloadEnds_effect _ _ _).mono (fun _ h => h) (fun r hr => List.mem_cons_of_mem _ hr))
  refine Does.of_effect (f := fun s => s.reloadComplete n.val false) rfl hset.raises effect (by simp) (fun t ht _ => ?_)
  rw [row] at ht
  refine ⟨?_, fun commanded busy => ?_⟩
  · unfold State.laneState
    rw [ht.num_keep (by simp) (endRegister_high (by omega)), reloadEnds_num _ _ _ (by omega) (by omega), laneFailed_num,
      if_pos ⟨rfl, rfl⟩]
  · have result : ∀ b, b < 256 → (s.laneFailed n.val).num 0xF135 b = s.num 0xF135 b := by
      intro b hb
      rw [laneFailed_num, if_neg (by omega)]
    have ends := reloadEnds_outcome (s.laneFailed n.val) n.val false (by rw [laneFailed_lanePower]; exact commanded)
      (by rw [result 2 (by omega), busy])
    rw [result 6 (by omega)] at ends
    exact ends.keep ht (by omega) (by simp)

/-! ### RELOAD_CMD -/

@[simp] theorem accepted_obj (s : State) (x : Session) (seq : Nat) : (s.accepted x seq).obj = s.obj := by
  unfold State.accepted State.modSession
  rw [State.modAlm_obj]

theorem accepted_num (s : State) (x : Session) (seq i b : Nat) : (s.accepted x seq).num i b = s.num i b :=
  State.num_congr (accepted_obj s x seq) i b

/-- RELOAD_CMD's object. -/
def reloadField : Field := ⟨0x03, 0x03, "RELOAD_CMD", .u8, .wo, .int 0, .ival 0 3⟩

theorem objAt_reloadCmd : objAt 0xF134 3 = some reloadField := by decide +kernel

theorem resultOf_reloadCmd : resultOf 0xF134 3 = some 0xF135 := by decide +kernel

theorem commandOf_reloadCmd : commandOf 0xF134 = none := by decide +kernel

theorem writeBarred_reloadCmd (s : State) (h : s.restricted = false) : s.writeBarred 0xF134 3 = false := by
  simp [State.writeBarred, State.barred, State.servoObject, h]

theorem inRange_reloadCmd : ∀ lane : Fin 4, inRange reloadField (.int lane.val) = true := by decide

theorem decode_encode_reloadCmd : ∀ lane : Fin 4, decodeValue .u8 (encodeValue .u8 (.int lane.val)) = some (.int lane.val) := by decide

theorem encode_reloadCmd_length : ∀ lane : Fin 4, (encodeValue .u8 (.int lane.val)).length ≤ 12 := by decide

theorem valueInRange_reloadCmd (s : State) (lane : Fin 4) : s.valueInRange 0xF134 3 reloadField (.int lane.val) = true := by
  unfold State.valueInRange
  rw [inRange_reloadCmd]
  rfl

theorem writeEffect_reloadCmd (s : State) (sess lane : Nat) : s.writeEffect sess 0xF134 3 (.int lane) = s.reloadCmd lane := by
  rfl

/-- A command that is taken writes its sequence and BUSY. -/
theorem startCmd_effect (s : State) {result : Nat} (hr : result ≠ 0xA801) (h : ∀ r ∈ busyRegisters result, r ∈ R) :
    Effect P R [] s (s.startCmd result) := by
  unfold State.startCmd
  rw [State.setN_eq, State.setN_eq]
  exact (Effect.start.set _ _ _ _ (by omega) (by omega) (.inl (h _ (by simp [busyRegisters]))) hr).set _ _ _ _ (by omega) (by omega)
    (.inl (h _ (by simp [busyRegisters]))) hr

theorem startCmd_busy (s : State) (result : Nat) : Busy result s (s.startCmd result) := by
  unfold State.startCmd
  rw [State.setN_eq, State.setN_eq]
  exact ⟨State.num_set _ _ _ _, by rw [State.num_set_ne _ _ (by omega) (by omega) (by omega) (by omega), State.num_set]⟩

/-- A command that is taken and completes in one step. -/
theorem quickCmd_effect (s : State) {result code : Nat} {data : List Byte} (hr : result ≠ 0xA801)
    (h : ∀ r ∈ outcomeRegisters result, r ∈ R) : Effect P R [] s (s.quickCmd result code data) :=
  (startCmd_effect s hr (fun r hm => h r (by simp [busyRegisters] at hm; simp [outcomeRegisters]; tauto))).andQuiet
    (finishCmd_effect _ hr h)

theorem quickCmd_outcome (s : State) (result code : Nat) (data : List Byte) :
    Outcome result (s.nextSeq result) code data (s.quickCmd result code data) := by
  rw [← (startCmd_busy s result).sequence]
  exact finishCmd_outcome _ _ _ _

theorem Busy.keep {result : Nat} {t : State} (h : Busy result s u) (k : Frame P R u t) (hi : 0xA803 ≤ result)
    (hr : (result, 2) ∉ R ∧ (result, 6) ∉ R) : Busy result s t :=
  ⟨(k.num_keep hr.1 (endRegister_high hi)).trans h.state, (k.num_keep hr.2 (endRegister_high hi)).trans h.sequence⟩

theorem accepted_nextSeq (s : State) (x : Session) (seq result : Nat) : (s.accepted x seq).nextSeq result = s.nextSeq result := by
  unfold State.nextSeq
  rw [accepted_num]

/-- RELOAD_CMD is performed when its result RECORD is IDLE: the session is answered with the sequence that the command takes. -/
theorem reloadCmd_serves {r : Req} {x : Session} {lane : Fin 4} (hset : s.settled) (hcmd : Commands s r x 0xF134 3 0xF135)
    {after : State → Prop} (hf : Effect (.alm :: P) R L (s.accepted x r.seq) ((s.accepted x r.seq).reloadCmd lane.val))
    (small : ∀ n ∈ L, n < 128) (halm : ((s.accepted x r.seq).reloadCmd lane.val).alm = (s.accepted x r.seq).alm)
    (hafter : ∀ t, Frame [.alm] [] ((s.accepted x r.seq).reloadCmd lane.val) t → after t) :
    Serves (.reloadCmd r lane.val) s r x 0x0A (beBytes 4 (s.nextSeq 0xF135)) id P R L after := by
  have served := Serves.of_row (c := .reloadCmd r lane.val) (g := id) (f := reloadField) (v := lane.val) rfl hset.raises hcmd.toReady
    objAt_reloadCmd (decode_encode_reloadCmd lane) (by decide) hcmd.role hcmd.payload (encode_reloadCmd_length lane)
    (commandChecks_ok commandOf_reloadCmd resultOf_reloadCmd hcmd.idle (by decide) (by decide)) (writeBarred_reloadCmd s hcmd.free)
    (valueInRange_reloadCmd s lane) (writeEffect_reloadCmd _ _ _) hf small (by rw [halm]; rfl) (by rw [halm]; rfl)
    (by rw [halm]; rfl) hafter
  rw [resultOf_reloadCmd] at served
  have answer : s.writeAnswer true 0xF134 3 = beBytes 4 (s.nextSeq 0xF135) := by
    unfold State.writeAnswer
    rw [resultOf_reloadCmd]
  rwa [Option.isSome_some, answer] at served

/-- The reload of a lane begins on command. -/
def State.commandReload (s : State) (n : Nat) : State :=
  ((s.startCmd 0xF135).setN (0xF130 + n) 0x01 2).modLanePower n (fun p => { p with commanded := true })

theorem reloadCmd_started (s : State) {n : Nat} (h : s.laneState n = 1 ∨ s.laneState n = 3) : s.reloadCmd n = s.commandReload n :=
  if_neg (by omega)

theorem reloadCmd_refused (s : State) {n : Nat} (h : s.laneState n = 0 ∨ s.laneState n = 2) : s.reloadCmd n = s.quickCmd 0xF135 0x0003 [] :=
  if_pos h

theorem commandReload_effect (s : State) {n : Nat} (m : Part.fab ∈ P) (hr : ∀ r ∈ (0xF130 + n, 1) :: busyRegisters 0xF135, r ∈ R) :
    Effect P R [] s (s.commandReload n) := by
  unfold State.commandReload State.modLanePower
  rw [State.setN_eq]
  have started : Effect P R [] s (s.startCmd 0xF135) := startCmd_effect s (by decide) (fun r h => hr r (List.mem_cons_of_mem _ h))
  exact (started.set _ _ _ _ (by omega) (by omega) (.inl (hr _ (by simp))) (by omega)).modFab _ m

theorem commandReload_num (s : State) (n : Nat) {i b : Nat} (hb : b < 256 := by omega) :
    (s.commandReload n).num i b = if i = 0xF130 + n ∧ b = 1 then 2 else (s.startCmd 0xF135).num i b := by
  unfold State.commandReload State.modLanePower
  rw [State.modFab_num, State.setN_eq]
  split
  · rename_i h
    rw [h.1, h.2, State.num_set]
  · exact State.num_set_ne _ _ (by omega) (by omega) hb (by tauto)

theorem commandReload_alm (s : State) (n : Nat) : (s.commandReload n).alm = s.alm := by
  unfold State.commandReload State.modLanePower State.startCmd
  simp only [State.modFab_alm, State.setN_eq, State.set_alm]

theorem quickCmd_alm (s : State) (result code : Nat) (data : List Byte) : (s.quickCmd result code data).alm = s.alm := by
  unfold State.quickCmd State.finishCmd State.startCmd
  simp only [State.setN_eq, State.setBytes_eq, State.set_alm]

/-- RELOAD_CMD, as O10 states it, for a FENCED or FAILED lane. -/
theorem reloadCmd_starts_reload (r : Req) (x : Session) (lane : Fin 4) (s : State) (hset : s.settled)
    (hcmd : Commands s r x 0xF134 3 0xF135) (h : s.laneState lane = 1 ∨ s.laneState lane = 3) :
    Serves (.reloadCmd r lane) s r x 0x0A (beBytes 4 (s.nextSeq 0xF135)) id [.fab] ((0xF130 + lane, 1) :: busyRegisters 0xF135) []
      (fun t => Busy 0xF135 s t ∧ t.laneState lane = 2) := by
  have row : (s.accepted x r.seq).reloadCmd lane = (s.accepted x r.seq).commandReload lane := by
    refine reloadCmd_started _ ?_
    unfold State.laneState at h ⊢
    rwa [accepted_num]
  refine reloadCmd_serves hset hcmd ?_ (by simp) ?_ (fun t ht => ?_) <;> rw [row] at *
  · exact commandReload_effect _ (by simp) (fun _ h => h)
  · exact commandReload_alm _ _
  · have busy := startCmd_busy (s.accepted x r.seq) 0xF135
    have keep : Busy 0xF135 s ((s.accepted x r.seq).commandReload lane) := by
      refine ⟨?_, ?_⟩ <;> rw [commandReload_num, if_neg (by omega)]
      · exact busy.state
      · exact busy.sequence.trans (accepted_nextSeq s x r.seq _)
    refine ⟨keep.keep ht (by omega) (by simp), ?_⟩
    unfold State.laneState
    rw [ht.num_keep (by simp) (endRegister_high (by omega)), commandReload_num, if_pos ⟨rfl, rfl⟩]

/-- RELOAD_CMD, as O10 states it, for a lane that is RUNNING or RELOADING. -/
theorem reloadCmd_ends_with_state (r : Req) (x : Session) (lane : Fin 4) (s : State) (hset : s.settled)
    (hcmd : Commands s r x 0xF134 3 0xF135) (h : s.laneState lane = 0 ∨ s.laneState lane = 2) :
    Serves (.reloadCmd r lane) s r x 0x0A (beBytes 4 (s.nextSeq 0xF135)) id [] (outcomeRegisters 0xF135) []
      (Outcome 0xF135 (s.nextSeq 0xF135) 0x0003 []) := by
  have row : (s.accepted x r.seq).reloadCmd lane = (s.accepted x r.seq).quickCmd 0xF135 0x0003 [] := by
    refine reloadCmd_refused _ ?_
    unfold State.laneState at h ⊢
    rwa [accepted_num]
  refine reloadCmd_serves hset hcmd ?_ (by simp) ?_ (fun t ht => ?_) <;> rw [row] at *
  · exact quickCmd_effect _ (by decide) (fun _ h => h)
  · exact quickCmd_alm _ _ _ _
  · rw [← accepted_nextSeq s x r.seq]
    exact (quickCmd_outcome _ _ _ _).keep ht (by omega) (by simp)

/-- Settles O10, row by row: the pace report, the two ends of a reload, and RELOAD_CMD. -/
theorem leaseRenewalAndLaneReload : Obligations.LeaseRenewalAndLaneReload := by
  refine ⟨lanePaceReport_renews, fun n s hset reloading active => ⟨laneReloadComplete_up n s hset reloading active,
    laneReloadComplete_failed n s hset reloading active⟩, fun r x lane s hset hcmd hlane => ⟨fun h => ?_, fun h => ?_⟩⟩
  · exact reloadCmd_starts_reload r x ⟨lane, hlane⟩ s hset hcmd h
  · exact reloadCmd_ends_with_state r x ⟨lane, hlane⟩ s hset hcmd h

end Sys2Proof.Machine
end

section
/-! The refutation of the last clause about the wake from QUIET (R37): it is stated of every settled state, also of one whose ACTIVE_BANK of
the calibration image holds no bank's number. -/

namespace Sys2Proof.Machine

/-- A running unit that is WAKING, whose ACTIVE_BANK of the calibration image (0xD012:01, a U8 of 0 or 1) holds 2,174,463: the subindex of
that "bank's" STATE, 2 + 2,174,463, makes its key in the register store the one of POWER_STATE (0xF140:01):
okey 0xD012 (2 + 2174463) 0 = okey 0xF140 1 0. -/
def strayBank : State :=
  (((State.reset.modBoot (fun b => { b with inReset := false })).setN 0xD000 0x01 9).setN 0xF140 0x01 3).setN 0xD012 0x01 2174463

/-- The same, between two commands. -/
def strayBankSettled : State := State.settle strayBank strayBank

theorem strayBankSettled_power : strayBankSettled.power = 3 := by decide +kernel

/-- The calibration image of the stray bank fails its check, so the bank's STATE becomes INVALID (4), in the place of POWER_STATE. -/
theorem wakeComplete_strayBank : (strayBankSettled.wakeComplete [] [] []).power = 4 ∧
    (∀ r ∈ (strayBankSettled.wakeComplete [] [] []).ev.raised, r.source < 128) ∧
    (strayBankSettled.wakeComplete [] [] []).pending = strayBankSettled.pending := by decide +kernel

/-- Refutes O11: its last clause admits a WAKING unit whose ACTIVE_BANK of the calibration image is out of range, and the wake's check of
that image then overwrites POWER_STATE, which the clause says is ACTIVE. -/
theorem not_quietEntryAndWake : ¬ Obligations.QuietEntryAndWake := by
  unfold Obligations.QuietEntryAndWake
  rintro ⟨-, -, -, wake⟩
  obtain ⟨t, ht, active, -⟩ := wake [] [] [] strayBankSettled (settle_settled strayBank strayBank) strayBankSettled_power
  obtain ⟨power, raises, pending⟩ := wakeComplete_strayBank
  obtain ⟨u, hu, frame, -, -⟩ := complete_effect strayBankSettled (fun s => s.wakeComplete [] [] []) raises pending
  have row : exec (.wakeComplete [] ⟨[], []⟩) strayBankSettled =
      complete strayBankSettled (fun s => s.wakeComplete [] [] []) := rfl
  have same : t = u := by
    rw [row, hu] at ht
    cases ht
    rfl
  have invalid : t.power = 4 := by
    rw [same, ← power]
    exact frame.num 0xF140 0x01
  omega

end Sys2Proof.Machine
end

section
/-! Every outcome of a step is settled (R84, R112, R305, R366, R518, R520). -/

namespace Sys2Proof.Machine

/-- Every state that an outcome answers is settled. -/
def AnswersSettled (o : Host.Outcome State Fault Refusal) : Prop := ∀ t, o = .next t → t.settled

/-- The end of a command leaves a settled state, whatever its effect was. -/
theorem settle_answersSettled (s u : State) : AnswersSettled (.next (s.settle u)) := by
  intro t e
  cases e
  exact settle_settled s u

/-- A command on a job's descriptor completes, or faults and answers no state. -/
theorem descriptor_answersSettled (s u : State) (a : Nat) :
    AnswersSettled (if descriptorInDram a then .next (s.settle u) else .fault .noSuchDramAddress) := by
  split
  · exact settle_answersSettled s u
  · intro t e
    cases e

/-- Every command ends with `settle`, but for the three that name a job's descriptor and may fault instead. -/
theorem exec_answersSettled (c : Instr) (s : State) : AnswersSettled (exec c s) := by
  cases c with
  | compress a => exact descriptor_answersSettled s (s.submit a) a
  | decompress a => exact descriptor_answersSettled s (s.submit a) a
  | compressJobResume a => exact descriptor_answersSettled s (s.resume a) a
  | _ => exact settle_answersSettled s _

/-- Settles O3: a step is a tick or the command at the front of the queue, and each ends with `settle`. -/
theorem everyStepLeavesOutputsSettled : Obligations.EveryStepLeavesOutputsSettled := by
  intro s t h
  unfold step at h
  split at h
  · exact settle_answersSettled s s.tick t h
  · exact exec_answersSettled _ _ t h

end Sys2Proof.Machine
end

section
/-! Requests that read (R55, R59, R64, R65), and what every request's checks come to. -/

namespace Sys2Proof.Machine

variable {s : State} {r : Req} {x : Session} {index sub : Nat} {f : Field}

/-- An operation's object, when none of its aborts applies (R559). -/
theorem checkObject_ok {checks : Field → List (Bool × Abort)} (hobj : objAt index sub = some f) (h15 : s.stage ≠ 15)
    (h : ∀ y ∈ checks f, y.1 = false) : s.checkObject index sub checks = .ok f := by
  unfold State.checkObject
  rw [lookupObject_ok hobj h15]
  dsimp only
  rw [firstAbort_none h]

/-- A request that is answered and changes nothing but its session. -/
theorem Serves.of_answer {c : Instr} {a : Ask} {payload : List Byte}
    (he : Sys2Proof.Machine.exec c s = complete s (fun s => s.request r a)) (h0 : s.ev.raised = []) (hR : Heard s r x)
    (hc : a ≠ .close) (hp : (s.accepted x r.seq).perform x a = (s.accepted x r.seq, .answer payload)) :
    Serves c s r x a.opcode payload id [] [] [] (fun _ => True) :=
  Serves.of_effect he h0 hR hc hp Effect.start (by simp) rfl rfl rfl (fun _ _ => trivial)

/-- READ in a session other than session 0 is the session's request. -/
theorem exec_read (staged : Bool) (h : r.session ≠ 0) :
    exec (.read r index sub staged) s = complete s (fun s => s.request r (.read index sub staged)) := by
  change complete s (fun s => s.readRequest r index sub staged) = _
  unfold complete State.readRequest
  simp only [if_neg h]

/-- The answer to a READ that no abort stops (R64). -/
theorem readReply_ok {staged : Bool} {v : List Byte} (hobj : objAt index sub = some f) (h15 : s.stage ≠ 15)
    (hform : State.wrongForm f false = false) (hwo : f.acc ≠ .wo) (hst : staged = true → f.acc = .st)
    (hrole : max (if staged then 2 else 0) (State.rangeRole true index) ≤ x.role)
    (hv : v = s.readBytes x.id index sub 0 f staged) (hlen : 4 + v.length ≤ x.maxPayload)
    (hb : s.barred false index sub = false) (hn : s.notHeld x.id index sub = false) :
    s.readReply x index sub staged = .answer ([byte f.ty.code, 0] ++ beBytes 2 v.length ++ v) := by
  subst hv
  unfold State.readReply
  rw [checkObject_ok hobj h15]
  intro y hy
  simp only [State.readChecks, List.cons_append, List.nil_append, List.mem_cons, List.not_mem_nil, or_false] at hy
  rcases hy with rfl | rfl | rfl | rfl
  · cases staged <;> simp [hform, hwo, hst]
  · simpa using hrole
  · simpa using hlen
  · simp [hb, hn]

/-- The answer to a BLOCK_READ that no abort stops (R65). -/
theorem blockReadReply_ok {n w first count : Nat} (hobj : objAt index sub = some f) (h15 : s.stage ≠ 15) (hty : f.ty = .arr n w)
    (hwo : f.acc ≠ .wo) (hrole : State.rangeRole false index ≤ x.role) (hlen : 8 + count * w ≤ x.maxPayload) (hin : first + count ≤ n)
    (hb : s.barred false index sub = false) (hn : s.notHeld x.id index sub = false) :
    s.blockReadReply x index sub first count false = .answer (beBytes 2 index ++ [byte sub, 0] ++ beBytes 2 first ++ beBytes 2 count ++
      ((List.range count).map (fun i => s.readBytes x.id index sub (first + i) f false)).flatten) := by
  unfold State.blockReadReply
  rw [checkObject_ok hobj h15]
  intro y hy
  simp only [State.readChecks, List.cons_append, List.nil_append, List.mem_cons, List.not_mem_nil, or_false] at hy
  rcases hy with rfl | rfl | rfl | rfl | rfl
  · simp [State.wrongForm, hty, hwo]
  · simpa using hrole
  · simpa [State.arraySize, hty] using hlen
  · simpa [State.arraySize, hty] using hin
  · simp [hb, hn]

/-! ### Arrays and the roles of index ranges -/

/-- A field is an ARRAY. -/
def Field.isArray (f : Field) : Bool :=
  match f.ty with
  | .arr _ _ => true
  | _ => false

theorem localField_ty (index sub : Nat) (f : Field) : (localField index sub f).ty = f.ty := by
  unfold localField
  repeat' split
  all_goals rfl

/-- An object's type is that of a field at its index, or a RECORD's count of subindices, which is no ARRAY (R53). -/
theorem objAt_array (h : objAt index sub = some f) (ha : f.isArray = true) : ∃ g ∈ fieldsAt index, g.isArray = true := by
  unfold objAt fieldIn at h
  split at h
  · rename_i g hg
    cases h
    refine ⟨g, List.mem_of_find?_eq_some hg, ?_⟩
    unfold Field.isArray at ha ⊢
    rwa [localField_ty] at ha
  · split at h
    · cases h
      unfold Field.isArray at ha
      rw [localField_ty] at ha
      cases ha
    · cases h

theorem no_array_among_results : ∀ g ∈ resultFields, g.isArray = false := by decide

theorem no_array_on_page_11 : ∀ g ∈ objs11.flatMap (·.fields), g.isArray = false := by decide

/-- No object of the server's own page 0x11xx is an ARRAY. -/
theorem page_11_of_array (h : objAt index sub = some f) (ha : f.isArray = true) : ¬ (0x1100 ≤ index ∧ index ≤ 0x11FF) := by
  intro hp
  obtain ⟨g, hg, hga⟩ := objAt_array h ha
  have page : objPage index = objs11 := by
    have : index / 256 = 0x11 := by omega
    simp only [objPage, this]
  unfold fieldsAt at hg
  split at hg
  · rw [no_array_among_results g hg] at hga
    cases hga
  · rw [page] at hg
    obtain ⟨gr, hgr, hg⟩ := List.mem_flatMap.mp hg
    rw [no_array_on_page_11 g (List.mem_flatMap.mpr ⟨gr, List.mem_of_mem_filter hgr, hg⟩)] at hga
    cases hga

/-- Only the page 0x11xx asks another role of a READ than of other requests (R59). -/
theorem rangeRole_reading (h : ¬ (0x1100 ≤ index ∧ index ≤ 0x11FF)) : State.rangeRole false index = State.rangeRole true index := by
  unfold State.rangeRole
  congr 1
  simp only [Bool.not_false, Bool.not_true, Bool.false_eq_true, and_true, and_false, false_or, eq_iff_iff]
  tauto

/-- Settles O13, request by request: no abort applies, and the reply leaves the state with the SEQUENCE taken. -/
theorem readReturnsValueAndChangesNothing : Obligations.ReadReturnsValueAndChangesNothing := by
  intro r x index sub f s u hset hR hs hu hobj hwo hrole hb hn
  have h15 : u.stage ≠ 15 := hu ▸ hR.normal
  refine ⟨fun v hform hv hlen => ?_, fun v hform hst h2 hv hlen => ?_, fun n w first count hty hin hlen => ?_⟩
  · refine Serves.of_answer (exec_read false hs) hset.raises hR.toHeard (by simp) ?_
    rw [← hu]
    exact congrArg (Prod.mk u) (readReply_ok hobj h15 hform hwo (by simp) (by simpa using hrole) hv hlen hb hn)
  · refine Serves.of_answer (exec_read true hs) hset.raises hR.toHeard (by simp) ?_
    have hv' : v = u.readBytes x.id index sub 0 f true := by rw [hv, hu]; rfl
    rw [← hu]
    exact congrArg (Prod.mk u) (readReply_ok hobj h15 hform hwo (fun _ => hst) (by simp; omega) hv' hlen hb hn)
  · refine Serves.of_answer (a := .blockRead index sub first count false) rfl hset.raises hR.toHeard (by simp) ?_
    have array : f.isArray = true := by simp [Field.isArray, hty]
    rw [← rangeRole_reading (page_11_of_array hobj array)] at hrole
    rw [← hu]
    exact congrArg (Prod.mk u) (blockReadReply_ok hobj h15 hty hwo hrole hlen hin hb hn)

end Sys2Proof.Machine
end

section
/-! Requests that write, and the order of their aborts (R55, R59, R64, R68, R559). -/

namespace Sys2Proof.Machine

variable {s : State} {r : Req} {x : Session} {index sub : Nat} {f : Field}

/-! ### Writes that no abort stops -/

/-- A write that no abort stops is performed at once, and its answer is sent (R55, R64). -/
theorem request_write {v : Value} {value : List Byte} {u : State} {command : Bool} (hR : Ready s r x) (hu : u = s.accepted x r.seq)
    (ha : Admitted u x index sub f v) (hdec : decodeValue f.ty value = some v) (hlen : 4 + value.length ≤ x.maxPayload)
    (hcmd : command = true → (resultOf index sub).isSome = true) :
    s.request r (.write command index sub f.ty.code value) =
      (u.writeEffect x.id index sub v).sendPdu x.transport (some x.keyOut)
        ⟨if command then 0x0A else 0x02, 1, x.id, r.seq, u.writeAnswer command index sub⟩ := by
  subst hu
  have form : (State.wrongForm f false || f.acc == .ro || f.acc == .st) = false := by
    rw [ha.form]
    rcases ha.access with h | h <;> rw [h] <;> rfl
  have reply := writeReply_ok (s := s.accepted x r.seq) (x := x) (command := command) ha.object hR.normal form hcmd ha.role rfl hdec
    hlen ha.checks ha.usable ha.range
  have performed : (s.accepted x r.seq).perform x (.write command index sub f.ty.code value) = _ := reply
  rw [request_performed hR.toHeard _ (by simp), performed]
  rfl

/-- Settles O14: the three rows are the same request, a COMMAND with its own opcode and answer. -/
theorem writeTakesEffectAtOnce : Obligations.WriteTakesEffectAtOnce := by
  intro r x index sub f v value s u hR hu ha hdec hlen
  have written := request_write (command := false) hR hu ha hdec hlen (by simp)
  refine ⟨congrArg (fun t => Host.Outcome.next (s.settle t)) written, ?_, fun result hresult => ?_⟩
  · have code : ((objAt index sub).map (fun (f : Field) => f.ty.code)).getD 0 = f.ty.code := by rw [ha.object]; rfl
    rw [← code] at written
    exact congrArg (fun t => Host.Outcome.next (s.settle t)) written
  · have commanded := request_write (command := true) hR hu ha hdec hlen (by simp [hresult])
    have answer : u.writeAnswer true index sub = beBytes 4 (u.nextSeq result) := by
      unfold State.writeAnswer
      rw [hresult]
    rw [answer] at commanded
    exact congrArg (fun t => Host.Outcome.next (s.settle t)) commanded

/-! ### The first abort that applies -/

/-- An abort that does not apply gives way to the next. -/
theorem firstAbort_skip {a : Abort} {b : Bool} {l : List (Bool × Abort)} (h : b = false) : firstAbort ((b, a) :: l) = firstAbort l := by
  subst h
  rfl

/-- An abort that applies is the first of those that follow it. -/
theorem firstAbort_take {a : Abort} {b : Bool} {l : List (Bool × Abort)} (h : b = true) : firstAbort ((b, a) :: l) = some a := by
  subst h
  rfl

/-- Aborts that do not apply give way to those that follow them. -/
theorem firstAbort_append {l k : List (Bool × Abort)} (h : ∀ y ∈ l, y.1 = false) : firstAbort (l ++ k) = firstAbort k := by
  unfold firstAbort
  rw [List.find?_append, List.find?_eq_none.mpr (fun y hy => by rw [h y hy]; decide)]
  rfl

theorem lookupObject_noObject (h : fieldsAt index = []) : s.lookupObject index sub = .error .noObject := by
  unfold State.lookupObject
  rw [if_pos (.inr (by rw [h]; rfl))]

theorem lookupObject_noSubindex (h : fieldsAt index ≠ []) (ho : objAt index sub = none) (h15 : s.stage ≠ 15) :
    s.lookupObject index sub = .error .noSubindex := by
  unfold State.lookupObject
  rw [if_neg (by simp [h15, h]), ho]

/-- An operation whose object does not exist. -/
theorem checkObject_missing {checks : Field → List (Bool × Abort)} {a : Abort} (h : s.lookupObject index sub = .error a) :
    s.checkObject index sub checks = .error a := by
  unfold State.checkObject
  rw [h]

/-- The first abort of an operation on an object that exists. -/
theorem checkObject_abort {checks : Field → List (Bool × Abort)} {a : Abort} (hobj : objAt index sub = some f) (h15 : s.stage ≠ 15)
    (h : firstAbort (checks f) = some a) : s.checkObject index sub checks = .error a := by
  unfold State.checkObject
  rw [lookupObject_ok hobj h15]
  dsimp only
  rw [h]

/-! ### Aborts of a WRITE -/

/-- The aborts of a WRITE of an object, in the order of R559. -/
def State.writeChecks (s : State) (x : Session) (index sub typeCode : Nat) (value : List Byte) (f : Field) : List (Bool × Abort) :=
  [(State.wrongForm f false || f.acc == .ro || f.acc == .st || (s.stage == 15 && index == 0xB100) ||
    (false && (resultOf index sub).isNone), .access),
   (decide (x.role < State.writeRole index sub), .role),
   (typeCode != f.ty.code || (decodeValue f.ty value).isNone, .type),
   (decide (x.maxPayload < 4 + value.length), .length)] ++ s.commandChecks x.id index sub ++
  [(s.writeBarred index sub, .state),
   (!(((decodeValue f.ty value).map (s.valueInRange index sub f)).getD false), .range)]

theorem writeReply_abort {typeCode : Nat} {value : List Byte} {a : Abort}
    (h : s.checkObject index sub (s.writeChecks x index sub typeCode value) = .error a) :
    s.writeReply x false index sub typeCode value = (s, .abort a index sub 0) := by
  have e : s.checkObject index sub (fun f => s.writeChecks x index sub typeCode value f) = .error a := h
  unfold State.writeChecks at e
  rw [State.writeReply.eq_def, e]

/-- A WRITE that an abort stops. -/
theorem write_aborts {typeCode : Nat} {value : List Byte} {a : Abort} (hset : s.settled) (hR : Ready s r x)
    (h : (s.accepted x r.seq).checkObject index sub ((s.accepted x r.seq).writeChecks x index sub typeCode value) = .error a) :
    Aborts (.write r index sub typeCode value) s r x 0x02 a.code index sub 0 :=
  Aborts.of_perform (a := .write false index sub typeCode value) rfl hset.raises hR.toHeard (by simp) (writeReply_abort h)

theorem write_access (hacc : f.acc = .ro ∨ f.acc = .st ∨ State.wrongForm f false = true) (typeCode : Nat) (value : List Byte) :
    firstAbort (s.writeChecks x index sub typeCode value f) = some .access := by
  refine firstAbort_take ?_
  rcases hacc with h | h | h <;> simp [h]

section Accessible

variable (hacc : f.acc = .rw ∨ f.acc = .wo) (hform : State.wrongForm f false = false) (h15 : s.stage ≠ 15)
include hacc hform h15

theorem write_access_passed : (State.wrongForm f false || f.acc == .ro || f.acc == .st || (s.stage == 15 && index == 0xB100) ||
    (false && (resultOf index sub).isNone)) = false := by
  rcases hacc with h | h <;> simp [h, hform, h15]

theorem write_role (hrole : x.role < State.writeRole index sub) (typeCode : Nat) (value : List Byte) :
    firstAbort (s.writeChecks x index sub typeCode value f) = some .role := by
  refine (firstAbort_skip (write_access_passed hacc hform h15)).trans (firstAbort_take ?_)
  simpa using hrole

theorem write_type {typeCode : Nat} {value : List Byte} (hrole : State.writeRole index sub ≤ x.role)
    (hty : typeCode ≠ f.ty.code ∨ decodeValue f.ty value = none) :
    firstAbort (s.writeChecks x index sub typeCode value f) = some .type := by
  refine (firstAbort_skip (write_access_passed hacc hform h15)).trans ((firstAbort_skip ?_).trans (firstAbort_take ?_))
  · simpa using hrole
  · rcases hty with h | h <;> simp [h]

theorem write_range {typeCode : Nat} {value : List Byte} {v : Value} (hrole : State.writeRole index sub ≤ x.role)
    (hty : typeCode = f.ty.code) (hdec : decodeValue f.ty value = some v) (hlen : 4 + value.length ≤ x.maxPayload)
    (hchk : ∀ y ∈ s.commandChecks x.id index sub, y.1 = false) (hst : s.writeBarred index sub = false)
    (hrng : s.valueInRange index sub f v = false) :
    firstAbort (s.writeChecks x index sub typeCode value f) = some .range := by
  unfold State.writeChecks
  rw [firstAbort_append, firstAbort_skip hst]
  · exact firstAbort_take (by simp [hdec, hrng])
  · intro y hy
    simp only [List.cons_append, List.nil_append, List.mem_cons] at hy
    rcases hy with rfl | rfl | rfl | rfl | hy
    · exact write_access_passed hacc hform h15
    · simpa using hrole
    · simp [hty, hdec]
    · simpa using hlen
    · exact hchk y hy

end Accessible

/-- Settles O15, abort by abort in the order of R559. -/
theorem abortsComeInOrder : Obligations.AbortsComeInOrder := by
  intro r x s hset hR
  have h15 : (s.accepted x r.seq).stage ≠ 15 := hR.normal
  refine ⟨fun opcode => Aborts.of_perform (a := .unknown opcode) (b := .opcode) rfl hset.raises hR.toHeard (by simp) rfl,
    fun index sub typeCode value => ⟨fun hnone => ?_, fun hsome hnone => ?_, fun f hobj => ⟨fun hacc => ?_, fun hacc hform => ⟨fun hrole => ?_,
      fun hrole => ⟨fun hty => ?_, fun v hty hdec hlen hchk hst hrng => ?_⟩⟩⟩⟩⟩
  · exact write_aborts (a := .noObject) hset hR (checkObject_missing (lookupObject_noObject hnone))
  · exact write_aborts (a := .noSubindex) hset hR (checkObject_missing (lookupObject_noSubindex hsome hnone h15))
  · exact write_aborts (a := .access) hset hR (checkObject_abort hobj h15 (write_access hacc _ _))
  · exact write_aborts (a := .role) hset hR (checkObject_abort hobj h15 (write_role hacc hform h15 hrole _ _))
  · exact write_aborts (a := .type) hset hR (checkObject_abort hobj h15 (write_type hacc hform h15 hrole hty))
  · exact write_aborts (a := .range) hset hR (checkObject_abort hobj h15 (write_range hacc hform h15 hrole hty hdec hlen hchk hst hrng))

end Sys2Proof.Machine
end

section
/-! Result RECORDs (R77–R79): none of their registers belongs to the end of a command. -/

namespace Sys2Proof.Machine

variable {P : List Part} {R : List (Nat × Nat)} {L : List Nat} {s u : State}

/-- An index that has registers which the end of any command may change. -/
def endIndex (i : Nat) : Bool :=
  i == 0xA000 || i == 0xA800 || i == 0xA801 || i == 0xA802 || (decide (0x6201 ≤ i) && decide (i ≤ 0x6204)) ||
  (decide (0x7100 ≤ i) && decide (i ≤ 0x710F))

theorem endRegister_of_index {i : Nat} (h : endIndex i = false) (b : Nat) : endRegister i b = false := by
  simp only [endIndex, Bool.or_eq_false_iff] at h
  obtain ⟨⟨⟨⟨⟨h1, h2⟩, h3⟩, h4⟩, h5⟩, h6⟩ := h
  simp only [endRegister, h1, h2, h3, h4, h5, h6, Bool.false_and, Bool.or_false]

/-- An outcome stands while its result RECORD is left alone. -/
theorem Outcome.kept {result seq code : Nat} {data : List Byte} (h : Outcome result seq code data s) (k : Frame P R s u)
    (hi : endIndex result = false) (hr : ∀ b, (result, b) ∉ R) : Outcome result seq code data u :=
  ⟨(k.num_keep (hr 1) (endRegister_of_index hi 1)).trans h.sequence, (k.num_keep (hr 2) (endRegister_of_index hi 2)).trans h.state,
    (k.num_keep (hr 3) (endRegister_of_index hi 3)).trans h.code, (k.bytes_keep (hr 4) (endRegister_of_index hi 4)).trans h.data⟩

/-- A command in progress stays so while its result RECORD is left alone. -/
theorem Busy.kept {result : Nat} {t : State} (h : Busy result s u) (k : Frame P R u t) (hi : endIndex result = false)
    (hr : ∀ b, (result, b) ∉ R) : Busy result s t :=
  ⟨(k.num_keep (hr 2) (endRegister_of_index hi 2)).trans h.state, (k.num_keep (hr 6) (endRegister_of_index hi 6)).trans h.sequence⟩

theorem Busy.of_accepted {x : Session} {seq result : Nat} (h : Busy result (s.accepted x seq) u) : Busy result s u :=
  ⟨h.state, h.sequence.trans (accepted_nextSeq s x seq result)⟩

/-- A result RECORD stands in the table of commands. -/
theorem mem_resultTable {result : Nat} (h : (commandOf result).isSome = true) : ∃ e ∈ resultTable, e.1 = result := by
  unfold commandOf at h
  rw [Option.isSome_map, List.find?_isSome] at h
  obtain ⟨e, he, k⟩ := h
  exact ⟨e, he, by simpa using k⟩

theorem resultTable_endIndex : ∀ e ∈ resultTable, endIndex e.1 = false := by decide

theorem endIndex_result {result : Nat} (h : (commandOf result).isSome = true) : endIndex result = false := by
  obtain ⟨e, he, rfl⟩ := mem_resultTable h
  exact resultTable_endIndex e he

theorem not_counts_of_endIndex {i : Nat} (h : endIndex i = false) : i ≠ 0xA801 := by
  rintro rfl
  cases h

/-! ### Staged and committed configurations -/

theorem Effect.setStaged (h : Effect P R L s u) (st : Store) (m : Part.staged ∈ P) : Effect P R L s ({ u with staged := st } : State) := by
  refine ⟨h.frame.andPart .staged m (fun q n => ?_) rfl rfl, h.counts, h.raised⟩
  cases q
  case staged => exact absurd rfl n
  all_goals simp [Part.same]

theorem Frame.staged_keep (h : Frame P R s u) (hm : Part.staged ∉ P) : u.staged = s.staged := h.parts .staged hm

/-- What the end of staging may change. -/
theorem unstage_effect (s : State) (mp : Part.staged ∈ P) (mr : (0x1200, 2) ∈ R) : Effect P R [] s s.unstage := by
  unfold State.unstage
  rw [State.setN_eq]
  exact (Effect.start.setStaged s.cfg mp).set _ _ _ _ (by omega) (by omega) (.inl mr) (by omega)

@[simp] theorem unstage_staged (s : State) : s.unstage.staged = s.cfg := (rfl)

@[simp] theorem unstage_alm (s : State) : s.unstage.alm = s.alm := (rfl)

theorem unstage_owner (s : State) : s.unstage.num 0x1200 2 = 0 := by
  unfold State.unstage
  rw [State.setN_eq, State.num_set]

end Sys2Proof.Machine
end

section
/-! Staging (R72, R76, R85). -/

namespace Sys2Proof.Machine

variable {s : State} {r : Req} {x : Session} {index sub : Nat} {f : Field}

/-! ### Replies -/

/-- An object is usable outside RESTRICTED, unless it is the witness's (R68, R492). -/
theorem barred_free (h : s.restricted = false) (write : Bool) (hw : index ≠ 0xC100) : s.barred write index sub = false := by
  simp [State.barred, h, hw]

/-- The answer to a STAGE that no abort stops (R72). -/
theorem stageReply_ok {v : Value} {value : List Byte} (hobj : objAt index sub = some f) (h15 : s.stage ≠ 15)
    (hacc : f.acc = .st) (hform : State.wrongForm f false = false) (hrole : State.stageRole index sub ≤ x.role)
    (hdec : decodeValue f.ty value = some v) (hlen : 4 + value.length ≤ x.maxPayload) (hbusy : s.stagingBusy = false)
    (hlock : s.stagingLocked x.id = false) (hb : s.barred true index sub = false) (hrng : inRange f v = true) :
    s.stageReply x index sub f.ty.code value = (s.putStaged x.id index sub 0 [v], .answer []) := by
  unfold State.stageReply
  rw [checkObject_ok hobj h15]
  · dsimp only
    rw [hdec]
    rfl
  · intro y hy
    simp only [List.mem_cons, List.not_mem_nil, or_false] at hy
    rcases hy with rfl | rfl | rfl | rfl | rfl | rfl | rfl | rfl
    · simp [hform, hacc]
    · simpa using hrole
    · simp [hdec]
    · simpa using hlen
    · exact hbusy
    · exact hlock
    · simp [hb, h15]
    · simp [hdec, hrng]

/-- A STAGE while another session owns staging (R72, R559). -/
theorem stageReply_locked {value : List Byte} (hobj : objAt index sub = some f) (h15 : s.stage ≠ 15)
    (hacc : f.acc = .st) (hform : State.wrongForm f false = false) (hrole : State.stageRole index sub ≤ x.role)
    (hdec : (decodeValue f.ty value).isSome = true) (hlen : 4 + value.length ≤ x.maxPayload) (hbusy : s.stagingBusy = false)
    (hlock : s.stagingLocked x.id = true) :
    s.stageReply x index sub f.ty.code value = (s, .abort .locked index sub 0) := by
  unfold State.stageReply
  rw [checkObject_abort (a := .locked) hobj h15]
  rw [firstAbort_skip (by simp [hform, hacc]), firstAbort_skip (by simpa using hrole),
    firstAbort_skip (by simp [Option.isNone_eq_false_iff, hdec]), firstAbort_skip (by simpa using hlen), firstAbort_skip hbusy,
    firstAbort_take hlock]

/-- The answer to a staged BLOCK_WRITE that no abort stops (R65, R72). -/
theorem blockWriteReply_staged {first count n w : Nat} {elements : List Byte} (hobj : objAt index sub = some f) (h15 : s.stage ≠ 15)
    (hacc : f.acc = .st) (hty : f.ty = .arr n w) (hrole : State.stageRole index sub ≤ x.role) (hsize : elements.length = count * w)
    (hlen : 8 + elements.length ≤ x.maxPayload) (hin : first + count ≤ n) (hbusy : s.stagingBusy = false)
    (hlock : s.stagingLocked x.id = false) (hload : State.downloadType index sub = none) (hb : s.barred true index sub = false)
    (hok : (chunks w count elements).all (State.elementOk index sub) = true) :
    s.blockWriteReply x index sub first count elements true =
      (s.putStaged x.id index sub first ((chunks w count elements).map .bytes), .answer []) := by
  have size : State.arraySize f = (n, w) := by simp [State.arraySize, hty]
  unfold State.blockWriteReply
  dsimp only
  rw [checkObject_ok hobj h15]
  · simp only [hload, size]
  · intro y hy
    simp only [size, hload, List.mem_cons, List.not_mem_nil, or_false] at hy
    rcases hy with rfl | rfl | rfl | rfl | rfl | rfl | rfl | rfl | rfl
    · simp [State.wrongForm, hty, hacc]
    · simpa using hrole
    · simp [hsize]
    · simpa using hlen
    · simpa using hin
    · exact hbusy
    · exact hlock
    · simp [hb, h15]
    · simp [hok]

/-- DISCARD when no other session owns staging (R76). -/
theorem discardReply_ok (hrole : 2 ≤ x.role) (h15 : s.stage ≠ 15) (hfree : s.restricted = false) (hbusy : s.stagingBusy = false)
    (hlock : s.stagingLocked x.id = false) :
    s.discardReply x = (if s.stageOwner = 0 then s else s.unstage, .answer []) := by
  unfold State.discardReply
  rw [firstAbort_none]
  intro y hy
  simp only [List.mem_cons, List.not_mem_nil, or_false] at hy
  rcases hy with rfl | rfl | rfl | rfl
  · exact decide_eq_false (by omega)
  · exact hbusy
  · exact hlock
  · simp [barred_free hfree, h15]

/-- DISCARD while another session owns staging. -/
theorem discardReply_locked (hrole : 2 ≤ x.role) (hbusy : s.stagingBusy = false) (hlock : s.stagingLocked x.id = true) :
    s.discardReply x = (s, .abort .locked 0x1200 1 0) := by
  unfold State.discardReply
  rw [firstAbort_skip (decide_eq_false (by omega)), firstAbort_skip hbusy, firstAbort_take hlock]

/-! ### What staging changes -/

/-- The staged configuration with values written from an element of an object on. -/
def stagedWith (st : Store) (index sub first : Nat) (vs : List Value) : Store :=
  st.setAll ((vs.zip (List.range vs.length)).map (fun e => (okey index sub (first + e.2), e.1)))

theorem putStaged_eq (s : State) (sess index sub first : Nat) (vs : List Value) :
    s.putStaged sess index sub first vs = ({ s with staged := stagedWith s.staged index sub first vs } : State).setN 0x1200 2 sess := (rfl)

theorem putStaged_effect (s : State) (sess index sub first : Nat) (vs : List Value) :
    Effect (.alm :: [.staged]) [(0x1200, 2)] [] s (s.putStaged sess index sub first vs) := by
  rw [putStaged_eq, State.setN_eq]
  exact (Effect.start.setStaged _ (by simp)).set _ _ _ _ (by omega) (by omega) (.inl (by simp)) (by omega)

theorem putStaged_owner (s : State) (sess index sub first : Nat) (vs : List Value) :
    (s.putStaged sess index sub first vs).num 0x1200 2 = sess := by
  rw [putStaged_eq, State.setN_eq, State.num_set]

/-- One value staged: it alone differs. -/
theorem stagedWith_one (st : Store) (index sub k : Nat) (v : Value) :
    (stagedWith st index sub 0 [v]).get k = if k = okey index sub 0 then v else st.get k :=
  Store.get_set_ite st (okey index sub 0) k v

theorem chunks_length {α : Type} (n fuel : Nat) (l : List α) : (chunks n fuel l).length ≤ fuel := by
  induction fuel generalizing l with
  | zero => exact Nat.le_refl 0
  | succ fuel ih =>
    unfold chunks
    split
    · exact Nat.zero_le _
    · exact Nat.succ_le_succ (ih _)

/-- Numbers beyond the end of a list have no part in numbering it. -/
theorem zip_range_of_le {α : Type} (l : List α) {n : Nat} (h : l.length ≤ n) : l.zip (List.range l.length) = l.zip (List.range n) := by
  apply List.ext_getElem
  · simp [h]
  · intro i h1 h2
    simp

theorem stagedWith_chunks (st : Store) (index sub first w count : Nat) (elements : List Byte) :
    stagedWith st index sub first ((chunks w count elements).map .bytes) =
      st.setAll ((((chunks w count elements).map .bytes).zip (List.range count)).map (fun e => (okey index sub (first + e.2), e.1))) := by
  unfold stagedWith
  rw [zip_range_of_le (n := count)]
  rw [List.length_map]
  exact chunks_length w count elements

/-- A request that writes the staged configuration is answered, and its session owns staging (R72). -/
theorem serves_putStaged {c : Instr} {a : Ask} {first : Nat} {vs : List Value}
    (he : Sys2Proof.Machine.exec c s = complete s (fun s => s.request r a)) (hset : s.settled) (hR : Heard s r x) (hc : a ≠ .close)
    (hp : (s.accepted x r.seq).perform x a = ((s.accepted x r.seq).putStaged x.id index sub first vs, .answer [])) :
    Serves c s r x a.opcode [] id [.staged] [(0x1200, 2)] [] (fun t =>
      t.staged = stagedWith s.staged index sub first vs ∧ t.num 0x1200 2 = x.id) := by
  refine Serves.of_effect he hset.raises hR hc hp (putStaged_effect _ _ _ _ _ _) (by simp) rfl rfl rfl (fun t ht => ⟨?_, ?_⟩)
  · exact ht.staged_keep (by simp)
  · rw [ht.num_keep (by simp) (by decide), putStaged_owner]

/-! ### STAGE_DEFAULTS_CMD (R85) -/

/-- STAGE_DEFAULTS_CMD's object. -/
def stageDefaultsField : Field := ⟨0x01, 0x01, "STAGE_DEFAULTS_CMD", .u8, .wo, .int 0, .ival 1 1⟩

theorem objAt_stageDefaults : objAt 0x1F02 1 = some stageDefaultsField := by decide +kernel

theorem resultOf_stageDefaults : resultOf 0x1F02 1 = some 0x1F03 := by decide +kernel

theorem commandOf_stageDefaults : commandOf 0x1F02 = none := by decide +kernel

theorem commandChecks_stageDefaults (h0 : s.num 0x1F03 2 = 0) (hbusy : s.stagingBusy = false)
    (hlock : s.stagingLocked x.id = false) : ∀ y ∈ s.commandChecks x.id 0x1F02 1, y.1 = false := by
  intro y hy
  have idle : s.resultState 0x1F03 = 0 := h0
  rw [State.commandChecks.eq_def, commandOf_stageDefaults, resultOf_stageDefaults] at hy
  simp only [List.mem_cons, List.not_mem_nil, or_false] at hy
  rcases hy with rfl | rfl | rfl <;> simp [idle, hbusy, hlock]

theorem stageDefaults_eq (s : State) (sess : Nat) :
    s.stageDefaults sess = (({ s with staged := [] } : State).setN 0x1200 2 sess).quickCmd 0x1F03 0 [] := (rfl)

theorem stageDefaults_effect (s : State) (sess : Nat) :
    Effect (.alm :: [.staged]) ((0x1200, 2) :: outcomeRegisters 0x1F03) [] s (s.stageDefaults sess) := by
  rw [stageDefaults_eq, State.setN_eq]
  refine Effect.andQuiet ?_ (quickCmd_effect _ (by decide) (fun _ h => List.mem_cons_of_mem _ h))
  exact (Effect.start.setStaged _ (by simp)).set _ _ _ _ (by omega) (by omega) (.inl (by simp)) (by omega)

theorem quickCmd_frame (s : State) (result code : Nat) (data : List Byte) (hr : result ≠ 0xA801) :
    Frame [] (outcomeRegisters result) s (s.quickCmd result code data) := (quickCmd_effect s hr (fun _ h => h)).frame

theorem stageDefaults_staged (s : State) (sess : Nat) : (s.stageDefaults sess).staged = [] := by
  rw [stageDefaults_eq, (quickCmd_frame _ 0x1F03 0 [] (by decide)).staged_keep (by simp)]
  rfl

theorem stageDefaults_owner (s : State) (sess : Nat) : (s.stageDefaults sess).num 0x1200 2 = sess := by
  rw [stageDefaults_eq, (quickCmd_frame _ 0x1F03 0 [] (by decide)).num_keep (by decide) (by decide), State.setN_eq, State.num_set]

theorem stageDefaults_outcome (s : State) (sess : Nat) : Outcome 0x1F03 (s.nextSeq 0x1F03) 0 [] (s.stageDefaults sess) := by
  have seq : (({ s with staged := [] } : State).setN 0x1200 2 sess).nextSeq 0x1F03 = s.nextSeq 0x1F03 := by
    unfold State.nextSeq
    rw [State.setN_eq, State.num_set_ne _ _ (by omega) (by omega) (by omega) (by omega)]
    rfl
  rw [← seq]
  exact quickCmd_outcome _ _ _ _

theorem writeEffect_stageDefaults (s : State) (sess : Nat) : s.writeEffect sess 0x1F02 1 (.int (1 : Nat)) = s.stageDefaults sess := by
  rfl

/-- STAGE_DEFAULTS_CMD, as O16 states it. -/
theorem stageDefaultsCmd_serves (hset : s.settled) (hcmd : Commands s r x 0x1F02 1 0x1F03) (hbusy : s.stagingBusy = false)
    (hlock : s.stagingLocked x.id = false) :
    Serves (.stageDefaultsCmd r) s r x 0x0A (beBytes 4 (s.nextSeq 0x1F03)) id [.staged] ((0x1200, 2) :: outcomeRegisters 0x1F03) []
      (fun t => t.staged = [] ∧ t.num 0x1200 2 = x.id ∧ Outcome 0x1F03 (s.nextSeq 0x1F03) 0 [] t) := by
  have served := Serves.of_row (c := .stageDefaultsCmd r) (g := id) (f := stageDefaultsField) (v := (1 : Nat))
    (after := fun t => t.staged = [] ∧ t.num 0x1200 2 = x.id ∧ Outcome 0x1F03 (s.nextSeq 0x1F03) 0 [] t)
    rfl hset.raises hcmd.toReady objAt_stageDefaults (by decide) (by decide) hcmd.role hcmd.payload (by decide)
    (commandChecks_stageDefaults hcmd.idle hbusy hlock) (by simp [State.writeBarred, barred_free hcmd.free, State.servoObject])
    (by rfl) (writeEffect_stageDefaults _ _) (stageDefaults_effect _ _) (by simp) rfl rfl rfl (fun t ht => ⟨?_, ?_, ?_⟩)
  · rw [resultOf_stageDefaults] at served
    have answer : s.writeAnswer true 0x1F02 1 = beBytes 4 (s.nextSeq 0x1F03) := by
      unfold State.writeAnswer
      rw [resultOf_stageDefaults]
    rwa [Option.isSome_some, answer] at served
  · rw [ht.staged_keep (by simp), stageDefaults_staged]
  · rw [ht.num_keep (by simp) (by decide), stageDefaults_owner]
  · rw [← accepted_nextSeq s x r.seq]
    exact (stageDefaults_outcome _ _).kept ht (by decide) (by simp)

/-- Settles O16, request by request: what stages, what ends staging, and what ends with LOCKED. -/
theorem stagingBelongsToOneSession : Obligations.StagingBelongsToOneSession := by
  intro r x s hset hR hrole hbusy
  have h15 : (s.accepted x r.seq).stage ≠ 15 := hR.normal
  have discarded : s.stagingLocked x.id = false → (s.accepted x r.seq).perform x .discard = _ := fun hlock =>
    discardReply_ok (s := s.accepted x r.seq) hrole h15 hR.free hbusy hlock
  refine ⟨fun hlock => ⟨fun index sub f v value hobj hacc hform hstage hdec hrng hlen hb => ?_,
    fun index sub first count n w f elements hobj hacc hty hstage hsize hlen hin hok hload hb => ?_, fun hown h0 => ?_, fun h0 => ?_,
    fun hcmd => stageDefaultsCmd_serves hset hcmd hbusy hlock⟩, fun hlock => ⟨?_,
    fun index sub f value hobj hacc hform hstage hdec hlen => ?_⟩⟩
  · have served := serves_putStaged (c := .stage r index sub f.ty.code value) (a := .stage index sub f.ty.code value) rfl hset hR.toHeard
      (by simp) (stageReply_ok (s := s.accepted x r.seq) hobj h15 hacc hform hstage hdec hlen hbusy hlock hb hrng)
    obtain ⟨t, ht, frame, raised, answered, hst, hown⟩ := served
    exact ⟨t, ht, frame, raised, answered, fun k => by rw [hst, stagedWith_one], hown⟩
  · rw [← stagedWith_chunks]
    exact serves_putStaged (a := .blockWrite index sub first count elements true) rfl hset hR.toHeard (by simp)
      (blockWriteReply_staged (s := s.accepted x r.seq) hobj h15 hacc hty hstage hsize hlen hin hbusy hlock hload hb hok)
  · have owned : (s.accepted x r.seq).stageOwner ≠ 0 := h0
    have performed := discarded hlock
    rw [if_neg owned] at performed
    refine Serves.of_effect (a := .discard) rfl hset.raises hR.toHeard (by simp) performed (unstage_effect _ (by simp) (by simp)) (by simp)
      rfl rfl rfl (fun t ht => ⟨?_, ?_⟩)
    · exact ht.staged_keep (by simp)
    · rw [ht.num_keep (by simp) (by decide), unstage_owner]
  · have unowned : (s.accepted x r.seq).stageOwner = 0 := h0
    have performed := discarded hlock
    rw [if_pos unowned] at performed
    exact Serves.of_answer (a := .discard) rfl hset.raises hR.toHeard (by simp) performed
  · exact Aborts.of_perform (a := .discard) (b := .locked) rfl hset.raises hR.toHeard (by simp)
      (discardReply_locked (s := s.accepted x r.seq) hrole hbusy hlock)
  · exact Aborts.of_perform (a := .stage index sub f.ty.code value) (b := .locked) rfl hset.raises hR.toHeard (by simp)
      (stageReply_locked (s := s.accepted x r.seq) hobj h15 hacc hform hstage hdec hlen hbusy hlock)

end Sys2Proof.Machine
end

section
/-! COMMIT and the end of its validation (R73, R75). -/

namespace Sys2Proof.Machine

variable {P : List Part} {R : List (Nat × Nat)} {L : List Nat} {s u : State} {x : Session}

theorem Frame.elem_keep (h : Frame P R s u) {i b e : Nat} (hm : (i, b) ∉ R) (hn : endRegister i b = false) (hb : b < 256 := by omega)
    (he : e < 65536 := by omega) : u.elem i b e = s.elem i b e := by
  unfold State.elem
  rw [h.regs i b e hb he hm hn]

/-! ### COMMIT -/

theorem resultOf_commit : resultOf 0x1200 1 = some 0x1201 := by decide +kernel

theorem commandOf_commit : commandOf 0x1200 = none := by decide +kernel

/-- No check of commands stops the COMMIT of staging's owner while no commit runs. -/
theorem commandChecks_commit (h0 : s.num 0x1201 2 = 0) (hbusy : s.stagingBusy = false) (hown : s.stageOwner = x.id) :
    ∀ y ∈ s.commandChecks x.id 0x1200 1, y.1 = false := by
  intro y hy
  have idle : s.resultState 0x1201 = 0 := h0
  rw [State.commandChecks.eq_def, commandOf_commit, resultOf_commit] at hy
  simp only [List.mem_cons, List.not_mem_nil, or_false] at hy
  rcases hy with rfl | rfl | rfl <;> simp [idle, hbusy, hown]

/-- The answer to a COMMIT that no abort stops (R73). -/
theorem commitReply_ok (hrole : 2 ≤ x.role) (hlen : 4 ≤ x.maxPayload) (h15 : s.stage ≠ 15) (hfree : s.restricted = false)
    (h0 : s.num 0x1201 2 = 0) (hbusy : s.stagingBusy = false) (hown : s.stageOwner = x.id) :
    s.commitReply x = (s.commitStart, .answer (beBytes 4 (s.nextSeq 0x1201))) := by
  unfold State.commitReply
  rw [firstAbort_none]
  intro y hy
  simp only [List.cons_append, List.nil_append, List.mem_cons, List.mem_append, List.not_mem_nil, or_false] at hy
  rcases hy with rfl | rfl | hy | rfl
  · exact decide_eq_false (by omega)
  · exact decide_eq_false (by omega)
  · exact commandChecks_commit h0 hbusy hown y hy
  · simp [barred_free hfree, h15]

theorem commitStart_effect (s : State) : Effect [.alm] (busyRegisters 0x1201) [] s s.commitStart :=
  (startCmd_effect s (by decide) (fun _ h => h)).modAlm _ (by simp)

theorem commitStart_busy (s : State) : Busy 0x1201 s s.commitStart :=
  ⟨(startCmd_busy s 0x1201).state, (startCmd_busy s 0x1201).sequence⟩

/-! ### The report (R75) -/

/-- Elements written in turn, up to a length. -/
def setElems (s : State) (index sub n : Nat) (g : Nat → List Byte) : State :=
  (List.range n).foldl (fun (u : State) i => u.setElem index sub i (g i)) s

theorem setElems_effect (s : State) (index sub n : Nat) (g : Nat → List Byte) (hb : sub < 256) (hn : n ≤ 65536)
    (hr : (index, sub) ∈ R) (hc : index ≠ 0xA801) : Effect P R [] s (setElems s index sub n g) := by
  refine Effect.foldl _ _ (fun u i hi => ?_) s
  have small : i < n := List.mem_range.mp hi
  rw [State.setElem_eq]
  exact Effect.start.set _ _ _ _ hb (by omega) (.inl hr) hc

theorem setElems_succ (s : State) (index sub n : Nat) (g : Nat → List Byte) :
    setElems s index sub (n + 1) g = (setElems s index sub n g).setElem index sub n (g n) := by
  unfold setElems
  rw [List.range_succ, List.foldl_append]
  rfl

/-- Each element written holds what was written to it. -/
theorem setElems_elem (s : State) (index sub n : Nat) (g : Nat → List Byte) (hb : sub < 256) (hn : n ≤ 65536) {i : Nat} (hi : i < n) :
    (setElems s index sub n g).elem index sub i = g i := by
  induction n with
  | zero => omega
  | succ n ih =>
    rw [setElems_succ, State.setElem_eq]
    by_cases h : i = n
    · rw [h, State.elem_set]
    · unfold State.elem
      rw [State.value_set_ne _ _ hb (by omega) hb (by omega) (by omega)]
      exact ih (by omega) (by omega)

/-- The element of the report for each of the first 16 conflicts; 0 beyond them. -/
def reportElement (l : List Conflict) (i : Nat) : List Byte :=
  match l[i]? with
  | some c => c.element
  | none => List.replicate 12 0

theorem reportElement_eq (l : List Conflict) (i : Nat) :
    reportElement l i = (l[i]?.map Conflict.element).getD (List.replicate 12 0) := by
  unfold reportElement
  cases l[i]? <;> rfl

/-- COUNT and the elements of the report. -/
def report (s : State) (l : List Conflict) : State :=
  setElems (s.setN 0x1202 0 (min 65535 l.length)) 0x1202 1 16 (reportElement l)

/-- IMAGE_ERROR of a configuration whose image is wrong (R352). -/
def noteImageError (cfg : Store) (s : State) : State :=
  match imageError (imageOf cfg) with
  | some e => s.setN 0x7000 0x13 (e.1 * 16777216 + e.2 % 16777216)
  | none => s

theorem writeReport_eq (s : State) (cfg : Store) (l : List Conflict) :
    s.writeReport cfg l = if l.any (fun c => c.code = 0x0105) then noteImageError cfg (report s l) else report s l := (rfl)

theorem noteImageError_effect (cfg : Store) (s : State) : Effect [] [(0x7000, 0x13)] [] s (noteImageError cfg s) := by
  unfold noteImageError
  split
  · rw [State.setN_eq]
    exact Effect.start.set _ _ _ _ (by omega) (by omega) (.inl (by simp)) (by omega)
  · exact Effect.start

/-- The registers of the report. -/
def reportRegisters : List (Nat × Nat) := [(0x1202, 0), (0x1202, 1)]

theorem report_effect (s : State) (l : List Conflict) (hr : ∀ r ∈ reportRegisters, r ∈ R) : Effect P R [] s (report s l) := by
  unfold report
  rw [State.setN_eq]
  exact (Effect.start.set _ _ _ _ (by omega) (by omega) (.inl (hr _ (by simp [reportRegisters]))) (by omega)).andQuiet
    (setElems_effect _ _ _ _ _ (by omega) (by omega) (hr _ (by simp [reportRegisters])) (by omega))

theorem report_elem (s : State) (l : List Conflict) {i : Nat} (hi : i < 16) : (report s l).elem 0x1202 1 i = reportElement l i :=
  setElems_elem _ _ _ _ _ (by omega) (by omega) hi

theorem report_count (s : State) (l : List Conflict) : (report s l).num 0x1202 0 = min 65535 l.length := by
  have elements : Effect [] [(0x1202, 1)] [] (s.setN 0x1202 0 (min 65535 l.length)) (report s l) :=
    setElems_effect _ _ _ _ _ (by omega) (by omega) (by simp) (by omega)
  rw [elements.frame.num_keep (by simp) (by decide), State.setN_eq, State.num_set]

/-- IMAGE_ERROR is all that the report of a set with conflicts writes beside the report (R352). -/
theorem writeReport_after (s : State) (cfg : Store) (l : List Conflict) :
    Effect [] [(0x7000, 0x13)] [] (report s l) (s.writeReport cfg l) := by
  rw [writeReport_eq]
  split
  · exact noteImageError_effect cfg _
  · exact Effect.start

theorem writeReport_nil (s : State) (cfg : Store) : s.writeReport cfg [] = report s [] := by
  rw [writeReport_eq]
  rfl

/-! ### The end of validation -/

theorem State.session_congr {t : State} (h : t.alm.sessions = s.alm.sessions) (id : Nat) : t.session id = s.session id := by
  unfold State.session
  rw [h]

@[simp] theorem setElems_alm (s : State) (index sub n : Nat) (g : Nat → List Byte) : (setElems s index sub n g).alm = s.alm := by
  induction n with
  | zero => rfl
  | succ n ih => rw [setElems_succ, State.setElem_eq, State.set_alm, ih]

@[simp] theorem noteImageError_alm (cfg : Store) (s : State) : (noteImageError cfg s).alm = s.alm := by
  unfold noteImageError
  split
  · rw [State.setN_eq, State.set_alm]
  · rfl

@[simp] theorem report_alm (s : State) (l : List Conflict) : (report s l).alm = s.alm := by
  unfold report
  rw [setElems_alm, State.setN_eq, State.set_alm]

@[simp] theorem writeReport_alm (s : State) (cfg : Store) (l : List Conflict) : (s.writeReport cfg l).alm = s.alm := by
  rw [writeReport_eq]
  split <;> simp

@[simp] theorem finishCmd_alm (s : State) (result code : Nat) (data : List Byte) : (s.finishCmd result code data).alm = s.alm := by
  unfold State.finishCmd
  simp only [State.setN_eq, State.setBytes_eq, State.set_alm]

/-- The state at the end of a commit that a conflict stops, while its owner's session is open. -/
def conflictEnd (s : State) (c : Conflict) (l : List Conflict) : State :=
  ((s.writeReport s.staged (c :: l)).modAlm (fun a => { a with commit := .idle })).finishCmd 0x1201 c.code
    (beBytes 2 (min 65535 (l.length + 1)))

/-- What the end of a commit that a conflict stops may change. -/
def conflictRegisters : List (Nat × Nat) := [(0x1202, 0), (0x1202, 1), (0x7000, 0x13)] ++ outcomeRegisters 0x1201

@[simp] theorem conflictEnd_alm (s : State) (c : Conflict) (l : List Conflict) :
    (conflictEnd s c l).alm = { s.alm with commit := .idle } := by
  unfold conflictEnd
  rw [finishCmd_alm, State.modAlm_alm, writeReport_alm]

theorem conflictEnd_effect (s : State) (c : Conflict) (l : List Conflict) :
    Effect [.alm] conflictRegisters [] s (conflictEnd s c l) := by
  unfold conflictEnd conflictRegisters
  have written := (report_effect (P := [.alm]) (R := [(0x1202, 0), (0x1202, 1), (0x7000, 0x13)] ++ outcomeRegisters 0x1201) s (c :: l)
    (by simp [reportRegisters])).andQuiet ((writeReport_after s s.staged (c :: l)).mono (by simp) (by simp))
  exact (written.modAlm _ (by simp)).andQuiet (finishCmd_effect _ (by decide) (fun _ h => List.mem_append_right _ h))

/-- A commit with a conflict ends FAILED, and staging stays with an owner whose session is open (R73). -/
theorem commitValidated_conflict {c : Conflict} {l : List Conflict} (hc : s.alm.commit = .validating)
    (hv : s.validate s.staged = c :: l) (hown : (s.session s.stageOwner).isSome = true) : s.commitValidated = conflictEnd s c l := by
  have same : (conflictEnd s c l).stageOwner = s.stageOwner := (conflictEnd_effect s c l).frame.num_keep (by decide) (by decide)
  have opened : (conflictEnd s c l).session (conflictEnd s c l).stageOwner = s.session s.stageOwner := by
    rw [same]
    exact State.session_congr (by rw [conflictEnd_alm]) _
  have failed : (s.writeReport s.staged (c :: l)).failCommit (c :: l) c.code =
      if ((conflictEnd s c l).session (conflictEnd s c l).stageOwner).isNone then (conflictEnd s c l).unstage else conflictEnd s c l := rfl
  unfold State.commitValidated
  rw [hv, if_neg (not_not_intro hc)]
  rw [opened, ← Option.not_isSome, hown] at failed
  exact failed

/-- The outcome of a commit that a conflict stops is that conflict's code, with the number of conflicts. -/
theorem conflictEnd_outcome (s : State) (c : Conflict) (l : List Conflict) :
    Outcome 0x1201 (s.num 0x1201 6) c.code (beBytes 2 (min 65535 (l.length + 1))) (conflictEnd s c l) := by
  have written := (report_effect (P := []) (R := reportRegisters ++ [(0x7000, 0x13)]) s (c :: l)
    (fun _ h => List.mem_append_left _ h)).andQuiet
    ((writeReport_after s s.staged (c :: l)).mono (by simp) (by simp))
  have seq : ((s.writeReport s.staged (c :: l)).modAlm (fun a => { a with commit := .idle })).num 0x1201 6 = s.num 0x1201 6 :=
    (State.num_congr (State.modAlm_obj _ _) _ _).trans (written.frame.num_keep (by decide) (by decide))
  rw [← seq]
  exact finishCmd_outcome _ _ _ _

/-- The report stands at the end of a commit that a conflict stops. -/
theorem conflictEnd_report (s : State) (c : Conflict) (l : List Conflict) :
    Frame [.alm] ((0x7000, 0x13) :: outcomeRegisters 0x1201) (report s (c :: l)) (conflictEnd s c l) := by
  have written : Effect [.alm] ((0x7000, 0x13) :: outcomeRegisters 0x1201) [] _ _ :=
    (writeReport_after s s.staged (c :: l)).mono (by simp) (by simp)
  exact ((written.modAlm _ (by simp)).andQuiet (finishCmd_effect _ (by decide) (fun _ h => List.mem_cons_of_mem _ h))).frame

theorem Frame.boot_keep (h : Frame P R s u) (hm : Part.boot ∉ P) : u.boot = s.boot := h.parts .boot hm

/-- No change of F_T is awaited while no transits run. -/
theorem awaitRate_still (h : s.transitsRun = false) : s.awaitRate = s := by
  unfold State.awaitRate
  rw [h]
  exact if_neg (fun k => Bool.noConfusion k.1)

/-- The state in which a commit without a conflict waits for its quiesce, while no transits run. -/
def quiescing (s : State) : State := (report s []).modAlm (fun a => { a with commit := .quiescing, quiesce := s.raw })

theorem quiescing_effect (s : State) : Effect [.alm] reportRegisters [] s (quiescing s) :=
  (report_effect s [] (fun _ h => h)).modAlm _ (by simp)

/-- A commit without a conflict waits for its quiesce (R73). -/
theorem commitValidated_free (hc : s.alm.commit = .validating) (hv : s.validate s.staged = []) (ht : s.transitsRun = false) :
    s.commitValidated = quiescing s := by
  have kept := (quiescing_effect s).frame
  have still : (quiescing s).awaitRate = quiescing s := by
    refine awaitRate_still ?_
    unfold State.transitsRun at ht ⊢
    rwa [kept.tr_keep (by simp), kept.num_keep (i := 0xF140) (by decide) (by decide), kept.num_keep (i := 0xD000) (by decide) (by decide),
      kept.boot_keep (by simp)]
  unfold State.commitValidated
  rw [hv, if_neg (not_not_intro hc)]
  dsimp only
  rw [ht, writeReport_nil]
  exact still

/-- Settles O17: the COMMIT, a validation that finds a conflict, and one that finds none. -/
theorem commitValidatesTheStagedSet : Obligations.CommitValidatesTheStagedSet := by
  refine ⟨fun r x s hset hR hrole h0 hbusy hown hlen => ?_, fun s c l hset hc hv hown => ?_, fun s hset hc hv ht => ?_⟩
  · have performed : (s.accepted x r.seq).perform x .commit = _ := commitReply_ok (s := s.accepted x r.seq) hrole hlen hR.normal hR.free
      ((accepted_num s x r.seq 0x1201 2).trans h0) hbusy hown
    rw [accepted_nextSeq] at performed
    refine Serves.of_effect (a := .commit) rfl hset.raises hR.toHeard (by simp) performed
      ((commitStart_effect _).mono (by simp) (by simp)) (by simp) rfl rfl rfl (fun t ht => ?_)
    exact Busy.of_accepted ((commitStart_busy _).kept ht (by decide) (by simp))
  · have ends := commitValidated_conflict hc hv hown
    refine Does.of_effect rfl hset.raises (by rw [ends]; exact conflictEnd_effect s c l) (by simp) (fun t ht _ => ?_)
    rw [ends] at ht
    have kept := conflictEnd_report s c l
    refine ⟨?_, ?_, fun i hi => ?_, (conflictEnd_outcome s c l).kept ht (by decide) (by simp)⟩
    · exact (ht.part .alm).1.trans (by rw [conflictEnd_alm])
    · rw [ht.num 0x1202 0, kept.num_keep (by decide) (by decide), report_count]
      rfl
    · rw [ht.elem 0x1202 1 i, kept.elem_keep (by decide) (by decide), report_elem _ _ hi, reportElement_eq]
  · have ends := commitValidated_free hc hv ht
    refine Does.of_effect rfl hset.raises (by rw [ends]; exact quiescing_effect s) (by simp) (fun t ht _ => ?_)
    rw [ends] at ht
    have kept : Frame [.alm] [] (report s []) (quiescing s) := (Effect.start.modAlm _ (by simp)).frame
    refine ⟨?_, ?_, fun i hi => ?_⟩
    · exact (ht.part .alm).1.trans (by rw [quiescing, State.modAlm_alm, report_alm])
    · rw [ht.num 0x1202 0, kept.num_keep (by simp) (by decide), report_count]
      rfl
    · rw [ht.elem 0x1202 1 i, kept.elem_keep (by simp) (by decide), report_elem _ _ hi]
      rfl

end Sys2Proof.Machine
end

section
/-! Sessions open and close (R69–R71). -/

namespace Sys2Proof.Machine

variable {P : List Part} {R : List (Nat × Nat)} {L : List Nat} {s u t : State} {x : Session}

/-! ### Fresh numbers -/

/-- Numbers that count on from one, as many as the bits can tell apart, differ. -/
theorem nodup_counted (next n m : Nat) (h : n ≤ m) : ((List.range n).map (fun i => (next + i) % m)).Nodup := by
  refine List.Nodup.map_on (fun i hi j hj e => ?_) List.nodup_range
  have hi' := List.mem_range.mp hi
  have hj' := List.mem_range.mp hj
  exact Nat.ModEq.eq_of_lt_of_lt (Nat.ModEq.add_left_cancel' next e) (by omega) (by omega)

/-- Some of the counted numbers is neither 0 nor in use: there are two more of them than are in use. -/
theorem exists_counted_free (next m : Nat) (used : List Nat) (h : used.length + 2 ≤ m) :
    ∃ n ∈ (List.range (used.length + 2)).map (fun i => (next + i) % m), (n != 0 && !used.contains n) = true := by
  by_contra none
  have taken : (List.range (used.length + 2)).map (fun i => (next + i) % m) ⊆ 0 :: used := by
    intro n hn
    by_contra free
    rw [List.mem_cons, not_or] at free
    exact none ⟨n, hn, by simpa using free⟩
  have short := (List.subperm_of_subset (nodup_counted next _ m h) taken).length_le
  simp at short

/-- A fresh number is not 0, has its bits, and is not in use. -/
theorem freshNumber_free (w next : Nat) (used : List Nat) (h : used.length + 2 ≤ 2 ^ w) :
    0 < State.freshNumber w next used ∧ State.freshNumber w next used < 2 ^ w ∧ State.freshNumber w next used ∉ used := by
  obtain ⟨n, hf⟩ := Option.isSome_iff_exists.mp (List.find?_isSome.mpr (exists_counted_free next (2 ^ w) used h))
  have good := List.find?_some hf
  obtain ⟨i, -, hi⟩ := List.mem_map.mp (List.mem_of_find?_eq_some hf)
  have eq : State.freshNumber w next used = n := by
    unfold State.freshNumber
    rw [hf]
    rfl
  rw [eq]
  simp only [Bool.and_eq_true, bne_iff_ne, ne_eq, Bool.not_eq_true', List.contains_eq_mem, decide_eq_false_iff_not] at good
  exact ⟨Nat.pos_of_ne_zero good.1, hi ▸ Nat.mod_lt _ (by omega), good.2⟩

/-! ### What closes with a session -/

theorem sessionIds_of_core (h : t.alm.core = u.alm.core) : t.alm.sessions.map (·.id) = u.alm.sessions.map (·.id) := by
  have k := congrArg (fun a => a.sessions.map (·.id)) h
  simpa only [Alm.core, List.map_map, Function.comp_def] using k

theorem subSessions_of_core (h : t.alm.core = u.alm.core) : t.alm.subs.map (·.session) = u.alm.subs.map (·.session) := by
  have k := congrArg (fun a => a.subs.map (·.session)) h
  simpa only [Alm.core, List.map_map, Function.comp_def] using k

/-- The state without a session, its subscriptions and what was built for it. -/
def withoutSession (s : State) (id : Nat) : State :=
  ((s.modAlm (fun a => { a with
    sessions := a.sessions.filter (fun (x : Session) => x.id != id)
    subs := a.subs.filter (fun (x : Subscription) => x.session != id) })).modEv (fun e => { e with
    blocks := e.blocks.filter (fun (b : LogBlock) => b.session != id) })).modRec (fun r => { r with
    chunks := r.chunks.filter (fun (c : ExportChunk) => c.session != id) })

/-- Staging that a closed session owned ends, unless a commit is BUSY. -/
def endOwned (s : State) (id : Nat) : State := if s.stageOwner = id ∧ s.resultState 0x1201 ≠ 1 then s.unstage else s

/-- A firmware bank that a closed session owned is free. -/
def freeBank (id : Nat) (s : State) (i : Nat) : State := if s.num i 0x09 = id then s.setN i 0x09 0 else s

/-- The firmware banks. -/
def banks : List Nat := [0xD010, 0xD011, 0xD012]

/-- The registers that a session owns with its banks. -/
def bankRegisters : List (Nat × Nat) := [(0xD010, 9), (0xD011, 9), (0xD012, 9)]

theorem closeSession_eq (s : State) (id : Nat) : s.closeSession id = banks.foldl (freeBank id) (endOwned (withoutSession s id) id) := (rfl)

theorem withoutSession_effect (s : State) (id : Nat) (ma : Part.alm ∈ P) (me : Part.ev ∈ P) (mr : Part.rec_ ∈ P) :
    Effect P R [] s (withoutSession s id) :=
  ((Effect.start.modAlm _ ma).modEv _ me rfl).modRec _ mr

theorem endOwned_effect (s : State) (id : Nat) (mp : Part.staged ∈ P) (mr : (0x1200, 2) ∈ R) : Effect P R [] s (endOwned s id) :=
  Effect.ite (unstage_effect s mp mr) Effect.start

theorem freeBanks_effect (s : State) (id : Nat) (h : ∀ r ∈ bankRegisters, r ∈ R) : Effect P R [] s (banks.foldl (freeBank id) s) := by
  refine Effect.foldl _ _ (fun v i hi => Effect.ite ?_ Effect.start) s
  rw [State.setN_eq]
  simp only [banks, List.mem_cons, List.not_mem_nil, or_false] at hi
  refine Effect.start.set _ _ _ _ (by omega) (by omega) (.inl (h _ ?_)) (by omega)
  rcases hi with rfl | rfl | rfl <;> simp [bankRegisters]

/-- What the close of a session may change. -/
def closeParts : List Part := [.alm, .ev, .rec_, .staged]

def closeRegisters : List (Nat × Nat) := (0x1200, 2) :: bankRegisters

theorem closeSession_effect (s : State) (id : Nat) : Effect closeParts closeRegisters [] s (s.closeSession id) := by
  rw [closeSession_eq]
  exact ((withoutSession_effect s id (by simp [closeParts]) (by simp [closeParts]) (by simp [closeParts])).andQuiet
    (endOwned_effect _ id (by simp [closeParts]) (by simp [closeRegisters]))).andQuiet
    (freeBanks_effect _ id (fun _ h => List.mem_cons_of_mem _ h))

theorem endOwned_alm (s : State) (id : Nat) : (endOwned s id).alm = s.alm := by
  unfold endOwned
  split
  · exact unstage_alm s
  · rfl

theorem freeBank_alm (id : Nat) (s : State) (i : Nat) : (freeBank id s i).alm = s.alm := by
  unfold freeBank
  split
  · rw [State.setN_eq, State.set_alm]
  · rfl

/-- The server without a session and its subscriptions. -/
theorem closeSession_alm (s : State) (id : Nat) : (s.closeSession id).alm = { s.alm with
    sessions := s.alm.sessions.filter (fun (x : Session) => x.id != id)
    subs := s.alm.subs.filter (fun (x : Subscription) => x.session != id) } := by
  rw [closeSession_eq, banks, List.foldl_cons, List.foldl_cons, List.foldl_cons, List.foldl_nil, freeBank_alm, freeBank_alm, freeBank_alm,
    endOwned_alm]
  rfl

/-- Staging that the session owned, while no commit is BUSY, ends with it (R71). -/
theorem closeSession_unstaged {id : Nat} (hown : s.stageOwner = id) (hidle : s.num 0x1201 2 ≠ 1) :
    (s.closeSession id).staged = s.cfg ∧ (s.closeSession id).num 0x1200 2 = 0 := by
  have owned : (withoutSession s id).stageOwner = id ∧ (withoutSession s id).resultState 0x1201 ≠ 1 := ⟨hown, hidle⟩
  have banked : Frame [] bankRegisters ((withoutSession s id).unstage) (s.closeSession id) := by
    rw [closeSession_eq, endOwned, if_pos owned]
    exact (freeBanks_effect _ id (fun _ h => h)).frame
  exact ⟨banked.staged_keep (by simp), (banked.num_keep (by decide) (by decide)).trans (unstage_owner _)⟩

/-- The end of a command that closed a session. -/
theorem closed_settled {id : Nat} (h : Frame [] [] (u.closeSession id) t) :
    t.session id = none ∧ (∀ y ∈ t.alm.subs, y.session ≠ id) ∧
      (u.stageOwner = id → u.num 0x1201 2 ≠ 1 → t.staged = u.cfg ∧ t.num 0x1200 2 = 0) := by
  have core : t.alm.core = (u.closeSession id).alm.core := (h.part .alm).1
  refine ⟨?_, fun y hy e => ?_, fun hown hidle => ?_⟩
  · have ids := sessionIds_of_core core
    unfold State.session
    rw [List.find?_eq_none]
    intro y hy e
    have m : id ∈ t.alm.sessions.map (·.id) := List.mem_map.mpr ⟨y, hy, by simpa using e⟩
    rw [ids, closeSession_alm] at m
    simp at m
    obtain ⟨z, ⟨-, hz⟩, ez⟩ := m
    exact hz ez
  · have owners := subSessions_of_core core
    have m : id ∈ t.alm.subs.map (·.session) := List.mem_map.mpr ⟨y, hy, e⟩
    rw [owners, closeSession_alm] at m
    simp at m
    obtain ⟨z, ⟨-, hz⟩, ez⟩ := m
    exact hz ez
  · obtain ⟨hs, ho⟩ := closeSession_unstaged hown hidle
    exact ⟨(h.part .staged).trans hs, (h.num 0x1200 2).trans ho⟩

/-! ### CLOSE and the idle timeout -/

/-- The state in which the session closes that a CLOSE ends: its SEQUENCE is taken, and it is answered. -/
def closing (s : State) (x : Session) (seq : Nat) : State :=
  (s.accepted x seq).sendPdu x.transport (some x.keyOut) ⟨0x0C, 1, x.id, seq, []⟩

theorem closing_effect (s : State) (x : Session) (seq : Nat) (ma : Part.alm ∈ P) : Effect P R [] s (closing s x seq) := by
  unfold closing
  refine Effect.sendPdu ?_ _ _ _ ma
  unfold State.accepted State.modSession
  exact Effect.start.modAlm _ ma

/-- A CLOSE that is heard is answered, and its session closes (R71). -/
theorem request_close {r : Req} (h : Heard s r x) : s.request r .close = (closing s x r.seq).closeSession x.id := by
  have room : s.tooMany x .close = false := by
    have few := h.room
    simp only [State.tooMany, Bool.and_eq_false_iff, decide_eq_false_iff_not]
    exact Or.inr (by omega)
  have answer : (s.modSession x.id (fun y => y.take r.seq s.raw)).answerTo x .close = (s.accepted x r.seq, .answer []) := by
    rw [State.answerTo]
    exact if_neg (by rw [show (s.modSession x.id (fun y => y.take r.seq s.raw)).tooMany x .close = false from room]; decide)
  rw [State.request, h.server]
  simp only [Bool.not_true, Bool.false_eq_true, if_false, h.session, h.transport, if_true]
  rw [State.serve, h.fresh]
  simp only [Bool.not_true, Bool.false_eq_true, if_false]
  rw [if_pos (Or.inr ⟨trivial, room⟩), answer]
  rfl

/-- CLOSE, as O20 states it. -/
theorem close_closes {r : Req} (hset : s.settled) (hR : Heard s r x) :
    Does (.close r) s closeParts closeRegisters [] (fun t =>
      Responded s t x ⟨0x0C, 1, x.id, r.seq, []⟩ ∧ t.session x.id = none ∧ (∀ y ∈ t.alm.subs, y.session ≠ x.id) ∧
      (s.stageOwner = x.id → s.num 0x1201 2 ≠ 1 → t.staged = s.cfg ∧ t.num 0x1200 2 = 0)) := by
  have began : Effect closeParts closeRegisters [] s (closing s x r.seq) := closing_effect s x r.seq (by simp [closeParts])
  have closes := request_close hR
  refine Does.of_effect (f := fun s => s.request r .close) rfl hset.raises ?_ (by simp) (fun t ht _ => ?_)
  · rw [closes]
    exact began.andQuiet (closeSession_effect _ _)
  · rw [closes] at ht
    obtain ⟨gone, subs, unstaged⟩ := closed_settled ht
    refine ⟨?_, gone, subs, fun hown hidle => ?_⟩
    · have pdus : OnlyNotified (closing s x r.seq).alm t.alm := by
        refine OnlyNotified.trans (OnlyNotified.of_eq ?_ ?_) (ht.part .alm).2 <;> rw [closeSession_alm]
      have sent : (closing s x r.seq).alm = (s.accepted x r.seq).alm.withPdu x.transport (some x.keyOut) ⟨0x0C, 1, x.id, r.seq, []⟩ := by
        rw [closing, State.sendPdu_eq, State.modAlm_alm]
      rw [sent] at pdus
      refine OnlyNotified.trans (OnlyNotified.of_eq ?_ ?_) pdus <;> cases x.transport <;> rfl
    · have kept : Frame [.alm] [] s (closing s x r.seq) := (closing_effect s x r.seq (by simp)).frame
      have owner : (closing s x r.seq).stageOwner = x.id := (kept.num_keep (by simp) (by decide)).trans hown
      have idle : (closing s x r.seq).num 0x1201 2 ≠ 1 := by rwa [kept.num_keep (by simp) (by decide)]
      obtain ⟨hs, ho⟩ := unstaged owner idle
      exact ⟨hs.trans (kept.cfg_keep (by simp)), ho⟩

/-- A session without a request for IDLE_TIMEOUT closes. -/
theorem idleTimeout_closes {id : Nat} (hset : s.settled) (hx : s.session id = some x) (due : x.lastValid + s.c 0x1100 2 * tickSec ≤ s.raw) :
    Does (.sessionIdleTimeout id) s closeParts closeRegisters [] (fun t =>
      t.session id = none ∧ (∀ y ∈ t.alm.subs, y.session ≠ id) ∧
      (s.stageOwner = id → s.num 0x1201 2 ≠ 1 → t.staged = s.cfg ∧ t.num 0x1200 2 = 0)) := by
  have closes : s.idleTimeout id = s.closeSession id := by
    unfold State.idleTimeout
    rw [hx]
    exact if_pos due
  refine Does.of_effect (f := fun s => s.idleTimeout id) rfl hset.raises ?_ (by simp) (fun t ht _ => ?_)
  · rw [closes]
    exact closeSession_effect s id
  · rw [closes] at ht
    exact closed_settled ht

theorem idleTimeout_early {id : Nat} (hset : s.settled) (hx : s.session id = some x) (early : s.raw < x.lastValid + s.c 0x1100 2 * tickSec) :
    Does (.sessionIdleTimeout id) s [] [] [] (fun _ => True) := by
  have stays : s.idleTimeout id = s := by
    unfold State.idleTimeout
    rw [hx]
    exact if_neg (by omega)
  refine Does.of_effect (f := fun s => s.idleTimeout id) rfl hset.raises ?_ (by simp) (fun t _ _ => trivial)
  rw [stays]
  exact Effect.start

/-! ### OPEN_SESSION -/

section
variable {w : Transport} {role maxPayload : Nat} {header qh nh mac k : List Byte}

/-- What the server answers in session 0 is sent in session 0. -/
theorem openSession_answered (hs : s.serverOn = true) (ht : s.transportOn w = true) {y : Reply}
    (h : s.openReply w header role maxPayload qh nh mac = (u, some y)) :
    s.openSession w header role maxPayload qh nh mac = u.sendPdu w none ⟨0x0B, y.flags, 0, 0, y.payload⟩ := by
  unfold State.openSession
  rw [hs, ht, h]
  rfl

theorem openSession_unanswered (hs : s.serverOn = true) (ht : s.transportOn w = true)
    (h : s.openReply w header role maxPayload qh nh mac = (u, none)) : s.openSession w header role maxPayload qh nh mac = u := by
  unfold State.openSession
  rw [hs, ht, h]
  rfl

theorem openReply_full (h : s.sessionLimit ≤ s.alm.sessions.length) :
    s.openReply w header role maxPayload qh nh mac = (s, some (.abort .resource 0 0 0)) := if_pos h

theorem openReply_wrong (h : s.alm.sessions.length < s.sessionLimit) (hr : role ≤ 3) (hk : s.roleKey role = some k)
    (hm : hmac k (header ++ State.openFields role maxPayload qh nh) ≠ mac) :
    s.openReply w header role maxPayload qh nh mac = ((s.inc32 0x1100 4).raiseEvent 127 role, none) := by
  unfold State.openReply
  rw [if_neg (by omega), if_neg (by omega), hk]
  exact if_pos hm

theorem openReply_right (h : s.alm.sessions.length < s.sessionLimit) (hr : role ≤ 3) (hk : s.roleKey role = some k)
    (hm : hmac k (header ++ State.openFields role maxPayload qh nh) = mac) :
    s.openReply w header role maxPayload qh nh mac =
      ((s.openAccepted w role maxPayload qh nh k).1, some (s.openAccepted w role maxPayload qh nh k).2) := by
  unfold State.openReply
  rw [if_neg (by omega), if_neg (by omega), hk]
  exact if_neg (not_not_intro hm)

/-- The device's key for an opening. -/
def openSecret (s : State) : Nat := beNat ((s.draw 80).1.take 48) % (p384N - 1) + 1

/-- The device's nonce for an opening. -/
def openNonce (s : State) : List Byte := (s.draw 80).1.drop 48

/-- The number of the session that an opening makes. -/
def openId (s : State) : Nat := State.freshNumber 32 s.alm.nextSession (s.alm.sessions.map (·.id))

/-- The device's four fields of the answer to an opening. -/
def ownFields (s : State) (maxPayload : Nat) : List Byte :=
  beBytes 4 (openId s) ++ beBytes 2 (min maxPayload 8192) ++ publicKey (openSecret s) ++ openNonce s

/-- The two keys of an opened session, from the shared secret (R70). -/
def openKeys (s : State) (role : Nat) (z nh : List Byte) : List Byte :=
  hkdf z (nh ++ openNonce s) (ascii "TN8448 almanac" ++ beBytes 4 (openId s) ++ [byte role]) 64

/-- The session that an opening makes. -/
def openedSession (s : State) (w : Transport) (role maxPayload : Nat) (z nh : List Byte) : Session :=
  ⟨openId s, w, role, min maxPayload 8192, (openKeys s role z nh).take 32, (openKeys s role z nh).drop 32, 0, 0, 0, false, s.raw, s.openOwn⟩

/-- The server after an opening. -/
def openedAlm (s : State) (w : Transport) (role maxPayload : Nat) (z nh : List Byte) : Alm :=
  { s.alm with
    draws := s.alm.draws + 80
    nextSession := (openId s + 1) % 4294967296
    sessions := s.alm.sessions ++ [openedSession s w role maxPayload z nh] }

theorem openAccepted_off (h : ecdh (openSecret s) qh = none) :
    s.openAccepted w role maxPayload qh nh k = (s, .abort .range 0 0 0) := by
  unfold State.openAccepted
  unfold openSecret at h
  dsimp only
  rw [h]

theorem openAccepted_on {z : List Byte} (h : ecdh (openSecret s) qh = some z) :
    s.openAccepted w role maxPayload qh nh k = (s.modAlm (fun _ => openedAlm s w role maxPayload z nh),
      .answer (ownFields s maxPayload ++ hmac k (State.openHeader 1 183 ++ State.openFields role maxPayload qh nh ++ ownFields s maxPayload))) := by
  unfold State.openAccepted
  have h' := h
  unfold openSecret at h'
  dsimp only
  rw [h']
  rfl

/-- An opening that is answered changes the server alone. -/
theorem opening_does {pdu : Pdu} {a : Alm} (hset : s.settled)
    (h : s.openSession w (State.openHeader 0 180) role maxPayload qh nh mac = (s.modAlm (fun _ => a)).sendPdu w none pdu)
    (hq : a.hspiTx = s.alm.hspiTx) (hu : a.udpTx = s.alm.udpTx) :
    Does (.openSession w role maxPayload qh nh mac) s [.alm] [] [] (fun t => t.alm.core = a.core ∧ Sent s t w none pdu) := by
  refine Does.of_effect (f := fun s => s.openSession w (State.openHeader 0 180) role maxPayload qh nh mac) rfl hset.raises ?_ (by simp)
    (fun t ht _ => ?_)
  · rw [h]
    exact (Effect.start.modAlm _ (by simp)).sendPdu _ _ _ (by simp)
  · rw [h] at ht
    refine ⟨(ht.part .alm).1.trans ?_, sent_settled hq hu ht⟩
    rw [State.sendPdu_eq]
    cases w <;> rfl

end

/-- Settles O20: openings, whose answers are told apart by the limit, the HMAC and the point, then CLOSE and the idle timeout. -/
theorem sessionsOpenAndClose : Obligations.SessionsOpenAndClose := by
  refine ⟨fun w role maxPayload qh nh mac k s hset hs ht => ⟨fun full => ?_, fun few hr hk => ⟨fun wrong => ?_, ?_⟩⟩,
    fun r x s hset hR => close_closes hset hR,
    fun id x s hset hx => ⟨fun due => idleTimeout_closes hset hx due, fun early => idleTimeout_early hset hx early⟩⟩
  · exact opening_does (a := s.alm) hset (openSession_answered hs ht (openReply_full full)) rfl rfl
  · have counts := openSession_unanswered hs ht (openReply_wrong few hr hk wrong)
    refine Does.of_effect (f := fun s => s.openSession w (State.openHeader 0 180) role maxPayload qh nh mac) rfl hset.raises ?_ (by simp)
      (fun t ht _ => ?_)
    · rw [counts, State.inc32_eq]
      exact (Effect.start.set _ _ _ _ (by omega) (by omega) (.inl (by simp)) (by omega)).raise _ _
    · rw [counts, State.inc32_eq] at ht
      rw [ht.num 0x1100 4]
      exact State.num_set _ _ _ _
  · rintro right okm own nd d id rfl rfl rfl rfl rfl
    have limit : s.sessionLimit ≤ 8 := by
      unfold State.sessionLimit
      split <;> omega
    have fresh := freshNumber_free 32 s.alm.nextSession (s.alm.sessions.map (·.id)) (by rw [List.length_map]; omega)
    refine ⟨⟨fresh.1, fresh.2.1, fun y hy e => fresh.2.2 (List.mem_map.mpr ⟨y, hy, e⟩)⟩, ?_⟩
    have opens := openReply_right (w := w) few hr hk right
    cases hz : ecdh (openSecret s) qh with
    | none =>
      rw [openAccepted_off hz] at opens
      have off : ecdh (beNat ((s.draw 80).1.take 48) % (p384N - 1) + 1) qh = none := hz
      rw [off]
      exact opening_does (a := s.alm) hset (openSession_answered hs ht opens) rfl rfl
    | some z =>
      rw [openAccepted_on hz] at opens
      have on : ecdh (beNat ((s.draw 80).1.take 48) % (p384N - 1) + 1) qh = some z := hz
      rw [on]
      exact opening_does hset (openSession_answered hs ht opens) rfl rfl

end Sys2Proof.Machine
end

section
/-! Completion and acknowledgement of commands, and RESTART_CMD (R77–R79, R85). -/

namespace Sys2Proof.Machine

variable {P : List Part} {R : List (Nat × Nat)} {L : List Nat} {s t : State} {r : Req} {x : Session} {result : Nat}

/-! ### Completion -/

theorem finishCmd_pending (s : State) (result code : Nat) (data : List Byte) : (s.finishCmd result code data).num result 6 = 0 := by
  unfold State.finishCmd
  rw [State.setN_eq, State.num_set]

theorem jobs_of_core {u : State} (h : t.alm.core = u.alm.core) : t.alm.jobs = u.alm.jobs := by
  have k := congrArg Alm.jobs h
  exact k

/-- No job of a result RECORD is left once it has been dropped. -/
theorem job_none_of_dropped (h : t.alm.jobs = (s.dropJob result).alm.jobs) : t.job result = none := by
  unfold State.job
  rw [h, State.dropJob, State.modAlm_alm, List.find?_eq_none]
  intro j hj
  simpa using (List.mem_filter.mp hj).2

/-- A command in progress whose outcome is settled ends with it in one step (R78). -/
theorem commandComplete_settled {j : Job} (hset : s.settled) (hc : (commandOf result).isSome = true) (hj : s.job result = some j)
    (ha : j.action = .none) :
    Does (.commandComplete result) s [.alm] (outcomeRegisters result) [] (fun t =>
      Outcome result (s.num result 6) j.code j.data t ∧ t.num result 6 = 0 ∧ t.job result = none) := by
  have out := endIndex_result hc
  have ends : s.commandComplete result = (s.dropJob result).finishCmd result j.code j.data := by
    unfold State.commandComplete
    rw [hj]
    dsimp only
    rw [ha]
  have dropped : Effect [.alm] (outcomeRegisters result) [] s (s.dropJob result) := Effect.start.modAlm _ (by simp)
  refine Does.of_effect (f := fun s => s.commandComplete result) rfl hset.raises ?_ (by simp) (fun t ht _ => ?_)
  · rw [ends]
    exact dropped.andQuiet (finishCmd_effect _ (not_counts_of_endIndex out) (fun _ h => h))
  · rw [ends] at ht
    refine ⟨(finishCmd_outcome (s.dropJob result) _ _ _).kept ht out (by simp), ?_, job_none_of_dropped (s := s) ?_⟩
    · rw [ht.num_keep (by simp) (endRegister_of_index out 6), finishCmd_pending]
    · rw [jobs_of_core (ht.part .alm).1, finishCmd_alm]

/-! ### Acknowledgement -/

/-- ACK of every result RECORD (R77). -/
def ackField : Field := ⟨0x05, 0x05, "ACK", .bool, .wo, .int 0, .ival 1 1⟩

theorem objAt_ack (hc : (commandOf result).isSome = true) : objAt result 5 = some ackField := by
  have all : ∀ e ∈ resultTable, objAt e.1 5 = some ackField := by decide +kernel
  obtain ⟨e, he, rfl⟩ := mem_resultTable hc
  exact all e he

theorem resultOf_ack (hc : (commandOf result).isSome = true) : resultOf result 5 = none := by
  have all : ∀ e ∈ resultTable, resultOf e.1 5 = none := by decide +kernel
  obtain ⟨e, he, rfl⟩ := mem_resultTable hc
  exact all e he

theorem writeTime_ack (s : State) (v : Value) : ∀ e ∈ resultTable, s.writeTime e.1 5 v = none := by
  simp [resultTable, State.writeTime]

theorem writePlant_ack (s : State) (sess : Nat) (v : Value) : ∀ e ∈ resultTable, s.writePlant sess e.1 5 v = none := by
  simp [resultTable, State.writePlant]

theorem writeManagement_ack (s : State) (sess : Nat) (v : Value) : ∀ e ∈ resultTable, s.writeManagement sess e.1 5 v = none := by
  simp [resultTable, State.writeManagement]

/-- What an acknowledgement does: DONE or FAILED becomes IDLE (R79). -/
theorem writeEffect_ack (hc : (commandOf result).isSome = true) (s : State) (sess : Nat) (v : Value) :
    s.writeEffect sess result 5 v = if s.resultState result = 0 then s else s.setN result 2 0 := by
  obtain ⟨e, he, rfl⟩ := mem_resultTable hc
  unfold State.writeEffect
  rw [writeTime_ack s v e he, writePlant_ack s sess v e he, writeManagement_ack s sess v e he]
  exact if_pos ⟨hc, rfl⟩

/-- The only check of commands that an acknowledgement must pass is that the command is not BUSY. -/
theorem commandChecks_ack (hc : (commandOf result).isSome = true) (sess : Nat) :
    s.commandChecks sess result 5 = [(s.resultState result == 1, .busy)] := by
  obtain ⟨c, hc⟩ := Option.isSome_iff_exists.mp hc
  rw [State.commandChecks.eq_def, hc]

theorem writeBarred_ack (hc : (commandOf result).isSome = true) (hfree : s.restricted = false) : s.writeBarred result 5 = false := by
  obtain ⟨e, he, rfl⟩ := mem_resultTable hc
  have other : ∀ e ∈ resultTable, e.1 ≠ 0xC100 := by decide
  simp [State.writeBarred, barred_free hfree true (other e he), State.servoObject]

/-- An acknowledgement that is taken. -/
theorem ack_serves {u : State} (hset : s.settled) (hc : (commandOf result).isSome = true) (hw : Writes s r x result 5)
    (hidle : s.num result 2 ≠ 1) (he : (if (s.accepted x r.seq).resultState result = 0 then s.accepted x r.seq
      else (s.accepted x r.seq).setN result 2 0) = u) (hf : Effect [.alm] R [] (s.accepted x r.seq) u)
    (hu : u.alm = (s.accepted x r.seq).alm) {after : State → Prop} (hafter : ∀ t, Frame [.alm] [] u t → after t) :
    Serves (.resultAck r result) s r x 0x02 [] id [] R [] after := by
  have served := Serves.of_row (c := .resultAck r result) (g := id) (v := 1) (L := []) (P := []) (u := u) (after := after) rfl hset.raises
    hw.toReady (objAt_ack hc) (by decide) (by decide) hw.role hw.payload (by decide) ?_ (writeBarred_ack hc hw.free) ?_
    ((writeEffect_ack hc _ _ _).trans he) hf (by simp) (by rw [hu]; rfl) (by rw [hu]; rfl) (by rw [hu]; rfl) hafter
  · rw [resultOf_ack hc] at served
    have quiet : s.writeAnswer false result 5 = [] := rfl
    rwa [Option.isSome_none, quiet] at served
  · intro y hy
    rw [commandChecks_ack hc, List.mem_singleton] at hy
    rw [hy]
    exact beq_eq_false_iff_ne.mpr hidle
  · have other : ∀ e ∈ resultTable, e.1 ≠ 0x9012 ∧ e.1 ≠ 0x9000 := by decide
    obtain ⟨e, h, rfl⟩ := mem_resultTable hc
    simp [State.valueInRange, other e h]
    decide

/-- An acknowledgement of a command that is BUSY. -/
theorem ack_busy (hset : s.settled) (hc : (commandOf result).isSome = true) (hw : Writes s r x result 5) (hbusy : s.num result 2 = 1) :
    Aborts (.resultAck r result) s r x 0x02 0x0009 result 5 0 := by
  have own := own_eq (v := 1) (objAt_ack hc) (by decide)
  rw [resultOf_ack hc] at own
  have h15 : (s.accepted x r.seq).stage ≠ 15 := hw.normal
  have stopped : (s.accepted x r.seq).checkObject result 5 ((s.accepted x r.seq).writeChecks x result 5 ackField.ty.code
      (encodeValue ackField.ty (.int 1))) = .error .busy := by
    refine checkObject_abort (objAt_ack hc) h15 ?_
    unfold State.writeChecks
    rw [commandChecks_ack hc]
    refine (firstAbort_skip (write_access_passed (.inr rfl) (by decide) h15)).trans ((firstAbort_skip ?_).trans ((firstAbort_skip ?_).trans
      ((firstAbort_skip ?_).trans (firstAbort_take ?_))))
    · exact decide_eq_false (by have := hw.role; omega)
    · decide
    · have size : (encodeValue ackField.ty (.int 1)).length = 1 := by decide
      exact decide_eq_false (by have := hw.payload; omega)
    · exact beq_iff_eq.mpr hbusy
  refine Aborts.of_perform (a := .write false result 5 ackField.ty.code (encodeValue ackField.ty (.int 1))) (b := .busy) ?_ hset.raises
    hw.toHeard (by simp) (writeReply_abort stopped)
  change State.ownWrite s r result 5 1 = _
  rw [State.ownWrite, own]
  rfl

/-! ### RESTART_CMD -/

/-- RESTART_CMD's object. -/
def restartField : Field := ⟨0x01, 0x01, "RESTART_CMD", .u8, .wo, .int 0, .ival 1 1⟩

theorem objAt_restart : objAt 0x1F00 1 = some restartField := by decide +kernel

theorem resultOf_restart : resultOf 0x1F00 1 = some 0x1F01 := by decide +kernel

theorem commandOf_restart : commandOf 0x1F00 = none := by decide +kernel

theorem writeEffect_restart (s : State) (sess : Nat) :
    s.writeEffect sess 0x1F00 1 (.int 1) = (s.startCmd 0x1F01).addJob ⟨0x1F01, 0, [], .restart⟩ := by
  rfl

/-- RESTART_CMD is taken and BUSY (R85). -/
theorem restartCmd_serves (hset : s.settled) (hcmd : Commands s r x 0x1F00 1 0x1F01) :
    Serves (.restartCmd r) s r x 0x0A (beBytes 4 (s.nextSeq 0x1F01)) (fun a => { a with jobs := a.jobs ++ [⟨0x1F01, 0, [], .restart⟩] }) []
      (busyRegisters 0x1F01) [] (Busy 0x1F01 s) := by
  have starts : Effect [.alm] (busyRegisters 0x1F01) [] (s.accepted x r.seq)
      (((s.accepted x r.seq).startCmd 0x1F01).addJob ⟨0x1F01, 0, [], .restart⟩) :=
    (startCmd_effect _ (by decide) (fun _ h => h)).modAlm _ (by simp)
  have served := Serves.of_row (c := .restartCmd r) (g := fun a => { a with jobs := a.jobs ++ [⟨0x1F01, 0, [], .restart⟩] })
    (f := restartField) (v := 1) (after := Busy 0x1F01 s) rfl hset.raises hcmd.toReady objAt_restart (by decide) (by decide) hcmd.role
    hcmd.payload (by decide) (commandChecks_ok commandOf_restart resultOf_restart hcmd.idle (by decide) (by decide))
    (by simp [State.writeBarred, barred_free hcmd.free, State.servoObject]) (by rfl) (writeEffect_restart _ _) starts (by simp) rfl rfl rfl
    (fun t ht => ?_)
  · rw [resultOf_restart] at served
    have answer : s.writeAnswer true 0x1F00 1 = beBytes 4 (s.nextSeq 0x1F01) := by
      unfold State.writeAnswer
      rw [resultOf_restart]
    rwa [Option.isSome_some, answer] at served
  · have busy : Busy 0x1F01 (s.accepted x r.seq) (((s.accepted x r.seq).startCmd 0x1F01).addJob ⟨0x1F01, 0, [], .restart⟩) :=
      (startCmd_busy _ 0x1F01).kept (Effect.start.modAlm (P := [.alm]) (R := []) (L := []) _ (by simp)).frame (by decide) (by simp)
    exact Busy.of_accepted (busy.kept ht (by decide) (by simp))

/-- Settles O21: completion, acknowledgement in each STATE, and RESTART_CMD. -/
theorem commandResultsFollowThePattern : Obligations.CommandResultsFollowThePattern := by
  refine ⟨fun result j s hset hc hj ha => commandComplete_settled hset hc hj ha, fun r x result s hset hc hw => ⟨fun ended => ?_,
    fun idle => ?_, fun busy => ack_busy hset hc hw busy⟩, fun r x s hset hcmd => restartCmd_serves hset hcmd⟩
  · have nonzero : (s.accepted x r.seq).resultState result ≠ 0 := by
      change s.num result 2 ≠ 0
      omega
    refine ack_serves hset hc hw (by omega) (if_neg nonzero) ?_ ?_ (fun t ht => ?_)
    · rw [State.setN_eq]
      exact Effect.start.set _ _ _ _ (by omega) (by omega) (.inl (by simp)) (not_counts_of_endIndex (endIndex_result hc))
    · rw [State.setN_eq, State.set_alm]
    · rw [ht.num_keep (by simp) (endRegister_of_index (endIndex_result hc) 2), State.setN_eq, State.num_set]
  · have zero : (s.accepted x r.seq).resultState result = 0 := idle
    exact ack_serves hset hc hw (by omega) (if_pos zero) Effect.start rfl (fun _ _ => trivial)

end Sys2Proof.Machine
end

section
/-! Host SPI (R37, R63, R82–R84). -/

namespace Sys2Proof.Machine

variable {P : List Part} {R : List (Nat × Nat)} {L : List Nat} {s t u : State} {x : Session}

/-! ### Transfers -/

/-- HSPI_INT_N after every command: low while a PDU waits and no transfer has ended within 2 µs (R84). -/
theorem settled_hspiIntLow (h : t.settled) : t.alm.hspiIntLow = (!t.alm.hspiTx.isEmpty && t.alm.hspiGap.isNone) := by
  obtain ⟨-, -, -, pin, -⟩ := h.pins
  exact pin

theorem hspiGap_of_core (h : t.alm.core = u.alm.core) : t.alm.hspiGap = u.alm.hspiGap := by
  have k := congrArg Alm.hspiGap h
  exact k

/-- What a transfer out of reset and not in QUIET comes to: it wakes nothing. -/
theorem hspiTransfer_eq {f : State → State} (h : s.boot.inReset = false) (hp : (f s).power ≠ 2) :
    s.hspiTransfer f = (f s).modAlm (fun a => { a with hspiGap := some s.raw }) := by
  unfold State.hspiTransfer State.wake
  rw [h, if_pos hp]
  rfl

/-- HSPI_INT_N is high at the end of a transfer. -/
theorem transfer_high {tick : Nat} (h : Frame [] [] (u.modAlm (fun a => { a with hspiGap := some tick })) t) (hset : t.settled) :
    t.alm.hspiIntLow = false := by
  have gap : t.alm.hspiGap = some tick := hspiGap_of_core (h.part .alm).1
  rw [settled_hspiIntLow hset, gap]
  exact Bool.and_false _

/-- A transfer, from the effect of what it carries. -/
theorem transfer_does {c : Instr} {f : State → State} {after : State → Prop} (hset : s.settled)
    (he : Sys2Proof.Machine.exec c s = complete s (fun s => s.hspiTransfer f)) (hr : s.boot.inReset = false) (hp : s.power ≠ 2)
    (hf : Effect P R [] s (f s)) (ma : Part.alm ∈ P) (mr : (0xF140, 1) ∉ R)
    (hafter : ∀ t, Frame [] [] ((f s).modAlm (fun a => { a with hspiGap := some s.raw })) t → t.alm.hspiIntLow = false → after t) :
    Does c s P R [] after := by
  have awake : (f s).power ≠ 2 := by
    unfold State.power at hp ⊢
    rwa [hf.frame.num_keep mr (by decide)]
  have carried := hspiTransfer_eq hr awake
  refine Does.of_effect he hset.raises ?_ (by simp) (fun t ht hs => ?_)
  · rw [carried]
    exact hf.modAlm _ ma
  · rw [carried] at ht
    exact hafter t ht (transfer_high ht hs)

/-! ### What a transfer carries -/

theorem discardPdu_effect (s : State) (m : (0x1100, 3) ∈ R) : Effect P R [] s s.discardPdu := by
  unfold State.discardPdu
  rw [State.inc32_eq]
  exact Effect.start.set _ _ _ _ (by omega) (by omega) (.inl m) (by omega)

theorem discardPdu_count (s : State) : s.discardPdu.num 0x1100 3 = State.countUp 32 (s.num 0x1100 3) 1 := by
  unfold State.discardPdu
  rw [State.inc32_eq]
  exact State.num_set _ _ _ _

theorem discardPdu_alm (s : State) : s.discardPdu.alm = s.alm := by
  unfold State.discardPdu
  rw [State.inc32_eq, State.set_alm]

/-- A transfer that is discarded is counted (R63, R83). -/
theorem transfer_discards {c : Instr} {f : State → State} (hset : s.settled)
    (he : Sys2Proof.Machine.exec c s = complete s (fun s => s.hspiTransfer f)) (hr : s.boot.inReset = false) (hp : s.power ≠ 2)
    (hf : f s = s.discardPdu) :
    Does c s [.alm] [(0x1100, 3)] [] (fun t => t.alm.core = { s.alm with hspiGap := some s.raw }.core ∧
      t.num 0x1100 3 = State.countUp 32 (s.num 0x1100 3) 1) := by
  refine transfer_does hset he hr hp (by rw [hf]; exact discardPdu_effect s (by simp)) (by simp) (by simp) (fun t ht _ => ?_)
  rw [hf] at ht
  refine ⟨?_, ?_⟩
  · rw [(ht.part .alm).1, State.modAlm_alm, discardPdu_alm]
  · rw [ht.num 0x1100 3]
    exact (State.num_congr (State.modAlm_obj _ _) _ _).trans (discardPdu_count s)

theorem readStatus_eq (s : State) : s.readStatus = s.emit (.hspi (byte (bitsOfList [s.serverOn, !s.alm.hspiTx.isEmpty]) ::
    beBytes 2 ((s.alm.hspiTx.head?.map (fun p => p.1.payload.length + 32)).getD 0))) := by
  unfold State.readStatus
  cases s.alm.hspiTx <;> rfl

theorem writePdu_discarded {b : List Byte} (h : s.serverOn = false ∨ field b 0 2 ≠ 0x5A57) : s.writePdu b = s.discardPdu := by
  unfold State.writePdu
  by_cases on : s.serverOn = true
  · rw [if_pos on]
    unfold State.takePdu
    exact if_pos (.inr (.inl (h.resolve_left (by simp [on]))))
  · rw [if_neg on]

/-- A PDU that verifies is its session's request (R63). -/
theorem writePdu_served {b p : List Byte} (hs : s.serverOn = true) (hlen : b.length = field b 6 2 + 32) (hmagic : field b 0 2 = 0x5A57)
    (hver : field b 2 1 = 1) (hreq : (field b 4 2).testBit 0 = false) (hid : field b 8 4 ≠ 0) (hx : s.session (field b 8 4) = some x)
    (hopen : gcmOpen x.keyIn (beBytes 4 (field b 8 4) ++ beBytes 4 0 ++ beBytes 4 (field b 12 4)) (b.take 16) (slice b 16 (field b 6 2))
      (slice b (16 + field b 6 2) 16) = some p) :
    s.writePdu b = s.serve x .hostSpi (field b 12 4) (parseAsk (field b 3 1) ((field b 4 2).testBit 2) p) := by
  unfold State.writePdu
  rw [if_pos hs]
  unfold State.takePdu
  dsimp only
  rw [if_neg (by simp [hlen, hmagic, hver, hreq]), if_neg hid, hx]
  dsimp only
  rw [hopen]

/-- What is left of the queue after a READ_PDU of its first PDU, whose sealed bytes are given (R83). -/
def leftOver (s : State) (clocked : Nat) (b : List Byte) (rest : List (Pdu × Option (List Byte))) : List (Pdu × Option (List Byte)) :=
  if clocked < b.length then s.alm.hspiTx else rest

theorem readPdu_sends {clocked : Nat} {p : Pdu} {key : Option (List Byte)} {rest : List (Pdu × Option (List Byte))}
    (h : s.alm.hspiTx = (p, key) :: rest) :
    s.readPdu clocked = (s.emit (.hspi ((p.sealed key).take clocked))).modAlm (fun a => { a with
      hspiTx := leftOver s clocked (p.sealed key) rest }) := by
  unfold State.readPdu leftOver
  rw [h]
  dsimp only
  by_cases part : clocked < (p.sealed key).length
  · rw [if_pos part, if_pos part, ← h]
    rfl
  · rw [if_neg part, if_neg part, List.take_of_length_le (by omega)]

/-! ### HSPI_INT_N -/

theorem hspiRearm_due {t0 : Nat} (h : s.alm.hspiGap = some t0) (due : t0 + 2 * tickUs ≤ s.raw) :
    s.hspiRearm = s.modAlm (fun a => { a with hspiGap := none }) := by
  unfold State.hspiRearm
  rw [h]
  exact if_pos due

theorem hspiRearm_early {t0 : Nat} (h : s.alm.hspiGap = some t0) (early : s.raw < t0 + 2 * tickUs) : s.hspiRearm = s := by
  unfold State.hspiRearm
  rw [h]
  exact if_neg (by omega)

/-- HSPI_INT_REARM, as O22 states it. -/
theorem hspiRearm_does {t0 : Nat} (hset : s.settled) (hgap : s.alm.hspiGap = some t0) :
    (t0 + 2 * tickUs ≤ s.raw → Does .hspiIntRearm s [.alm] [] [] (fun t =>
      t.alm.core = { s.alm with hspiGap := none }.core ∧ t.alm.hspiIntLow = !t.alm.hspiTx.isEmpty)) ∧
    (s.raw < t0 + 2 * tickUs → Does .hspiIntRearm s [] [] [] (fun t => t.alm.hspiIntLow = false)) := by
  refine ⟨fun due => ?_, fun early => ?_⟩
  · have rearmed := hspiRearm_due hgap due
    refine Does.of_effect (f := State.hspiRearm) rfl hset.raises ?_ (by simp) (fun t ht hs => ?_)
    · rw [rearmed]
      exact Effect.start.modAlm _ (by simp)
    · rw [rearmed] at ht
      have core := (ht.part .alm).1
      have gap : t.alm.hspiGap = none := hspiGap_of_core core
      refine ⟨core, ?_⟩
      rw [settled_hspiIntLow hs, gap]
      exact Bool.and_true _
  · have stays := hspiRearm_early hgap early
    refine Does.of_effect (f := State.hspiRearm) rfl hset.raises (by rw [stays]; exact Effect.start) (by simp) (fun t ht hs => ?_)
    rw [stays] at ht
    have gap : t.alm.hspiGap = some t0 := (hspiGap_of_core (ht.part .alm).1).trans hgap
    rw [settled_hspiIntLow hs, gap]
    exact Bool.and_false _

/-- Settles O22, transfer by transfer, and the rearm of HSPI_INT_N. -/
theorem hostSpiCarriesPdus : Obligations.HostSpiCarriesPdus := by
  refine ⟨fun s hset hr hp => ?_, fun b s hset hr hp => ⟨fun wrong => transfer_discards hset rfl hr hp (writePdu_discarded wrong),
    fun x p hs hlen hmagic hver hreq hid hx hopen => ?_⟩, fun clocked s hset hr hp => ⟨fun empty => ?_, fun p key rest hq => ?_⟩,
    fun t0 s hset hgap => hspiRearm_does hset hgap⟩
  · refine transfer_does hset rfl hr hp (f := State.readStatus) (by rw [readStatus_eq]; exact Effect.start.emit _ (by simp)) (by simp)
      (by simp) (fun t ht high => ?_)
    rw [readStatus_eq] at ht
    exact ⟨(ht.part .alm).1, high, ht.part .wire⟩
  · have served := writePdu_served hs hlen hmagic hver hreq hid hx hopen
    change Host.Outcome.next (s.settle (s.hspiTransfer (fun s => s.writePdu b))) = _
    have carried : s.hspiTransfer (fun s => s.writePdu b) = ((s.writePdu b).wake 2).modAlm (fun a => { a with hspiGap := some s.raw }) :=
      if_neg (by rw [hr]; exact Bool.false_ne_true)
    rw [carried, served]
    rfl
  · have discarded : s.readPdu clocked = s.discardPdu := by
      unfold State.readPdu
      rw [empty]
    obtain ⟨t, ht, frame, raised, -, count⟩ := transfer_discards (c := .readPdu clocked) (f := fun s => s.readPdu clocked) hset rfl hr hp
      discarded
    exact ⟨t, ht, frame, raised, count⟩
  · have sent := readPdu_sends (clocked := clocked) hq
    have done : Does (.readPdu clocked) s [.alm, .wire] [] [] (fun t =>
        Frame [] [] ((s.readPdu clocked).modAlm (fun a => { a with hspiGap := some s.raw })) t ∧ t.alm.hspiIntLow = false) :=
      transfer_does (f := fun s => s.readPdu clocked) hset rfl hr hp
        (by rw [sent]; exact (Effect.start.emit _ (by simp)).modAlm _ (by simp)) (by simp) (by simp) (fun t ht high => ⟨ht, high⟩)
    obtain ⟨t, ht, -, -, frame, high⟩ := done
    rw [sent] at frame
    obtain ⟨l, hl, -⟩ := (frame.part .alm).2.hspi
    exact ⟨t, ht, high, frame.part .wire, l, hl⟩

end Sys2Proof.Machine
end

section
/-! What the changes of a commit leave to the commit itself (R73): the configuration in force, COMMIT_COUNT, the sequence of the COMMIT, and
that every raise has a source. -/

namespace Sys2Proof.Machine

/-- What an activation reads again after the changes of the chapters: none of them may change it. -/
structure Ledger where
  cfg : Store
  pending : List Instr
  /-- COMMIT_COUNT. -/
  count : Value
  /-- The sequence of the COMMIT in progress. -/
  seq : Value
  /-- Every raise that waits has a source (R516). -/
  sourced : Bool

def State.ledger (s : State) : Ledger :=
  ⟨s.cfg, s.pending, s.value 0x1200 4 0, s.value 0x1201 6 0, s.ev.raised.all (fun r => decide (r.source < 128))⟩

namespace State

/-! ### Branches, folds and the state's operations -/

@[simp] theorem ite_ledger (c : Prop) [Decidable c] (a b : State) : (if c then a else b).ledger = if c then a.ledger else b.ledger :=
  apply_ite ..

@[simp] theorem foldl_ledger {α : Type} (f : State → α → State) (l : List α) (s : State) (h : ∀ s, ∀ x ∈ l, (f s x).ledger = s.ledger) :
    (l.foldl f s).ledger = s.ledger := by
  induction l generalizing s with
  | nil => rfl
  | cons x l ih => rw [List.foldl_cons, ih _ (fun s y hy => h s y (List.mem_cons_of_mem _ hy)), h s x (by simp)]

/-- The state in a pair that a step answers. -/
theorem fst_ledger {β : Type} {x : State × β} {u s : State} {y : β} (e : x = (u, y)) (h : x.1.ledger = s.ledger) : u.ledger = s.ledger := by
  rw [← h, e]

/-- A key orders by its index first, so a register of a higher index is none of the commit's. -/
@[simp] theorem set_ledger (s : State) (i b e : Nat) (v : Value) (h : 0x1202 ≤ i) : (s.set i b e v).ledger = s.ledger := by
  have count : (s.set i b e v).value 0x1200 4 0 = s.value 0x1200 4 0 := Store.get_set_ne _ _ (by unfold okey; omega)
  have seq : (s.set i b e v).value 0x1201 6 0 = s.value 0x1201 6 0 := Store.get_set_ne _ _ (by unfold okey; omega)
  unfold ledger
  rw [count, seq]
  rfl

@[simp] theorem modEv_ledger (s : State) (f : Events → Events) (h : (f s.ev).raised = s.ev.raised) : (s.modEv f).ledger = s.ledger := by
  unfold ledger
  rw [modEv_ev, h]
  rfl

@[simp] theorem raiseEvent_ledger (s : State) (n k : Nat) (h : n < 128) : (s.raiseEvent n k).ledger = s.ledger := by
  unfold ledger
  simp [raiseEvent, h, value]

@[simp] theorem emit_ledger (s : State) (o : Output) : (s.emit o).ledger = s.ledger := (rfl)
@[simp] theorem modEph_ledger (s : State) (f : Eph → Eph) : (s.modEph f).ledger = s.ledger := (rfl)
@[simp] theorem modPtp_ledger (s : State) (f : Ptp → Ptp) : (s.modPtp f).ledger = s.ledger := (rfl)
@[simp] theorem modFlash_ledger (s : State) (f : Flash → Flash) : (s.modFlash f).ledger = s.ledger := (rfl)
@[simp] theorem modKeys_ledger (s : State) (f : Keys → Keys) : (s.modKeys f).ledger = s.ledger := (rfl)
@[simp] theorem modBoot_ledger (s : State) (f : Boot → Boot) : (s.modBoot f).ledger = s.ledger := (rfl)
@[simp] theorem modLoc_ledger (s : State) (f : Local → Local) : (s.modLoc f).ledger = s.ledger := (rfl)
@[simp] theorem modIng_ledger (s : State) (f : Ingest → Ingest) : (s.modIng f).ledger = s.ledger := (rfl)
@[simp] theorem modTr_ledger (s : State) (f : Transit → Transit) : (s.modTr f).ledger = s.ledger := (rfl)
@[simp] theorem modSpec_ledger (s : State) (f : Spec → Spec) : (s.modSpec f).ledger = s.ledger := (rfl)
@[simp] theorem modHor_ledger (s : State) (f : Horizon → Horizon) : (s.modHor f).ledger = s.ledger := (rfl)
@[simp] theorem modLom_ledger (s : State) (b : Nat) (f : LomBay → LomBay) : (s.modLom b f).ledger = s.ledger := (rfl)
@[simp] theorem modAlr_ledger (s : State) (f : Alarms → Alarms) : (s.modAlr f).ledger = s.ledger := (rfl)
@[simp] theorem modEgr_ledger (s : State) (f : Egress → Egress) : (s.modEgr f).ledger = s.ledger := (rfl)
@[simp] theorem modOrr_ledger (s : State) (f : Orrery → Orrery) : (s.modOrr f).ledger = s.ledger := (rfl)
@[simp] theorem modBo_ledger (s : State) (n : Nat) (f : BoRun → BoRun) : (s.modBo n f).ledger = s.ledger := (rfl)
@[simp] theorem modBi_ledger (s : State) (n : Nat) (f : BiRun → BiRun) : (s.modBi n f).ledger = s.ledger := (rfl)
@[simp] theorem modPar_ledger (s : State) (f : Pair → Pair) : (s.modPar f).ledger = s.ledger := (rfl)
@[simp] theorem modPmBay_ledger (s : State) (b : Nat) (f : PmBay → PmBay) : (s.modPmBay b f).ledger = s.ledger := (rfl)
@[simp] theorem modRec_ledger (s : State) (f : Recorder → Recorder) : (s.modRec f).ledger = s.ledger := (rfl)
@[simp] theorem modFab_ledger (s : State) (f : Fabric → Fabric) : (s.modFab f).ledger = s.ledger := (rfl)

/-! ### Conditions, counters and results -/

@[simp] theorem occurs_ledger (s : State) (key window threshold : Nat) : (s.occurs key window threshold).1.ledger = s.ledger := by
  unfold occurs
  dsimp only
  split
  · simp
  · split <;> simp [setQualifier]

@[simp] theorem clearQualifier_ledger (s : State) (key : Nat) : (s.clearQualifier key).ledger = s.ledger := by simp [clearQualifier]
@[simp] theorem countIn_ledger (s : State) (c n : Nat) : (s.countIn c n).ledger = s.ledger := by simp +arith [countIn]
@[simp] theorem perf_ledger (s : State) (die code n : Nat) : (s.perf die code n).ledger = s.ledger := by simp [perf]

@[simp] theorem finishCmd_ledger (s : State) (result code : Nat) (data : List Byte) (h : 0x1202 ≤ result) :
    (s.finishCmd result code data).ledger = s.ledger := by simp [finishCmd, h]

/-! ### Time -/

@[simp] theorem refreshUtc_ledger (s : State) : s.refreshUtc.ledger = s.ledger := by simp [refreshUtc, placeLeap]
@[simp] theorem setLeap_ledger (s : State) (pending : Nat) : (s.setLeap pending).ledger = s.ledger := by simp [setLeap, placeLeap]
@[simp] theorem initOut_ledger (s : State) (n : Nat) : (s.initOut n).ledger = s.ledger := by simp +arith [initOut, modOut, skipPeriodic]
@[simp] theorem initInput_ledger (s : State) (input : Nat) : (s.initInput input).ledger = s.ledger := by simp [initInput]

@[simp] theorem takeUtc_ledger (s : State) : s.takeUtc.ledger = s.ledger := by
  unfold takeUtc
  split <;> simp

@[simp] theorem followParent_ledger (s : State) : s.followParent.ledger = s.ledger := by simp [followParent]
@[simp] theorem initPtp_ledger (s : State) : s.initPtp.ledger = s.ledger := by simp +arith [initPtp, modPtpPort]

/-! ### The local chain -/

@[simp] theorem setCondition_ledger (s : State) (ch kind : Nat) (present : Bool) (h : kind < 80) :
    (s.setCondition ch kind present).ledger = s.ledger := by
  have source : kind + 48 < 128 := by omega
  unfold setCondition
  dsimp only
  split
  · rfl
  · split
    · simp +arith
    · split
      all_goals next e => simpa +arith [source] using fst_ledger e (occurs_ledger ..)

@[simp] theorem dropConditions_ledger (s : State) (ch : Nat) : (s.dropConditions ch).ledger = s.ledger := by
  unfold dropConditions
  extract_lets a b
  have first : a.ledger = s.ledger := by simp [a, modChannel]
  have second : b.ledger = a.ledger := by simp [b]
  split <;> simp [first, second]

@[simp] theorem syncCause_ledger (s : State) : s.syncCause.ledger = s.ledger := by simp [syncCause]

/-! ### Frames and neighbours -/

@[simp] theorem sendItem_ledger (s : State) (p : Nat) (x : TxItem) : (s.sendItem p x).ledger = s.ledger := by
  simp +arith [sendItem, releaseTx, modPort, putOnWire, pCnt]

@[simp] theorem originateFrom_ledger (s : State) (p cls : Nat) (descs : List Nat) (frame : List Byte) :
    (s.originateFrom p cls descs frame).ledger = s.ledger := by
  unfold originateFrom
  split <;> simp [takeRctSeq]

@[simp] theorem originateDecoded_ledger (s : State) (p cls : Nat) (o : Nat → Option (Nat × Nat) → Output) :
    (s.originateDecoded p cls o).ledger = s.ledger := by
  unfold originateDecoded
  split <;> simp [send, takeRctSeq]

@[simp] theorem slowSend_ledger (s : State) (p : Nat) (frame : List Byte) : (s.slowSend p frame).ledger = s.ledger := by
  simp [slowSend, originate]

@[simp] theorem askNeighbour_ledger (s : State) (p : Nat) (a : List Byte) : (s.askNeighbour p a).ledger = s.ledger := by
  simp [askNeighbour, putNeighbour]

@[simp] theorem sendPacket_ledger (s : State) (p : Nat) (a : List Byte) (k : Nat × List Byte) : (s.sendPacket p a k).ledger = s.ledger := by
  unfold sendPacket
  dsimp only
  split
  · simp
  · split <;> simp [putNeighbour]

@[simp] theorem reportGroups_ledger (s : State) (p : Nat) (groups : List (List Byte)) : (s.reportGroups p groups).ledger = s.ledger := by
  simp [reportGroups]

@[simp] theorem lineOff_ledger (s : State) (p : Nat) (h : p < 6) : (s.lineOff p).ledger = s.ledger := by
  have source : 4 * p + 8 < 128 := by omega
  simp +arith [lineOff, modPort, pCfg, source]

/-! ### Streams and queues -/

@[simp] theorem sendStreamCommand_ledger (s : State) (id cmd : Nat) : (s.sendStreamCommand id cmd).ledger = s.ledger := by
  unfold sendStreamCommand
  split <;> simp

@[simp] theorem modStream_ledger (s : State) (id : Nat) (f : Stream → Stream) : (s.modStream id f).ledger = s.ledger := by simp [modStream]
@[simp] theorem askConfig_ledger (s : State) (id : Nat) : (s.askConfig id).ledger = s.ledger := by simp [askConfig]
@[simp] theorem dropHeld_ledger (s : State) (id : Nat) : (s.dropHeld id).ledger = s.ledger := by simp [dropHeld]

@[simp] theorem setStreamState_ledger (s : State) (id st : Nat) : (s.setStreamState id st).ledger = s.ledger := by
  simp +arith [setStreamState]

@[simp] theorem afterLate_ledger (s : State) (id : Nat) : (s.afterLate id).ledger = s.ledger := by simp [afterLate]

@[simp] theorem putQueue_ledger (s : State) (n : Nat) (q : LaneQueue) : (s.putQueue n q).ledger = s.ledger := by
  have high : 0x1202 ≤ 0x5300 + n := by omega
  rw [putQueue]
  split <;> simp only [inc32_eq, setMax_eq, set_ledger _ _ _ _ _ high, perf_ledger, modQueue, modIng_ledger]

@[simp] theorem acceptFrame_ledger (s : State) (e : IngestEntry) : (s.acceptFrame e).ledger = s.ledger := by
  have high : 0x1202 ≤ 0x4000 + e.stream := by omega
  simp [acceptFrame, high]

@[simp] theorem enterQueue_ledger (s : State) (x : IngestEntry) : (s.enterQueue x).ledger = s.ledger := by
  have high : 0x1202 ≤ 0x5300 + laneOf x.stream := by omega
  simp [enterQueue, high]

@[simp] theorem admitWaiting_ledger (fuel : Nat) (s : State) (n : Nat) : (admitWaiting fuel s n).ledger = s.ledger := by
  induction fuel generalizing s with
  | zero => rfl
  | succ fuel ih =>
    unfold admitWaiting
    split
    · split <;> simp [ih, modQueue]
    · rfl

@[simp] theorem emptyQueue_ledger (s : State) (n : Nat) : (s.emptyQueue n).ledger = s.ledger := by simp +arith [emptyQueue]

/-! ### Lanes -/

@[simp] theorem modLane_ledger (s : State) (n : Nat) (f : Lane → Lane) : (s.modLane n f).ledger = s.ledger := by simp [modLane]

@[simp] theorem sendPartial_ledger (s : State) (n ord : Nat) : (s.sendPartial n ord).ledger = s.ledger := by
  simp +arith [sendPartial, modSlot, advanceBase]

@[simp] theorem admitTask_ledger (s : State) (n : Nat) : (s.admitTask n).ledger = s.ledger := by simp +arith [admitTask]

@[simp] theorem finishTask_ledger (s : State) (n : Nat) (t : Task) : (s.finishTask n t).ledger = s.ledger := by simp +arith [finishTask]

@[simp] theorem offerWork_ledger (s : State) (n : Nat) (w : TaskWork) (run : State → State) (h : ∀ t, (run t).ledger = t.ledger) :
    (s.offerWork n w run).ledger = s.ledger := by
  rw [offerWork]
  split
  · split <;> simp [h]
  · simp

@[simp] theorem checkComplete_ledger (s : State) (n ord : Nat) : (s.checkComplete n ord).ledger = s.ledger := by
  rw [checkComplete]
  split
  · rfl
  · simp [duePartial, runPartial]

@[simp] theorem recheck_ledger (s : State) : s.recheck.ledger = s.ledger := by simp [recheck, recheckLane]

@[simp] theorem autoReload_ledger (s : State) (n : Nat) : (s.autoReload n).ledger = s.ledger := by
  simp +arith [autoReload, modLanePower, laneFailed]

@[simp] theorem avsFixed_ledger (s : State) : s.avsFixed.ledger = s.ledger := by simp [avsFixed, requestRail]

/-! ### The Spectroscope, the Horizon and alarms -/

@[simp] theorem resetResonator_ledger (s : State) (key : Nat) : (s.resetResonator key).ledger = s.ledger := by
  simp [resetResonator, putResonator]

@[simp] theorem resetSignal_ledger (s : State) (key : Nat) : (s.resetSignal key).ledger = s.ledger := by simp [resetSignal]
@[simp] theorem deliverAlarms_ledger (s : State) (l : List (Nat × Bool)) : (s.deliverAlarms l).ledger = s.ledger := by simp [deliverAlarms]

@[simp] theorem spectroAlarm_ledger (s : State) (loc : Bool) (b alarm : Nat) (on : Bool) (signal : Nat) :
    (s.spectroAlarm loc b alarm on signal).ledger = s.ledger := by simp [spectroAlarm]

@[simp] theorem horizonOff_ledger (s : State) : s.horizonOff.ledger = s.ledger := by simp [horizonOff]
@[simp] theorem closeTies_ledger (s : State) (ties buses : List Nat) : (s.closeTies ties buses).ledger = s.ledger := by simp [closeTies, putTie]
@[simp] theorem freshIslands_ledger (s : State) : s.freshIslands.ledger = s.ledger := by simp [freshIslands]
@[simp] theorem lomState_ledger (s : State) (b : Nat) : (s.lomState b).ledger = s.ledger := by simp +arith [lomState]
@[simp] theorem lomRelease_ledger (s : State) (b : Nat) : (s.lomRelease b).ledger = s.ledger := by simp [lomRelease]
@[simp] theorem pulsePins_ledger (s : State) (a : Nat) : (s.pulsePins a).ledger = s.ledger := by simp [pulsePins]
@[simp] theorem rerouteAll_ledger (s : State) : s.rerouteAll.1.ledger = s.ledger := by simp [rerouteAll, reroute]

/-! ### GOOSE, the Orrery, meters and the recorder -/

@[simp] theorem gooseSample_ledger (s : State) : s.gooseSample.ledger = s.ledger := by simp [gooseSample, samplePub, modPub]
@[simp] theorem startPub_ledger (s : State) (p : Nat) : (s.startPub p).ledger = s.ledger := by simp [startPub, modPub]
@[simp] theorem startSub_ledger (s : State) (q : Nat) : (s.startSub q).ledger = s.ledger := by simp [startSub]
@[simp] theorem showImage_ledger (s : State) : s.showImage.ledger = s.ledger := by simp [showImage]
@[simp] theorem loadIdle_ledger (s : State) (img : List Byte) : (s.loadIdle img).ledger = s.ledger := by simp [loadIdle]
@[simp] theorem safeBos_ledger (s : State) : s.safeBos.ledger = s.ledger := (rfl)
@[simp] theorem orreryWait_ledger (s : State) : s.orreryWait.ledger = s.ledger := by simp [orreryWait]
@[simp] theorem orreryOff_ledger (s : State) : s.orreryOff.ledger = s.ledger := by simp [orreryOff]
@[simp] theorem freshBi_ledger (s : State) (n : Nat) : (s.freshBi n).ledger = s.ledger := by simp +arith [freshBi, biQuality]

@[simp] theorem setPmCondition_ledger (s : State) (bay kind : Nat) (present : Bool) (h : kind < 72) :
    (s.setPmCondition bay kind present).ledger = s.ledger := by
  have source : kind + 56 < 128 := by omega
  unfold setPmCondition
  dsimp only
  split
  · rfl
  · split
    · simp +arith
    · split
      all_goals next e => simpa +arith [source] using fst_ledger e (occurs_ledger ..)

@[simp] theorem cutPlate_ledger (s : State) : s.cutPlate.ledger = s.ledger := by
  unfold cutPlate
  split <;> simp [setPlate]

@[simp] theorem armRecorder_ledger (s : State) : s.armRecorder.ledger = s.ledger := by simp [armRecorder]

@[simp] theorem recorderOff_ledger (s : State) : s.recorderOff.ledger = s.ledger := by
  unfold recorderOff completePlate
  split <;> simp

@[simp] theorem emptyRing_ledger (s : State) : s.emptyRing.ledger = s.ledger := by simp [emptyRing]

end State

end Sys2Proof.Machine
end

section
/-! COMMIT_ACTIVATE while no transits run (R73). -/

namespace Sys2Proof.Machine

namespace State

/-! ### What each chapter's change leaves to the commit -/

/-- The configuration that is asked of a state, put back, is the one in force. -/
theorem under_ledger (s : State) (cfg : Store) : (s.under cfg).ledger = { s.ledger with cfg := cfg } := (rfl)

@[simp] theorem refreshCrc_ledger (s : State) : s.refreshCrc.ledger = s.ledger := by
  have count : s.refreshCrc.value 0x1200 4 0 = s.value 0x1200 4 0 := Store.get_set_ne _ _ (by decide)
  have seq : s.refreshCrc.value 0x1201 6 0 = s.value 0x1201 6 0 := Store.get_set_ne _ _ (by decide)
  unfold ledger
  rw [count, seq]
  rfl

@[simp] theorem showConfig_ledger (s : State) : s.showConfig.ledger = s.ledger := by simp [showConfig]

@[simp] theorem loseStep_ledger (s : State) (ch : List Nat) : (s.loseStep ch).ledger = s.ledger := by
  unfold loseStep
  split <;> simp

@[simp] theorem applyTime_ledger (s : State) (ch : List Nat) : (s.applyTime ch).ledger = s.ledger := by simp [applyTime]
@[simp] theorem applyLocal_ledger (s : State) (ch : List Nat) : (s.applyLocal ch).ledger = s.ledger := by simp [applyLocal]
@[simp] theorem freshRings_ledger (s : State) (p : Nat) : (s.freshRings p).ledger = s.ledger := by simp [freshRings, modPort]

@[simp] theorem applyPorts_ledger (s : State) (ch : List Nat) : (s.applyPorts ch).ledger = s.ledger := by
  refine foldl_ledger _ _ _ (fun t p hp => ?_)
  have port := List.mem_range.mp hp
  simp [port]

@[simp] theorem applyContext_ledger (old : Store) (ch : List Nat) (s : State) (id : Nat) :
    (applyContext old ch s id).ledger = s.ledger := by
  have high : 0x1202 ≤ 0x4000 + id := by omega
  unfold applyContext
  extract_lets i was is own a b
  have qualified : a.ledger = s.ledger := by simp [a]
  have stopped : (((a.under old).sendStreamCommand id 1).under s.cfg).ledger = s.ledger := by
    rw [under_ledger, sendStreamCommand_ledger, under_ledger, qualified]
    rfl
  have connected : b.ledger = s.ledger := by
    simp only [b, ite_ledger, setN_eq, set_ledger _ _ _ _ _ high, qualified, stopped, ite_self, i]
  simp only [ite_ledger, setN_eq, modIng_ledger, dropHeld_ledger, set_ledger _ _ _ _ _ high, setStreamState_ledger, modStream_ledger,
    afterLate_ledger, connected, ite_self, i]

@[simp] theorem applyContexts_ledger (s : State) (old : Store) (ch : List Nat) : (s.applyContexts old ch).ledger = s.ledger := by
  simp [applyContexts]

@[simp] theorem applyTransit_ledger (s : State) (ch : List Nat) : (s.applyTransit ch).ledger = s.ledger := by simp [applyTransit]

@[simp] theorem resetChanged_ledger (s : State) (ch : List Nat) : (s.resetChanged ch).ledger = s.ledger := by simp [resetChanged]

@[simp] theorem applySpectro_ledger (s : State) (old : Store) (ch : List Nat) : (s.applySpectro old ch).ledger = s.ledger := by
  simp [applySpectro]

@[simp] theorem applyHorizon_ledger (s : State) (old : Store) (ch : List Nat) : (s.applyHorizon old ch).ledger = s.ledger := by
  simp [applyHorizon]

@[simp] theorem applyEgress_ledger (s : State) (old : Store) (ch : List Nat) : (s.applyEgress old ch).ledger = s.ledger := by
  simp [applyEgress]

@[simp] theorem applyOrrery_ledger (s : State) (ch : List Nat) : (s.applyOrrery ch).ledger = s.ledger := by simp +arith [applyOrrery]

@[simp] theorem applyMeters_ledger (s : State) (ch : List Nat) : (s.applyMeters ch).ledger = s.ledger := by
  simp [applyMeters, dropCondition]

@[simp] theorem setCond_ledger (s : State) (t : Nat) (b : Bool) : (s.setCond t b).ledger = s.ledger := by simp [setCond]
@[simp] theorem applyRecorder_ledger (s : State) (ch : List Nat) : (s.applyRecorder ch).ledger = s.ledger := by simp [applyRecorder]

@[simp] theorem applyHealth_ledger (s : State) (ch : List Nat) : (s.applyHealth ch).ledger = s.ledger := by simp +arith [applyHealth]
@[simp] theorem applyTamper_ledger (s : State) (ch : List Nat) : (s.applyTamper ch).ledger = s.ledger := by simp [applyTamper]
@[simp] theorem applyPair_ledger (s : State) (ch : List Nat) : (s.applyPair ch).ledger = s.ledger := by simp [applyPair]

@[simp] theorem losePartition_ledger (s : State) (sub : Nat) : (s.losePartition sub).ledger = s.ledger := by
  unfold losePartition
  split <;> simp

@[simp] theorem applyPartitions_ledger (s : State) (ch : List Nat) : (s.applyPartitions ch).ledger = s.ledger := by simp [applyPartitions]
@[simp] theorem applyLanes_ledger (s : State) (ch : List Nat) : (s.applyLanes ch).ledger = s.ledger := by simp [applyLanes]
@[simp] theorem applySupply_ledger (s : State) : s.applySupply.ledger = s.ledger := by simp [applySupply]

/-- The changes of all chapters leave the commit what it reads again. -/
@[simp] theorem applyConfig_ledger (s : State) (old : Store) (ch : List Nat) : (s.applyConfig old ch).ledger = s.ledger := by
  simp [applyConfig]

end State

variable {s t : State}

/-! ### The boundary -/

/-- The state in which the chapters apply a commit's changes: the staged configuration is in force, and the commit is counted. -/
def switched (s : State) : State :=
  ((s.resetChanged (changedKeys s.cfg s.staged)).under s.staged).inc32 0x1200 4

/-- The state after the chapters' changes. -/
def applied (s : State) : State :=
  (((switched s).applyConfig s.cfg (changedKeys s.cfg s.staged)).setN 0xD000 9 0).modBoot (fun x => { x with saveDue := true })

theorem activate_eq (s : State) : s.activate =
    ((applied s).unstage.modAlm (fun x => { x with commit := .idle })).finishCmd 0x1201 0 (beBytes 2 0) := (rfl)

theorem ledger_cfg (s : State) : s.ledger.cfg = s.cfg := (rfl)
theorem ledger_pending (s : State) : s.ledger.pending = s.pending := (rfl)
theorem ledger_count (s : State) : s.ledger.count = s.value 0x1200 4 0 := (rfl)
theorem ledger_seq (s : State) : s.ledger.seq = s.value 0x1201 6 0 := (rfl)
theorem ledger_sourced (s : State) : s.ledger.sourced = s.ev.raised.all (fun r => decide (r.source < 128)) := (rfl)

/-- COMMIT_COUNT is the only part of the ledger that its register holds. -/
theorem setCount_ledger (s : State) (v : Value) : (s.set 0x1200 4 0 v).ledger = { s.ledger with count := v } := by
  have seq : (s.set 0x1200 4 0 v).value 0x1201 6 0 = s.value 0x1201 6 0 := Store.get_set_ne _ _ (by decide)
  unfold State.ledger
  rw [State.value_set, seq]
  rfl

theorem num_of_ledger (h : t.ledger.count = s.ledger.count) : t.num 0x1200 4 = s.num 0x1200 4 := by
  rw [ledger_count, ledger_count] at h
  unfold State.num State.int
  rw [h]

theorem switched_ledger (s : State) : (switched s).ledger = { s.ledger with
    cfg := s.staged
    count := .int (State.countUp 32 (s.num 0x1200 4) 1) } := by
  have begun : ((s.resetChanged (changedKeys s.cfg s.staged)).under s.staged).ledger = { s.ledger with cfg := s.staged } := by
    rw [State.under_ledger, State.resetChanged_ledger]
  have count : ((s.resetChanged (changedKeys s.cfg s.staged)).under s.staged).num 0x1200 4 = s.num 0x1200 4 :=
    num_of_ledger (by rw [begun])
  unfold switched
  rw [State.inc32_eq, setCount_ledger, begun, count]

theorem applied_ledger (s : State) : (applied s).ledger = { s.ledger with
    cfg := s.staged
    count := .int (State.countUp 32 (s.num 0x1200 4) 1) } := by
  rw [← switched_ledger]
  simp [applied]

theorem applied_cfg (s : State) : (applied s).cfg = s.staged := by rw [← ledger_cfg, applied_ledger]
theorem applied_pending (s : State) : (applied s).pending = s.pending := by rw [← ledger_pending, applied_ledger, ledger_pending]

theorem applied_count (s : State) : (applied s).num 0x1200 4 = State.countUp 32 (s.num 0x1200 4) 1 := by
  unfold State.num State.int
  rw [← ledger_count, applied_ledger]
  rfl

theorem applied_seq (s : State) : (applied s).num 0x1201 6 = s.num 0x1201 6 := by
  unfold State.num State.int
  rw [← ledger_seq, applied_ledger, ledger_seq]

/-- Every raise of a commit's changes has a source. -/
theorem applied_sourced (h : s.ev.raised = []) : ∀ r ∈ (applied s).ev.raised, r.source < 128 := by
  have all := ledger_sourced (applied s)
  rw [applied_ledger, ledger_sourced, h, List.all_nil, eq_comm, List.all_eq_true] at all
  exact fun r hr => of_decide_eq_true (all r hr)

/-- What ends the commit once the changes are applied. -/
theorem activate_effect (s : State) :
    Effect [.alm] (outcomeRegisters 0x1201) [] (applied s).unstage s.activate := by
  rw [activate_eq]
  exact (Effect.start.modAlm _ (by simp)).andQuiet (finishCmd_effect _ (by decide) (fun _ h => h))

theorem activate_frame (s : State) :
    Effect [.alm, .staged] ((0x1200, 2) :: outcomeRegisters 0x1201) [] (applied s) s.activate :=
  (unstage_effect (applied s) (by simp) (by simp)).andQuiet
    ((activate_effect s).mono (by simp) (fun _ h => List.mem_cons_of_mem _ h))

theorem activate_sourced (h : s.ev.raised = []) : ∀ r ∈ s.activate.ev.raised, r.source < 128 := by
  have sources := (activate_frame s).raised
  rw [List.append_nil] at sources
  intro r hr
  have raised : r.source ∈ s.activate.ev.raised.map (·.source) := List.mem_map_of_mem hr
  rw [sources] at raised
  obtain ⟨q, hq, e⟩ := List.mem_map.mp raised
  rw [← e]
  exact applied_sourced h q hq

theorem activate_staged (s : State) : s.activate.staged = s.staged := by
  rw [(activate_effect s).frame.staged_keep (by simp), unstage_staged, applied_cfg]

theorem activate_owner (s : State) : s.activate.num 0x1200 2 = 0 := by
  rw [(activate_effect s).frame.num_keep (by decide) (by decide), unstage_owner]

theorem activate_commit (s : State) : s.activate.alm.commit = .idle := by
  rw [activate_eq, finishCmd_alm, State.modAlm_alm]

theorem activate_outcome (s : State) : Outcome 0x1201 (s.num 0x1201 6) 0 (beBytes 2 0) s.activate := by
  have ending : Effect [.alm, .staged] [(0x1200, 2)] [] (applied s) ((applied s).unstage.modAlm (fun x => { x with commit := .idle })) :=
    (unstage_effect (applied s) (by simp) (by simp)).modAlm _ (by simp)
  rw [← applied_seq s, ← ending.frame.num_keep (i := 0x1201) (b := 6) (by simp) (by decide), activate_eq]
  exact finishCmd_outcome _ _ _ _

/-- The boundary of a commit has come while no transits run (R73). -/
theorem commitActivate_eq (hc : s.alm.commit = .quiescing) (ht : s.transitsRun = false) : s.commitActivate = s.activate := by
  have due : s.atBoundary = true := by
    unfold State.atBoundary
    rw [ht]
    rfl
  unfold State.commitActivate
  rw [if_neg (not_not_intro hc), awaitRate_still ht]
  exact if_pos due

/-- Settles O18: the chapters' changes leave the commit what it reads again, so that it ends with the staged configuration in force. -/
theorem commitActivatesTheStagedSet : Obligations.CommitActivatesTheStagedSet := by
  intro s hset hc ht
  have activates := commitActivate_eq hc ht
  refine Reaches.of_effect (f := State.commitActivate) rfl ?_ ?_ (fun t h _ => ?_)
  · rw [activates]
    exact activate_sourced hset.raises
  · rw [activates, (activate_frame s).frame.pending, applied_pending]
  · rw [activates] at h
    refine ⟨?_, ?_, ?_, ?_, ?_, (activate_outcome s).kept h (by decide) (by simp)⟩
    · rw [h.cfg_keep (by simp), (activate_frame s).frame.cfg_keep (by simp), applied_cfg]
    · rw [h.staged_keep (by simp), activate_staged]
    · rw [h.num 0x1200 2, activate_owner]
    · exact (congrArg Alm.commit (h.part .alm).1).trans (activate_commit s)
    · rw [h.num 0x1200 4, (activate_frame s).frame.num_keep (by decide) (by decide), applied_count]

end Sys2Proof.Machine
end

section
/-! Rows of a host that write one number to an object that is no command: those that are performed, and those that end with STATE because
the object is not usable now (R55, R68, R99, R113). -/

namespace Sys2Proof.Machine

variable {P : List Part} {R : List (Nat × Nat)} {L : List Nat} {s u : State} {r : Req} {x : Session} {c : Instr} {index sub : Nat}
  {v : Int} {f : Field}

/-! ### Numbers on the wire -/

/-- The types of the numbers that the Ephemeris takes from a host. -/
def Ty.numeric (ty : Ty) : Prop := ty = .u8 ∨ ty = .bool ∨ ty = .u64 ∨ ty = .i64 ∨ ty = .et

theorem encodeValue_numeric {ty : Ty} (h : ty.numeric) (v : Int) : encodeValue ty (.int v) = beInt ty.size v := by
  rcases h with rfl | rfl | rfl | rfl | rfl <;> rfl

theorem decodeValue_numeric {ty : Ty} (h : ty.numeric) {b : List Byte} (hb : b.length = ty.size) :
    decodeValue ty b = some (.int (if ty.signed then toSigned (8 * ty.size) (beNat b) else (beNat b : Int))) := by
  rcases h with rfl | rfl | rfl | rfl | rfl <;> exact if_pos hb

theorem encodeValue_length {ty : Ty} (h : ty.numeric) (v : Int) : (encodeValue ty (.int v)).length = ty.size := by
  rw [encodeValue_numeric h]
  exact beBytes_length _ _

theorem beNat_beInt (w : Nat) (v : Int) : (beNat (beInt w v) : Int) = v % (2 ^ (8 * w) : Nat) := by
  have nonneg : 0 ≤ v % (2 ^ (8 * w) : Nat) := Int.emod_nonneg _ (by positivity)
  have small : v % (2 ^ (8 * w) : Nat) < (2 ^ (8 * w) : Nat) := Int.emod_lt_of_pos _ (by positivity)
  have bytes : 256 ^ w = 2 ^ (8 * w) := by rw [pow_mul]; rfl
  unfold beInt
  rw [beNat_beBytes_of_lt (by rw [bytes]; omega), Int.toNat_of_nonneg nonneg]

/-- A natural number that its type holds is read back as it was written. -/
theorem decode_encode_unsigned {ty : Ty} {n : Nat} (hty : ty.numeric) (hs : ty.signed = false) (h : n < 2 ^ (8 * ty.size)) :
    decodeValue ty (encodeValue ty (.int n)) = some (.int n) := by
  rw [decodeValue_numeric hty (encodeValue_length hty _), encodeValue_numeric hty, hs, if_neg Bool.false_ne_true, beNat_beInt,
    ← Int.natCast_mod, Nat.mod_eq_of_lt h]

/-- A number in two's complement is read back as it was written. -/
theorem decode_encode_i64 (hlo : -9223372036854775808 ≤ v) (hhi : v < 9223372036854775808) :
    decodeValue .i64 (encodeValue .i64 (.int v)) = some (.int v) := by
  have hty : Ty.numeric .i64 := by simp [Ty.numeric]
  have read : (beNat (beInt 8 v) : Int) = v % 18446744073709551616 := beNat_beInt 8 v
  rw [decodeValue_numeric hty (encodeValue_length hty _), encodeValue_numeric hty]
  change some (Value.int (toSigned 64 (beNat (beInt 8 v)))) = _
  generalize beNat (beInt 8 v) = n at read
  unfold toSigned
  congr 2
  split <;> omega

/-! ### What every such row needs of its object -/

/-- A number that an object, whose value a session writes and which is no command, takes from a row of its own. -/
structure OwnRow (index sub : Nat) (f : Field) (v : Int) : Prop where
  object : objAt index sub = some f
  read : decodeValue f.ty (encodeValue f.ty (.int v)) = some (.int v)
  form : (State.wrongForm f false || f.acc == .ro || f.acc == .st) = false
  size : (encodeValue f.ty (.int v)).length ≤ 12
  range : inRange f (.int v) = true
  free : index ≠ 0x9012 ∧ index ≠ 0x9000

theorem OwnRow.inRange_ok (row : OwnRow index sub f v) (s : State) : s.valueInRange index sub f (.int v) = true := by
  simp [State.valueInRange, row.range, row.free]

/-- A row of a host that is performed: the session is answered, and the rest is the object's own effect. -/
theorem OwnRow.serves {after : State → Prop} (row : OwnRow index sub f v) (he : exec c s = State.ownWrite s r index sub v)
    (hset : s.settled) (hw : Writes s r x index sub) (hc : commandOf index = none) (hr : resultOf index sub = none)
    (hfree : s.writeBarred index sub = false)
    (heff : (s.accepted x r.seq).writeEffect x.id index sub (.int v) = u) (hf : Effect (.alm :: P) R L (s.accepted x r.seq) u)
    (small : ∀ n ∈ L, n < 128) (halm : u.alm = (s.accepted x r.seq).alm) (hafter : ∀ t, Frame [.alm] [] u t → after t) :
    Serves c s r x 0x02 [] id P R L after := by
  have served := Serves.of_row (g := id) he hset.raises hw.toReady row.object row.read row.form hw.role hw.payload row.size
    (commandChecks_none hc hr) hfree (row.inRange_ok s) heff hf small (by rw [halm]; rfl) (by rw [halm]; rfl) (by rw [halm]; rfl) hafter
  rw [hr] at served
  exact served

/-- A write whose object is not usable in the present state ends with STATE (R68, R559). -/
theorem writeReply_barred {command : Bool} {typeCode : Nat} {bytes : List Byte} (hobj : objAt index sub = some f) (h15 : s.stage ≠ 15)
    (hform : (State.wrongForm f false || f.acc == .ro || f.acc == .st) = false)
    (hcmd : command = true → (resultOf index sub).isSome = true) (hrole : State.writeRole index sub ≤ x.role)
    (hty : typeCode = f.ty.code) (hdec : (decodeValue f.ty bytes).isSome = true) (hlen : 4 + bytes.length ≤ x.maxPayload)
    (hchk : ∀ y ∈ s.commandChecks x.id index sub, y.1 = false) (hst : s.writeBarred index sub = true) :
    s.writeReply x command index sub typeCode bytes = (s, .abort .state index sub 0) := by
  have access : (State.wrongForm f false || f.acc == .ro || f.acc == .st || (s.stage == 15 && index == 0xB100) ||
      (command && (resultOf index sub).isNone)) = false := by
    rw [hform]
    cases command
    · simp [h15]
    · simp [h15, Option.isNone_eq_false_iff.mpr (hcmd rfl)]
  rw [State.writeReply.eq_def, checkObject_abort (a := .state) hobj h15]
  rw [firstAbort_append, firstAbort_take hst]
  intro y hy
  simp only [List.cons_append, List.nil_append, List.mem_cons] at hy
  rcases hy with rfl | rfl | rfl | rfl | hy
  · exact access
  · exact decide_eq_false (by omega)
  · simp [hty, Option.isNone_eq_false_iff.mpr hdec]
  · exact decide_eq_false (by omega)
  · exact hchk y hy

/-- A row of a host whose object is not usable in the present state. -/
theorem OwnRow.aborts (row : OwnRow index sub f v) (he : exec c s = State.ownWrite s r index sub v) (hset : s.settled)
    (hR : Ready s r x) (hrole : State.writeRole index sub ≤ x.role) (hpay : 16 ≤ x.maxPayload)
    (hchk : ∀ y ∈ s.commandChecks x.id index sub, y.1 = false) (hbar : s.writeBarred index sub = true) :
    Aborts c s r x (if (resultOf index sub).isSome then 0x0A else 0x02) 0x000E index sub 0 := by
  have stopped := writeReply_barred (s := s.accepted x r.seq) (command := (resultOf index sub).isSome) row.object hR.normal row.form
    (fun k => k) hrole rfl (by rw [row.read]; rfl) (by have := row.size; omega) hchk hbar
  refine Aborts.of_perform (a := .write (resultOf index sub).isSome index sub f.ty.code (encodeValue f.ty (.int v))) (b := .state) ?_
    hset.raises hR.toHeard (by simp) stopped
  rw [he, State.ownWrite, own_eq row.object row.read]

end Sys2Proof.Machine
end

section
/-! Registers of the Ephemeris, its timed outputs and its ports of PTP: what a command has left of them once it has ended. -/

namespace Sys2Proof.Machine

variable {P : List Part} {R : List (Nat × Nat)} {L : List Nat} {s t u : State}

/-! ### Registers below those of the end of a command -/

theorem endRegister_low {i b : Nat} (h : i < 0x6201) : endRegister i b = false := by
  simp [endRegister]
  omega

/-- A write of a listed register of the time base. -/
theorem Effect.setLow (h : Effect P R L s u) (i b e : Nat) (v : Value) (m : (i, b) ∈ R) (hi : i < 0x6201 := by omega)
    (hb : b < 256 := by omega) (he : e < 65536 := by omega) : Effect P R L s (u.set i b e v) :=
  h.set i b e v hb he (.inl m) (by omega)

theorem Frame.num_low (h : Frame P R s u) {i b : Nat} (hm : (i, b) ∉ R) (hi : i < 0x6201 := by omega) (hb : b < 256 := by omega) :
    u.num i b = s.num i b := h.num_keep hm (endRegister_low hi) hb

theorem Frame.int_low (h : Frame P R s u) {i b : Nat} (hm : (i, b) ∉ R) (hi : i < 0x6201 := by omega) (hb : b < 256 := by omega) :
    u.int i b = s.int i b := by
  unfold State.int
  rw [h.regs i b 0 hb (by omega) hm (endRegister_low hi)]

theorem Frame.flag_low (h : Frame P R s u) {i b : Nat} (hm : (i, b) ∉ R) (hi : i < 0x6201 := by omega) (hb : b < 256 := by omega) :
    u.flag i b = s.flag i b := by
  unfold State.flag
  rw [h.num_low hm hi hb]

theorem Frame.elem_low (h : Frame P R s u) {i b e : Nat} (hm : (i, b) ∉ R) (hi : i < 0x6201 := by omega) (hb : b < 256 := by omega)
    (he : e < 65536 := by omega) : u.elem i b e = s.elem i b e := by
  unfold State.elem
  rw [h.regs i b e hb he hm (endRegister_low hi)]

/-- A register's number after a write of a number to some register. -/
theorem State.int_set_if (s : State) {i b e i' b' : Nat} (v : Int) (hb : b < 256) (he : e < 65536) (hb' : b' < 256) :
    (s.set i b e (.int v)).int i' b' = if i' = i ∧ b' = b ∧ 0 = e then v else s.int i' b' := by
  unfold State.int
  rw [State.value_set_ite s _ hb he hb' (by omega)]
  split <;> rfl

theorem State.num_set_if (s : State) {i b e i' b' : Nat} (v : Int) (hb : b < 256) (he : e < 65536) (hb' : b' < 256) :
    (s.set i b e (.int v)).num i' b' = if i' = i ∧ b' = b ∧ 0 = e then v.toNat else s.num i' b' := by
  unfold State.num
  rw [State.int_set_if s v hb he hb']
  split <;> rfl

/-! ### The present time -/

theorem Frame.et_keep (h : Frame P R s u) (hm : Part.eph ∉ P) : u.et = s.et := by
  have k : u.eph.core = s.eph.core := h.parts .eph hm
  exact (congrArg (fun e : Eph => e.baseEt + (e.raw - e.baseRaw) * e.increment) k :)

/-! ### Timed outputs -/

/-- What a timed output is but for its level, which follows from it. -/
def TimedOut.core (o : TimedOut) : TimedOut := { o with level := 0 }

@[simp] theorem TimedOut.core_active (o : TimedOut) : o.core.active = o.active := (rfl)
@[simp] theorem TimedOut.core_endTick (o : TimedOut) : o.core.endTick = o.endTick := (rfl)
@[simp] theorem TimedOut.core_lastPeriodic (o : TimedOut) : o.core.lastPeriodic = o.lastPeriodic := (rfl)

theorem timedOut_core (h : t.eph.core = u.eph.core) (n : Nat) : (t.timedOut n).core = (u.timedOut n).core := by
  have outs : t.eph.outs.map TimedOut.core = u.eph.outs.map TimedOut.core := congrArg Eph.outs h
  have read : ∀ l : List TimedOut, (nth l n ⟨false, 0, false, none, 2⟩).core =
      nth (l.map TimedOut.core) n ⟨false, 0, false, none, 0⟩ :=
    fun l => (List.getD_map l _ TimedOut.core).symm
  unfold State.timedOut
  rw [read, read, outs]

theorem Frame.out (h : Frame P R s u) (hm : Part.eph ∉ P) (n : Nat) : (u.timedOut n).core = (s.timedOut n).core :=
  timedOut_core (h.parts .eph hm) n

theorem timedOut_modOut (f : TimedOut → TimedOut) {n : Nat} (h : n < s.eph.outs.length) :
    (s.modOut n f).timedOut n = f (s.timedOut n) := nth_modify _ _ _ _ h

theorem Effect.modOut (h : Effect P R L s u) (n : Nat) (f : TimedOut → TimedOut) (m : Part.eph ∈ P) : Effect P R L s (u.modOut n f) :=
  h.modEph _ m

@[simp] theorem State.timedOut_set (s : State) (i b e : Nat) (v : Value) (n : Nat) : (s.set i b e v).timedOut n = s.timedOut n := (rfl)
@[simp] theorem State.modOut_obj (s : State) (n : Nat) (f : TimedOut → TimedOut) : (s.modOut n f).obj = s.obj := (rfl)
@[simp] theorem State.modOut_alm (s : State) (n : Nat) (f : TimedOut → TimedOut) : (s.modOut n f).alm = s.alm := (rfl)
@[simp] theorem State.num_modOut (s : State) (n : Nat) (f : TimedOut → TimedOut) (i b : Nat) : (s.modOut n f).num i b = s.num i b := (rfl)
@[simp] theorem State.et_modOut (s : State) (n : Nat) (f : TimedOut → TimedOut) : (s.modOut n f).et = s.et := (rfl)

end Sys2Proof.Machine
end

section
/-! Timed outputs (R112–R114). -/

namespace Sys2Proof.Machine

variable {P : List Part} {R : List (Nat × Nat)} {L : List Nat} {s t u : State} {r : Req} {x : Session} {n : Nat}

/-! ### ARM_AT -/

/-- ARM_AT of every timed output. -/
def armAtField : Field := ⟨0x07, 0x07, "ARM_AT", .et, .rw, .int 0, .any⟩

theorem armAtRow (n : Fin 8) {at_ : Nat} (h : at_ < 2 ^ 96) : OwnRow (0x2200 + n.val) 7 armAtField at_ := by
  have object : ∀ n : Fin 8, objAt (0x2200 + n.val) 7 = some armAtField := by decide +kernel
  refine ⟨object n, decode_encode_unsigned (by simp [armAtField, Ty.numeric]) rfl h, by decide, ?_, rfl, by omega, by omega⟩
  rw [encodeValue_length (by simp [armAtField, Ty.numeric])]
  decide

theorem armAt_plain : ∀ n : Fin 8, commandOf (0x2200 + n.val) = none ∧ resultOf (0x2200 + n.val) 7 = none := by decide +kernel

theorem writeEffect_armAt (s : State) (sess : Nat) (n : Fin 8) (at_ : Nat) :
    s.writeEffect sess (0x2200 + n.val) 7 (.int at_) = s.writeArmAt n.val at_ := by
  have h := n.isLt
  have taken : s.writeTime (0x2200 + n.val) 7 (.int at_) = some (s.writeArmAt n.val at_) := by
    unfold State.writeTime
    simp only [toInt_int, Int.toNat_natCast]
    rw [if_neg (by omega), if_neg (by omega), if_pos ⟨by omega, by omega, trivial⟩, Nat.add_sub_cancel_left]
  unfold State.writeEffect
  rw [taken]

/-- ARM_AT is usable only with MODE ONE_SHOT (R113). -/
theorem writeBarred_armAt (hfree : s.restricted = false) (n : Fin 8) :
    s.writeBarred (0x2200 + n.val) 7 = (s.c (0x2200 + n.val) 1 != 1) := by
  have h := n.isLt
  unfold State.writeBarred
  rw [barred_free hfree true (by omega)]
  simp [State.servoObject, show ¬ 0x2200 + n.val = 0x2000 by omega, show 0x2200 + n.val ≤ 0x2207 by omega]

/-- A write of ARM_AT that is taken, from what it leaves. -/
theorem armAt_serves {n : Fin 8} {at_ : Nat} {after : State → Prop} (hset : s.settled) (hw : Writes s r x (0x2200 + n.val) 7)
    (hat : at_ < 2 ^ 96) (hmode : s.c (0x2200 + n.val) 1 = 1)
    (hf : Effect (.alm :: P) R L (s.accepted x r.seq) ((s.accepted x r.seq).writeArmAt n.val at_)) (small : ∀ k ∈ L, k < 128)
    (halm : ((s.accepted x r.seq).writeArmAt n.val at_).alm = (s.accepted x r.seq).alm)
    (hafter : ∀ t, Frame [.alm] [] ((s.accepted x r.seq).writeArmAt n.val at_) t → after t) :
    Serves (.armAtWrite r n at_) s r x 0x02 [] id P R L after := by
  obtain ⟨noCommand, noResult⟩ := armAt_plain n
  refine (armAtRow n hat).serves rfl hset hw noCommand noResult ?_ (writeEffect_armAt _ _ n at_) hf small halm hafter
  rw [writeBarred_armAt hw.free, hmode]
  rfl

theorem writeArmAt_armed {at_ : Nat} (h : s.num (0x2200 + n) 8 ≠ 2) (hat : s.et ≤ at_) :
    s.writeArmAt n at_ = (s.setN (0x2200 + n) 7 at_).setN (0x2200 + n) 8 1 := by
  unfold State.writeArmAt State.armOut
  simp [State.num_set_if, h, Nat.not_lt.mpr hat]

theorem writeArmAt_missed {at_ : Nat} (h : s.num (0x2200 + n) 8 ≠ 2) (hat : at_ < s.et) :
    s.writeArmAt n at_ = (s.setN (0x2200 + n) 7 at_).missOut n := by
  unfold State.writeArmAt State.armOut
  simp [State.num_set_if, h, hat]

theorem writeArmAt_kept {at_ : Nat} (h : s.num (0x2200 + n) 8 = 2) :
    s.writeArmAt n at_ = (s.setN (0x2200 + n) 7 at_).modOut n (fun o => { o with rearm := true }) := by
  unfold State.writeArmAt
  simp [State.num_set_if, h]

/-- A write of ARM_AT, as O26 states it. -/
theorem armAtWrite_does {n : Fin 8} {at_ : Nat} (hset : s.settled) (hw : Writes s r x (0x2200 + n.val) 7) (hat : at_ < 2 ^ 96) :
    (s.c (0x2200 + n.val) 1 ≠ 1 → Aborts (.armAtWrite r n at_) s r x 0x02 0x000E (0x2200 + n.val) 7 0) ∧
    (s.c (0x2200 + n.val) 1 = 1 → s.num (0x2200 + n.val) 8 ≠ 2 → s.et ≤ at_ →
      Serves (.armAtWrite r n at_) s r x 0x02 [] id [] [(0x2200 + n.val, 7), (0x2200 + n.val, 8)] [] (fun t =>
        t.num (0x2200 + n.val) 7 = at_ ∧ t.num (0x2200 + n.val) 8 = 1)) ∧
    (s.c (0x2200 + n.val) 1 = 1 → s.num (0x2200 + n.val) 8 ≠ 2 → at_ < s.et →
      Serves (.armAtWrite r n at_) s r x 0x02 [] id [] [(0x2200 + n.val, 7), (0x2200 + n.val, 8), (0x2200 + n.val, 0x0A)] [5] (fun t =>
        t.num (0x2200 + n.val) 8 = 3 ∧ t.num (0x2200 + n.val) 0x0A = State.countUp 32 (s.num (0x2200 + n.val) 0x0A) 1)) ∧
    (s.c (0x2200 + n.val) 1 = 1 → s.num (0x2200 + n.val) 8 = 2 →
      Serves (.armAtWrite r n at_) s r x 0x02 [] id [.eph] [(0x2200 + n.val, 7)] [] (fun t => t.num (0x2200 + n.val) 7 = at_)) := by
  have hn := n.isLt
  obtain ⟨noCommand, noResult⟩ := armAt_plain n
  refine ⟨fun hmode => ?_, fun hmode hidle hlate => ?_, fun hmode hidle hpast => ?_, fun hmode hactive => ?_⟩
  · have barred : s.writeBarred (0x2200 + n.val) 7 = true := by
      rw [writeBarred_armAt hw.free]
      simpa using hmode
    have stopped := (armAtRow n hat).aborts (c := .armAtWrite r n at_) rfl hset hw.toReady hw.role hw.payload
      (commandChecks_none noCommand noResult) barred
    rwa [noResult] at stopped
  · have armed := writeArmAt_armed (s := s.accepted x r.seq) (at_ := at_) hidle hlate
    refine armAt_serves hset hw hat hmode ?_ (by simp) ?_ (fun t ht => ⟨?_, ?_⟩) <;> rw [armed] at *
    · simp only [State.setN_eq]
      exact (Effect.start.setLow _ _ _ _ (by simp)).setLow _ _ _ _ (by simp)
    · simp
    · rw [ht.num_low (by simp)]
      simp [State.num_set_if]
    · rw [ht.num_low (by simp)]
      simp [State.num_set_if]
  · have missed := writeArmAt_missed (s := s.accepted x r.seq) (at_ := at_) hidle hpast
    refine armAt_serves hset hw hat hmode ?_ (by simp) ?_ (fun t ht => ⟨?_, ?_⟩) <;> rw [missed, State.missOut] at *
    · simp only [State.setN_eq, State.inc32_eq]
      exact Effect.raiseLast (((Effect.start.setLow _ _ _ _ (by simp)).setLow _ _ _ _ (by simp)).setLow _ _ _ _ (by simp)) _ _ rfl
    · simp
    · rw [ht.num_low (by simp)]
      simp [State.num_set_if]
    · rw [ht.num_low (by simp)]
      simp [State.num_set_if, accepted_num]
  · have kept := writeArmAt_kept (s := s.accepted x r.seq) (at_ := at_) hactive
    refine armAt_serves hset hw hat hmode ?_ (by simp) ?_ (fun t ht => ?_) <;> rw [kept] at *
    · simp only [State.setN_eq]
      exact (Effect.start.setLow _ _ _ _ (by simp)).modOut _ _ (by simp)
    · simp
    · rw [ht.num_low (by simp)]
      simp [State.num_set_if]

/-! ### Edges -/

theorem driveOut_effect (s : State) (hn : n < 8) (m : Part.eph ∈ P) (h9 : (0x2200 + n, 9) ∈ R) (hb : (0x2200 + n, 0x0B) ∈ R) :
    Effect P R [] s (s.driveOut n) := by
  unfold State.driveOut
  simp only [State.setN_eq, State.inc32_eq]
  exact ((Effect.start.setLow _ _ _ _ h9).setLow _ _ _ _ hb).modOut _ _ m

theorem driveOut_fired (s : State) (n : Nat) : (s.driveOut n).num (0x2200 + n) 9 = State.countUp 32 (s.num (0x2200 + n) 9) 1 := by
  simp [State.driveOut, State.num_set_if]

theorem driveOut_lastEdge (s : State) (n : Nat) : (s.driveOut n).num (0x2200 + n) 0x0B = s.et := by
  simp [State.driveOut, State.num_set_if]

theorem driveOut_out (h : n < s.eph.outs.length) : (s.driveOut n).timedOut n =
    { s.timedOut n with
      active := true, endTick := s.raw + (s.c (0x2200 + n) 5 * ns + s.eph.increment - 1) / s.eph.increment } := by
  unfold State.driveOut
  rw [timedOut_modOut _ (by simpa using h), State.setN_eq, State.inc32_eq, State.timedOut_set, State.timedOut_set]

/-- TO_ONE_SHOT_EDGE at its time (R113). -/
theorem oneShotEdge_due {n : Fin 8} (hset : s.settled) (hlen : n.val < s.eph.outs.length) (hmode : s.c (0x2200 + n.val) 1 = 1)
    (harmed : s.num (0x2200 + n.val) 8 = 1) (hdue : s.num (0x2200 + n.val) 7 ≤ s.et) :
    Does (.toOneShotEdge n) s [.eph] [(0x2200 + n.val, 8), (0x2200 + n.val, 9), (0x2200 + n.val, 0x0B)] [] (fun t =>
      t.num (0x2200 + n.val) 8 = 2 ∧ t.num (0x2200 + n.val) 9 = State.countUp 32 (s.num (0x2200 + n.val) 9) 1 ∧
      t.num (0x2200 + n.val) 0x0B = s.et ∧ (t.timedOut n.val).active = true ∧
      (t.timedOut n.val).endTick = s.raw + (s.c (0x2200 + n.val) 5 * ns + s.eph.increment - 1) / s.eph.increment) := by
  have hn := n.isLt
  have fires : s.oneShotEdge n.val = (s.driveOut n.val).set (0x2200 + n.val) 8 0 (.int 2) := if_pos ⟨hmode, harmed, hdue⟩
  refine Does.of_effect (f := fun s => s.oneShotEdge n.val) rfl hset.raises ?_ (by simp) (fun t ht _ => ?_)
  · rw [fires]
    exact (driveOut_effect s hn (by simp) (by simp) (by simp)).setLow _ _ _ _ (by simp)
  · rw [fires] at ht
    have out := ht.out (by simp) n.val
    rw [State.timedOut_set, driveOut_out hlen] at out
    refine ⟨?_, ?_, ?_, congrArg TimedOut.active out, by simpa using congrArg TimedOut.endTick out⟩ <;> rw [ht.num_low (by simp)] <;>
      simp [State.num_set_if, driveOut_fired, driveOut_lastEdge]

/-- A command that leaves the state as it is. -/
theorem does_nothing {c : Instr} {f : State → State} (hset : s.settled) (he : exec c s = complete s f) (h : f s = s) :
    Does c s P R [] (fun _ => True) :=
  Does.of_effect he hset.raises (by rw [h]; exact Effect.start) (by simp) (fun _ _ _ => trivial)

/-- TO_PERIODIC_EDGE at an edge time that has not been driven yet (R114). -/
theorem periodicEdge_due {n : Fin 8} (hset : s.settled) (hlen : n.val < s.eph.outs.length) (hmode : s.c (0x2200 + n.val) 1 = 2)
    (hstate : s.num (0x2200 + n.val) 8 = 4) (hdue : ∀ e, (s.timedOut n.val).lastPeriodic = some e → e < s.periodicEdge n.val s.et) :
    Does (.toPeriodicEdge n) s [.eph] [(0x2200 + n.val, 9), (0x2200 + n.val, 0x0B)] [] (fun t =>
      t.num (0x2200 + n.val) 9 = State.countUp 32 (s.num (0x2200 + n.val) 9) 1 ∧ t.num (0x2200 + n.val) 0x0B = s.et ∧
      (t.timedOut n.val).active = true ∧ (t.timedOut n.val).lastPeriodic = some (s.periodicEdge n.val s.et)) := by
  have hn := n.isLt
  have fires : s.periodicOutEdge n.val =
      (s.driveOut n.val).modOut n.val (fun o => { o with lastPeriodic := some (s.periodicEdge n.val s.et) }) := by
    refine if_pos ⟨hmode, hstate, ?_⟩
    split
    · rfl
    · rename_i e h
      exact decide_eq_true (hdue e h)
  refine Does.of_effect (f := fun s => s.periodicOutEdge n.val) rfl hset.raises ?_ (by simp) (fun t ht _ => ?_)
  · rw [fires]
    exact (driveOut_effect s hn (by simp) (by simp) (by simp)).modOut _ _ (by simp)
  · rw [fires] at ht
    have length : n.val < (s.driveOut n.val).eph.outs.length := by
      simpa [State.driveOut, State.modOut, modNth] using hlen
    have out := ht.out (by simp) n.val
    rw [timedOut_modOut _ length, driveOut_out hlen] at out
    refine ⟨?_, ?_, congrArg TimedOut.active out, congrArg TimedOut.lastPeriodic out⟩ <;> rw [ht.num_low (by simp), State.num_modOut]
    · exact driveOut_fired s n.val
    · exact driveOut_lastEdge s n.val

/-! ### The end of a pulse -/

/-- An output whose pulse has ended. -/
def State.pulseEnded (s : State) (n : Nat) : State := s.modOut n (fun x => { x with active := false, rearm := false })

theorem pulseEnded_out (h : n < s.eph.outs.length) : (s.pulseEnded n).timedOut n = { s.timedOut n with active := false, rearm := false } :=
  timedOut_modOut _ h

theorem outPulseEnd_due (hactive : (s.timedOut n).active = true) (hend : (s.timedOut n).endTick ≤ s.raw) : s.outPulseEnd n =
    if s.num (0x2200 + n) 8 = 2 then
      (if (s.timedOut n).rearm then (s.pulseEnded n).armOut n else (s.pulseEnded n).setN (0x2200 + n) 8 3)
    else s.pulseEnded n := by
  unfold State.outPulseEnd
  dsimp only
  rw [if_neg (by simpa [hactive] using hend)]
  rfl

/-- TO_PULSE_END of a one-shot, which is in some state after it (R112, R113). -/
theorem pulseEnd_oneShot {n : Fin 8} {v : Nat} (hset : s.settled) (hlen : n.val < s.eph.outs.length)
    (hends : s.outPulseEnd n.val = (s.pulseEnded n.val).set (0x2200 + n.val) 8 0 (.int v)) :
    Does (.toPulseEnd n) s [.eph] [(0x2200 + n.val, 8)] [] (fun t =>
      (t.timedOut n.val).active = false ∧ t.num (0x2200 + n.val) 8 = v) := by
  have hn := n.isLt
  refine Does.of_effect (f := fun s => s.outPulseEnd n.val) rfl hset.raises ?_ (by simp) (fun t ht _ => ?_)
  · rw [hends]
    exact (Effect.start.modOut _ _ (by simp)).setLow _ _ _ _ (by simp)
  · rw [hends] at ht
    have out := ht.out (by simp) n.val
    rw [State.timedOut_set, pulseEnded_out hlen] at out
    refine ⟨congrArg TimedOut.active out, ?_⟩
    rw [ht.num_low (by simp), State.num_set]

/-- TO_PULSE_END of a periodic output (R112). -/
theorem pulseEnd_periodic {n : Fin 8} (hset : s.settled) (hlen : n.val < s.eph.outs.length)
    (hends : s.outPulseEnd n.val = s.pulseEnded n.val) :
    Does (.toPulseEnd n) s [.eph] [] [] (fun t => (t.timedOut n.val).active = false) := by
  refine Does.of_effect (f := fun s => s.outPulseEnd n.val) rfl hset.raises ?_ (by simp) (fun t ht _ => ?_)
  · rw [hends]
    exact Effect.start.modOut _ _ (by simp)
  · rw [hends] at ht
    exact congrArg TimedOut.active ((ht.out (by simp) n.val).trans (congrArg TimedOut.core (pulseEnded_out hlen)))

/-- Settles O26: the arming, the edges and the pulse ends, case by case. -/
theorem timedOutputsPulse : Obligations.TimedOutputsPulse := by
  refine ⟨fun r x n at_ s hset hw hat => armAtWrite_does hset hw hat, fun n s hset hlen => ⟨oneShotEdge_due hset hlen,
    fun _ hearly => ?_, periodicEdge_due hset hlen, fun hactive hend =>
    ⟨fun hstate hrearm => ?_, fun hstate hrearm hat => ?_, fun hstate => ?_⟩⟩⟩
  · exact does_nothing (f := fun s => s.oneShotEdge n.val) hset rfl (if_neg (fun ⟨_, _, hdue⟩ => Nat.not_lt.mpr hdue hearly))
  all_goals have ends := outPulseEnd_due hactive hend
  · rw [if_pos hstate, hrearm, if_neg Bool.false_ne_true, State.setN_eq] at ends
    exact pulseEnd_oneShot hset hlen ends
  · rw [if_pos hstate, hrearm, if_pos rfl] at ends
    have armed : (s.pulseEnded n.val).armOut n.val = (s.pulseEnded n.val).set (0x2200 + n.val) 8 0 (.int (1 : Nat)) := by
      unfold State.armOut
      rw [State.pulseEnded, State.num_modOut, State.et_modOut, if_neg (Nat.not_lt.mpr hat), State.setN_eq]
    exact pulseEnd_oneShot hset hlen (ends.trans armed)
  · rw [if_neg (by omega)] at ends
    exact pulseEnd_periodic hset hlen ends

end Sys2Proof.Machine
end

section
/-! What the rest of the device leaves to the time base (R86–R95, R116): the rate segment and the raw counter, the count and record of
offset steps, the outcome of STEP_CMD, the counts of captures, the commands that wait, and that every raise has a source. -/

namespace Sys2Proof.Machine

/-- What a tick, a step or a capture reads again once the rest of the device has followed it. -/
structure Clock where
  pending : List Instr
  raw : Nat
  baseRaw : Nat
  baseEt : Et
  increment : Nat
  /-- STEP_COUNT and LAST_STEP. -/
  steps : Value × Value
  /-- SEQ, STATE, CODE and DATA of STEP_CMD's result. -/
  result : Value × Value × Value × Value
  /-- CAPTURE_COUNT of each timed input. -/
  captures : List Value
  /-- Every raise that waits has a source (R516). -/
  sourced : Bool

def State.clock (s : State) : Clock :=
  { pending := s.pending, raw := s.eph.raw, baseRaw := s.eph.baseRaw, baseEt := s.eph.baseEt, increment := s.eph.increment
    steps := (s.value 0x2000 0x1B 0, s.value 0x2000 0x1C 0)
    result := (s.value 0x2001 1 0, s.value 0x2001 2 0, s.value 0x2001 3 0, s.value 0x2001 4 0)
    captures := (List.range 4).map (fun n => s.value (0x2210 + n) 4 0)
    sourced := s.ev.raised.all (fun r => decide (r.source < 128)) }

/-- A register that the clock holds. -/
def clockRegister (i b : Nat) : Prop :=
  (i = 0x2000 ∧ (b = 0x1B ∨ b = 0x1C)) ∨ (i = 0x2001 ∧ 1 ≤ b ∧ b ≤ 4) ∨ (0x2210 ≤ i ∧ i < 0x2214 ∧ b = 4)

namespace State

/-! ### Branches, folds and the state's operations -/

@[simp] theorem ite_clock (c : Prop) [Decidable c] (a b : State) : (if c then a else b).clock = if c then a.clock else b.clock :=
  apply_ite ..

@[simp] theorem foldl_clock {α : Type} (f : State → α → State) (l : List α) (s : State)
    (h : ∀ s, ∀ x ∈ l, (f s x).clock = s.clock) :
    (l.foldl f s).clock = s.clock := by
  induction l generalizing s with
  | nil => rfl
  | cons x l ih => rw [List.foldl_cons, ih _ (fun s y hy => h s y (List.mem_cons_of_mem _ hy)), h s x (by simp)]

/-- The state in a pair that a step answers. -/
theorem fst_clock {β : Type} {x : State × β} {u s : State} {y : β} (e : x = (u, y)) (h : x.1.clock = s.clock) : u.clock = s.clock := by
  rw [← h, e]

/-- A write of any other register leaves the clock alone. -/
theorem set_clock_of_key (s : State) (i b e : Nat) (v : Value)
    (h : ∀ i' b', clockRegister i' b' → (s.set i b e v).value i' b' 0 = s.value i' b' 0) : (s.set i b e v).clock = s.clock := by
  have captures : (List.range 4).map (fun n => (s.set i b e v).value (0x2210 + n) 4 0) =
      (List.range 4).map (fun n => s.value (0x2210 + n) 4 0) := by
    refine List.map_congr_left (fun n hn => h _ _ ?_)
    have := List.mem_range.mp hn
    unfold clockRegister
    omega
  unfold clock
  rw [captures, h 0x2000 0x1B, h 0x2000 0x1C, h 0x2001 1, h 0x2001 2, h 0x2001 3, h 0x2001 4]
  · rfl
  all_goals unfold clockRegister; omega

/-- A key orders by its index first, so a register of a higher index is none of the clock's, whatever its element. -/
@[simp] theorem set_clock_high (s : State) (i b e : Nat) (v : Value) (h : 0x2214 ≤ i) : (s.set i b e v).clock = s.clock :=
  set_clock_of_key s i b e v (fun i' b' k => Store.get_set_ne _ _ (by unfold clockRegister at k; unfold okey; omega))

@[simp] theorem set_clock (s : State) (i b e : Nat) (v : Value) (h0 : i = 0x2000 → b ≠ 0x1B ∧ b ≠ 0x1C) (h1 : i = 0x2001 → 4 < b)
    (h2 : 0x2210 ≤ i → i < 0x2214 → b ≠ 4) (hb : b < 256) (he : e < 65536) : (s.set i b e v).clock = s.clock := by
  refine set_clock_of_key s i b e v (fun i' b' k => State.value_set_ne s v hb he ?_ (by omega) ?_) <;> unfold clockRegister at k <;> omega

@[simp] theorem modEv_clock (s : State) (f : Events → Events) (h : (f s.ev).raised = s.ev.raised) : (s.modEv f).clock = s.clock := by
  unfold clock
  rw [modEv_ev, h]
  rfl

@[simp] theorem raiseEvent_clock (s : State) (n k : Nat) (h : n < 128) : (s.raiseEvent n k).clock = s.clock := by
  have sourced : (s.raiseEvent n k).ev.raised.all (fun r => decide (r.source < 128)) =
      s.ev.raised.all (fun r => decide (r.source < 128)) := by simp [raiseEvent, h]
  unfold clock
  rw [sourced]
  rfl

/-- A change of the Ephemeris that is none of its segment. -/
theorem modEph_clock (s : State) (f : Eph → Eph)
    (h : (f s.eph).raw = s.eph.raw ∧ (f s.eph).baseRaw = s.eph.baseRaw ∧ (f s.eph).baseEt = s.eph.baseEt ∧
      (f s.eph).increment = s.eph.increment := by exact ⟨rfl, rfl, rfl, rfl⟩) : (s.modEph f).clock = s.clock := by
  obtain ⟨raw, baseRaw, baseEt, increment⟩ := h
  unfold clock
  rw [modEph_eph, raw, baseRaw, baseEt, increment]
  rfl

@[simp] theorem emit_clock (s : State) (o : Output) : (s.emit o).clock = s.clock := (rfl)
@[simp] theorem modAlm_clock (s : State) (f : Alm → Alm) : (s.modAlm f).clock = s.clock := (rfl)
@[simp] theorem modPtp_clock (s : State) (f : Ptp → Ptp) : (s.modPtp f).clock = s.clock := (rfl)
@[simp] theorem modLoc_clock (s : State) (f : Local → Local) : (s.modLoc f).clock = s.clock := (rfl)
@[simp] theorem modIng_clock (s : State) (f : Ingest → Ingest) : (s.modIng f).clock = s.clock := (rfl)
@[simp] theorem modTr_clock (s : State) (f : Transit → Transit) : (s.modTr f).clock = s.clock := (rfl)
@[simp] theorem modEgr_clock (s : State) (f : Egress → Egress) : (s.modEgr f).clock = s.clock := (rfl)
@[simp] theorem modOrr_clock (s : State) (f : Orrery → Orrery) : (s.modOrr f).clock = s.clock := (rfl)
@[simp] theorem modRec_clock (s : State) (f : Recorder → Recorder) : (s.modRec f).clock = s.clock := (rfl)
@[simp] theorem setConfig_clock (s : State) (i b : Nat) (l : List (Nat × Value)) : (s.setConfig i b l).clock = s.clock := (rfl)

@[simp] theorem countIn_clock (s : State) (c n : Nat) : (s.countIn c n).clock = s.clock := by
  have high : 0x2214 ≤ 0xE000 + c := by omega
  simp [countIn, high]

@[simp] theorem perf_clock (s : State) (die code n : Nat) : (s.perf die code n).clock = s.clock := by simp [perf]

/-! ### Time quality and UTC -/

@[simp] theorem setQuality_clock (s : State) (q : Nat) : (s.setQuality q).clock = s.clock := by simp [setQuality, modEph_clock]
@[simp] theorem holdReference_clock (s : State) : s.holdReference.clock = s.clock := by simp [holdReference, modEph_clock]

@[simp] theorem qualityAfterStep_clock (s : State) (amount : Int) : (s.qualityAfterStep amount).clock = s.clock := by
  simp [qualityAfterStep, modEph_clock]

@[simp] theorem placeLeap_clock (s : State) : s.placeLeap.clock = s.clock := modEph_clock ..
@[simp] theorem refreshUtc_clock (s : State) : s.refreshUtc.clock = s.clock := by simp [refreshUtc]
@[simp] theorem setLeap_clock (s : State) (pending : Nat) : (s.setLeap pending).clock = s.clock := by simp [setLeap]

@[simp] theorem takeUtc_clock (s : State) : s.takeUtc.clock = s.clock := by
  unfold takeUtc
  split <;> simp [modEph_clock]

/-! ### Frames that the unit sends -/

@[simp] theorem sendItem_clock (s : State) (p : Nat) (x : TxItem) : (s.sendItem p x).clock = s.clock := by
  simp [sendItem, releaseTx, modPort, putOnWire]

@[simp] theorem send_clock (s : State) (p cls : Nat) (o : Output) : (s.send p cls o).clock = s.clock := sendItem_clock ..

@[simp] theorem originateFrom_clock (s : State) (p cls : Nat) (descs : List Nat) (frame : List Byte) :
    (s.originateFrom p cls descs frame).clock = s.clock := by
  unfold originateFrom
  split <;> simp [takeRctSeq]

@[simp] theorem originate_clock (s : State) (p cls : Nat) (frame : List Byte) : (s.originate p cls frame).clock = s.clock :=
  originateFrom_clock ..

@[simp] theorem originateDecoded_clock (s : State) (p cls : Nat) (o : Nat → Option (Nat × Nat) → Output) :
    (s.originateDecoded p cls o).clock = s.clock := by
  unfold originateDecoded
  split <;> simp [takeRctSeq]

@[simp] theorem slowSend_clock (s : State) (p : Nat) (frame : List Byte) : (s.slowSend p frame).clock = s.clock := originate_clock ..

@[simp] theorem askNeighbour_clock (s : State) (p : Nat) (a : List Byte) : (s.askNeighbour p a).clock = s.clock := by
  simp [askNeighbour, putNeighbour]

@[simp] theorem sendPacket_clock (s : State) (p : Nat) (a : List Byte) (k : Nat × List Byte) : (s.sendPacket p a k).clock = s.clock := by
  unfold sendPacket
  dsimp only
  split
  · simp
  · split <;> simp [putNeighbour]

@[simp] theorem sendStreamCommand_clock (s : State) (id cmd : Nat) : (s.sendStreamCommand id cmd).clock = s.clock := by
  unfold sendStreamCommand
  split <;> simp

/-! ### The PTP engine by itself -/

@[simp] theorem modPtpPort_clock (s : State) (p : Nat) (f : PtpPort → PtpPort) : (s.modPtpPort p f).clock = s.clock := (rfl)

/-- A register of a port. -/
@[simp] theorem set_clock_port (s : State) (p b e : Nat) (v : Value) (hp : p < 6) (hb : b < 256) (he : e < 65536) :
    (s.set (0x2110 + p) b e v).clock = s.clock := set_clock _ _ _ _ _ (by omega) (by omega) (by omega) hb he

@[simp] theorem enterPortState_clock (s : State) (p st steps : Nat) (h : p < 6) : (s.enterPortState p st steps).clock = s.clock := by
  simp [enterPortState, h]

@[simp] theorem followParent_clock (s : State) : s.followParent.clock = s.clock := by simp [followParent]

@[simp] theorem peerDelay_clock (s : State) (p : Nat) (h : p < 6) : (s.peerDelay p).clock = s.clock := by
  unfold peerDelay
  dsimp only
  split
  · split
    · split <;> simp [h]
    · simp [h]
  · rfl

@[simp] theorem readTxts_clock (s : State) (p : Nat) (h : p < 6) : (s.readTxts p).clock = s.clock := by
  unfold readTxts
  split
  · rfl
  · dsimp only
    split
    · simp
    · split
      · simp [h]
      · split
        · split <;> simp
        · simp

@[simp] theorem ptpTick_clock (s : State) (p : Nat) (h : p < 6) : (s.ptpTick p).clock = s.clock := by simp [ptpTick, h]

/-! ### Frames that the streams of the unit send, and layouts of configuration frames -/

@[simp] theorem sendCopy_clock (s : State) (n d : Nat) (tc : Et) (frame : List Byte) : (s.sendCopy n d tc frame).clock = s.clock := by
  have high : 0x2214 ≤ egIndex n := by unfold egIndex; omega
  unfold sendCopy
  dsimp only
  split
  · rfl
  · split <;> simp [high]

@[simp] theorem egressStream_clock (s : State) (n : Nat) : (s.egressStream n).clock = s.clock := by
  unfold egressStream
  dsimp only
  split
  · rfl
  · split
    · rfl
    · split <;> simp

@[simp] theorem egressTake_clock (s : State) (n : Nat) (r : Released) : (s.egressTake n r).clock = s.clock := by simp [egressTake]

@[simp] theorem buildRound_clock (fuel : Nat) (s : State) (ready : List Nat) : (buildRound fuel s ready).clock = s.clock := by
  induction fuel generalizing s with
  | zero => rfl
  | succ fuel ih =>
    unfold buildRound
    dsimp only
    split
    · rfl
    · rw [ih, foldl_clock]
      intro t n _
      split <;> simp

@[simp] theorem egressRelease_clock (s : State) : s.egressRelease.clock = s.clock := buildRound_clock ..

@[simp] theorem modStream_clock (s : State) (id : Nat) (f : Stream → Stream) : (s.modStream id f).clock = s.clock := (rfl)
@[simp] theorem askConfig_clock (s : State) (id : Nat) : (s.askConfig id).clock = s.clock := by simp [askConfig]
@[simp] theorem dropHeld_clock (s : State) (id : Nat) : (s.dropHeld id).clock = s.clock := by simp [dropHeld]

@[simp] theorem setStreamState_clock (s : State) (id st : Nat) : (s.setStreamState id st).clock = s.clock := by
  have high : 0x2214 ≤ 0x4000 + id := by omega
  simp [setStreamState, high]

@[simp] theorem refreshCrc_clock (s : State) : s.refreshCrc.clock = s.clock := by simp [refreshCrc]
@[simp] theorem showTcpRate_clock (s : State) : s.showTcpRate.clock = s.clock := by simp [showTcpRate]

@[simp] theorem autofill_clock (s : State) (id : Nat) (f : CfgFrame) : (s.autofill id f).clock = s.clock := by
  have high : 0x2214 ≤ 0x4000 + id := by omega
  simp [autofill, high]

@[simp] theorem autofillNow_clock (s : State) : s.autofillNow.clock = s.clock := by simp [autofillNow]

/-! ### A tick -/

@[simp] theorem laneMicrosecond_clock (s : State) (n : Nat) : (s.laneMicrosecond n).clock = s.clock := by simp [laneMicrosecond]
@[simp] theorem laneTick_clock (s : State) : s.laneTick.clock = s.clock := by simp [laneTick]
@[simp] theorem hubCounts_clock (s : State) : s.hubCounts.clock = s.clock := by simp [hubCounts]
@[simp] theorem hubTick_clock (s : State) (before : Et) : (s.hubTick before).clock = s.clock := by simp [hubTick]

/-- Of the clock a tick moves the raw counter alone (R86). -/
theorem tick_clock (s : State) (h : s.boot.inReset = false) : s.tick.clock = { s.clock with raw := s.eph.raw + 1 } := by
  have ports : ∀ t : State, ((List.range 6).foldl ptpTick t).clock = t.clock :=
    fun t => foldl_clock _ _ _ (fun u p hp => ptpTick_clock u p (List.mem_range.mp hp))
  unfold tick
  rw [if_neg (by simp [h])]
  dsimp only
  rw [hubTick_clock, ports, ite_clock, laneTick_clock, ite_self, ite_clock, hubCounts_clock, ite_self]
  rfl

end State

variable {s t : State}

/-! ### What the clock says -/

/-- Every raise that waits has a source. -/
theorem sourced_of_clock (h : t.clock.sourced = s.clock.sourced) (hs : ∀ r ∈ s.ev.raised, r.source < 128) :
    ∀ r ∈ t.ev.raised, r.source < 128 := by
  have same : t.ev.raised.all (fun r => decide (r.source < 128)) = s.ev.raised.all (fun r => decide (r.source < 128)) := h
  have all : s.ev.raised.all (fun r => decide (r.source < 128)) = true := List.all_eq_true.mpr (fun r hr => decide_eq_true (hs r hr))
  rw [all, List.all_eq_true] at same
  exact fun r hr => of_decide_eq_true (same r hr)

theorem et_of_clock (h : t.clock = s.clock) : t.et = s.et := by
  have et : ∀ u : State, u.et = u.clock.baseEt + (u.clock.raw - u.clock.baseRaw) * u.clock.increment := fun _ => rfl
  rw [et, et, h]

theorem State.int_of_value {i b : Nat} (h : t.value i b 0 = s.value i b 0) : t.int i b = s.int i b := congrArg Value.toInt h

theorem State.num_of_value {i b : Nat} (h : t.value i b 0 = s.value i b 0) : t.num i b = s.num i b :=
  congrArg Int.toNat (State.int_of_value h)

theorem State.bytes_of_value {i b : Nat} (h : t.value i b 0 = s.value i b 0) : t.bytes i b = s.bytes i b := congrArg Value.toBytes h

theorem num_capture_of_clock {n : Nat} (h : t.clock = s.clock) (hn : n < 4) : t.num (0x2210 + n) 4 = s.num (0x2210 + n) 4 := by
  have captures : (List.range 4).map (fun n => t.value (0x2210 + n) 4 0) = (List.range 4).map (fun n => s.value (0x2210 + n) 4 0) :=
    congrArg Clock.captures h
  exact State.num_of_value (List.map_inj_left.mp captures n (List.mem_range.mpr hn))

theorem num_stepCount_of_clock (h : t.clock = s.clock) : t.num 0x2000 0x1B = s.num 0x2000 0x1B :=
  State.num_of_value (congrArg (fun c => c.steps.1) h :)

theorem int_lastStep_of_clock (h : t.clock = s.clock) : t.int 0x2000 0x1C = s.int 0x2000 0x1C :=
  State.int_of_value (congrArg (fun c => c.steps.2) h :)

/-- The outcome of STEP_CMD stands while the clock does. -/
theorem outcome_of_clock {seq code : Nat} {data : List Byte} (h : t.clock = s.clock) (k : Outcome 0x2001 seq code data s) :
    Outcome 0x2001 seq code data t :=
  ⟨(State.num_of_value (congrArg (fun c => c.result.1) h :)).trans k.sequence,
    (State.num_of_value (congrArg (fun c => c.result.2.1) h :)).trans k.state,
    (State.num_of_value (congrArg (fun c => c.result.2.2.1) h :)).trans k.code,
    (State.bytes_of_value (congrArg (fun c => c.result.2.2.2) h :)).trans k.data⟩

/-- Settles O5: of the clock a tick moves the raw counter alone, and the end of a command leaves the clock's segment. -/
theorem idleStepIsOneTick : Obligations.IdleStepIsOneTick := by
  intro s hq hr hset hbase
  have ticked := State.tick_clock s hr
  have sourced := sourced_of_clock (congrArg Clock.sourced ticked :) (by rw [hset.raises]; simp)
  have pending : s.tick.pending = s.pending := congrArg Clock.pending ticked
  obtain ⟨t, ht, frame, -, -⟩ := complete_effect s State.tick sourced pending
  refine ⟨t, ?_, ?_, ?_, (frame.pending.trans pending).trans hq⟩
  · unfold step
    rw [hq]
    exact ht
  · exact (congrArg Eph.raw (frame.part .eph)).trans (congrArg Clock.raw ticked)
  · have later : s.tick.et = s.eph.baseEt + (s.eph.raw + 1 - s.eph.baseRaw) * s.eph.increment :=
      (congrArg (fun c : Clock => c.baseEt + (c.raw - c.baseRaw) * c.increment) ticked :)
    have segment : s.eph.raw + 1 - s.eph.baseRaw = (s.eph.raw - s.eph.baseRaw) + 1 := Nat.succ_sub hbase
    rw [frame.et, later, segment, Nat.succ_mul]
    exact (Nat.add_assoc _ _ _).symm

end Sys2Proof.Machine
end

section
/-! What an offset step (R93–R95, R237, R340) and a trigger (R398–R407) leave to the time base. -/

namespace Sys2Proof.Machine.State

/-! ### Offset steps -/

@[simp] theorem modSpec_clock (s : State) (f : Spec → Spec) : (s.modSpec f).clock = s.clock := (rfl)

@[simp] theorem stepGrid_clock (s : State) (amount : Int) : (s.stepGrid amount).clock = s.clock := by simp [stepGrid, syncCause, setGrid]

@[simp] theorem modOut_clock (s : State) (n : Nat) (f : TimedOut → TimedOut) : (s.modOut n f).clock = s.clock := modEph_clock ..

@[simp] theorem missOut_clock (s : State) (n : Nat) (h : n < 8) : (s.missOut n).clock = s.clock := by
  have written : ∀ (t : State) (b v : Nat), b < 256 → (t.set (0x2200 + n) b 0 (.int v)).clock = t.clock :=
    fun t b v hb => set_clock _ _ _ _ _ (by omega) (by omega) (by omega) hb (by omega)
  unfold missOut
  rw [setN_eq, inc32_eq, raiseEvent_clock _ _ _ (by omega), written _ _ _ (by omega), written _ _ _ (by omega)]

@[simp] theorem stepOut_clock (s : State) (n : Nat) (h : n < 8) : (s.stepOut n).clock = s.clock := by simp [stepOut, skipPeriodic, h]

@[simp] theorem modInst_clock (s : State) (ord : Nat) (f : HubInstant → HubInstant) : (s.modInst ord f).clock = s.clock := (rfl)
@[simp] theorem modLane_clock (s : State) (n : Nat) (f : Lane → Lane) : (s.modLane n f).clock = s.clock := (rfl)

@[simp] theorem sendNotices_clock (s : State) (ord : Nat) : (s.sendNotices ord).clock = s.clock := by simp [sendNotices]

@[simp] theorem stepNotice_clock (s : State) (ord : Nat) : (s.stepNotice ord).clock = s.clock := by simp [stepNotice, notice]

@[simp] theorem skipRun_clock (a : State × Nat) (lo hi : Nat) : (skipRun a lo hi).1.clock = a.1.clock := by
  unfold skipRun
  split <;> simp

@[simp] theorem feed_clock (s : State) (r : Released) : (s.feed r).clock = s.clock := by simp [feed]

@[simp] theorem passInstant_clock (s : State) (ord : Nat) : (s.passInstant ord).clock = s.clock := by simp [passInstant, advanceBase]

@[simp] theorem passSkips_clock (fuel : Nat) (s : State) : (passSkips fuel s).clock = s.clock := by
  induction fuel generalizing s with
  | zero => rfl
  | succ fuel ih =>
    unfold passSkips
    split
    · split <;> simp [ih]
    · rfl

/-- A fold over states that carry more leaves the clock of the state. -/
theorem foldl_clock_of {α β : Type} (m : β → State) (f : β → α → β) (l : List α) (b : β)
    (h : ∀ b x, (m (f b x)).clock = (m b).clock) : (m (l.foldl f b)).clock = (m b).clock := by
  induction l generalizing b with
  | nil => rfl
  | cons x l ih => rw [List.foldl_cons, ih, h]

@[simp] theorem stepTransits_clock (s : State) : s.stepTransits.clock = s.clock := by
  unfold stepTransits
  split
  · rfl
  · extract_lets held runs go u
    have gone : go.1.1.clock = s.clock := by
      simp only [go]
      rw [foldl_clock_of (fun b : (State × Nat) × Nat => b.1.1)]
      intro b x
      dsimp only
      split <;> simp
    have skipped : u.1.clock = s.clock := by
      simp only [u]
      rw [skipRun_clock, gone]
    clear_value u
    split <;> simp [skipped]

@[simp] theorem stepOrrery_clock (s : State) (amount : Int) : (s.stepOrrery amount).clock = s.clock := by
  simp [stepOrrery, realignCycle]

/-! ### Triggers -/

@[simp] theorem setPlate_clock (s : State) (slot : Nat) (p : Plate) : (s.setPlate slot p).clock = s.clock := (rfl)

@[simp] theorem cutPlate_clock (s : State) : s.cutPlate.clock = s.clock := by
  unfold cutPlate
  split <;> simp

@[simp] theorem missTrigger_clock (s : State) (f : Firing) : (s.missTrigger f).clock = s.clock := by simp [missTrigger]
@[simp] theorem stopRecorder_clock (s : State) : s.stopRecorder.clock = s.clock := by simp [stopRecorder]
@[simp] theorem openPlate_clock (s : State) (slot : Nat) (f : Firing) : (s.openPlate slot f).clock = s.clock := by simp [openPlate]

@[simp] theorem losePlate_clock (s : State) : s.losePlate.1.clock = s.clock := by
  unfold losePlate
  split <;> simp

@[simp] theorem loseUntil_clock (need : State → Bool) (fuel : Nat) (s : State) : (loseUntil need fuel s).clock = s.clock := by
  induction fuel generalizing s with
  | zero => rfl
  | succ fuel ih =>
    unfold loseUntil
    simp [ih]

@[simp] theorem startPlate_clock (s : State) (f : Firing) : (s.startPlate f).clock = s.clock := by
  unfold startPlate
  split
  · simp
  · split
    · simp
    · dsimp only
      split <;> simp

@[simp] theorem addMarker_clock (s : State) (f : Firing) : (s.addMarker f).clock = s.clock := by
  unfold addMarker
  split <;> simp

@[simp] theorem extendPlate_clock (s : State) (f : Firing) : (s.extendPlate f).clock = s.clock := by
  unfold extendPlate
  split <;> simp

@[simp] theorem takeTrigger_clock (s : State) (f : Firing) : (s.takeTrigger f).clock = s.clock := by
  unfold takeTrigger
  split <;> simp

@[simp] theorem fire_clock (s : State) (stationOut : Bool) (f : Firing) : (s.fire stationOut f).clock = s.clock := by
  simp [fire, pullStation]

@[simp] theorem fireAll_clock (s : State) (l : List (Firing × Bool)) : (s.fireAll l).clock = s.clock := by simp [fireAll]

@[simp] theorem tiTrigger_clock (s : State) (n : Nat) (rising : Bool) : (s.tiTrigger n rising).clock = s.clock := by
  simp [tiTrigger, fireKind]

end Sys2Proof.Machine.State
end

section
/-! Timed inputs (R116–R120, R126, R127). -/

namespace Sys2Proof.Machine

variable {P : List Part} {R : List (Nat × Nat)} {L : List Nat} {s t u : State} {tdc : Nat}

/-! ### Edges -/

/-- An edge is remembered as its input's last one. -/
def State.noteEdge (s : State) (input tdc : Nat) : State :=
  s.modEph (fun e => { e with lastEdge := e.lastEdge.set input (some (s.raw * 128 + tdc % 128)) })

/-- An edge within 10 ns of the one before is lost (R117). -/
def State.loseEdge (s : State) (input tdc : Nat) : State :=
  ((s.noteEdge input tdc).inc32 (0x2210 + input) 6).raiseEvent 6 0

theorem takeEdge_captured {input : Nat}
    (h : ∀ l, nth s.eph.lastEdge input none = some l → l + 512 ≤ s.raw * 128 + tdc % 128) :
    s.takeEdge input tdc true = (s.noteEdge input tdc, true) := by
  unfold State.takeEdge
  split
  all_goals rename_i e
  · simp [Nat.not_lt.mpr (h _ e)]
    rfl
  · rfl

theorem takeEdge_lost {input l : Nat} (hl : nth s.eph.lastEdge input none = some l) (h : s.raw * 128 + tdc % 128 < l + 512) :
    s.takeEdge input tdc true = (s.loseEdge input tdc, false) := by
  unfold State.takeEdge
  rw [hl]
  simp [h]
  rfl

theorem noteEdge_effect (s : State) (input tdc : Nat) (m : Part.eph ∈ P) : Effect P R [] s (s.noteEdge input tdc) :=
  Effect.start.modEph _ m

@[simp] theorem noteEdge_num (s : State) (input tdc i b : Nat) : (s.noteEdge input tdc).num i b = s.num i b := (rfl)
@[simp] theorem noteEdge_locked (s : State) (input tdc : Nat) : (s.noteEdge input tdc).locked = s.locked := (rfl)

/-- A command by which an edge is lost. -/
theorem loseEdge_does {c : Instr} {f : State → State} {n : Fin 4} (hset : s.settled) (he : exec c s = complete s f)
    (hf : f s = s.loseEdge n.val tdc) : Does c s [.eph] [(0x2210 + n.val, 6)] [6] (fun t =>
      t.num (0x2210 + n.val) 6 = State.countUp 32 (s.num (0x2210 + n.val) 6) 1) := by
  have hn := n.isLt
  refine Does.of_effect he hset.raises ?_ (by simp) (fun t ht _ => ?_) <;> rw [hf, State.loseEdge, State.inc32_eq] at *
  · exact Effect.raiseLast ((noteEdge_effect s _ _ (by simp)).setLow _ _ _ _ (by simp)) _ _ rfl
  · rw [ht.num_low (by simp), State.num_raiseEvent, State.num_set, noteEdge_num]

/-! ### Captures -/

/-- The registers that a capture writes. -/
def captureRegisters (input : Nat) : List (Nat × Nat) := [(0x2210 + input, 4), (0x2210 + input, 5), (0x2210 + input, 7)]

section Capture

variable (s : State) {input : Nat} (at_ : Et) (rising error : Bool)

theorem capture_effect (hn : input < 4) (h : ∀ r ∈ captureRegisters input, r ∈ R) :
    Effect P R [] s (s.capture input at_ rising error) := by
  unfold State.capture
  simp only [State.setElem_eq, State.incWrap_eq, State.setN_eq]
  exact ((Effect.start.setLow _ _ _ _ (h _ (by simp [captureRegisters]))).setLow _ _ _ _ (h _ (by simp [captureRegisters]))).setLow _ _ _ _
    (h _ (by simp [captureRegisters]))

theorem capture_count : (s.capture input at_ rising error).num (0x2210 + input) 4 = (s.num (0x2210 + input) 4 + 1) % 2 ^ 32 := by
  unfold State.capture
  simp only [State.setElem_eq, State.incWrap_eq, State.setN_eq]
  rw [State.num_set_ne _ _ (by omega) (by omega) (by omega) (by omega), State.num_set,
    State.num_set_ne _ _ (by omega) (by omega) (by omega) (by omega)]

theorem capture_last : (s.capture input at_ rising error).num (0x2210 + input) 7 = at_ := by
  unfold State.capture
  simp only [State.setN_eq]
  exact State.num_set _ _ _ _

theorem capture_element : (s.capture input at_ rising error).elem (0x2210 + input) 5 (s.num (0x2210 + input) 4 % 64) =
    etBytes at_ ++ [if rising then 1 else 2, 0] ++
      beBytes 2 (qMake true (qIf (!s.locked) qTIME_UNLOCKED ||| qIf error qSOURCE_ERROR)).toNat := by
  unfold State.capture State.elem
  simp only [State.setElem_eq, State.incWrap_eq, State.setN_eq]
  rw [State.value_set_ne _ _ (by omega) (by omega) (by omega) (by omega) (by omega),
    State.value_set_ne _ _ (by omega) (by omega) (by omega) (by omega) (by omega), State.value_set]
  rfl

end Capture

/-- What a capture leaves of a register that it does not write. -/
theorem capture_num (s : State) {input i b : Nat} (at_ : Et) (rising error : Bool) (hn : input < 4) (h : (i, b) ∉ captureRegisters input)
    (hi : i < 0x6201 ∨ endRegister i b = false) (hb : b < 256 := by omega) : (s.capture input at_ rising error).num i b = s.num i b :=
  (capture_effect (P := []) s at_ rising error hn (fun _ h => h)).frame.num_keep h (hi.elim endRegister_low id) hb

/-! ### TI_EDGE -/

theorem tiEdge_captured {n : Fin 4} {rising : Bool} (hmode : s.c (0x2210 + n.val) 1 = 1) (hsel : s.edgeSelected n.val rising = true)
    (hfar : ∀ l, nth s.eph.lastEdge n.val none = some l → l + 512 ≤ s.raw * 128 + tdc % 128) :
    s.tiEdge n.val rising tdc =
      ((s.noteEdge n.val tdc).capture n.val (s.edgeEt n.val tdc) rising false).tiTrigger n.val rising := by
  unfold State.tiEdge State.timedEdge
  rw [hmode, hsel, show ((1 : Nat) == 1 && true) = true from rfl, takeEdge_captured hfar]
  simp only [if_true]

theorem tiEdge_lost {n : Fin 4} {rising : Bool} {l : Nat} (hmode : s.c (0x2210 + n.val) 1 = 1) (hsel : s.edgeSelected n.val rising = true)
    (hl : nth s.eph.lastEdge n.val none = some l) (hnear : s.raw * 128 + tdc % 128 < l + 512) :
    s.tiEdge n.val rising tdc = s.loseEdge n.val tdc := by
  unfold State.tiEdge State.timedEdge
  rw [hmode, hsel, show ((1 : Nat) == 1 && true) = true from rfl, takeEdge_lost hl hnear]
  rfl

/-- With the recorder off an edge triggers nothing (R398). -/
theorem tiTrigger_off {rising : Bool} (n : Nat) (h : s.recorderState = 0) : s.tiTrigger n rising = s := if_pos h

/-- TI_EDGE of an edge that is captured, as O27 states it. -/
theorem tiEdge_captures {n : Fin 4} {rising : Bool} (hset : s.settled) (hmode : s.c (0x2210 + n.val) 1 = 1)
    (hsel : s.edgeSelected n.val rising = true)
    (hfar : ∀ l, nth s.eph.lastEdge n.val none = some l → l + 512 ≤ s.raw * 128 + tdc % 128) :
    Reaches (.tiEdge n rising tdc) s (fun t => t.num (0x2210 + n.val) 4 = (s.num (0x2210 + n.val) 4 + 1) % 2 ^ 32) ∧
    (s.recorderState = 0 →
      Does (.tiEdge n rising tdc) s [.eph] [(0x2210 + n.val, 4), (0x2210 + n.val, 5), (0x2210 + n.val, 7)] [] (fun t =>
        t.num (0x2210 + n.val) 7 = s.edgeEt n.val tdc ∧
        t.elem (0x2210 + n.val) 5 (s.num (0x2210 + n.val) 4 % 64) = etBytes (s.edgeEt n.val tdc) ++
          [if rising then 1 else 2, 0] ++ beBytes 2 (qMake true (qIf (!s.locked) qTIME_UNLOCKED)).toNat)) := by
  have hn := n.isLt
  have captured := tiEdge_captured hmode hsel hfar
  have noted : Effect [.eph] (captureRegisters n.val) [] s (s.noteEdge n.val tdc) := noteEdge_effect s _ _ (by simp)
  have taken := noted.andQuiet (capture_effect (s.noteEdge n.val tdc) (s.edgeEt n.val tdc) rising false hn (fun _ h => h))
  constructor
  · have clock := congrArg State.clock captured
    rw [State.tiTrigger_clock] at clock
    refine Reaches.of_effect (f := fun s => s.tiEdge n.val rising tdc) rfl (sourced_of_clock (congrArg Clock.sourced clock :) ?_)
      ((congrArg Clock.pending clock).trans taken.frame.pending) (fun t ht _ => ?_)
    · have raised := taken.raised
      rw [hset.raises] at raised
      rw [List.map_eq_nil_iff.mp raised]
      simp
    · rw [ht.num_low (by simp), num_capture_of_clock clock hn, capture_count, noteEdge_num]
  · intro hoff
    have off : ((s.noteEdge n.val tdc).capture n.val (s.edgeEt n.val tdc) rising false).recorderState = 0 := by
      unfold State.recorderState
      rw [taken.frame.num_keep (by simp [captureRegisters]) (by decide)]
      exact hoff
    rw [tiTrigger_off n.val off] at captured
    refine Does.of_effect (f := fun s => s.tiEdge n.val rising tdc) rfl hset.raises (by rw [captured]; exact taken) (by simp)
      (fun t ht _ => ?_)
    rw [captured] at ht
    refine ⟨?_, ?_⟩
    · rw [ht.num_low (by simp), capture_last]
    · have element := capture_element (input := n.val) (s.noteEdge n.val tdc) (s.edgeEt n.val tdc) rising false
      rw [ht.elem_low (by simp), ← noteEdge_num s n.val tdc, element, noteEdge_locked]
      simp [qIf]

/-! ### IRIG-B -/

/-- A frame's Pr edge is captured, and its quality and daylight bits are shown (R118, R119). -/
def State.readIrig (s : State) (f : IrigFrame) (tdc : Nat) : State :=
  (((s.noteEdge 0 tdc).capture 0 (s.edgeEt 0 tdc) true false).setN 0x2210 9 f.timeQuality).modEph (fun e => { e with
    irigDst := f.daylight })

/-- A frame that is valid and whose bits the unit takes (R119). -/
def IrigFrame.usable (f : IrigFrame) (s : State) : Bool := f.markersOk && f.parityOk && decide (f.timeQuality ≤ s.c 0x2210 0x0B)

/-- A valid frame is remembered for the next one to follow (R119). -/
def State.noteIrig (s : State) (f : IrigFrame) (tdc : Nat) : State :=
  (s.readIrig f tdc).modEph (fun e => { e with irigValid := true, irigSecond := f.codedSeconds, irigTick := e.raw })

/-- A frame that follows a valid one by exactly a second gives the time (R119, R126). -/
def State.acceptIrig (s : State) (f : IrigFrame) (tdc : Nat) : State :=
  ((s.noteIrig f tdc).setN 0x2210 8 ((f.codedSeconds - f.offsetMinutes * 60 + s.int 0x2000 0x13).toNat * sec)).modEph (fun e => { e with
    irigRun := State.bumpRun e.irigRun, irigAccepted := e.raw, irigEt := s.edgeEt 0 tdc, irigUnlocked := !s.locked })

/-- The leap second that an accepted frame announces is pending while no PTP reference is present (R102). -/
def State.takeIrigLeap (s : State) (f : IrigFrame) : State :=
  if s.refPresent 1 then s else s.setLeap (if !f.leapPending then 0 else if f.leapDelete then 2 else 1)

section Irig

variable {pulses : List Nat} (hmode : s.c 0x2210 1 = 2)
  (hfar : ∀ l, nth s.eph.lastEdge 0 none = some l → l + 512 ≤ s.raw * 128 + tdc % 128)
include hmode hfar

theorem irig_invalid (h : (irigDecode pulses).usable s = false) : s.irig pulses tdc =
    (((s.readIrig (irigDecode pulses) tdc).inc32 0x2210 0x0A).modEph (fun e => { e with
      irigValid := false, irigRun := if e.irigRun < 2 then 0 else e.irigRun })).raiseEvent 7 0 := by
  unfold State.irig
  rw [hmode, show ((2 : Nat) == 2) = true from rfl, takeEdge_captured hfar]
  unfold IrigFrame.usable at h
  simp only [Bool.not_true, Bool.false_eq_true, if_false, h, Bool.not_false, if_true]
  rfl

theorem irig_accepted (h : (irigDecode pulses).usable s = true) (hvalid : s.eph.irigValid = true)
    (htick : s.raw ≤ s.eph.irigTick + 440000000) (hnext : (irigDecode pulses).codedSeconds = s.eph.irigSecond + 1) :
    s.irig pulses tdc = (s.acceptIrig (irigDecode pulses) tdc).takeIrigLeap (irigDecode pulses) := by
  unfold State.irig
  rw [hmode, show ((2 : Nat) == 2) = true from rfl, takeEdge_captured hfar]
  unfold IrigFrame.usable at h
  simp only [Bool.not_true, Bool.false_eq_true, if_false, h, hvalid, htick, decide_true, Bool.and_self, hnext, and_self, if_true]
  rw [← hnext]
  rfl

theorem irig_first (h : (irigDecode pulses).usable s = true) (hvalid : s.eph.irigValid = false) : s.irig pulses tdc =
    (s.noteIrig (irigDecode pulses) tdc).modEph (fun e => { e with irigRun := if e.irigRun < 2 then 0 else e.irigRun }) := by
  unfold State.irig
  rw [hmode, show ((2 : Nat) == 2) = true from rfl, takeEdge_captured hfar]
  unfold IrigFrame.usable at h
  simp only [Bool.not_true, Bool.false_eq_true, if_false, h, hvalid, Bool.false_and, false_and]
  rfl

end Irig

/-- The registers that every captured IRIG-B frame writes. -/
def irigRegisters : List (Nat × Nat) := [(0x2210, 4), (0x2210, 5), (0x2210, 7), (0x2210, 9)]

theorem readIrig_effect (s : State) (f : IrigFrame) (tdc : Nat) (m : Part.eph ∈ P) (h : ∀ r ∈ irigRegisters, r ∈ R) :
    Effect P R [] s (s.readIrig f tdc) := by
  have taken : Effect P R [] s ((s.noteEdge 0 tdc).capture 0 (s.edgeEt 0 tdc) true false) :=
    (noteEdge_effect s 0 tdc m).andQuiet (capture_effect _ _ _ _ (by omega) (fun r hr => h r (by
      simp only [captureRegisters, List.mem_cons, List.not_mem_nil, or_false] at hr
      simp only [irigRegisters, List.mem_cons]
      tauto)))
  unfold State.readIrig
  rw [State.setN_eq]
  exact (taken.setLow _ _ _ _ (h _ (by simp [irigRegisters]))).modEph _ m

theorem readIrig_last (s : State) (f : IrigFrame) (tdc : Nat) : (s.readIrig f tdc).num 0x2210 7 = s.edgeEt 0 tdc := by
  unfold State.readIrig
  rw [State.num_modEph, State.setN_eq, State.num_set_ne _ _ (by omega) (by omega) (by omega) (by omega)]
  exact capture_last _ _ _ _

theorem readIrig_errors (s : State) (f : IrigFrame) (tdc : Nat) : (s.readIrig f tdc).num 0x2210 0x0A = s.num 0x2210 0x0A :=
  (readIrig_effect (P := [.eph]) (R := irigRegisters) s f tdc (by simp) (fun _ h => h)).frame.num_low (by simp [irigRegisters])

theorem placeLeap_effect (s : State) (m : Part.eph ∈ P) : Effect P R [] s s.placeLeap := by
  unfold State.placeLeap
  exact Effect.start.modEph _ m

theorem setLeap_effect (s : State) (pending : Nat) (m : Part.eph ∈ P) (h : (0x2000, 0x15) ∈ R) :
    Effect P R [] s (s.setLeap pending) := by
  unfold State.setLeap
  refine Effect.ite Effect.start ?_
  rw [State.setN_eq]
  exact (Effect.start.setLow _ _ _ _ h).andQuiet (placeLeap_effect _ m)

theorem takeIrigLeap_effect (s : State) (f : IrigFrame) (m : Part.eph ∈ P) (h : (0x2000, 0x15) ∈ R) :
    Effect P R [] s (s.takeIrigLeap f) := Effect.ite Effect.start (setLeap_effect s _ m h)

/-- Of the Ephemeris beside its objects a pending leap moves its own ET alone. -/
theorem setLeap_eph (s : State) (pending : Nat) : ∃ l, (s.setLeap pending).eph = { s.eph with leapAt := l } := by
  unfold State.setLeap
  split
  · exact ⟨s.eph.leapAt, rfl⟩
  · exact ⟨_, rfl⟩

theorem takeIrigLeap_eph (s : State) (f : IrigFrame) : ∃ l, (s.takeIrigLeap f).eph = { s.eph with leapAt := l } := by
  unfold State.takeIrigLeap
  split
  · exact ⟨s.eph.leapAt, rfl⟩
  · exact setLeap_eph _ _

theorem acceptIrig_effect (s : State) (f : IrigFrame) (tdc : Nat) (m : Part.eph ∈ P) (h : ∀ r ∈ irigRegisters, r ∈ R)
    (h8 : (0x2210, 8) ∈ R) : Effect P R [] s (s.acceptIrig f tdc) := by
  unfold State.acceptIrig State.noteIrig
  rw [State.setN_eq]
  exact (((readIrig_effect s f tdc m h).modEph _ m).setLow _ _ _ _ h8).modEph _ m

/-! IRIG_FRAME, as O27 states it. -/

section Irig

variable {pulses : List Nat} {f : IrigFrame} (hset : s.settled) (hmode : s.c 0x2210 1 = 2) (hf : f = irigDecode pulses)
  (hfar : ∀ l, nth s.eph.lastEdge 0 none = some l → l + 512 ≤ s.raw * 128 + tdc % 128)
include hset hmode hf hfar

theorem irigFrame_invalid (h : f.usable s = false) :
    Does (.irigFrame ⟨pulses, tdc⟩) s [.eph] [(0x2210, 4), (0x2210, 5), (0x2210, 7), (0x2210, 9), (0x2210, 0x0A)] [7] (fun t =>
      t.num 0x2210 0x0A = State.countUp 32 (s.num 0x2210 0x0A) 1 ∧ t.eph.irigValid = false) := by
  subst hf
  have counted := irig_invalid hmode hfar h
  refine Does.of_effect (f := fun s => s.irig pulses tdc) rfl hset.raises ?_ (by simp) (fun t ht _ => ?_) <;>
    rw [counted, State.inc32_eq] at *
  · exact Effect.raiseLast
      (((readIrig_effect s _ tdc (by simp) (by simp [irigRegisters])).setLow _ _ _ _ (by simp)).modEph _ (by simp)) _ _ rfl
  · refine ⟨?_, (congrArg Eph.irigValid (ht.part .eph) :)⟩
    rw [ht.num_low (by simp), State.num_raiseEvent, State.num_modEph, State.num_set, readIrig_errors]

theorem irigFrame_first (h : f.usable s = true) (hvalid : s.eph.irigValid = false) :
    Does (.irigFrame ⟨pulses, tdc⟩) s [.eph] [(0x2210, 4), (0x2210, 5), (0x2210, 7), (0x2210, 9)] [] (fun t =>
      t.eph.irigValid = true ∧ t.eph.irigSecond = f.codedSeconds) := by
  subst hf
  have noted := irig_first hmode hfar h hvalid
  refine Does.of_effect (f := fun s => s.irig pulses tdc) rfl hset.raises ?_ (by simp) (fun t ht _ => ?_) <;>
    rw [noted, State.noteIrig] at *
  · exact ((readIrig_effect s _ tdc (by simp) (by simp [irigRegisters])).modEph _ (by simp)).modEph _ (by simp)
  · exact ⟨(congrArg Eph.irigValid (ht.part .eph) :), (congrArg Eph.irigSecond (ht.part .eph) :)⟩

theorem irigFrame_accepted (h : f.usable s = true) (hvalid : s.eph.irigValid = true) (htick : s.raw ≤ s.eph.irigTick + 440000000)
    (hnext : f.codedSeconds = s.eph.irigSecond + 1) :
    Does (.irigFrame ⟨pulses, tdc⟩) s [.eph] [(0x2210, 4), (0x2210, 5), (0x2210, 7), (0x2210, 8), (0x2210, 9), (0x2000, 0x15)] []
      (fun t =>
      t.num 0x2210 8 = (f.codedSeconds - f.offsetMinutes * 60 + s.int 0x2000 0x13).toNat * sec ∧
      t.num 0x2210 7 = s.edgeEt 0 tdc ∧ t.eph.irigAccepted = s.raw ∧ t.eph.irigUnlocked = !s.locked) := by
  subst hf
  have accepted := irig_accepted hmode hfar h hvalid htick hnext
  obtain ⟨l, eph⟩ := takeIrigLeap_eph (s.acceptIrig (irigDecode pulses) tdc) (irigDecode pulses)
  have leap := takeIrigLeap_effect (P := [.eph]) (R := [(0x2000, 0x15)]) (s.acceptIrig (irigDecode pulses) tdc) (irigDecode pulses)
    (by simp) (by simp)
  refine Does.of_effect (f := fun s => s.irig pulses tdc) rfl hset.raises ?_ (by simp) (fun t ht _ => ?_) <;> rw [accepted] at *
  · exact (acceptIrig_effect s _ tdc (by simp) (by simp [irigRegisters]) (by simp)).andQuiet (leap.mono (by simp) (by simp))
  · have core : t.eph.core = _ := ht.part .eph
    rw [eph] at core
    refine ⟨?_, ?_, (congrArg Eph.irigAccepted core :), (congrArg Eph.irigUnlocked core :)⟩
    · rw [ht.num_low (by simp), leap.frame.num_low (by simp), State.acceptIrig, State.num_modEph, State.setN_eq, State.num_set]
    · rw [ht.num_low (by simp), leap.frame.num_low (by simp), State.acceptIrig, State.num_modEph, State.setN_eq,
        State.num_set_ne _ _ (by omega) (by omega) (by omega) (by omega), State.noteIrig, State.num_modEph, readIrig_last]

end Irig

/-! ### PPS -/

/-- The time of day of a PPS edge is within 100 ms of a whole second (R127). -/
def ppsNear (s : State) (tdc : Nat) : Prop :=
  s.ppsTimeOfDay (s.edgeEt 1 tdc) % sec ≤ 100 * ms ∨ sec - 100 * ms ≤ s.ppsTimeOfDay (s.edgeEt 1 tdc) % sec

/-- A captured PPS edge. -/
def State.capturePps (s : State) (tdc : Nat) (error : Bool) : State := (s.noteEdge 1 tdc).capture 1 (s.edgeEt 1 tdc) true error

section Pps

variable {high : Nat} (hmode : s.c 0x2211 1 = 3) (hlo : 1000 ≤ high) (hhi : high ≤ 900000000)
  (hfar : ∀ l, nth s.eph.lastEdge 1 none = some l → l + 512 ≤ s.raw * 128 + tdc % 128)
include hmode hlo hhi hfar

theorem pps_near (h : ppsNear s tdc) : s.pps tdc high = (s.capturePps tdc false).modEph (fun x => { x with
    ppsRun := if x.raw < x.ppsAccepted + 3 * tickSec then State.bumpRun x.ppsRun else 1, ppsAccepted := x.raw }) := by
  unfold State.pps
  rw [hmode, decide_eq_true hlo, decide_eq_true hhi, show ((3 : Nat) == 3 && true && true) = true from rfl, takeEdge_captured hfar]
  unfold ppsNear at h
  simp only [Bool.not_true, Bool.false_eq_true, if_false, h, if_true, decide_true]
  rfl

theorem pps_far (h : ¬ ppsNear s tdc) : s.pps tdc high = (s.capturePps tdc true).modEph (fun x => { x with
    ppsRun := if x.ppsRun < 2 then 0 else x.ppsRun }) := by
  unfold State.pps
  rw [hmode, decide_eq_true hlo, decide_eq_true hhi, show ((3 : Nat) == 3 && true && true) = true from rfl, takeEdge_captured hfar]
  unfold ppsNear at h
  simp only [Bool.not_true, Bool.false_eq_true, if_false, h, decide_false, Bool.not_false]
  rfl

/-- PPS_EDGE of an edge that is captured, as O27 states it. -/
theorem ppsEdge_captures (hset : s.settled) :
    Does (.ppsEdge tdc high) s [.eph] [(0x2211, 4), (0x2211, 5), (0x2211, 7)] [] (fun t =>
      t.num 0x2211 4 = (s.num 0x2211 4 + 1) % 2 ^ 32 ∧ t.num 0x2211 7 = s.edgeEt 1 tdc ∧
      (ppsNear s tdc → t.eph.ppsAccepted = s.raw ∧
        t.eph.ppsRun = if s.raw < s.eph.ppsAccepted + 3 * tickSec then min 2 (s.eph.ppsRun + 1) else 1)) := by
  have captured : ∀ error, Effect [.eph] (captureRegisters 1) [] s (s.capturePps tdc error) := fun error =>
    (noteEdge_effect s 1 tdc (by simp)).andQuiet (capture_effect _ _ _ _ (by omega) (fun _ h => h))
  have shown : ∀ error (t : State) (f : Eph → Eph), Frame [] [] ((s.capturePps tdc error).modEph f) t →
      t.num 0x2211 4 = (s.num 0x2211 4 + 1) % 2 ^ 32 ∧ t.num 0x2211 7 = s.edgeEt 1 tdc := fun error t f ht => by
    rw [ht.num_low (by simp), ht.num_low (by simp), State.num_modEph, State.num_modEph]
    exact ⟨capture_count (input := 1) _ _ _ _, capture_last (input := 1) _ _ _ _⟩
  by_cases near : ppsNear s tdc
  · have accepted := pps_near hmode hlo hhi hfar near
    refine Does.of_effect (f := fun s => s.pps tdc high) rfl hset.raises ?_ (by simp) (fun t ht _ => ?_) <;> rw [accepted] at *
    · exact (captured false).modEph _ (by simp)
    · obtain ⟨count, last⟩ := shown false t _ ht
      exact ⟨count, last, fun _ => ⟨(congrArg Eph.ppsAccepted (ht.part .eph) :), (congrArg Eph.ppsRun (ht.part .eph) :)⟩⟩
  · have refused := pps_far hmode hlo hhi hfar near
    refine Does.of_effect (f := fun s => s.pps tdc high) rfl hset.raises ?_ (by simp) (fun t ht _ => ?_) <;> rw [refused] at *
    · exact (captured true).modEph _ (by simp)
    · obtain ⟨count, last⟩ := shown true t _ ht
      exact ⟨count, last, fun h => absurd h near⟩

end Pps

/-! ### Edges of IRIG-B and PPS that are lost, and references that are gone -/

theorem irig_lost {pulses : List Nat} {l : Nat} (hmode : s.c 0x2210 1 = 2) (hl : nth s.eph.lastEdge 0 none = some l)
    (hnear : s.raw * 128 + tdc % 128 < l + 512) : s.irig pulses tdc = s.loseEdge 0 tdc := by
  unfold State.irig
  rw [hmode, show ((2 : Nat) == 2) = true from rfl, takeEdge_lost hl hnear]
  rfl

theorem pps_lost {high l : Nat} (hmode : s.c 0x2211 1 = 3) (hlo : 1000 ≤ high) (hhi : high ≤ 900000000)
    (hl : nth s.eph.lastEdge 1 none = some l) (hnear : s.raw * 128 + tdc % 128 < l + 512) : s.pps tdc high = s.loseEdge 1 tdc := by
  unfold State.pps
  rw [hmode, decide_eq_true hlo, decide_eq_true hhi, show ((3 : Nat) == 3 && true && true) = true from rfl, takeEdge_lost hl hnear]
  rfl

/-- A command that changes the Ephemeris beside its objects alone. -/
theorem does_modEph {c : Instr} {f : State → State} {g : Eph → Eph} (hset : s.settled) (he : exec c s = complete s f)
    (hf : f s = s.modEph g) : Does c s [.eph] [] [] (fun t => t.eph.core = (g s.eph).core) := by
  refine Does.of_effect he hset.raises ?_ (by simp) (fun t ht _ => ?_) <;> rw [hf] at *
  · exact Effect.start.modEph _ (by simp)
  · exact ht.part .eph

/-- Settles O27: edges that are captured or lost, the frames of IRIG-B, the edges of PPS, and both references. -/
theorem timedInputsCapture : Obligations.TimedInputsCapture := by
  refine ⟨fun n rising tdc now s hset hmode hsel hnow => ?_, fun pulses f tdc s hset hmode hf hfar =>
    ⟨irigFrame_invalid hset hmode hf hfar, fun hmarkers hparity hquality hvalid htick hnext => ?_,
      fun hmarkers hparity hquality hvalid => ?_⟩,
    fun s hset hrun hgone => ?_,
    fun tdc high r s hset hmode hlo hhi hr hfar => ?_, fun n c tdc high l s hset hcommand hl hnear => ?_, fun s hset hrun hgone => ?_⟩
  · subst hnow
    exact ⟨tiEdge_captures hset hmode hsel,
      fun l hl hnear => loseEdge_does (f := fun s => s.tiEdge n.val rising tdc) hset rfl (tiEdge_lost hmode hsel hl hnear)⟩
  · exact irigFrame_accepted hset hmode hf hfar (by simp [IrigFrame.usable, hmarkers, hparity, hquality]) hvalid htick hnext
  · exact irigFrame_first hset hmode hf hfar (by simp [IrigFrame.usable, hmarkers, hparity, hquality]) hvalid
  · exact does_modEph (f := State.irigTimeout) hset rfl (if_pos ⟨hrun, hgone⟩)
  · subst hr
    exact ppsEdge_captures hmode hlo hhi hfar hset
  · obtain ⟨rfl, hmode, pulses, rfl⟩ | ⟨rfl, hmode, hlo, hhi, rfl⟩ := hcommand
    · exact loseEdge_does (n := 0) (f := fun s => s.irig pulses tdc) hset rfl (irig_lost hmode hl hnear)
    · exact loseEdge_does (n := 1) (f := fun s => s.pps tdc high) hset rfl (pps_lost hmode hlo hhi hl hnear)
  · exact does_modEph (f := State.ppsTimeout) hset rfl (if_pos ⟨hrun, hgone⟩)

end Sys2Proof.Machine
end

section
/-! Rate segments and offset steps (R90, R92–R95, R99). -/

namespace Sys2Proof.Machine

variable {P : List Part} {R : List (Nat × Nat)} {s t u : State} {r : Req} {x : Session} {c : Instr}

/-! ### INCREMENT -/

/-- INCREMENT's object. -/
def incrementField : Field := ⟨0x03, 0x03, "INCREMENT", .u64, .rw, .int 0x0280000000, .ival 0x027F5C28F6 0x0280A3D70A⟩

theorem incrementRow {v : Nat} (hlo : 0x027F5C28F6 ≤ v) (hhi : v ≤ 0x0280A3D70A) : OwnRow 0x2000 3 incrementField v := by
  refine ⟨by decide +kernel, decode_encode_unsigned (by simp [incrementField, Ty.numeric]) rfl (by simp [incrementField, Ty.size]; omega),
    by decide, ?_, ?_, by omega, by omega⟩
  · rw [encodeValue_length (by simp [incrementField, Ty.numeric])]
    decide
  · simp [inRange, incrementField, typeAdmits, Rng.admits]
    omega

theorem servo_plain : commandOf 0x2000 = none ∧ resultOf 0x2000 3 = none ∧ resultOf 0x2000 0x0C = none ∧ 
    resultOf 0x2000 0x0D = none ∧ resultOf 0x2000 8 = some 0x2001 := by decide +kernel

theorem writeEffect_increment (s : State) (sess v : Nat) : s.writeEffect sess 0x2000 3 (.int v) = s.sendIncrement v := by
  rfl

/-- The servo's objects are usable only by the servo's owner HOST (R99). -/
theorem writeBarred_servo {sub : Nat} (hfree : s.restricted = false) (h : State.servoObject 0x2000 sub = true) :
    s.writeBarred 0x2000 sub = (s.c 0x2000 0x0B == 0) := by
  simp [State.writeBarred, barred_free hfree true, h]

theorem writeBarred_host {sub : Nat} (hfree : s.restricted = false) (h : State.servoObject 0x2000 sub = true)
    (hown : s.c 0x2000 0x0B ≠ 0) :
    s.writeBarred 0x2000 sub = false := by
  rw [writeBarred_servo hfree h]
  simpa using hown

theorem writeBarred_firmware {sub : Nat} (hfree : s.restricted = false) (h : State.servoObject 0x2000 sub = true)
    (hown : s.c 0x2000 0x0B = 0) : s.writeBarred 0x2000 sub = true := by
  rw [writeBarred_servo hfree h, hown]
  rfl

theorem incrementWrite_does {v : Nat} (hset : s.settled) (hw : Writes s r x 0x2000 3) (hlo : 0x027F5C28F6 ≤ v)
    (hhi : v ≤ 0x0280A3D70A) :
    (s.c 0x2000 0x0B ≠ 0 → Serves (.incrementWrite r v) s r x 0x02 [] id [.eph] [] [] (fun t =>
      t.eph.core = { s.eph with newIncrement := some v }.core)) ∧
    (s.c 0x2000 0x0B = 0 → Aborts (.incrementWrite r v) s r x 0x02 0x000E 0x2000 3 0) := by
  obtain ⟨noCommand, noResult, -⟩ := servo_plain
  refine ⟨fun hown => ?_, fun hown => ?_⟩
  · exact (incrementRow hlo hhi).serves (u := (s.accepted x r.seq).sendIncrement v) rfl hset hw noCommand noResult
      (writeBarred_host hw.free rfl hown) (writeEffect_increment _ _ v) (Effect.start.modEph _ (by simp)) (by simp) rfl
      (fun t ht => ht.parts .eph (by simp))
  · have stopped := (incrementRow hlo hhi).aborts (c := .incrementWrite r v) rfl hset hw.toReady hw.role hw.payload
      (commandChecks_none noCommand noResult) (writeBarred_firmware hw.free rfl hown)
    rwa [noResult] at stopped

@[simp] theorem State.et_fold (s : State) : s.fold.et = s.et := by
  simp [State.fold, State.et, State.etAt]

/-- A written increment folds the segment (R90). -/
theorem incrementApply_does {v : Nat} (hset : s.settled) (hv : s.eph.newIncrement = some v) :
    Does .incrementApply s [.eph] [] [] (fun t =>
      t.eph.core = { s.eph with baseEt := s.et, baseRaw := s.raw, increment := v, newIncrement := none }.core ∧ t.et = s.et) := by
  have applied : s.applyIncrement = s.modEph (fun e => { e with
      baseEt := s.et, baseRaw := e.raw, increment := v, newIncrement := none }) := by
    unfold State.applyIncrement
    rw [hv]
    rfl
  refine Does.of_effect (f := State.applyIncrement) rfl hset.raises ?_ (by simp) (fun t ht _ => ?_) <;> rw [applied] at *
  · exact Effect.start.modEph _ (by simp)
  · refine ⟨ht.part .eph, ht.et.trans ?_⟩
    simp [State.et, State.etAt]

/-! ### STEP_CMD -/

/-- STEP_CMD's object. -/
def stepField : Field := ⟨0x08, 0x08, "STEP_CMD", .u8, .wo, .int 0, .ival 1 2⟩

theorem stepRow {mode : Nat} (h : mode = 1 ∨ mode = 2) : OwnRow 0x2000 8 stepField mode := by
  obtain rfl | rfl := h <;>
    exact ⟨by decide +kernel, by decide, by decide, by decide, by decide, by decide⟩

theorem writeEffect_step (s : State) (sess mode : Nat) : s.writeEffect sess 0x2000 8 (.int mode) = s.stepCmd mode := by
  rfl

/-- The step that STEP_CMD asks for (R92). -/
def askedStep (s : State) (mode : Nat) : PendingStep := ⟨s.stepAmount, if mode = 1 then none else some ((s.et / sec + 1) * sec), true⟩

/-- STEP_CMD is taken and BUSY, and its step is pending (R92). -/
theorem stepCmd_serves {mode : Nat} (he : exec c s = State.ownWrite s r 0x2000 8 mode) (hset : s.settled)
    (hcmd : Commands s r x 0x2000 8 0x2001) (hmode : mode = 1 ∨ mode = 2) (hown : s.c 0x2000 0x0B ≠ 0) :
    Serves c s r x 0x0A (beBytes 4 (s.nextSeq 0x2001)) id [.eph] (busyRegisters 0x2001) [] (fun t =>
      Busy 0x2001 s t ∧ t.eph.core = { s.eph with step := some (askedStep s mode) }.core) := by
  obtain ⟨noCommand, -, -, -, result⟩ := servo_plain
  have row := stepRow hmode
  have starts : Effect [.alm, .eph] (busyRegisters 0x2001) [] (s.accepted x r.seq) ((s.accepted x r.seq).stepCmd mode) :=
    (startCmd_effect _ (by decide) (fun _ h => h)).modEph _ (by simp)
  have served := Serves.of_row (g := id) (f := stepField)
    (after := fun t => Busy 0x2001 s t ∧ t.eph.core = { s.eph with step := some (askedStep s mode) }.core) he hset.raises hcmd.toReady
    row.object row.read row.form hcmd.role hcmd.payload row.size (commandChecks_ok noCommand result hcmd.idle (by decide) (by decide))
    (writeBarred_host hcmd.free rfl hown) (row.inRange_ok s) (writeEffect_step _ _ mode) starts (by simp) rfl rfl rfl
    (fun t ht => ⟨?_, ?_⟩)
  · have answer : s.writeAnswer true 0x2000 8 = beBytes 4 (s.nextSeq 0x2001) := by
      unfold State.writeAnswer
      rw [result]
    rwa [result, Option.isSome_some, answer] at served
  · have pending : Effect [.eph] [] [] ((s.accepted x r.seq).startCmd 0x2001) ((s.accepted x r.seq).stepCmd mode) :=
      Effect.start.modEph _ (by simp)
    exact Busy.of_accepted (((startCmd_busy _ 0x2001).kept pending.frame (by decide) (by simp)).kept ht (by decide) (by simp))
  · exact ht.parts .eph (by simp)

/-- STEP_CMD under FIRMWARE (R99). -/
theorem stepCmd_aborts {mode : Nat} (he : exec c s = State.ownWrite s r 0x2000 8 mode) (hset : s.settled)
    (hcmd : Commands s r x 0x2000 8 0x2001) (hmode : mode = 1 ∨ mode = 2) (hown : s.c 0x2000 0x0B = 0) :
    Aborts c s r x 0x0A 0x000E 0x2000 8 0 := by
  obtain ⟨noCommand, -, -, -, result⟩ := servo_plain
  have stopped := (stepRow hmode).aborts he hset hcmd.toReady hcmd.role hcmd.payload
    (commandChecks_ok noCommand result hcmd.idle (by decide) (by decide)) (writeBarred_firmware hcmd.free rfl hown)
  rwa [result] at stopped

/-! ### STEP_APPLY -/

/-- A step that is due is taken from those that wait, and a waiting increment is applied first. -/
def State.takeStep (s : State) : State := s.applyIncrement.modEph (fun e => { e with step := none })

/-- A step that is applied: its amount is added, and its command ends with the new ET (R92, R93). -/
def State.addPending (s : State) (p : PendingStep) : State :=
  if p.commanded then (s.takeStep.addStep p.amount).finishCmd 0x2001 0 (etBytes (s.takeStep.addStep p.amount).et)
  else s.takeStep.addStep p.amount

section Step

variable {p : PendingStep} (hp : s.eph.step = some p)
include hp

theorem stepApply_due (hdue : ∀ at_, p.second = some at_ → at_ ≤ s.et) :
    s.stepApply = if (s.et : Int) + p.amount < 0 then (if p.commanded then s.takeStep.finishCmd 0x2001 2 [] else s.takeStep)
      else (s.addPending p).afterStep p.amount := by
  unfold State.stepApply State.addPending State.takeStep
  rw [hp]
  obtain ⟨amount, second, commanded⟩ := p
  cases second with
  | none => simp
  | some at_ =>
    have due : at_ ≤ s.et := hdue at_ rfl
    simp [due]

theorem stepApply_early {at_ : Et} (h : p.second = some at_) (hearly : s.et < at_) : s.stepApply = s := by
  unfold State.stepApply
  rw [hp]
  simp [h, hearly]

end Step

theorem takeStep_effect (s : State) (m : Part.eph ∈ P) : Effect P R [] s s.takeStep := by
  unfold State.takeStep State.applyIncrement
  split
  · exact Effect.start.modEph _ m
  · exact ((Effect.start.modEph _ m).modEph _ m).modEph _ m

@[simp] theorem takeStep_et (s : State) : s.takeStep.et = s.et := by
  unfold State.takeStep State.applyIncrement
  split
  · rfl
  · simp [State.fold, State.et, State.etAt]

theorem addStep_effect (s : State) (amount : Int) (m : Part.eph ∈ P) : Effect P R [] s (s.addStep amount) := by
  unfold State.addStep
  exact (Effect.ite (Effect.start.modEph _ m) Effect.start).modEph _ m

/-- A step that leaves ET no less than 0 moves it by its amount (R93). -/
theorem addStep_et {amount : Int} (h : 0 ≤ (s.et : Int) + amount) : ((s.addStep amount).et : Int) = s.et + amount := by
  unfold State.addStep
  split
  · simp only [State.fold, State.et, State.etAt, State.modEph, etShift, Nat.sub_self, Nat.zero_mul] at *
    omega
  · rename_i base
    have shifted : ((etShift s.eph.baseEt amount : Nat) : Int) = s.eph.baseEt + amount := by
      unfold etShift
      omega
    simp only [State.et, State.etAt, State.modEph, Nat.cast_add, shifted]
    omega

theorem addPending_effect (s : State) (p : PendingStep) : Effect [.eph] (outcomeRegisters 0x2001) [] s (s.addPending p) := by
  have added : Effect [.eph] (outcomeRegisters 0x2001) [] s (s.takeStep.addStep p.amount) :=
    (takeStep_effect s (by simp)).andQuiet (addStep_effect _ _ (by simp))
  exact Effect.ite (added.andQuiet (finishCmd_effect _ (by decide) (fun _ h => h))) added

theorem addPending_et {p : PendingStep} (h : 0 ≤ (s.et : Int) + p.amount) : ((s.addPending p).et : Int) = s.et + p.amount := by
  have added : ((s.takeStep.addStep p.amount).et : Int) = s.et + p.amount := by
    rw [addStep_et (by rwa [takeStep_et]), takeStep_et]
  unfold State.addPending
  split
  · exact added
  · exact added

theorem addPending_outcome {p : PendingStep} (h : p.commanded = true) :
    Outcome 0x2001 (s.num 0x2001 6) 0 (etBytes (s.addPending p).et) (s.addPending p) := by
  have added : Effect [.eph] [] [] s (s.takeStep.addStep p.amount) :=
    (takeStep_effect s (by simp)).andQuiet (addStep_effect _ _ (by simp))
  unfold State.addPending
  rw [if_pos h, ← added.frame.num_low (i := 0x2001) (b := 6) (by simp)]
  exact finishCmd_outcome _ _ _ _

/-- A step is counted, with its whole nanoseconds (R94). -/
def State.countStep (s : State) (amount : Int) : State :=
  (s.set 0x2000 0x1B 0 (.int (State.countUp 32 (s.num 0x2000 0x1B) 1))).set 0x2000 0x1C 0 (.int (amount / 4294967296))

/-- Of the clock nothing moves after the count of a step. -/
theorem afterStep_clock (s : State) (amount : Int) : (s.afterStep amount).clock = (s.countStep amount).clock := by
  unfold State.afterStep
  rw [State.inc32_eq, State.setI_eq]
  dsimp only
  rw [State.stepOrrery_clock, State.stepTransits_clock,
    State.foldl_clock _ _ _ (fun t n hn => State.stepOut_clock t n (List.mem_range.mp hn)), State.qualityAfterStep_clock,
    State.stepGrid_clock, State.placeLeap_clock, State.raiseEvent_clock _ _ _ (by omega)]
  rfl

theorem countStep_effect (s : State) (amount : Int) : Effect [] [(0x2000, 0x1B), (0x2000, 0x1C)] [] s (s.countStep amount) :=
  (Effect.start.setLow _ _ _ _ (by simp)).setLow _ _ _ _ (by simp)

/-- STEP_APPLY of a step that is due and leaves ET no less than 0, as O23 states it. -/
theorem stepApply_applied {p : PendingStep} (hset : s.settled) (hp : s.eph.step = some p)
    (hdue : ∀ at_, p.second = some at_ → at_ ≤ s.et) (hpos : 0 ≤ (s.et : Int) + p.amount) : Reaches .stepApply s (fun t =>
      (t.et : Int) = s.et + p.amount ∧ t.num 0x2000 0x1B = State.countUp 32 (s.num 0x2000 0x1B) 1 ∧
      t.int 0x2000 0x1C = p.amount / 4294967296 ∧ (p.commanded = true → Outcome 0x2001 (s.num 0x2001 6) 0 (etBytes t.et) t)) := by
  have applied := stepApply_due hp hdue
  rw [if_neg (by omega)] at applied
  have added := addPending_effect s p
  have counted := countStep_effect (s.addPending p) p.amount
  have clock : s.stepApply.clock = ((s.addPending p).countStep p.amount).clock := by rw [applied, afterStep_clock]
  have et : s.stepApply.et = (s.addPending p).et := (et_of_clock clock).trans (counted.frame.et_keep (by simp))
  have both : Effect [.eph] ([(0x2000, 0x1B), (0x2000, 0x1C)] ++ outcomeRegisters 0x2001) [] s ((s.addPending p).countStep p.amount) :=
    (added.mono (by simp) (fun _ h => List.mem_append_right _ h)).andQuiet (counted.mono (by simp) (fun _ h => List.mem_append_left _ h))
  have raised : ((s.addPending p).countStep p.amount).ev.raised = [] := by
    have same := both.raised
    rw [hset.raises] at same
    exact List.map_eq_nil_iff.mp same
  refine Reaches.of_effect (f := State.stepApply) rfl (sourced_of_clock (congrArg Clock.sourced clock :) (by rw [raised]; simp))
    ((congrArg Clock.pending clock).trans both.frame.pending) (fun t ht _ => ⟨?_, ?_, ?_, fun commanded => ?_⟩)
  · rw [ht.et, et, addPending_et hpos]
  · rw [ht.num_low (by simp), num_stepCount_of_clock clock, ← added.frame.num_low (i := 0x2000) (b := 0x1B) (by simp [outcomeRegisters])]
    simp [State.countStep, State.num_set_if]
  · rw [ht.int_low (by simp), int_lastStep_of_clock clock]
    simp [State.countStep, State.int_set_if]
  · rw [ht.et, et]
    exact (outcome_of_clock clock ((addPending_outcome commanded).kept counted.frame (by decide) (by simp))).kept ht (by decide) (by simp)

/-- STEP_APPLY of a step that would make ET negative (R93). -/
theorem stepApply_negative {p : PendingStep} (hset : s.settled) (hp : s.eph.step = some p)
    (hdue : ∀ at_, p.second = some at_ → at_ ≤ s.et) (hneg : (s.et : Int) + p.amount < 0) (hcmd : p.commanded = true) :
    Does .stepApply s [.eph] (outcomeRegisters 0x2001) [] (fun t =>
      t.et = s.et ∧ t.eph.step = none ∧ Outcome 0x2001 (s.num 0x2001 6) 2 [] t) := by
  have refused := stepApply_due hp hdue
  rw [if_pos hneg, if_pos hcmd] at refused
  have taken : Effect [.eph] (outcomeRegisters 0x2001) [] s s.takeStep := takeStep_effect s (by simp)
  have ended : Effect [] (outcomeRegisters 0x2001) [] s.takeStep (s.takeStep.finishCmd 0x2001 2 []) :=
    finishCmd_effect _ (by decide) (fun _ h => h)
  refine Does.of_effect (f := State.stepApply) rfl hset.raises ?_ (by simp) (fun t ht _ => ?_) <;> rw [refused] at *
  · exact taken.andQuiet (ended.mono (by simp) (fun _ h => h))
  · refine ⟨ht.et.trans ((ended.frame.et_keep (by simp)).trans (takeStep_et s)),
      (congrArg Eph.step ((ht.part .eph).trans (ended.frame.parts .eph (by simp))) :), ?_⟩
    have outcome := finishCmd_outcome s.takeStep 0x2001 2 []
    rw [(takeStep_effect (P := [.eph]) (R := []) s (by simp)).frame.num_low (by simp)] at outcome
    exact outcome.kept ht (by decide) (by simp)

/-- Settles O23: INCREMENT and STEP_CMD as they are written, and their ends. -/
theorem incrementsAndStepsMoveTheSegment : Obligations.IncrementsAndStepsMoveTheSegment := by
  refine ⟨fun r x v s hset hw hlo hhi => incrementWrite_does hset hw hlo hhi, fun v s hset hv => incrementApply_does hset hv,
    fun r x s hset hcmd => ⟨fun hown => ⟨?_, ?_⟩, fun hown => ⟨?_, ?_⟩⟩,
    fun p s hset hp hdue => ⟨stepApply_applied hset hp hdue, stepApply_negative hset hp hdue⟩,
    fun p at_ s hset hp hat hearly => does_nothing hset rfl (stepApply_early hp hat hearly)⟩
  · exact stepCmd_serves (mode := 1) rfl hset hcmd (by simp) hown
  · exact stepCmd_serves (mode := 2) rfl hset hcmd (by simp) hown
  · exact stepCmd_aborts (mode := 1) rfl hset hcmd (by simp) hown
  · exact stepCmd_aborts (mode := 2) rfl hset hcmd (by simp) hown

end Sys2Proof.Machine
end

section
/-! Time quality, references, the firmware servo and leap seconds (R96, R97, R100, R102, R565). -/

namespace Sys2Proof.Machine

variable {P : List Part} {R : List (Nat × Nat)} {s t u : State} {r : Req} {x : Session}

/-! ### Changes of the time-quality state -/

/-- TIME_QUALITY is `next` from now on; a change is counted with its ET, and the servo's own state stands (R97). -/
structure Qualified (next : Nat) (s u : State) : Prop where
  effect : Effect [.eph] [(0x2000, 9), (0x2000, 0x0A)] (if next = s.num 0x2000 9 then [] else [0]) s u
  quality : u.num 0x2000 9 = next
  since : u.num 0x2000 0x0A = if next = s.num 0x2000 9 then s.num 0x2000 0x0A else s.et
  alm : u.alm = s.alm
  servo : (u.eph.step, u.eph.newIncrement, u.eph.integ) = (s.eph.step, s.eph.newIncrement, s.eph.integ)

variable {next : Nat}

theorem Qualified.same (h : s.num 0x2000 9 = next) : Qualified next s s := by
  subst h
  exact ⟨by simpa using Effect.start, rfl, by simp, rfl, rfl⟩

/-- A change of the Ephemeris beside its objects that is none of the servo's. -/
theorem Qualified.modEph (h : Qualified next s u) (f : Eph → Eph)
    (hf : ((f u.eph).step, (f u.eph).newIncrement, (f u.eph).integ) = (u.eph.step, u.eph.newIncrement, u.eph.integ)) :
    Qualified next s (u.modEph f) :=
  ⟨h.effect.modEph f (by simp), h.quality, h.since, h.alm, hf.trans h.servo⟩

theorem setQuality_qualified (s : State) (next : Nat) : Qualified next s (s.setQuality next) := by
  unfold State.setQuality
  split
  · rename_i same
    exact Qualified.same same
  · rename_i changed
    rw [State.setN_eq, State.setN_eq]
    refine ⟨?_, ?_, ?_, rfl, rfl⟩
    · rw [if_neg (Ne.symm changed)]
      exact Effect.raiseLast (((Effect.start.setLow _ _ _ _ (by simp)).setLow _ _ _ _ (by simp)).modEph _ (by simp)) _ _ rfl
    · simp [State.num_set_if]
    · rw [if_neg (Ne.symm changed)]
      simp [State.num_set_if]

theorem setQuality_held (s : State) (next : Nat) : (s.setQuality next).eph.refHeld = s.eph.refHeld := by
  unfold State.setQuality
  split <;> rfl

/-! ### Reports (R96) -/

/-- What a report makes of the time-quality state (R96). -/
def reportedQuality (s : State) (o : Int) : Nat :=
  let q := s.num 0x2000 9
  let good := decide (o.natAbs ≤ s.c 0x2000 0x0E * 1000)
  let bad := decide (s.c 0x2000 0x10 * 1000 < o.natAbs)
  if q = 0 then (if s.flag 0x2000 0x0D then 1 else 0)
  else if q = 1 then (if good ∧ s.c 0x2000 0x0F ≤ s.eph.goodRun + 1 then 2 else 1)
  else if q = 2 then (if bad ∧ 3 ≤ s.eph.badRun + 1 then 1 else 2)
  else if bad then 1 else if good ∧ s.c 0x2000 0x0F ≤ s.eph.goodRun + 1 then 2 else q

/-- Reports within LOCK_THRESH lock at LOCK_COUNT. -/
theorem countGood_qualified (s : State) (good : Bool) :
    Qualified (if good ∧ s.c 0x2000 0x0F ≤ s.eph.goodRun + 1 then 2 else s.num 0x2000 9) s (s.countGood good) := by
  unfold State.countGood
  cases good with
  | false => simpa using (Qualified.same rfl).modEph (fun e => { e with goodRun := 0 }) rfl
  | true =>
    by_cases enough : s.c 0x2000 0x0F ≤ s.eph.goodRun + 1
    · simpa [enough] using setQuality_qualified s 2
    · simpa [enough] using (Qualified.same rfl).modEph (fun e => { e with goodRun := e.goodRun + 1 }) rfl

theorem judgeReport_qualified (s : State) (o : Int) : Qualified (reportedQuality s o) s (s.judgeReport o) := by
  unfold State.judgeReport
  dsimp only
  split
  case h_1 q =>
    by_cases present : s.flag 0x2000 0x0D = true
    · simpa [reportedQuality, q, present] using setQuality_qualified s 1
    · simpa [reportedQuality, q, present] using Qualified.same q
  case h_2 q =>
    simpa [reportedQuality, q] using countGood_qualified s (decide (o.natAbs ≤ s.c 0x2000 0x0E * 1000))
  case h_3 q =>
    by_cases bad : s.c 0x2000 0x10 * 1000 < o.natAbs
    · by_cases third : 3 ≤ s.eph.badRun + 1
      · simpa [reportedQuality, q, bad, third] using setQuality_qualified s 1
      · simpa [reportedQuality, q, bad, third] using (Qualified.same q).modEph (fun e => { e with badRun := e.badRun + 1 }) rfl
    · simpa [reportedQuality, q, bad] using (Qualified.same q).modEph (fun e => { e with badRun := 0 }) rfl
  case h_4 h0 h1 h2 =>
    have apart : s.num 0x2000 9 ≠ 0 ∧ s.num 0x2000 9 ≠ 1 ∧ s.num 0x2000 9 ≠ 2 := ⟨h0, h1, h2⟩
    by_cases bad : s.c 0x2000 0x10 * 1000 < o.natAbs
    · simpa [reportedQuality, apart, bad] using setQuality_qualified s 1
    · simpa [reportedQuality, apart, bad] using countGood_qualified s (decide (o.natAbs ≤ s.c 0x2000 0x0E * 1000))

theorem holdReference_qualified (h : Qualified next s u) : Qualified next s u.holdReference := by
  unfold State.holdReference
  split
  · exact h.modEph _ rfl
  · exact h

/-- A report is shown before it is judged. -/
def State.showReport (s : State) (o : Int) : State :=
  (s.set 0x2000 0x0C 0 (.int o)).modEph (fun e => { e with lastReport := e.raw, refHeld := e.refHeld || s.flag 0x2000 0x0D })

theorem showReport_effect (s : State) (o : Int) (m : Part.eph ∈ P) (h : (0x2000, 0x0C) ∈ R) : Effect P R [] s (s.showReport o) :=
  (Effect.start.setLow _ _ _ _ h).modEph _ m

theorem showReport_num (s : State) (o : Int) {b : Nat} (h : b ≠ 0x0C) (hb : b < 256 := by omega) :
    (s.showReport o).num 0x2000 b = s.num 0x2000 b :=
  (showReport_effect (P := [.eph]) (R := [(0x2000, 0x0C)]) s o (by simp) (by simp)).frame.num_low (by simpa using h)

theorem offsetReport_qualified (s : State) (o : Int) :
    Qualified (reportedQuality s o) (s.showReport o) (s.report o) := by
  have shown := showReport_num s o (b := 9) (by omega)
  have judged : reportedQuality (s.showReport o) o = reportedQuality s o := by
    have present : (s.showReport o).flag 0x2000 0x0D = s.flag 0x2000 0x0D := by
      unfold State.flag
      rw [showReport_num s o (by omega)]
    unfold reportedQuality
    rw [shown, present]
    rfl
  rw [← judged]
  exact holdReference_qualified (judgeReport_qualified _ o)

/-- What a report leaves, said of the state before it. -/
theorem offsetReport_effect (s : State) (o : Int) :
    Effect [.eph] [(0x2000, 0x0C), (0x2000, 9), (0x2000, 0x0A)] (if reportedQuality s o = s.num 0x2000 9 then [] else [0])
      s (s.report o) := by
  have judged := (offsetReport_qualified s o).effect
  rw [showReport_num s o (by omega)] at judged
  exact (showReport_effect s o (by simp) (by simp)).trans (judged.mono (by simp) (by simp))

theorem offsetReport_offset (s : State) (o : Int) : (s.report o).int 0x2000 0x0C = o := by
  rw [(offsetReport_qualified s o).effect.frame.int_low (by simp)]
  simp [State.showReport, State.int_modEph, State.int_set_if]

theorem offsetReport_since (s : State) (o : Int) :
    (s.report o).num 0x2000 0x0A = if reportedQuality s o = s.num 0x2000 9 then s.num 0x2000 0x0A else s.et := by
  rw [(offsetReport_qualified s o).since, showReport_num s o (by omega), showReport_num s o (by omega)]
  rfl

theorem offsetReport_alm (s : State) (o : Int) : (s.report o).alm = s.alm :=
  (offsetReport_qualified s o).alm

/-- OFFSET_REPORT's object. -/
def offsetField : Field := ⟨0x0C, 0x0C, "OFFSET_REPORT", .i64, .rw, .int 0, .any⟩

theorem offsetRow {o : Int} (hlo : -9223372036854775808 ≤ o) (hhi : o < 9223372036854775808) : OwnRow 0x2000 0x0C offsetField o := by
  refine ⟨by decide +kernel, decode_encode_i64 hlo hhi, by decide, ?_, rfl, by omega, by omega⟩
  rw [encodeValue_length (by simp [offsetField, Ty.numeric])]
  decide

theorem writeEffect_offset (s : State) (sess : Nat) (o : Int) : s.writeEffect sess 0x2000 0x0C (.int o) = s.report o := by
  rfl

theorem offsetReport_serves {o : Int} (hset : s.settled) (hw : Writes s r x 0x2000 0x0C) (hown : s.c 0x2000 0x0B ≠ 0)
    (hlo : -9223372036854775808 ≤ o) (hhi : o < 9223372036854775808) :
    Serves (.offsetReport r o) s r x 0x02 [] id [.eph] [(0x2000, 0x0C), (0x2000, 9), (0x2000, 0x0A)]
      (if reportedQuality s o = s.num 0x2000 9 then [] else [0])
      (fun t => t.int 0x2000 0x0C = o ∧ t.num 0x2000 9 = reportedQuality s o ∧
        t.num 0x2000 0x0A = if reportedQuality s o = s.num 0x2000 9 then s.num 0x2000 0x0A else s.et) := by
  obtain ⟨noCommand, -, noResult, -⟩ := servo_plain
  refine (offsetRow hlo hhi).serves (u := (s.accepted x r.seq).report o) rfl hset hw noCommand noResult (writeBarred_host hw.free rfl hown)
    (writeEffect_offset _ _ o) ((offsetReport_effect (s.accepted x r.seq) o).mono (by simp) (fun _ h => h)) ?_
    (offsetReport_alm _ o) (fun t ht => ⟨?_, ?_, ?_⟩)
  · intro n hn
    have raised : n ∈ (if reportedQuality s o = s.num 0x2000 9 then [] else [0]) := hn
    split at raised <;> simp_all
  · rw [ht.int_low (by simp), offsetReport_offset (s.accepted x r.seq) o]
  · rw [ht.num_low (by simp), (offsetReport_qualified (s.accepted x r.seq) o).quality]
    rfl
  · rw [ht.num_low (by simp), offsetReport_since (s.accepted x r.seq) o]
    rfl

/-! ### References that are lost (R96) -/

/-- What the loss of the reference makes of the time-quality state (R96). -/
def lostQuality (q : Nat) : Nat := if q = 1 then 0 else if q = 2 then 3 else q

/-- The reference is no longer held, with REF_LOST (R96). -/
def State.dropReference (s : State) : State := (s.modEph (fun e => { e with refHeld := false })).raiseEvent 2 0

theorem loseReference_eq (s : State) : s.loseReference = s.dropReference.setQuality (lostQuality (s.num 0x2000 9)) := by
  have quality : s.dropReference.num 0x2000 9 = s.num 0x2000 9 := rfl
  unfold State.loseReference
  change (match s.dropReference.num 0x2000 9 with | 1 => _ | 2 => _ | _ => s.dropReference) = _
  split
  case h_1 q =>
    rw [← quality, q]
    rfl
  case h_2 q =>
    rw [← quality, q]
    rfl
  case h_3 h1 h2 =>
    have stays : lostQuality (s.num 0x2000 9) = s.num 0x2000 9 := (if_neg h1).trans (if_neg h2)
    exact (if_pos (quality.trans stays.symm)).symm

theorem loseReference_qualified (s : State) : Qualified (lostQuality (s.num 0x2000 9)) s.dropReference s.loseReference := by
  rw [loseReference_eq]
  exact setQuality_qualified _ _

theorem loseReference_effect (s : State) : Effect [.eph] [(0x2000, 9), (0x2000, 0x0A)]
    (2 :: if lostQuality (s.num 0x2000 9) = s.num 0x2000 9 then [] else [0]) s s.loseReference := by
  have dropped : Effect [.eph] [(0x2000, 9), (0x2000, 0x0A)] [2] s s.dropReference :=
    Effect.raiseLast (Effect.start.modEph _ (by simp)) _ _ rfl
  exact dropped.trans (loseReference_qualified s).effect

theorem loseReference_held (s : State) : s.loseReference.eph.refHeld = false := by
  rw [loseReference_eq, setQuality_held]
  rfl

/-- REF_PRESENT's object. -/
def presentField : Field := ⟨0x0D, 0x0D, "REF_PRESENT", .bool, .rw, .int 0, .any⟩

theorem presentRow (present : Bool) : OwnRow 0x2000 0x0D presentField (if present then 1 else 0) := by
  cases present <;> exact ⟨by decide +kernel, by decide, by decide, by decide, by decide, by decide⟩

theorem writeEffect_present (s : State) (sess : Nat) (present : Bool) :
    s.writeEffect sess 0x2000 0x0D (.int (if present then 1 else 0)) = s.writeRefPresent present := by
  cases present <;> rfl

theorem lost_small {q n : Nat} {c : Prop} [Decidable c] (h : n ∈ q :: if c then [] else [0]) (hq : q < 128) : n < 128 := by
  split at h <;> simp_all
  omega

theorem refPresentWrite_lost (hset : s.settled) (hw : Writes s r x 0x2000 0x0D) (hown : s.c 0x2000 0x0B ≠ 0)
    (hheld : s.eph.refHeld = true) :
    Serves (.refPresentWrite r 0) s r x 0x02 [] id [.eph] [(0x2000, 0x0D), (0x2000, 9), (0x2000, 0x0A)]
      (2 :: if lostQuality (s.num 0x2000 9) = s.num 0x2000 9 then [] else [0])
      (fun t => t.flag 0x2000 0x0D = false ∧ t.num 0x2000 9 = lostQuality (s.num 0x2000 9) ∧ t.eph.refHeld = false) := by
  obtain ⟨noCommand, -, -, noResult, -⟩ := servo_plain
  have absent : Effect [.alm, .eph] [(0x2000, 0x0D), (0x2000, 9), (0x2000, 0x0A)] [] (s.accepted x r.seq)
      ((s.accepted x r.seq).setB 0x2000 0x0D false) := by
    rw [State.setB_eq]
    exact Effect.start.setLow _ _ _ _ (by simp)
  have quality : ((s.accepted x r.seq).setB 0x2000 0x0D false).num 0x2000 9 = s.num 0x2000 9 := by
    simp [vBool, State.num_set_if, accepted_num]
  have lost := loseReference_effect ((s.accepted x r.seq).setB 0x2000 0x0D false)
  have moved := loseReference_qualified ((s.accepted x r.seq).setB 0x2000 0x0D false)
  have held := loseReference_held ((s.accepted x r.seq).setB 0x2000 0x0D false)
  rw [quality] at lost moved
  refine (presentRow false).serves (u := ((s.accepted x r.seq).setB 0x2000 0x0D false).loseReference) rfl hset hw noCommand noResult
    (writeBarred_host hw.free rfl hown) ((writeEffect_present _ _ false).trans (if_pos ⟨rfl, hheld⟩))
    (absent.trans (lost.mono (by simp) (by simp))) (fun n hn => lost_small hn (by omega)) moved.alm (fun t ht => ⟨?_, ?_, ?_⟩)
  · rw [ht.flag_low (by simp), lost.frame.flag_low (by simp)]
    simp [State.flag, vBool, State.num_set_if]
  · rw [ht.num_low (by simp), moved.quality]
  · exact (congrArg Eph.refHeld (ht.parts .eph (by simp)) :).trans held

theorem refPresentWrite_present (hset : s.settled) (hw : Writes s r x 0x2000 0x0D) (hown : s.c 0x2000 0x0B ≠ 0) :
    Serves (.refPresentWrite r 1) s r x 0x02 [] id [] [(0x2000, 0x0D)] [] (fun t => t.flag 0x2000 0x0D = true) := by
  obtain ⟨noCommand, -, -, noResult, -⟩ := servo_plain
  have written : (s.accepted x r.seq).writeRefPresent true = (s.accepted x r.seq).set 0x2000 0x0D 0 (vBool true) := by
    simp [State.writeRefPresent]
  refine (presentRow true).serves rfl hset hw noCommand noResult (writeBarred_host hw.free rfl hown)
    ((writeEffect_present _ _ true).trans written) (Effect.start.setLow _ _ _ _ (by simp)) (by simp) rfl (fun t ht => ?_)
  rw [ht.flag_low (by simp)]
  simp [State.flag, vBool, State.num_set_if]

theorem refTimeout_due (hset : s.settled) (hheld : s.eph.refHeld = true)
    (hdue : s.eph.lastReport + s.c 0x2000 0x11 * tickMs ≤ s.raw) :
    Does .refTimeout s [.eph] [(0x2000, 9), (0x2000, 0x0A)] (2 :: if lostQuality (s.num 0x2000 9) = s.num 0x2000 9 then [] else [0])
      (fun t => t.num 0x2000 9 = lostQuality (s.num 0x2000 9) ∧ t.eph.refHeld = false) := by
  have due : s.refTimeoutDue = true := by simp [State.refTimeoutDue, hheld, hdue]
  have lost : (if s.refTimeoutDue then s.loseReference else s) = s.loseReference := if_pos due
  refine Does.of_effect (f := fun s => if s.refTimeoutDue then s.loseReference else s) rfl hset.raises ?_
    (fun n hn => lost_small hn (by omega)) (fun t ht _ => ?_) <;> rw [lost] at *
  · exact loseReference_effect s
  · exact ⟨(ht.num_low (by simp)).trans (loseReference_qualified s).quality,
      (congrArg Eph.refHeld (ht.part .eph) :).trans (loseReference_held s)⟩

theorem holdoverLimit_due (hset : s.settled) (hq : s.num 0x2000 9 = 3) (hdue : s.eph.qualitySince + s.c 0x2000 0x12 * tickSec ≤ s.raw) :
    Does .holdoverLimitExpiry s [.eph] [(0x2000, 9), (0x2000, 0x0A)] [0] (fun t => t.num 0x2000 9 = 0 ∧ t.num 0x2000 0x0A = s.et) := by
  have due : s.holdoverDue = true := by simp [State.holdoverDue, hq, hdue]
  have ended : (if s.holdoverDue then s.setQuality 0 else s) = s.setQuality 0 := if_pos due
  obtain ⟨effect, quality, since, -, -⟩ := setQuality_qualified s 0
  rw [hq] at effect since
  refine Does.of_effect (f := fun s => if s.holdoverDue then s.setQuality 0 else s) rfl hset.raises ?_ (by simp) (fun t ht _ => ?_) <;>
    rw [ended] at *
  · exact effect
  · exact ⟨(ht.num_low (by simp)).trans quality, (ht.num_low (by simp)).trans since⟩

/-! ### The firmware servo (R100) -/

/-- What the servo sends for an offset: an immediate step beyond STEP_THRESH, else a new increment (R100). -/
def State.steer (s : State) (o : Int) : State :=
  if o.natAbs > s.c 0x2000 0x18 * 1000 then s.modEph (fun e => { e with step := some ⟨psToEt (-o), none, false⟩ })
  else (s.sendIncrement (s.servoControl ((o : Rat) / 1000)).2).modEph (fun e => { e with integ := (s.servoControl ((o : Rat) / 1000)).1 })

theorem steer_effect (s : State) (o : Int) (m : Part.eph ∈ P) : Effect P R [] s (s.steer o) :=
  Effect.ite (Effect.start.modEph _ m) ((Effect.start.modEph _ m).modEph _ m)

theorem steer_stepped {o : Int} (h : s.c 0x2000 0x18 * 1000 < o.natAbs) : (s.steer o).eph.step = some ⟨psToEt (-o), none, false⟩ := by
  unfold State.steer
  rw [if_pos h]
  rfl

theorem steer_slewed {o : Int} (h : o.natAbs ≤ s.c 0x2000 0x18 * 1000) : (s.steer o).eph.integ = (s.servoControl ((o : Rat) / 1000)).1 ∧
    (s.steer o).eph.newIncrement = some (s.servoControl ((o : Rat) / 1000)).2 := by
  unfold State.steer
  rw [if_neg (Nat.not_lt.mpr h)]
  exact ⟨rfl, rfl⟩

/-- A measurement of the selected reference steers, and is reported with REF_PRESENT at 1 (R565). -/
theorem servo_measured {ref : RefKind} {o : Int} (hown : s.c 0x2000 0x0B = 0) (hstart : s.started = true) (hstage : s.stage ≠ 15)
    (hquiet : s.quiet = false) (hpaused : s.boot.paused = false) (hkind : State.refNumber ref ≠ 0)
    (hsel : State.refNumber ref = s.selectedRef) : s.servo ref o = ((s.steer o).set 0x2000 0x0D 0 (vBool true)).report o :=
  if_neg (by simp [hown, hstart, hstage, hquiet, hpaused, hsel, hsel ▸ hkind])

/-- What a measurement of the selected reference leaves. -/
theorem servoMeasurement_leaves {ref : RefKind} {o : Int} (hset : s.settled)
    (measured : s.servo ref o = ((s.steer o).set 0x2000 0x0D 0 (vBool true)).report o) :
    Leaves (.servoMeasurement ref o) s [.eph] [(0x2000, 9), (0x2000, 0x0A), (0x2000, 0x0C), (0x2000, 0x0D)] (fun t =>
      t.flag 0x2000 0x0D = true ∧ t.int 0x2000 0x0C = o ∧ (s.num 0x2000 9 = 0 → t.num 0x2000 9 = 1) ∧
      t.eph.step = (s.steer o).eph.step ∧ t.eph.newIncrement = (s.steer o).eph.newIncrement ∧ t.eph.integ = (s.steer o).eph.integ) := by
  have steered : Effect [.eph] [(0x2000, 9), (0x2000, 0x0A), (0x2000, 0x0C), (0x2000, 0x0D)] [] s
      ((s.steer o).set 0x2000 0x0D 0 (vBool true)) := (steer_effect s o (by simp)).setLow _ _ _ _ (by simp)
  have present : ((s.steer o).set 0x2000 0x0D 0 (vBool true)).flag 0x2000 0x0D = true := by
    simp [State.flag, vBool, State.num_set_if]
  have quality : ((s.steer o).set 0x2000 0x0D 0 (vBool true)).num 0x2000 9 = s.num 0x2000 9 := by
    rw [vBool, State.num_set_ne _ _ (by omega) (by omega) (by omega) (by omega),
      (steer_effect (P := [.eph]) (R := []) s o (by simp)).frame.num_low (by simp)]
  have servo : ((s.steer o).set 0x2000 0x0D 0 (vBool true)).eph = (s.steer o).eph := rfl
  generalize (s.steer o).set 0x2000 0x0D 0 (vBool true) = u at *
  have reported := offsetReport_effect u o
  obtain ⟨effect, next, -, -, kept⟩ := offsetReport_qualified u o
  have raises : ∀ n ∈ (if reportedQuality u o = u.num 0x2000 9 then [] else [0]), n < 128 := fun n hn => by
    split at hn <;> simp_all
  refine Leaves.of_effect (f := fun s => s.servo ref o) rfl hset.raises (L := if reportedQuality u o = u.num 0x2000 9 then [] else [0]) ?_
    raises (fun t ht _ => ?_) <;> rw [measured] at *
  · exact steered.trans (reported.mono (by simp) (by simp))
  · have step : t.eph.step = (u.report o).eph.step := (congrArg Eph.step (ht.part .eph) :)
    have increment : t.eph.newIncrement = (u.report o).eph.newIncrement := (congrArg Eph.newIncrement (ht.part .eph) :)
    have integ : t.eph.integ = (u.report o).eph.integ := (congrArg Eph.integ (ht.part .eph) :)
    rw [← servo, step, increment, integ]
    refine ⟨?_, ?_, fun free => ?_, (congrArg Prod.fst kept :), (congrArg (fun k => k.2.1) kept :), (congrArg (fun k => k.2.2) kept :)⟩
    · rw [ht.flag_low (by simp), reported.frame.flag_low (by simp), present]
    · rw [ht.int_low (by simp), offsetReport_offset]
    · rw [ht.num_low (by simp), next]
      simp [reportedQuality, quality, free, present]

/-! ### Leap seconds (R102) -/

theorem leapSecond_due {at_ : Et} (hset : s.settled) (hat : s.eph.leapAt = some at_) (hdue : at_ ≤ s.et) :
    Does .leapSecond s [.eph] [(0x2000, 0x13), (0x2000, 0x15)] [] (fun t =>
      t.int 0x2000 0x13 = s.int 0x2000 0x13 + (if s.num 0x2000 0x15 = 2 then -1 else 1) ∧ t.num 0x2000 0x15 = 0 ∧ t.et = s.et) := by
  have leaps : ∃ f : Eph → Eph, s.leap = ((s.set 0x2000 0x13 0 (.int (s.int 0x2000 0x13 +
      (if s.num 0x2000 0x15 = 2 then -1 else 1)))).set 0x2000 0x15 0 (.int (0 : Nat))).modEph f ∧
      (s.modEph f).et = s.et := by
    unfold State.leap
    rw [hat]
    dsimp only
    rw [if_neg (Nat.not_lt.mpr hdue)]
    exact ⟨_, rfl, rfl⟩
  obtain ⟨f, leaps, et⟩ := leaps
  refine Does.of_effect (f := State.leap) rfl hset.raises ?_ (by simp) (fun t ht _ => ⟨?_, ?_, ?_⟩) <;> rw [leaps] at *
  · exact ((Effect.start.setLow _ _ _ _ (by simp)).setLow _ _ _ _ (by simp)).modEph _ (by simp)
  · rw [ht.int_low (by simp)]
    simp [State.int_modEph, State.int_set_if]
  · rw [ht.num_low (by simp)]
    simp [State.num_set_if]
  · exact ht.et.trans et

/-- Settles O24: a report, the loss and the return of the reference, the limit of holdover, the servo, and a leap second. -/
theorem timeQualityFollowsReports : Obligations.TimeQualityFollowsReports := by
  refine ⟨fun r x o q next good bad s hset hw hown hlo hhi hq hle hgood hbad hnext => ?_, fun q next s hset hq hnext => ?_,
    fun ref o s hset hown hstart hstage hquiet hpaused hkind hsel => ?_, fun at_ s hset hat hdue => leapSecond_due hset hat hdue⟩
  · have reported : next = reportedQuality s o := by
      have known : q = 0 ∨ q = 1 ∨ q = 2 ∨ q = 3 := by omega
      subst hnext hgood hbad hq
      obtain h | h | h | h := known <;> simp [reportedQuality, h]
    subst reported hq
    exact offsetReport_serves hset hw hown hlo hhi
  · have lost : next = lostQuality (s.num 0x2000 9) := by rw [hnext, hq, lostQuality]
    subst lost hq
    exact ⟨fun r x hw hown hheld => refPresentWrite_lost hset hw hown hheld, fun r x hw hown => refPresentWrite_present hset hw hown,
      refTimeout_due hset, holdoverLimit_due hset⟩
  · obtain ⟨t, ht, frame, present, offset, acquires, step, increment, integ⟩ :=
      servoMeasurement_leaves (o := o) hset (servo_measured hown hstart hstage hquiet hpaused hkind hsel)
    refine ⟨t, ht, frame, present, offset, acquires, fun far => step.trans (steer_stepped far), fun near integ' adj' hi ha => ?_⟩
    obtain ⟨integrated, slewed⟩ := steer_slewed near
    subst ha hi
    exact ⟨integ.trans integrated, increment.trans slewed⟩

end Sys2Proof.Machine
end

section
/-! What the PTP engine's operations leave: a frame that leaves at once, the states of its ports, and its parent (R103, R125, R179). -/

namespace Sys2Proof.Machine

variable {P : List Part} {R : List (Nat × Nat)} {L : List Nat} {s t u : State} {p : Nat}

/-! ### Ports of the engine -/

theorem ptpPort_modPtpPort (f : PtpPort → PtpPort) (h : p < s.ptp.ports.length) : (s.modPtpPort p f).ptpPort p = f (s.ptpPort p) :=
  nth_modify _ _ _ _ h

/-- A change of a port leaves what it does not touch of every port. -/
theorem ptpPort_modPtpPort_keep {β : Type} (g : PtpPort → β) (s : State) (q p : Nat) (f : PtpPort → PtpPort)
    (h : ∀ x, g (f x) = g x) : g ((s.modPtpPort q f).ptpPort p) = g (s.ptpPort p) := nth_modify_keep g f _ _ _ _ h

@[simp] theorem State.num_modPtpPort (s : State) (q : Nat) (f : PtpPort → PtpPort) (i b : Nat) :
    (s.modPtpPort q f).num i b = s.num i b := (rfl)

@[simp] theorem State.ptpPort_set (s : State) (i b e : Nat) (v : Value) (q : Nat) : (s.set i b e v).ptpPort q = s.ptpPort q := (rfl)
@[simp] theorem State.ptpPort_raiseEvent (s : State) (n c q : Nat) : (s.raiseEvent n c).ptpPort q = s.ptpPort q := (rfl)
@[simp] theorem State.ptpPort_emit (s : State) (o : Output) (q : Nat) : (s.emit o).ptpPort q = s.ptpPort q := (rfl)
@[simp] theorem State.modPtpPort_wire (s : State) (q : Nat) (f : PtpPort → PtpPort) : (s.modPtpPort q f).wire = s.wire := (rfl)

theorem Frame.ptp (h : Frame P R s u) (hm : Part.ptp ∉ P) : u.ptp = s.ptp := h.parts .ptp hm

theorem Frame.wire_keep (h : Frame P R s u) (hm : Part.wire ∉ P) : u.wire = s.wire := h.parts .wire hm

theorem Frame.ptpPort (h : Frame P R s u) (hm : Part.ptp ∉ P) (q : Nat) : u.ptpPort q = s.ptpPort q := by
  unfold State.ptpPort
  rw [h.ptp hm]

theorem Effect.modPtpPort (h : Effect P R L s u) (q : Nat) (f : PtpPort → PtpPort) (m : Part.ptp ∈ P) :
    Effect P R L s (u.modPtpPort q f) := h.modPtp _ m

/-- A command that changes the engine's ports and data sets alone. -/
theorem does_modPtp {c : Instr} {f : State → State} {g : Ptp → Ptp} (hset : s.settled) (he : exec c s = complete s f)
    (hf : f s = s.modPtp g) : Does c s [.ptp] [] [] (fun t => t.ptp = g s.ptp) := by
  refine Does.of_effect he hset.raises ?_ (by simp) (fun t ht _ => ?_) <;> rw [hf] at *
  · exact Effect.start.modPtp _ (by simp)
  · exact ht.ptp (by simp)

/-! ### A frame that leaves at once -/

theorem releaseTx_nil (s : State) (p : Nat) : s.releaseTx p [] = s := by
  have kept : (fun x : Port => { x with tx := x.tx.filter (fun (d : Nat × Descriptor) => !([] : List Nat).contains d.1) }) = id := by
    funext x
    simp
  unfold State.releaseTx
  rw [kept]
  unfold State.modPort State.modIng modNth
  dsimp only
  rw [List.modify_id]

/-- A frame that leaves on a port and counts there (R179). -/
def State.leaves (s : State) (p : Nat) (o : Output) : State :=
  (s.emit o).set (pCnt p) 0x16 0 (.int (State.countUp 64 (s.num (pCnt p) 0x16) 1))

/-- A port that has a line and honours no pause sends at once. -/
theorem send_leaves (cls : Nat) (o : Output) (hup : s.portUp p = true) (hpause : s.pausing p = false) : s.send p cls o = s.leaves p o := by
  unfold State.send State.sendItem
  simp [hup, hpause, releaseTx_nil, State.putOnWire, State.leaves]

theorem leaves_effect (s : State) (o : Output) (hp : p < 6) (m : Part.wire ∈ P) (h : (pCnt p, 0x16) ∈ R) :
    Effect P R [] s (s.leaves p o) :=
  (Effect.start.emit _ m).setLow _ _ _ _ h (by unfold pCnt; omega)

@[simp] theorem State.leaves_wire (s : State) (o : Output) : (s.leaves p o).wire = s.wire ++ [o] := by
  unfold State.leaves
  rw [State.set_wire, State.emit_wire]

@[simp] theorem State.leaves_ptp (s : State) (o : Output) : (s.leaves p o).ptp = s.ptp := by
  unfold State.leaves
  rw [State.set_ptp, State.emit_ptp]

@[simp] theorem State.leaves_ptpPort (s : State) (o : Output) (q : Nat) : (s.leaves p o).ptpPort q = s.ptpPort q := by
  unfold State.ptpPort
  rw [State.leaves_ptp]

@[simp] theorem State.leaves_raw (s : State) (o : Output) : (s.leaves p o).raw = s.raw := by
  unfold State.leaves State.raw
  rw [State.set_eph, State.emit_eph]

/-- A frame that leaves changes no register of the time base. -/
theorem leaves_num (s : State) (o : Output) (hp : p < 6) {i b : Nat} (hi : 0x2000 ≤ i ∧ i < 0x6201) (hb : b < 256 := by omega) :
    (s.leaves p o).num i b = s.num i b := by
  refine (leaves_effect (P := [.wire]) (R := [(pCnt p, 0x16)]) s o hp (by simp) (by simp)).frame.num_low ?_ hi.2 hb
  simp [pCnt]
  omega

/-! ### The parent (R102, R125) -/

theorem refreshUtc_effect (s : State) (m : Part.eph ∈ P) (h : (0x2000, 0x13) ∈ R) : Effect P R [] s s.refreshUtc := by
  have written : ∀ v, Effect P R [] s (s.set 0x2000 0x13 0 (.int v)) := fun v => Effect.start.setLow _ _ _ _ h
  unfold State.refreshUtc
  simp only [State.setI_eq]
  exact Effect.ite (written _) ((written _).andQuiet (placeLeap_effect _ m))

theorem takeUtc_effect (s : State) (m : Part.eph ∈ P) (h12 : (0x2100, 0x12) ∈ R) (h13 : (0x2000, 0x13) ∈ R)
    (h15 : (0x2000, 0x15) ∈ R) : Effect P R [] s s.takeUtc := by
  have taken : ∀ (v : Value) (f : Eph → Eph), Effect P R [] s ((s.set 0x2100 0x12 0 v).modEph f).refreshUtc := fun v f =>
    ((Effect.start.setLow _ _ _ _ h12).modEph _ m).andQuiet (refreshUtc_effect _ m h13)
  unfold State.takeUtc
  split
  · simp only [State.setB_eq]
    exact Effect.ite ((taken _ _).andQuiet (setLeap_effect _ _ m h15)) (taken _ _)
  · rw [State.setB_eq]
    exact taken _ _

/-- The registers that show the parent and what its messages say of UTC. -/
def parentRegisters : List (Nat × Nat) :=
  [(0x2100, 0x0D), (0x2100, 0x11), (0x2100, 0x10), (0x2100, 0x12), (0x2000, 0x13), (0x2000, 0x15)]

theorem followParent_frame (s : State) : Frame [.eph] parentRegisters s s.followParent := by
  have shown : ∀ a b c, Effect [.eph] parentRegisters [] s
      (((s.set 0x2100 0x0D 0 a).set 0x2100 0x11 0 b).set 0x2100 0x10 0 c).takeUtc := fun a b c =>
    (((Effect.start.setLow _ _ _ _ (by simp [parentRegisters])).setLow _ _ _ _ (by simp [parentRegisters])).setLow _ _ _ _
      (by simp [parentRegisters])).andQuiet (takeUtc_effect _ (by simp) (by simp [parentRegisters]) (by simp [parentRegisters])
        (by simp [parentRegisters]))
  unfold State.followParent
  simp only [State.setBytes_eq, State.setN_eq]
  exact Frame.ite (shown _ _ _).frame ((shown _ _ _).frame.andEnd (Frame.raiseEvent _ _ _))

theorem followParent_ptpPort (s : State) (q : Nat) : s.followParent.ptpPort q = s.ptpPort q := (followParent_frame s).ptpPort (by simp) q

theorem followParent_ptpState (s : State) (hp : p < 6) : s.followParent.ptpState p = s.ptpState p := by
  unfold State.ptpState
  exact (followParent_frame s).num_low (by simp [parentRegisters])

/-! ### States of ports, and the BMCA (R103) -/

theorem enterPortState_ptpState (s : State) (q st steps : Nat) :
    (s.enterPortState q st steps).ptpState p = if p = q then st else s.ptpState p := by
  unfold State.enterPortState
  split
  · rename_i same
    split
    · rename_i h
      rw [h, same]
    · rfl
  · unfold State.ptpState
    rw [State.num_modPtpPort, State.setN_eq, State.num_set_if _ _ (by omega) (by omega) (by omega)]
    simp

theorem enterPortState_announceTick (s : State) (q st steps p : Nat) :
    ((s.enterPortState q st steps).ptpPort p).announceTick = (s.ptpPort p).announceTick := by
  unfold State.enterPortState
  split
  · rfl
  · rw [ptpPort_modPtpPort_keep PtpPort.announceTick, State.setN_eq, State.ptpPort_set]
    exact fun _ => rfl

/-- Ports enter the states of a list. -/
def State.enterStates (s : State) (l : List (Nat × Nat)) (steps : Nat) : State :=
  l.foldl (fun (u : State) (x : Nat × Nat) => u.enterPortState x.1 x.2 steps) s

section States

variable {l : List (Nat × Nat)} {steps : Nat}

theorem enterStates_announceTick (s : State) : ((s.enterStates l steps).ptpPort p).announceTick = (s.ptpPort p).announceTick := by
  unfold State.enterStates
  induction l generalizing s with
  | nil => rfl
  | cons x l ih => rw [List.foldl_cons, ih, enterPortState_announceTick]

theorem enterStates_clock (s : State) (h : ∀ x ∈ l, x.1 < 6) : (s.enterStates l steps).clock = s.clock :=
  State.foldl_clock _ _ _ (fun t x hx => State.enterPortState_clock t _ _ _ (h x hx))

/-- A port that the list names with one state only is in that state at the end. -/
theorem enterStates_ptpState {st : Nat} (s : State) (hst : ∀ x ∈ l, x.1 = p → x.2 = st)
    (h : s.ptpState p = st ∨ ∃ x ∈ l, x.1 = p) : (s.enterStates l steps).ptpState p = st := by
  unfold State.enterStates
  induction l generalizing s with
  | nil => simpa using h
  | cons x l ih =>
    rw [List.foldl_cons]
    refine ih _ (fun y hy => hst y (by simp [hy])) ?_
    rw [enterPortState_ptpState]
    by_cases here : p = x.1
    · rw [if_pos here]
      exact .inl (hst x (by simp) here.symm)
    · rw [if_neg here]
      obtain h | ⟨y, hy, rfl⟩ := h
      · exact .inl h
      · obtain rfl | hy := List.mem_cons.mp hy
        · exact absurd rfl here
        · exact .inr ⟨y, hy, rfl⟩

end States

/-- The ports that take part. -/
def partakers (s : State) : List Nat := (List.range 6).filter (fun p => s.ptpState p != 3)

/-- The best Announce of all ports that take part. -/
def bestAnnounce (s : State) : Option (Nat × PtpMsg) := bestOf ((partakers s).flatMap s.candidates)

/-- The states that the BMCA gives the ports that take part. -/
def decidedStates (s : State) (forced : Option Nat) : List (Nat × Nat) :=
  (partakers s).map (fun p => (p, s.decideState p (bestAnnounce s) (bestOf (s.candidates p)) (s.ptpState p == 4 && forced != some p)))

theorem decidedStates_lt {forced : Option Nat} : ∀ x ∈ decidedStates s forced, x.1 < 6 := by
  intro x hx
  simp only [decidedStates, partakers, List.mem_map, List.mem_filter, List.mem_range] at hx
  obtain ⟨q, ⟨hq, -⟩, rfl⟩ := hx
  exact hq

theorem bmca_eq (s : State) (forced : Option Nat) :
    ∃ steps parent, s.bmca forced =
      ((s.enterStates (decidedStates s forced) steps).modPtp (fun x => { x with parent := parent })).followParent :=
  ⟨_, _, rfl⟩

theorem bmca_clock (s : State) (forced : Option Nat) : (s.bmca forced).clock = s.clock := by
  obtain ⟨steps, parent, e⟩ := bmca_eq s forced
  rw [e, State.followParent_clock, State.modPtp_clock, enterStates_clock s decidedStates_lt]

theorem bmca_announceTick (s : State) (forced : Option Nat) : ((s.bmca forced).ptpPort p).announceTick = (s.ptpPort p).announceTick := by
  obtain ⟨steps, parent, e⟩ := bmca_eq s forced
  rw [e, followParent_ptpPort]
  exact enterStates_announceTick s

/-- With no foreign master known a port that takes part and need not listen is MASTER, but for a transparent clock's. -/
theorem bmca_master (hp : p < 6) (hpart : s.ptpState p ≠ 3) (hmode : s.ptpMode ≠ 3)
    (hno : ∀ q, q < 6 → (s.ptpPort q).foreign = []) : (s.bmca (some p)).ptpState p = 6 := by
  have none : bestAnnounce s = none := by
    have empty : (partakers s).flatMap s.candidates = [] := by
      refine List.flatMap_eq_nil_iff.mpr (fun q hq => ?_)
      have := hno q (List.mem_range.mp (List.mem_filter.mp hq).1)
      simp [State.candidates, this]
    unfold bestAnnounce
    rw [empty]
    rfl
  have decided : ∀ x ∈ decidedStates s (some p), x.1 = p → x.2 = 6 := by
    intro x hx here
    simp only [decidedStates, List.mem_map, none] at hx
    obtain ⟨q, -, rfl⟩ := hx
    obtain rfl : q = p := here
    simp [State.decideState, hmode]
  have named : ∃ x ∈ decidedStates s (some p), x.1 = p := by
    simp [decidedStates, partakers, hp, hpart]
  obtain ⟨steps, parent, e⟩ := bmca_eq s (some p)
  rw [e, followParent_ptpState _ hp]
  exact enterStates_ptpState s decided (.inr named)

end Sys2Proof.Machine
end

section
/-! The PTP engine: messages received and sent, the announce timeout, and the transparent clock (R103–R110). -/

namespace Sys2Proof.Machine

variable {P : List Part} {R : List (Nat × Nat)} {L : List Nat} {s t u : State} {p : Nat} {m : PtpMsg} {tdc : Nat}

/-! ### Messages received (R103) -/

theorem ptpReceive_unsupported (hon : s.ptpOn p = true) (h : s.ptpSupported m = false) :
    s.ptpReceive p m tdc = s.modPtp (fun x => { x with discarded := x.discarded + 1 }) := by
  unfold State.ptpReceive
  rw [if_neg (by simp [hon]), if_pos (by simp [h])]

section Supported

variable (hon : s.ptpOn p = true) (hsup : s.ptpSupported m = true)
include hon hsup

theorem ptpReceive_request (h : m.msgType = 2) :
    s.ptpReceive p m tdc = s.modPtpPort p (fun x => { x with request := some (m, s.rxStamp p tdc) }) := by
  unfold State.ptpReceive
  rw [if_neg (by simp [hon]), if_neg (by simp [hsup]), h]
  rfl

theorem ptpReceive_sync (h : m.msgType = 0) : s.ptpReceive p m tdc = s.ptpSync p m (s.rxStamp p tdc) := by
  unfold State.ptpReceive
  rw [if_neg (by simp [hon]), if_neg (by simp [hsup]), h]
  rfl

end Supported

theorem ptpSync_twoStep {rx : Et} (hpar : s.fromParent p m = true) (h : m.twoStep = true) :
    s.ptpSync p m rx = s.modPtpPort p (fun x => { x with sync := some (m, rx) }) := by
  unfold State.ptpSync
  rw [if_neg (by simp [hpar]), if_pos h]

theorem ptpSync_oneStep {rx : Et} (hpar : s.fromParent p m = true) (h : m.twoStep = false) :
    s.ptpSync p m rx = s.ptpOffset p rx m.stamp m.correction := by
  unfold State.ptpSync
  rw [if_neg (by simp [hpar]), if_neg (by simp [h])]

/-- The offset from a message whose sender was on time at `origin` (R103, R104). -/
def measuredOffset (s : State) (p : Nat) (rx origin : Et) (correction : Int) : Int :=
  sat64 (etToPs ((rx : Int) - origin - correction - psToEt (s.int (0x2110 + p) 4)))

/-- A measurement on a SLAVE port shows the offset and the delay alone. -/
theorem ptpOffset_slave {rx origin : Et} {correction : Int} (h : s.ptpState p = 9) : s.ptpOffset p rx origin correction =
    (s.set 0x2100 0x0E 0 (.int (measuredOffset s p rx origin correction))).set 0x2100 0x0F 0 (.int (s.int (0x2110 + p) 4)) := by
  have slave : ((s.set 0x2100 0x0E 0 (.int (measuredOffset s p rx origin correction))).set 0x2100 0x0F 0
      (.int (s.int (0x2110 + p) 4))).ptpState p = 9 := by
    rw [← h]
    unfold State.ptpState
    rw [State.num_set_ne _ _ (by omega) (by omega) (by omega) (by omega), State.num_set_ne _ _ (by omega) (by omega) (by omega) (by omega)]
  exact if_neg (by rw [State.setI_eq, State.setI_eq]; unfold measuredOffset at slave; rw [slave]; omega)

/-- A one-step Sync of the parent measures at once, as O25 states it. -/
theorem ptpSync_measures {p : Fin 6} (hset : s.settled) (hon : s.ptpOn p.val = true) (hsup : s.ptpSupported m = true)
    (htype : m.msgType = 0) (hpar : s.fromParent p.val m = true) (hone : m.twoStep = false) (hslave : s.ptpState p.val = 9) :
    Does (.ptpMessageReceive p m tdc) s [] [(0x2100, 0x0E), (0x2100, 0x0F)] [] (fun t =>
      t.int 0x2100 0x0F = s.int (0x2110 + p.val) 4 ∧
      t.int 0x2100 0x0E = measuredOffset s p.val (s.rxStamp p.val tdc) m.stamp m.correction) := by
  have measured := (ptpReceive_sync (tdc := tdc) hon hsup htype).trans ((ptpSync_oneStep hpar hone).trans (ptpOffset_slave hslave))
  refine Does.of_effect (f := fun s => s.ptpReceive p.val m tdc) rfl hset.raises ?_ (by simp) (fun t ht _ => ?_) <;> rw [measured] at *
  · exact (Effect.start.setLow _ _ _ _ (by simp)).setLow _ _ _ _ (by simp)
  · rw [ht.int_low (by simp), ht.int_low (by simp)]
    simp [State.int_set_if]

/-! ### The announce timeout (R103) -/

/-- A port whose announce timeout has come: its foreign masters expire, and it waits anew. -/
def State.unheard (s : State) (p : Nat) : State := (s.expireForeign p).modPtpPort p (fun x => { x with announceTick := s.raw })

theorem announceTimeout_due (hon : s.ptpOn p = true)
    (hstate : s.ptpState p = 4 ∨ s.ptpState p = 7 ∨ s.ptpState p = 8 ∨ s.ptpState p = 9)
    (hdue : (s.ptpPort p).announceTick + s.c 0x2100 0x0B * s.announceTicks ≤ s.raw) :
    s.announceTimeout p = (s.unheard p).bmca (some p) :=
  if_pos ⟨hon, by simpa using hstate, hdue⟩

theorem unheard_announceTick (h : p < s.ptp.ports.length) : ((s.unheard p).ptpPort p).announceTick = s.raw := by
  have length : p < (s.expireForeign p).ptp.ports.length := by simpa [State.expireForeign, State.modPtpPort, modNth] using h
  unfold State.unheard
  rw [ptpPort_modPtpPort _ length]

/-- No port has foreign masters after it that had none before. -/
theorem unheard_foreign {q : Nat} (h : (s.ptpPort q).foreign = []) : ((s.unheard p).ptpPort q).foreign = [] := by
  unfold State.unheard
  rw [ptpPort_modPtpPort_keep PtpPort.foreign (s.expireForeign p) p q (fun x => { x with announceTick := s.raw }) (fun _ => rfl)]
  unfold State.expireForeign
  by_cases same : p = q
  · subst same
    unfold State.modPtpPort State.modPtp State.ptpPort at *
    by_cases there : p < s.ptp.ports.length
    · exact (congrArg PtpPort.foreign (nth_modify _ _ _ _ there)).trans (by rw [h]; rfl)
    · simp [nth, modNth, there]
  · exact (congrArg PtpPort.foreign (nth_modify_ne _ _ _ same)).trans h

/-- PTP_ANNOUNCE_TIMEOUT of a port that is silent, as O25 states it. -/
theorem announceTimeout_reaches {p : Fin 6} (hset : s.settled) (hlen : p.val < s.ptp.ports.length) (hon : s.ptpOn p.val = true)
    (hstate : s.ptpState p.val = 4 ∨ s.ptpState p.val = 7 ∨ s.ptpState p.val = 8 ∨ s.ptpState p.val = 9)
    (hdue : (s.ptpPort p.val).announceTick + s.c 0x2100 0x0B * s.announceTicks ≤ s.raw) :
    Reaches (.ptpAnnounceTimeout p) s (fun t => (t.ptpPort p.val).announceTick = s.raw ∧
      (s.ptpMode ≠ 3 → (∀ q, q < 6 → (s.ptpPort q).foreign = []) → t.ptpState p.val = 6)) := by
  have ended := announceTimeout_due hon hstate hdue
  have clock : (s.announceTimeout p.val).clock = s.clock := by
    rw [ended, bmca_clock]
    rfl
  refine Reaches.of_effect (f := fun s => s.announceTimeout p.val) rfl
    (sourced_of_clock (congrArg Clock.sourced clock :) (by rw [hset.raises]; simp)) (congrArg Clock.pending clock)
    (fun t ht _ => ⟨?_, fun hmode hno => ?_⟩) <;> rw [ended] at ht
  · rw [ht.ptpPort (by simp), bmca_announceTick, unheard_announceTick hlen]
  · have master : ((s.unheard p.val).bmca (some p.val)).ptpState p.val = 6 :=
      bmca_master p.isLt (by change s.ptpState p.val ≠ 3; omega) hmode (fun q hq => unheard_foreign (hno q hq))
    exact (ht.num_low (by simp)).trans master

/-! ### Messages sent (R109, R110) -/

/-- The entry of a transmit timestamp (R109). -/
def txtsEntry (s : State) (p type seq : Nat) (stamp : Et) : List Byte × Bool :=
  ([byte p, byte (type % 16)] ++ beBytes 2 (seq % 65536) ++ etBytes stamp, !s.locked)

theorem pushTxts_room {type seq : Nat} {stamp : Et} (h : (s.ptpPort p).txts.length < 32) : s.pushTxts p type seq stamp =
    s.modPtpPort p (fun x => { x with txts := x.txts ++ [txtsEntry s p type seq stamp] }) := if_pos h

theorem pushTxts_full {type seq : Nat} {stamp : Et} (h : 32 ≤ (s.ptpPort p).txts.length) : s.pushTxts p type seq stamp =
    ((s.set (0x2110 + p) 7 0 (vBool true)).set (0x2110 + p) 8 0 (.int (State.countUp 32 (s.num (0x2110 + p) 8) 1))).raiseEvent 4 p := by
  unfold State.pushTxts
  rw [if_neg (by omega), State.inc32_eq, State.setB_eq, vBool, State.num_set_ne _ _ (by omega) (by omega) (by omega) (by omega)]

theorem modPtpPort_id (s : State) (p : Nat) : s.modPtpPort p id = s := by
  unfold State.modPtpPort State.modPtp modNth
  dsimp only
  rw [List.modify_id]

/-- An event message that may be sent leaves, its timestamp enters the queue, and of its port only what the engine waits for changes
beside. -/
theorem ptpTransmit_eq {type seq : Nat} (h : s.mayTransmit p type seq = true) :
    ∃ m g, m.msgType = type ∧ m.seqId = seq % 65536 ∧ (∀ y : PtpPort, (g y).txts = y.txts) ∧
      s.ptpTransmit p type seq tdc = ((s.leaves p (.ptp p m)).pushTxts p type seq (s.txStamp p tdc)).modPtpPort p g := by
  have line : s.portUp p = true ∧ s.pausing p = false := by
    simp only [State.mayTransmit, Bool.and_eq_true, Bool.not_eq_true'] at h
    tauto
  obtain ⟨x, hx⟩ : ∃ x, x = s.ptpTransmit p type seq tdc := ⟨_, rfl⟩
  rw [← hx]
  unfold State.ptpTransmit at hx
  rw [if_neg (by simp [h])] at hx
  extract_lets base m t at hx
  have message : m.msgType = type ∧ m.seqId = seq % 65536 := by
    simp only [m]
    split
    · split <;> exact ⟨rfl, rfl⟩
    · exact ⟨rfl, rfl⟩
  have sent : t = (s.leaves p (.ptp p m)).pushTxts p type seq (s.txStamp p tdc) := by
    simp only [t]
    rw [send_leaves 3 _ line.1 line.2]
  clear_value t m
  obtain ⟨hm, hs⟩ := message
  refine ⟨m, ?_⟩
  rw [← sent]
  by_cases two : type = 2
  · rw [if_pos two] at hx
    refine ⟨_, hm, hs, ?_, hx⟩
    exact fun _ => rfl
  · rw [if_neg two] at hx
    by_cases zero : type = 0
    · rw [if_pos zero] at hx
      refine ⟨_, hm, hs, ?_, hx⟩
      exact fun _ => rfl
    · rw [if_neg zero] at hx
      exact ⟨id, hm, hs, fun _ => rfl, hx.trans (modPtpPort_id t p).symm⟩

/-- PTP_MESSAGE_TRANSMIT with room in the port's queue of timestamps, as O25 states it. -/
theorem ptpTransmit_room {p : Fin 6} {type seq : Nat} (hset : s.settled) (hlen : p.val < s.ptp.ports.length)
    (hmay : s.mayTransmit p.val type seq = true) (hroom : (s.ptpPort p.val).txts.length < 32) :
    Does (.ptpMessageTransmit p type seq tdc) s [.ptp, .wire] [(pCnt p.val, 0x16)] [] (fun t =>
      (∃ m l, t.wire = s.wire ++ .ptp p.val m :: l ∧ m.msgType = type ∧ m.seqId = seq % 65536) ∧
      (t.ptpPort p.val).txts = (s.ptpPort p.val).txts ++ [txtsEntry s p.val type seq (s.txStamp p.val tdc)]) := by
  obtain ⟨m, g, hm, hs, hg, sent⟩ := ptpTransmit_eq (tdc := tdc) hmay
  have queued : (s.leaves p.val (.ptp p.val m)).pushTxts p.val type seq (s.txStamp p.val tdc) =
      (s.leaves p.val (.ptp p.val m)).modPtpPort p.val (fun x => { x with
        txts := x.txts ++ [txtsEntry s p.val type seq (s.txStamp p.val tdc)] }) := by
    rw [pushTxts_room (by rwa [State.leaves_ptpPort])]
    unfold txtsEntry State.locked
    rw [leaves_num s _ p.isLt (by omega)]
  rw [queued] at sent
  refine Does.of_effect (f := fun s => s.ptpTransmit p.val type seq tdc) rfl hset.raises ?_ (by simp) (fun t ht _ => ?_) <;> rw [sent] at *
  · exact ((leaves_effect s _ p.isLt (by simp) (by simp)).modPtpPort _ _ (by simp)).modPtpPort _ _ (by simp)
  · refine ⟨⟨m, [], (ht.wire_keep (by simp)).trans (by simp), hm, hs⟩, ?_⟩
    rw [ht.ptpPort (by simp), ptpPort_modPtpPort_keep PtpPort.txts _ _ _ g hg, ptpPort_modPtpPort _ (by rwa [State.leaves_ptp]),
      State.leaves_ptpPort]

/-- PTP_MESSAGE_TRANSMIT when 32 timestamps wait, as O25 states it. -/
theorem ptpTransmit_full {p : Fin 6} {type seq : Nat} (hset : s.settled) (hmay : s.mayTransmit p.val type seq = true)
    (hfull : 32 ≤ (s.ptpPort p.val).txts.length) :
    Does (.ptpMessageTransmit p type seq tdc) s [.ptp, .wire] [(pCnt p.val, 0x16), (0x2110 + p.val, 7), (0x2110 + p.val, 8)] [4] (fun t =>
      (∃ m l, t.wire = s.wire ++ .ptp p.val m :: l ∧ m.msgType = type ∧ m.seqId = seq % 65536) ∧
      (t.ptpPort p.val).txts = (s.ptpPort p.val).txts ∧ t.flag (0x2110 + p.val) 7 = true ∧
      t.num (0x2110 + p.val) 8 = State.countUp 32 (s.num (0x2110 + p.val) 8) 1) := by
  have hp := p.isLt
  obtain ⟨m, g, hm, hs, hg, sent⟩ := ptpTransmit_eq (tdc := tdc) hmay
  rw [pushTxts_full (by rwa [State.leaves_ptpPort]), leaves_num s _ hp (by omega)] at sent
  refine Does.of_effect (f := fun s => s.ptpTransmit p.val type seq tdc) rfl hset.raises ?_ (by simp) (fun t ht _ => ?_) <;> rw [sent] at *
  · refine Effect.modPtpPort (Effect.raiseLast ?_ _ _ rfl) _ _ (by simp)
    exact ((leaves_effect s _ hp (by simp) (by simp)).setLow _ _ _ _ (by simp)).setLow _ _ _ _ (by simp)
  · refine ⟨⟨m, [], (ht.wire_keep (by simp)).trans (by simp), hm, hs⟩, ?_, ?_, ?_⟩
    · rw [ht.ptpPort (by simp), ptpPort_modPtpPort_keep PtpPort.txts _ _ _ g hg]
      simp
    · rw [ht.flag_low (by simp)]
      simp [State.flag, State.num_set_if, vBool]
    · rw [ht.num_low (by simp)]
      simp [State.num_set_if]

/-! ### TXTS_CLEAR (R110) -/

/-- TXTS_CLEAR of every port. -/
def txtsClearField : Field := ⟨0x09, 0x09, "TXTS_CLEAR", .bool, .wo, .int 0, .ival 1 1⟩

theorem txtsClearRow (p : Fin 6) : OwnRow (0x2110 + p.val) 9 txtsClearField 1 := by
  have object : ∀ p : Fin 6, objAt (0x2110 + p.val) 9 = some txtsClearField := by decide +kernel
  exact ⟨object p, by decide, by decide, by decide, by decide, by omega, by omega⟩

theorem txtsClear_plain : ∀ p : Fin 6, commandOf (0x2110 + p.val) = none ∧ resultOf (0x2110 + p.val) 9 = none := by decide +kernel

theorem writeEffect_txtsClear (s : State) (sess : Nat) (p : Fin 6) :
    s.writeEffect sess (0x2110 + p.val) 9 (.int 1) = s.txtsClear p.val := by
  have h := p.isLt
  have taken : s.writeTime (0x2110 + p.val) 9 (.int 1) = some (s.txtsClear p.val) := by
    unfold State.writeTime
    rw [if_neg (by omega), if_pos ⟨by omega, by omega, rfl⟩, Nat.add_sub_cancel_left]
  unfold State.writeEffect
  rw [taken]

theorem txtsClear_serves {r : Req} {x : Session} {p : Fin 6} (hset : s.settled) (hw : Writes s r x (0x2110 + p.val) 9) :
    Serves (.txtsClear r p) s r x 0x02 [] id [] [(0x2110 + p.val, 7), (0x2110 + p.val, 8), (0x2110 + p.val, 0x0B)] [] (fun t =>
      t.flag (0x2110 + p.val) 7 = false ∧ t.num (0x2110 + p.val) 8 = 0 ∧ t.num (0x2110 + p.val) 0x0B = 0) := by
  have hp := p.isLt
  obtain ⟨noCommand, noResult⟩ := txtsClear_plain p
  have usable : s.writeBarred (0x2110 + p.val) 9 = false := by
    unfold State.writeBarred
    rw [barred_free hw.free true (by omega)]
    simp [State.servoObject]
  have cleared : (s.accepted x r.seq).txtsClear p.val =
      (((s.accepted x r.seq).set (0x2110 + p.val) 7 0 (vBool false)).set (0x2110 + p.val) 8 0 (.int (0 : Nat))).set
        (0x2110 + p.val) 0x0B 0 (.int (0 : Nat)) := by
    unfold State.txtsClear
    rw [State.setB_eq, State.setN_eq, State.setN_eq]
  refine (txtsClearRow p).serves rfl hset hw noCommand noResult usable ((writeEffect_txtsClear _ _ p).trans cleared)
    (((Effect.start.setLow _ _ _ _ (by simp)).setLow _ _ _ _ (by simp)).setLow _ _ _ _ (by simp)) (by simp) (by simp)
    (fun t ht => ⟨?_, ?_, ?_⟩)
  · rw [ht.flag_low (by simp)]
    simp [State.flag, State.num_set_if, vBool]
  · rw [ht.num_low (by simp)]
    simp [State.num_set_if]
  · rw [ht.num_low (by simp)]
    simp [State.num_set_if]

/-! ### The transparent clock (R105, R106) -/

/-- The registers of the time base are none that say whether a port has a line. -/
theorem portUp_set (s : State) (p : Nat) {i b e : Nat} (v : Value) (hp : p < 6) (hi : 0x2000 ≤ i ∧ i < 0xD000) (hb : b < 256)
    (he : e < 65536) : (s.set i b e v).portUp p = s.portUp p := by
  have other : ∀ i' b', i' ≠ i → b' < 256 → (s.set i b e v).num i' b' = s.num i' b' := fun i' b' h hb' =>
    congrArg (fun v => v.toInt.toNat) (State.value_set_ne s v hb he hb' (by omega) (by omega))
  unfold State.portUp State.portOn State.serdesOn State.quiet State.started State.flag pCfg
  rw [other 0xD000 1 (by omega) (by omega), other 0xF140 1 (by omega) (by omega), other _ 0x10 (by omega) (by omega)]
  rfl

/-- The state in which a Sync is forwarded: the longest residence is shown (R106). -/
def State.reside (s : State) (egress : Nat) (rx tx : Et) : State :=
  s.set (0x2110 + egress) 0x0B 0 (.int (max (s.num (0x2110 + egress) 0x0B) (min 4294967295 (etToPs ((tx : Int) - rx)).toNat) : Nat))

theorem reside_effect (s : State) (egress : Fin 6) (rx tx : Et) (o : Output) (m : Part.wire ∈ P) (h : (pCnt egress.val, 0x16) ∈ R)
    (hb : (0x2110 + egress.val, 0x0B) ∈ R) : Effect P R [] s ((s.reside egress.val rx tx).leaves egress.val o) := by
  have he := egress.isLt
  have resided : Effect P R [] s (s.reside egress.val rx tx) := Effect.start.setLow _ _ _ _ hb
  exact resided.andQuiet (leaves_effect _ o he m h)

section Reside

variable (s : State) (egress q : Nat) (rx tx : Et)

theorem setMax_reside : s.setMax (0x2110 + egress) 0x0B (min 4294967295 (etToPs ((tx : Int) - rx)).toNat) = s.reside egress rx tx := by
  unfold State.setMax State.reside
  rw [State.setN_eq]

@[simp] theorem State.reside_wire : (s.reside egress rx tx).wire = s.wire := by
  unfold State.reside
  rw [State.set_wire]

@[simp] theorem State.reside_ptp : (s.reside egress rx tx).ptp = s.ptp := by
  unfold State.reside
  rw [State.set_ptp]

@[simp] theorem State.reside_ptpPort : (s.reside egress rx tx).ptpPort q = s.ptpPort q := by
  unfold State.ptpPort
  rw [State.reside_ptp]

@[simp] theorem State.reside_raw : (s.reside egress rx tx).raw = s.raw := by
  unfold State.reside State.raw
  rw [State.set_eph]

@[simp] theorem State.pausing_set (s : State) (i b e : Nat) (v : Value) (q : Nat) : (s.set i b e v).pausing q = s.pausing q := (rfl)

end Reside

/-- A Sync that is forwarded with its correctionField grown (R105). -/
def grown (s : State) (ingress egress : Nat) (m : PtpMsg) (rx : Et) (tdc : Nat) : PtpMsg :=
  { m with correction := m.correction + s.tcSum ingress rx (s.txStamp egress tdc) }

/-- A Sync that passes is kept with its sum for its Follow_Up (R105). -/
def State.keepResidence (s : State) (ingress egress : Nat) (m : PtpMsg) (sum : Int) : State :=
  s.modPtpPort egress (fun x => { x with
    residence := x.residence ++ [⟨ingress, m.sourceId, m.sourcePort, m.seqId, sum, s.raw⟩] })

section Forward

variable {ingress egress : Fin 6} {rx : Et} {ago rxTdc : Nat} (hup : s.portUp egress.val = true) (hpause : s.pausing egress.val = false)
include hup hpause

theorem send_reside (tx : Et) (o : Output) :
    (s.reside egress.val rx tx).send egress.val 3 o = (s.reside egress.val rx tx).leaves egress.val o := by
  have he := egress.isLt
  refine send_leaves 3 o ?_ ?_ <;> unfold State.reside
  · rwa [portUp_set s _ _ he (by omega) (by omega) (by omega)]
  · rwa [State.pausing_set]

variable (hports : s.tcPorts ingress.val egress.val = true)
  (hrx : rx = s.stampRx ingress.val (etShift s.et (-((ago * s.eph.increment : Nat) : Int))) rxTdc)
include hports hrx

theorem tcSync_grown (htype : m.msgType = 0) (hone : m.twoStep = false ∨ s.cB 0x2100 7 = true) :
    s.tcSync ingress.val egress.val m ago rxTdc tdc =
      (s.reside egress.val rx (s.txStamp egress.val tdc)).leaves egress.val
        (.ptp egress.val (grown s ingress.val egress.val m rx tdc)) := by
  unfold State.tcSync
  rw [if_neg (by simp [hports, htype, hup, hpause])]
  dsimp only
  rw [if_pos (by simpa using hone), ← hrx, setMax_reside, send_reside hup hpause, grown]

theorem tcSync_kept (htype : m.msgType = 0) (htwo : m.twoStep = true) (hcut : s.cB 0x2100 7 = false)
    (hroom : (s.ptpPort egress.val).residence.length < 16) :
    s.tcSync ingress.val egress.val m ago rxTdc tdc =
      ((s.reside egress.val rx (s.txStamp egress.val tdc)).leaves egress.val (.ptp egress.val m)).keepResidence ingress.val egress.val m
        (s.tcSum ingress.val rx (s.txStamp egress.val tdc)) := by
  unfold State.tcSync
  rw [if_neg (by simp [hports, htype, hup, hpause])]
  dsimp only
  rw [if_neg (by simp [htwo, hcut]), ← hrx]
  rw [setMax_reside, send_reside hup hpause, State.leaves_ptpPort, State.reside_ptpPort, if_pos hroom, State.keepResidence,
    State.leaves_raw, State.reside_raw]

/-- TC_FORWARD_SYNC of a Sync whose correctionField grows while it passes, as O25 states it. -/
theorem tcForwardSync_grown (hset : s.settled) (htype : m.msgType = 0) (hone : m.twoStep = false ∨ s.cB 0x2100 7 = true) :
    Does (.tcForwardSync ingress egress m ⟨ago, rxTdc⟩ tdc) s [.wire] [(pCnt egress.val, 0x16), (0x2110 + egress.val, 0x0B)] []
      (fun t =>
      ∃ l, t.wire = s.wire ++ .ptp egress.val (grown s ingress.val egress.val m rx tdc) :: l) := by
  have forwarded := tcSync_grown (tdc := tdc) hup hpause hports hrx htype hone
  refine Does.of_effect (f := fun s => s.tcSync ingress.val egress.val m ago rxTdc tdc) rfl hset.raises ?_ (by simp) (fun t ht _ => ?_) <;>
    rw [forwarded] at *
  · exact reside_effect s egress _ _ _ (by simp) (by simp) (by simp)
  · exact ⟨[], (ht.wire_keep (by simp)).trans (by simp)⟩

/-- TC_FORWARD_SYNC of a two-step Sync, whose sum waits for its Follow_Up, as O25 states it. -/
theorem tcForwardSync_kept (hset : s.settled) (hlen : egress.val < s.ptp.ports.length) (htype : m.msgType = 0) (htwo : m.twoStep = true)
    (hcut : s.cB 0x2100 7 = false) (hroom : (s.ptpPort egress.val).residence.length < 16) :
    Does (.tcForwardSync ingress egress m ⟨ago, rxTdc⟩ tdc) s [.ptp, .wire] [(pCnt egress.val, 0x16), (0x2110 + egress.val, 0x0B)] []
      (fun t =>
      (∃ l, t.wire = s.wire ++ .ptp egress.val m :: l) ∧
      (t.ptpPort egress.val).residence = (s.ptpPort egress.val).residence ++
        [⟨ingress.val, m.sourceId, m.sourcePort, m.seqId, s.tcSum ingress.val rx (s.txStamp egress.val tdc), s.raw⟩]) := by
  have forwarded := tcSync_kept (tdc := tdc) hup hpause hports hrx htype htwo hcut hroom
  refine Does.of_effect (f := fun s => s.tcSync ingress.val egress.val m ago rxTdc tdc) rfl hset.raises ?_ (by simp) (fun t ht _ => ?_) <;>
    rw [forwarded, State.keepResidence] at *
  · exact (reside_effect s egress _ _ _ (by simp) (by simp) (by simp)).modPtpPort _ _ (by simp)
  · refine ⟨⟨[], (ht.wire_keep (by simp)).trans (by simp)⟩, ?_⟩
    rw [ht.ptpPort (by simp)]
    rw [ptpPort_modPtpPort _ (by simpa using hlen)]
    simp

end Forward

section FollowUp

variable {ingress egress : Fin 6} (hup : s.portUp egress.val = true) (hpause : s.pausing egress.val = false)
  (hports : s.tcPorts ingress.val egress.val = true) (htype : m.msgType = 8)
include hup hpause hports htype

theorem tcFollowUp_cut (hcut : s.cB 0x2100 7 = true) :
    s.tcFollowUp ingress.val egress.val m = s.leaves egress.val (.ptp egress.val m) := by
  unfold State.tcFollowUp
  rw [if_neg (by simp [hports, htype]), if_pos hcut, send_leaves 3 _ hup hpause]

theorem tcFollowUp_matched {e : Residence} (hcut : s.cB 0x2100 7 = false)
    (hfind : (s.ptpPort egress.val).residence.find? (State.tcMatches ingress.val m) = some e) :
    s.tcFollowUp ingress.val egress.val m =
      (s.leaves egress.val (.ptp egress.val { m with correction := m.correction + e.amount })).modPtpPort egress.val (fun x => { x with
        residence := x.residence.filter (fun y => !State.tcMatches ingress.val m y) }) := by
  unfold State.tcFollowUp
  rw [if_neg (by simp [hports, htype]), if_neg (by simp [hcut]), hfind]
  dsimp only
  rw [send_leaves 3 _ hup hpause]

theorem tcFollowUp_unmatched (hcut : s.cB 0x2100 7 = false)
    (hfind : (s.ptpPort egress.val).residence.find? (State.tcMatches ingress.val m) = none) :
    s.tcFollowUp ingress.val egress.val m = (s.leaves egress.val (.ptp egress.val m)).set (0x2110 + egress.val) 0x0A 0
      (.int (State.countUp 32 (s.num (0x2110 + egress.val) 0x0A) 1)) := by
  have he := egress.isLt
  unfold State.tcFollowUp
  rw [if_neg (by simp [hports, htype]), if_neg (by simp [hcut]), hfind]
  dsimp only
  rw [send_leaves 3 _ hup hpause, State.inc32_eq, leaves_num s _ he (by omega)]

/-! TC_FORWARD_FOLLOW_UP, as O25 states it. -/

theorem tcForwardFollowUp_cut (hset : s.settled) (hcut : s.cB 0x2100 7 = true) :
    Does (.tcForwardFollowUp ingress egress m) s [.wire] [(pCnt egress.val, 0x16)] [] (fun t =>
      ∃ l, t.wire = s.wire ++ .ptp egress.val m :: l) := by
  have forwarded := tcFollowUp_cut hup hpause hports htype hcut
  refine Does.of_effect (f := fun s => s.tcFollowUp ingress.val egress.val m) rfl hset.raises ?_ (by simp) (fun t ht _ => ?_) <;>
    rw [forwarded] at *
  · exact leaves_effect s _ egress.isLt (by simp) (by simp)
  · exact ⟨[], (ht.wire_keep (by simp)).trans (by simp)⟩

theorem tcForwardFollowUp_matched {e : Residence} (hset : s.settled) (hcut : s.cB 0x2100 7 = false)
    (hfind : (s.ptpPort egress.val).residence.find? (State.tcMatches ingress.val m) = some e) :
    Does (.tcForwardFollowUp ingress egress m) s [.ptp, .wire] [(pCnt egress.val, 0x16)] [] (fun t =>
      ∃ l, t.wire = s.wire ++ .ptp egress.val { m with correction := m.correction + e.amount } :: l) := by
  have forwarded := tcFollowUp_matched hup hpause hports htype hcut hfind
  refine Does.of_effect (f := fun s => s.tcFollowUp ingress.val egress.val m) rfl hset.raises ?_ (by simp) (fun t ht _ => ?_) <;>
    rw [forwarded] at *
  · exact (leaves_effect s _ egress.isLt (by simp) (by simp)).modPtpPort _ _ (by simp)
  · exact ⟨[], (ht.wire_keep (by simp)).trans (by simp)⟩

theorem tcForwardFollowUp_unmatched (hset : s.settled) (hcut : s.cB 0x2100 7 = false)
    (hfind : (s.ptpPort egress.val).residence.find? (State.tcMatches ingress.val m) = none) :
    Does (.tcForwardFollowUp ingress egress m) s [.wire] [(pCnt egress.val, 0x16), (0x2110 + egress.val, 0x0A)] [] (fun t =>
      (∃ l, t.wire = s.wire ++ .ptp egress.val m :: l) ∧
      t.num (0x2110 + egress.val) 0x0A = State.countUp 32 (s.num (0x2110 + egress.val) 0x0A) 1) := by
  have he := egress.isLt
  have forwarded := tcFollowUp_unmatched hup hpause hports htype hcut hfind
  refine Does.of_effect (f := fun s => s.tcFollowUp ingress.val egress.val m) rfl hset.raises ?_ (by simp) (fun t ht _ => ?_) <;>
    rw [forwarded] at *
  · exact (leaves_effect s _ he (by simp) (by simp)).setLow _ _ _ _ (by simp)
  · refine ⟨⟨[], (ht.wire_keep (by simp)).trans (by simp)⟩, ?_⟩
    rw [ht.num_low (by simp)]
    simp [State.num_set_if]

end FollowUp

/-- TC_RESIDENCE_EXPIRY, as O25 states it. -/
theorem tcResidenceExpiry_does {egress : Fin 6} (hset : s.settled) (hlen : egress.val < s.ptp.ports.length) :
    Does (.tcResidenceExpiry egress) s [.ptp] [] [] (fun t =>
      (t.ptpPort egress.val).residence = (s.ptpPort egress.val).residence.filter (fun y => decide (s.raw < y.tick + tickSec))) := by
  refine Does.of_effect (f := fun s => s.tcExpire egress.val) rfl hset.raises ?_ (by simp) (fun t ht _ => ?_)
  · exact Effect.start.modPtpPort _ _ (by simp)
  · rw [ht.ptpPort (by simp), State.tcExpire, ptpPort_modPtpPort _ hlen]

/-- Settles O25: messages received, the announce timeout, messages sent, TXTS_CLEAR, and the transparent clock. -/
theorem ptpEngineHandlesItsMessages : Obligations.PtpEngineHandlesItsMessages := by
  refine ⟨fun p m tdc s hset => ⟨fun hoff => ?_, fun hon hsup => ?_, fun hon hsup => ⟨fun htype => ?_, fun htype hpar htwo => ?_,
    ptpSync_measures hset hon hsup⟩⟩, fun p s hset hlen hon hstate hdue => announceTimeout_reaches hset hlen hon hstate hdue,
    fun p type seq tdc s hset hlen hmay regs events hregs => ?_, fun r x p s hset hw => txtsClear_serves hset hw,
    fun ingress egress m ago rxTdc tdc rx s hset hlen hports hup hpause hrx => ⟨tcForwardSync_grown hup hpause hports hrx hset,
      tcForwardSync_kept hup hpause hports hrx hset hlen,
      fun htype => tcForwardFollowUp_cut hup hpause hports htype hset,
      fun e htype => tcForwardFollowUp_matched hup hpause hports htype hset,
      fun htype => tcForwardFollowUp_unmatched hup hpause hports htype hset, ?_⟩⟩
  · exact does_nothing (f := fun s => s.ptpReceive p.val m tdc) hset rfl (if_pos (by simp [hoff]))
  · exact does_modPtp (f := fun s => s.ptpReceive p.val m tdc) hset rfl (ptpReceive_unsupported hon hsup)
  · obtain ⟨t, ht, frame, raised, ports⟩ :=
      does_modPtp (f := fun s => s.ptpReceive p.val m tdc) hset (c := .ptpMessageReceive p m tdc) rfl (ptpReceive_request hon hsup htype)
    exact ⟨t, ht, frame, raised, congrArg Ptp.ports ports⟩
  · obtain ⟨t, ht, frame, raised, ports⟩ := does_modPtp (c := .ptpMessageReceive p m tdc) (f := fun s => s.ptpReceive p.val m tdc) hset
      rfl ((ptpReceive_sync hon hsup htype).trans (ptpSync_twoStep hpar htwo))
    exact ⟨t, ht, frame, raised, congrArg Ptp.ports ports⟩
  · by_cases room : (s.ptpPort p.val).txts.length < 32
    · rw [if_pos room] at hregs
      obtain ⟨rfl, rfl⟩ := Prod.mk.inj hregs
      obtain ⟨t, ht, frame, raised, wire, txts⟩ := ptpTransmit_room (tdc := tdc) hset hlen hmay room
      exact ⟨t, ht, frame, raised, wire, fun _ => txts, fun full => absurd room (Nat.not_lt.mpr full)⟩
    · rw [if_neg room] at hregs
      obtain ⟨rfl, rfl⟩ := Prod.mk.inj hregs
      obtain ⟨t, ht, frame, raised, wire, kept⟩ := ptpTransmit_full (tdc := tdc) hset hmay (Nat.not_lt.mp room)
      exact ⟨t, ht, frame, raised, wire, fun h => absurd h room, fun _ => kept⟩
  · exact tcResidenceExpiry_does hset hlen

end Sys2Proof.Machine
end

section
/-! Input supervision and its fault qualifiers (R164, R165, R167, R168, R522, R523). -/

namespace Sys2Proof.Machine

variable {P : List Part} {R : List (Nat × Nat)} {L : List Nat} {s t u : State}

/-! ### Fault qualifiers -/

theorem lookup_insertKey {β : Type} (k : Nat) (b : β) (l : List (Nat × β)) : lookup k (insertKey k b l) = some b := by
  induction l with
  | nil => simp [insertKey, lookup]
  | cons e rest ih =>
    obtain ⟨k', b'⟩ := e
    by_cases h : k' = k
    · simp [insertKey, lookup, h]
    · simp [insertKey, lookup, h, ih]

theorem lookup_eraseKey {β : Type} (k j : Nat) (l : List (Nat × β)) :
    lookup j (eraseKey k l) = if j = k then none else lookup j l := by
  induction l with
  | nil => simp [eraseKey, lookup]
  | cons e rest ih =>
    obtain ⟨k', b⟩ := e
    unfold eraseKey at ih ⊢
    by_cases h : k' = k
    · subst h
      rw [List.filter_cons_of_neg (by simp), ih]
      by_cases hj : j = k'
      · simp [hj]
      · simp [lookup, hj, Ne.symm hj]
    · rw [List.filter_cons_of_pos (by simpa using h)]
      by_cases hj : k' = j
      · simp [lookup, hj, hj ▸ h]
      · simp [lookup, hj, ih]

@[simp] theorem State.qualifier_set (s : State) (i b e : Nat) (v : Value) (key : Nat) :
    (s.set i b e v).qualifier key = s.qualifier key := (rfl)

@[simp] theorem State.qualifier_setQualifier (s : State) (key : Nat) (q : Qualifier) : (s.setQualifier key q).qualifier key = q := by
  simp [State.qualifier, State.setQualifier, lookup_insertKey]

@[simp] theorem State.qualifier_raiseEvent (s : State) (n k key : Nat) : (s.raiseEvent n k).qualifier key = s.qualifier key := (rfl)

theorem State.qualifier_clearQualifier (s : State) (k key : Nat) :
    (s.clearQualifier k).qualifier key = if key = k then ⟨false, []⟩ else s.qualifier key := by
  unfold State.qualifier State.clearQualifier
  rw [State.modEv_ev, lookup_eraseKey]
  split <;> rfl

/-- The end of a command leaves every qualifier. -/
theorem Frame.qualifier_keep (h : Frame P R s u) (hm : Part.ev ∉ P) (key : Nat) : u.qualifier key = s.qualifier key := by
  have k : u.ev.core = s.ev.core := h.parts .ev hm
  have e : u.ev.qualifiers = s.ev.qualifiers := (congrArg Events.qualifiers k :)
  unfold State.qualifier
  rw [e]

theorem Frame.lasting_keep (h : Frame P R s u) (hm : Part.ev ∉ P) (key : Nat) : u.lasting key = s.lasting key :=
  congrArg Qualifier.lasting (h.qualifier_keep hm key)

theorem Effect.setQualifier (h : Effect P R L s u) (key : Nat) (q : Qualifier) (m : Part.ev ∈ P) :
    Effect P R L s (u.setQualifier key q) := h.modEv _ m rfl

/-- The occurrences of a qualifier that its window still holds (R522). -/
def State.recent (s : State) (key window : Nat) : List Nat :=
  (s.qualifier key).history.filter (fun t => s.raw < t + window * tickMs)

/-- A qualifier's history with an occurrence now. -/
def State.occurrences (s : State) (key window : Nat) : List Nat := s.recent key window ++ [s.raw]

theorem occurs_already {key : Nat} (window threshold : Nat) (h : s.lasting key = true) :
    s.occurs key window threshold = (s.inc64 0xE060 2, .already) := if_pos h

theorem occurs_transient {key window threshold : Nat} (h : s.lasting key = false) (k : (s.recent key window).length + 1 < threshold) :
    s.occurs key window threshold =
      (((s.inc64 0xE060 2).setQualifier key ⟨false, s.occurrences key window⟩).inc64 0xE060 3, .transient) := by
  have few : ¬ (s.occurrences key window).length ≥ threshold := by
    rw [State.occurrences, List.length_append, List.length_singleton]
    omega
  exact (if_neg (ne_true_of_eq_false h)).trans (if_neg few)

theorem occurs_became {key window threshold : Nat} (h : s.lasting key = false) (k : threshold ≤ (s.recent key window).length + 1) :
    s.occurs key window threshold =
      (((s.inc64 0xE060 2).setQualifier key ⟨true, s.occurrences key window⟩).inc32 0xE060 4, .became) := by
  have enough : (s.occurrences key window).length ≥ threshold := by
    rw [State.occurrences, List.length_append, List.length_singleton]
    omega
  exact (if_neg (ne_true_of_eq_false h)).trans (if_pos enough)

/-! ### Conditions -/

/-- A condition shown in SUP_STATE. -/
def State.showCondition (s : State) (ch kind : Nat) (present : Bool) : State :=
  s.setN (0x3000 + ch) 9 (setBit (s.num (0x3000 + ch) 9) kind present)

variable {ch kind : Nat}

theorem setCondition_gone (h : (s.num (0x3000 + ch) 9).testBit kind = true) :
    s.setCondition ch kind false = s.showCondition ch kind false := by
  unfold State.setCondition
  dsimp only
  rw [h]
  rfl

theorem setCondition_kept {present : Bool} (h : (s.num (0x3000 + ch) 9).testBit kind = present) : s.setCondition ch kind present = s :=
  if_pos h

/-- What an occurrence of a condition's qualifier leaves (R167): CH_OPEN, CH_SHORT or CH_REVERSAL when it makes the qualifier LASTING, else
one more of SUP_TRANSIENTS. -/
def State.countOccurrence (ch kind : Nat) : State × Occurrence → State
  | (u, .became) => (u.showCondition ch (4 + kind) true).raiseEvent (48 + kind) ch
  | (u, .transient) | (u, .already) => u.inc32 (0x3000 + ch) 0x0A

/-- A condition that becomes present is an occurrence of its qualifier. -/
theorem setCondition_occurs (h : (s.num (0x3000 + ch) 9).testBit kind = false) :
    s.setCondition ch kind true = State.countOccurrence ch kind
      ((s.showCondition ch kind true).occurs (qkey 1 ch kind) (s.c (0x3000 + ch) 7) (s.c (0x3000 + ch) 8)) := by
  unfold State.setCondition
  dsimp only
  rw [h, if_neg Bool.false_ne_true, if_neg (by simp)]
  have shown : s.setN (0x3000 + ch) 9 (setBit (s.num (0x3000 + ch) 9) kind true) = s.showCondition ch kind true := rfl
  rw [shown]
  rcases (s.showCondition ch kind true).occurs (qkey 1 ch kind) (s.c (0x3000 + ch) 7) (s.c (0x3000 + ch) 8) with ⟨u, o⟩
  cases o <;> rfl

@[simp] theorem showCondition_c (s : State) (ch kind : Nat) (present : Bool) (i b : Nat) :
    (s.showCondition ch kind present).c i b = s.c i b := by
  simp [State.showCondition]

@[simp] theorem showCondition_qualifier (s : State) (ch kind : Nat) (present : Bool) (key : Nat) :
    (s.showCondition ch kind present).qualifier key = s.qualifier key := by
  simp [State.showCondition]

@[simp] theorem showCondition_raw (s : State) (ch kind : Nat) (present : Bool) : (s.showCondition ch kind present).raw = s.raw := by
  simp [State.showCondition]

@[simp] theorem showCondition_lasting (s : State) (ch kind : Nat) (present : Bool) (key : Nat) :
    (s.showCondition ch kind present).lasting key = s.lasting key := by
  simp [State.lasting]

@[simp] theorem showCondition_recent (s : State) (ch kind : Nat) (present : Bool) (key window : Nat) :
    (s.showCondition ch kind present).recent key window = s.recent key window := by
  simp [State.recent]

@[simp] theorem showCondition_occurrences (s : State) (ch kind : Nat) (present : Bool) (key window : Nat) :
    (s.showCondition ch kind present).occurrences key window = s.occurrences key window := by
  simp [State.occurrences]

section Occurrence

variable (absent : (s.num (0x3000 + ch) 9).testBit kind = false)

include absent

/-- An occurrence that finds its qualifier LASTING. -/
theorem setCondition_already (h : s.lasting (qkey 1 ch kind) = true) :
    s.setCondition ch kind true = ((s.showCondition ch kind true).inc64 0xE060 2).inc32 (0x3000 + ch) 0x0A := by
  rw [setCondition_occurs absent, occurs_already _ _ (by rw [showCondition_lasting, h]), State.countOccurrence]

/-- An occurrence below the threshold. -/
theorem setCondition_transient (h : s.lasting (qkey 1 ch kind) = false)
    (k : (s.recent (qkey 1 ch kind) (s.c (0x3000 + ch) 7)).length + 1 < s.c (0x3000 + ch) 8) :
    s.setCondition ch kind true = ((((s.showCondition ch kind true).inc64 0xE060 2).setQualifier (qkey 1 ch kind)
      ⟨false, s.occurrences (qkey 1 ch kind) (s.c (0x3000 + ch) 7)⟩).inc64 0xE060 3).inc32 (0x3000 + ch) 0x0A := by
  rw [setCondition_occurs absent, occurs_transient (by rw [showCondition_lasting, h]) (by rw [showCondition_recent]; exact k),
    showCondition_occurrences, State.countOccurrence]

/-- The occurrence that makes its qualifier LASTING. -/
theorem setCondition_lasting (h : s.lasting (qkey 1 ch kind) = false)
    (k : s.c (0x3000 + ch) 8 ≤ (s.recent (qkey 1 ch kind) (s.c (0x3000 + ch) 7)).length + 1) :
    s.setCondition ch kind true = (((((s.showCondition ch kind true).inc64 0xE060 2).setQualifier (qkey 1 ch kind)
      ⟨true, s.occurrences (qkey 1 ch kind) (s.c (0x3000 + ch) 7)⟩).inc32 0xE060 4).showCondition ch (4 + kind) true).raiseEvent
        (48 + kind) ch := by
  rw [setCondition_occurs absent, occurs_became (by rw [showCondition_lasting, h]) (by rw [showCondition_recent]; exact k),
    showCondition_occurrences, State.countOccurrence]

end Occurrence

/-! ### What an occurrence leaves -/

/-- The registers of a channel's supervision and of the count of occurrences. -/
def supervisionRegisters (ch : Nat) : List (Nat × Nat) := [(0x3000 + ch, 9), (0x3000 + ch, 0x0A), (0xE060, 2), (0xE060, 3), (0xE060, 4)]

theorem showCondition_effect (s : State) (present : Bool) (hc : ch < 48) (m : (0x3000 + ch, 9) ∈ R) :
    Effect P R [] s (s.showCondition ch kind present) := Effect.start.setLow _ _ _ _ m

theorem showCondition_num (s : State) (ch kind : Nat) (present : Bool) {i b : Nat} (hb : b < 256) :
    (s.showCondition ch kind present).num i b =
      if i = 0x3000 + ch ∧ b = 9 then setBit (s.num (0x3000 + ch) 9) kind present else s.num i b := by
  simp [State.showCondition, State.num_set_if, hb]

/-- A change of a condition writes only its channel's supervision, its qualifier and the counts of occurrences; it raises at most CH_OPEN,
CH_SHORT or CH_REVERSAL. -/
theorem setCondition_effect (s : State) (present : Bool) (hc : ch < 48) (hk : kind < 3) :
    ∃ L, (∀ n ∈ L, n < 128) ∧ Effect [.ev] (supervisionRegisters ch) L s (s.setCondition ch kind present) := by
  have shown : ∀ (t : State) (k : Nat) (b : Bool), Effect [.ev] (supervisionRegisters ch) [] t (t.showCondition ch k b) :=
    fun t k b => showCondition_effect t b hc (by simp [supervisionRegisters])
  have counted : ∀ (t : State) (sub v : Nat), sub = 2 ∨ sub = 3 ∨ sub = 4 →
      Effect [.ev] (supervisionRegisters ch) [] t (t.set 0xE060 sub 0 (.int v)) :=
    fun t sub v h => Effect.start.set _ _ _ _ (by omega) (by omega)
      (.inl (by rcases h with rfl | rfl | rfl <;> simp [supervisionRegisters])) (by omega)
  have noted : ∀ (t : State) (v : Nat), Effect [.ev] (supervisionRegisters ch) [] t (t.set (0x3000 + ch) 0x0A 0 (.int v)) :=
    fun t v => Effect.start.setLow _ _ _ _ (by simp [supervisionRegisters])
  by_cases absent : (s.num (0x3000 + ch) 9).testBit kind = false
  · cases present with
    | false => exact ⟨[], by simp, by rw [setCondition_kept absent]; exact Effect.start⟩
    | true =>
      by_cases lasting : s.lasting (qkey 1 ch kind) = true
      · refine ⟨[], by simp, ?_⟩
        rw [setCondition_already absent lasting]
        exact ((shown s kind true).trans (counted _ 2 _ (by omega))).trans (noted _ _)
      · rw [Bool.not_eq_true] at lasting
        by_cases few : (s.recent (qkey 1 ch kind) (s.c (0x3000 + ch) 7)).length + 1 < s.c (0x3000 + ch) 8
        · refine ⟨[], by simp, ?_⟩
          rw [setCondition_transient absent lasting few]
          exact ((((shown s kind true).trans (counted _ 2 _ (by omega))).setQualifier _ _ (by simp)).trans
            (counted _ 3 _ (by omega))).trans (noted _ _)
        · refine ⟨[48 + kind], by simp; omega, ?_⟩
          rw [setCondition_lasting absent lasting (by omega)]
          exact (((((shown s kind true).trans (counted _ 2 _ (by omega))).setQualifier _ _ (by simp)).trans
            (counted _ 4 _ (by omega))).trans (shown _ _ _)).raise _ _
  · rw [Bool.not_eq_false] at absent
    refine ⟨[], by simp, ?_⟩
    cases present with
    | true => rw [setCondition_kept absent]; exact Effect.start
    | false => rw [setCondition_gone absent]; exact shown s kind false

theorem testBit_setBit_same (n i : Nat) : (setBit n i true).testBit i = true := by simp [setBit]

theorem testBit_setBit_of_set {n i : Nat} (j : Nat) (h : n.testBit i = true) : (setBit n j true).testBit i = true := by simp [setBit, h]

/-- A condition that is to be present shows in SUP_STATE. -/
theorem setCondition_present (s : State) (ch kind : Nat) : ((s.setCondition ch kind true).num (0x3000 + ch) 9).testBit kind = true := by
  by_cases absent : (s.num (0x3000 + ch) 9).testBit kind = false
  · by_cases lasting : s.lasting (qkey 1 ch kind) = true
    · simp [setCondition_already absent lasting, showCondition_num, State.num_set_if, testBit_setBit_same]
    · rw [Bool.not_eq_true] at lasting
      by_cases few : (s.recent (qkey 1 ch kind) (s.c (0x3000 + ch) 7)).length + 1 < s.c (0x3000 + ch) 8
      · simp [setCondition_transient absent lasting few, showCondition_num, State.num_set_if, testBit_setBit_same, State.setQualifier]
      · simp [setCondition_lasting absent lasting (by omega), showCondition_num, State.num_set_if, testBit_setBit_same,
          testBit_setBit_of_set, State.setQualifier]
  · rw [Bool.not_eq_false] at absent
    rw [setCondition_kept absent, absent]

/-! ### OPEN_WIRE_SAMPLE (R164) -/

/-- The runs of open-wire samples outside and inside the window. -/
def State.setRuns (s : State) (ch outside inside : Nat) : State :=
  s.modChannel ch (fun x => { x with outRun := outside, inRun := inside })

theorem setRuns_effect (s : State) (ch outside inside : Nat) (m : Part.loc ∈ P) : Effect P R [] s (s.setRuns ch outside inside) := by
  unfold State.setRuns State.modChannel
  exact Effect.start.modLoc _ m

@[simp] theorem setRuns_num (s : State) (ch outside inside i b : Nat) : (s.setRuns ch outside inside).num i b = s.num i b := (rfl)

theorem Frame.channel_keep (h : Frame P R s u) (hm : Part.loc ∉ P) (n : Nat) : u.channel n = s.channel n := by
  have k : u.loc = s.loc := h.parts .loc hm
  unfold State.channel
  rw [k]

theorem channel_modChannel (f : Channel → Channel) (h : ch < s.loc.channels.length) : (s.modChannel ch f).channel ch = f (s.channel ch) :=
  nth_modify _ _ _ _ h

section OpenWire

variable (on : s.num 0x3200 0x0B ≠ 0) (bias : s.cB (0x3000 + ch) 5 = true) (enabled : s.supEnabled ch 0 = true)

include on bias enabled

theorem openSample_supervised : ¬ (s.chainState = 0 ∨ (!s.cB (0x3000 + ch) 5) = true ∨ (!s.supEnabled ch 0) = true) := by
  simp [State.chainState, on, bias, enabled]

theorem openSample_outside : s.openSample ch true =
    if 1 ≤ (s.channel ch).outRun then (s.setRuns ch 2 0).setCondition ch 0 true else s.setRuns ch 1 0 := by
  unfold State.openSample
  rw [if_neg (openSample_supervised on bias enabled)]
  by_cases run : 1 ≤ (s.channel ch).outRun
  · simp [run, State.setRuns]
  · have one : min 2 ((s.channel ch).outRun + 1) = 1 := by omega
    simp [one, run, State.setRuns]

theorem openSample_inside : s.openSample ch false =
    if 1 ≤ (s.channel ch).inRun then (s.setRuns ch 0 2).setCondition ch 0 false else s.setRuns ch 0 1 := by
  unfold State.openSample
  rw [if_neg (openSample_supervised on bias enabled)]
  by_cases run : 1 ≤ (s.channel ch).inRun
  · simp [run, State.setRuns]
  · have one : min 2 ((s.channel ch).inRun + 1) = 1 := by omega
    simp [one, run, State.setRuns]

end OpenWire

section OpenWireRow

variable {ch : Fin 48}

/-- A command whose effect is that of an open-wire sample. -/
theorem openWire_does {outside : Bool} {after : State → Prop} (hset : s.settled) (row : s.openSample ch.val outside = u)
    (hf : Effect P R L s u) (small : ∀ n ∈ L, n < 128) (hafter : ∀ t, Frame [] [] u t → after t) :
    Does (.openWireSample ch outside) s P R L after := by
  subst row
  exact Does.of_effect (f := fun s => s.openSample ch.val outside) rfl hset.raises hf small (fun t ht _ => hafter t ht)

section Present

variable (hset : s.settled) (row : s.openSample ch.val true = (s.setRuns ch.val 2 0).setCondition ch.val 0 true)
  (absent : (s.num (0x3000 + ch.val) 9).testBit 0 = false)

include hset row absent

theorem openWire_transient (cleared : s.lasting (qkey 1 ch.val 0) = false)
    (few : (s.recent (qkey 1 ch.val 0) (s.c (0x3000 + ch.val) 7)).length + 1 < s.c (0x3000 + ch.val) 8) :
    Does (.openWireSample ch true) s [.loc, .ev] [(0x3000 + ch.val, 9), (0x3000 + ch.val, 0x0A), (0xE060, 2), (0xE060, 3)] [] (fun t =>
      t.num (0x3000 + ch.val) 9 = setBit (s.num (0x3000 + ch.val) 9) 0 true ∧ t.lasting (qkey 1 ch.val 0) = false ∧
      t.num (0x3000 + ch.val) 0x0A = State.countUp 32 (s.num (0x3000 + ch.val) 0x0A) 1) := by
  have hc := ch.isLt
  have occurs := setCondition_transient (s := s.setRuns ch.val 2 0) (kind := 0) absent cleared few
  refine openWire_does hset (row.trans occurs) ?_ (by simp) (fun t ht => ⟨?_, ?_, ?_⟩)
  · simp only [State.inc64_eq, State.inc32_eq, State.showCondition, State.setN_eq]
    exact (((((setRuns_effect s _ _ _ (by simp)).setLow _ _ _ _ (by simp)).set _ _ _ _ (by omega) (by omega) (.inl (by simp))
      (by omega)).setQualifier _ _ (by simp)).set _ _ _ _ (by omega) (by omega) (.inl (by simp)) (by omega)).setLow _ _ _ _ (by simp)
  · rw [ht.num_low (by simp)]
    simp [State.num_set_if, showCondition_num, State.setQualifier]
  · rw [ht.lasting_keep (by simp), State.lasting, State.inc32_eq, State.qualifier_set, State.inc64_eq, State.qualifier_set,
      State.qualifier_setQualifier]
  · rw [ht.num_low (by simp)]
    simp [State.num_set_if, showCondition_num, State.setQualifier]

theorem openWire_lasting (cleared : s.lasting (qkey 1 ch.val 0) = false)
    (enough : s.c (0x3000 + ch.val) 8 ≤ (s.recent (qkey 1 ch.val 0) (s.c (0x3000 + ch.val) 7)).length + 1) :
    Does (.openWireSample ch true) s [.loc, .ev] [(0x3000 + ch.val, 9), (0xE060, 2), (0xE060, 4)] [48] (fun t =>
      t.num (0x3000 + ch.val) 9 = setBit (setBit (s.num (0x3000 + ch.val) 9) 0 true) 4 true ∧
      t.lasting (qkey 1 ch.val 0) = true) := by
  have hc := ch.isLt
  have occurs := setCondition_lasting (s := s.setRuns ch.val 2 0) (kind := 0) absent cleared enough
  refine openWire_does hset (row.trans occurs) ?_ (by simp) (fun t ht => ⟨?_, ?_⟩)
  · simp only [State.inc64_eq, State.inc32_eq, State.showCondition, State.setN_eq]
    exact Effect.raiseLast (((((setRuns_effect s _ _ _ (by simp)).setLow _ _ _ _ (by simp)).set _ _ _ _ (by omega) (by omega)
      (.inl (by simp)) (by omega)).setQualifier _ _ (by simp)).set _ _ _ _ (by omega) (by omega) (.inl (by simp)) (by omega) |>.setLow
        _ _ _ _ (by simp)) _ _ rfl
  · rw [ht.num_low (by simp)]
    simp [State.num_set_if, showCondition_num, State.setQualifier]
  · rw [ht.lasting_keep (by simp)]
    simp [State.lasting, State.showCondition]

theorem openWire_already (already : s.lasting (qkey 1 ch.val 0) = true) :
    Does (.openWireSample ch true) s [.loc] [(0x3000 + ch.val, 9), (0x3000 + ch.val, 0x0A), (0xE060, 2)] [] (fun t =>
      t.num (0x3000 + ch.val) 9 = setBit (s.num (0x3000 + ch.val) 9) 0 true ∧
      t.num (0x3000 + ch.val) 0x0A = State.countUp 32 (s.num (0x3000 + ch.val) 0x0A) 1) := by
  have hc := ch.isLt
  have occurs := setCondition_already (s := s.setRuns ch.val 2 0) (kind := 0) absent already
  refine openWire_does hset (row.trans occurs) ?_ (by simp) (fun t ht => ⟨?_, ?_⟩)
  · simp only [State.inc64_eq, State.inc32_eq, State.showCondition, State.setN_eq]
    exact (((setRuns_effect s _ _ _ (by simp)).setLow _ _ _ _ (by simp)).set _ _ _ _ (by omega) (by omega) (.inl (by simp))
      (by omega)).setLow _ _ _ _ (by simp)
  all_goals
    rw [ht.num_low (by simp)]
    simp [State.num_set_if, showCondition_num]

end Present

/-- The second sample inside ends the condition. -/
theorem openWire_inside (hset : s.settled) (row : s.openSample ch.val false = (s.setRuns ch.val 0 2).setCondition ch.val 0 false)
    (present : (s.num (0x3000 + ch.val) 9).testBit 0 = true) :
    Does (.openWireSample ch false) s [.loc] [(0x3000 + ch.val, 9)] [] (fun t =>
      t.num (0x3000 + ch.val) 9 = setBit (s.num (0x3000 + ch.val) 9) 0 false) := by
  have hc := ch.isLt
  have gone := setCondition_gone (s := s.setRuns ch.val 0 2) (kind := 0) present
  refine openWire_does hset (row.trans gone) ?_ (by simp) (fun t ht => ?_)
  · exact (setRuns_effect s _ _ _ (by simp)).setLow _ _ _ _ (by simp)
  · rw [ht.num_low (by simp), showCondition_num _ _ _ _ (by omega), if_pos ⟨rfl, rfl⟩, setRuns_num]

/-- The first sample outside is remembered. -/
theorem openWire_first (hset : s.settled) (row : s.openSample ch.val true = s.setRuns ch.val 1 0)
    (hlen : ch.val < s.loc.channels.length) :
    Does (.openWireSample ch true) s [.loc] [] [] (fun t => (t.channel ch.val).outRun = 1) := by
  refine openWire_does hset row (setRuns_effect s _ _ _ (by simp)) (by simp) (fun t ht => ?_)
  rw [ht.channel_keep (by simp)]
  exact congrArg Channel.outRun (channel_modChannel _ hlen)

end OpenWireRow

/-! ### SHORT_EVALUATION (R165) -/

/-- The 200 ms mean of a channel's fixed-rate samples. -/
def State.dcMean (s : State) (ch : Nat) : Rat := (((s.channel ch).fixed.take 9600).map (fun y => y.value.toRat)).sum / 9600

/-- DC, and whether it is beyond its limit. -/
def State.showDc (s : State) (ch : Nat) : State :=
  (s.setF32 (0x3000 + ch) 0x0E (F32.ofRat (s.dcMean ch))).modChannel ch (fun x => { x with
    dcShort := decide ((s.cF32 (0x3000 + ch) 2).toRat / 10 ≤ s.dcMean ch) ||
      decide (s.dcMean ch ≤ -((s.cF32 (0x3000 + ch) 2).toRat / 10)) })

theorem shortEvaluation_eq (on : s.chainOn = true) (enabled : s.cB (0x3000 + ch) 1 = true) (some_ : (s.channel ch).fixed ≠ []) :
    s.shortEvaluation ch = (s.showDc ch).updateShort ch := by
  have taken : ((s.channel ch).fixed.take 9600).isEmpty = false := by
    simpa using some_
  unfold State.shortEvaluation
  rw [if_neg (by simp [on, enabled])]
  dsimp only
  rw [taken]
  rfl

theorem showDc_effect (s : State) (hc : ch < 48) : Effect [.loc] [(0x3000 + ch, 0x0E)] [] s (s.showDc ch) := by
  unfold State.showDc State.modChannel
  rw [State.setF32_eq]
  exact (Effect.start.setLow _ _ _ _ (by simp)).modLoc _ (by simp)

theorem showDc_num (s : State) (ch : Nat) : (s.showDc ch).num (0x3000 + ch) 0x0E = (F32.ofRat (s.dcMean ch)).nat := by
  unfold State.showDc State.modChannel
  rw [State.num_modLoc, State.setF32_eq, State.num_set]

theorem showDc_supEnabled (s : State) (ch kind : Nat) : (s.showDc ch).supEnabled ch kind = s.supEnabled ch kind := by
  simp [State.supEnabled, State.showDc, State.modChannel]

/-- What the short condition comes from (R165). -/
def State.shorted (s : State) (ch : Nat) : Bool := decide ((s.channel ch).overRun ≥ 48) || (s.channel ch).dcShort

theorem updateShort_enabled (h : s.supEnabled ch 1 = true) : s.updateShort ch = s.setCondition ch 1 (s.shorted ch) := by
  unfold State.updateShort
  rw [h]
  rfl

theorem updateShort_effect (s : State) (hc : ch < 48) :
    ∃ L, (∀ n ∈ L, n < 128) ∧ Effect [.ev] (supervisionRegisters ch) L s (s.updateShort ch) := by
  cases h : s.supEnabled ch 1 with
  | true =>
    rw [updateShort_enabled h]
    exact setCondition_effect s _ hc (by omega)
  | false =>
    have same : s.updateShort ch = s := if_pos (by rw [h]; rfl)
    exact ⟨[], by simp, by rw [same]; exact Effect.start⟩

theorem Reaches.of_does {c : Instr} {events : List Nat} {after : State → Prop} (h : Does c s P R events after) : Reaches c s after := by
  obtain ⟨t, ht, -, -, ha⟩ := h
  exact ⟨t, ht, ha⟩

/-- SHORT_EVALUATION, as O29 states it. -/
theorem shortEvaluation_reaches {ch : Fin 48} (hset : s.settled) (hlen : ch.val < s.loc.channels.length) (on : s.chainOn = true)
    (enabled : s.cB (0x3000 + ch.val) 1 = true) (some_ : (s.channel ch.val).fixed ≠ []) :
    Reaches (.shortEvaluation ch) s (fun t => t.num (0x3000 + ch.val) 0x0E = (F32.ofRat (s.dcMean ch.val)).nat ∧
      ((s.cF32 (0x3000 + ch.val) 2).toRat / 10 ≤ s.dcMean ch.val → s.supEnabled ch.val 1 = true →
        (t.num (0x3000 + ch.val) 9).testBit 1 = true)) := by
  have hc := ch.isLt
  obtain ⟨L, small, update⟩ := updateShort_effect (s.showDc ch.val) hc
  have whole := shortEvaluation_eq on enabled some_
  refine Reaches.of_does (P := [.loc, .ev]) (R := (0x3000 + ch.val, 0x0E) :: supervisionRegisters ch.val) (events := L)
    (Does.of_effect (f := fun s => s.shortEvaluation ch.val) rfl hset.raises ?_ small (fun t ht _ => ?_))
  · rw [whole]
    exact ((showDc_effect s hc).mono (by simp) (by simp)).trans (update.mono (by simp) (by simp; tauto))
  · rw [whole] at ht
    refine ⟨?_, fun beyond supervised => ?_⟩
    · rw [ht.num_low (by simp), update.frame.num_low (by simp [supervisionRegisters]), showDc_num]
    · have shorted : (s.showDc ch.val).shorted ch.val = true := by
        have dc : ((s.showDc ch.val).channel ch.val).dcShort = true := by
          unfold State.showDc
          rw [channel_modChannel _ (by simpa using hlen)]
          simp [beyond]
        unfold State.shorted
        rw [dc, Bool.or_true]
      rw [ht.num_low (by simp), updateShort_enabled ((showDc_supEnabled s _ 1).trans supervised), shorted]
      exact setCondition_present _ _ _

end Sys2Proof.Machine
end

section
/-! SUP_CLEAR and the clearing objects (R523, R527). -/

namespace Sys2Proof.Machine

variable {P : List Part} {R : List (Nat × Nat)} {L : List Nat} {s t u : State} {r : Req} {x : Session}

/-! ### Registers back at their defaults -/

theorem Store.find_filter_key (st : Store) (p : Nat → Bool) (k : Nat) :
    Store.find (st.filter (fun e => p e.1)) k = if p k then Store.find st k else none := by
  induction st with
  | nil => simp [Store.find]
  | cons e rest ih =>
    obtain ⟨a, v⟩ := e
    by_cases hp : p a = true
    · rw [List.filter_cons_of_pos (by exact hp)]
      by_cases hk : k = a
      · simp [Store.find, hk, hp]
      · simp [Store.find, hk, ih]
    · rw [List.filter_cons_of_neg (by exact hp), ih]
      by_cases hk : k = a
      · simp [hk, hp]
      · simp [Store.find, hk]

/-- A register after the clearing of registers of some index. -/
theorem value_clearSubs (s : State) (index : Nat) (subs : List Nat) {i b e : Nat} (hb : b < 256) (he : e < 65536) :
    (s.clearSubs index subs).value i b e = if i = index ∧ b ∈ subs then keyDefault (okey i b e) else s.value i b e := by
  have hi : okey i b e / 16777216 = i := by unfold okey; omega
  have hs : okey i b e / 65536 % 256 = b := by unfold okey; omega
  unfold State.value State.clearSubs Store.get
  rw [Store.find_filter_key s.obj (fun k => !(k / 16777216 == index && subs.contains (k / 65536 % 256))), hi, hs]
  by_cases h : i = index ∧ b ∈ subs
  · simp [h.1, h.2]
  · rw [if_neg h]
    have kept : (!(i == index && subs.contains b)) = true := by simpa [imp_iff_not_or] using h
    rw [if_pos kept]

/-- The clearing writes the registers that it names. -/
theorem clearSubs_effect (s : State) {index : Nat} {subs : List Nat} (hi : index ≠ 0xA801) (h : ∀ b ∈ subs, (index, b) ∈ R) :
    Effect P R [] s (s.clearSubs index subs) := by
  refine ⟨⟨fun p _ => p.same_of_eq (by simp [State.clearSubs]), fun i b e hb he hm _ => ?_, rfl⟩, fun n hn => ?_, by simp [State.clearSubs]⟩
  · rw [value_clearSubs s _ _ hb he, if_neg (fun ⟨hi, hs⟩ => hm (hi ▸ h b hs))]
  · unfold State.elem
    rw [value_clearSubs s _ _ (by omega) (by omega), if_neg (fun ⟨hi', _⟩ => hi hi'.symm)]

/-- A counter whose default is 0 reads 0 once it is cleared. -/
theorem num_clearSubs (s : State) {index b : Nat} {subs : List Nat} (hb : b < 256) (h : b ∈ subs)
    (hd : keyDefault (okey index b 0) = .int 0) : (s.clearSubs index subs).num index b = 0 := by
  unfold State.num State.int
  rw [value_clearSubs s _ _ hb (by omega), if_pos ⟨rfl, h⟩, hd]
  rfl

/-! ### SUP_CLEAR (R168, R523) -/

def supClearField : Field := ⟨0x0B, 0x0B, "SUP_CLEAR", .bool, .wo, .int 0, .ival 1 1⟩

theorem supClearRow (ch : Fin 48) : OwnRow (0x3000 + ch.val) 0x0B supClearField (1 : Nat) := by
  have object : ∀ ch : Fin 48, objAt (0x3000 + ch.val) 0x0B = some supClearField := by decide +kernel
  exact ⟨object ch, by decide, by decide, by decide, by decide, by omega, by omega⟩

theorem supClear_plain : ∀ ch : Fin 48, commandOf (0x3000 + ch.val) = none ∧ resultOf (0x3000 + ch.val) 0x0B = none := by decide +kernel

/-- An object outside the timed outputs and the servo is usable in every state that is not RESTRICTED. -/
theorem writeBarred_plain {index sub : Nat} (hfree : s.restricted = false) (h : index < 0x2000 ∨ 0x2208 ≤ index)
    (hp : index ≠ 0xB100 ∧ index ≠ 0xC100) : s.writeBarred index sub = false := by
  unfold State.writeBarred
  rw [barred_free hfree true hp.2]
  have servo : State.servoObject index sub = false := by simp [State.servoObject, show index ≠ 0x2000 by omega]
  have timed : (decide (0x2200 ≤ index) && decide (index ≤ 0x2207)) = false := by
    rw [Bool.and_eq_false_iff, decide_eq_false_iff_not, decide_eq_false_iff_not]
    omega
  simp [servo, timed, hp.1]

theorem writeEffect_supClear (s : State) (sess : Nat) (ch : Fin 48) :
    s.writeEffect sess (0x3000 + ch.val) 0x0B (.int (1 : Nat)) = s.clearSupervision ch.val := by
  have h := ch.isLt
  have taken : s.writeTime (0x3000 + ch.val) 0x0B (.int (1 : Nat)) = some (s.clearSupervision ch.val) := by
    unfold State.writeTime
    dsimp only
    rw [if_neg (by omega), if_neg (by omega), if_neg (by omega), if_pos ⟨by omega, by omega, rfl⟩, Nat.add_sub_cancel_left]
  unfold State.writeEffect
  rw [taken]

theorem clearSupervision_effect (s : State) {ch : Nat} (hc : ch < 48) (me : Part.ev ∈ P) (mr : (0x3000 + ch, 9) ∈ R) :
    Effect P R [] s (s.clearSupervision ch) :=
  (((Effect.start.modEv _ me rfl).modEv _ me rfl).modEv _ me rfl).setLow _ _ _ _ mr

theorem clearSupervision_qualifier (s : State) (ch : Nat) {kind : Nat} (h : kind < 3) :
    (s.clearSupervision ch).qualifier (qkey 1 ch kind) = ⟨false, []⟩ := by
  have three : kind = 0 ∨ kind = 1 ∨ kind = 2 := by omega
  unfold State.clearSupervision
  rw [State.setN_eq, State.qualifier_set]
  rcases three with rfl | rfl | rfl <;> simp [State.qualifier_clearQualifier]

/-- SUP_CLEAR, as O29 states it. -/
theorem supClear_serves {ch : Fin 48} (hset : s.settled) (hw : Writes s r x (0x3000 + ch.val) 0x0B) :
    Serves (.supClear r (0x3000 + ch.val)) s r x 0x02 [] id [.ev] [(0x3000 + ch.val, 9)] [] (fun t =>
      t.num (0x3000 + ch.val) 9 = s.num (0x3000 + ch.val) 9 % 8 ∧
      ∀ kind, kind < 3 → t.lasting (qkey 1 ch.val kind) = false ∧ (t.qualifier (qkey 1 ch.val kind)).history = []) := by
  have hc := ch.isLt
  obtain ⟨noCommand, noResult⟩ := supClear_plain ch
  have row : exec (.supClear r (0x3000 + ch.val)) s = State.ownWrite s r (0x3000 + ch.val) 0x0B (1 : Nat) := by
    have sub : State.supClearSub (0x3000 + ch.val) = 0x0B := by
      unfold State.supClearSub
      rw [if_neg (by omega), if_neg (by omega), if_neg (by omega)]
    change State.ownWrite s r (0x3000 + ch.val) (State.supClearSub (0x3000 + ch.val)) 1 = _
    rw [sub]
    rfl
  refine (supClearRow ch).serves row hset hw noCommand noResult (writeBarred_plain hw.free (by omega) (by omega))
    (writeEffect_supClear _ _ ch) (clearSupervision_effect _ hc (by simp) (by simp)) (by simp) rfl (fun t ht => ⟨?_, fun kind hk => ?_⟩)
  · rw [ht.num_low (by simp)]
    exact State.num_set _ _ _ _
  · have cleared := (ht.qualifier_keep (by simp) _).trans (clearSupervision_qualifier (s.accepted x r.seq) ch.val hk)
    exact ⟨congrArg Qualifier.lasting cleared, congrArg Qualifier.history cleared⟩

/-! ### COUNTER_CLEAR (R527) -/

theorem endIndex_free {i : Nat} (h : i < 0x6201 ∨ 0xA802 < i) : endIndex i = false := by
  simp [endIndex]
  omega

theorem Serves.imp {c : Instr} {opcode : Nat} {payload : List Byte} {f : Alm → Alm} {before after : State → Prop}
    (h : Serves c s r x opcode payload f P R L before) (himp : ∀ t, before t → after t) : Serves c s r x opcode payload f P R L after := by
  obtain ⟨t, ht, kept, raised, answered, hb⟩ := h
  exact ⟨t, ht, kept, raised, answered, himp t hb⟩

/-- A host's clear of registers of one index, all of them counters. -/
theorem OwnRow.clears {f : Field} {index sub value target : Nat} {subs : List Nat} (row : OwnRow index sub f value)
    (hset : s.settled) (hw : Writes s r x index sub) (hc : commandOf index = none) (hr : resultOf index sub = none)
    (hfree : s.writeBarred index sub = false) (ht : endIndex target = false) (hb : ∀ b ∈ subs, b < 256)
    (hd : ∀ b ∈ subs, keyDefault (okey target b 0) = .int 0)
    (heff : ∀ u : State, u.writeEffect x.id index sub (.int value) = u.clearSubs target subs) :
    Serves (.counterClear r index sub value) s r x 0x02 [] id [] (subs.map (fun b => (target, b))) [] (fun t =>
      ∀ b ∈ subs, t.num target b = 0) := by
  refine row.serves rfl hset hw hc hr hfree (heff _) ?_ (by simp) rfl (fun t htf b hm => ?_)
  · exact clearSubs_effect _ (not_counts_of_endIndex ht) (fun b hm => List.mem_map.mpr ⟨b, hm, rfl⟩)
  · rw [htf.num_keep (by simp) (endRegister_of_index ht b) (hb b hm)]
    exact num_clearSubs _ (hb b hm) hm (hd b hm)

theorem mem_subsFrom {lo hi b : Nat} : b ∈ State.subsFrom lo hi ↔ lo ≤ b ∧ b ≤ hi := by
  simp only [State.subsFrom, List.mem_map, List.mem_range]
  constructor
  · rintro ⟨k, hk, rfl⟩
    omega
  · rintro ⟨h, k⟩
    exact ⟨b - lo, by omega, by omega⟩

def portClearField : Field := ⟨0x13, 0x13, "COUNTER_CLEAR", .bool, .wo, .int 0, .ival 1 1⟩

theorem portClearRow (p : Fin 6) : OwnRow (0x1300 + 16 * p.val) 0x13 portClearField (1 : Nat) := by
  have object : ∀ p : Fin 6, objAt (0x1300 + 16 * p.val) 0x13 = some portClearField := by decide +kernel
  exact ⟨object p, by decide, by decide, by decide, by decide, by omega, by omega⟩

theorem portClear_plain : ∀ p : Fin 6, commandOf (0x1300 + 16 * p.val) = none ∧ resultOf (0x1300 + 16 * p.val) 0x13 = none := by
  decide +kernel

theorem portCounters_default : ∀ p : Fin 6, ∀ b ∈ State.subsFrom 1 0x16, keyDefault (okey (0x1301 + 16 * p.val) b 0) = .int 0 := by
  decide +kernel

theorem writeEffect_portClear (u : State) (sess : Nat) (p : Fin 6) :
    u.writeEffect sess (0x1300 + 16 * p.val) 0x13 (.int (1 : Nat)) = u.clearSubs (0x1301 + 16 * p.val) (State.subsFrom 1 0x16) := by
  match p with
  | 0 | 1 | 2 | 3 | 4 | 5 => rfl

def perfClearField : Field := ⟨0x05, 0x05, "CLEAR", .u8, .wo, .int 0, .ivals [(0, 79), (0xFF, 0xFF)]⟩

theorem perfClearRow {n : Nat} (h : n < 80) : OwnRow 0xE050 5 perfClearField n := by
  refine ⟨by decide +kernel, decode_encode_unsigned (by simp [perfClearField, Ty.numeric]) rfl (by simp [perfClearField, Ty.size]; omega),
    by decide, ?_, ?_, by omega, by omega⟩
  · rw [encodeValue_length (by simp [perfClearField, Ty.numeric])]
    decide
  · simp [inRange, perfClearField, typeAdmits, Rng.admits]
    omega

theorem perfClear_plain : commandOf 0xE050 = none ∧ resultOf 0xE050 5 = none := by decide +kernel

theorem perfCounters_default : ∀ n : Fin 80, keyDefault (okey (0xE000 + n.val) 2 0) = .int 0 := by decide +kernel

theorem writeEffect_perfClear (u : State) (sess : Nat) {n : Nat} (h : n < 80) :
    u.writeEffect sess 0xE050 5 (.int n) = u.clearSubs (0xE000 + n) [2] := by
  change u.clearPerf n = _
  exact if_neg (by omega)

/-- Settles O29: the open-wire samples by the run they continue, the short evaluation, SUP_CLEAR, and the clearing objects. -/
theorem supervisionQualifiesAndClears : Obligations.SupervisionQualifiesAndClears := by
  refine ⟨fun ch now s hset hlen on bias enabled hnow => ?_, fun ch mean s hset hlen on enabled taken hmean => ?_,
    fun r x ch s hset hw => supClear_serves hset hw, fun r x s hset => ⟨fun p hw => ?_, fun n hn hw => ?_⟩⟩
  · have outside := openSample_outside on bias enabled
    have inside := openSample_inside on bias enabled
    subst hnow
    refine ⟨fun run absent cleared => ?_, fun run absent already => ?_, fun run present => ?_, fun run _ => ?_⟩
    · have second := outside.trans (if_pos run)
      exact ⟨openWire_transient hset second absent cleared, openWire_lasting hset second absent cleared⟩
    · exact openWire_already hset (outside.trans (if_pos run)) absent already
    · exact openWire_inside hset (inside.trans (if_pos run)) present
    · exact openWire_first hset (outside.trans (if_neg (by omega))) hlen
  · subst hmean
    exact shortEvaluation_reaches hset hlen on enabled taken
  · obtain ⟨noCommand, noResult⟩ := portClear_plain p
    have h := p.isLt
    have below : ∀ b ∈ State.subsFrom 1 0x16, b < 256 := fun b hb => by have := mem_subsFrom.mp hb; omega
    exact ((portClearRow p).clears hset hw noCommand noResult (writeBarred_plain hw.free (by omega) (by omega))
      (endIndex_free (by omega)) below (portCounters_default p) (fun u => writeEffect_portClear u x.id p)).imp
        (fun t cleared b hlo hhi => cleared b (mem_subsFrom.mpr ⟨hlo, hhi⟩))
  · obtain ⟨noCommand, noResult⟩ := perfClear_plain
    exact ((perfClearRow hn).clears hset hw noCommand noResult (writeBarred_plain hw.free (by omega) (by omega))
      (endIndex_free (by omega)) (by simp) (by simpa using perfCounters_default ⟨n, hn⟩) (fun u => writeEffect_perfClear u x.id hn)).imp
        (fun t cleared => cleared 2 (by simp))

end Sys2Proof.Machine
end

section
/-! What the rest of the device leaves to the sampling chain (R130–R163): the configuration, the chain itself, the registers of the bays,
of the chain and of SYNC_RESET_CMD, the commands that wait, and that every raise has a source. -/

namespace Sys2Proof.Machine

/-- What a command of the sampling chain reads again once the rest of the device has followed it. -/
structure Sampling where
  cfg : Store
  pending : List Instr
  loc : Local
  /-- The registers of the bays, of the chain and of SYNC_RESET_CMD's result, up to subindex 0x0B; 0 for every other one. -/
  regs : Nat → Nat → Value
  /-- Every raise that waits has a source (R516). -/
  sourced : Bool

def State.sampling (s : State) : Sampling :=
  { cfg := s.cfg, pending := s.pending, loc := s.loc
    regs := fun i b => if 0x3100 ≤ i ∧ i < 0x3300 ∧ b < 0xC then s.value i b 0 else .int 0
    sourced := s.ev.raised.all (fun r => decide (r.source < 128)) }

namespace State

/-! ### Branches, folds and the state's operations -/

@[simp] theorem ite_sampling (c : Prop) [Decidable c] (a b : State) :
    (if c then a else b).sampling = if c then a.sampling else b.sampling := apply_ite ..

@[simp] theorem foldl_sampling {α : Type} (f : State → α → State) (l : List α) (s : State)
    (h : ∀ s, ∀ x ∈ l, (f s x).sampling = s.sampling) : (l.foldl f s).sampling = s.sampling := by
  induction l generalizing s with
  | nil => rfl
  | cons x l ih => rw [List.foldl_cons, ih _ (fun s y hy => h s y (List.mem_cons_of_mem _ hy)), h s x (by simp)]

/-- A write whose key is none of the chain's registers. -/
theorem set_sampling_of_key (s : State) (i b e : Nat) (v : Value)
    (h : ∀ i' b', 0x3100 ≤ i' → i' < 0x3300 → b' < 0xC → okey i' b' 0 ≠ okey i b e) : (s.set i b e v).sampling = s.sampling := by
  have regs : (s.set i b e v).sampling.regs = s.sampling.regs := by
    funext i' b'
    exact ite_congr rfl (fun ⟨lo, hi, hb⟩ => Store.get_set_ne _ _ (h i' b' lo hi hb)) (fun _ => rfl)
  change { s.sampling with regs := (s.set i b e v).sampling.regs } = s.sampling
  rw [regs]

/-- A key orders by its index first, so the element does not matter for a higher index. -/
@[simp] theorem set_sampling_high (s : State) (i b e : Nat) (v : Value) (h : 0x3300 ≤ i) : (s.set i b e v).sampling = s.sampling :=
  set_sampling_of_key s i b e v (fun i' b' _ _ _ => by unfold okey; omega)

@[simp] theorem set_sampling_low (s : State) (i b e : Nat) (v : Value) (h : i < 0x3100) (hb : b < 256) (he : e < 65536) :
    (s.set i b e v).sampling = s.sampling := set_sampling_of_key s i b e v (fun i' b' _ _ _ => by unfold okey; omega)

@[simp] theorem set_sampling_sub (s : State) (i b e : Nat) (v : Value) (h : 0xC ≤ b) (hb : b < 256) (he : e < 65536) :
    (s.set i b e v).sampling = s.sampling := set_sampling_of_key s i b e v (fun i' b' _ _ _ => by unfold okey; omega)

@[simp] theorem modEv_sampling (s : State) (f : Events → Events) (h : (f s.ev).raised = s.ev.raised) :
    (s.modEv f).sampling = s.sampling := by
  unfold sampling
  rw [modEv_ev, h]
  rfl

@[simp] theorem raiseEvent_sampling (s : State) (n k : Nat) (h : n < 128) : (s.raiseEvent n k).sampling = s.sampling := by
  have sourced : (s.raiseEvent n k).ev.raised.all (fun r => decide (r.source < 128)) =
      s.ev.raised.all (fun r => decide (r.source < 128)) := by simp [raiseEvent, h]
  unfold sampling
  rw [sourced]
  rfl

@[simp] theorem emit_sampling (s : State) (o : Output) : (s.emit o).sampling = s.sampling := (rfl)
@[simp] theorem modBoot_sampling (s : State) (f : Boot → Boot) : (s.modBoot f).sampling = s.sampling := (rfl)
@[simp] theorem modFlash_sampling (s : State) (f : Flash → Flash) : (s.modFlash f).sampling = s.sampling := (rfl)
@[simp] theorem modIng_sampling (s : State) (f : Ingest → Ingest) : (s.modIng f).sampling = s.sampling := (rfl)
@[simp] theorem modTr_sampling (s : State) (f : Transit → Transit) : (s.modTr f).sampling = s.sampling := (rfl)
@[simp] theorem modSpec_sampling (s : State) (f : Spec → Spec) : (s.modSpec f).sampling = s.sampling := (rfl)
@[simp] theorem modEgr_sampling (s : State) (f : Egress → Egress) : (s.modEgr f).sampling = s.sampling := (rfl)
@[simp] theorem modOrr_sampling (s : State) (f : Orrery → Orrery) : (s.modOrr f).sampling = s.sampling := (rfl)
@[simp] theorem modPm_sampling (s : State) (f : Pm → Pm) : (s.modPm f).sampling = s.sampling := (rfl)
@[simp] theorem modRec_sampling (s : State) (f : Recorder → Recorder) : (s.modRec f).sampling = s.sampling := (rfl)

@[simp] theorem countIn_sampling (s : State) (c n : Nat) : (s.countIn c n).sampling = s.sampling := by
  have high : 0x3300 ≤ 0xE000 + c := by omega
  simp [countIn, high]

@[simp] theorem perf_sampling (s : State) (die code n : Nat) : (s.perf die code n).sampling = s.sampling := by simp [perf]

/-! ### Local samples and local signals (R264–R266, R276) -/

@[simp] theorem formLocal_sampling (s : State) (j : Nat) : (s.formLocal j).sampling = s.sampling := by simp [formLocal]
@[simp] theorem sendBlock_sampling (s : State) (j : Nat) : (s.sendBlock j).sampling = s.sampling := by simp [sendBlock]
@[simp] theorem localSamples_sampling (s : State) : s.localSamples.sampling = s.sampling := by simp [localSamples]

@[simp] theorem resetResonator_sampling (s : State) (key : Nat) : (s.resetResonator key).sampling = s.sampling := by
  simp [resetResonator, putResonator]

@[simp] theorem resetSignal_sampling (s : State) (key : Nat) : (s.resetSignal key).sampling = s.sampling := by simp [resetSignal]

@[simp] theorem resetLocalSignals_sampling (s : State) : s.resetLocalSignals.sampling = s.sampling := by
  simp [resetLocalSignals, resetAllSignals]

@[simp] theorem resetLom_sampling (s : State) : s.resetLom.sampling = s.sampling := (rfl)

/-! ### The Plate recorder (R392–R407) -/

@[simp] theorem setCond_sampling (s : State) (t : Nat) (b : Bool) : (s.setCond t b).sampling = s.sampling := (rfl)
@[simp] theorem setPlate_sampling (s : State) (slot : Nat) (p : Plate) : (s.setPlate slot p).sampling = s.sampling := (rfl)

@[simp] theorem cutPlate_sampling (s : State) : s.cutPlate.sampling = s.sampling := by
  unfold cutPlate
  split <;> simp

@[simp] theorem completePlate_sampling (s : State) : s.completePlate.sampling = s.sampling := by
  unfold completePlate
  split <;> simp

@[simp] theorem endEpoch_sampling (s : State) : s.endEpoch.sampling = s.sampling := completePlate_sampling s
@[simp] theorem newEpoch_sampling (s : State) : s.newEpoch.sampling = s.sampling := (rfl)
@[simp] theorem stopRecorder_sampling (s : State) : s.stopRecorder.sampling = s.sampling := by simp [stopRecorder]
@[simp] theorem missTrigger_sampling (s : State) (f : Firing) : (s.missTrigger f).sampling = s.sampling := by simp [missTrigger]

@[simp] theorem losePlate_sampling (s : State) : s.losePlate.1.sampling = s.sampling := by
  unfold losePlate
  split <;> simp

@[simp] theorem loseUntil_sampling (need : State → Bool) (fuel : Nat) (s : State) :
    (loseUntil need fuel s).sampling = s.sampling := by
  induction fuel generalizing s with
  | zero => rfl
  | succ fuel ih => simp [loseUntil, ih]

@[simp] theorem openPlate_sampling (s : State) (slot : Nat) (f : Firing) : (s.openPlate slot f).sampling = s.sampling := by
  simp [openPlate]

@[simp] theorem startPlate_sampling (s : State) (f : Firing) : (s.startPlate f).sampling = s.sampling := by
  unfold startPlate
  split
  · simp
  · split
    · simp
    · dsimp only
      split <;> simp

@[simp] theorem addMarker_sampling (s : State) (f : Firing) : (s.addMarker f).sampling = s.sampling := by
  unfold addMarker
  split <;> simp

@[simp] theorem extendPlate_sampling (s : State) (f : Firing) : (s.extendPlate f).sampling = s.sampling := by
  unfold extendPlate
  split <;> simp

@[simp] theorem takeTrigger_sampling (s : State) (f : Firing) : (s.takeTrigger f).sampling = s.sampling := by
  unfold takeTrigger
  split <;> simp

@[simp] theorem fire_sampling (s : State) (stationOut : Bool) (f : Firing) : (s.fire stationOut f).sampling = s.sampling := by
  simp [fire, pullStation]

@[simp] theorem fireAll_sampling (s : State) (l : List (Firing × Bool)) : (s.fireAll l).sampling = s.sampling := by simp [fireAll]

@[simp] theorem judgeLevel_sampling (s : State) (n : Nat) (t : Trigger) (v : Rat) : (s.judgeLevel n t v).1.sampling = s.sampling := by
  unfold judgeLevel
  split
  · simp
  · split <;> simp

@[simp] theorem rmsTriggers_sampling (s : State) : s.rmsTriggers.sampling = s.sampling := by
  unfold rmsTriggers
  split
  · rfl
  · dsimp only
    rw [fireAll_sampling, foldl_keeps (fun a : State × List (Firing × Bool) => a.1.sampling)]
    intro a i
    split
    · exact judgeLevel_sampling ..
    · rfl

@[simp] theorem sampleTriggers_sampling (s : State) : s.sampleTriggers.sampling = s.sampling := by
  unfold sampleTriggers
  split
  · rfl
  · dsimp only
    rw [fireAll_sampling, foldl_keeps (fun a : State × List (Firing × Bool) => a.1.sampling)]
    intro a i
    repeat' split
    all_goals simp only [judgeLevel_sampling]

@[simp] theorem appendSample_sampling (s : State) (pos n : Nat) : (s.appendSample pos n).sampling = s.sampling := by
  unfold appendSample
  split <;> simp

@[simp] theorem openSegment_sampling (s : State) (pos n : Nat) : (s.openSegment pos n).sampling = s.sampling := (rfl)

@[simp] theorem writeSample_sampling (s : State) : s.writeSample.sampling = s.sampling := by
  rw [writeSample]
  cases s.segmentOpen with
  | some c => simp
  | none =>
    cases s.nextFree with
    | some p => simp
    | none =>
      dsimp only
      generalize hu : loseUntil (fun u => u.nextFree.isSome) 64 s = u
      have lost : u.sampling = s.sampling := by rw [← hu, loseUntil_sampling]
      cases u.nextFree <;> simp [lost]

@[simp] theorem recordSample_sampling (s : State) : s.recordSample.sampling = s.sampling := by simp [recordSample, armRecorder]

/-! ### The start of transits and the entry to RUNNING (R224, R336, R498) -/

@[simp] theorem pmResume_sampling (s : State) : s.pmResume.sampling = s.sampling := (rfl)
@[simp] theorem startTransits_sampling (s : State) (start : Et) : (s.startTransits start).sampling = s.sampling := by simp [startTransits]
@[simp] theorem enterStage_sampling (s : State) (n : Nat) : (s.enterStage n).sampling = s.sampling := by simp [enterStage]

@[simp] theorem orreryWait_sampling (s : State) : s.orreryWait.sampling = s.sampling := by
  have safe : ∀ u : State, u.safeBos.sampling = u.sampling := fun _ => rfl
  simp [orreryWait, safe]

@[simp] theorem enterRunning_sampling (s : State) : s.enterRunning.sampling = s.sampling := by
  unfold enterRunning
  extract_lets a b c
  have recovered : b.sampling = a.sampling := by
    simp only [b]
    split <;> simp
  have followed : c.sampling = s.sampling := by simp [c, recovered, a]
  rw [ite_sampling, orreryWait_sampling, ite_self, followed]

/-! ### Local frames (R163, R208–R213) -/

@[simp] theorem sendItem_sampling (s : State) (p : Nat) (x : TxItem) : (s.sendItem p x).sampling = s.sampling := by
  simp [sendItem, releaseTx, modPort, putOnWire]

@[simp] theorem originateFrom_sampling (s : State) (p cls : Nat) (descs : List Nat) (frame : List Byte) :
    (s.originateFrom p cls descs frame).sampling = s.sampling := by
  unfold originateFrom
  split <;> simp [takeRctSeq]

@[simp] theorem originateDecoded_sampling (s : State) (p cls : Nat) (o : Nat → Option (Nat × Nat) → Output) :
    (s.originateDecoded p cls o).sampling = s.sampling := by
  unfold originateDecoded
  split <;> simp [send, takeRctSeq]

@[simp] theorem slowSend_sampling (s : State) (p : Nat) (frame : List Byte) : (s.slowSend p frame).sampling = s.sampling :=
  originateFrom_sampling ..

@[simp] theorem askNeighbour_sampling (s : State) (p : Nat) (a : List Byte) : (s.askNeighbour p a).sampling = s.sampling := by
  simp [askNeighbour, putNeighbour]

@[simp] theorem sendPacket_sampling (s : State) (p : Nat) (a : List Byte) (k : Nat × List Byte) :
    (s.sendPacket p a k).sampling = s.sampling := by
  unfold sendPacket
  dsimp only
  split
  · simp
  · split <;> simp [putNeighbour]

@[simp] theorem sendStreamCommand_sampling (s : State) (id cmd : Nat) : (s.sendStreamCommand id cmd).sampling = s.sampling := by
  unfold sendStreamCommand
  split <;> simp

@[simp] theorem modStream_sampling (s : State) (id : Nat) (f : Stream → Stream) : (s.modStream id f).sampling = s.sampling := (rfl)
@[simp] theorem askConfig_sampling (s : State) (id : Nat) : (s.askConfig id).sampling = s.sampling := by simp [askConfig]
@[simp] theorem modQueue_sampling (s : State) (n : Nat) (f : LaneQueue → LaneQueue) : (s.modQueue n f).sampling = s.sampling := (rfl)

@[simp] theorem putQueue_sampling (s : State) (n : Nat) (q : LaneQueue) : (s.putQueue n q).sampling = s.sampling := by
  have high : 0x3300 ≤ 0x5300 + n := by omega
  rw [putQueue]
  split <;> simp only [inc32_eq, setMax_eq, set_sampling_high _ _ _ _ _ high, perf_sampling, modQueue_sampling]

@[simp] theorem acceptFrame_sampling (s : State) (e : IngestEntry) : (s.acceptFrame e).sampling = s.sampling := by
  have high : 0x3300 ≤ 0x4000 + e.stream := by omega
  simp [acceptFrame, high]

@[simp] theorem enterQueue_sampling (s : State) (x : IngestEntry) : (s.enterQueue x).sampling = s.sampling := by
  have high : 0x3300 ≤ 0x5300 + laneOf x.stream := by omega
  simp [enterQueue, high]

@[simp] theorem admitWaiting_sampling (fuel : Nat) (s : State) (n : Nat) : (admitWaiting fuel s n).sampling = s.sampling := by
  induction fuel generalizing s with
  | zero => rfl
  | succ fuel ih =>
    unfold admitWaiting
    split
    · split <;> simp [ih]
    · rfl

@[simp] theorem emptyQueue_sampling (s : State) (n : Nat) : (s.emptyQueue n).sampling = s.sampling := by
  have high : 0x3300 ≤ 0x5300 + n := by omega
  simp [emptyQueue, high]

@[simp] theorem checkPointers_sampling (s : State) (n : Nat) (h : n < 4) : (s.checkPointers n).sampling = s.sampling := by
  have high : 0x3300 ≤ 0x5300 + n := by omega
  have source : 32 + 4 * n + 1 < 128 := by omega
  simp [checkPointers, high, source]

@[simp] theorem offerEntry_sampling (s : State) (e : IngestEntry) (h : laneOf e.stream < 4) : (s.offerEntry e).sampling = s.sampling := by
  simp [offerEntry, writeQueue, h]

@[simp] theorem localFrame_sampling (s : State) (bay : Nat) (r : Report) (h : bay < 8) : (s.localFrame bay r).sampling = s.sampling :=
  offerEntry_sampling _ _ (by unfold laneOf; dsimp only; omega)

end State

end Sys2Proof.Machine
end

section
/-! The sampling chain step by step (R130–R163), each step by what it leaves of `State.sampling`. -/

namespace Sys2Proof.Machine

variable {P : List Part} {R : List (Nat × Nat)} {L : List Nat} {s t : State} {u : Sampling}

/-! ### The chain's registers -/

/-- An index and a subindex among the registers that `State.sampling` holds. -/
def chainRegister (i b : Nat) : Prop := 0x3100 ≤ i ∧ i < 0x3300 ∧ b < 0xC

namespace Sampling

def num (u : Sampling) (i b : Nat) : Nat := (u.regs i b).toInt.toNat

/-- One of the chain's registers written. -/
def put (u : Sampling) (i b : Nat) (v : Value) : Sampling :=
  { u with regs := fun i' b' => if i' = i ∧ b' = b then v else u.regs i' b' }

/-- The chain itself changed. -/
def modLoc (u : Sampling) (f : Local → Local) : Sampling := { u with loc := f u.loc }

@[simp] theorem num_put (u : Sampling) (i b : Nat) (v : Int) (i' b' : Nat) :
    (u.put i b (.int v)).num i' b' = if i' = i ∧ b' = b then v.toNat else u.num i' b' := by
  unfold num put
  dsimp only
  split <;> rfl

@[simp] theorem put_loc (u : Sampling) (i b : Nat) (v : Value) : (u.put i b v).loc = u.loc := (rfl)
@[simp] theorem modLoc_num (u : Sampling) (f : Local → Local) (i b : Nat) : (u.modLoc f).num i b = u.num i b := (rfl)

end Sampling

namespace State

theorem sampling_regs (s : State) {i b : Nat} (h : chainRegister i b) : s.sampling.regs i b = s.value i b 0 := if_pos h

theorem sampling_num (s : State) {i b : Nat} (h : chainRegister i b) : s.sampling.num i b = s.num i b := by
  unfold Sampling.num
  rw [sampling_regs s h]
  rfl

/-- Registers that agree among the chain's read the same number. -/
theorem num_of_sampling {a b : State} (h : a.sampling = b.sampling) {i j : Nat} (k : chainRegister i j) : a.num i j = b.num i j := by
  rw [← sampling_num a k, ← sampling_num b k, h]

theorem set_sampling (s : State) {i b : Nat} (v : Value) (h : chainRegister i b) :
    (s.set i b 0 v).sampling = s.sampling.put i b v := by
  obtain ⟨lo, hi, hb⟩ := h
  have regs : (s.set i b 0 v).sampling.regs = (s.sampling.put i b v).regs := by
    funext i' b'
    change (if 0x3100 ≤ i' ∧ i' < 0x3300 ∧ b' < 0xC then (s.set i b 0 v).value i' b' 0 else _) =
      if i' = i ∧ b' = b then v else if 0x3100 ≤ i' ∧ i' < 0x3300 ∧ b' < 0xC then s.value i' b' 0 else _
    by_cases inside : 0x3100 ≤ i' ∧ i' < 0x3300 ∧ b' < 0xC
    · rw [if_pos inside, if_pos inside, value_set_ite s v (by omega) (by omega) (by omega) (by omega)]
      simp
    · rw [if_neg inside, if_neg inside, if_neg (by omega)]
  change { s.sampling with regs := (s.set i b 0 v).sampling.regs } = _
  rw [regs]
  rfl

theorem modLoc_sampling (s : State) (f : Local → Local) : (s.modLoc f).sampling = s.sampling.modLoc f := (rfl)

theorem sourced_of_raises (h : s.ev.raised = []) : s.sampling.sourced = true := by
  change s.ev.raised.all _ = true
  rw [h]
  rfl

end State

/-- An effect that writes none of the chain's registers, and no part of it. -/
theorem Effect.sampling {v : State} (h : Effect P R L s v) (cfg : Part.cfg ∉ P) (loc : Part.loc ∉ P)
    (out : ∀ i b, chainRegister i b → (i, b) ∉ R) (small : ∀ n ∈ L, n < 128) : v.sampling = s.sampling := by
  have regs : v.sampling.regs = s.sampling.regs := by
    funext i b
    refine ite_congr rfl (fun inside => ?_) (fun _ => rfl)
    exact h.frame.regs i b 0 (by omega) (by omega) (out i b inside) (endRegister_of_index (endIndex_free (by omega)) b)
  have sourced : v.sampling.sourced = s.sampling.sourced := by
    have sources : ∀ w : State, w.sampling.sourced = (w.ev.raised.map (·.source)).all (fun n => decide (n < 128)) := fun w => by
      rw [List.all_map]
      rfl
    rw [sources, sources, h.raised, List.all_append, List.all_eq_true.mpr (fun n hn => decide_eq_true (small n hn)), Bool.and_true]
  have parts : v.sampling.cfg = s.sampling.cfg ∧ v.sampling.pending = s.sampling.pending ∧ v.sampling.loc = s.sampling.loc :=
    ⟨h.frame.parts .cfg cfg, h.frame.pending, h.frame.parts .loc loc⟩
  obtain ⟨hcfg, hpending, hloc⟩ := parts
  calc v.sampling = ⟨v.sampling.cfg, v.sampling.pending, v.sampling.loc, v.sampling.regs, v.sampling.sourced⟩ := rfl
    _ = s.sampling := by rw [hcfg, hpending, hloc, regs, sourced]

/-! ### From what a command leaves of the chain to what it reaches -/

/-- What a number beyond the channels reads as. -/
def noChannel : Channel := ⟨[], [], [], false, 0, 0, 0, none, false⟩

/-- A state in which the end of a command has followed what an effect left of the chain. -/
structure Sampling.Left (u : Sampling) (t : State) : Prop where
  loc : t.loc = u.loc
  value : ∀ i b, chainRegister i b → t.value i b 0 = u.regs i b

theorem Sampling.Left.num (h : u.Left t) {i b : Nat} (k : chainRegister i b) : t.num i b = u.num i b := by
  unfold State.num State.int
  rw [h.value i b k]
  rfl

theorem Sampling.Left.channel (h : u.Left t) (ch : Nat) : t.channel ch = nth u.loc.channels ch noChannel := by
  rw [← h.loc]
  rfl

theorem Frame.left {v : State} (h : Frame [] [] v t) : v.sampling.Left t :=
  ⟨h.part .loc, fun i b k => by
    obtain ⟨lo, hi, hb⟩ := k
    rw [h.value i b 0 (hn := endRegister_of_index (endIndex_free (by omega)) b), v.sampling_regs ⟨lo, hi, hb⟩]⟩

theorem Reaches.of_sampling {c : Instr} {f : State → State} {after : State → Prop} (he : exec c s = complete s f) (hset : s.settled)
    (hf : (f s).sampling = u) (pending : u.pending = s.pending) (sourced : u.sourced = s.sampling.sourced)
    (hafter : ∀ t, u.Left t → after t) : Reaches c s after := by
  subst hf
  have sources := sourced.trans (State.sourced_of_raises hset.raises)
  exact Reaches.of_effect he (fun r hr => of_decide_eq_true (List.all_eq_true.mp sources r hr)) pending
    (fun t ht _ => hafter t ht.left)

/-! ### Input supervision -/

theorem supervisionRegisters_out {ch : Nat} (hc : ch < 48) (i b : Nat) (h : chainRegister i b) : (i, b) ∉ supervisionRegisters ch := by
  obtain ⟨lo, hi, -⟩ := h
  simp [supervisionRegisters]
  omega

theorem setCondition_sampling (s : State) {ch kind : Nat} (present : Bool) (hc : ch < 48) (hk : kind < 3) :
    (s.setCondition ch kind present).sampling = s.sampling := by
  obtain ⟨L, small, effect⟩ := setCondition_effect s present hc hk
  exact effect.sampling (by simp) (by simp) (supervisionRegisters_out hc) small

theorem updateShort_sampling (s : State) {ch : Nat} (hc : ch < 48) : (s.updateShort ch).sampling = s.sampling := by
  obtain ⟨L, small, effect⟩ := updateShort_effect s hc
  exact effect.sampling (by simp) (by simp) (supervisionRegisters_out hc) small

/-! ### Every channel in turn -/

/-- The channels of the chain changed. -/
def Sampling.withChannels (u : Sampling) (cs : List Channel) : Sampling := u.modLoc (fun l => { l with channels := cs })

/-- A step that takes every channel in turn changes each from what it was, by its own turn alone. -/
theorem channels_foldl {f : State → Nat → State} {turn : Nat → Channel → Channel → Prop}
    (hf : ∀ v : State, ∀ ch, ch < 48 → v.cfg = s.cfg → ∃ g : Channel → Channel, turn ch (v.channel ch) (g (v.channel ch)) ∧
      (f v ch).sampling = v.sampling.modLoc (fun l => { l with channels := modNth l.channels ch g })) (n : Nat) (hn : n ≤ 48) :
    ∃ cs, ((List.range n).foldl f s).sampling = s.sampling.withChannels cs ∧ cs.length = s.loc.channels.length ∧
      (∀ ch, n ≤ ch → nth cs ch noChannel = s.channel ch) ∧
      (∀ ch, ch < n → ch < s.loc.channels.length →
        turn ch (s.channel ch) (nth cs ch noChannel)) := by
  induction n with
  | zero => exact ⟨s.loc.channels, rfl, rfl, fun _ _ => rfl, fun _ h => absurd h (by omega)⟩
  | succ n ih =>
    obtain ⟨cs, folded, len, later, done⟩ := ih (by omega)
    rw [List.range_succ, List.foldl_append, List.foldl_cons, List.foldl_nil]
    generalize (List.range n).foldl f s = v at folded
    have cfg : v.cfg = s.cfg := congrArg Sampling.cfg folded
    have channels : v.loc.channels = cs := congrArg (fun w => w.loc.channels) folded
    have turnOf : v.channel n = s.channel n := by
      rw [← later n (by omega), ← channels]
      rfl
    obtain ⟨g, took, step⟩ := hf v n (by omega) cfg
    rw [turnOf] at took
    refine ⟨modNth cs n g, ?_, by simp [modNth, len], fun ch hch => ?_, fun ch hch hlen => ?_⟩
    · rw [step, folded]
      rfl
    · rw [modNth, nth_modify_ne _ _ _ (by omega), later ch (by omega)]
    · by_cases last : ch = n
      · subst last
        rw [modNth, nth_modify _ _ _ _ (by omega), later ch (by omega)]
        exact took
      · rw [modNth, nth_modify_ne _ _ _ (by omega)]
        exact done ch (by omega) hlen

end Sys2Proof.Machine
end

section
/-! Fixed-rate and tracked samples (R136, R142, R145). -/

namespace Sys2Proof.Machine

variable {s t : State}

namespace State

/-! ### One channel's share of a fixed-rate sample -/

/-- The delay line after a code, and the code that leaves it. -/
def lineAfter (s : State) (ch : Nat) (code : Int) : List Int := (code :: (s.channel ch).line).take 64
def delayedCode (s : State) (ch : Nat) (code : Int) : Int := nth (s.lineAfter ch code) (s.delaySamples ch) 0

/-- The delayed code as a value, ABSENT for a channel that is not enabled. -/
def sampleValue (s : State) (ch : Nat) (code : Int) : F32 :=
  if s.cB (0x3000 + ch) 0x01 then s.primary ch (s.delayedCode ch code) else absentValue

def overCode (s : State) (ch : Nat) (code : Int) : Bool :=
  s.cB (0x3000 + ch) 0x01 && decide ((s.delayedCode ch code).natAbs ≥ 0x78000000)

/-- The delay line and the run of overrange samples, with the sample still to come. -/
def takeCode (s : State) (ch : Nat) (code : Int) (x : Channel) : Channel :=
  { x with
    line := s.lineAfter ch code
    overRun := if s.overCode ch code then min 48 (x.overRun + 1) else 0
    lastOver := if s.overCode ch code then some s.raw else x.lastOver }

/-- A fixed-rate sample put in front of those of its channel. -/
def putSample (y : FixedSample) (x : Channel) : Channel := { x with fixed := (y :: x.fixed).take 9600 }

theorem delaySamples_congr (h : t.cfg = s.cfg) (ch : Nat) : t.delaySamples ch = s.delaySamples ch := by
  unfold delaySamples delaySteps cI cValue
  rw [h]

theorem cB_congr (h : t.cfg = s.cfg) (i b : Nat) : t.cB i b = s.cB i b := by
  unfold cB
  rw [c_congr h]

theorem primary_congr (h : t.cfg = s.cfg) (ch : Nat) (code : Int) : t.primary ch code = s.primary ch code := by
  unfold primary cF32
  rw [cB_congr h, c_congr h]

/-- A channel's part of the chain changed. -/
theorem modChannel_sampling (s : State) (ch : Nat) (f : Channel → Channel) :
    (s.modChannel ch f).sampling = s.sampling.modLoc (fun l => { l with channels := modNth l.channels ch f }) := (rfl)

/-- A fixed-rate sample changes its channel alone, as far as the chain goes. -/
theorem channelSample_sampling (s : State) {ch : Nat} (code : Int) (hc : ch < 48) : ∃ flags, (s.channelSample ch code).sampling =
    s.sampling.modLoc (fun l => { l with channels := modNth l.channels ch (fun x =>
      putSample ⟨s.delayedCode ch code, s.sampleValue ch code, flags⟩ (s.takeCode ch code x)) }) := by
  unfold channelSample
  extract_lets x line out ovr first s1 s2 s3 s4 flags v
  have counted : s2.sampling = s1.sampling := by
    simp only [s2, inc32_eq]
    split
    · exact set_sampling_low _ _ _ _ _ (by omega) (by omega) (by omega)
    · rfl
  have judged : s4.sampling = s1.sampling := by
    rw [← counted]
    simp only [s4, s3, updateShort_sampling _ hc]
    split
    · exact raiseEvent_sampling _ _ _ (by omega)
    · rfl
  have value : v = s.sampleValue ch code := rfl
  refine ⟨flags, ?_⟩
  rw [modChannel_sampling, setN_eq, set_sampling_low _ _ _ _ _ (by omega) (by omega) (by omega), judged, value]
  have taken : s1 = s.modChannel ch (s.takeCode ch code) := rfl
  rw [taken, modChannel_sampling]
  unfold Sampling.modLoc modNth
  dsimp only
  rw [List.modify_modify_eq]
  rfl

/-! ### The grid's slew (R137) -/

theorem setGrid_sampling (s : State) (g : Int) : (s.setGrid g).sampling = (s.sampling.modLoc (fun l => { l with
    grid := g, grids := (l.nextFixed, g) :: l.grids.filter (fun x => decide (x.1 < l.nextFixed)) })).put 0x3200 0x0A (.int (etToPs g)) := by
  unfold setGrid
  rw [setI_eq, set_sampling _ _ ⟨by omega, by omega, by omega⟩]
  rfl

theorem slewGrid_cases (s : State) : s.slewGrid = s ∨ ∃ g, s.slewGrid = s.setGrid g := by
  unfold slewGrid
  extract_lets tick g g'
  split
  · exact .inl rfl
  · exact .inr ⟨g', rfl⟩

/-- What the samples of the channels read of the chain, and its state. -/
structure SamePace (s t : State) : Prop where
  cfg : t.cfg = s.cfg
  pending : t.pending = s.pending
  channels : t.loc.channels = s.loc.channels
  nextFixed : t.loc.nextFixed = s.loc.nextFixed
  sourced : t.sampling.sourced = s.sampling.sourced
  state : t.chainState = s.chainState

theorem slewGrid_samePace (s : State) : SamePace s s.slewGrid := by
  obtain kept | ⟨g, moved⟩ := s.slewGrid_cases
  · rw [kept]
    exact ⟨rfl, rfl, rfl, rfl, rfl, rfl⟩
  · rw [moved]
    have left := s.setGrid_sampling g
    refine ⟨congrArg Sampling.cfg left, congrArg Sampling.pending left, congrArg (fun u => u.loc.channels) left,
      congrArg (fun u => u.loc.nextFixed) left, (congrArg Sampling.sourced left :), ?_⟩
    unfold chainState
    rw [← sampling_num _ ⟨by omega, by omega, by omega⟩, left, Sampling.num_put, if_neg (by omega), Sampling.modLoc_num,
      sampling_num _ ⟨by omega, by omega, by omega⟩]

/-- The chain as the samples of its channels find it. -/
def slewed (s : State) : State := if s.loc.nextFixed = 0 then s else s.slewGrid

theorem slewed_samePace (s : State) : SamePace s s.slewed := by
  unfold slewed
  split
  · exact ⟨rfl, rfl, rfl, rfl, rfl, rfl⟩
  · exact s.slewGrid_samePace

/-! ### A fixed-rate sample of every channel -/

/-- What a channel's turn in a fixed-rate sample makes of it. -/
def FixedTurn (s : State) (codes : List Int) (ch : Nat) (x y : Channel) : Prop :=
  ∀ code out : Int, code = nth codes ch 0 → out = nth ((code :: x.line).take 64) (s.delaySamples ch) 0 →
    y.line = (code :: x.line).take 64 ∧ y.fixed.head?.map (fun z => (z.code, z.value)) =
      some (out, if s.cB (0x3000 + ch) 1 then s.primary ch out else absentValue)

/-- The fixed-rate sample of every channel. -/
def sampleChannels (s : State) (codes : List Int) : State := (List.range 48).foldl (fun t ch => t.channelSample ch (nth codes ch 0)) s

theorem fixedTurn (v : State) (codes : List Int) {ch : Nat} (hc : ch < 48) (cfg : v.cfg = s.cfg) :
    ∃ g : Channel → Channel, FixedTurn s codes ch (v.channel ch) (g (v.channel ch)) ∧
      (v.channelSample ch (nth codes ch 0)).sampling = v.sampling.modLoc (fun l => { l with channels := modNth l.channels ch g }) := by
  obtain ⟨flags, sampled⟩ := v.channelSample_sampling (nth codes ch 0) hc
  refine ⟨_, fun code out hcode hout => ?_, sampled⟩
  subst hcode hout
  refine ⟨rfl, ?_⟩
  rw [← delaySamples_congr cfg, ← cB_congr cfg, ← primary_congr cfg]
  rfl

/-- The chain once the sample of every channel is taken, but for the end of SETTLING. -/
def samplesTaken (s : State) (codes : List Int) : State :=
  (s.slewed.sampleChannels codes).modLoc (fun l => { l with nextFixed := l.nextFixed + 1 })

theorem samplesTaken_sampling (s : State) (codes : List Int) : ∃ cs, (s.samplesTaken codes).sampling =
      s.slewed.sampling.modLoc (fun l => { l with channels := cs, nextFixed := l.nextFixed + 1 }) ∧
    ∀ ch, ch < 48 → ch < s.loc.channels.length → FixedTurn s codes ch (s.channel ch) (nth cs ch noChannel) := by
  have pace := s.slewed_samePace
  obtain ⟨cs, folded, -, -, turns⟩ := channels_foldl (s := s.slewed) (f := fun v ch => v.channelSample ch (nth codes ch 0))
    (turn := FixedTurn s codes) (fun v ch hc cfg => fixedTurn v codes hc (cfg.trans pace.cfg)) 48 (by omega)
  refine ⟨cs, ?_, fun ch hc hlen => ?_⟩
  · unfold samplesTaken sampleChannels
    rw [modLoc_sampling, folded]
    rfl
  · have same : s.slewed.channel ch = s.channel ch := by
      unfold channel
      rw [pace.channels]
    rw [← same]
    exact turns ch hc (by rw [pace.channels]; exact hlen)

theorem fixedSample_on (codes : List Int) (on : s.chainOn = true) : s.fixedSample codes =
    if (s.samplesTaken codes).loc.nextFixed = 128 ∧ (s.samplesTaken codes).chainState = 2 then (s.samplesTaken codes).setN 0x3200 0x0B 3
    else s.samplesTaken codes := if_neg (by simp [on])

/-- The samples of the bands and the recorder leave the chain as it is. -/
theorem takeFixed_sampling (codes : List Int) (on : s.chainOn = true) :
    (s.takeFixed codes).sampling = (s.fixedSample codes).sampling := by
  unfold takeFixed
  rw [if_neg (by simp [on]), recordSample_sampling, localSamples_sampling]

end State

/-- FIXED_RATE_SAMPLE, as O28 states it, while the chain emits samples. -/
theorem fixedRateSample_reaches (codes : List Int) (hset : s.settled) (on : s.chainOn = true) :
    Reaches (.fixedRateSample codes) s (fun t => t.loc.nextFixed = s.loc.nextFixed + 1 ∧
      t.num 0x3200 0x0B = (if s.loc.nextFixed + 1 = 128 ∧ s.num 0x3200 0x0B = 2 then 3 else s.num 0x3200 0x0B) ∧
      ∀ ch, ch < 48 → ch < s.loc.channels.length → State.FixedTurn s codes ch (s.channel ch) (t.channel ch)) := by
  have pace := s.slewed_samePace
  obtain ⟨cs, taken, turns⟩ := s.samplesTaken_sampling codes
  have register : chainRegister 0x3200 0x0B := ⟨by omega, by omega, by omega⟩
  have next : (s.samplesTaken codes).loc.nextFixed = s.loc.nextFixed + 1 := by
    rw [← pace.nextFixed]
    exact congrArg (fun u => u.loc.nextFixed) taken
  have state : (s.samplesTaken codes).chainState = s.num 0x3200 0x0B := by
    unfold State.chainState
    rw [← State.sampling_num _ register, taken, Sampling.modLoc_num, State.sampling_num _ register]
    exact pace.state
  have chain : (s.takeFixed codes).sampling = if s.loc.nextFixed + 1 = 128 ∧ s.num 0x3200 0x0B = 2 then
      (s.samplesTaken codes).sampling.put 0x3200 0x0B (.int 3) else (s.samplesTaken codes).sampling := by
    rw [State.takeFixed_sampling codes on, State.fixedSample_on codes on, next, state, State.ite_sampling, State.setN_eq,
      State.set_sampling _ _ register]
    rfl
  have after : ∀ u : Sampling, u.loc = (s.samplesTaken codes).sampling.loc → ∀ t, u.Left t → t.loc.nextFixed = s.loc.nextFixed + 1 ∧
      ∀ ch, ch < 48 → ch < s.loc.channels.length → State.FixedTurn s codes ch (s.channel ch) (t.channel ch) := by
    intro u hu t left
    rw [taken] at hu
    refine ⟨by rw [left.loc, hu, ← pace.nextFixed]; rfl, fun ch hc hlen => ?_⟩
    rw [left.channel, hu]
    exact turns ch hc hlen
  have pending : (s.samplesTaken codes).sampling.pending = s.pending := by rw [taken]; exact pace.pending
  have sourced : (s.samplesTaken codes).sampling.sourced = s.sampling.sourced := by rw [taken]; exact pace.sourced
  by_cases settledNow : s.loc.nextFixed + 1 = 128 ∧ s.num 0x3200 0x0B = 2
  · rw [if_pos settledNow] at chain ⊢
    refine Reaches.of_sampling (f := fun s => s.takeFixed codes) rfl hset chain pending sourced (fun t left => ?_)
    obtain ⟨hnext, hturns⟩ := after _ (Sampling.put_loc _ _ _ _) t left
    exact ⟨hnext, by rw [left.num register, Sampling.num_put, if_pos ⟨rfl, rfl⟩]; rfl, hturns⟩
  · rw [if_neg settledNow] at chain ⊢
    refine Reaches.of_sampling (f := fun s => s.takeFixed codes) rfl hset chain pending sourced (fun t left => ?_)
    obtain ⟨hnext, hturns⟩ := after _ rfl t left
    exact ⟨hnext, by rw [left.num register, State.sampling_num _ register]; exact state, hturns⟩

/-! ### Tracked samples (R142) -/

namespace State

/-- A channel's tracked sample in front of those before it. -/
def putTracked (s : State) (ch : Nat) (x : Channel) : Channel := { x with tracked := (s.trackedOf ch :: x.tracked).take 2560 }

/-- The tracked sample of every channel, all at the position of one state. -/
def trackChannels (s : State) : State := (List.range 48).foldl (fun t ch => t.modChannel ch (s.putTracked ch)) s

/-- The chain behind a tracked sample. -/
def advanced (l : Local) : Local :=
  { l with nextTracked := l.nextTracked + 1, position := l.position + l.advance, boundaryDue := (l.nextTracked + 1) % 256 == 0 }

theorem trackedSample_on (on : s.chainOn = true) (clear : s.loc.boundaryDue = false) (ready : s.windowReady = true) :
    s.trackedSample = s.trackChannels.modLoc advanced := if_neg (by simp [on, clear, ready])

theorem trackedSample_off (h : s.chainOn = false ∨ s.windowReady = false ∨ s.loc.boundaryDue = true) : s.trackedSample = s :=
  if_pos (by simp; tauto)

theorem trackChannels_sampling (s : State) : ∃ cs, s.trackChannels.sampling = s.sampling.withChannels cs ∧
    ∀ ch, ch < 48 → ch < s.loc.channels.length → nth cs ch noChannel = s.putTracked ch (s.channel ch) := by
  obtain ⟨cs, folded, -, -, turns⟩ := channels_foldl (s := s) (f := fun v ch => v.modChannel ch (s.putTracked ch))
    (turn := fun ch x y => y = s.putTracked ch x) (fun v ch _ _ => ⟨s.putTracked ch, rfl, rfl⟩) 48 (by omega)
  exact ⟨cs, folded, turns⟩

end State

/-- TRACKED_SAMPLE, as O28 states it, when its windows are there. -/
theorem trackedSample_does (hset : s.settled) (on : s.chainOn = true) (clear : s.loc.boundaryDue = false)
    (ready : s.windowReady = true) : Does .trackedSample s [.loc] [] [] (fun t =>
      t.loc.nextTracked = s.loc.nextTracked + 1 ∧ t.loc.position = s.loc.position + s.loc.advance ∧
      t.loc.boundaryDue = ((s.loc.nextTracked + 1) % 256 == 0) ∧
      ∀ ch, ch < 48 → ch < s.loc.channels.length → (t.channel ch).tracked = (s.trackedOf ch :: (s.channel ch).tracked).take 2560) := by
  have emitted := State.trackedSample_on on clear ready
  have each : Effect [.loc] [] [] s s.trackChannels := Effect.foldl _ _ (fun v ch _ => Effect.start.modLoc _ (by simp)) s
  refine Does.of_effect (f := State.trackedSample) rfl hset.raises ?_ (by simp) (fun t ht _ => ?_)
  · rw [emitted]
    exact each.modLoc _ (by simp)
  · obtain ⟨cs, tracked, turns⟩ := s.trackChannels_sampling
    have left := ht.left
    rw [emitted, State.modLoc_sampling, tracked] at left
    refine ⟨by rw [left.loc]; rfl, by rw [left.loc]; rfl, by rw [left.loc]; rfl, fun ch hc hlen => ?_⟩
    rw [left.channel]
    exact congrArg Channel.tracked (turns ch hc hlen)

end Sys2Proof.Machine
end

section
/-! Cycle boundaries (R144, R145) and synchronising resets (R147–R149, R224). -/

namespace Sys2Proof.Machine

variable {s t u : State}

/-! ### TRACKED_CYCLE_BOUNDARY -/

namespace State

/-- The chain whose boundary has come, with the cycle's RMS values. -/
def measured (s : State) : State :=
  (List.range 48).foldl (fun t ch => t.setF32 (0x3000 + ch) 0x0D (s.cycleRms ch)) (s.modLoc (fun l => { l with boundaryDue := false }))

theorem measured_sampling (s : State) : s.measured.sampling = s.sampling.modLoc (fun l => { l with boundaryDue := false }) := by
  unfold measured
  rw [foldl_sampling, modLoc_sampling]
  intro v ch hc
  have low : ch < 48 := List.mem_range.mp hc
  rw [setF32_eq]
  exact set_sampling_low _ _ _ _ _ (by omega) (by omega) (by omega)

/-- The chain behind a boundary that sets f_est. -/
def retuned (f : F64) (l : Local) : Local :=
  { l with fEst := f, advance := advanceOf f, boundaries := (⟨l.nextTracked, l.position, advanceOf f⟩ :: l.boundaries).take 16 }

theorem setFEst_sampling (s : State) (f : F64) :
    (s.setFEst f).sampling = (s.sampling.modLoc (retuned f)).put 0x3200 4 (.int f.to32.nat) := by
  unfold setFEst
  rw [setF32_eq, set_sampling _ _ ⟨by omega, by omega, by omega⟩]
  rfl

theorem inc32_sampling (s : State) {i b : Nat} (h : chainRegister i b) :
    (s.inc32 i b).sampling = s.sampling.put i b (.int (countUp 32 (s.sampling.num i b) 1)) := by
  rw [inc32_eq, set_sampling _ _ h, sampling_num s h]

theorem setN_sampling (s : State) {i b : Nat} (v : Nat) (h : chainRegister i b) :
    (s.setN i b v).sampling = s.sampling.put i b (.int v) := by
  rw [setN_eq, set_sampling _ _ h]

theorem endCycle_due (due : s.loc.boundaryDue = true) : s.endCycle = s.cycleBoundary.rmsTriggers := if_pos due

section Tracking

variable (due : s.loc.boundaryDue = true) (tracking : s.num 0x3200 5 = 1)

include due tracking

theorem cycleBoundary_held {f : F64} (h : s.reference = some f) : s.cycleBoundary = s.measured.setFEst (approach s.loc.fEst f) := by
  unfold cycleBoundary
  rw [if_neg (by simp [due])]
  dsimp only
  rw [h, tracking]
  rfl

/-- TRACKING that has lost its reference. -/
def fallBack (s : State) : State :=
  ((((s.measured.setFEst (F64.ofInt (s.c 0x3200 1))).setN 0x3200 5 0).inc32 0x3200 6).modLoc (fun l => { l with validRun := 0 })).raiseEvent
    54 (s.c 0x3200 2)

theorem cycleBoundary_lost (h : s.reference = none) : s.cycleBoundary = s.fallBack := by
  unfold cycleBoundary
  rw [if_neg (by simp [due])]
  dsimp only
  rw [h, tracking]
  rfl

end Tracking

theorem fallBack_sampling (s : State) : s.fallBack.sampling =
    ((((s.measured.sampling.modLoc (retuned (F64.ofInt (s.c 0x3200 1)))).put 0x3200 4 (.int (F64.ofInt (s.c 0x3200 1)).to32.nat)).put
      0x3200 5 (.int (0 : Nat))).put 0x3200 6 (.int (countUp 32 (s.num 0x3200 6) 1))).modLoc (fun l => { l with validRun := 0 }) := by
  have register : ∀ b, b < 0xC → chainRegister 0x3200 b := fun b hb => ⟨by omega, by omega, hb⟩
  unfold fallBack
  rw [raiseEvent_sampling _ _ _ (by omega), modLoc_sampling, inc32_sampling _ (register 6 (by omega)),
    setN_sampling _ _ (register 5 (by omega)), setFEst_sampling, measured_sampling]
  simp [sampling_num s (register 6 (by omega))]

end State

/-- TRACKED_CYCLE_BOUNDARY without a valid reference, as O28 states it. -/
theorem trackedCycleBoundary_lost (hset : s.settled) (due : s.loc.boundaryDue = true) (tracking : s.num 0x3200 5 = 1)
    (h : s.reference = none) : Reaches .trackedCycleBoundary s (fun t => t.loc.boundaryDue = false ∧
      t.num 0x3200 5 = 0 ∧ t.loc.fEst = F64.ofInt (s.c 0x3200 1) ∧ t.num 0x3200 6 = State.countUp 32 (s.num 0x3200 6) 1) := by
  have chain : s.endCycle.sampling = s.fallBack.sampling := by
    rw [State.endCycle_due due, State.rmsTriggers_sampling, State.cycleBoundary_lost due tracking h]
  rw [State.fallBack_sampling, State.measured_sampling] at chain
  refine Reaches.of_sampling (f := State.endCycle) rfl hset chain rfl rfl (fun t left => ?_)
  refine ⟨by rw [left.loc]; rfl, ?_, by rw [left.loc]; rfl, ?_⟩
  all_goals
    rw [left.num ⟨by omega, by omega, by omega⟩]
    simp

/-- TRACKED_CYCLE_BOUNDARY with a valid reference, as O28 states it. -/
theorem trackedCycleBoundary_held (hset : s.settled) (due : s.loc.boundaryDue = true) (tracking : s.num 0x3200 5 = 1) {f : F64}
    (h : s.reference = some f) : Reaches .trackedCycleBoundary s (fun t => t.loc.boundaryDue = false ∧
      t.num 0x3200 5 = 1 ∧ t.loc.fEst = State.approach s.loc.fEst f) := by
  have register : chainRegister 0x3200 5 := ⟨by omega, by omega, by omega⟩
  have chain : s.endCycle.sampling = (s.measured.sampling.modLoc (State.retuned (State.approach s.loc.fEst f))).put 0x3200 4
      (.int (State.approach s.loc.fEst f).to32.nat) := by
    rw [State.endCycle_due due, State.rmsTriggers_sampling, State.cycleBoundary_held due tracking h, State.setFEst_sampling]
  rw [State.measured_sampling] at chain
  refine Reaches.of_sampling (f := State.endCycle) rfl hset chain rfl rfl (fun t left => ?_)
  refine ⟨by rw [left.loc]; rfl, ?_, by rw [left.loc]; rfl⟩
  rw [left.num register]
  simpa [State.sampling_num s register] using tracking

/-! ### Sample 0 of a new epoch -/

namespace State

/-- The chain at sample 0. -/
def zeroed (s : State) (epoch : Et) (l : Local) : Local :=
  { l with
    waiting := none, epoch := epoch, grid := 0, grids := [(0, 0)], nextFixed := 0, nextTracked := 0, position := 0
    advance := advanceOf (F64.ofInt (s.c 0x3200 0x01)), boundaryDue := false
    boundaries := [⟨0, 0, advanceOf (F64.ofInt (s.c 0x3200 0x01))⟩], fEst := F64.ofInt (s.c 0x3200 0x01), validRun := 0
    channels := l.channels.map Channel.flush
    bays := (List.range 8).map (fun b => ⟨(epoch * s.c (0x3100 + b) 0x03 + sec - 1) / sec, 0⟩) }

/-- Sample 0, but for the end of a SYNC_RESET_CMD that waits for it. -/
def beginEpoch (s : State) (epoch : Et) : State :=
  (((((((s.modLoc (s.zeroed epoch)).setF32 0x3200 0x04 (F64.ofInt (s.c 0x3200 0x01)).to32).setN 0x3200 0x05 0).setN 0x3200 0x0B 2).inc32
    0x3200 0x08).setN 0x3200 0x09 epoch).setI 0x3200 0x0A 0).raiseEvent 53 0

theorem sampleZero_eq (s : State) (epoch : Et) : s.sampleZero epoch =
    if (s.beginEpoch epoch).resultState 0x3201 = 1 then (s.beginEpoch epoch).finishCmd 0x3201 0 (etBytes epoch)
    else s.beginEpoch epoch := by
  rfl

theorem beginEpoch_sampling (s : State) (epoch : Et) : (s.beginEpoch epoch).sampling =
    ((((((s.sampling.modLoc (s.zeroed epoch)).put 0x3200 4 (.int (F64.ofInt (s.c 0x3200 0x01)).to32.nat)).put 0x3200 5 (.int (0 : Nat))).put
      0x3200 0x0B (.int (2 : Nat))).put 0x3200 8 (.int (countUp 32 (s.num 0x3200 8) 1))).put 0x3200 9 (.int epoch)).put 0x3200 0x0A
        (.int 0) := by
  have register : ∀ b, b < 0xC → chainRegister 0x3200 b := fun b hb => ⟨by omega, by omega, hb⟩
  unfold beginEpoch
  rw [raiseEvent_sampling _ _ _ (by omega), setI_eq, set_sampling _ _ (register 0xA (by omega)), setN_sampling _ _ (register 9 (by omega)),
    inc32_sampling _ (register 8 (by omega)), setN_sampling _ _ (register 0xB (by omega)), setN_sampling _ _ (register 5 (by omega)),
    setF32_eq, set_sampling _ _ (register 4 (by omega)), modLoc_sampling]
  simp [sampling_num s (register 8 (by omega))]

/-- The result RECORD of SYNC_RESET_CMD as the new epoch finds it. -/
theorem beginEpoch_result (s : State) (epoch : Et) {b : Nat} (hb : b < 0xC) : (s.beginEpoch epoch).num 0x3201 b = s.num 0x3201 b := by
  have register : chainRegister 0x3201 b := ⟨by omega, by omega, hb⟩
  rw [← sampling_num _ register, beginEpoch_sampling, ← sampling_num s register]
  simp

/-- The end of SYNC_RESET_CMD changes only registers. -/
theorem finishSync_sampling (s : State) (code : Nat) (data : List Byte) :
    ∃ regs, (s.finishCmd 0x3201 code data).sampling = { s.sampling with regs := regs } := by
  have register : ∀ b, b < 0xC → chainRegister 0x3201 b := fun b hb => ⟨by omega, by omega, hb⟩
  refine ⟨(s.finishCmd 0x3201 code data).sampling.regs, ?_⟩
  unfold finishCmd
  rw [setN_sampling _ _ (register 6 (by omega)), setN_sampling _ _ (register 2 (by omega)), setBytes_eq,
    set_sampling _ _ (register 4 (by omega)), setN_sampling _ _ (register 3 (by omega)), setN_sampling _ _ (register 1 (by omega))]
  rfl

theorem sampleZero_sampling (s : State) (epoch : Et) :
    ∃ regs, (s.sampleZero epoch).sampling = { s.sampling with loc := s.zeroed epoch s.loc, regs := regs } := by
  rw [sampleZero_eq]
  split
  · obtain ⟨regs, finished⟩ := (s.beginEpoch epoch).finishSync_sampling 0 (etBytes epoch)
    exact ⟨regs, by rw [finished, beginEpoch_sampling]; rfl⟩
  · exact ⟨_, by rw [beginEpoch_sampling]; rfl⟩

theorem sampleZero_num (s : State) (epoch : Et) {b : Nat} (hb : b < 0xC) :
    (s.sampleZero epoch).num 0x3200 b = (s.beginEpoch epoch).num 0x3200 b := by
  rw [sampleZero_eq]
  split
  · have finished := finishCmd_effect (P := []) (s.beginEpoch epoch) (result := 0x3201) (code := 0) (data := etBytes epoch)
      (by decide) (fun _ h => h)
    exact finished.frame.num_keep (by simp [outcomeRegisters]) (endRegister_of_index (by decide) b) (by omega)
  · rfl

theorem sampleZero_outcome (s : State) (epoch : Et) (waits : s.num 0x3201 2 = 1) :
    Outcome 0x3201 (s.num 0x3201 6) 0 (etBytes epoch) (s.sampleZero epoch) := by
  have busy : (s.beginEpoch epoch).resultState 0x3201 = 1 := (s.beginEpoch_result epoch (by omega)).trans waits
  rw [sampleZero_eq, if_pos busy, ← s.beginEpoch_result epoch (by omega)]
  exact finishCmd_outcome _ _ _ _

/-- What a synchronising reset starts of the rest of the device. -/
def startedAt (s : State) (start : Et) : State :=
  let b := if 8 ≤ s.stage ∧ s.stage ≤ 9 ∧ !s.tr.running then s.startTransits start else s
  if b.stage = 8 then b.enterRunning else b

theorem startedAt_sampling (s : State) (start : Et) : (s.startedAt start).sampling = s.sampling := by
  unfold startedAt
  extract_lets b
  have started : b.sampling = s.sampling := by
    simp only [b]
    split
    · exact startTransits_sampling _ _
    · rfl
  rw [ite_sampling, enterRunning_sampling, ite_self, started]

theorem syncZero_due {start : Et} (due : s.syncDue = some start) :
    s.syncZero = (((s.endEpoch.sampleZero start).newEpoch.pmResume).resetLocalSignals.resetLom).startedAt start := by
  unfold syncZero
  rw [due]
  rfl

/-- What else happens at sample 0 leaves the chain and its registers alone. -/
theorem syncZero_sampling {start : Et} (due : s.syncDue = some start) : s.syncZero.sampling = (s.endEpoch.sampleZero start).sampling := by
  rw [syncZero_due due, startedAt_sampling]
  simp

theorem syncDue_some {start : Et} (waits : s.loc.waiting = some start) (h : start ≤ s.et) : s.syncDue = some start := by
  unfold syncDue
  rw [waits]
  exact if_pos h

theorem syncDue_none {start : Et} (waits : s.loc.waiting = some start) (h : s.et < start) : s.syncDue = none := by
  unfold syncDue
  rw [waits]
  exact if_neg (Nat.not_le.mpr h)

end State

theorem Outcome.of_regs {result seq code : Nat} {data : List Byte} (h : Outcome result seq code data s)
    (k : ∀ b, b < 5 → t.value result b 0 = s.value result b 0) : Outcome result seq code data t := by
  have num : ∀ b, b < 5 → t.num result b = s.num result b := fun b hb => by
    unfold State.num State.int
    rw [k b hb]
  have bytes : t.bytes result 4 = s.bytes result 4 := by
    unfold State.bytes
    rw [k 4 (by omega)]
  exact ⟨(num 1 (by omega)).trans h.sequence, (num 2 (by omega)).trans h.state, (num 3 (by omega)).trans h.code, bytes.trans h.data⟩

/-- SYNC_RESET_SAMPLE_ZERO at the start of the new epoch, as O28 states it. -/
theorem syncResetSampleZero_reaches {start : Et} (hset : s.settled) (waits : s.loc.waiting = some start) (h : start ≤ s.et) :
    Reaches .syncResetSampleZero s (fun t =>
      t.loc.waiting = none ∧ t.loc.epoch = start ∧ t.loc.grid = 0 ∧ t.loc.nextFixed = 0 ∧ t.loc.nextTracked = 0 ∧ t.num 0x3200 0x0B = 2 ∧
      t.num 0x3200 8 = State.countUp 32 (s.num 0x3200 8) 1 ∧ t.num 0x3200 9 = start ∧
      (s.num 0x3201 2 = 1 → Outcome 0x3201 (s.num 0x3201 6) 0 (etBytes start) t)) := by
  have ended := s.endEpoch_sampling
  have register : ∀ i b, i = 0x3200 ∨ i = 0x3201 → b < 0xC → chainRegister i b :=
    fun i b hi hb => by rcases hi with rfl | rfl <;> exact ⟨by decide, by decide, hb⟩
  obtain ⟨regs, zero⟩ := s.endEpoch.sampleZero_sampling start
  have chain := (State.syncZero_sampling (State.syncDue_some waits h)).trans zero
  rw [ended] at chain
  refine Reaches.of_sampling (f := State.syncZero) rfl hset chain rfl rfl (fun t left => ?_)
  rw [← ended, ← zero] at left
  have loc : t.loc = s.endEpoch.zeroed start s.endEpoch.loc := left.loc.trans (congrArg Sampling.loc zero)
  have num : ∀ b, b < 0xC → t.num 0x3200 b = (s.endEpoch.beginEpoch start).sampling.num 0x3200 b := fun b hb => by
    rw [left.num (register _ _ (by simp) hb), State.sampling_num _ (register _ _ (by simp) hb), State.sampleZero_num _ _ hb,
      State.sampling_num _ (register _ _ (by simp) hb)]
  have before : ∀ i b, i = 0x3200 ∨ i = 0x3201 → b < 0xC → s.endEpoch.num i b = s.num i b :=
    fun i b hi hb => State.num_of_sampling ended (register i b hi hb)
  rw [State.beginEpoch_sampling, before _ _ (by simp) (by omega)] at num
  refine ⟨by rw [loc]; rfl, by rw [loc]; rfl, by rw [loc]; rfl, by rw [loc]; rfl, by rw [loc]; rfl, ?_, ?_, ?_, fun busy => ?_⟩
  · simp [num]
  · simp [num]
  · simp [num]
  · rw [← before _ _ (by simp) (by omega)] at busy ⊢
    refine (s.endEpoch.sampleZero_outcome start busy).of_regs (fun b hb => ?_)
    rw [left.value _ _ (register _ _ (by simp) (by omega)), State.sampling_regs _ (register _ _ (by simp) (by omega))]

end Sys2Proof.Machine
end

section
/-! SYNC_RESET_CMD and the reports of the bays (R147, R149–R151, R163). -/

namespace Sys2Proof.Machine

variable {P : List Part} {R : List (Nat × Nat)} {L : List Nat} {s t u : State} {r : Req} {x : Session}

/-! ### SYNC_RESET_CMD -/

def syncResetField : Field := ⟨0x07, 0x07, "SYNC_RESET_CMD", .u8, .wo, .int 0, .ival 1 1⟩

theorem syncResetRow : OwnRow 0x3200 7 syncResetField 1 :=
  ⟨by decide +kernel, by decide, by decide, by decide, by decide, by decide⟩

theorem syncReset_command : commandOf 0x3200 = none ∧ resultOf 0x3200 7 = some 0x3201 := by decide +kernel

theorem writeEffect_syncReset (s : State) (sess : Nat) : s.writeEffect sess 0x3200 7 (.int 1) = s.syncResetCmd := by
  rfl

/-- SYNC_RESET_CMD is performed when its result RECORD is IDLE: the session is answered with the sequence that the command takes. -/
theorem syncResetCmd_serves {after : State → Prop} (hset : s.settled) (hcmd : Commands s r x 0x3200 7 0x3201)
    (row : (s.accepted x r.seq).syncResetCmd = u) (hf : Effect (.alm :: P) R L (s.accepted x r.seq) u) (small : ∀ n ∈ L, n < 128)
    (halm : u.alm = (s.accepted x r.seq).alm) (hafter : ∀ t, Frame [.alm] [] u t → after t) :
    Serves (.syncResetCmd r) s r x 0x0A (beBytes 4 (s.nextSeq 0x3201)) id P R L after := by
  obtain ⟨noCommand, result⟩ := syncReset_command
  have served := Serves.of_row (c := .syncResetCmd r) (g := id) rfl hset.raises hcmd.toReady syncResetRow.object syncResetRow.read
    syncResetRow.form hcmd.role hcmd.payload syncResetRow.size (commandChecks_ok noCommand result hcmd.idle (by decide) (by decide))
    (writeBarred_plain hcmd.free (by omega) (by omega)) (syncResetRow.inRange_ok s) ((writeEffect_syncReset _ _).trans row) hf small
    (by rw [halm]; rfl) (by rw [halm]; rfl) (by rw [halm]; rfl) hafter
  have answer : s.writeAnswer true 0x3200 7 = beBytes 4 (s.nextSeq 0x3201) := by
    unfold State.writeAnswer
    rw [result]
  rwa [result, Option.isSome_some, answer] at served

/-- SYNC_RESET_CMD, as O28 states it, while the chain is OFF. -/
theorem syncResetCmd_off (hset : s.settled) (hcmd : Commands s r x 0x3200 7 0x3201) (off : s.num 0x3200 0x0B = 0) :
    Serves (.syncResetCmd r) s r x 0x0A (beBytes 4 (s.nextSeq 0x3201)) id [] (outcomeRegisters 0x3201) []
      (Outcome 0x3201 (s.nextSeq 0x3201) 3 []) := by
  have row : (s.accepted x r.seq).syncResetCmd = (s.accepted x r.seq).quickCmd 0x3201 3 [] :=
    if_pos ((accepted_num s x r.seq _ _).trans off)
  refine syncResetCmd_serves hset hcmd row (quickCmd_effect _ (by decide) (fun _ h => h)) (by simp) (quickCmd_alm _ _ _ _) (fun t ht => ?_)
  rw [← accepted_nextSeq s x r.seq]
  exact (quickCmd_outcome _ _ _ _).kept ht (by decide) (by simp)

/-- A synchronising reset that waits for its whole second. -/
def State.awaitReset (s : State) : State :=
  (s.modLoc (fun l => { l with waiting := some ((s.et + 100 * ms + sec - 1) / sec * sec) })).setN 0x3200 0x0B 1

theorem syncCause_starts (on : s.chainState ≠ 0) (free : s.loc.waiting = none) : s.syncCause = s.awaitReset :=
  if_neg (by simp [on, free])

theorem awaitReset_effect (s : State) (ml : Part.loc ∈ P) (mr : (0x3200, 0x0B) ∈ R) : Effect P R [] s s.awaitReset :=
  (Effect.start.modLoc _ ml).setLow _ _ _ _ mr

/-- SYNC_RESET_CMD, as O28 states it, when the chain is on and no reset waits. -/
theorem syncResetCmd_waits (hset : s.settled) (hcmd : Commands s r x 0x3200 7 0x3201) (on : s.num 0x3200 0x0B ≠ 0)
    (free : s.loc.waiting = none) :
    Serves (.syncResetCmd r) s r x 0x0A (beBytes 4 (s.nextSeq 0x3201)) id [.loc] ((0x3200, 0x0B) :: busyRegisters 0x3201) [] (fun t =>
      Busy 0x3201 s t ∧ t.num 0x3200 0x0B = 1 ∧ t.loc.waiting = some ((s.et + 100 * ms + sec - 1) / sec * sec)) := by
  have started : ∀ {Q : List Part}, Effect Q (busyRegisters 0x3201) [] (s.accepted x r.seq) ((s.accepted x r.seq).startCmd 0x3201) :=
    startCmd_effect _ (by decide) (fun _ h => h)
  have state : ((s.accepted x r.seq).startCmd 0x3201).chainState = s.num 0x3200 0x0B :=
    ((started (Q := [])).frame.num_keep (by simp [busyRegisters]) (endRegister_of_index (by decide) _)).trans (accepted_num s x r.seq _ _)
  have row : (s.accepted x r.seq).syncResetCmd = ((s.accepted x r.seq).startCmd 0x3201).awaitReset :=
    (if_neg (by rw [State.chainState, accepted_num]; exact on)).trans (syncCause_starts (by rw [state]; exact on) free)
  have waits := awaitReset_effect ((s.accepted x r.seq).startCmd 0x3201) (P := [.loc]) (R := [(0x3200, 0x0B)]) (by simp) (by simp)
  refine syncResetCmd_serves hset hcmd row ?_ (by simp) rfl (fun t ht => ⟨?_, ?_, ?_⟩)
  · exact (started.mono (fun _ h => h) (fun _ h => List.mem_cons_of_mem _ h)).trans (awaitReset_effect _ (by simp) (by simp))
  · exact Busy.of_accepted (((startCmd_busy _ 0x3201).kept waits.frame (by decide) (by simp)).kept ht (by decide) (by simp))
  · rw [ht.num_low (by simp)]
    exact State.num_set _ _ _ _
  · exact congrArg Local.waiting (ht.parts .loc (by simp))

/-! ### BAY_REPORT -/

namespace State

/-- BAY_REPORT's effect (R150, R163). -/
def reportBay (s : State) (bay : Nat) : State :=
  match s.bayReport bay with
  | (t, some r) => t.localFrame bay r
  | (t, none) => t

/-- A bay whose instant is past. -/
def nextInstant (s : State) (bay : Nat) : State :=
  s.modLoc (fun l => { l with bays := modNth l.bays bay (fun b => { b with nextK := b.nextK + 1 }) })

/-- The registers of a bay that show its report. -/
def showBayReport (s : State) (bay : Nat) (y : Report) : State :=
  (((s.nextInstant bay).setF32 (0x3100 + bay) 0x07 (nth y.entries 0 absentEntry).value).setF32 (0x3100 + bay) 0x08
    (nth y.entries 1 absentEntry).value).setN (0x3100 + bay) 0x09 (nth y.entries 14 absentEntry).quality.toNat

/-- The reversal conditions that a P-class report judges (R166). -/
def judgeBayReport (s : State) (bay : Nat) (y : Report) : State :=
  if s.c (0x3100 + bay) 0x02 = 0 then (s.showBayReport bay y).reversal bay y.powers
    (y.flags &&& 0x0302#16 != 0#16 || (qBit y.flags qSOURCE_ERROR && !s.onlySupervision bay)) else s.showBayReport bay y

theorem reportBay_off {bay : Nat} (off : s.chainOn = false) : s.reportBay bay = s := by
  have row : s.bayReport bay = (s, none) := if_pos (by simp [off])
  unfold reportBay
  rw [row]

section Emitting

variable {bay k rate : Nat} (on : s.chainOn = true) (hrate : rate = s.c (0x3100 + bay) 3) (hk : k = (nth s.loc.bays bay ⟨0, 0⟩).nextK)

include on hrate hk

theorem reportBay_suppressed (h : s.reportSuppressed bay k rate = true) : s.reportBay bay = s.nextInstant bay := by
  subst hrate hk
  have row : s.bayReport bay = (s.nextInstant bay, none) := (if_neg (by simp [on])).trans (if_pos h)
  unfold reportBay
  rw [row]

variable (kept : s.reportSuppressed bay k rate = false)

include kept

theorem reportBay_waits (h : s.estimate bay k rate = none) : s.reportBay bay = s := by
  subst hrate hk
  have row : s.bayReport bay = (s, none) := by
    unfold bayReport
    dsimp only
    rw [if_neg (by simp [on]), if_neg (by simp [kept]), h]
  unfold reportBay
  rw [row]

theorem reportBay_reported {y : Report} (h : s.estimate bay k rate = some y) : s.reportBay bay =
    if s.cB (0x3100 + bay) 1 then ((s.judgeBayReport bay y).setN (0x3100 + bay) 0x0A y.time).localFrame bay y
    else s.judgeBayReport bay y := by
  subst hrate hk
  have row : s.bayReport bay = if s.cB (0x3100 + bay) 1 then ((s.judgeBayReport bay y).setN (0x3100 + bay) 0x0A y.time, some y)
      else (s.judgeBayReport bay y, none) := by
    unfold bayReport
    dsimp only
    rw [if_neg (by simp [on]), if_neg (by simp [kept]), h]
    rfl
  unfold reportBay
  by_cases delivers : s.cB (0x3100 + bay) 1 = true
  · rw [row, if_pos delivers, if_pos delivers]
  · rw [row, if_neg delivers, if_neg delivers]

end Emitting

theorem reversal_sampling (s : State) {bay : Nat} (powers : List F64) (blocked : Bool) (hb : bay < 8) :
    (s.reversal bay powers blocked).sampling = s.sampling := by
  unfold reversal
  dsimp only
  refine foldl_sampling _ _ _ (fun v n hn => ?_)
  have three : n < 3 := List.mem_range.mp hn
  rw [ite_sampling, ite_sampling, setCondition_sampling _ _ (by omega) (by omega), setCondition_sampling _ _ (by omega) (by omega),
    ite_self, ite_self]

theorem judgeBayReport_sampling (s : State) {bay : Nat} (y : Report) (hb : bay < 8) :
    (s.judgeBayReport bay y).sampling = (s.showBayReport bay y).sampling := by
  unfold judgeBayReport
  rw [ite_sampling, reversal_sampling _ _ _ hb, ite_self]

theorem showBayReport_sampling (s : State) {bay : Nat} (y : Report) (hb : bay < 8) : (s.showBayReport bay y).sampling =
    (((s.nextInstant bay).sampling.put (0x3100 + bay) 7 (.int (nth y.entries 0 absentEntry).value.nat)).put (0x3100 + bay) 8
      (.int (nth y.entries 1 absentEntry).value.nat)).put (0x3100 + bay) 9 (.int (nth y.entries 14 absentEntry).quality.toNat) := by
  have register : ∀ b, b < 0xC → chainRegister (0x3100 + bay) b := fun b h => ⟨by omega, by omega, h⟩
  unfold showBayReport
  rw [setN_sampling _ _ (register 9 (by omega)), setF32_eq, set_sampling _ _ (register 8 (by omega)), setF32_eq,
    set_sampling _ _ (register 7 (by omega))]

end State

section Bay

variable {bay : Fin 8} {k rate : Nat} (hset : s.settled) (on : s.chainOn = true) (hrate : rate = s.c (0x3100 + bay.val) 3)
  (hk : k = (nth s.loc.bays bay.val ⟨0, 0⟩).nextK)

include hset on hrate hk

/-- BAY_REPORT, as O28 states it, of an instant whose window begins before sample 0. -/
theorem bayReport_suppressed (hlen : bay.val < s.loc.bays.length) (h : s.reportSuppressed bay.val k rate = true) :
    Does (.bayReport bay) s [.loc] [] [] (fun t => (nth t.loc.bays bay.val ⟨0, 0⟩).nextK = k + 1) := by
  have row := State.reportBay_suppressed on hrate hk h
  refine Does.of_effect (f := fun s => s.reportBay bay.val) rfl hset.raises ?_ (by simp) (fun t ht _ => ?_) <;> rw [row] at *
  · exact Effect.start.modLoc _ (by simp)
  · have loc : t.loc = (s.nextInstant bay.val).loc := ht.part .loc
    rw [loc, hk]
    exact congrArg Bay.nextK (nth_modify _ _ _ _ hlen)

/-- BAY_REPORT, as O28 states it, while a sample of the window is missing. -/
theorem bayReport_waits (kept : s.reportSuppressed bay.val k rate = false) (h : s.estimate bay.val k rate = none) :
    Reaches (.bayReport bay) s (fun t => (nth t.loc.bays bay.val ⟨0, 0⟩).nextK = k) := by
  have row := State.reportBay_waits on hrate hk kept h
  refine Reaches.of_sampling (f := fun s => s.reportBay bay.val) (u := s.sampling) rfl hset (by rw [row]) rfl rfl (fun t left => ?_)
  rw [left.loc, hk]
  rfl

/-- BAY_REPORT, as O28 states it, of an instant that is estimated. -/
theorem bayReport_reported (hlen : bay.val < s.loc.bays.length) (kept : s.reportSuppressed bay.val k rate = false) {y : State.Report}
    (h : s.estimate bay.val k rate = some y) : Reaches (.bayReport bay) s (fun t => (nth t.loc.bays bay.val ⟨0, 0⟩).nextK = k + 1 ∧
      t.num (0x3100 + bay.val) 7 = (nth y.entries 0 absentEntry).value.nat ∧
      t.num (0x3100 + bay.val) 8 = (nth y.entries 1 absentEntry).value.nat ∧
      t.num (0x3100 + bay.val) 9 = (nth y.entries 14 absentEntry).quality.toNat ∧
      t.num (0x3100 + bay.val) 0x0A = if s.cB (0x3100 + bay.val) 1 then y.time else s.num (0x3100 + bay.val) 0x0A) := by
  have hb := bay.isLt
  have register : ∀ b, b < 0xC → chainRegister (0x3100 + bay.val) b := fun b hb => ⟨by omega, by omega, hb⟩
  have row := State.reportBay_reported on hrate hk kept h
  have next : (nth (s.nextInstant bay.val).loc.bays bay.val ⟨0, 0⟩).nextK = k + 1 := by
    rw [hk]
    exact congrArg Bay.nextK (nth_modify _ _ _ _ hlen)
  have before : (s.nextInstant bay.val).sampling.num (0x3100 + bay.val) 0x0A = s.num (0x3100 + bay.val) 0x0A :=
    State.sampling_num (s.nextInstant bay.val) (register _ (by omega))
  by_cases delivers : s.cB (0x3100 + bay.val) 1 = true
  · rw [if_pos delivers] at row ⊢
    have chain : (s.reportBay bay.val).sampling = (s.showBayReport bay.val y).sampling.put (0x3100 + bay.val) 0x0A (.int y.time) := by
      rw [row, State.localFrame_sampling _ _ _ hb, State.setN_sampling _ _ (register _ (by omega)), State.judgeBayReport_sampling _ _ hb]
    rw [State.showBayReport_sampling _ _ hb] at chain
    refine Reaches.of_sampling (f := fun s => s.reportBay bay.val) rfl hset chain rfl rfl (fun t left => ⟨?_, ?_, ?_, ?_, ?_⟩)
    · rw [left.loc]
      exact next
    all_goals
      rw [left.num (register _ (by omega))]
      simp
  · rw [if_neg delivers] at row ⊢
    have chain : (s.reportBay bay.val).sampling = (s.showBayReport bay.val y).sampling := by
      rw [row, State.judgeBayReport_sampling _ _ hb]
    rw [State.showBayReport_sampling _ _ hb] at chain
    refine Reaches.of_sampling (f := fun s => s.reportBay bay.val) rfl hset chain rfl rfl (fun t left => ⟨?_, ?_, ?_, ?_, ?_⟩)
    · rw [left.loc]
      exact next
    all_goals
      rw [left.num (register _ (by omega))]
      simp [before]

end Bay

/-! ### The chain as a whole -/

/-- Settles O28: the samples of the chain, its cycle boundaries, the resets it waits for, and the reports of the bays. -/
theorem samplingChainAdvances : Obligations.SamplingChainAdvances := by
  refine ⟨fun codes s hset => ⟨fun off => ?_, fun on => fixedRateSample_reaches codes hset on⟩, fun s hset => ⟨?_, ?_, ?_, ?_, ?_⟩,
    fun r x s hset hcmd => ⟨syncResetCmd_off hset hcmd, syncResetCmd_waits hset hcmd⟩, fun bay k rate s hset hrate hk => ⟨?_, ?_, ?_⟩⟩
  · exact does_nothing (f := fun s => s.takeFixed codes) hset rfl (if_pos (by simp [off]))
  · exact trackedSample_does hset
  · exact fun h => does_nothing (f := State.trackedSample) hset rfl (State.trackedSample_off h)
  · intro due tracking
    cases h : s.reference with
    | none => exact trackedCycleBoundary_lost hset due tracking h
    | some f => exact trackedCycleBoundary_held hset due tracking h
  · exact fun start waits h => syncResetSampleZero_reaches hset waits h
  · intro start waits early
    refine does_nothing (f := State.syncZero) hset rfl ?_
    unfold State.syncZero
    rw [State.syncDue_none waits early]
  · exact fun off => does_nothing (f := fun s => s.reportBay bay.val) hset rfl (State.reportBay_off off)
  · exact fun on hlen h => bayReport_suppressed hset on hrate hk hlen h
  · intro on hlen kept
    cases h : s.estimate bay.val k rate with
    | none => exact bayReport_waits hset on hrate hk kept h
    | some y => exact bayReport_reported hset on hrate hk hlen kept h

end Sys2Proof.Machine
end

section
/-! Ports, pairs and queues of the ingest unit: what a change of a part of it leaves of the rest, what the end of a command has left of them,
and which registers say that a port has a line (R174–R186, R560). -/

namespace Sys2Proof.Machine

-- As in the tests: one theorem after the other, since the whole text has to compile within a bounded memory.
set_option Elab.async false

variable {P : List Part} {R : List (Nat × Nat)} {L : List Nat} {s t u : State} {p q n : Nat}

/-- A command whose work leaves a state. -/
theorem Does.of_state {c : Instr} {f : State → State} {v : State} {after : State → Prop} (he : exec c s = complete s f)
    (h0 : s.ev.raised = []) (hv : f s = v) (hf : Effect P R L s v) (small : ∀ n ∈ L, n < 128)
    (hafter : ∀ t, Frame [] [] v t → after t) : Does c s P R L after := by
  subst hv
  exact Does.of_effect he h0 hf small (fun t ht _ => hafter t ht)

/-! ### Ports and pairs read after a change -/

theorem port_of_core (h : t.ing.core = u.ing.core) (p : Nat) : t.port p = u.port p := by
  have ports : t.ing.ports = u.ing.ports := (congrArg Ingest.ports h :)
  unfold State.port
  rw [ports]

theorem pair_of_core (h : t.ing.core = u.ing.core) (n : Nat) : t.pair n = u.pair n := by
  have pairs : t.ing.pairs = u.ing.pairs := (congrArg Ingest.pairs h :)
  unfold State.pair
  rw [pairs]

theorem stream_of_core (h : t.ing.core = u.ing.core) (id : Nat) : t.stream id = u.stream id := by
  have streams : t.ing.streams = u.ing.streams := (congrArg Ingest.streams h :)
  unfold State.stream
  rw [streams]

theorem Frame.port_keep (h : Frame P R s u) (hm : Part.ing ∉ P) (p : Nat) : u.port p = s.port p := port_of_core (h.parts .ing hm) p

theorem Frame.pair_keep (h : Frame P R s u) (hm : Part.ing ∉ P) (n : Nat) : u.pair n = s.pair n := pair_of_core (h.parts .ing hm) n

theorem Frame.stream_keep (h : Frame P R s u) (hm : Part.ing ∉ P) (id : Nat) : u.stream id = s.stream id :=
  stream_of_core (h.parts .ing hm) id

theorem port_modPort (f : Port → Port) (h : p < s.ing.ports.length) : (s.modPort p f).port p = f (s.port p) := nth_modify _ _ _ _ h

/-- A function of a port that a change of some port keeps. -/
theorem port_modPort_keep {β : Type} (g : Port → β) (f : Port → Port) (h : ∀ x, g (f x) = g x) :
    g ((s.modPort p f).port q) = g (s.port q) := nth_modify_keep g f _ _ _ _ h

/-- A change that a port does not show leaves the state as it is. -/
theorem modPort_same (f : Port → Port) (h : f (s.port p) = s.port p) : s.modPort p f = s := by
  have ports : s.ing.ports.modify p f = s.ing.ports := by
    apply List.ext_getElem?
    intro m
    rw [List.getElem?_modify]
    split
    · rename_i e
      subst e
      cases hx : s.ing.ports[p]? with
      | none => rfl
      | some x =>
        have read : s.port p = x := by simp [State.port, nth, List.getD_eq_getElem?_getD, hx]
        rw [read] at h
        simp [h]
    · simp
  unfold State.modPort State.modIng modNth
  dsimp only
  rw [ports]

theorem pair_modPair (f : PrpPair → PrpPair) (h : n < s.ing.pairs.length) : (s.modPair n f).pair n = f (s.pair n) := nth_modify _ _ _ _ h

@[simp] theorem State.port_set (s : State) (i b e : Nat) (v : Value) (p : Nat) : (s.set i b e v).port p = s.port p := (rfl)
@[simp] theorem State.queue_set (s : State) (i b e : Nat) (v : Value) (n : Nat) : (s.set i b e v).queue n = s.queue n := (rfl)
@[simp] theorem State.queue_raiseEvent (s : State) (m k n : Nat) : (s.raiseEvent m k).queue n = s.queue n := (rfl)
@[simp] theorem State.pair_set (s : State) (i b e : Nat) (v : Value) (n : Nat) : (s.set i b e v).pair n = s.pair n := (rfl)
@[simp] theorem State.port_emit (s : State) (o : Output) (p : Nat) : (s.emit o).port p = s.port p := (rfl)
@[simp] theorem State.port_raiseEvent (s : State) (m k p : Nat) : (s.raiseEvent m k).port p = s.port p := (rfl)
@[simp] theorem State.port_modPair (s : State) (f : PrpPair → PrpPair) : (s.modPair n f).port p = s.port p := (rfl)
@[simp] theorem State.num_modPort (s : State) (f : Port → Port) (i b : Nat) : (s.modPort p f).num i b = s.num i b := (rfl)
@[simp] theorem State.num_modPair (s : State) (f : PrpPair → PrpPair) (i b : Nat) : (s.modPair n f).num i b = s.num i b := (rfl)
@[simp] theorem State.wire_modPort (s : State) (f : Port → Port) : (s.modPort p f).wire = s.wire := (rfl)
@[simp] theorem State.cfg_modPort (s : State) (f : Port → Port) : (s.modPort p f).cfg = s.cfg := (rfl)
@[simp] theorem State.raw_modPort (s : State) (f : Port → Port) : (s.modPort p f).raw = s.raw := (rfl)
@[simp] theorem State.c_modPort (s : State) (f : Port → Port) (i b : Nat) : (s.modPort p f).c i b = s.c i b := (rfl)
@[simp] theorem State.cB_modPort (s : State) (f : Port → Port) (i b : Nat) : (s.modPort p f).cB i b = s.cB i b := (rfl)
@[simp] theorem State.length_modPort (s : State) (f : Port → Port) : (s.modPort p f).ing.ports.length = s.ing.ports.length :=
  List.length_modify ..
@[simp] theorem State.queue_modPort (s : State) (f : Port → Port) (n : Nat) : (s.modPort p f).queue n = s.queue n := (rfl)

theorem Effect.modPort (h : Effect P R L s u) (p : Nat) (f : Port → Port) (m : Part.ing ∈ P) : Effect P R L s (u.modPort p f) := h.modIng _ m

theorem Effect.modPair (h : Effect P R L s u) (n : Nat) (f : PrpPair → PrpPair) (m : Part.ing ∈ P) : Effect P R L s (u.modPair n f) :=
  h.modIng _ m

/-! ### Ports that have a line -/

/-- The registers that say whether a port has a line: START_STAGE, POWER_STATE and LINK. -/
def lineRegisters (p : Nat) : List (Nat × Nat) := [(0xD000, 1), (0xF140, 1), (pCfg p, 0x10)]

/-- Between two states nothing has changed that says whether a port has a line, or is part of a pair. -/
structure SameLine (p : Nat) (s u : State) : Prop where
  cfg : u.cfg = s.cfg
  boot : u.boot = s.boot
  stage : u.num 0xD000 1 = s.num 0xD000 1
  power : u.num 0xF140 1 = s.num 0xF140 1
  link : u.num (pCfg p) 0x10 = s.num (pCfg p) 0x10

theorem Frame.sameLine (h : Frame P R s u) (hp : p < 6) (hc : Part.cfg ∉ P) (hb : Part.boot ∉ P) (hr : ∀ r ∈ lineRegisters p, r ∉ R) :
    SameLine p s u :=
  ⟨h.cfg_keep hc, h.boot_keep hb, h.num_keep (hr _ (by simp [lineRegisters])) (by decide),
    h.num_keep (hr _ (by simp [lineRegisters])) (by decide), h.num_low (hr _ (by simp [lineRegisters])) (by unfold pCfg; omega)⟩

theorem cB_congr (h : u.cfg = s.cfg) (i b : Nat) : u.cB i b = s.cB i b := by
  unfold State.cB
  rw [State.c_congr h]

theorem prpPairOf_congr (h : u.cfg = s.cfg) (p : Nat) : u.prpPairOf p = s.prpPairOf p := by
  unfold State.prpPairOf
  rw [cB_congr h]

theorem contextGroups_congr (h : u.cfg = s.cfg) (p : Nat) : u.contextGroups p = s.contextGroups p := by
  have remote : u.enabledRemote = s.enabledRemote := by
    unfold State.enabledRemote
    rw [h]
  have bytes : ∀ i b, u.cBytes i b = s.cBytes i b := fun i b => by
    unfold State.cBytes State.cValue
    rw [h]
  unfold State.contextGroups
  simp only [remote, bytes, State.c_congr h]

theorem homePort_congr (h : u.cfg = s.cfg) (p : Nat) : u.homePort p = s.homePort p := by
  unfold State.homePort
  rw [prpPairOf_congr h]

theorem SameLine.quiet (h : SameLine p s u) : u.quiet = s.quiet := by
  unfold State.quiet
  rw [h.power]

theorem SameLine.portOn (h : SameLine p s u) : u.portOn p = s.portOn p := by
  unfold State.portOn State.started
  rw [h.boot, h.stage, cB_congr h.cfg]

theorem SameLine.serdesOn (h : SameLine p s u) : u.serdesOn p = s.serdesOn p := by
  unfold State.serdesOn
  simp only [h.quiet, cB_congr h.cfg, State.c_congr h.cfg]

theorem SameLine.portUp (h : SameLine p s u) : u.portUp p = s.portUp p := by
  unfold State.portUp State.flag
  rw [h.portOn, h.serdesOn, h.link]

theorem portUp_on (h : s.portUp p = true) : s.portOn p = true := by
  simp only [State.portUp, Bool.and_eq_true] at h
  exact h.1.1

@[simp] theorem State.portUp_modPort (s : State) (f : Port → Port) : (s.modPort p f).portUp q = s.portUp q := (rfl)
@[simp] theorem State.prpPairOf_modPort (s : State) (f : Port → Port) : (s.modPort p f).prpPairOf q = s.prpPairOf q := (rfl)

/-! ### Pause that a port honours -/

/-- A port but for the descriptors of its transmit ring. -/
def Port.untx (x : Port) : Port := { x with tx := [] }

theorem pausing_congr (hc : u.cfg = s.cfg) (hr : u.raw = s.raw) (hp : (u.port p).untx = (s.port p).untx) : u.pausing p = s.pausing p := by
  have until_ : (u.port p).pausedUntil = (s.port p).pausedUntil := (congrArg Port.pausedUntil hp :)
  have ignored : (u.port p).ignoreUntil = (s.port p).ignoreUntil := (congrArg Port.ignoreUntil hp :)
  unfold State.pausing
  rw [cB_congr hc, hr, until_, ignored]

end Sys2Proof.Machine
end

section
/-! Frames that leave a port, at once and in strict priority, and their descriptors (R179, R182, R207). -/

namespace Sys2Proof.Machine

set_option Elab.async false

variable {P : List Part} {R : List (Nat × Nat)} {L : List Nat} {s t u : State} {p q n : Nat}

/-- A write of a register that is none of those that say whether a port has a line. -/
theorem sameLine_set (s : State) {i b e : Nat} (v : Value) (hi : i ≠ 0xD000 ∧ i ≠ 0xF140 ∧ i ≠ pCfg p) (hb : b < 256)
    (he : e < 65536) : SameLine p s (s.set i b e v) := by
  obtain ⟨stage, power, link⟩ := hi
  refine ⟨rfl, rfl, ?_, ?_, ?_⟩ <;> exact State.num_set_ne s v hb he (by omega) (by omega)

/-- The counters of a port are none of the registers that say whether one has a line. -/
theorem portUp_count (s : State) {b e : Nat} (v : Value) (hb : b < 256 := by omega) (he : e < 65536 := by omega) :
    (s.set (pCnt q) b e v).portUp p = s.portUp p :=
  (sameLine_set s v (by unfold pCnt pCfg; omega) hb he).portUp

/-! ### A frame that leaves -/

/-- A frame of a transmit queue leaves, and the descriptors that hold it are given back. -/
def State.sendOff (s : State) (p : Nat) (x : TxItem) : State := (s.leaves p x.out).releaseTx p x.descs

theorem sendItem_up (x : TxItem) (hup : s.portUp p = true) (hpause : s.pausing p = false) : s.sendItem p x = s.sendOff p x := by
  unfold State.sendItem
  rw [hup, hpause]
  rfl

theorem sendOff_effect (s : State) (x : TxItem) (hp : p < 6) (mw : Part.wire ∈ P) (mi : Part.ing ∈ P) (m : (pCnt p, 0x16) ∈ R) :
    Effect P R [] s (s.sendOff p x) := (leaves_effect s x.out hp mw m).modPort p _ mi

@[simp] theorem sendOff_wire (s : State) (x : TxItem) : (s.sendOff p x).wire = s.wire ++ [x.out] :=
  State.leaves_wire (p := p) s x.out

theorem leaves_port (s : State) (o : Output) : (s.leaves p o).port q = s.port q := by
  unfold State.leaves
  rw [State.port_set, State.port_emit]

theorem leaves_cfg (s : State) (o : Output) : (s.leaves p o).cfg = s.cfg := by
  unfold State.leaves
  rw [State.set_cfg, State.emit_cfg]

@[simp] theorem sendOff_untx (s : State) (x : TxItem) : ((s.sendOff p x).port q).untx = (s.port q).untx := by
  have released : ((s.sendOff p x).port q).untx = ((s.leaves p x.out).port q).untx := port_modPort_keep Port.untx _ (fun _ => rfl)
  rw [released, leaves_port]

theorem sendOff_sent (s : State) (x : TxItem) (p : Nat) :
    (s.sendOff p x).num (pCnt p) 0x16 = State.countUp 64 (s.num (pCnt p) 0x16) 1 := State.num_set _ _ _ _

theorem sendOff_portUp (s : State) (x : TxItem) : (s.sendOff p x).portUp q = s.portUp q :=
  portUp_count (s.emit x.out) _

theorem sendOff_pausing (s : State) (x : TxItem) : (s.sendOff p x).pausing q = s.pausing q :=
  pausing_congr (leaves_cfg (p := p) s x.out) (State.leaves_raw (p := p) s x.out) (sendOff_untx s x)

/-! ### The queues of a port -/

/-- Frames leave one after the other. -/
def State.sendAll (s : State) (p : Nat) (l : List TxItem) : State := l.foldl (fun u x => u.sendOff p x) s

theorem sendAll_effect (s : State) (l : List TxItem) (hp : p < 6) (mw : Part.wire ∈ P) (mi : Part.ing ∈ P) (m : (pCnt p, 0x16) ∈ R) :
    Effect P R [] s (s.sendAll p l) := Effect.foldl _ l (fun t x _ => sendOff_effect t x hp mw mi m) s

theorem sendAll_wire (s : State) (l : List TxItem) : (s.sendAll p l).wire = s.wire ++ l.map (·.out) := by
  induction l generalizing s with
  | nil => simp [State.sendAll]
  | cons x rest ih =>
    change ((s.sendOff p x).sendAll p rest).wire = _
    rw [ih]
    simp

theorem sendAll_untx (s : State) (l : List TxItem) : ((s.sendAll p l).port q).untx = (s.port q).untx := by
  induction l generalizing s with
  | nil => rfl
  | cons x rest ih => exact (ih _).trans (sendOff_untx s x)

/-- The frames of a port's queues in strict priority, each queue in order (R179). -/
def inPriority (l : List TxItem) : List TxItem := [3, 2, 1, 0].flatMap (fun c => l.filter (fun e => e.cls = c))

theorem drainTx_up (hup : s.portUp p = true) :
    s.drainTx p = (s.modPort p (fun x => { x with txq := [] })).sendAll p (inPriority (s.port p).txq) := by
  unfold State.drainTx
  dsimp only
  rw [State.portUp_modPort, hup]
  rfl

/-- What is left of a port whose queues have been drained. -/
structure Drained (p : Nat) (s u : State) : Prop where
  wire : u.wire = s.wire ++ (inPriority (s.port p).txq).map (·.out)
  port : (u.port p).untx = { (s.port p).untx with txq := [] }

theorem drainTx_drained (hlen : p < s.ing.ports.length) (hup : s.portUp p = true) : Drained p s (s.drainTx p) := by
  rw [drainTx_up hup]
  refine ⟨sendAll_wire _ _, ?_⟩
  rw [sendAll_untx, port_modPort _ hlen]
  rfl

theorem drainTx_effect (hup : s.portUp p = true) (hp : p < 6) (mw : Part.wire ∈ P) (mi : Part.ing ∈ P) (m : (pCnt p, 0x16) ∈ R) :
    Effect P R [] s (s.drainTx p) := by
  rw [drainTx_up hup]
  exact (Effect.start.modPort p _ mi).andQuiet (sendAll_effect _ _ hp mw mi m)

theorem drainTx_num (hup : s.portUp p = true) (hp : p < 6) {b : Nat} (hb : b ≠ 0x16) (hs : b < 256 := by omega) :
    (s.drainTx p).num (pCnt p) b = s.num (pCnt p) b :=
  (drainTx_effect (P := [.wire, .ing]) (R := [(pCnt p, 0x16)]) hup hp (by simp) (by simp) (by simp)).frame.num_low (by simp [hb])
    (by unfold pCnt; omega)

theorem Drained.frame (h : Drained p s u) (k : Frame [] [] u t) : Drained p s t :=
  ⟨by rw [k.wire_keep (by simp), h.wire], by rw [k.port_keep (by simp), h.port]⟩

theorem Drained.txq (h : Drained p s u) : (u.port p).txq = [] := (congrArg Port.txq h.port :)
theorem Drained.pausedUntil (h : Drained p s u) : (u.port p).pausedUntil = (s.port p).pausedUntil := (congrArg Port.pausedUntil h.port :)
theorem Drained.honourSince (h : Drained p s u) : (u.port p).honourSince = (s.port p).honourSince := (congrArg Port.honourSince h.port :)
theorem Drained.ignoreUntil (h : Drained p s u) : (u.port p).ignoreUntil = (s.port p).ignoreUntil := (congrArg Port.ignoreUntil h.port :)

end Sys2Proof.Machine
end

section
/-! Pause, received and sent (R180–R182). -/

namespace Sys2Proof.Machine

set_option Elab.async false

variable {P : List Part} {R : List (Nat × Nat)} {L : List Nat} {s t u : State} {p : Fin 6}

/-! ### Received pause -/

theorem pauseFrame_held {quanta : Nat} (hset : s.settled) (hlen : p.val < s.ing.ports.length) (hon : s.portOn p.val = true)
    (honour : s.cB (pCfg p.val) 0x0C = true) (hq : quanta ≠ 0) :
    Does (.pauseFrameReceive p quanta) s [.ing] [(pCnt p.val, 0x11)] [] (fun t =>
      (t.port p.val).pausedUntil = s.raw + s.quantaTicks p.val quanta) := by
  have hp := p.isLt
  obtain ⟨v, hv⟩ : ∃ v, v = s.set (pCnt p.val) 0x11 0 (.int (State.countUp 32 (s.num (pCnt p.val) 0x11) 1)) := ⟨_, rfl⟩
  have length : p.val < v.ing.ports.length := by simpa [hv] using hlen
  obtain ⟨g, until_, held⟩ : ∃ g : Port → Port, (∀ x, (g x).pausedUntil = s.raw + s.quantaTicks p.val quanta) ∧
      s.pauseReceive p.val quanta = v.modPort p.val g := by
    unfold State.pauseReceive
    rw [hon, honour, State.inc32_eq, ← hv]
    simp only [Bool.not_true, Bool.false_eq_true, if_false, if_neg hq]
    refine ⟨_, ?_, rfl⟩
    exact fun _ => rfl
  refine Does.of_state (f := fun s => s.pauseReceive p.val quanta) rfl hset.raises held ?_ (by simp) (fun t ht => ?_)
  · rw [hv]
    exact (Effect.start.setLow _ _ _ _ (by simp) (by unfold pCnt; omega)).modPort _ _ (by simp)
  · rw [ht.port_keep (by simp), port_modPort g length, until_]

/-- A pause frame of no quanta ends pause, and the queues leave by class. -/
theorem pauseFrame_ends (hset : s.settled) (hlen : p.val < s.ing.ports.length) (hup : s.portUp p.val = true)
    (honour : s.cB (pCfg p.val) 0x0C = true) :
    Does (.pauseFrameReceive p 0) s [.ing, .wire] [(pCnt p.val, 0x11), (pCnt p.val, 0x16)] [] (fun t =>
      (t.port p.val).pausedUntil = 0 ∧ (t.port p.val).txq = [] ∧
      ∃ l, t.wire = s.wire ++ (inPriority (s.port p.val).txq).map (·.out) ++ l) := by
  have hp := p.isLt
  obtain ⟨w, hw⟩ : ∃ w, w = s.set (pCnt p.val) 0x11 0 (.int (State.countUp 32 (s.num (pCnt p.val) 0x11) 1)) := ⟨_, rfl⟩
  obtain ⟨v, hv⟩ : ∃ v, v = w.modPort p.val (fun x => { x with pausedUntil := 0, honourSince := none }) := ⟨_, rfl⟩
  have ends : s.pauseReceive p.val 0 = v.drainTx p.val := by
    unfold State.pauseReceive
    rw [portUp_on hup, honour, State.inc32_eq, ← hw]
    simp only [Bool.not_true, Bool.false_eq_true, if_false, if_true]
    rw [hv]
  have effect : Effect [.ing, .wire] [(pCnt p.val, 0x11), (pCnt p.val, 0x16)] [] s v := by
    rw [hv, hw]
    exact (Effect.start.setLow _ _ _ _ (by simp) (by unfold pCnt; omega)).modPort _ _ (by simp)
  have up : v.portUp p.val = true := by
    rw [hv, State.portUp_modPort, hw, portUp_count, hup]
  have port : v.port p.val = { s.port p.val with pausedUntil := 0, honourSince := none } := by
    rw [hv, port_modPort _ (by simpa [hw] using hlen), hw, State.port_set]
  have length : p.val < v.ing.ports.length := by simpa [hv, hw] using hlen
  have wire : v.wire = s.wire := by simp [hv, hw]
  refine Does.of_state (f := fun s => s.pauseReceive p.val 0) rfl hset.raises ends ?_ (by simp) (fun t ht => ?_)
  · exact effect.andQuiet (drainTx_effect up hp (by simp) (by simp) (by simp))
  · have drained := (drainTx_drained length up).frame ht
    exact ⟨by rw [drained.pausedUntil, port], drained.txq, [], by rw [drained.wire, port, wire]; simp⟩

theorem pauseExpiry_drains (hset : s.settled) (hlen : p.val < s.ing.ports.length) (held : (s.port p.val).honourSince.isSome = true)
    (passed : (s.port p.val).pausedUntil ≤ s.raw) (hup : s.portUp p.val = true) :
    Does (.pauseExpiry p) s [.ing, .wire] [(pCnt p.val, 0x16)] [] (fun t =>
      (t.port p.val).honourSince = none ∧ (t.port p.val).txq = [] ∧
      ∃ l, t.wire = s.wire ++ (inPriority (s.port p.val).txq).map (·.out) ++ l) := by
  have hp := p.isLt
  obtain ⟨v, hv⟩ : ∃ v, v = s.modPort p.val (fun x => { x with honourSince := none }) := ⟨_, rfl⟩
  have ends : s.pauseEnd p.val = v.drainTx p.val := by
    unfold State.pauseEnd
    rw [hv]
    exact if_pos ⟨held, passed⟩
  have effect : Effect [.ing, .wire] [(pCnt p.val, 0x16)] [] s v := by
    rw [hv]
    exact Effect.start.modPort _ _ (by simp)
  have up : v.portUp p.val = true := by rw [hv, State.portUp_modPort, hup]
  have port : v.port p.val = { s.port p.val with honourSince := none } := by rw [hv, port_modPort _ hlen]
  have length : p.val < v.ing.ports.length := by simpa [hv] using hlen
  refine Does.of_state (f := fun s => s.pauseEnd p.val) rfl hset.raises ends ?_ (by simp) (fun t ht => ?_)
  · exact effect.andQuiet (drainTx_effect up hp (by simp) (by simp) (by simp))
  · have drained := (drainTx_drained length up).frame ht
    exact ⟨by rw [drained.honourSince, port], drained.txq, [], by rw [drained.wire, port, hv]; simp⟩

/-! ### Pause honoured for too long -/

/-- The frames of TC0 that wait on a port. -/
def State.lowest (s : State) (p : Nat) : List TxItem := (s.port p).txq.filter (fun e => e.cls = 0)

/-- A port whose pause has lasted for PAUSE_MAX, before its queues leave: TC0 is discarded and counted, and pause is not honoured (R182). -/
def State.breakPause (s : State) (p : Nat) : State :=
  ((((s.releaseTx p ((s.lowest p).flatMap (·.descs))).modPort p (fun x => { x with
      txq := x.txq.filter (fun e => e.cls != 0), honourSince := none
      ignoreUntil := some (s.raw + s.c (pCfg p) 0x0D * tickUs) })).add 64 (pCnt p) 0x13 (s.lowest p).length).inc32
    (pCnt p) 0x12).raiseEvent (8 + 4 * p + 2) p

theorem pauseLimit_breaks {p since : Nat} (held : (s.port p).honourSince = some since) (hpause : s.pausing p = true)
    (long : since + s.c (pCfg p) 0x0D * tickUs ≤ s.raw) : s.pauseLimit p = (s.breakPause p).drainTx p := by
  unfold State.pauseLimit
  rw [held]
  dsimp only
  rw [if_neg (by simp [hpause]; omega)]
  rfl

theorem breakPause_untx {p : Nat} (hlen : p < s.ing.ports.length) :
    ((s.breakPause p).port p).untx = { (s.port p).untx with
      txq := (s.port p).txq.filter (fun e => e.cls != 0), honourSince := none
      ignoreUntil := some (s.raw + s.c (pCfg p) 0x0D * tickUs) } := by
  obtain ⟨v, hv⟩ : ∃ v, v = s.releaseTx p ((s.lowest p).flatMap (·.descs)) := ⟨_, rfl⟩
  have released : (v.port p).untx = (s.port p).untx := by
    rw [hv]
    exact port_modPort_keep Port.untx _ (fun _ => rfl)
  have length : p < v.ing.ports.length := by simpa [hv, State.releaseTx, State.modPort, modNth] using hlen
  unfold State.breakPause
  rw [← hv]
  simp only [State.add_eq, State.inc32_eq, State.port_raiseEvent, State.port_set]
  rw [port_modPort _ length]
  have queue : (v.port p).txq = (s.port p).txq := (congrArg Port.txq released :)
  unfold Port.untx at *
  simp only [Port.mk.injEq] at *
  simp [released]

theorem breakPause_effect (s : State) {p : Nat} (hp : p < 6) (mi : Part.ing ∈ P) (h2 : (pCnt p, 0x12) ∈ R) (h3 : (pCnt p, 0x13) ∈ R) :
    Effect P R [8 + 4 * p + 2] s (s.breakPause p) := by
  have low : pCnt p < 0x6201 := by unfold pCnt; omega
  unfold State.breakPause
  rw [State.inc32_eq, State.add_eq]
  exact (((((Effect.start.modPort p _ mi).modPort p _ mi).setLow _ _ _ _ h3 low).setLow _ _ _ _ h2 low).raise _ _)

theorem breakPause_portUp (s : State) {p : Nat} (hp : p < 6) : (s.breakPause p).portUp p = s.portUp p := by
  refine ((breakPause_effect (P := [.ing]) (R := [(pCnt p, 0x12), (pCnt p, 0x13)]) s hp (by simp) (by simp) (by simp)).frame.sameLine hp
    (by simp) (by simp) ?_).portUp
  simp [lineRegisters, pCnt, pCfg]

theorem pauseLimit_does {since : Nat} (hset : s.settled) (hlen : p.val < s.ing.ports.length)
    (held : (s.port p.val).honourSince = some since) (hpause : s.pausing p.val = true)
    (long : since + s.c (pCfg p.val) 0x0D * tickUs ≤ s.raw) (hup : s.portUp p.val = true) :
    Does (.pauseLimit p) s [.ing, .wire] [(pCnt p.val, 0x12), (pCnt p.val, 0x13), (pCnt p.val, 0x16)] [8 + 4 * p.val + 2] (fun t =>
      t.num (pCnt p.val) 0x13 = State.countUp 64 (s.num (pCnt p.val) 0x13) ((s.port p.val).txq.filter (fun e => e.cls = 0)).length ∧
      t.num (pCnt p.val) 0x12 = State.countUp 32 (s.num (pCnt p.val) 0x12) 1 ∧ (t.port p.val).txq = [] ∧
      (t.port p.val).ignoreUntil = some (s.raw + s.c (pCfg p.val) 0x0D * tickUs) ∧
      ∃ l, t.wire = s.wire ++ (inPriority ((s.port p.val).txq.filter (fun e => e.cls != 0))).map (·.out) ++ l) := by
  have hp := p.isLt
  have breaks := pauseLimit_breaks held hpause long
  have untx := breakPause_untx hlen
  have up : (s.breakPause p.val).portUp p.val = true := by rw [breakPause_portUp s hp, hup]
  have length : p.val < (s.breakPause p.val).ing.ports.length := by
    simpa [State.breakPause, State.releaseTx, State.modPort, modNth] using hlen
  have queue : ((s.breakPause p.val).port p.val).txq = (s.port p.val).txq.filter (fun e => e.cls != 0) := (congrArg Port.txq untx :)
  have ignored : ((s.breakPause p.val).port p.val).ignoreUntil = some (s.raw + s.c (pCfg p.val) 0x0D * tickUs) :=
    (congrArg Port.ignoreUntil untx :)
  refine Does.of_state (f := fun s => s.pauseLimit p.val) rfl hset.raises breaks ?_ (by simp; omega) (fun t ht => ?_)
  · exact (breakPause_effect s hp (by simp) (by simp) (by simp)).andQuiet (drainTx_effect up hp (by simp) (by simp) (by simp))
  · have drained := (drainTx_drained length up).frame ht
    have counted : ∀ b, b < 256 → b ≠ 0x16 → t.num (pCnt p.val) b = (s.breakPause p.val).num (pCnt p.val) b := fun b hb hne => by
      rw [ht.num_low (by simp) (by unfold pCnt; omega), drainTx_num up hp hne]
    refine ⟨?_, ?_, drained.txq, by rw [drained.ignoreUntil, ignored], [], by rw [drained.wire, queue]; simp [State.breakPause]; rfl⟩
    · rw [counted _ (by omega) (by omega)]
      simp [State.breakPause, State.num_set_if, State.releaseTx, State.lowest]
    · rw [counted _ (by omega) (by omega)]
      simp [State.breakPause, State.num_set_if, State.releaseTx]

theorem pauseLimitEnd_does {until_ : Nat} (hset : s.settled) (hlen : p.val < s.ing.ports.length)
    (ignored : (s.port p.val).ignoreUntil = some until_) (passed : until_ ≤ s.raw) :
    Does (.pauseLimitEnd p) s [.ing] [] [] (fun t => (t.port p.val).ignoreUntil = none ∧
      (t.port p.val).honourSince = if s.raw < (s.port p.val).pausedUntil then some s.raw else none) := by
  have ends : s.pauseLimitEnd p.val = s.modPort p.val (fun x => { x with
      ignoreUntil := none, honourSince := if s.raw < x.pausedUntil then some s.raw else none }) := by
    unfold State.pauseLimitEnd
    rw [ignored]
    exact if_neg (by omega)
  refine Does.of_state (f := fun s => s.pauseLimitEnd p.val) rfl hset.raises ends ?_ (by simp) (fun t ht => ?_)
  · exact Effect.start.modPort _ _ (by simp)
  · rw [ht.port_keep (by simp), port_modPort _ hlen]
    exact ⟨rfl, rfl⟩

/-! ### The port's own pause frame -/

/-- The pause frame of a port (R180). -/
def pauseFrame (s : State) (p quanta : Nat) : List Byte :=
  [0x01, 0x80, 0xC2, 0x00, 0x00, 0x01] ++ macOf (s.homePort p) ++ [0x88, 0x08, 0x00, 0x01] ++ beBytes 2 quanta ++ List.replicate 42 0

/-- A pause frame leaves, counts in PAUSE_TX and sets the time of the next. -/
def State.pauses (s : State) (p quanta : Nat) : State :=
  ((s.emit (.frame p (pauseFrame s p quanta))).inc32 (pCnt p) 0x10).modPort p (fun x => { x with pauseTick := s.raw })

theorem sendPause_up {p : Nat} (quanta : Nat) (hup : s.portUp p = true) : s.sendPause p quanta = s.pauses p quanta := by
  unfold State.sendPause
  rw [hup]
  rfl

theorem pauses_effect (s : State) {p : Nat} (quanta : Nat) (hp : p < 6) (mw : Part.wire ∈ P) (mi : Part.ing ∈ P)
    (m : (pCnt p, 0x10) ∈ R) : Effect P R [] s (s.pauses p quanta) := by
  unfold State.pauses
  rw [State.inc32_eq]
  exact ((Effect.start.emit _ mw).setLow _ _ _ _ m (by unfold pCnt; omega)).modPort p _ mi

theorem pauses_wire (s : State) (p quanta : Nat) : (s.pauses p quanta).wire = s.wire ++ [.frame p (pauseFrame s p quanta)] := by
  unfold State.pauses
  rw [State.inc32_eq, State.wire_modPort, State.set_wire, State.emit_wire]

theorem pauses_tick {p : Nat} (quanta : Nat) (hlen : p < s.ing.ports.length) : ((s.pauses p quanta).port p).pauseTick = s.raw := by
  unfold State.pauses
  rw [State.inc32_eq, port_modPort _ (by simpa using hlen)]

theorem pauseRepeat_does (hset : s.settled) (hlen : p.val < s.ing.ports.length) (on : (s.port p.val).pauseOn = true)
    (sends : s.cB (pCfg p.val) 0x0A = true) (high : s.atLow p.val = false) (hup : s.portUp p.val = true)
    (due : (s.port p.val).pauseTick + s.quantaTicks p.val (s.c (pCfg p.val) 0x0B) / 2 ≤ s.raw) :
    Does (.pauseRepeat p) s [.ing, .wire] [(pCnt p.val, 0x10)] [] (fun t => (t.port p.val).pauseTick = s.raw ∧
      ∃ l, t.wire = s.wire ++ .frame p.val (pauseFrame s p.val (s.c (pCfg p.val) 0x0B)) :: l) := by
  have repeats : s.pauseRepeat p.val = s.pauses p.val (s.c (pCfg p.val) 0x0B) := by
    rw [← sendPause_up _ hup]
    exact if_pos ⟨on, sends, by simp [high], due⟩
  refine Does.of_state (f := fun s => s.pauseRepeat p.val) rfl hset.raises repeats ?_ (by simp) (fun t ht => ?_)
  · exact pauses_effect s _ p.isLt (by simp) (by simp) (by simp)
  · rw [ht.port_keep (by simp), ht.wire_keep (by simp), pauses_wire]
    exact ⟨pauses_tick _ hlen, [], rfl⟩

end Sys2Proof.Machine
end

section
/-! Frames that the management core posts, and frames on both ports of a pair (R186, R207). -/

namespace Sys2Proof.Machine

set_option Elab.async false

variable {P : List Part} {R : List (Nat × Nat)} {L : List Nat} {s t u : State} {n : Nat}

/-! ### Descriptors -/

theorem txDescriptors_length (p cls size first : Nat) (f : List Byte) :
    (State.txDescriptors p cls size first f).length = State.descriptorsFor f.length := by
  simp [State.txDescriptors, State.ringPositions]

/-- A frame's descriptors are filled in the transmit ring of a port (R205). -/
def State.fillTx (s : State) (p : Nat) (d : List (Nat × Descriptor)) : State :=
  s.modPort p (fun x => { x with tx := x.tx ++ d, txNext := (x.txNext + d.length) % s.c (pCfg p) 0x0F })

theorem fillTx_port {p : Nat} (d : List (Nat × Descriptor)) (hlen : p < s.ing.ports.length) :
    (s.fillTx p d).port p = { s.port p with
      tx := (s.port p).tx ++ d, txNext := ((s.port p).txNext + d.length) % s.c (pCfg p) 0x0F } := port_modPort _ hlen

theorem fillTx_pausing (s : State) (p q : Nat) (d : List (Nat × Descriptor)) : (s.fillTx p d).pausing q = s.pausing q := by
  have until_ : ((s.fillTx p d).port q).pausedUntil = (s.port q).pausedUntil := port_modPort_keep Port.pausedUntil _ (fun _ => rfl)
  have ignored : ((s.fillTx p d).port q).ignoreUntil = (s.port q).ignoreUntil := port_modPort_keep Port.ignoreUntil _ (fun _ => rfl)
  unfold State.pausing
  rw [until_, ignored]
  rfl

/-! ### What the management core posts -/

theorem txPost_stopped {p cls : Nat} {what : Option (List Byte)} (h : s.started = false ∨ s.quiet = true ∨ s.boot.paused = true) :
    s.txPost p cls what = s := by
  unfold State.txPost
  exact if_pos (by simpa using h)

/-- The management core runs. -/
structure CoreRuns (s : State) : Prop where
  started : s.started = true
  awake : s.quiet = false
  unpaused : s.boot.paused = false

theorem CoreRuns.not_stopped (h : CoreRuns s) : ¬(!s.started ∨ s.quiet ∨ s.boot.paused) := by
  simp [h.started, h.awake, h.unpaused]

theorem CoreRuns.txPost_frame (h : CoreRuns s) (p cls : Nat) (frame : List Byte) :
    s.txPost p cls (some frame) =
      if frame.length < 14 ∨ !s.txRingRoom p (s.mgmtTagged p frame).length then s else s.postFrame p cls frame := by
  unfold State.txPost
  rw [if_neg h.not_stopped]

/-- The oldest waiting PDU of a port leaves the Almanac server. -/
def State.takeUdp (s : State) (p : Nat) : State :=
  s.modAlm (fun a => { a with udpTx := State.withoutFirst (fun y => y.1.port.val = p) a.udpTx })

theorem CoreRuns.txPost_pdu (h : CoreRuns s) {p : Nat} (cls : Nat) {x : UdpPeer × Pdu × Option (List Byte)}
    (first : s.alm.udpTx.find? (fun y => y.1.port.val = p) = some x)
    (room : s.txRingRoom p (s.mgmtTagged p (s.pduFrame x)).length = true) :
    s.txPost p cls none = (s.takeUdp p).postFrame p 0 (s.pduFrame x) := by
  unfold State.txPost
  rw [if_neg h.not_stopped]
  simp only [first, room, Bool.not_true, Bool.false_eq_true, if_false]
  rfl

theorem CoreRuns.txPost_idle (h : CoreRuns s) {p : Nat} (cls : Nat) (none_ : s.alm.udpTx.find? (fun y => y.1.port.val = p) = none) :
    s.txPost p cls none = s := by
  unfold State.txPost
  rw [if_neg h.not_stopped]
  simp only [none_]

/-- A frame that the management core posts on a port with room in its transmit ring: as it is tagged, its descriptors, and the ring
position after them. -/
structure Posts (s : State) (p cls : Nat) (frame f : List Byte) (d : List (Nat × Descriptor)) (next : Nat) : Prop where
  runs : CoreRuns s
  header : 14 ≤ frame.length
  tagged : f = s.mgmtTagged p frame
  room : s.txRingRoom p f.length = true
  descs : d = State.txDescriptors p cls (s.c (pCfg p) 0x0F) (s.port p).txNext f
  next : next = ((s.port p).txNext + State.descriptorsFor f.length) % s.c (pCfg p) 0x0F

theorem postFrame_eq {p cls : Nat} {frame f : List Byte} {d : List (Nat × Descriptor)} (hf : f = s.mgmtTagged p frame)
    (hd : d = State.txDescriptors p cls (s.c (pCfg p) 0x0F) (s.port p).txNext f) :
    s.postFrame p cls frame = (s.fillTx p d).originateFrom p cls (d.map (·.1)) f := by
  rw [hd, hf]
  rfl

section Post

variable {p cls next : Nat} {frame f : List Byte} {d : List (Nat × Descriptor)}

theorem Posts.post (h : Posts s p cls frame f d next) : s.txPost p cls (some frame) = (s.fillTx p d).originateFrom p cls (d.map (·.1)) f := by
  have header := h.header
  rw [h.runs.txPost_frame, ← postFrame_eq h.tagged h.descs, if_neg]
  rw [← h.tagged, h.room]
  simpa using header

theorem Posts.filled (h : Posts s p cls frame f d next) (hlen : p < s.ing.ports.length) :
    (s.fillTx p d).port p = { s.port p with tx := (s.port p).tx ++ d, txNext := next } := by
  rw [fillTx_port _ hlen, h.next, h.descs, txDescriptors_length]

end Post

/-! ### A port that is part of no pair -/

theorem originateFrom_single {p : Nat} (h : s.prpPairOf p = none) (cls : Nat) (descs : List Nat) (f : List Byte) :
    s.originateFrom p cls descs f = s.sendItem p ⟨cls, .frame p (padded f), descs⟩ := by
  unfold State.originateFrom
  rw [h]

theorem sendItem_down {p : Nat} (x : TxItem) (hup : s.portUp p = false) : s.sendItem p x = s.releaseTx p x.descs := by
  unfold State.sendItem
  rw [hup]
  rfl

theorem sendItem_pausing {p : Nat} (x : TxItem) (hup : s.portUp p = true) (hpause : s.pausing p = true) :
    s.sendItem p x = s.modPort p (fun y => { y with txq := y.txq ++ [x] }) := by
  unfold State.sendItem
  rw [hup, hpause]
  rfl

section Single

variable {p : Fin 6} {cls : Fin 4} {frame f : List Byte} {d : List (Nat × Descriptor)} {next : Nat}

theorem Posts.single (h : Posts s p.val cls.val frame f d next) (alone : s.prpPairOf p.val = none) :
    s.txPost p.val cls.val (some frame) = (s.fillTx p.val d).sendItem p.val ⟨cls.val, .frame p.val (padded f), d.map (·.1)⟩ := by
  rw [h.post, originateFrom_single (by exact alone)]

theorem Posts.down (h : Posts s p.val cls.val frame f d next) (hset : s.settled) (hlen : p.val < s.ing.ports.length)
    (alone : s.prpPairOf p.val = none) (hup : s.portUp p.val = false) :
    Does (.txDescriptorPost p cls (some frame)) s [.ing] [] [] (fun t =>
      (t.port p.val).txq = (s.port p.val).txq ∧ (t.port p.val).txNext = next) := by
  have post : s.txPost p.val cls.val (some frame) = (s.fillTx p.val d).releaseTx p.val (d.map (·.1)) := by
    rw [h.single alone, sendItem_down _ (by exact hup)]
  refine Does.of_state (f := fun s => s.txPost p.val cls.val (some frame)) rfl hset.raises post ?_ (by simp) (fun t ht => ?_)
  · exact (Effect.start.modPort _ _ (by simp)).modPort _ _ (by simp)
  · rw [ht.port_keep (by simp), State.releaseTx, port_modPort _ (by simpa [State.fillTx] using hlen), h.filled hlen]
    exact ⟨rfl, rfl⟩

theorem Posts.up (h : Posts s p.val cls.val frame f d next) (hset : s.settled) (hlen : p.val < s.ing.ports.length)
    (alone : s.prpPairOf p.val = none) (hup : s.portUp p.val = true) (hpause : s.pausing p.val = false) :
    Does (.txDescriptorPost p cls (some frame)) s [.ing, .wire] [(pCnt p.val, 0x16)] [] (fun t =>
      (∃ l, t.wire = s.wire ++ .frame p.val (padded f) :: l) ∧ (t.port p.val).txNext = next ∧
      t.num (pCnt p.val) 0x16 = State.countUp 64 (s.num (pCnt p.val) 0x16) 1) := by
  have hp := p.isLt
  have post : s.txPost p.val cls.val (some frame) =
      (s.fillTx p.val d).sendOff p.val ⟨cls.val, .frame p.val (padded f), d.map (·.1)⟩ := by
    rw [h.single alone, sendItem_up _ (by exact hup) (by rw [fillTx_pausing, hpause])]
  refine Does.of_state (f := fun s => s.txPost p.val cls.val (some frame)) rfl hset.raises post ?_ (by simp) (fun t ht => ?_)
  · exact (Effect.start.modPort _ _ (by simp)).andQuiet (sendOff_effect _ _ hp (by simp) (by simp) (by simp))
  · refine ⟨⟨[], ?_⟩, ?_, ?_⟩
    · rw [ht.wire_keep (by simp), sendOff_wire]
      rfl
    · have kept := congrArg Port.txNext (sendOff_untx (p := p.val) (q := p.val) (s.fillTx p.val d)
        ⟨cls.val, .frame p.val (padded f), d.map (·.1)⟩)
      rw [ht.port_keep (by simp)]
      exact kept.trans (by rw [h.filled hlen]; rfl)
    · rw [ht.num_low (by simp) (by unfold pCnt; omega), sendOff_sent]
      rfl

theorem Posts.held (h : Posts s p.val cls.val frame f d next) (hset : s.settled) (hlen : p.val < s.ing.ports.length)
    (alone : s.prpPairOf p.val = none) (hup : s.portUp p.val = true) (hpause : s.pausing p.val = true) :
    Does (.txDescriptorPost p cls (some frame)) s [.ing] [] [] (fun t =>
      (t.port p.val).txq = (s.port p.val).txq ++ [⟨cls.val, .frame p.val (padded f), d.map (·.1)⟩] ∧
      (t.port p.val).tx = (s.port p.val).tx ++ d ∧ (t.port p.val).txNext = next) := by
  have post := (h.single alone).trans (sendItem_pausing _ (by exact hup) (by rw [fillTx_pausing, hpause]))
  refine Does.of_state (f := fun s => s.txPost p.val cls.val (some frame)) rfl hset.raises post ?_ (by simp) (fun t ht => ?_)
  · exact (Effect.start.modPort _ _ (by simp)).modPort _ _ (by simp)
  · rw [ht.port_keep (by simp), port_modPort _ (by simpa [State.fillTx] using hlen), h.filled hlen]
    exact ⟨rfl, rfl, rfl⟩

/-- The oldest waiting PDU of a port leaves in its datagram. -/
theorem udpPost_reaches {y : UdpPeer × Pdu × Option (List Byte)} (hset : s.settled) (runs : CoreRuns s)
    (first : s.alm.udpTx.find? (fun z => z.1.port.val = p.val) = some y)
    (room : s.txRingRoom p.val (s.mgmtTagged p.val (s.pduFrame y)).length = true) (alone : s.prpPairOf p.val = none)
    (hup : s.portUp p.val = true) (hpause : s.pausing p.val = false) :
    Reaches (.txDescriptorPost p cls none) s (fun t =>
      (∃ l, t.wire = s.wire ++ .frame p.val (padded (s.mgmtTagged p.val (s.pduFrame y))) :: l) ∧
      ∃ l, t.alm.udpTx = State.withoutFirst (fun z => z.1.port.val = p.val) s.alm.udpTx ++ l) := by
  have hp := p.isLt
  obtain ⟨d, hd⟩ : ∃ d, d = State.txDescriptors p.val 0 ((s.takeUdp p.val).c (pCfg p.val) 0x0F) ((s.takeUdp p.val).port p.val).txNext
      (s.mgmtTagged p.val (s.pduFrame y)) := ⟨_, rfl⟩
  have post : s.txPost p.val cls.val none = ((s.takeUdp p.val).fillTx p.val d).sendOff p.val
      ⟨0, .frame p.val (padded (s.mgmtTagged p.val (s.pduFrame y))), d.map (·.1)⟩ := by
    rw [runs.txPost_pdu _ first room, postFrame_eq (s := s.takeUdp p.val) rfl hd, originateFrom_single (by exact alone),
      sendItem_up _ (by exact hup) (by rw [fillTx_pausing]; exact hpause)]
    rfl
  have effect : Effect [.ing, .wire, .alm] [(pCnt p.val, 0x16)] [] s (s.txPost p.val cls.val none) := by
    rw [post]
    exact ((Effect.start.modAlm _ (by simp)).modPort _ _ (by simp)).andQuiet (sendOff_effect _ _ hp (by simp) (by simp) (by simp))
  refine Reaches.of_does (Does.of_effect (f := fun s => s.txPost p.val cls.val none) rfl hset.raises effect (by simp) (fun t ht _ => ?_))
  rw [post] at ht
  obtain ⟨l, waiting, -⟩ := (ht.part .alm).2.udp
  exact ⟨⟨[], by rw [ht.wire_keep (by simp), sendOff_wire]; rfl⟩, l, waiting⟩

end Single

/-! ### Both ports of a pair -/

theorem prpPairOf_bounds {p : Nat} (h : s.prpPairOf p = some n) : n < 2 ∧ (p = 2 * n ∨ p = 2 * n + 1) := by
  unfold State.prpPairOf at h
  split at h
  · cases h
    omega
  · cases h

/-- The frame that one port of a pair sends: with the RCT of its LAN. -/
def twin (n k seq cls : Nat) (descs : List Nat) (f : List Byte) : TxItem :=
  ⟨cls, .frame (2 * n + k) (withRct (0xA + k) seq f), descs⟩

/-- A frame on both ports of a pair, with an RCT of one sequence number (R186). -/
def State.sendTwice (s : State) (n : Nat) (x y : TxItem) : State := ((s.takeRctSeq n).sendOff (2 * n) x).sendOff (2 * n + 1) y

/-- A pair whose two ports have a line and honour no pause. -/
def PairUp (s : State) (n : Nat) : Prop := ∀ k, k < 2 → s.portUp (2 * n + k) = true ∧ s.pausing (2 * n + k) = false

theorem originateFrom_pair {p : Nat} (h : s.prpPairOf p = some n) (up : PairUp s n) (cls : Nat) (descs : List Nat) (f : List Byte) :
    ∃ d e, s.originateFrom p cls descs f = s.sendTwice n (twin n 0 (s.rctSeq n) cls d f) (twin n 1 (s.rctSeq n) cls e f) := by
  have bounds := prpPairOf_bounds h
  obtain ⟨up0, pause0⟩ := up 0 (by omega)
  obtain ⟨up1, pause1⟩ := up 1 (by omega)
  have even : 2 * n % 2 = 0 := by omega
  have odd : (2 * n + 1) % 2 ≠ 0 := by omega
  refine ⟨if 2 * n = p then descs else [], if 2 * n + 1 = p then descs else [], ?_⟩
  unfold State.originateFrom
  rw [h]
  simp only [List.foldl_cons, List.foldl_nil, if_pos even, if_neg odd]
  rw [sendItem_up (s := s.takeRctSeq n) (p := 2 * n) _ up0 pause0,
    sendItem_up _ (by rw [sendOff_portUp]; exact up1) (by rw [sendOff_pausing]; exact pause1)]
  rfl

theorem sendTwice_effect (s : State) (x y : TxItem) (hn : n < 2) (mw : Part.wire ∈ P) (mi : Part.ing ∈ P)
    (m0 : (pCnt (2 * n), 0x16) ∈ R) (m1 : (pCnt (2 * n + 1), 0x16) ∈ R) : Effect P R [] s (s.sendTwice n x y) :=
  ((Effect.start.modIng _ mi).andQuiet (sendOff_effect _ x (by omega) mw mi m0)).andQuiet (sendOff_effect _ y (by omega) mw mi m1)

theorem sendTwice_wire (s : State) (x y : TxItem) : (s.sendTwice n x y).wire = s.wire ++ [x.out, y.out] := by
  unfold State.sendTwice
  rw [sendOff_wire, sendOff_wire, List.append_assoc]
  rfl

theorem Posts.pair {p : Fin 6} {cls : Fin 4} {frame f : List Byte} {d : List (Nat × Descriptor)} {next : Nat}
    (h : Posts s p.val cls.val frame f d next) (hset : s.settled) (paired : s.prpPairOf p.val = some n) (up : PairUp s n) :
    Does (.txDescriptorPost p cls (some frame)) s [.ing, .wire] [(pCnt (2 * n), 0x16), (pCnt (2 * n + 1), 0x16)] [] (fun t =>
      ∃ l, t.wire = s.wire ++
        [Output.frame (2 * n) (withRct 0xA (s.rctSeq n) f), Output.frame (2 * n + 1) (withRct 0xB (s.rctSeq n) f)] ++ l) := by
  have hn := (prpPairOf_bounds paired).1
  have up' : PairUp (s.fillTx p.val d) n := fun k hk => ⟨(up k hk).1, by rw [fillTx_pausing]; exact (up k hk).2⟩
  obtain ⟨a, b, post⟩ := originateFrom_pair (by exact paired) up' cls.val (d.map (·.1)) f
  rw [← h.post] at post
  refine Does.of_state (f := fun s => s.txPost p.val cls.val (some frame)) rfl hset.raises post ?_ (by simp) (fun t ht => ?_)
  · exact (Effect.start.modPort _ _ (by simp)).andQuiet (sendTwice_effect _ _ _ hn (by simp) (by simp) (by simp) (by simp))
  · exact ⟨[], by rw [ht.wire_keep (by simp), sendTwice_wire, List.append_nil]; rfl⟩

end Sys2Proof.Machine
end

section
/-! Link changes, the reports and requests that follow a link, and PRP's table and supervision (R185, R186, R214). -/

namespace Sys2Proof.Machine

set_option Elab.async false

variable {P : List Part} {R : List (Nat × Nat)} {L : List Nat} {s t u : State} {n : Nat}

/-! ### What the management core sends when a link is there -/

theorem Sends.reportGroups (h : Sends s u) {p : Nat} (hp : p < 6) (groups : List (List Byte)) : Sends s (u.reportGroups p groups) := by
  have packet : ∀ {t : State} (_ : Sends s t) (a : List Byte) (k : Nat × List Byte), Sends s (t.sendPacket p a k) :=
    fun h => h.sendPacket hp
  have v4 : ∀ (q : Prop) [Decidable q] (a : List Byte) (k : Nat × List Byte), Sends s (if q then u else u.sendPacket p a k) :=
    fun q _ a k => Effect.ite h (packet h a k)
  unfold State.reportGroups
  exact Effect.ite (v4 _ _ _) (packet (v4 _ _ _) _ _)

theorem reportGroups_none (s : State) (p : Nat) : s.reportGroups p [] = s := (rfl)

theorem Sends.askWanted (h : Sends s u) : Sends s u.askWanted :=
  Sends.foldl _ _ (fun t x _ => Effect.ite (askConfig_sends t x.1) (Sends.refl t)) h

theorem askWanted_none (h : ∀ y ∈ s.ing.streams, y.2.wanted = false) : s.askWanted = s := by
  have none_ : s.ing.streams.filter (fun (y : Nat × Stream) => y.2.wanted) = [] :=
    List.filter_eq_nil_iff.mpr (fun y hy => by simp [h y hy])
  unfold State.askWanted
  rw [none_]
  rfl

/-! ### Link changes -/

/-- LINK and SPEED of a port, and the event of a change of LINK. -/
def State.setLink (s : State) (p : Nat) (up : Bool) (speed : Nat) : State :=
  ((s.setN (pCfg p) 0x11 (if up then speed else 0)).setB (pCfg p) 0x10 up).raiseEvent (8 + 4 * p) p

/-- The registers of a link. -/
def linkRegisters (p : Nat) : List (Nat × Nat) := [(pCfg p, 0x10), (pCfg p, 0x11)]

section Link

variable {p speed : Nat} {up : Bool}

theorem linkChange_off (h : s.portOn p = false ∨ s.serdesOn p = false) : s.linkChange p up speed = s := by
  unfold State.linkChange
  exact if_pos (by simpa using h)

theorem linkChange_same (on : s.portOn p = true) (powered : s.serdesOn p = true) (h : s.flag (pCfg p) 0x10 = up) :
    s.linkChange p up speed = s.setN (pCfg p) 0x11 (if up then speed else 0) := by
  unfold State.linkChange
  rw [if_neg (by simp [on, powered])]
  exact if_pos h

theorem setLink_cfg (s : State) : (s.setLink p up speed).cfg = s.cfg := by
  unfold State.setLink
  rw [State.raiseEvent_cfg, State.setB_eq, State.setN_eq, State.set_cfg, State.set_cfg]

theorem setLink_ing (s : State) : (s.setLink p up speed).ing = s.ing := by
  unfold State.setLink
  rw [State.raiseEvent_ing, State.setB_eq, State.setN_eq, State.set_ing, State.set_ing]

theorem linkChange_changed (on : s.portOn p = true) (powered : s.serdesOn p = true) (h : s.flag (pCfg p) 0x10 ≠ up) :
    s.linkChange p up speed = if up then ((s.setLink p up speed).reportGroups p (s.contextGroups p)).askWanted else s.setLink p up speed := by
  have groups : (s.setLink p up speed).contextGroups p = s.contextGroups p := contextGroups_congr (setLink_cfg s) p
  unfold State.linkChange
  rw [if_neg (by simp [on, powered]), if_neg h, ← groups]
  rfl

theorem setLink_effect (s : State) (hp : p < 6) (hr : ∀ r ∈ linkRegisters p, r ∈ R) : Effect P R [8 + 4 * p] s (s.setLink p up speed) := by
  have low : pCfg p < 0x6201 := by unfold pCfg; omega
  exact ((Effect.start.setLow _ _ _ _ (hr _ (by simp [linkRegisters])) low).setLow _ _ _ _ (hr _ (by simp [linkRegisters])) low).raise _ _

theorem setLink_flag (s : State) : (s.setLink p up speed).flag (pCfg p) 0x10 = up := by
  unfold State.setLink State.flag
  cases up <;> simp [State.num_set_if, vBool]

theorem setLink_speed (s : State) : (s.setLink p up speed).num (pCfg p) 0x11 = if up then speed else 0 := by
  unfold State.setLink
  cases up <;> simp [State.num_set_if, vBool]

/-- With no group to report and nothing that waits to be asked, a change of LINK sends nothing. -/
theorem linkChange_quiet (on : s.portOn p = true) (powered : s.serdesOn p = true) (h : s.flag (pCfg p) 0x10 ≠ up)
    (idle : up = false ∨ s.contextGroups p = [] ∧ ∀ y ∈ s.ing.streams, y.2.wanted = false) :
    s.linkChange p up speed = s.setLink p up speed := by
  rw [linkChange_changed on powered h]
  rcases idle with rfl | ⟨groups, wanted⟩
  · rfl
  · rw [groups, reportGroups_none, askWanted_none (by rw [setLink_ing]; exact wanted), ite_self]

/-- A change of LINK, and the frames that follow it. -/
theorem linkChange_sends (on : s.portOn p = true) (powered : s.serdesOn p = true) (hp : p < 6) (h : s.flag (pCfg p) 0x10 ≠ up) :
    Sends (s.setLink p up speed) (s.linkChange p up speed) := by
  rw [linkChange_changed on powered h]
  exact Effect.ite (((Sends.refl _).reportGroups hp _).askWanted) (Sends.refl _)

theorem linkChange_effect (on : s.portOn p = true) (powered : s.serdesOn p = true) (hp : p < 6) :
    Effect sendParts (linkRegisters p ++ sendRegisters) (if s.flag (pCfg p) 0x10 = up then [] else [8 + 4 * p]) s
      (s.linkChange p up speed) := by
  by_cases h : s.flag (pCfg p) 0x10 = up
  · rw [if_pos h, linkChange_same on powered h]
    exact Effect.start.setLow _ _ _ _ (by simp [linkRegisters]) (by unfold pCfg; omega)
  · rw [if_neg h]
    exact (setLink_effect s hp (fun r hr => List.mem_append_left _ hr)).andQuiet
      (Effect.mono (linkChange_sends on powered hp h) (fun _ hq => hq) (fun r hr => List.mem_append_right _ hr))

/-- The registers of a link are none that sending a frame writes. -/
theorem link_not_sent {b : Nat} : (pCfg p, b) ∉ sendRegisters := by
  intro h
  obtain ⟨q, -, e⟩ := List.mem_map.mp h
  have := congrArg Prod.fst e
  unfold pCnt pCfg at this
  dsimp only at this
  omega

theorem linkChange_registers (on : s.portOn p = true) (powered : s.serdesOn p = true) (hp : p < 6) :
    (s.linkChange p up speed).flag (pCfg p) 0x10 = up ∧ (s.linkChange p up speed).num (pCfg p) 0x11 = if up then speed else 0 := by
  by_cases h : s.flag (pCfg p) 0x10 = up
  · rw [linkChange_same on powered h, State.setN_eq]
    exact ⟨by rw [← h, State.flag, State.flag, State.num_set_ne _ _ (by omega) (by omega) (by omega) (by omega)],
      by rw [State.num_set]⟩
  · have sent := (linkChange_sends (speed := speed) on powered hp h).frame
    have low : pCfg p < 0x6201 := by unfold pCfg; omega
    rw [sent.flag_low link_not_sent low, sent.num_low link_not_sent low]
    exact ⟨setLink_flag s, setLink_speed s⟩

end Link

theorem linkChange_reaches {p : Fin 6} (hset : s.settled) (on : s.portOn p.val = true) (powered : s.serdesOn p.val = true) (up : Bool)
    (speed : Nat) : Reaches (.portLinkChange p up speed) s (fun t =>
      t.flag (pCfg p.val) 0x10 = up ∧ t.num (pCfg p.val) 0x11 = if up then speed else 0) := by
  have hp := p.isLt
  obtain ⟨link, rate⟩ := linkChange_registers (up := up) (speed := speed) on powered hp
  refine Reaches.of_does (Does.of_effect (f := fun s => s.linkChange p.val up speed) rfl hset.raises (linkChange_effect on powered hp)
    ?_ (fun t ht _ => ?_))
  · split <;> simp
    omega
  · have low : pCfg p.val < 0x6201 := by unfold pCfg; omega
    exact ⟨(ht.flag_low (by simp) low).trans link, (ht.num_low (by simp) low).trans rate⟩

theorem linkChange_does {p : Fin 6} {up : Bool} {speed : Nat} (hset : s.settled) (on : s.portOn p.val = true)
    (powered : s.serdesOn p.val = true)
    (idle : up = false ∨ s.flag (pCfg p.val) 0x10 = up ∨ s.contextGroups p.val = [] ∧ ∀ y ∈ s.ing.streams, y.2.wanted = false) :
    Does (.portLinkChange p up speed) s [] [(pCfg p.val, 0x10), (pCfg p.val, 0x11)]
      (if s.flag (pCfg p.val) 0x10 = up then [] else [8 + 4 * p.val]) (fun _ => True) := by
  have hp := p.isLt
  refine Does.of_effect (f := fun s => s.linkChange p.val up speed) rfl hset.raises ?_ ?_ (fun t _ _ => trivial)
  · by_cases h : s.flag (pCfg p.val) 0x10 = up
    · rw [if_pos h, linkChange_same on powered h]
      exact Effect.start.setLow _ _ _ _ (by simp) (by unfold pCfg; omega)
    · rw [if_neg h, linkChange_quiet on powered h (by tauto)]
      exact setLink_effect s hp (fun r hr => hr)
  · split <;> simp
    omega

/-! ### The table of a pair -/

theorem prpForget_does {n : Fin 2} (hset : s.settled) (hlen : n.val < s.ing.pairs.length) (source : List Byte) :
    Does (.prpEntryForget n source) s [.ing] [(prpIndex n.val, 7)] [] (fun t =>
      (t.pair n.val).nodes = (s.pair n.val).nodes.filter (fun w =>
        !(w.source = source && decide (w.tick + s.c (prpIndex n.val) 2 * tickMs ≤ s.raw))) ∧
      t.num (prpIndex n.val) 7 = (t.pair n.val).nodes.length) := by
  have low : prpIndex n.val < 0x6201 := by unfold prpIndex; omega
  obtain ⟨v, hv⟩ : ∃ v, v = s.modPair n.val (fun x => { x with nodes := x.nodes.filter (fun w =>
      !(w.source = source && decide (w.tick + s.c (prpIndex n.val) 2 * tickMs ≤ s.raw))) }) := ⟨_, rfl⟩
  have forgets : s.prpForget n.val source = v.countNodes n.val := by rw [hv]; rfl
  have count : v.countNodes n.val = v.set (prpIndex n.val) 0x07 0 (.int (v.pair n.val).nodes.length) := rfl
  refine Does.of_state (f := fun s => s.prpForget n.val source) rfl hset.raises (forgets.trans count) ?_ (by simp) (fun t ht => ?_)
  · rw [hv]
    exact (Effect.start.modPair _ _ (by simp)).setLow _ _ _ _ (by simp) low
  · rw [ht.pair_keep (by simp), ht.num_low (by simp) low, State.num_set, State.pair_set]
    refine ⟨?_, by simp⟩
    rw [hv, pair_modPair _ hlen]

/-! ### Supervision -/

theorem sendTwice_pair (x y : TxItem) (hlen : n < s.ing.pairs.length) :
    (s.sendTwice n x y).pair n = { s.pair n with txSeq := ((s.pair n).txSeq + 1) % 65536 } := by
  change (s.takeRctSeq n).pair n = _
  exact nth_modify _ _ _ _ hlen

theorem rctSeq_of_pair (hlen : n < s.ing.pairs.length) : s.rctSeq n = (s.pair n).txSeq := by
  simp [State.rctSeq, State.pair, nth, List.getD_eq_getElem?_getD, hlen]

theorem prpPairOf_even (hn : n < 2) (h : s.cB (prpIndex n) 1 = true) : s.prpPairOf (2 * n) = some n := by
  unfold State.prpPairOf
  rw [Nat.mul_div_cancel_left _ (by omega), if_pos ⟨by omega, h⟩]

/-- A supervision frame's interval begins anew. -/
def State.supervise (s : State) (n : Nat) : State := s.modPair n (fun x => { x with supervised := s.raw })

theorem prpSupervise_due (started : s.started = true) (on : s.cB (prpIndex n) 1 = true)
    (due : (s.pair n).supervised + s.c (prpIndex n) 3 * tickMs ≤ s.raw) :
    s.prpSupervise n = (s.supervise n).originate (2 * n) 0 (s.mgmtTagged (2 * n) ([0x01, 0x15, 0x4E, 0x00, 0x01, 0x00] ++ macOf (2 * n) ++
      [0x88, 0xFB, 0x00, 0x01] ++ beBytes 2 (s.pair n).txSeq ++ [20, 6] ++ macOf (2 * n) ++ [0, 0])) := by
  unfold State.prpSupervise
  exact if_neg (by simp [started, on]; omega)

theorem prpSupervise_does {n : Fin 2} {seq : Nat} {body : List Byte} (hset : s.settled) (hlen : n.val < s.ing.pairs.length)
    (started : s.started = true) (on : s.cB (prpIndex n.val) 1 = true)
    (due : (s.pair n.val).supervised + s.c (prpIndex n.val) 3 * tickMs ≤ s.raw) (up : PairUp s n.val) (hseq : seq = (s.pair n.val).txSeq)
    (hbody : body = s.mgmtTagged (2 * n.val) ([0x01, 0x15, 0x4E, 0x00, 0x01, 0x00] ++ macOf (2 * n.val) ++ [0x88, 0xFB, 0x00, 0x01] ++
      beBytes 2 seq ++ [20, 6] ++ macOf (2 * n.val) ++ [0, 0])) :
    Does (.prpSupervisionTransmit n) s [.ing, .wire] [(pCnt (2 * n.val), 0x16), (pCnt (2 * n.val + 1), 0x16)] [] (fun t =>
      (t.pair n.val).supervised = s.raw ∧ (t.pair n.val).txSeq = (seq + 1) % 65536 ∧
      ∃ l, t.wire = s.wire ++ [Output.frame (2 * n.val) (withRct 0xA seq body), Output.frame (2 * n.val + 1) (withRct 0xB seq body)] ++ l) := by
  have length : n.val < (s.supervise n.val).ing.pairs.length := by simpa [State.supervise, State.modPair, modNth] using hlen
  have pair : (s.supervise n.val).pair n.val = { s.pair n.val with supervised := s.raw } := pair_modPair _ hlen
  obtain ⟨d, e, sends⟩ := originateFrom_pair (s := s.supervise n.val) (prpPairOf_even n.isLt on) (by exact up) 0 [] body
  have post : s.prpSupervise n.val =
      (s.supervise n.val).sendTwice n.val (twin n.val 0 seq 0 d body) (twin n.val 1 seq 0 e body) := by
    rw [prpSupervise_due started on due, ← hseq, ← hbody, State.originate, sends, rctSeq_of_pair length, pair, hseq]
  refine Does.of_state (f := fun s => s.prpSupervise n.val) rfl hset.raises post ?_ (by simp) (fun t ht => ?_)
  · exact (Effect.start.modPair _ _ (by simp)).andQuiet (sendTwice_effect _ _ _ n.isLt (by simp) (by simp) (by simp) (by simp))
  · rw [ht.pair_keep (by simp), sendTwice_pair _ _ length, pair]
    exact ⟨rfl, by rw [hseq], [], by rw [ht.wire_keep (by simp), sendTwice_wire, List.append_nil]; rfl⟩

/-! ### Transmission, pause, links and PRP -/

/-- Settles O31: what the management core posts leaves at once, waits, or goes nowhere; received and sent pause, a link's change and PRP's
supervision, each by the lemma about its command. -/
theorem portsPauseAndTransmit : Obligations.PortsPauseAndTransmit := by
  refine ⟨?_, ?_, ?_⟩
  · intro p cls frame f next descs s hset hlen hf hnext hdescs
    refine ⟨fun what stopped => does_nothing (f := fun s => s.txPost p.val cls.val what) hset rfl (txPost_stopped stopped), ?_,
      fun started awake unpaused => ?_⟩
    · intro bad
      refine does_nothing (f := fun s => s.txPost p.val cls.val (some frame)) hset rfl ?_
      unfold State.txPost
      exact ite_eq_left_iff.mpr (fun _ => if_pos (by rw [← hf]; simpa using bad))
    · have runs : CoreRuns s := ⟨started, awake, unpaused⟩
      refine ⟨fun header room => ?_, fun idle => does_nothing (f := fun s => s.txPost p.val cls.val none) hset rfl
        (runs.txPost_idle _ idle), fun y first room alone up unheld => udpPost_reaches hset runs first room alone up unheld⟩
      have posts : Posts s p.val cls.val frame f descs next := ⟨runs, header, hf, room, hdescs, hnext⟩
      exact ⟨fun alone => ⟨posts.down hset hlen alone, posts.up hset hlen alone, posts.held hset hlen alone⟩,
        fun n paired up => posts.pair hset paired up⟩
  · intro p sent s hset hlen hsent
    simp only [hsent]
    exact ⟨fun _ on honour some_ => pauseFrame_held hset hlen on honour some_, pauseFrame_ends hset hlen, pauseExpiry_drains hset hlen,
      fun _ held honoured long up => pauseLimit_does hset hlen held honoured long up, fun _ => pauseLimitEnd_does hset hlen,
      pauseRepeat_does hset hlen,
      fun up speed on powered => ⟨linkChange_reaches hset on powered up speed, linkChange_does hset on powered⟩,
      fun up speed off => does_nothing (f := fun s => s.linkChange p.val up speed) hset rfl (linkChange_off off)⟩
  · intro n s hset hlen
    exact ⟨prpForget_does hset hlen, fun _ _ started on due up hseq hbody => prpSupervise_does hset hlen started on due up hseq hbody⟩

end Sys2Proof.Machine
end

section
/-! What the end of a command leaves of the ingest unit and of the registers below its own, whatever the command has raised. -/

namespace Sys2Proof.Machine

set_option Elab.async false

variable {P : List Part} {R : List (Nat × Nat)} {s t u : State}

/-- Between two states the ingest unit is the same, and so are the registers below those of the end of a command. -/
structure IngestKept (s u : State) : Prop where
  core : u.ing.core = s.ing.core
  low : ∀ i b, i < 0x6201 → b < 256 → u.num i b = s.num i b

theorem IngestKept.trans (h : IngestKept s u) (k : IngestKept u t) : IngestKept s t :=
  ⟨k.core.trans h.core, fun i b hi hb => (k.low i b hi hb).trans (h.low i b hi hb)⟩

theorem IngestKept.ite {a b : State} {q : Prop} [Decidable q] (h : IngestKept s a) (k : IngestKept s b) :
    IngestKept s (if q then a else b) := by
  split
  · exact h
  · exact k

theorem Frame.ingestKept (h : Frame [] [] s u) : IngestKept s u := ⟨h.part .ing, fun _ _ hi hb => h.num_low (by simp) hi hb⟩

/-- A write above those registers, of whatever element. -/
theorem ingestKept_setHigh (s : State) {i : Nat} (b e : Nat) (v : Value) (hi : 0x6201 ≤ i) : IngestKept s (s.set i b e v) := by
  refine ⟨rfl, fun j c hj hc => ?_⟩
  have key : okey j c 0 ≠ okey i b e := by
    unfold okey
    omega
  unfold State.num State.int State.value State.set
  rw [Store.get_set_ne _ _ key]

/-- A raise is handed on, even one of no source that the event controller has. -/
theorem handleRaise_ingestKept (s : State) (r : Raise) : IngestKept s (s.handleRaise r) := by
  have counted : IngestKept s (s.countRaise r.source) := by
    unfold State.countRaise
    dsimp only
    rw [State.setElem_eq, State.inc64_eq]
    exact (ingestKept_setHigh s _ _ _ (by omega)).trans (ingestKept_setHigh _ _ _ _ (by omega))
  have marked : ∀ t : State, IngestKept t (t.setPending r.source) := fun t => by
    unfold State.setPending
    rw [State.setBytes_eq]
    exact ingestKept_setHigh t _ _ _ (by omega)
  have logged : ∀ t : State, IngestKept t (if t.ev.ready then t.deliverRaise r
      else if t.ev.bootBuffer.length < 64 then t.modEv (fun e => { e with bootBuffer := e.bootBuffer ++ [r] }) else t.inc32 0xA000 0x08) :=
    fun t => IngestKept.ite (Frame.deliverRaise t r).ingestKept
      (IngestKept.ite (Frame.modEv t _ rfl).ingestKept (by rw [State.inc32_eq]; exact ingestKept_setHigh t _ _ _ (by omega)))
  unfold State.handleRaise
  exact IngestKept.ite counted ((IngestKept.ite counted (counted.trans (marked _))).trans (logged _))

theorem handleRaises_ingestKept (fuel : Nat) (s : State) (l : List Raise) : IngestKept s (State.handleRaises fuel s l) := by
  induction fuel generalizing s l with
  | zero => exact (Frame.refl s).ingestKept
  | succ fuel ih =>
    cases l with
    | nil => exact (Frame.refl s).ingestKept
    | cons r rest =>
      have notified : ∀ t : State, IngestKept t (State.notifyEvents s (t.modEv (fun e => { e with raised := [] }))) := fun t =>
        ((Frame.modEv t _ rfl).then (Frame.notifyEvents s _)).ingestKept
      simp only [State.handleRaises]
      exact ((handleRaise_ingestKept s r).trans (notified _)).trans (ih _ _)

theorem flushRaises_ingestKept (s : State) : IngestKept s s.flushRaises := by
  unfold State.flushRaises
  refine IngestKept.ite (Frame.refl s).ingestKept ?_
  exact ((Frame.modEv s _ rfl).ingestKept.trans (handleRaises_ingestKept _ _ _)).trans
    (Frame.modEv _ (fun e => { e with intake := 0 }) rfl).ingestKept

theorem settle_ingestKept (old new : State) : IngestKept new (State.settle old new) := by
  have followed : IngestKept new (State.followed old new) := ((Frame.noteUtc old new).ingestKept.trans (flushRaises_ingestKept _)).trans
    ((Frame.driveOutputs _).then (Frame.noteDigital _)).ingestKept
  have notified := followed.trans ((Frame.foldl _ (fun t sb => Frame.notifyChange old t sb) (State.followed old new).alm.subs _).then
    (Frame.drivePins _)).ingestKept
  rw [State.settle]
  generalize State.drivePins _ = u at notified ⊢
  exact ⟨notified.core, notified.low⟩

/-- What a command leaves of the ingest unit and of the registers below those of its end. -/
theorem Reaches.of_ingestKept {c : Instr} {f : State → State} {after : State → Prop} (he : exec c s = complete s f)
    (hafter : ∀ t, IngestKept (f s) t → after t) : Reaches c s after :=
  ⟨s.settle (f s), he, hafter _ (settle_ingestKept s (f s))⟩

theorem queue_of_core (h : t.ing.core = u.ing.core) (n : Nat) : t.queue n = u.queue n := by
  have queues : t.ing.queues = u.ing.queues := (congrArg Ingest.queues h :)
  unfold State.queue
  rw [queues]

theorem IngestKept.queue (h : IngestKept s u) (n : Nat) : u.queue n = s.queue n := queue_of_core h.core n
theorem IngestKept.port (h : IngestKept s u) (p : Nat) : u.port p = s.port p := port_of_core h.core p

end Sys2Proof.Machine
end

section
/-! Lane ingest queues: what the acceptance of a frame writes, how an entry's words enter its queue, and a reset (R197, R209, R212,
R213). -/

namespace Sys2Proof.Machine

set_option Elab.async false

variable {P : List Part} {R : List (Nat × Nat)} {L : List Nat} {s t u : State} {n : Nat} {e : IngestEntry}

/-! ### Words written to a queue -/

/-- A queue but for its words. -/
def LaneQueue.aside (q : LaneQueue) : LaneQueue := { q with head := [], spill := [], spillNext := 0, tail := [] }

theorem push_aside {q r : LaneQueue} {cap : Nat} {w : QWord} (h : q.push cap w = some r) : r.aside = q.aside := by
  unfold LaneQueue.push at h
  split at h
  · cases h; rfl
  · split at h
    · cases h; rfl
    · split at h
      · cases h; rfl
      · cases h

theorem pushAll_aside (cap : Nat) (words : List QWord) (q : LaneQueue) : (LaneQueue.pushAll cap q words).1.aside = q.aside := by
  induction words generalizing q with
  | nil => rfl
  | cons w rest ih =>
    unfold LaneQueue.pushAll
    split
    · rename_i r h
      exact (ih r).trans (push_aside h)
    · rfl

/-- A queue with an entry's words written as far as it accepts them, and both copies of its write pointer after them. -/
def LaneQueue.take (q : LaneQueue) (cap : Nat) (e : IngestEntry) : LaneQueue :=
  let r := LaneQueue.pushAll cap q e.qwords
  { r.1 with
    part := r.2, times := q.times
    writeA := q.writeA + (e.qwords.length - r.2.length), writeB := q.writeB + (e.qwords.length - r.2.length) }

theorem take_pointers (q : LaneQueue) (cap : Nat) (e : IngestEntry) :
    ((q.take cap e).writeA = (q.take cap e).writeB ↔ q.writeA = q.writeB) ∧
    ((q.take cap e).readA = (q.take cap e).readB ↔ q.readA = q.readB) ∧ (q.take cap e).waiting = q.waiting := by
  have kept := pushAll_aside cap e.qwords q
  have readA : (LaneQueue.pushAll cap q e.qwords).1.readA = q.readA := (congrArg LaneQueue.readA kept :)
  have readB : (LaneQueue.pushAll cap q e.qwords).1.readB = q.readB := (congrArg LaneQueue.readB kept :)
  have waiting : (LaneQueue.pushAll cap q e.qwords).1.waiting = q.waiting := (congrArg LaneQueue.waiting kept :)
  unfold LaneQueue.take
  dsimp only
  exact ⟨Nat.add_right_cancel_iff, by rw [readA, readB], waiting⟩

/-! ### A queue replaced -/

/-- The registers that a lane's queue writes when it changes: DEPTH_PEAK, FULL_COUNT and the lane's performance counters. -/
def putRegisters (n : Nat) : List (Nat × Nat) := [(0x5300 + n, 0x02), (0x5300 + n, 0x09)] ++ counterRegisters (1 + n)

theorem index_of_mem_counterRegisters {die : Nat} {r : Nat × Nat} (h : r ∈ counterRegisters die) : 0xE000 ≤ r.1 := by
  obtain ⟨k, -, hr⟩ := List.mem_flatMap.mp h
  simp only [List.mem_cons, List.not_mem_nil, or_false] at hr
  rcases hr with rfl | rfl <;> dsimp only <;> omega

/-- A register below the performance counters that is neither DEPTH_PEAK nor FULL_COUNT is none of these. -/
theorem not_mem_putRegisters {i b : Nat} (hi : i < 0xE000) (hb : b ≠ 0x02 ∧ b ≠ 0x09) : (i, b) ∉ putRegisters n := by
  intro h
  rcases List.mem_append.mp h with h | h
  · simp only [List.mem_cons, Prod.mk.injEq, List.not_mem_nil, or_false] at h
    omega
  · have := index_of_mem_counterRegisters h
    dsimp only at this
    omega

theorem putQueue_counting (s : State) (q : LaneQueue) (hn : n < 4) : Counting [.ing] (putRegisters n) [] s (s.putQueue n q) := by
  have set_ : ∀ (t : State) (b : Nat) (v : Value), (0x5300 + n, b) ∈ putRegisters n → b < 256 →
      Effect [.ing] (putRegisters n) [] t (t.set (0x5300 + n) b 0 v) := fun t b v m hb => Effect.start.setLow _ _ _ _ m (by omega) hb
  have peak : ∀ (t : State) (v : Nat), Effect [.ing] (putRegisters n) [] t (t.setMax (0x5300 + n) 0x02 v) := fun t v => by
    rw [State.setMax_eq]
    exact set_ t _ _ (by simp [putRegisters]) (by omega)
  have perf : ∀ (t : State) (k : Nat), Counting [.ing] (putRegisters n) [] t (t.perf (1 + n) 0x06 k) := fun t k =>
    (perf_counting_die t _ _ _).mono (by simp) (fun r hr => List.mem_append_right _ hr)
  have put : ∀ (f : LaneQueue → LaneQueue) (v k : Nat), Counting [.ing] (putRegisters n) [] s
      (((s.modQueue n f).setMax (0x5300 + n) 0x02 v).perf (1 + n) 0x06 k) := fun f v k =>
    ((Effect.start.modIng _ (by simp)).andQuiet (peak _ v)).counting_nil.trans (perf _ k)
  unfold State.putQueue
  dsimp only
  split
  · rw [State.inc32_eq]
    exact (put _ _ _).andQuiet (set_ _ _ _ (by simp [putRegisters]) (by omega))
  · exact put _ _ _

/-- A lane's queue is the one that has been put, with its own note of being full. -/
theorem putQueue_queue (s : State) (q : LaneQueue) (hlen : n < s.ing.queues.length) :
    ∃ full, (s.putQueue n q).queue n = { q with full := full } := by
  refine ⟨q.isFull s.spillWords, ?_⟩
  have counted : ∀ (t : State) (k : Nat), (t.perf (1 + n) 0x06 k).queue n = t.queue n := fun t k =>
    (perf_counting_die t _ _ _).frame.queue_keep (by simp) n
  have put : (s.modQueue n (fun _ => { q with full := q.isFull s.spillWords })).queue n = { q with full := q.isFull s.spillWords } :=
    nth_modify _ _ _ _ hlen
  unfold State.putQueue
  dsimp only
  split <;> simp only [State.inc32_eq, State.setMax_eq, State.queue_set, counted, put]

theorem Frame.queues_keep (h : Frame P R s u) (hm : Part.ing ∉ P) : u.ing.queues = s.ing.queues := by
  have core : u.ing.core = s.ing.core := h.parts .ing hm
  exact (congrArg Ingest.queues core :)

theorem putQueue_length (s : State) (n : Nat) (q : LaneQueue) : (s.putQueue n q).ing.queues.length = s.ing.queues.length := by
  have counted : ∀ (t : State) (k : Nat), (t.perf (1 + n) 0x06 k).ing.queues = t.ing.queues := fun t k =>
    (perf_counting_die t _ _ _).frame.queues_keep (by simp)
  have put : ∀ f, (s.modQueue n f).ing.queues.length = s.ing.queues.length := fun _ => List.length_modify ..
  unfold State.putQueue
  dsimp only
  split <;> simp only [State.inc32_eq, State.setMax_eq, State.set_ing, counted, put]

/-! ### What sending leaves of the queues -/

@[simp] theorem modPort_queues (s : State) (p : Nat) (f : Port → Port) : (s.modPort p f).ing.queues = s.ing.queues := (rfl)
@[simp] theorem modStream_queues (s : State) (id : Nat) (f : Stream → Stream) : (s.modStream id f).ing.queues = s.ing.queues := (rfl)
@[simp] theorem takeRctSeq_queues (s : State) (k : Nat) : (s.takeRctSeq k).ing.queues = s.ing.queues := (rfl)
@[simp] theorem putNeighbour_queues (s : State) (x : Neighbour) : (s.putNeighbour x).ing.queues = s.ing.queues := (rfl)

theorem queues_ite {a b : State} {q : Prop} [Decidable q] (ha : a.ing.queues = s.ing.queues) (hb : b.ing.queues = s.ing.queues) :
    (if q then a else b).ing.queues = s.ing.queues := by
  split
  · exact ha
  · exact hb

theorem putOnWire_queues (s : State) (p : Nat) (o : Output) : (s.putOnWire p o).ing.queues = s.ing.queues := by
  unfold State.putOnWire
  rw [State.inc64_eq, State.set_ing, State.emit_ing]

@[simp] theorem sendItem_queues (s : State) (p : Nat) (x : TxItem) : (s.sendItem p x).ing.queues = s.ing.queues := by
  unfold State.sendItem State.releaseTx
  exact queues_ite (modPort_queues ..) (queues_ite (modPort_queues ..) ((modPort_queues ..).trans (putOnWire_queues ..)))

@[simp] theorem originateFrom_queues (s : State) (p cls : Nat) (descs : List Nat) (f : List Byte) :
    (s.originateFrom p cls descs f).ing.queues = s.ing.queues := by
  unfold State.originateFrom
  split <;> simp

@[simp] theorem originateDecoded_queues (s : State) (p cls : Nat) (o : Nat → Option (Nat × Nat) → Output) :
    (s.originateDecoded p cls o).ing.queues = s.ing.queues := by
  unfold State.originateDecoded State.send
  split <;> simp

@[simp] theorem slowSend_queues (s : State) (p : Nat) (f : List Byte) : (s.slowSend p f).ing.queues = s.ing.queues :=
  originateFrom_queues ..

@[simp] theorem askNeighbour_queues (s : State) (p : Nat) (a : List Byte) : (s.askNeighbour p a).ing.queues = s.ing.queues := by
  unfold State.askNeighbour
  rw [apply_ite State.ing, apply_ite Ingest.queues, slowSend_queues, putNeighbour_queues, ite_self]

@[simp] theorem sendPacket_queues (s : State) (p : Nat) (a : List Byte) (k : Nat × List Byte) :
    (s.sendPacket p a k).ing.queues = s.ing.queues := by
  unfold State.sendPacket
  dsimp only
  split
  · simp
  · split <;> simp

@[simp] theorem sendStreamCommand_queues (s : State) (id cmd : Nat) : (s.sendStreamCommand id cmd).ing.queues = s.ing.queues := by
  unfold State.sendStreamCommand
  dsimp only
  split
  · rfl
  · split <;> simp

@[simp] theorem askConfig_queues (s : State) (id : Nat) : (s.askConfig id).ing.queues = s.ing.queues := by
  unfold State.askConfig
  simp only [apply_ite State.ing, apply_ite Ingest.queues, modStream_queues, sendStreamCommand_queues, ite_self]

/-! ### A frame accepted in its context -/

/-- What an accepted frame writes in its context, before its configuration is asked for. -/
def State.noteFrame (s : State) (e : IngestEntry) : State :=
  let i := 0x4000 + e.stream
  let stats := if e.port = 7 then [] else statWords (s.c i 0x0C) e.frame 14 (s.ctxBlocks e.stream)
  let t := ((((s.inc64 i 0x1C).setN i 0x1E (s.entryTime e).toNat).setN i 0x1F e.arrival).setN i 0x20 (stats.headD 0)).modStream e.stream
    (fun x => { x with accepted := some s.raw })
  if s.streamState e.stream = 1 ∨ s.streamState e.stream = 4 then t.setN i 0x1A 2 else t

/-- The registers of a context that an accepted frame writes. -/
def noteRegisters (id : Nat) : List (Nat × Nat) :=
  [(0x4000 + id, 0x1A), (0x4000 + id, 0x1C), (0x4000 + id, 0x1E), (0x4000 + id, 0x1F), (0x4000 + id, 0x20)]

theorem acceptFrame_sends (s : State) (e : IngestEntry) : Sends (s.noteFrame e) (s.acceptFrame e) := by
  unfold State.acceptFrame
  exact Effect.ite (askConfig_sends _ _) (Sends.refl _)

theorem noteFrame_effect (s : State) (hid : e.stream < 4096) (mi : Part.ing ∈ P) (hr : ∀ r ∈ noteRegisters e.stream, r ∈ R) :
    Effect P R [] s (s.noteFrame e) := by
  have set_ : ∀ {u : State} (_ : Effect P R [] s u) (b : Nat) (v : Value), (0x4000 + e.stream, b) ∈ noteRegisters e.stream → b < 256 →
      Effect P R [] s (u.set (0x4000 + e.stream) b 0 v) := fun h b v m hb => h.setLow _ _ _ _ (hr _ m) (by omega) hb
  unfold State.noteFrame
  dsimp only
  simp only [State.inc64_eq, State.setN_eq]
  have noted : ∀ (f : Stream → Stream) (v w x y : Value), Effect P R [] s
      (((((s.set (0x4000 + e.stream) 0x1C 0 v).set (0x4000 + e.stream) 0x1E 0 w).set (0x4000 + e.stream) 0x1F 0 x).set
        (0x4000 + e.stream) 0x20 0 y).modStream e.stream f) := fun f v w x y =>
    (set_ (set_ (set_ (set_ Effect.start 0x1C v (by simp [noteRegisters]) (by omega)) 0x1E w (by simp [noteRegisters]) (by omega)) 0x1F x
      (by simp [noteRegisters]) (by omega)) 0x20 y (by simp [noteRegisters]) (by omega)).modIng _ mi
  exact Effect.ite (set_ (noted _ _ _ _ _) _ _ (by simp [noteRegisters]) (by omega)) (noted _ _ _ _ _)

theorem noteFrame_count (s : State) (e : IngestEntry) :
    (s.noteFrame e).num (0x4000 + e.stream) 0x1C = State.countUp 64 (s.num (0x4000 + e.stream) 0x1C) 1 := by
  unfold State.noteFrame
  dsimp only
  split <;> simp [State.num_set_if, State.modStream]

theorem noteFrame_state (s : State) (e : IngestEntry) (h : s.streamState e.stream = 1 ∨ s.streamState e.stream = 4) :
    (s.noteFrame e).streamState e.stream = 2 := by
  unfold State.noteFrame
  rw [if_pos h, State.setN_eq]
  exact State.num_set _ _ _ 2

/-! ### An entry that enters -/

/-- An entry, of no local bay, of an enabled context and a lane that is not isolated. -/
structure Enters (s : State) (n : Nat) (e : IngestEntry) : Prop where
  lane : n = laneOf e.stream
  four : n < 4
  length : n < s.ing.queues.length
  network : e.port ≠ 7
  enabled : s.ctxEnabled e.stream = true
  live : s.laneLive n = true

theorem Enters.stream (h : Enters s n e) : e.stream < 4096 := by
  have := h.four
  rw [h.lane, laneOf] at this
  omega

/-- The state in which an entry that enters has reached its queue, before a complete frame is counted. -/
def State.putEntry (s : State) (n : Nat) (e : IngestEntry) : State := (s.acceptFrame e).putQueue n ((s.queue n).take s.spillWords e)

theorem Enters.enterQueue (h : Enters s n e) : s.enterQueue e =
    if ((s.queue n).take s.spillWords e).part.isEmpty then (s.putEntry n e).inc64 (0x5300 + n) 0x05 else s.putEntry n e := by
  have lane := h.lane
  have network := h.network
  unfold State.enterQueue State.atWrite
  rw [← lane]
  simp only [h.enabled, h.live, Bool.not_true, Bool.false_eq_true, or_false, if_false, if_neg network]
  rfl

theorem acceptFrame_queues (s : State) (e : IngestEntry) : (s.acceptFrame e).ing.queues = s.ing.queues := by
  have noted : (s.noteFrame e).ing.queues = s.ing.queues := by
    unfold State.noteFrame
    simp only [apply_ite State.ing, State.setN_eq, State.inc64_eq, State.set_ing, modStream_queues, ite_self]
  have accepted : (s.acceptFrame e).ing.queues = (s.noteFrame e).ing.queues := by
    unfold State.acceptFrame
    exact queues_ite (askConfig_queues _ _) rfl
  rw [accepted, noted]

theorem Enters.putEntry_queue (h : Enters s n e) :
    ∃ full, (s.putEntry n e).queue n = { (s.queue n).take s.spillWords e with full := full } :=
  putQueue_queue _ _ (by rw [acceptFrame_queues]; exact h.length)

/-- The queue of an entry that has entered holds the words it accepts, and the rest are under way. -/
theorem Enters.queue (h : Enters s n e) :
    ∃ full, (s.enterQueue e).queue n = { (s.queue n).take s.spillWords e with full := full } := by
  obtain ⟨full, put⟩ := h.putEntry_queue
  refine ⟨full, ?_⟩
  rw [h.enterQueue]
  split
  · rw [State.inc64_eq, State.queue_set, put]
  · exact put

theorem Enters.enterQueue_length (h : Enters s n e) : (s.enterQueue e).ing.queues.length = s.ing.queues.length := by
  have put : (s.putEntry n e).ing.queues.length = s.ing.queues.length := by
    unfold State.putEntry
    rw [putQueue_length, acceptFrame_queues]
  rw [h.enterQueue]
  split
  · rw [State.inc64_eq, State.set_ing, put]
  · exact put

theorem takesEntry_of_queue {full : Bool} (h : t.queue n = { (s.queue n).take s.spillWords e with full := full }) : TakesEntry s t n e :=
  ⟨by rw [h]; rfl, by rw [h]; rfl, by rw [h]; rfl, by rw [h]; rfl⟩

/-- Beside DEPTH_PEAK and FULL_COUNT, an entry that enters writes no register but those of its context and FRAMES_WRITTEN. -/
theorem Enters.putEntry_num (h : Enters s n e) {i b : Nat} (hi : 0x4000 ≤ i ∧ i < 0x6201) (hb : b ≠ 0x02 ∧ b ≠ 0x09) (h8 : b < 256) :
    (s.putEntry n e).num i b = (s.noteFrame e).num i b := by
  unfold State.putEntry
  rw [(putQueue_counting _ _ h.four).frame.num_low (not_mem_putRegisters (by omega) hb) hi.2 h8]
  exact (acceptFrame_sends s e).num (by omega) (endRegister_low hi.2) h8

theorem Enters.enterQueue_num (h : Enters s n e) {i b : Nat} (hi : 0x4000 ≤ i ∧ i < 0x6201) (hb : b ≠ 0x02 ∧ b ≠ 0x09 ∧ b ≠ 0x05)
    (h8 : b < 256) : (s.enterQueue e).num i b = (s.noteFrame e).num i b := by
  rw [h.enterQueue, ← h.putEntry_num hi ⟨hb.1, hb.2.1⟩ h8]
  split
  · rw [State.inc64_eq, State.num_set_ne _ _ (by omega) (by omega) h8 (by omega)]
  · rfl

/-- The registers of its queue are none of the context of an entry that enters. -/
theorem Enters.noteFrame_num (h : Enters s n e) {i b : Nat} (hi : 0x5000 ≤ i ∧ i < 0x6201) (h8 : b < 256) :
    (s.noteFrame e).num i b = s.num i b := by
  have hid := h.stream
  refine (noteFrame_effect (P := [.ing]) (R := noteRegisters e.stream) s hid (by simp) (fun _ hr => hr)).frame.num_low ?_ hi.2 h8
  simp only [noteRegisters, List.mem_cons, Prod.mk.injEq, List.not_mem_nil, or_false]
  omega

/-- A frame that has entered its queue whole is counted there. -/
theorem Enters.counts (h : Enters s n e) (whole : ((s.queue n).take s.spillWords e).part = []) :
    (s.enterQueue e).num (0x5300 + n) 0x05 = State.countUp 64 (s.num (0x5300 + n) 0x05) 1 := by
  have four := h.four
  rw [h.enterQueue, whole, List.isEmpty_nil, if_pos rfl, State.inc64_eq, State.num_set, h.putEntry_num (by omega) (by omega) (by omega),
    h.noteFrame_num (by omega) (by omega)]

theorem Enters.accepted (h : Enters s n e) :
    (s.enterQueue e).num (0x4000 + e.stream) 0x1C = State.countUp 64 (s.num (0x4000 + e.stream) 0x1C) 1 := by
  have hid := h.stream
  rw [h.enterQueue_num (by omega) (by omega) (by omega), noteFrame_count]

theorem Enters.receiving (h : Enters s n e) (heard : s.streamState e.stream = 1 ∨ s.streamState e.stream = 4) :
    (s.enterQueue e).streamState e.stream = 2 := by
  have hid := h.stream
  unfold State.streamState
  rw [h.enterQueue_num (by omega) (by omega) (by omega)]
  exact noteFrame_state s e heard

/-! ### The pointer copies -/

theorem checkPointers_agree (hw : (s.queue n).writeA = (s.queue n).writeB) (hr : (s.queue n).readA = (s.queue n).readB) :
    s.checkPointers n = s := if_pos ⟨hw, hr⟩

/-- A queue emptied, its frames counted as lost, and nothing that waits for it. -/
def State.lostQueue (s : State) (n : Nat) : State :=
  (s.putQueue n { emptyLaneQueue with waiting := (s.queue n).waiting, fullTicks := (s.queue n).fullTicks }).add 64 (0x5300 + n) 0x08
    (s.queue n).frames

theorem checkPointers_differ (hw : (s.queue n).writeA ≠ (s.queue n).writeB) (waiting : (s.queue n).waiting = []) :
    s.checkPointers n = ((s.lostQueue n).inc32 (0x5300 + n) 0x07).raiseEvent (32 + 4 * n + 1) n := by
  have emptied : s.emptyQueue n = s.lostQueue n := by
    unfold State.emptyQueue
    dsimp only
    rw [waiting]
    unfold State.lostQueue
    rw [waiting]
    rfl
  rw [← emptied]
  exact if_neg (fun h => hw h.1)

theorem lostQueue_queue (s : State) (hlen : n < s.ing.queues.length) :
    ((s.lostQueue n).queue n).depth = 0 ∧ ((s.lostQueue n).queue n).frames = 0 ∧
      ((s.lostQueue n).queue n).writeA = ((s.lostQueue n).queue n).writeB := by
  obtain ⟨full, put⟩ := putQueue_queue s { emptyLaneQueue with waiting := (s.queue n).waiting, fullTicks := (s.queue n).fullTicks } hlen
  have lost : (s.lostQueue n).queue n = { emptyLaneQueue with
      waiting := (s.queue n).waiting, fullTicks := (s.queue n).fullTicks, full := full } := by
    unfold State.lostQueue
    rw [State.add_eq, State.queue_set, put]
  rw [lost]
  exact ⟨rfl, rfl, rfl⟩

theorem lostQueue_resets (s : State) (hn : n < 4) : (s.lostQueue n).num (0x5300 + n) 0x07 = s.num (0x5300 + n) 0x07 := by
  unfold State.lostQueue
  rw [State.add_eq, State.num_set_ne _ _ (by omega) (by omega) (by omega) (by omega)]
  exact (putQueue_counting s _ hn).frame.num_low (not_mem_putRegisters (by omega) (by omega)) (by omega)

end Sys2Proof.Machine
end

section
/-! The receive buffer of a port: its watermarks, the slow-path frames that pass on into the ring, and the fast-path frame that passes into
its lane's queue (R180, R206, R208–R213). -/

namespace Sys2Proof.Machine

set_option Elab.async false

variable {P : List Part} {R : List (Nat × Nat)} {L : List Nat} {s t u : State} {p n : Nat} {e : IngestEntry}

theorem ctxEnabled_congr (h : u.cfg = s.cfg) (id : Nat) : u.ctxEnabled id = s.ctxEnabled id := by
  unfold State.ctxEnabled
  rw [cB_congr h, cB_congr h]

theorem spillWords_congr (h : u.cfg = s.cfg) : u.spillWords = s.spillWords := by
  unfold State.spillWords
  rw [State.c_congr h]

/-! ### Watermarks -/

theorem sendPause_effect (s : State) (quanta : Nat) (hp : p < 6) (mw : Part.wire ∈ P) (mi : Part.ing ∈ P) (m : (pCnt p, 0x10) ∈ R) :
    Effect P R [] s (s.sendPause p quanta) := by
  unfold State.sendPause
  exact Effect.ite Effect.start (pauses_effect s quanta hp mw mi m)

theorem watermarks_effect (s : State) (hp : p < 6) (mw : Part.wire ∈ P) (mi : Part.ing ∈ P) (m : (pCnt p, 0x10) ∈ R) :
    Effect P R [] s (s.watermarks p) := by
  have sent : ∀ (f : Port → Port) (quanta : Nat), Effect P R [] s ((s.modPort p f).sendPause p quanta) := fun f quanta =>
    (Effect.start.modPort p f mi).andQuiet (sendPause_effect _ quanta hp mw mi m)
  unfold State.watermarks
  exact Effect.ite (Effect.ite (sent _ _) (Effect.start.modPort p _ mi)) (Effect.ite (sent _ _) Effect.start)

/-- A property that changes of a port's pause and of its discarding keep, and so do pause frames. -/
theorem watermarks_keeps {r : State → Prop} (p : Nat) (hs : r s) (hmod : ∀ t, r t → ∀ b c : Port → Bool, r (t.modPort p (fun x => { x with
    discarding := b x, pauseOn := c x }))) (hsend : ∀ t, r t → ∀ quanta, r (t.sendPause p quanta)) : r (s.watermarks p) := by
  unfold State.watermarks
  dsimp only
  split
  · split
    · exact hsend _ (hmod s hs (fun _ => false) (fun _ => false)) _
    · exact hmod s hs (fun _ => false) (fun _ => false)
  · split
    · exact hsend _ (hmod s hs (fun x => x.discarding) (fun _ => true)) _
    · exact hs

theorem sendPause_queues (s : State) (p quanta : Nat) : (s.sendPause p quanta).ing.queues = s.ing.queues := by
  unfold State.sendPause
  refine queues_ite rfl ?_
  rw [modPort_queues, State.inc32_eq, State.set_ing, State.emit_ing]

theorem watermarks_queues (s : State) (p : Nat) : (s.watermarks p).ing.queues = s.ing.queues :=
  watermarks_keeps (r := fun t => t.ing.queues = s.ing.queues) p rfl (fun _ h _ _ => h) (fun t h quanta => (sendPause_queues t p quanta).trans h)

/-- A function of a port that does not look at its pause or its discarding. -/
theorem sendPause_port {β : Type} (g : Port → β) (hg : ∀ (x : Port) (k : Nat), g { x with pauseTick := k } = g x) (s : State)
    (p quanta q : Nat) : g ((s.sendPause p quanta).port q) = g (s.port q) := by
  unfold State.sendPause
  split
  · rfl
  · rw [port_modPort_keep g _ (fun x => hg x _), State.inc32_eq, State.port_set, State.port_emit]

theorem watermarks_port {β : Type} (g : Port → β) (hg : ∀ (x : Port) (b c : Bool) (k : Nat),
    g { x with discarding := b, pauseOn := c, pauseTick := k } = g x) (s : State) (p q : Nat) :
    g ((s.watermarks p).port q) = g (s.port q) :=
  watermarks_keeps (r := fun t => g (t.port q) = g (s.port q)) p rfl
    (fun _ h _ _ => (port_modPort_keep g _ (fun x => hg x _ _ x.pauseTick)).trans h)
    (fun t h quanta => (sendPause_port g (fun x k => hg x x.discarding x.pauseOn k) t p quanta q).trans h)

/-! ### Slow-path frames that pass on -/

/-- The counters of a port that slow-path frames and pause frames write. -/
def slowRegisters (p : Nat) : List (Nat × Nat) := [(pCnt p, 0x03), (pCnt p, 0x10), (pCnt p, 0x14), (pCnt p, 0x15)]

/-- Between two states the lanes' queues are the same, and so are the registers below those of the end of a command but for the counters of
slow-path frames and pause frames. -/
structure PassKept (s u : State) : Prop where
  queue : ∀ n, u.queue n = s.queue n
  low : ∀ i b, i < 0x6201 → b < 256 → (∀ q, (i, b) ∉ slowRegisters q) → u.num i b = s.num i b

theorem PassKept.refl (s : State) : PassKept s s := ⟨fun _ => rfl, fun _ _ _ _ _ => rfl⟩

theorem PassKept.trans (h : PassKept s u) (k : PassKept u t) : PassKept s t :=
  ⟨fun n => (k.queue n).trans (h.queue n), fun i b hi hb hn => (k.low i b hi hb hn).trans (h.low i b hi hb hn)⟩

theorem PassKept.ite {a b : State} {q : Prop} [Decidable q] (h : PassKept s a) (k : PassKept s b) : PassKept s (if q then a else b) := by
  split
  · exact h
  · exact k

theorem passKept_modPort (s : State) (p : Nat) (f : Port → Port) : PassKept s (s.modPort p f) := ⟨fun _ => rfl, fun _ _ _ _ _ => rfl⟩
theorem passKept_emit (s : State) (o : Output) : PassKept s (s.emit o) := ⟨fun _ => rfl, fun _ _ _ _ _ => rfl⟩
theorem passKept_raise (s : State) (m k : Nat) : PassKept s (s.raiseEvent m k) := ⟨fun _ => rfl, fun _ _ _ _ _ => rfl⟩

theorem passKept_set (s : State) {p b : Nat} (v : Value) (m : (pCnt p, b) ∈ slowRegisters p) (hb : b < 256 := by omega) :
    PassKept s (s.set (pCnt p) b 0 v) := by
  refine ⟨fun _ => rfl, fun i c _ hc hn => State.num_set_ne s v hb (by omega) hc ?_⟩
  rintro ⟨rfl, rfl, -⟩
  exact hn p m

theorem passKept_perf (s : State) (code k : Nat) : PassKept s (s.perf 0 code k) := by
  have counted := (perf_counting_die s 0 code k).frame
  refine ⟨fun n => counted.queue_keep (by simp) n, fun i b hi hb _ => counted.num_low (fun h => ?_) hi hb⟩
  have := index_of_mem_counterRegisters h
  dsimp only at this
  omega

theorem passKept_sendPause (s : State) (p quanta : Nat) : PassKept s (s.sendPause p quanta) := by
  unfold State.sendPause
  refine PassKept.ite (PassKept.refl s) ?_
  rw [State.inc32_eq]
  exact ((passKept_emit s _).trans (passKept_set _ _ (by simp [slowRegisters]))).trans (passKept_modPort _ _ _)

theorem passKept_watermarks (s : State) (p : Nat) : PassKept s (s.watermarks p) :=
  watermarks_keeps (r := PassKept s) p (PassKept.refl s) (fun t h _ _ => h.trans (passKept_modPort t _ _))
    (fun t h quanta => h.trans (passKept_sendPause t p quanta))

theorem passKept_deliverSlow (s : State) (f : SlowFrame) : PassKept s (s.deliverSlow f) := by
  have counted : PassKept s ((s.inc64 (pCnt f.port) 0x03).perf 0 0x24 1) := by
    rw [State.inc64_eq]
    exact (passKept_set s _ (by simp [slowRegisters])).trans (passKept_perf _ _ _)
  have written : ∀ (t : State) (b : Nat), (pCnt f.port, b) ∈ slowRegisters f.port → b < 256 → PassKept t (t.inc32 (pCnt f.port) b) :=
    fun t b m hb => by
      rw [State.inc32_eq]
      exact passKept_set t _ m hb
  unfold State.deliverSlow
  dsimp only
  refine PassKept.ite (counted.trans (written _ _ (by simp [slowRegisters]) (by omega))) (PassKept.ite ?_ ?_)
  · exact ((counted.trans (passKept_modPort _ _ _)).trans (written _ _ (by simp [slowRegisters]) (by omega))).trans (passKept_raise _ _ _)
  · exact counted.trans (passKept_modPort _ _ _)

theorem passKept_passSlow (fuel : Nat) (s : State) (p : Nat) : PassKept s (State.passSlow fuel s p) := by
  induction fuel generalizing s with
  | zero => exact PassKept.refl s
  | succ fuel ih =>
    unfold State.passSlow
    split
    · exact (((passKept_modPort s _ _).trans (passKept_watermarks _ _)).trans (passKept_deliverSlow _ _)).trans (ih _)
    · exact PassKept.refl s

/-- A fast-path frame holds back what is behind it. -/
theorem passSlow_fast {k : Nat} {rest : List (Nat × RxItem)} (fuel : Nat) (h : (s.port p).fifo = (k, .fast e) :: rest) :
    State.passSlow fuel s p = s := by
  cases fuel with
  | zero => rfl
  | succ fuel =>
    unfold State.passSlow
    rw [h]

theorem not_slow {i b : Nat} (hb : b ≠ 0x03 ∧ b ≠ 0x10 ∧ b ≠ 0x14 ∧ b ≠ 0x15) (q : Nat) : (i, b) ∉ slowRegisters q := by
  obtain ⟨h1, h2, h3, h4⟩ := hb
  simp [slowRegisters, h1, h2, h3, h4]

/-! ### The frame at the front of a buffer -/

/-- A port's receive buffer has lost the frame at its front. -/
def State.freed (s : State) (p : Nat) (rest : List (Nat × RxItem)) : State := (s.modPort p (fun x => { x with fifo := rest })).watermarks p

section Front

variable {k : Nat} {rest : List (Nat × RxItem)}

theorem freed_frame (s : State) (hp : p < 6) (rest : List (Nat × RxItem)) : Frame [.wire, .ing] [(pCnt p, 0x10)] s (s.freed p rest) :=
  ((Effect.start.modPort p _ (by simp)).andQuiet (watermarks_effect _ hp (by simp) (by simp) (by simp))).frame

theorem freed_queues (s : State) (p : Nat) (rest : List (Nat × RxItem)) : (s.freed p rest).ing.queues = s.ing.queues :=
  (watermarks_queues _ p).trans (modPort_queues ..)

theorem freed_queue (s : State) (p : Nat) (rest : List (Nat × RxItem)) (n : Nat) : (s.freed p rest).queue n = s.queue n := by
  unfold State.queue
  rw [freed_queues]

theorem freed_num (s : State) (hp : p < 6) (rest : List (Nat × RxItem)) {i b : Nat} (hi : 0x1400 ≤ i ∧ i < 0x6201) (hb : b < 256) :
    (s.freed p rest).num i b = s.num i b := by
  refine (freed_frame s hp rest).num_low ?_ hi.2 hb
  simp [pCnt]
  omega

theorem Enters.freed (h : Enters s n e) (hp : p < 6) (rest : List (Nat × RxItem)) : Enters (s.freed p rest) n e := by
  have frame := freed_frame s hp rest
  have four := h.four
  refine ⟨h.lane, four, ?_, h.network, ?_, ?_⟩
  · rw [freed_queues]
    exact h.length
  · rw [ctxEnabled_congr (frame.cfg_keep (by simp))]
    exact h.enabled
  · have live := h.live
    unfold State.laneLive State.laneState at live ⊢
    rw [frame.num_keep (by simp [pCnt]) (endRegister_high (by omega))]
    exact live

theorem ingestWrite_front (front : (s.port p).fifo = (k, .fast e) :: rest) (room : s.queueHasRoom (laneOf e.stream) = true) :
    ∃ fuel, s.ingestWrite p = State.passSlow fuel ((s.freed p rest).writeQueue e) p := by
  refine ⟨((((s.freed p rest).writeQueue e).port p).fifo).length, ?_⟩
  unfold State.ingestWrite
  rw [front]
  exact if_pos room

theorem ingestWrite_held (front : (s.port p).fifo = (k, .fast e) :: rest) (full : s.queueHasRoom (laneOf e.stream) = false) :
    s.ingestWrite p = s := by
  unfold State.ingestWrite
  rw [front]
  dsimp only
  rw [full]
  rfl

/-- What the passage of a buffered frame leaves: of the queues and the registers, what writing the frame to its queue has left. -/
theorem ingestQueueWrite_reaches {p : Fin 6} {after : State → Prop} (front : (s.port p.val).fifo = (k, .fast e) :: rest)
    (room : s.queueHasRoom (laneOf e.stream) = true)
    (hafter : ∀ t, PassKept ((s.freed p.val rest).writeQueue e) t → after t) : Reaches (.ingestQueueWrite p) s after := by
  obtain ⟨fuel, passes⟩ := ingestWrite_front front room
  refine Reaches.of_ingestKept (f := fun s => s.ingestWrite p.val) rfl (fun t kept => hafter t ?_)
  have passed := passKept_passSlow fuel ((s.freed p.val rest).writeQueue e) p.val
  rw [← passes] at passed
  exact ⟨fun n => (kept.queue n).trans (passed.queue n), fun i b hi hb hn => (kept.low i b hi hb).trans (passed.low i b hi hb hn)⟩

/-- A frame of a context enters its lane's queue, and counts for its stream. -/
theorem ingestQueueWrite_takes {p : Fin 6} (front : (s.port p.val).fifo = (k, .fast e) :: rest) (enters : Enters s n e)
    (room : s.queueHasRoom n = true) (hw : (s.queue n).writeA = (s.queue n).writeB) (hr : (s.queue n).readA = (s.queue n).readB) :
    Reaches (.ingestQueueWrite p) s (fun t => TakesEntry s t n e ∧
      ((t.queue n).part = [] → t.num (0x5300 + n) 5 = State.countUp 64 (s.num (0x5300 + n) 5) 1) ∧
      t.num (0x4000 + e.stream) 0x1C = State.countUp 64 (s.num (0x4000 + e.stream) 0x1C) 1 ∧
      (s.streamState e.stream = 1 ∨ s.streamState e.stream = 4 → t.streamState e.stream = 2)) := by
  have hp := p.isLt
  have four := enters.four
  have hid := enters.stream
  have freed := enters.freed hp rest
  obtain ⟨full, queue⟩ := freed.queue
  rw [freed_queue, spillWords_congr ((freed_frame s hp rest).cfg_keep (by simp))] at queue
  obtain ⟨write, read, -⟩ := take_pointers (s.queue n) s.spillWords e
  have written : (s.freed p.val rest).writeQueue e = (s.freed p.val rest).enterQueue e := by
    unfold State.writeQueue
    rw [← enters.lane]
    exact checkPointers_agree (by rw [queue]; exact write.mpr hw) (by rw [queue]; exact read.mpr hr)
  have whole : ((s.freed p.val rest).queue n).take (s.freed p.val rest).spillWords e = (s.queue n).take s.spillWords e := by
    rw [freed_queue, spillWords_congr ((freed_frame s hp rest).cfg_keep (by simp))]
  refine ingestQueueWrite_reaches front (by rw [← enters.lane]; exact room) (fun t kept => ?_)
  rw [written] at kept
  have taken : t.queue n = { (s.queue n).take s.spillWords e with full := full } := (kept.queue n).trans queue
  refine ⟨takesEntry_of_queue taken, fun done => ?_, ?_, fun heard => ?_⟩
  · rw [taken] at done
    rw [kept.low _ _ (by omega) (by omega) (not_slow (by omega)), freed.counts (by rw [whole]; exact done),
      freed_num s hp rest (by omega) (by omega)]
  · rw [kept.low _ _ (by omega) (by omega) (not_slow (by omega)), freed.accepted, freed_num s hp rest (by omega) (by omega)]
  · have before : (s.freed p.val rest).streamState e.stream = s.streamState e.stream := freed_num s hp rest (by omega) (by omega)
    have received := freed.receiving (by rw [before]; exact heard)
    exact (kept.low _ _ (by omega) (by omega) (not_slow (by omega))).trans received

/-- A queue whose copies of the write pointer disagree is reset when a frame enters it. -/
theorem ingestQueueWrite_resets {p : Fin 6} (front : (s.port p.val).fifo = (k, .fast e) :: rest) (enters : Enters s n e)
    (room : s.queueHasRoom n = true) (hw : (s.queue n).writeA ≠ (s.queue n).writeB) (waiting : (s.queue n).waiting = []) :
    Reaches (.ingestQueueWrite p) s (fun t => (t.queue n).depth = 0 ∧ (t.queue n).frames = 0 ∧
      (t.queue n).writeA = (t.queue n).writeB ∧ t.num (0x5300 + n) 7 = State.countUp 32 (s.num (0x5300 + n) 7) 1) := by
  have hp := p.isLt
  have four := enters.four
  have freed := enters.freed hp rest
  obtain ⟨full, queue⟩ := freed.queue
  rw [freed_queue, spillWords_congr ((freed_frame s hp rest).cfg_keep (by simp))] at queue
  obtain ⟨write, -, waits⟩ := take_pointers (s.queue n) s.spillWords e
  obtain ⟨v, hv⟩ : ∃ v, v = (s.freed p.val rest).enterQueue e := ⟨_, rfl⟩
  rw [← hv] at queue
  have length : n < v.ing.queues.length := by
    rw [hv, freed.enterQueue_length]
    exact freed.length
  have written : (s.freed p.val rest).writeQueue e = ((v.lostQueue n).inc32 (0x5300 + n) 0x07).raiseEvent (32 + 4 * n + 1) n := by
    unfold State.writeQueue
    rw [← enters.lane, ← hv]
    exact checkPointers_differ (by rw [queue]; exact fun h => hw (write.mp h)) (by rw [queue]; exact waits.trans waiting)
  refine ingestQueueWrite_reaches front (by rw [← enters.lane]; exact room) (fun t kept => ?_)
  rw [written, State.inc32_eq] at kept
  have lost : t.queue n = (v.lostQueue n).queue n := by
    rw [kept.queue, State.queue_raiseEvent, State.queue_set]
  obtain ⟨depth, frames, pointers⟩ := lostQueue_queue v length
  refine ⟨by rw [lost]; exact depth, by rw [lost]; exact frames, by rw [lost]; exact pointers, ?_⟩
  rw [kept.low _ _ (by omega) (by omega) (not_slow (by omega)), State.num_raiseEvent, State.num_set, lostQueue_resets v four, hv,
    freed.enterQueue_num (by omega) (by omega) (by omega), freed.noteFrame_num (by omega) (by omega),
    freed_num s hp rest (by omega) (by omega)]

end Front

end Sys2Proof.Machine
end

section
/-! Received frames: the MAC checks, the wake filters, a full buffer, PRP's duplicates and the frames that enter the receive buffer (R176,
R177, R181, R185, R188, R190). -/

namespace Sys2Proof.Machine

set_option Elab.async false

variable {P : List Part} {R : List (Nat × Nat)} {L : List Nat} {s t u : State} {p n : Nat} {e : IngestEntry}

/-! ### A frame that leaves nothing in the receive ring -/

theorem serveRing_idle {p : Fin 6} (h : (s.port p.val).rx = []) : s.serveRing p = s := by
  have same : s.modPort p.val (fun x => { x with rx := [] }) = s := modPort_same _ (by rw [← h])
  unfold State.serveRing
  rw [h, same]
  exact ite_self _

/-- A frame that neither wakes the unit nor has another layout than its context, and that leaves the receive ring empty. -/
theorem frameReceive_of_receive {p : Fin 6} {frame : List Byte} {fcsOk : Bool} {tdc : Nat}
    (h : s.receive p.val frame fcsOk tdc = (u, none)) (layout : u.num (pCnt p.val) 0x0D = s.num (pCnt p.val) 0x0D)
    (ring : (u.port p.val).rx = []) : s.frameReceive p frame fcsOk tdc = u := by
  unfold State.frameReceive
  dsimp only
  rw [h]
  dsimp only
  rw [if_pos layout, serveRing_idle ring]

section Receive

variable {frame : List Byte} {fcsOk : Bool} {tdc : Nat}

theorem receive_off (h : s.portOn p = false) : s.receive p frame fcsOk tdc = (s, none) := by
  unfold State.receive
  exact if_pos (by simp [h])

theorem receive_checked (on : s.portOn p = true) (powered : s.serdesOn p = true) {sub : Nat} (bad : s.macCheck p frame fcsOk = some sub) :
    s.receive p frame fcsOk tdc = (s.inc32 (pCnt p) sub, none) := by
  unfold State.receive
  rw [if_neg (by simp [on, powered]), bad]

theorem receive_quiet (on : s.portOn p = true) (powered : s.serdesOn p = true) (good : s.macCheck p frame fcsOk = none)
    (quiet : s.quiet = true) : s.receive p frame fcsOk tdc =
      ((s.wakeMatches p frame).foldl (fun t n => t.inc32 (wakeIndex n) 0x05) (s.inc64 (pCnt p) 0x01), (s.wakeMatches p frame).head?) := by
  unfold State.receive
  rw [if_neg (by simp [on, powered]), good]
  exact if_pos quiet

/-- A frame that the MAC of a port takes in service. -/
structure Accepts (s : State) (p : Nat) (frame : List Byte) (fcsOk : Bool) : Prop where
  on : s.portOn p = true
  powered : s.serdesOn p = true
  good : s.macCheck p frame fcsOk = none
  awake : s.quiet = false
  address : s.macAccepts p frame = true

theorem Accepts.receive_full (h : Accepts s p frame fcsOk) (full : s.rxBuffer p < s.occupancy p + frame.length + 4) :
    s.receive p frame fcsOk tdc =
      (if (s.port p).discarding then (s.inc64 (pCnt p) 0x07).modPort p (fun x => { x with discarding := true })
        else ((s.inc64 (pCnt p) 0x07).modPort p (fun x => { x with discarding := true })).raiseEvent (8 + 4 * p + 1) p, none) := by
  unfold State.receive
  rw [if_neg (by simp [h.on, h.powered]), h.good]
  dsimp only
  rw [if_neg (by simp [h.awake]), if_neg (by simp [h.address]), if_pos full]

/-- A frame with room in the buffer has been counted, and its step of PRP decides. -/
theorem Accepts.receive_room (h : Accepts s p frame fcsOk) (room : s.occupancy p + frame.length + 4 ≤ s.rxBuffer p)
    {r : State × Option (List Byte)} (step : (s.inc64 (pCnt p) 0x01).prpStep p frame = r) : s.receive p frame fcsOk tdc =
      (r.2.elim r.1 (fun f =>
        r.1.classified p (frame.length + 4) f ((s.prpPairOf p).isSome && p % 2 == 1) (s.rxStamp p tdc)), none) := by
  obtain ⟨t, f⟩ := r
  unfold State.receive
  rw [if_neg (by simp [h.on, h.powered]), h.good]
  dsimp only
  rw [if_neg (by simp [h.awake]), if_neg (by simp [h.address]), if_neg (by omega), step]
  cases f <;> rfl

end Receive

/-! ### Frames that go no further -/

theorem frameReceive_off {p : Fin 6} {frame : List Byte} {fcsOk : Bool} {tdc : Nat} (hset : s.settled) (ring : (s.port p.val).rx = [])
    (off : s.portOn p.val = false) :
    Does (.frameReceive p frame fcsOk tdc) s [.ing] [] [] (fun t => t.ing.core = s.ing.core) := by
  have same := frameReceive_of_receive (receive_off (frame := frame) (fcsOk := fcsOk) (tdc := tdc) off) rfl ring
  refine Does.of_state (f := fun s => s.frameReceive p frame fcsOk tdc) rfl hset.raises same ?_ (by simp) (fun t ht => ?_)
  · exact Effect.start
  · exact ht.part .ing

/-- The counter of a frame that fails a MAC check (R177). -/
theorem macCheck_bad {frame : List Byte} {fcsOk : Bool}
    (bad : frame.length + 4 < 64 ∨ s.c (pCfg p) 7 < frame.length + 4 ∨ fcsOk = false) : s.macCheck p frame fcsOk =
      some (if frame.length + 4 < 64 then 0x04 else if s.c (pCfg p) 7 < frame.length + 4 then 0x06 else 0x05) := by
  unfold State.macCheck
  by_cases short : frame.length + 4 < 64
  · rw [if_pos short, if_pos short]
  · by_cases long : s.c (pCfg p) 7 < frame.length + 4
    · rw [if_neg short, if_neg short, if_pos long, if_pos long]
    · have fcs : fcsOk = false := by tauto
      rw [if_neg short, if_neg short, if_neg long, if_neg long, fcs]
      rfl

theorem frameReceive_bad {p : Fin 6} {frame : List Byte} {fcsOk : Bool} {tdc sub : Nat} (hset : s.settled) (ring : (s.port p.val).rx = [])
    (on : s.portOn p.val = true) (powered : s.serdesOn p.val = true) (bad : s.macCheck p.val frame fcsOk = some sub)
    (hsub : sub ≠ 0x0D ∧ sub < 256) :
    Does (.frameReceive p frame fcsOk tdc) s [.ing] [(pCnt p.val, sub)] [] (fun t => t.ing.core = s.ing.core ∧
      t.num (pCnt p.val) sub = State.countUp 32 (s.num (pCnt p.val) sub) 1) := by
  have low : pCnt p.val < 0x6201 := by unfold pCnt; omega
  obtain ⟨hd, h8⟩ := hsub
  have received := receive_checked (tdc := tdc) on powered bad
  rw [State.inc32_eq] at received
  have counted := frameReceive_of_receive received (State.num_set_ne _ _ h8 (by omega) (by omega) (by omega))
    (by rw [State.port_set]; exact ring)
  refine Does.of_state (f := fun s => s.frameReceive p frame fcsOk tdc) rfl hset.raises counted ?_ (by simp) (fun t ht => ?_)
  · exact Effect.start.setLow _ _ _ _ (by simp) low
  · exact ⟨(ht.part .ing : _).trans (by rw [State.set_ing]), by rw [ht.num_low (by simp) low h8, State.num_set]⟩

/-! ### A frame that wakes the unit -/

/-- The registers that a wake by a frame on a port writes: the counts of frames and matches, POWER_STATE, its cause, and the lanes' states. -/
def wakeRegisters (p : Nat) : List (Nat × Nat) :=
  [(pCnt p, 0x01), (0xF140, 0x01), (0xF140, 0x04)] ++ (List.range 16).map (fun n => (wakeIndex n, 0x05)) ++
    (List.range 4).map (fun n => (0xF130 + n, 0x01))

/-- The matches of wake filters that a frame in QUIET counts. -/
def State.countMatches (s : State) (p : Nat) (hits : List Nat) : State :=
  hits.foldl (fun t n => t.inc32 (wakeIndex n) 0x05) (s.inc64 (pCnt p) 0x01)

theorem wakeIndex_lt (h : n < 16) : wakeIndex n < 0x2000 := by
  unfold wakeIndex
  omega

theorem countMatches_effect (s : State) (hp : p < 6) {hits : List Nat} (hh : ∀ n ∈ hits, n < 16) :
    Effect [] ((pCnt p, 0x01) :: (List.range 16).map (fun n => (wakeIndex n, 0x05))) [] s (s.countMatches p hits) := by
  unfold State.countMatches
  rw [State.inc64_eq]
  refine (Effect.start.setLow _ _ _ _ (by simp) (by unfold pCnt; omega)).andQuiet (Effect.foldl _ _ (fun t n hn => ?_) _)
  have := wakeIndex_lt (hh n hn)
  rw [State.inc32_eq]
  exact Effect.start.setLow _ _ _ _ (List.mem_cons_of_mem _ (List.mem_map_of_mem (List.mem_range.mpr (hh n hn)))) (by omega)

theorem countMatches_power (s : State) (hp : p < 6) {hits : List Nat} (hh : ∀ n ∈ hits, n < 16) : (s.countMatches p hits).power = s.power := by
  refine (countMatches_effect s hp hh).frame.num_keep (fun h => ?_) (by decide)
  rcases List.mem_cons.mp h with h | h
  · have := congrArg Prod.fst h
    unfold pCnt at this
    dsimp only at this
    omega
  · obtain ⟨n, hn, h⟩ := List.mem_map.mp h
    have lt := wakeIndex_lt (List.mem_range.mp hn)
    have := congrArg Prod.fst h
    dsimp only at this
    omega

/-- A wake of a unit in QUIET: POWER_STATE and the cause, and the lanes to be reloaded. -/
theorem wake_effect (s : State) (cause : Nat) (h : s.power = 2) :
    Effect [] ([(0xF140, 0x01), (0xF140, 0x04)] ++ (List.range 4).map (fun n => (0xF130 + n, 0x01))) [] s (s.wake cause) := by
  have state : Effect [] ([(0xF140, 0x01), (0xF140, 0x04)] ++ (List.range 4).map (fun n => (0xF130 + n, 0x01))) [] s
      ((s.setN 0xF140 0x01 3).setN 0xF140 0x04 cause) :=
    (Effect.start.set _ _ _ _ (by omega) (by omega) (.inl (by simp)) (by omega)).set _ _ _ _ (by omega) (by omega) (.inl (by simp)) (by omega)
  unfold State.wake
  rw [if_neg (by simp [h])]
  refine state.andQuiet (Effect.foldl _ _ (fun t n hn => ?_) _)
  exact Effect.start.set _ _ _ _ (by omega) (by omega) (.inl (List.mem_append_right _ (List.mem_map_of_mem hn)))
    (by have := List.mem_range.mp hn; omega)

theorem wake_state (s : State) (cause : Nat) (h : s.power = 2) : (s.wake cause).power = 3 ∧ (s.wake cause).num 0xF140 4 = cause := by
  have lanes : ∀ u : State, Effect [] ((List.range 4).map (fun n => (0xF130 + n, 0x01))) [] u
      ((List.range 4).foldl (fun (t : State) n => t.setN (0xF130 + n) 0x01 2) u) := fun u =>
    Effect.foldl _ _ (fun t n hn => Effect.start.set (0xF130 + n) 0x01 0 _ (by omega) (by omega) (.inl (List.mem_map_of_mem hn))
      (by have := List.mem_range.mp hn; omega)) u
  have kept : ∀ (u : State) (b : Nat), b < 256 →
      ((List.range 4).foldl (fun (t : State) n => t.setN (0xF130 + n) 0x01 2) u).num 0xF140 b = u.num 0xF140 b := fun u b hb =>
    (lanes u).frame.num_keep (by simp; omega) (endRegister_high (by omega)) hb
  unfold State.wake State.power
  rw [if_neg (by simpa [State.power] using h), kept _ _ (by omega), kept _ _ (by omega)]
  refine ⟨?_, State.num_set _ _ _ _⟩
  rw [State.setN_eq, State.setN_eq, State.num_set_ne _ _ (by omega) (by omega) (by omega) (by omega)]
  exact State.num_set _ _ _ 3

theorem frameReceive_wakes {p : Fin 6} {frame : List Byte} {fcsOk : Bool} {tdc w : Nat} {rest : List Nat} (hset : s.settled)
    (on : s.portOn p.val = true) (powered : s.serdesOn p.val = true) (good : s.macCheck p.val frame fcsOk = none) (quiet : s.power = 2)
    (hits : s.wakeMatches p.val frame = w :: rest) :
    Reaches (.frameReceive p frame fcsOk tdc) s (fun t => t.power = 3 ∧ t.num 0xF140 4 = 1) := by
  have hp := p.isLt
  have small : ∀ n ∈ s.wakeMatches p.val frame, n < 16 := fun n hn => List.mem_range.mp (List.mem_of_mem_filter hn)
  have received := receive_quiet (tdc := tdc) on powered good (by simpa [State.quiet, State.power] using quiet)
  obtain ⟨v, hv⟩ : ∃ v, v = s.countMatches p.val (s.wakeMatches p.val frame) := ⟨_, rfl⟩
  have power : v.power = 2 := by rw [hv, countMatches_power s hp small, quiet]
  have wakes : s.frameReceive p frame fcsOk tdc = v.wake 1 := by
    unfold State.frameReceive
    dsimp only
    rw [received, hv]
    dsimp only
    rw [hits]
    rfl
  have effect : Effect [] (wakeRegisters p.val) [] s (v.wake 1) := by
    rw [hv] at power ⊢
    refine ((countMatches_effect s hp small).mono (by simp) (fun r hr => ?_)).andQuiet ((wake_effect _ 1 power).mono (by simp) (fun r hr => ?_))
    · rcases List.mem_cons.mp hr with rfl | hr
      · simp [wakeRegisters]
      · exact List.mem_append_left _ (List.mem_append_right _ hr)
    · rcases List.mem_append.mp hr with hr | hr
      · exact List.mem_append_left _ (List.mem_append_left _ (List.mem_cons_of_mem _ hr))
      · exact List.mem_append_right _ hr
  obtain ⟨woken, cause⟩ := wake_state v 1 power
  refine Reaches.of_does (Does.of_state (f := fun s => s.frameReceive p frame fcsOk tdc) rfl hset.raises wakes effect (by simp)
    (fun t ht => ?_))
  exact ⟨(ht.num 0xF140 1).trans woken, (ht.num 0xF140 4).trans cause⟩

/-! ### A buffer without room -/

theorem frameReceive_discards {p : Fin 6} {frame : List Byte} {fcsOk : Bool} {tdc : Nat} (hset : s.settled)
    (ring : (s.port p.val).rx = []) (h : Accepts s p.val frame fcsOk) (full : s.rxBuffer p.val < s.occupancy p.val + frame.length + 4)
    (hlen : p.val < s.ing.ports.length) :
    Does (.frameReceive p frame fcsOk tdc) s [.ing] [(pCnt p.val, 7)] (if (s.port p.val).discarding then [] else [8 + 4 * p.val + 1])
      (fun t => t.num (pCnt p.val) 7 = State.countUp 64 (s.num (pCnt p.val) 7) 1 ∧ (t.port p.val).discarding = true) := by
  have low : pCnt p.val < 0x6201 := by unfold pCnt; omega
  obtain ⟨w, hw⟩ : ∃ w, w = s.set (pCnt p.val) 0x07 0 (.int (State.countUp 64 (s.num (pCnt p.val) 0x07) 1)) := ⟨_, rfl⟩
  obtain ⟨v, hv⟩ : ∃ v, v = w.modPort p.val (fun x => { x with discarding := true }) := ⟨_, rfl⟩
  obtain ⟨u, hu⟩ : ∃ u, u = if (s.port p.val).discarding then v else v.raiseEvent (8 + 4 * p.val + 1) p.val := ⟨_, rfl⟩
  have received : s.receive p.val frame fcsOk tdc = (u, none) := by
    rw [h.receive_full full, State.inc64_eq, ← hw, ← hv, ← hu]
  have effect : Effect [.ing] [(pCnt p.val, 7)] [] s v := by
    rw [hv, hw]
    exact (Effect.start.setLow _ _ _ _ (by simp) low).modPort _ _ (by simp)
  have port : u.port p.val = { s.port p.val with discarding := true } := by
    have changed : v.port p.val = { s.port p.val with discarding := true } := by
      rw [hv, port_modPort _ (by simpa [hw] using hlen), hw, State.port_set]
    rw [hu]
    split
    · exact changed
    · rw [State.port_raiseEvent, changed]
  have num : ∀ b, u.num (pCnt p.val) b = w.num (pCnt p.val) b := fun b => by
    rw [hu]
    split <;> simp [hv]
  have discards := frameReceive_of_receive received
    (by rw [num, hw, State.num_set_ne _ _ (by omega) (by omega) (by omega) (by omega)]) (by rw [port]; exact ring)
  refine Does.of_effect (f := fun s => s.frameReceive p frame fcsOk tdc) rfl hset.raises ?_ ?_ (fun t ht _ => ?_)
  · rw [discards, hu]
    split
    · exact effect
    · exact effect.raise _ _
  · split <;> simp
    omega
  · rw [discards] at ht
    rw [ht.num_low (by simp) low, num, hw, State.num_set, ht.port_keep (by simp), port]
    exact ⟨rfl, rfl⟩

/-! ### A duplicate -/

/-- A frame of a pair is counted on its port, and as one from the wrong LAN when its RCT names the other (R184). -/
def State.countLan (s : State) (p n lan : Nat) : State :=
  let t := s.set (pCnt p) 0x01 0 (.int (State.countUp 64 (s.num (pCnt p) 0x01) 1))
  if lan = (if p % 2 = 0 then 0xA else 0xB) then t else t.set (prpIndex n) 0x05 0 (.int (State.countUp 32 (t.num (prpIndex n) 0x05) 1))

/-- A property that writes of the two counters bring about. -/
theorem countLan_keeps {r : State → Prop} (p n lan : Nat)
    (once : ∀ v, r (s.set (pCnt p) 0x01 0 v)) (twice : ∀ v w, r ((s.set (pCnt p) 0x01 0 v).set (prpIndex n) 0x05 0 w)) :
    r (s.countLan p n lan) := by
  unfold State.countLan
  by_cases own : lan = (if p % 2 = 0 then 0xA else 0xB)
  · rw [if_pos own]
    exact once _
  · rw [if_neg own]
    exact twice _ _

theorem countLan_ing (s : State) (p n lan : Nat) : (s.countLan p n lan).ing = s.ing :=
  countLan_keeps (r := fun t => t.ing = s.ing) p n lan (fun _ => State.set_ing ..)
    (fun _ _ => (State.set_ing ..).trans (State.set_ing ..))

theorem countLan_raw (s : State) (p n lan : Nat) : (s.countLan p n lan).raw = s.raw :=
  countLan_keeps (r := fun t => t.raw = s.raw) p n lan (fun _ => State.raw_set ..)
    (fun _ _ => (State.raw_set ..).trans (State.raw_set ..))

theorem countLan_num (s : State) (p n lan : Nat) {i b : Nat} (hb : b ≠ 0x01 ∧ b ≠ 0x05 ∧ b < 256) :
    (s.countLan p n lan).num i b = s.num i b := by
  obtain ⟨h1, h5, h8⟩ := hb
  have first : ∀ v, (s.set (pCnt p) 0x01 0 v).num i b = s.num i b := fun v =>
    State.num_set_ne s v (by omega) (by omega) h8 (by omega)
  exact countLan_keeps (r := fun t => t.num i b = s.num i b) p n lan first
    (fun v w => (State.num_set_ne _ w (by omega) (by omega) h8 (by omega)).trans (first v))

theorem countLan_effect (s : State) (lan : Nat) (hp : p < 6) (hn : n < 2) (h1 : (pCnt p, 0x01) ∈ R) (h5 : (prpIndex n, 0x05) ∈ R) :
    Effect P R [] s (s.countLan p n lan) := by
  have first : ∀ v, Effect P R [] s (s.set (pCnt p) 0x01 0 v) := fun v => Effect.start.setLow _ _ _ _ h1 (by unfold pCnt; omega)
  exact countLan_keeps (r := Effect P R [] s) p n lan first (fun v w => (first v).setLow _ _ _ w h5 (by unfold prpIndex; omega))

/-- A source's entry is new, and the duplicate is counted (R185). -/
def State.dropDuplicate (s : State) (n : Nat) (source : List Byte) : State :=
  (s.modPair n (fun z => { z with nodes := z.nodes.map (fun w => if w.source = source then { w with tick := s.raw } else w) })).set
    (prpIndex n) 0x04 0 (.int (State.countUp 64 (s.num (prpIndex n) 0x04) 1))

theorem prpAccept_duplicate {source : List Byte} {seq : Nat} {node : PrpNode}
    (known : (s.pair n).nodes.find? (fun y => y.source = source) = some node) (old : node.accept seq s.raw = none) :
    s.prpAccept n source seq = (s.dropDuplicate n source, false) := by
  obtain ⟨next, accepts⟩ : ∃ next : PrpNode → Option PrpNode, ∀ x, x.accept seq s.raw = next x := ⟨_, fun _ => rfl⟩
  rw [accepts] at old
  unfold State.prpAccept State.dropDuplicate
  simp only [accepts]
  rw [known]
  dsimp only
  rw [old]
  dsimp only
  rw [State.inc64_eq, State.num_modPair]

theorem prpStep_duplicate {frame : List Byte} {seq lan : Nat} {node : PrpNode} (paired : s.prpPairOf p = some n)
    (trailer : findRct frame = some (seq, lan))
    (known : (s.pair n).nodes.find? (fun y => y.source = slice frame 6 6) = some node) (old : node.accept seq s.raw = none) :
    (s.inc64 (pCnt p) 0x01).prpStep p frame = ((s.countLan p n lan).dropDuplicate n (slice frame 6 6), none) := by
  have pair : (s.countLan p n lan).pair n = s.pair n := by
    unfold State.pair
    rw [countLan_ing]
  have duplicate : (s.countLan p n lan).prpAccept n (slice frame 6 6) seq =
      ((s.countLan p n lan).dropDuplicate n (slice frame 6 6), false) :=
    prpAccept_duplicate (by rw [pair]; exact known) (by rw [countLan_raw]; exact old)
  unfold State.countLan at duplicate ⊢
  unfold State.prpStep
  rw [State.inc64_eq, prpPairOf_congr (s := s) (State.set_cfg ..), paired, trailer]
  dsimp only
  rw [State.inc32_eq, duplicate]

theorem frameReceive_duplicate {p : Fin 6} {frame : List Byte} {fcsOk : Bool} {tdc seq lan : Nat} {node : PrpNode} (hset : s.settled)
    (ring : (s.port p.val).rx = []) (h : Accepts s p.val frame fcsOk) (room : s.occupancy p.val + frame.length + 4 ≤ s.rxBuffer p.val)
    (paired : s.prpPairOf p.val = some n) (trailer : findRct frame = some (seq, lan))
    (known : (s.pair n).nodes.find? (fun y => y.source = slice frame 6 6) = some node) (old : node.accept seq s.raw = none) :
    Does (.frameReceive p frame fcsOk tdc) s [.ing] [(pCnt p.val, 1), (prpIndex n, 4), (prpIndex n, 5)] [] (fun t =>
      t.num (prpIndex n) 4 = State.countUp 64 (s.num (prpIndex n) 4) 1 ∧ (t.port p.val).fifo = (s.port p.val).fifo) := by
  have hn := prpPairOf_lt paired
  have lowPair : prpIndex n < 0x6201 := by unfold prpIndex; omega
  obtain ⟨v, hv⟩ : ∃ v, v = s.countLan p.val n lan := ⟨_, rfl⟩
  have step := prpStep_duplicate paired trailer known old
  rw [← hv] at step
  have received := h.receive_room (tdc := tdc) room step
  dsimp only at received
  rw [Option.elim_none] at received
  have port : (v.dropDuplicate n (slice frame 6 6)).port p.val = s.port p.val := by
    unfold State.dropDuplicate
    rw [State.port_set, State.port_modPair, hv]
    unfold State.port
    rw [countLan_ing]
  have counted : ∀ {i b : Nat}, b ≠ 0x01 ∧ b ≠ 0x05 ∧ b < 256 → v.num i b = s.num i b := fun hb => by rw [hv, countLan_num s _ _ _ hb]
  have drops := frameReceive_of_receive received
    (by
      unfold State.dropDuplicate
      rw [State.num_set_ne _ _ (by omega) (by omega) (by omega) (by omega), State.num_modPair, counted (by omega)])
    (by rw [port]; exact ring)
  refine Does.of_state (f := fun s => s.frameReceive p frame fcsOk tdc) rfl hset.raises drops ?_ (by simp) (fun t ht => ?_)
  · rw [hv]
    exact ((countLan_effect s lan p.isLt hn (by simp) (by simp)).modPair _ _ (by simp)).setLow _ _ _ _ (by simp) lowPair
  · rw [ht.num_low (by simp) lowPair, ht.port_keep (by simp), port]
    unfold State.dropDuplicate
    rw [State.num_set, counted (by omega)]
    exact ⟨rfl, rfl⟩

/-! ### A data frame -/

theorem classify_congr (h : u.cfg = s.cfg) (p : Nat) (frame : List Byte) : u.classify p frame = s.classify p frame := by
  have remote : u.enabledRemote = s.enabledRemote := by
    unfold State.enabledRemote
    rw [h]
  have bytes : ∀ i b, u.cBytes i b = s.cBytes i b := fun i b => by
    unfold State.cBytes State.cValue
    rw [h]
  unfold State.classify State.tcForwards State.ownAddresses
  simp only [remote, bytes, State.c_congr h, cB_congr h, homePort_congr h]

/-- An entry comes from the branch that makes one. -/
theorem of_ite_none {α β : Type} {q : Prop} [Decidable q] {x y : α} {z : β} {a : α × Option β}
    (h : (if q then (x, none) else a) = (y, some z)) : a = (y, some z) := by
  split at h
  · cases h
  · exact h

/-- A data frame that makes an entry has been counted among the port's stream frames, and has done nothing else. -/
theorem fastPath_entry {tci : Nat} {src dst : List Byte} {ok v6 : Bool} {dgram : List Byte} {stamp : Et}
    (h : s.fastPath p tci src dst ok v6 dgram stamp = (u, some e)) : u = s.inc64 (pCnt p) 0x02 := by
  unfold State.fastPath at h
  dsimp only at h
  replace h := of_ite_none (of_ite_none (of_ite_none h))
  split at h
  · cases h
  · exact (Prod.mk.inj (of_ite_none (of_ite_none (of_ite_none (of_ite_none h))))).1.symm

/-- A fast-path frame enters an empty receive buffer, and stays there. -/
theorem bufferFrame_fast {size : Nat} (empty : (s.port p).fifo = []) (hlen : p < s.ing.ports.length) :
    s.bufferFrame p size (.fast e) = (s.modPort p (fun x => { x with fifo := x.fifo ++ [(size, .fast e)] })).watermarks p := by
  have port := watermarks_port Port.fifo (fun _ _ _ _ => rfl) (s.modPort p (fun x => { x with fifo := x.fifo ++ [(size, .fast e)] })) p p
  rw [port_modPort _ hlen, empty] at port
  exact passSlow_fast _ port

theorem frameReceive_buffers {p : Fin 6} {frame inner : List Byte} {fcsOk tagged ok v6 : Bool} {tdc tci : Nat} {src dst dgram : List Byte}
    (ring : (s.port p.val).rx = []) (h : Accepts s p.val frame fcsOk) (room : s.occupancy p.val + frame.length + 4 ≤ s.rxBuffer p.val)
    (alone : s.prpPairOf p.val = none) (tag : untag frame = some (tci, tagged, inner))
    (data : s.classify p.val inner = .data src dst ok v6 dgram)
    (entry : (s.inc64 (pCnt p.val) 1).fastPath p.val tci src dst ok v6 dgram (s.rxStamp p.val tdc) = (u, some e))
    (empty : (s.port p.val).fifo = []) (hlen : p.val < s.ing.ports.length) :
    Reaches (.frameReceive p frame fcsOk tdc) s (fun t => (t.port p.val).fifo = [(frame.length + 4, .fast e)]) := by
  have hp := p.isLt
  obtain ⟨v, hv⟩ : ∃ v, v = s.inc64 (pCnt p.val) 1 := ⟨_, rfl⟩
  have counted : u = v.inc64 (pCnt p.val) 0x02 := by
    rw [hv]
    exact fastPath_entry entry
  rw [State.inc64_eq] at hv counted
  rw [State.inc64_eq, ← hv] at entry
  have cfg : v.cfg = s.cfg := by rw [hv, State.set_cfg]
  have ing : u.ing = s.ing := by rw [counted, State.set_ing, hv, State.set_ing]
  have port : u.port p.val = s.port p.val := by
    unfold State.port
    rw [ing]
  have layout : u.num (pCnt p.val) 0x0D = s.num (pCnt p.val) 0x0D := by
    rw [counted, State.num_set_ne _ _ (by omega) (by omega) (by omega) (by omega), hv,
      State.num_set_ne _ _ (by omega) (by omega) (by omega) (by omega)]
  obtain ⟨w, hw⟩ : ∃ w, w = u.modPort p.val (fun x => { x with fifo := x.fifo ++ [(frame.length + 4, .fast e)] }) := ⟨_, rfl⟩
  have buffered : u.bufferFrame p.val (frame.length + 4) (.fast e) = w.watermarks p.val := by
    rw [hw]
    exact bufferFrame_fast (by rw [port]; exact empty) (by rw [ing]; exact hlen)
  have step : (s.inc64 (pCnt p.val) 1).prpStep p.val frame = (v, some frame) := by
    unfold State.prpStep
    rw [State.inc64_eq, ← hv, prpPairOf_congr cfg, alone]
  have enters : ∀ lanB, v.classified p.val (frame.length + 4) frame lanB (s.rxStamp p.val tdc) = w.watermarks p.val := fun lanB => by
    unfold State.classified
    rw [tag]
    dsimp only
    rw [classify_congr cfg, data]
    dsimp only
    rw [entry, ← buffered]
  have received : s.receive p.val frame fcsOk tdc = (w.watermarks p.val, none) := by
    rw [h.receive_room room step]
    dsimp only
    rw [Option.elim_some, enters]
  have marked : ∀ {β : Type} (g : Port → β) (_ : ∀ (x : Port) (b c : Bool) (k : Nat),
      g { x with discarding := b, pauseOn := c, pauseTick := k } = g x), g ((w.watermarks p.val).port p.val) = g (w.port p.val) :=
    fun g hg => watermarks_port g hg w p.val p.val
  have wport : w.port p.val = { s.port p.val with fifo := (s.port p.val).fifo ++ [(frame.length + 4, .fast e)] } := by
    rw [hw, port_modPort _ (by rw [ing]; exact hlen), port]
  have waits := frameReceive_of_receive received
    (by
      rw [(watermarks_effect (P := [.wire, .ing]) (R := [(pCnt p.val, 0x10)]) w hp (by simp) (by simp) (by simp)).frame.num_low (by simp)
        (by unfold pCnt; omega), hw, State.num_modPort, layout])
    (by rw [marked Port.rx (fun _ _ _ _ => rfl), wport]; exact ring)
  refine Reaches.of_ingestKept (f := fun s => s.frameReceive p frame fcsOk tdc) rfl (fun t kept => ?_)
  rw [kept.port, waits, marked Port.fifo (fun _ _ _ _ => rfl), wport, empty]
  rfl

/-! ### Reception -/

/-- Settles O30: reception by what becomes of a frame at each of its checks, and the way into a lane's queue by the two outcomes of the
comparison of its pointers. -/
theorem receivedFramesReachTheirLane : Obligations.ReceivedFramesReachTheirLane := by
  refine ⟨?_, ?_⟩
  · intro p frame fcsOk tdc s hset ring
    refine ⟨frameReceive_off hset ring, fun on powered => ⟨?_, fun good => ⟨?_, ?_, ?_⟩⟩⟩
    · intro sub hsub bad
      refine frameReceive_bad hset ring on powered (by rw [hsub]; exact macCheck_bad bad) ?_
      rw [hsub]
      split
      · omega
      · split <;> omega
    · exact fun w rest quiet hits => frameReceive_wakes hset on powered good quiet hits
    · exact fun awake address full hlen => frameReceive_discards hset ring ⟨on, powered, good, awake, address⟩ full hlen
    · intro awake address room
      have accepts : Accepts s p.val frame fcsOk := ⟨on, powered, good, awake, address⟩
      exact ⟨fun n seq lan node paired trailer known old => frameReceive_duplicate hset ring accepts room paired trailer known old,
        fun tci tagged inner src dst ok v6 dgram e u alone tag data entry empty hlen =>
          frameReceive_buffers ring accepts room alone tag data entry empty hlen⟩
  · intro p n size e rest s hset front lane four hlen
    refine ⟨fun room network enabled live => ?_, fun full => ?_⟩
    · have enters : Enters s n e := ⟨lane, four, hlen, network, enabled, live⟩
      exact ⟨ingestQueueWrite_takes front enters room, ingestQueueWrite_resets front enters room⟩
    · exact does_nothing (f := fun s => s.ingestWrite p.val) hset rfl (ingestWrite_held front (by rw [← lane]; exact full))

end Sys2Proof.Machine
end

section
/-! Completeness checked again in the lanes: what it leaves of the ingest unit and its registers (R229). -/

namespace Sys2Proof.Machine

set_option Elab.async false

variable {s t u : State} {n : Nat}

/-- Between two states the lanes' queues are the same, and so are the registers below those of the transit engine. -/
structure RecheckKept (s u : State) : Prop where
  queue : ∀ n, u.queue n = s.queue n
  low : ∀ i b, i < 0x5000 → b < 256 → u.num i b = s.num i b

theorem RecheckKept.refl (s : State) : RecheckKept s s := ⟨fun _ => rfl, fun _ _ _ _ => rfl⟩

theorem RecheckKept.trans (h : RecheckKept s u) (k : RecheckKept u t) : RecheckKept s t :=
  ⟨fun n => (k.queue n).trans (h.queue n), fun i b hi hb => (k.low i b hi hb).trans (h.low i b hi hb)⟩

theorem RecheckKept.ite {a b : State} {q : Prop} [Decidable q] (h : RecheckKept s a) (k : RecheckKept s b) :
    RecheckKept s (if q then a else b) := by
  split
  · exact h
  · exact k

theorem RecheckKept.foldl {α : Type} (f : State → α → State) (l : List α) (hf : ∀ t x, RecheckKept t (f t x)) (s : State) :
    RecheckKept s (l.foldl f s) := by
  induction l generalizing s with
  | nil => exact RecheckKept.refl s
  | cons x rest ih => exact (hf s x).trans (ih _)

theorem recheckKept_modLane (s : State) (n : Nat) (f : Lane → Lane) : RecheckKept s (s.modLane n f) := ⟨fun _ => rfl, fun _ _ _ _ => rfl⟩
theorem recheckKept_raise (s : State) (m k : Nat) : RecheckKept s (s.raiseEvent m k) := ⟨fun _ => rfl, fun _ _ _ _ => rfl⟩

theorem recheckKept_set (s : State) (b : Nat) (v : Value) (hb : b < 256 := by omega) : RecheckKept s (s.set (0x5200 + n) b 0 v) :=
  ⟨fun _ => rfl, fun _ _ hi hc => State.num_set_ne s v hb (by omega) hc (by omega)⟩

theorem recheckKept_perf (s : State) (die code k : Nat) : RecheckKept s (s.perf die code k) := by
  have counted := (perf_counting_die s die code k).frame
  refine ⟨fun n => counted.queue_keep (by simp) n, fun i b hi hb => counted.num_low (fun h => ?_) (by omega) hb⟩
  have := index_of_mem_counterRegisters h
  dsimp only at this
  omega

theorem recheckKept_modSlot (s : State) (n ord : Nat) (f : LaneSlot → LaneSlot) : RecheckKept s (s.modSlot n ord f) := by
  unfold State.modSlot
  dsimp only
  rw [State.setMax_eq]
  exact (recheckKept_modLane s _ _).trans (recheckKept_set _ _ _)

theorem recheckKept_sendPartial (s : State) (n ord : Nat) : RecheckKept s (s.sendPartial n ord) := by
  unfold State.sendPartial State.advanceBase
  exact ((((recheckKept_modLane s _ _).trans (recheckKept_modSlot _ _ _ _)).trans (recheckKept_perf _ _ _ _)).trans
    (recheckKept_perf _ _ _ _)).trans (recheckKept_modLane _ _ _)

theorem recheckKept_admitTask (s : State) (n : Nat) : RecheckKept s (s.admitTask n) := by
  have admitted : ∀ (f : Lane → Lane) (v : Nat), RecheckKept s ((s.modLane n f).setMax (0x5200 + n) 0x0B v) := fun f v => by
    rw [State.setMax_eq]
    exact (recheckKept_modLane s _ _).trans (recheckKept_set _ _ _)
  have saturated : ∀ t : State, RecheckKept t (t.inc32 (0x5200 + n) 0x0D) := fun t => by
    rw [State.inc32_eq]
    exact recheckKept_set t _ _
  unfold State.admitTask
  dsimp only
  refine RecheckKept.ite (RecheckKept.ite ?_ ((admitted _ _).trans (saturated _))) (admitted _ _)
  exact (((admitted _ _).trans (saturated _)).trans (recheckKept_modLane _ _ _)).trans (recheckKept_raise _ _ _)

theorem recheckKept_finishTask (s : State) (n : Nat) (w : Task) : RecheckKept s (s.finishTask n w) := by
  unfold State.finishTask
  rw [State.inc64_eq]
  exact ((recheckKept_modLane s _ _).trans (recheckKept_set _ _ _)).trans (recheckKept_perf _ _ _ _)

theorem recheckKept_offerWork (s : State) (n : Nat) (w : TaskWork) {run : State → State} (hrun : ∀ t, RecheckKept t (run t)) :
    RecheckKept s (s.offerWork n w run) := by
  have admitted := (recheckKept_modLane s n (fun l => { l with work := l.work ++ [w] })).trans (recheckKept_admitTask _ n)
  unfold State.offerWork
  dsimp only
  split
  · exact RecheckKept.ite (((admitted.trans (recheckKept_finishTask _ _ _)).trans (hrun _)).trans (recheckKept_admitTask _ _)) admitted
  · exact admitted

theorem recheckKept_checkComplete (s : State) (n ord : Nat) : RecheckKept s (s.checkComplete n ord) := by
  have partial_ : ∀ t : State, RecheckKept t (t.runPartial n ord) := fun t => by
    unfold State.runPartial
    exact RecheckKept.ite (RecheckKept.refl t) (recheckKept_sendPartial t n ord)
  unfold State.checkComplete State.duePartial
  split
  · exact RecheckKept.refl s
  · exact RecheckKept.ite (recheckKept_offerWork s n _ partial_) (RecheckKept.refl s)

theorem recheckKept_recheck (s : State) : RecheckKept s s.recheck :=
  RecheckKept.foldl _ _ (fun t n => RecheckKept.foldl _ _ (fun u o => recheckKept_checkComplete u n o) t) s

/-- With no instant pending in any lane, there is nothing to check. -/
theorem recheck_idle (h : ∀ l, l < 4 → (s.lane l).slots = []) : s.recheck = s := by
  have each : ∀ l, l < 4 → s.recheckLane l = s := fun l hl => by
    unfold State.recheckLane
    rw [h l hl]
    rfl
  unfold State.recheck
  simp only [List.range, List.range.loop, List.foldl_cons, List.foldl_nil]
  rw [each 0 (by omega), each 1 (by omega), each 2 (by omega), each 3 (by omega)]

end Sys2Proof.Machine
end

section
/-! TCP streams, and the states of streams (R197, R201, R202). -/

namespace Sys2Proof.Machine

set_option Elab.async false

variable {P : List Part} {R : List (Nat × Nat)} {L : List Nat} {s t u : State} {n p : Nat}

/-! ### What a stream is asked for on its connection -/

theorem stream_modStream (s : State) (id : Nat) (f : Stream → Stream) : (s.modStream id f).stream id = f (s.stream id) := by
  have entry : lookup id (s.modStream id f).ing.streams = some (f (s.stream id)) := lookup_insertKey ..
  unfold State.stream at entry ⊢
  rw [entry]
  rfl

theorem lane_set (s : State) (i b e : Nat) (v : Value) (l : Nat) : (s.set i b e v).lane l = s.lane l := by
  unfold State.lane
  rw [State.set_tr]

theorem tcpState_setN (s : State) (n v : Nat) : (s.setN (0x4000 + n) 0x1B v).tcpState n = v := by
  unfold State.tcpState
  rw [State.setN_eq, State.num_set]

theorem tcpState_modStream (s : State) (id : Nat) (f : Stream → Stream) (n : Nat) : (s.modStream id f).tcpState n = s.tcpState n := by
  unfold State.tcpState State.modStream
  rw [State.num_modIng]

theorem Frame.tcpState_keep (h : Frame [] [] s u) (hn : n < 4096) : u.tcpState n = s.tcpState n := by
  unfold State.tcpState
  exact h.num_low (by simp)

theorem Effect.modStream (h : Effect P R L s u) (id : Nat) (f : Stream → Stream) (m : Part.ing ∈ P) : Effect P R L s (u.modStream id f) :=
  h.modIng _ m

/-- A TCP stream whose source a port reaches that is part of no pair and honours no pause. -/
structure Reached (s : State) (n p : Nat) : Prop where
  tcp : s.isTcp n = true
  port : s.sourcePort n = some p
  alone : s.prpPairOf p = none
  unheld : s.pausing p = false

theorem isTcp_transport (h : s.isTcp n = true) : s.c (0x4000 + n) 3 = 1 := by
  simp only [State.isTcp, Bool.and_eq_true, beq_iff_eq] at h
  exact h.2

theorem isTcp_enabled (h : s.isTcp n = true) : s.ctxEnabled n = true := by
  simp only [State.isTcp, Bool.and_eq_true] at h
  exact h.1.2

theorem sourcePort_up (h : s.sourcePort n = some p) : s.portUp p = true := by
  have found := List.find?_some h
  simp only [Bool.and_eq_true] at found
  exact found.1.2

/-- A command frame on a TCP stream's connection. -/
def State.tcpAsk (s : State) (n p cmd : Nat) : Output :=
  .tcp p none (some (s.cBytes (0x4000 + n) 4, s.c (0x4000 + n) 6)) 0
    (commandFrame (s.c (0x4000 + n) 2) (s.utcNow (s.c (0x4000 + n) 0x0B)).1 (s.utcNow (s.c (0x4000 + n) 0x0B)).2 cmd)

theorem Reached.asks (h : Reached s n p) (cmd : Nat) : s.sendStreamCommand n cmd = s.leaves p (s.tcpAsk n p cmd) := by
  have tcp := isTcp_transport h.tcp
  unfold State.sendStreamCommand State.originateDecoded
  simp only [h.port, if_pos tcp, h.alone]
  exact send_leaves _ _ (sourcePort_up h.port) h.unheld

/-- A command frame leaves, and the connection's state is written. -/
def State.askTcp (s : State) (n p cmd st : Nat) : State := (s.leaves p (s.tcpAsk n p cmd)).setN (0x4000 + n) 0x1B st

theorem askTcp_effect (s : State) (cmd st : Nat) (hp : p < 6) (hn : n < 4096) (mw : Part.wire ∈ P) (m : (pCnt p, 0x16) ∈ R)
    (m2 : (0x4000 + n, 0x1B) ∈ R) : Effect P R [] s (s.askTcp n p cmd st) :=
  (leaves_effect s _ hp mw m).setLow _ _ _ _ m2

theorem askTcp_wire (s : State) (n p cmd st : Nat) : (s.askTcp n p cmd st).wire = s.wire ++ [s.tcpAsk n p cmd] := by
  unfold State.askTcp
  rw [State.setN_eq, State.set_wire, State.leaves_wire]

theorem askTcp_state (s : State) (n p cmd st : Nat) : (s.askTcp n p cmd st).tcpState n = st := tcpState_setN _ _ _

theorem Reached.start (h : Reached s n p) : s.tcpStart n = s.askTcp n p 2 3 := by
  unfold State.tcpStart State.askTcp
  rw [h.asks]

/-! ### Connections -/

section Connection

variable {P : List Part} (hset : s.settled) (hn : n < 4088)

include hset hn

theorem tcpConnect_fails (tcp : s.isTcp n = true) : Does (.tcpConnectAttempt n false) s [.ing] [(0x4000 + n, 0x1B)] [] (fun t =>
    t.tcpState n = 0 ∧ (t.stream n).tcpTick = s.raw) := by
  have closes : s.tcpConnect n false = s.tcpClosed n := by
    unfold State.tcpConnect
    rw [tcp]
    rfl
  refine Does.of_state (f := fun s => s.tcpConnect n false) rfl hset.raises closes ?_ (by simp) (fun t ht => ?_)
  · exact (Effect.start.setLow _ _ _ _ (by simp)).modStream _ _ (by simp)
  · rw [ht.tcpState_keep (by omega), ht.stream_keep (by simp)]
    unfold State.tcpClosed
    rw [tcpState_modStream, tcpState_setN, stream_modStream]
    exact ⟨rfl, rfl⟩

omit hn in
theorem tcpConnect_needless (tcp : s.isTcp n = true) (state : s.tcpState n ≠ 1) :
    Does (.tcpConnectAttempt n true) s [] [] [] (fun _ => True) := by
  refine does_nothing (f := fun s => s.tcpConnect n true) hset rfl ?_
  unfold State.tcpConnect
  rw [if_neg (by simp [tcp]), if_neg (by simp)]
  exact if_pos state

/-- A connection that asks for its configuration. -/
theorem tcpConnect_asks (h : Reached s n p) (state : s.tcpState n = 1) (request : s.cB (0x4000 + n) 0x19 = true) :
    Does (.tcpConnectAttempt n true) s [.ing, .wire] [(0x4000 + n, 0x1B), (pCnt p, 0x16)] [] (fun t => t.tcpState n = 2 ∧
      (t.stream n).tcpTick = s.raw ∧ ∃ l, t.wire = s.wire ++ s.tcpAsk n p 5 :: l) := by
  obtain ⟨v, hv⟩ : ∃ v, v = s.askTcp n p 5 2 := ⟨_, rfl⟩
  have asks : s.tcpConnect n true = v.modStream n (fun x => { x with tcpTick := s.raw, asked := some s.raw }) := by
    unfold State.tcpConnect
    rw [if_neg (by simp [h.tcp]), if_neg (by simp), if_neg (by simp [state]), if_neg (by simp [h.port]), if_pos request, h.asks, hv]
    rfl
  have effect : Effect [.ing, .wire] [(0x4000 + n, 0x1B), (pCnt p, 0x16)] [] s v := by
    rw [hv]
    exact askTcp_effect s 5 2 (sourcePort_lt h.port) (by omega) (by simp) (by simp) (by simp)
  refine Does.of_state (f := fun s => s.tcpConnect n true) rfl hset.raises asks ?_ (by simp) (fun t ht => ?_)
  · exact effect.modStream _ _ (by simp)
  · have asked : v.tcpState n = 2 := by rw [hv, askTcp_state]
    have wire : v.wire = s.wire ++ [s.tcpAsk n p 5] := by rw [hv, askTcp_wire]
    rw [ht.tcpState_keep (by omega), tcpState_modStream, ht.stream_keep (by simp), stream_modStream]
    exact ⟨asked, rfl, [], (ht.wire_keep (by simp)).trans wire⟩

/-- A command that starts the transmission of a stream. -/
theorem tcpStart_does {c : Instr} {f : State → State} (he : exec c s = complete s f) (h : Reached s n p) (starts : f s = s.tcpStart n) :
    Does c s [.ing, .wire] [(0x4000 + n, 0x1B), (pCnt p, 0x16)] [] (fun t => t.tcpState n = 3 ∧
      ∃ l, t.wire = s.wire ++ s.tcpAsk n p 2 :: l) := by
  refine Does.of_state he hset.raises (starts.trans h.start) ?_ (by simp) (fun t ht => ?_)
  · exact askTcp_effect s 2 3 (sourcePort_lt h.port) (by omega) (by simp) (by simp) (by simp)
  · exact ⟨(ht.tcpState_keep (by omega)).trans (askTcp_state s n p 2 3), [], (ht.wire_keep (by simp)).trans (askTcp_wire s n p 2 3)⟩

theorem tcpConnect_starts (h : Reached s n p) (state : s.tcpState n = 1) (request : s.cB (0x4000 + n) 0x19 = false) :
    Does (.tcpConnectAttempt n true) s [.ing, .wire] [(0x4000 + n, 0x1B), (pCnt p, 0x16)] [] (fun t => t.tcpState n = 3 ∧
      ∃ l, t.wire = s.wire ++ s.tcpAsk n p 2 :: l) := by
  refine tcpStart_does hset hn (f := fun s => s.tcpConnect n true) rfl h ?_
  unfold State.tcpConnect
  rw [if_neg (by simp [h.tcp]), if_neg (by simp), if_neg (by simp [state]), if_neg (by simp [h.port])]
  exact if_neg (by simp [request])

theorem tcpCfgWaitTimeout_starts (h : Reached s n p) (state : s.tcpState n = 2) (due : (s.stream n).tcpTick + 5 * tickSec ≤ s.raw) :
    Does (.tcpCfgWaitTimeout n) s [.ing, .wire] [(0x4000 + n, 0x1B), (pCnt p, 0x16)] [] (fun t => t.tcpState n = 3 ∧
      ∃ l, t.wire = s.wire ++ s.tcpAsk n p 2 :: l) :=
  tcpStart_does hset hn (f := fun s => s.tcpCfgTimeout n) rfl h (if_pos ⟨h.tcp, state, due⟩)

theorem tcpRetryExpiry_connects (tcp : s.isTcp n = true) (state : s.tcpState n = 0) (due : (s.stream n).tcpTick + 5 * tickSec ≤ s.raw) :
    Does (.tcpRetryExpiry n) s [] [(0x4000 + n, 0x1B)] [] (fun t => t.tcpState n = 1) := by
  have retries : s.tcpRetry n = s.setN (0x4000 + n) 0x1B 1 := if_pos ⟨tcp, state, due⟩
  refine Does.of_state (f := fun s => s.tcpRetry n) rfl hset.raises retries ?_ (by simp) (fun t ht => ?_)
  · exact Effect.start.setLow _ _ _ _ (by simp)
  · rw [ht.tcpState_keep (by omega), tcpState_setN]

end Connection

/-! ### States of streams -/

theorem setStreamState_effect (s : State) (st : Nat) (hn : n < 4096) (hp : ∀ q ∈ Part.tr :: sendParts, q ∈ P)
    (hr : ∀ r ∈ (0x4000 + n, 0x1A) :: sendRegisters, r ∈ R) : Effect P R [] s (s.setStreamState n st) := by
  have written : Effect P R [] s (s.setN (0x4000 + n) 0x1A st) := Effect.start.setLow _ _ _ _ (hr _ (by simp))
  have dropped : Effect P R [] s (if st = 2 ∨ st = 3 then s.setN (0x4000 + n) 0x1A st else (s.setN (0x4000 + n) 0x1A st).dropHeld n) :=
    Effect.ite written (written.andQuiet (dropHeld_effect _ n (hp _ (by simp))))
  have asked : ∀ t : State, Effect P R [] t (t.askConfig n) := fun t =>
    Effect.mono (askConfig_sends t n) (fun q h => hp q (List.mem_cons_of_mem _ h)) (fun r h => hr r (List.mem_cons_of_mem _ h))
  unfold State.setStreamState
  exact Effect.ite Effect.start (Effect.ite (dropped.andQuiet (asked _)) dropped)

/-- A stream's state is the one set. -/
theorem setStreamState_state (s : State) (n st : Nat) : (s.setStreamState n st).streamState n = st := by
  have written : (s.setN (0x4000 + n) 0x1A st).num (0x4000 + n) 0x1A = st := State.num_set _ _ _ _
  have dropped : (if st = 2 ∨ st = 3 then s.setN (0x4000 + n) 0x1A st else (s.setN (0x4000 + n) 0x1A st).dropHeld n).num (0x4000 + n) 0x1A
      = st := by
    split
    · exact written
    · rw [dropHeld_num, written]
  unfold State.setStreamState
  by_cases same : s.streamState n = st
  · rw [if_pos same, same]
  · rw [if_neg same]
    dsimp only
    split
    · exact ((askConfig_sends _ n).num (by omega) (streamEndRegister n)).trans dropped
    · exact dropped

/-- Setting a stream's state writes no other register of its context. -/
theorem setStreamState_num (s : State) (st : Nat) (hn : n < 4096) {b : Nat} (hb : b ≠ 0x1A) (h8 : b < 256) :
    (s.setStreamState n st).num (0x4000 + n) b = s.num (0x4000 + n) b := by
  refine (setStreamState_effect (P := Part.tr :: sendParts) (R := (0x4000 + n, 0x1A) :: sendRegisters) s st hn (fun _ h => h)
    (fun _ h => h)).frame.num_low (fun h => ?_) (by omega) h8
  rcases List.mem_cons.mp h with h | h
  · simp [hb] at h
  · have := index_of_mem_sendRegisters h
    dsimp only at this
    omega

/-- A stream that becomes SILENT: its state is written, and it has no held value. -/
theorem setStreamState_silent (h : s.streamState n ≠ 4) : s.setStreamState n 4 = (s.setN (0x4000 + n) 0x1A 4).dropHeld n := by
  unfold State.setStreamState
  rw [if_neg h]
  rfl

theorem dropHeld_slots (s : State) (id l : Nat) (h : (s.lane l).slots = []) : ((s.dropHeld id).lane l).slots = [] := by
  refine nth_map_of _ _ _ _ (fun (x : Lane) => x.slots = []) rfl ?_
  have read : (nth s.tr.lanes l ⟨0, [], [], [], [], 0, [], [], false, none⟩).slots = [] := h
  dsimp only
  rw [read]
  rfl

theorem silent_due {at_ : Nat} (accepted : (s.stream n).accepted = some at_) (enabled : s.ctxEnabled n = true)
    (state : s.streamState n = 2) (due : at_ + 2 * tickSec ≤ s.raw) : s.silent n = s.setStreamState n 4 := by
  unfold State.silent
  rw [accepted]
  exact if_pos ⟨enabled, state, due⟩

theorem streamSilentTimeout_reaches (hn : n < 4088) (silences : s.silent n = s.setStreamState n 4) :
    Reaches (.streamSilentTimeout n) s (fun t => t.streamState n = 4) := by
  refine Reaches.of_ingestKept (f := fun s => (s.silent n).recheck) rfl (fun t kept => ?_)
  have checked := (recheckKept_recheck (s.silent n)).low (0x4000 + n) 0x1A (by omega) (by omega)
  have set_ := setStreamState_state s n 4
  rw [← silences] at set_
  exact ((kept.low _ _ (by omega) (by omega)).trans checked).trans set_

theorem streamSilentTimeout_does (hset : s.settled) (hn : n < 4088) (silences : s.silent n = s.setStreamState n 4)
    (state : s.streamState n = 2) (idle : ∀ l, l < 4 → (s.lane l).slots = []) :
    Does (.streamSilentTimeout n) s [.tr] [(0x4000 + n, 0x1A)] [] (fun _ => True) := by
  have drops : (s.silent n).recheck = (s.setN (0x4000 + n) 0x1A 4).dropHeld n := by
    rw [silences, setStreamState_silent (by omega)]
    rw [State.setN_eq]
    exact recheck_idle (fun l hl => dropHeld_slots _ n l (by rw [lane_set, idle l hl]))
  refine Does.of_state (f := fun s => (s.silent n).recheck) rfl hset.raises drops ?_ (by simp) (fun _ _ => trivial)
  exact (Effect.start.setLow _ _ _ _ (by simp)).andQuiet (dropHeld_effect _ n (by simp))

/-! ### Frames of a connection -/

/-- A data frame of a stream on its connection, as long as it says. -/
structure TcpData (s : State) (n : Nat) (frame : List Byte) : Prop where
  tcp : s.isTcp n = true
  running : s.tcpState n = 3
  header : 16 ≤ frame.length
  sync : nth frame 0 0 = 0xAA
  version : field frame 1 1 = 1 ∨ field frame 1 1 = 2
  source : field frame 4 2 = s.c (0x4000 + n) 2
  size : field frame 2 2 = frame.length

section Data

variable {tdc : Nat} {frame : List Byte}

theorem TcpData.sized (h : TcpData s n frame) (p : Nat) : s.tcpFrame n p tdc frame =
    if field frame 2 2 ≠ dataFrameSize (s.c (0x4000 + n) 0x0C) (s.ctxBlocks n) then (s.inc32 (0x4000 + n) 0x1D).mismatch n
    else if crc16 (frame.take (field frame 2 2 - 2)) ≠ field frame (field frame 2 2 - 2) 2 then s.inc32 (0x4000 + n) 0x1D
    else if field frame 11 3 ≥ s.c (0x4000 + n) 0x0B then s
    else s.offerEntry ⟨n, 6, if s.locked then 0 else 2, s.rxStamp p tdc, 0, frame, 0, []⟩ := by
  obtain ⟨tcp, running, header, sync, version, source, size⟩ := h
  have good : ¬(frame.length < 16 ∨ nth frame 0 0 ≠ 0xAA ∨ field frame 1 1 ≥ 16 ∨
      (field frame 1 1 % 16 ≠ 1 ∧ field frame 1 1 % 16 ≠ 2) ∨ field frame 4 2 ≠ s.c (0x4000 + n) 2) := by
    rintro (bad | bad | bad | bad | bad)
    · omega
    · exact bad sync
    · omega
    · omega
    · exact bad source
  unfold State.tcpFrame
  rw [if_neg (by simp [tcp, running])]
  dsimp only
  rw [if_neg good, if_neg (not_not.mpr size)]

/-- The frame of another layout is counted. -/
def State.countDiscard (s : State) (n : Nat) : State :=
  s.set (0x4000 + n) 0x1D 0 (.int (State.countUp 32 (s.num (0x4000 + n) 0x1D) 1))

theorem countDiscard_discards (s : State) (n : Nat) :
    (s.countDiscard n).num (0x4000 + n) 0x1D = State.countUp 32 (s.num (0x4000 + n) 0x1D) 1 := by
  unfold State.countDiscard
  rw [State.num_set]

theorem countDiscard_effect (s : State) (hn : n < 4096) : Effect P [(0x4000 + n, 0x1D)] [] s (s.countDiscard n) :=
  Effect.start.setLow _ _ _ _ (by simp)

theorem countDiscard_state (s : State) (n : Nat) : (s.countDiscard n).streamState n = s.streamState n :=
  State.num_set_ne _ _ (by omega) (by omega) (by omega) (by omega)

theorem TcpData.mismatches (h : TcpData s n frame) (p : Nat)
    (layout : field frame 2 2 ≠ dataFrameSize (s.c (0x4000 + n) 0x0C) (s.ctxBlocks n)) :
    s.tcpFrame n p tdc frame = (s.countDiscard n).mismatch n := by
  unfold State.countDiscard
  rw [h.sized, if_pos layout, State.inc32_eq]

theorem tcpStreamFrame_mismatches (h : TcpData s n frame) (hn : n < 4088) (p : Fin 6)
    (layout : field frame 2 2 ≠ dataFrameSize (s.c (0x4000 + n) 0x0C) (s.ctxBlocks n)) (fenced : s.streamState n ≠ 6)
    (late : s.streamState n ≠ 3) : Reaches (.tcpStreamFrame n ⟨p, tdc, frame⟩) s (fun t =>
      t.streamState n = 5 ∧ t.num (0x4000 + n) 0x1D = State.countUp 32 (s.num (0x4000 + n) 0x1D) 1) := by
  have leaves : s.tcpFrame n p.val tdc frame = (s.countDiscard n).setStreamState n 5 := by
    rw [h.mismatches p.val layout]
    unfold State.mismatch
    rw [countDiscard_state, if_neg (by tauto)]
  refine Reaches.of_ingestKept (f := fun s => (s.tcpFrame n p.val tdc frame).recheck) rfl (fun t kept => ?_)
  have checked : ∀ b, b < 256 → t.num (0x4000 + n) b = ((s.countDiscard n).setStreamState n 5).num (0x4000 + n) b := fun b hb => by
    rw [← leaves]
    exact (kept.low _ _ (by omega) hb).trans ((recheckKept_recheck _).low _ _ (by omega) hb)
  refine ⟨(checked 0x1A (by omega)).trans (setStreamState_state _ n 5), ?_⟩
  rw [checked _ (by omega), setStreamState_num _ 5 (by omega) (by omega) (by omega)]
  exact countDiscard_discards s n

theorem tcpStreamFrame_counts (h : TcpData s n frame) (hset : s.settled) (hn : n < 4088) (p : Fin 6)
    (layout : field frame 2 2 ≠ dataFrameSize (s.c (0x4000 + n) 0x0C) (s.ctxBlocks n))
    (stays : s.streamState n = 6 ∨ s.streamState n = 3) (idle : ∀ l, l < 4 → (s.lane l).slots = []) :
    Does (.tcpStreamFrame n ⟨p, tdc, frame⟩) s [] [(0x4000 + n, 0x1D)] [] (fun t =>
      t.num (0x4000 + n) 0x1D = State.countUp 32 (s.num (0x4000 + n) 0x1D) 1) := by
  have leaves : (s.tcpFrame n p.val tdc frame).recheck = s.countDiscard n := by
    have kept : (s.countDiscard n).mismatch n = s.countDiscard n := by
      unfold State.mismatch
      rw [countDiscard_state]
      exact if_pos stays
    rw [h.mismatches p.val layout, kept]
    refine recheck_idle (fun l hl => ?_)
    unfold State.countDiscard
    rw [lane_set, idle l hl]
  refine Does.of_state (f := fun s => (s.tcpFrame n p.val tdc frame).recheck) rfl hset.raises leaves ?_ (by simp) (fun t ht => ?_)
  · exact countDiscard_effect s (by omega)
  · exact (ht.num_low (by simp)).trans (countDiscard_discards s n)

theorem tcpStreamFrame_takes (h : TcpData s n frame) (p : Fin 6)
    (layout : field frame 2 2 = dataFrameSize (s.c (0x4000 + n) 0x0C) (s.ctxBlocks n))
    (crc : crc16 (frame.take (field frame 2 2 - 2)) = field frame (field frame 2 2 - 2) 2) (frac : field frame 11 3 < s.c (0x4000 + n) 0x0B)
    {e : IngestEntry} (he : e = ⟨n, 6, if s.locked then 0 else 2, s.rxStamp p.val tdc, 0, frame, 0, []⟩)
    (enters : Enters s (laneOf n) e) (waiting : (s.queue (laneOf n)).waiting = []) (room : s.queueHasRoom (laneOf n) = true)
    (hw : (s.queue (laneOf n)).writeA = (s.queue (laneOf n)).writeB) (hr : (s.queue (laneOf n)).readA = (s.queue (laneOf n)).readB) :
    Reaches (.tcpStreamFrame n ⟨p, tdc, frame⟩) s (fun t => TakesEntry s t (laneOf n) e) := by
  have stream : e.stream = n := by rw [he]
  obtain ⟨full, queue⟩ := enters.queue
  obtain ⟨write, read, -⟩ := take_pointers (s.queue (laneOf n)) s.spillWords e
  have leaves : s.tcpFrame n p.val tdc frame = s.enterQueue e := by
    rw [h.sized, if_neg (not_not.mpr layout), if_neg (not_not.mpr crc), if_neg (by omega), ← he]
    unfold State.offerEntry State.writeQueue
    rw [stream, if_pos ⟨by rw [waiting]; rfl, room⟩]
    exact checkPointers_agree (by rw [queue]; exact write.mpr hw) (by rw [queue]; exact read.mpr hr)
  refine Reaches.of_ingestKept (f := fun s => (s.tcpFrame n p.val tdc frame).recheck) rfl (fun t kept => ?_)
  have checked := (kept.queue (laneOf n)).trans ((recheckKept_recheck _).queue (laneOf n))
  rw [leaves] at checked
  exact takesEntry_of_queue (checked.trans queue)

end Data

end Sys2Proof.Machine
end

section
/-! Configuration frames, autofill and the stream contexts (R197, R199–R202). -/

namespace Sys2Proof.Machine

set_option Elab.async false

variable {P : List Part} {R : List (Nat × Nat)} {L : List Nat} {s t u : State} {n : Nat}

/-! ### Values that the device commits by itself -/

theorem setAll_get_ne {k : Nat} (l : List (Nat × Value)) (st : Store) (h : ∀ e ∈ l, e.1 ≠ k) : (Store.setAll st l).get k = st.get k := by
  induction l generalizing st with
  | nil => rfl
  | cons e rest ih =>
    have first : (st.set e.1 e.2).get k = st.get k := Store.get_set_ne st e.2 (h e (by simp)).symm
    exact (ih _ (fun x hx => h x (by simp [hx]))).trans first

theorem setConfig_effect (s : State) (i b : Nat) (l : List (Nat × Value)) (mc : Part.cfg ∈ P) (ms : Part.staged ∈ P) :
    Effect P R [] s (s.setConfig i b l) := by
  refine ⟨⟨fun q hq => ?_, fun _ _ _ _ _ _ _ => rfl, rfl⟩, fun _ _ => rfl, (List.append_nil _).symm⟩
  cases q
  case cfg => exact absurd mc hq
  case staged => exact absurd ms hq
  all_goals simp [Part.same, State.setConfig]

/-- An element of an object that is not written keeps its committed and its staged value. -/
theorem setConfig_keeps (s : State) {i b k : Nat} (l : List (Nat × Value)) (h : ∀ e ∈ l, okey i b e.1 ≠ k) :
    (s.setConfig i b l).cfg.get k = s.cfg.get k ∧ (s.setConfig i b l).staged.get k = s.staged.get k := by
  have other : ∀ st : Store, (st.setAll (l.map (fun e => (okey i b e.1, e.2)))).get k = st.get k := fun st => by
    refine setAll_get_ne _ st (fun e he => ?_)
    obtain ⟨x, hx, rfl⟩ := List.mem_map.mp he
    exact h x hx
  unfold State.setConfig
  refine ⟨other _, ?_⟩
  dsimp only
  split
  · exact other _
  · rfl

/-- The staged value of an object follows the committed one where the two were equal. -/
theorem setConfig_staged (s : State) (i b : Nat) (v : Value) : (s.setConfig i b [(0, v)]).staged.get (okey i b 0) =
    if objectBytes s.staged i b = objectBytes s.cfg i b then v else s.staged.get (okey i b 0) := by
  unfold State.setConfig
  simp only [beq_iff_eq]
  split
  · exact Store.get_set _ _ _
  · rfl

/-- Objects of an index, written one after the other. -/
def State.fillObjects (s : State) (i : Nat) (l : List (Nat × List (Nat × Value))) : State := l.foldl (fun t x => t.setConfig i x.1 x.2) s

theorem fillObjects_effect (s : State) (i : Nat) (l : List (Nat × List (Nat × Value))) (mc : Part.cfg ∈ P) (ms : Part.staged ∈ P) :
    Effect P R [] s (s.fillObjects i l) := Effect.foldl _ l (fun t x _ => setConfig_effect t i x.1 x.2 mc ms) s

/-- Subindices and elements lie in their ranges. -/
def Placed (l : List (Nat × List (Nat × Value))) : Prop := ∀ x ∈ l, x.1 < 256 ∧ ∀ e ∈ x.2, e.1 < 65536

theorem fillObjects_keeps (s : State) {i b : Nat} (l : List (Nat × List (Nat × Value))) (hl : Placed l) (hb : b < 256)
    (h : ∀ x ∈ l, x.1 ≠ b) : (s.fillObjects i l).cfg.get (okey i b 0) = s.cfg.get (okey i b 0) ∧
      (s.fillObjects i l).staged.get (okey i b 0) = s.staged.get (okey i b 0) := by
  induction l generalizing s with
  | nil => exact ⟨rfl, rfl⟩
  | cons x rest ih =>
    obtain ⟨hx, he⟩ := hl x (by simp)
    have apart : ∀ e ∈ x.2, okey i x.1 e.1 ≠ okey i b 0 := fun e hm =>
      okey_ne hx (he e hm) hb (by omega) (fun k => h x (by simp) k.2.1)
    obtain ⟨cfg, staged⟩ := ih (s.setConfig i x.1 x.2) (fun y hy => hl y (by simp [hy])) (fun y hy => h y (by simp [hy]))
    obtain ⟨cfg', staged'⟩ := setConfig_keeps s x.2 apart
    exact ⟨cfg.trans cfg', staged.trans staged'⟩

/-- An object of one value holds it after the objects of different subindices have been written. -/
theorem fillObjects_value (s : State) {i b : Nat} {v : Value} (l : List (Nat × List (Nat × Value))) (hl : Placed l)
    (hn : (l.map Prod.fst).Nodup) (hm : (b, [(0, v)]) ∈ l) : (s.fillObjects i l).cfg.get (okey i b 0) = v := by
  induction l generalizing s with
  | nil => cases hm
  | cons x rest ih =>
    rw [List.map_cons, List.nodup_cons] at hn
    have tail : Placed rest := fun y hy => hl y (List.mem_cons_of_mem _ hy)
    rcases List.mem_cons.mp hm with rfl | hm
    · have apart : ∀ y ∈ rest, y.1 ≠ b := fun y hy e => hn.1 (List.mem_map.mpr ⟨y, hy, e⟩)
      refine ((fillObjects_keeps (s.setConfig i b [(0, v)]) rest tail (hl _ List.mem_cons_self).1 apart).1).trans ?_
      exact Store.get_set _ _ _
    · exact ih _ tail hn.2 hm

/-! ### The layout of a configuration frame -/

/-- What autofill writes in subindices 0A–12 of a context (R199). -/
def layoutValues (f : CfgFrame) : List (Nat × List (Nat × Value)) :=
  [(0x0A, [(0, .int f.rate)]), (0x0B, [(0, vNat f.timeBase)]), (0x0C, [(0, vNat (f.format % 16))]), (0x0D, [(0, vNat f.blocks.length)]),
   (0x0E, [(0, .bytes (f.blocks.flatMap (fun b => [byte b.1, byte b.2.1, byte b.2.2])))]),
   (0x0F, [(0, vNat (bitsOfList (f.currents.take 32)))]),
   (0x10, (List.range 32).map (fun n =>
     (n, .bytes (beBytes 4 (if n < (f.blocks.map (·.1)).sum then (f.phFactor n).nat else 0x3F800000))))),
   (0x11, (List.range 8).map (fun n =>
     (n, .bytes (beBytes 4 (if n < (f.blocks.map (·.2.1)).sum then (f.anFactor n).nat else 0x3F800000))))),
   (0x12, [(0, vNat f.fnom)])]

theorem layoutValues_subs (f : CfgFrame) : (layoutValues f).map Prod.fst = [0x0A, 0x0B, 0x0C, 0x0D, 0x0E, 0x0F, 0x10, 0x11, 0x12] := rfl

theorem layoutValues_placed (f : CfgFrame) : Placed (layoutValues f) := by
  have small : ∀ (k : Nat) (g : Nat → Nat × Value), (∀ m, (g m).1 = m) → k < 65536 → ∀ e ∈ (List.range k).map g, e.1 < 65536 :=
      fun k g hg hk e he => by
    obtain ⟨m, hm, rfl⟩ := List.mem_map.mp he
    rw [hg]
    exact (List.mem_range.mp hm).trans hk
  have one : ∀ v : Value, ∀ e ∈ [((0 : Nat), v)], e.1 < 65536 := fun v e he => by
    rw [List.mem_singleton.mp he]
    exact Nat.zero_lt_succ _
  intro x hx
  simp only [layoutValues, List.mem_cons, List.not_mem_nil, or_false] at hx
  rcases hx with rfl | rfl | rfl | rfl | rfl | rfl | rfl | rfl | rfl
  case inr.inr.inr.inr.inr.inr.inl =>
    dsimp only
    exact ⟨by simp, small 32 _ (fun _ => rfl) (by omega)⟩
  case inr.inr.inr.inr.inr.inr.inr.inl =>
    dsimp only
    exact ⟨by simp, small 8 _ (fun _ => rfl) (by omega)⟩
  all_goals exact ⟨by simp, one _⟩

/-- A context with a layout filled in, before its state follows. -/
def State.filled (s : State) (n : Nat) (f : CfgFrame) : State :=
  (((s.fillObjects (0x4000 + n) (layoutValues f)).inc32 (0x4000 + n) 0x21).refreshCrc).showTcpRate

theorem autofill_eq (s : State) (n : Nat) (f : CfgFrame) :
    s.autofill n f = if (s.filled n f).streamState n = 5 then (s.filled n f).setStreamState n 1 else s.filled n f := rfl

theorem filled_cfg (s : State) (n : Nat) (f : CfgFrame) : (s.filled n f).cfg = (s.fillObjects (0x4000 + n) (layoutValues f)).cfg := by
  unfold State.filled State.showTcpRate State.refreshCrc
  simp only [State.setN_eq, State.inc32_eq, State.set_cfg]

theorem filled_staged (s : State) (n : Nat) (f : CfgFrame) :
    (s.filled n f).staged = (s.fillObjects (0x4000 + n) (layoutValues f)).staged := by
  unfold State.filled State.showTcpRate State.refreshCrc
  simp only [State.setN_eq, State.inc32_eq, State.set_staged]

/-- The registers that autofill writes: AUTOFILLS, CONFIG_CRC and TCP_RATE. -/
def fillRegisters (n : Nat) : List (Nat × Nat) := [(0x4000 + n, 0x21), (0x1200, 0x05), (0x4000, 0x03)]

theorem filled_effect (s : State) (f : CfgFrame) (hn : n < 4096) (mc : Part.cfg ∈ P) (ms : Part.staged ∈ P)
    (hr : ∀ r ∈ fillRegisters n, r ∈ R) : Effect P R [] s (s.filled n f) := by
  unfold State.filled State.showTcpRate State.refreshCrc
  simp only [State.setN_eq, State.inc32_eq]
  exact (((fillObjects_effect s _ _ mc ms).setLow _ _ _ _ (hr _ (by simp [fillRegisters]))).setLow _ _ _ _
    (hr _ (by simp [fillRegisters]))).setLow _ _ _ _ (hr _ (by simp [fillRegisters]))

theorem filled_count (s : State) (f : CfgFrame) (hn : 1 ≤ n) :
    (s.filled n f).num (0x4000 + n) 0x21 = State.countUp 32 (s.num (0x4000 + n) 0x21) 1 := by
  have kept : (s.fillObjects (0x4000 + n) (layoutValues f)).num (0x4000 + n) 0x21 = s.num (0x4000 + n) 0x21 :=
    (fillObjects_effect (P := [.cfg, .staged]) (R := []) s _ _ (by simp) (by simp)).frame.num_keep (by simp) (by simp [endRegister])
  unfold State.filled State.showTcpRate State.refreshCrc
  rw [State.setN_eq, State.num_set_ne _ _ (by omega) (by omega) (by omega) (by omega), State.setN_eq,
    State.num_set_ne _ _ (by omega) (by omega) (by omega) (by omega), State.inc32_eq, State.num_set, kept]

theorem filled_state (s : State) (f : CfgFrame) (hn : n < 4096) : (s.filled n f).streamState n = s.streamState n := by
  refine (filled_effect (P := [.cfg, .staged]) (R := fillRegisters n) s f hn (by simp) (by simp) (fun _ h => h)).frame.num_low ?_ (by omega)
  simp [fillRegisters]

/-- After autofill the committed and the staged configuration are those of the layout filled in. -/
theorem autofill_cfg (s : State) (f : CfgFrame) (hn : n < 4096) :
    (s.autofill n f).cfg = (s.filled n f).cfg ∧ (s.autofill n f).staged = (s.filled n f).staged := by
  rw [autofill_eq]
  split
  · have frame := (setStreamState_effect (P := Part.tr :: sendParts) (R := (0x4000 + n, 0x1A) :: sendRegisters) (s.filled n f) 1 hn
      (fun _ h => h) (fun _ h => h)).frame
    exact ⟨frame.cfg_keep (by simp [sendParts]), frame.parts .staged (by simp [sendParts])⟩
  · exact ⟨rfl, rfl⟩

theorem autofill_value (s : State) {f : CfgFrame} (hn : n < 4096) {b : Nat} {v : Value} (hm : (b, [(0, v)]) ∈ layoutValues f) :
    (s.autofill n f).cfg.get (okey (0x4000 + n) b 0) = v := by
  rw [(autofill_cfg s f hn).1, filled_cfg]
  exact fillObjects_value s _ (layoutValues_placed f) (by rw [layoutValues_subs]; decide) hm

/-- Autofill leaves the subindices below 0A of a context. -/
theorem autofill_keeps (s : State) (f : CfgFrame) (hn : n < 4096) {b : Nat} (hb : b < 0x0A) :
    (s.autofill n f).cfg.get (okey (0x4000 + n) b 0) = s.cfg.get (okey (0x4000 + n) b 0) := by
  rw [(autofill_cfg s f hn).1, filled_cfg]
  refine (fillObjects_keeps s _ (layoutValues_placed f) (by omega) (fun x hx => ?_)).1
  have sub := List.mem_map_of_mem (f := Prod.fst) hx
  rw [layoutValues_subs] at sub
  simp only [List.mem_cons, List.not_mem_nil, or_false] at sub
  omega

/-- The staged DATA_RATE is the frame's where it equalled the committed one, and stays as it was elsewhere. -/
theorem autofill_staged (s : State) (f : CfgFrame) (hn : n < 4096) :
    (s.autofill n f).staged.get (okey (0x4000 + n) 0x0A 0) =
      if objectBytes s.staged (0x4000 + n) 0x0A = objectBytes s.cfg (0x4000 + n) 0x0A then .int f.rate
      else s.staged.get (okey (0x4000 + n) 0x0A 0) := by
  obtain ⟨rest, hrest⟩ : ∃ rest, rest = (layoutValues f).tail := ⟨_, rfl⟩
  have split_ : layoutValues f = (0x0A, [(0, .int f.rate)]) :: rest := by rw [hrest]; rfl
  have placed : Placed rest := fun x hx => layoutValues_placed f x (by rw [split_]; exact List.mem_cons_of_mem _ hx)
  have apart : ∀ x ∈ rest, x.1 ≠ 0x0A := fun x hx e => by
    have nodup : ((layoutValues f).map Prod.fst).Nodup := by rw [layoutValues_subs]; decide
    rw [split_, List.map_cons, List.nodup_cons] at nodup
    exact nodup.1 (List.mem_map.mpr ⟨x, hx, e⟩)
  rw [(autofill_cfg s f hn).2, filled_staged, split_]
  exact ((fillObjects_keeps _ rest placed (by omega) apart).2).trans (setConfig_staged s _ _ _)

theorem autofill_effect (s : State) (f : CfgFrame) (hn : n < 4096) :
    Effect (.cfg :: .staged :: .tr :: sendParts) (fillRegisters n ++ (0x4000 + n, 0x1A) :: sendRegisters) [] s (s.autofill n f) := by
  have filled : Effect (.cfg :: .staged :: .tr :: sendParts) (fillRegisters n ++ (0x4000 + n, 0x1A) :: sendRegisters) [] s (s.filled n f) :=
    filled_effect s f hn (by simp) (by simp) (fun r hr => List.mem_append_left _ hr)
  rw [autofill_eq]
  refine Effect.ite (filled.andQuiet (setStreamState_effect _ 1 hn (fun q hq => ?_) (fun r hr => List.mem_append_right _ hr))) filled
  exact List.mem_cons_of_mem _ (List.mem_cons_of_mem _ hq)

theorem autofill_count (s : State) (f : CfgFrame) (h1 : 1 ≤ n) (hn : n < 4096) :
    (s.autofill n f).num (0x4000 + n) 0x21 = State.countUp 32 (s.num (0x4000 + n) 0x21) 1 := by
  rw [autofill_eq]
  split
  · rw [setStreamState_num _ 1 hn (by omega) (by omega), filled_count s f h1]
  · exact filled_count s f h1

theorem autofill_waits (s : State) (f : CfgFrame) (hn : n < 4096) (h : s.streamState n = 5) : (s.autofill n f).streamState n = 1 := by
  rw [autofill_eq, if_pos (by rw [filled_state s f hn, h])]
  exact setStreamState_state _ n 1

/-! ### A configuration frame -/

/-- The frame's layout joins those that wait for a transit boundary, in place of an earlier one of its stream. -/
def State.keepLayout (s : State) (n : Nat) (f : CfgFrame) : State :=
  s.modIng (fun i => { i with autofills := i.autofills.filter (fun x => x.1 != n) ++ [(n, f)] })

theorem autofillNow_none (h : s.ing.autofills = []) : s.autofillNow = s := by
  have same : ({ s.ing with autofills := [] } : Ingest) = s.ing := by rw [← h]
  unfold State.autofillNow State.modIng
  dsimp only
  rw [same, h]
  rfl

/-- Without transits, the one layout that waits is filled in at once. -/
theorem autofillNow_one {f : CfgFrame} (one : s.ing.autofills = [(n, f)]) (enabled : s.ctxEnabled n = true)
    (auto : s.cB (0x4000 + n) 0x18 = true) : s.autofillNow = (s.modIng (fun i => { i with autofills := [] })).autofill n f := by
  unfold State.autofillNow
  rw [one]
  exact if_pos ⟨enabled, auto⟩

section Frame

variable {f : CfgFrame}

/-- A frame of an enabled stream that is not on a TCP connection: its layout is kept, or not, and what waits is filled in, or not. -/
theorem cfgReceive_udp {w v : State} (h1 : 1 ≤ n) (hn : n < 4088) (enabled : s.ctxEnabled n = true)
    (kept : (if s.cB (0x4000 + n) 0x18 = true ∧ f.usable = true then s.keepLayout n f else s) = w)
    (now : (if w.transitsRun = true then w else w.autofillNow) = v) (udp : v.c (0x4000 + n) 3 ≠ 1) : s.cfgReceive n f = v := by
  unfold State.keepLayout at kept
  subst kept now
  unfold State.cfgReceive
  rw [if_neg (by simp [enabled]; omega)]
  exact if_neg (fun h => udp h.1)

theorem keepLayout_run (s : State) (n : Nat) (f : CfgFrame) : (s.keepLayout n f).transitsRun = s.transitsRun := by
  unfold State.keepLayout State.transitsRun
  simp only [State.modIng_tr, State.num_modIng, State.modIng_boot]

theorem cfgReceive_kept (h1 : 1 ≤ n) (hn : n < 4088) (enabled : s.ctxEnabled n = true) (auto : s.cB (0x4000 + n) 0x18 = true)
    (usable : f.usable = true) (udp : s.c (0x4000 + n) 3 ≠ 1) (running : s.transitsRun = true) : s.cfgReceive n f = s.keepLayout n f := by
  refine cfgReceive_udp h1 hn enabled (if_pos ⟨auto, usable⟩) (if_pos ((keepLayout_run s n f).trans running)) ?_
  unfold State.keepLayout State.c State.cI State.cValue
  rw [State.modIng_cfg]
  exact udp

theorem cfgReceive_fills (h1 : 1 ≤ n) (hn : n < 4088) (enabled : s.ctxEnabled n = true) (auto : s.cB (0x4000 + n) 0x18 = true)
    (usable : f.usable = true) (udp : s.c (0x4000 + n) 3 ≠ 1) (idle : s.transitsRun = false) (none_ : s.ing.autofills = []) :
    s.cfgReceive n f = ((s.keepLayout n f).modIng (fun i => { i with autofills := [] })).autofill n f := by
  have one : (s.keepLayout n f).ing.autofills = [(n, f)] := by
    unfold State.keepLayout
    rw [State.modIng_ing, none_]
    rfl
  have stays : ¬(s.keepLayout n f).transitsRun = true := by simp [keepLayout_run, idle]
  refine cfgReceive_udp h1 hn enabled (if_pos ⟨auto, usable⟩) ((if_neg stays).trans (autofillNow_one one enabled auto)) ?_
  unfold State.c State.cI State.cValue
  rw [autofill_keeps _ f (by omega) (by omega)]
  exact udp

theorem cfgReceive_ignored (h1 : 1 ≤ n) (hn : n < 4088) (h : s.ctxEnabled n = false ∨
    s.ing.autofills = [] ∧ (s.cB (0x4000 + n) 0x18 = false ∨ f.usable = false) ∧ s.c (0x4000 + n) 3 ≠ 1) : s.cfgReceive n f = s := by
  by_cases enabled : s.ctxEnabled n = true
  · obtain ⟨none_, unfit, udp⟩ := h.resolve_left (by simp [enabled])
    refine cfgReceive_udp h1 hn enabled (if_neg ?_) ?_ udp
    · rcases unfit with unfit | unfit <;> simp [unfit]
    · rw [autofillNow_none none_, ite_self]
  · exact if_pos (by simp [enabled])

end Frame

/-! ### Stream contexts -/

theorem cfgFrameReceive_keeps {f : CfgFrame} (hset : s.settled) (kept : s.cfgReceive n f = s.keepLayout n f) :
    Does (.cfgFrameReceive n f) s [.ing] [] [] (fun t =>
      t.ing.autofills = s.ing.autofills.filter (fun y => y.1 != n) ++ [(n, f)]) := by
  refine Does.of_state (f := fun s => s.cfgReceive n f) rfl hset.raises kept ?_ (by simp) (fun t ht => ?_)
  · exact Effect.start.modIng _ (by simp)
  · have core : t.ing.core = (s.keepLayout n f).ing.core := ht.part .ing
    exact (congrArg Ingest.autofills core :)

theorem cfgFrameReceive_fills {f : CfgFrame} (hset : s.settled) (h1 : 1 ≤ n) (hn : n < 4088)
    (fills : s.cfgReceive n f = ((s.keepLayout n f).modIng (fun i => { i with autofills := [] })).autofill n f) :
    Reaches (.cfgFrameReceive n f) s (fun t =>
      t.cI (0x4000 + n) 0x0A = f.rate ∧ t.c (0x4000 + n) 0x0B = f.timeBase ∧ t.c (0x4000 + n) 0x0C = f.format % 16 ∧
      t.c (0x4000 + n) 0x0D = f.blocks.length ∧ t.c (0x4000 + n) 0x12 = f.fnom ∧
      t.num (0x4000 + n) 0x21 = State.countUp 32 (s.num (0x4000 + n) 0x21) 1 ∧
      (objectBytes s.staged (0x4000 + n) 0x0A = objectBytes s.cfg (0x4000 + n) 0x0A →
        t.staged.get (okey (0x4000 + n) 0x0A 0) = t.cfg.get (okey (0x4000 + n) 0x0A 0)) ∧
      (objectBytes s.staged (0x4000 + n) 0x0A ≠ objectBytes s.cfg (0x4000 + n) 0x0A →
        t.staged.get (okey (0x4000 + n) 0x0A 0) = s.staged.get (okey (0x4000 + n) 0x0A 0)) ∧
      (s.streamState n = 5 → t.streamState n = 1)) := by
  have hn' : n < 4096 := by omega
  obtain ⟨v, hv⟩ : ∃ v, v = (s.keepLayout n f).modIng (fun i => { i with autofills := [] }) := ⟨_, rfl⟩
  have cfg : v.cfg = s.cfg := by rw [hv]; rfl
  have staged : v.staged = s.staged := by rw [hv]; rfl
  have num : ∀ i b, v.num i b = s.num i b := fun i b => by rw [hv]; rfl
  have before : Effect (.cfg :: .staged :: .tr :: sendParts) (fillRegisters n ++ (0x4000 + n, 0x1A) :: sendRegisters) [] s v := by
    rw [hv]
    exact (Effect.start.modIng _ (by simp [sendParts])).modIng _ (by simp [sendParts])
  rw [← hv] at fills
  refine Reaches.of_does (Does.of_state (f := fun s => s.cfgReceive n f) rfl hset.raises fills
    (before.andQuiet (autofill_effect v f hn')) (by simp) (fun t ht => ?_))
  have value : ∀ {b : Nat} {x : Value}, (b, [(0, x)]) ∈ layoutValues f → t.cfg.get (okey (0x4000 + n) b 0) = x := fun hm => by
    rw [ht.cfg_keep (by simp)]
    exact autofill_value v hn' hm
  have follow := autofill_staged v f hn'
  rw [cfg, staged, ← (ht.parts .staged (by simp) : t.staged = _)] at follow
  have number : ∀ {b k : Nat}, (b, [(0, vNat k)]) ∈ layoutValues f → t.c (0x4000 + n) b = k := fun hm => by
    unfold State.c State.cI State.cValue
    rw [value hm]
    rfl
  have rate : t.cfg.get (okey (0x4000 + n) 0x0A 0) = .int f.rate := value (by simp [layoutValues])
  refine ⟨?_, number (by simp [layoutValues]), number (by simp [layoutValues]), number (by simp [layoutValues]),
    number (by simp [layoutValues]), ?_, fun same => ?_, fun differ => ?_, fun lost => ?_⟩
  · unfold State.cI State.cValue
    rw [rate]
    rfl
  · rw [ht.num_low (by simp), autofill_count v f h1 hn', num]
  · rw [follow, if_pos same, rate]
  · rw [follow, if_neg differ]
  · exact (ht.num_low (by simp)).trans (autofill_waits v f hn' ((num _ _).trans lost))

/-- Settles O32: configuration frames by what becomes of their layout, TCP streams by their states and frames, and the stream that falls
silent. -/
theorem streamContextsFollowTheirSources : Obligations.StreamContextsFollowTheirSources := by
  intro n i s hset h1 hn hi
  subst hi
  refine ⟨fun cfg enabled auto usable udp => ⟨fun running => ?_, fun idle none_ => ?_⟩, fun cfg ignored => ?_, fun tcp => ?_,
    fun at_ accepted enabled state due => ?_⟩
  · exact cfgFrameReceive_keeps hset (cfgReceive_kept h1 hn enabled auto usable udp running)
  · exact cfgFrameReceive_fills hset h1 hn (cfgReceive_fills h1 hn enabled auto usable udp idle none_)
  · exact does_nothing (f := fun s => s.cfgReceive n cfg) hset rfl (cfgReceive_ignored h1 hn ignored)
  · refine ⟨tcpConnect_fails hset hn tcp, tcpConnect_needless hset tcp, ?_, tcpRetryExpiry_connects hset hn tcp, ?_⟩
    · intro p asks port alone unheld hasks
      have reached : Reached s n p := ⟨tcp, port, alone, unheld⟩
      simp only [hasks]
      exact ⟨tcpConnect_asks hset hn reached, tcpConnect_starts hset hn reached, tcpCfgWaitTimeout_starts hset hn reached⟩
    · intro p tdc frame running header sync version source size
      have data : TcpData s n frame := ⟨tcp, running, header, sync, version, source, size⟩
      refine ⟨fun layout => ⟨fun fenced late => tcpStreamFrame_mismatches data hn p layout fenced late,
        fun stays idle => tcpStreamFrame_counts data hset hn p layout stays idle⟩, ?_⟩
      intro layout crc frac e he waiting room live hlen hw hr
      have enters : Enters s (laneOf n) e := ⟨by rw [he], by unfold laneOf; omega, hlen, by rw [he]; simp,
        by rw [he]; exact isTcp_enabled tcp, live⟩
      exact tcpStreamFrame_takes data p layout crc frac he enters waiting room hw hr
  · have silences := silent_due accepted enabled state due
    exact ⟨streamSilentTimeout_reaches hn silences, streamSilentTimeout_does hset hn silences state⟩

end Sys2Proof.Machine
end
